-- ==== Sys2Proof/Word.lean ====
section
/-! DEFINITION. The word types of the Ocgus: bytes, 32-bit words, 64-bit registers and the 48-bit
program counter (spec/00_scope.md, spec/03_sequencer_and_programs.md). -/

namespace Sys2Proof

/-- One byte of any of the part's memories. -/
abbrev Byte := BitVec 8

/-- A 32-bit word: a Wewald instruction, a control register of 4 bytes, an FP32 encoding. -/
abbrev W32 := BitVec 32

/-- A 64-bit word: an integer register, a floating-point register, a 64-bit control register. -/
abbrev W64 := BitVec 64

/-- A program counter: a 48-bit context address (R95). -/
abbrev Pc := BitVec 48

end Sys2Proof
end

