-- ==== Sys2Proof/Syntax.lean ====
section
/-! DEFINITION. The commands of the block, one constructor of `Instr` per row of
spec/opcode_table.json, and before them the operand types: the Wewald instruction words that a
sequencer commits (spec/04, spec/05), the slots, units and packets a command names. -/

namespace Sys2Proof

/-! ### Wewald instructions (Tables 4.2 to 4.11, 5.1, 5.2) -/

/-- A register number, 0 to 31. -/
abbrev Reg := BitVec 5

/-- Integer register operations (Table 4.5), in FN order. -/
inductive IntOp where
  | add | sub | and | or | xor | andn | sll | srl | sra | ror | slt | sltu | seq
  | min | max | minu | maxu | mul | mulh | mulhu | clz | ctz | popc
  deriving DecidableEq, Repr

/-- Integer immediate operations (Table 4.6), in OP order. -/
inductive ImmOp where
  | addi | andi | ori | xori | slti | sltiu | seqi | slli | srli | srai | rori
  deriving DecidableEq, Repr

/-- Branch conditions (Table 4.8), in OP order. -/
inductive Cond where
  | beq | bne | blt | bge | bltu | bgeu
  deriving DecidableEq, Repr

/-- Local-store loads (Table 4.9), in OP order. -/
inductive LoadOp where
  | ldb | ldbu | ldh | ldhu | ldw | ldwu | ldd | fldw | fldd
  deriving DecidableEq, Repr

/-- Local-store stores (Table 4.9), in OP order. -/
inductive StoreOp where
  | stb | sth | stw | std | fstw | fstd
  deriving DecidableEq, Repr

/-- Scalar floating-point operations of Table 4.10 other than DIVD and SQRTD, in FN order. -/
inductive FpOp where
  | fadd | fsub | fmul | fmin | fmax | fabs | fneg | fmov | feq | flt | fle | fmvg | fmvf
  deriving DecidableEq, Repr

/-- The commands that name a 32-byte operand block in local store (Tables 5.2 and 5.4). -/
inductive BlockOp where
  | accwb | sload | sstore | gpool | xop | cmpr | scadd | mlayer | solve | cmaint
  | rread | wwrite | barr
  deriving DecidableEq, Repr

/-- A Wewald instruction: one constructor per format and major opcode, its fields as encoded. -/
inductive Wew where
  | int (op : IntOp) (rd ra rb : Reg)
  | imm (op : ImmOp) (rd ra : Reg) (imm : BitVec 16)
  | seth (rd : Reg) (hw : BitVec 2) (imm : BitVec 16)
  | puth (rd : Reg) (hw : BitVec 2) (imm : BitVec 16)
  | branch (c : Cond) (ra rb : Reg) (h : Bool) (off : BitVec 15)
  | jal (rd : Reg) (off : BitVec 21)
  | jalr (rd ra : Reg) (imm : BitVec 16)
  | load (op : LoadOp) (rd ra : Reg) (imm : BitVec 16)
  | store (op : StoreOp) (rs ra : Reg) (imm : BitVec 16)
  | mfsr (rd : Reg) (sr : BitVec 8)
  | mtsr (ra : Reg) (sr : BitVec 8)
  | trap (imm : BitVec 16)
  | brk
  | stop
  | fp (op : FpOp) (double : Bool) (rd ra rb : Reg)
  | divd (rd ra rb : Reg)
  | sqrtd (rd ra : Reg)
  | fma (double : Bool) (rd ra rb rc : Reg)
  | fcvtx (rd ra : Reg) (fmt : BitVec 4) (rm : BitVec 2) (sat : Bool)
  | fcvtf (rd ra : Reg) (fmt : BitVec 4)
  | fcvtLD (rd ra : Reg) (rm : BitVec 2) (sat : Bool)
  | fcvtDL (rd ra : Reg) (rm : BitVec 2)
  | fcvtSD (rd ra : Reg) (rm : BitVec 2) (sat : Bool)
  | fcvtDS (rd ra : Reg)
  | tdef (ra : Reg) (x : BitVec 6)
  | seed (ra : Reg)
  | azero (rd : Reg) (k : BitVec 4)
  | block (op : BlockOp) (rd ra : Reg)
  | lend
  | pfetch (ra rb : Reg)
  | psend (rd ra rb : Reg) (x : BitVec 6)
  | precv (rd ra : Reg)
  | twait (ra : Reg)
  | wait (rd ra : Reg)
  | stat (rd ra : Reg)
  | waitall
  deriving DecidableEq, Repr


/-! ### Units and packets -/

/-- The two slots of a core (R120). -/
inductive SlotId where
  | bulk | express
  deriving DecidableEq, Repr

/-- A slot of a logical core. -/
structure At where
  core : Fin 160
  slot : SlotId
  deriving DecidableEq, Repr

/-- The operation arguments of Table 13.8, each used by the operations that name it. -/
structure PktArgs where
  window : Nat := 0
  offset : Nat := 0
  count : Nat := 0
  table : Nat := 0
  shard : Nat := 0
  mode : Nat := 0
  fmt : Nat := 0
  bag : Nat := 0
  piece : Nat := 0
  pieces : Nat := 0
  npart : Nat := 0
  reason : Nat := 0
  core : Nat := 0
  slot : Nat := 0
  dim : Nat := 0
  link : Nat := 0
  state : Nat := 0
  /-- RSTEP of the table (R286). -/
  rstep : Nat := 0
  /-- Announce fields of a Time packet (R552). -/
  master : Nat := 0
  hops : Nat := 0
  aseq : Nat := 0
  stepped : Bool := false
  /-- Format flags that a home pooler raised (R282). -/
  flags : BitVec 8 := 0
  deriving DecidableEq, Repr

/-- A fabric packet: the header of Table 13.7, its arguments and its data bytes. -/
structure Packet where
  op : Nat
  x : Bool := false
  exm : Bool := false
  cmb : Bool := false
  rev : Nat := 0
  dst : Nat := 0
  src : Nat := 0
  dir : Nat := 0
  ctx : Nat := 0
  handle : Nat := 0
  core : Nat := 0
  slot : Nat := 0
  key : Nat := 0
  args : PktArgs := {}
  data : List Byte := []
  /-- Poison of the 16-byte words of the data; an unlisted word is not poisoned. -/
  poison : List Bool := []
  deriving DecidableEq, Repr

/-- The completion status a host read returns (R442, R482). -/
inductive HostReply where
  | data (bytes : List Byte) (poisoned : Bool)
  | unsupported
  | aborted
  deriving DecidableEq, Repr

/-- Who misses a segment lookaside: an instruction fetch, or the command under a tag. -/
inductive MissBy where
  | fetch (a : At)
  | command (tag : Fin 4096)
  deriving DecidableEq, Repr

/-- A parcel to deliver: that of a PSEND, or that of a host parcel port. -/
inductive ParcelRef where
  | psend (tag : Fin 4096)
  | port (ctx : Fin 64) (port : Fin 8)
  deriving DecidableEq, Repr

/-- The result of a PRI Page Request Group Response (R444). -/
inductive PrgCode where
  | success | invalid | failure
  deriving DecidableEq, Repr

/-- A host read that received no completion in time (R480). -/
inductive TimedOut where
  /-- A line read. -/
  | line (id : Nat)
  /-- A read of the Dispatcher's commands of a queue. -/
  | queue (ctx : Fin 64) (q : Fin 8)
  /-- The host read of a LOAD or COPY, by the Dispatcher's number. -/
  | transfer (cmd : Nat)
  /-- A mirror entry of the SEG_SYNC at the Points processor. -/
  | mirror (seg : Fin 16)
  /-- A weight line of an instance. -/
  | weights (ctx : Fin 64) (layer : BitVec 16)
  deriving DecidableEq, Repr

/-! ### Kamup flits (spec/13, spec/14) -/

/-- What every flit carries beside its payload (Table 13.2). -/
structure FlitHead where
  seq : BitVec 16
  /-- ACK, when it is valid. -/
  ack : Option (BitVec 16)
  nak : Bool
  /-- Credits returned, 4 bits for each class. -/
  crd : BitVec 32
  deriving DecidableEq, Repr

/-- A HELLO payload (R513). -/
structure Hello where
  self : BitVec 10
  port : BitVec 8
  dir : BitVec 8
  lane : BitVec 8
  matched : Bool
  descId : BitVec 32
  fabId : BitVec 32
  deriving DecidableEq, Repr

/-- A TSYNC payload (Table 14.1). -/
structure Tsync where
  msg : Fin 4
  seqid : BitVec 16
  sec : BitVec 48
  ns : BitVec 32
  frac : BitVec 16
  sender : BitVec 10
  port : BitVec 5
  deriving DecidableEq, Repr

/-- A packet held by the Junction: handed over by this part, taken back from a failed link, or in a receive buffer of a
port, each by its place. -/
inductive PktRef where
  | inject (i : Nat)
  | resend (i : Nat)
  | rx (port : Fin 32) (cls : Fin 8) (i : Nat)
  deriving DecidableEq, Repr

/-- Who reads TT_SEC (R544). -/
inductive TtReader where
  | host | stationmaster | dbgacc
  deriving DecidableEq, Repr

/-! ### The Stationmaster (spec/15, spec/19) -/

/-- How a Block Write ends (R571). -/
inductive Pec where
  | absent | good | bad
  deriving DecidableEq, Repr

/-- The interface of a management command (R573): SMBus with the request bytes, or the mailbox, whose registers hold
them. -/
inductive Via where
  | smbus (pec : Pec) (request : List (BitVec 8))
  | mailbox
  deriving DecidableEq, Repr

/-- What R691 finds of an image beyond its header: the SHA-384 of PUBKEY equals the key hash; the signature verifies. -/
structure ImgChk where
  key : Bool
  sig : Bool
  deriving DecidableEq, Repr

/-- The governor model of the flash, as FP64 (R585): b and c of each quadrant, alpha of each quadrant, the couplings R by row, and the
weights W_S and W_D. -/
structure GovModel where
  b : List (BitVec 64)
  c : List (BitVec 64)
  alpha : List (BitVec 64)
  r : List (BitVec 64)
  ws : BitVec 64
  wd : BitVec 64
  deriving DecidableEq, Repr

/-- Offsets in the governor window of the descriptor and the arrays of a governor problem (Table 9.1), and the model. -/
structure GovWrite where
  offset : BitVec 16
  addrA : BitVec 16
  addrQ : BitVec 16
  addrX : BitVec 16
  addrP : BitVec 16
  addrL : BitVec 16
  addrU : BitVec 16
  addrY : BitVec 16
  model : GovModel
  deriving DecidableEq, Repr

/-! ### Resets and repair (spec/16, spec/19) -/

/-- The reset that completes (R682). -/
inductive ResetKind where
  | context
  | function (fn : Fin 64)
  | dataPlane
  | warm
  deriving DecidableEq, Repr

/-- What a self-test, or the parity of the delay registers, reports (R606, R607). -/
inductive SelfTest where
  | caught | missed | parity
  deriving DecidableEq, Repr

/-- What a scrub read finds of a 32-byte unit (R603, Table 16.1). -/
inductive Scrubbed where
  | clean | corrected | uncorrectable
  deriving DecidableEq, Repr

/-- A conserved quantity (Table 16.5). -/
inductive Quantity where
  | credits (port : Fin 32) (cls : Fin 8)
  | tagsQuota | tagsExpress | tagsFabric | tagsParcel
  | tokens (core : Fin 160)
  | queues (core : Fin 160)
  | allotments
  deriving DecidableEq, Repr

/-- A link whose transfers carry a CRC-32 (Table 16.1): the Loop Line, the Parcel path, a die-to-die link. -/
inductive CrcLink where
  | loopLine | parcelPath
  | die (k : Fin 16)
  deriving DecidableEq, Repr

/-- Where an error is corrected (Table 16.1). -/
inductive CorrectedAt where
  /-- A way of a row-cache slice (R398). -/
  | way (slice : Fin 20) (way : Fin 16)
  /-- A word of local store or staging, an accumulator element, a queue, tile or scoreboard entry of a core. -/
  | core (core : Fin 160)
  /-- An OpTag's state. -/
  | tag
  /-- A merge buffer or Turntable, or HBM, of a channel. -/
  | channel (k : Fin 128)
  /-- A lane queue, partial store or hold buffer of a Matrix Unit. -/
  | matrix (station : Fin 20)
  /-- A working store of a Solver Cluster. -/
  | cluster (k : Fin 4)
  /-- A word of Stationmaster SRAM. -/
  | sram
  /-- A replay record of a core. -/
  | replay (core : Fin 160)
  /-- A transfer is retried. -/
  | link (l : CrcLink)
  deriving DecidableEq, Repr

/-- Where an error cannot be corrected (Table 16.1). -/
inductive UncorrectableAt where
  /-- A word of a row-cache line (R399). -/
  | line (slice : Fin 20) (way : Fin 16) (set : Fin 8192) (word : Fin 8)
  /-- A 16-byte word of local store or staging that a read or a merge meets. -/
  | localStore (core : Fin 160) (word : Fin 32768)
  | accumulator (core : Fin 160) (element : Fin 8192)
  /-- A parity error in an instruction cache. -/
  | instructionCache (core : Fin 160)
  /-- A queue, tile-table or scoreboard entry. -/
  | queues (core : Fin 160)
  | tag
  /-- A merge buffer or Turntable, in the window of a context and step. -/
  | merge (k : Fin 128) (ctx : Fin 64) (step : Nat)
  /-- A word of a landed panel: the weights of one column of it. -/
  | panel (ctx : Fin 64) (layer : BitVec 16) (station : Fin 20) (column : Fin 64)
  /-- A lane queue or the partial store: participant, row and column of the m-block. -/
  | lane (ctx : Fin 64) (layer : BitVec 16) (station : Fin 20) (participant : Fin 16) (row : Fin 256) (column : Fin 64)
  /-- A row of the hold buffer. -/
  | holdBuffer (ctx : Fin 64) (layer : BitVec 16) (station : Fin 20) (participant : Fin 16) (row : Fin 256)
  /-- A unit of HBM that a read or a merge meets. -/
  | hbm (l : Nat) (unit : Fin 4)
  /-- A word of Stationmaster SRAM. -/
  | sram
  /-- A copy of a slot's replay record. -/
  | replay (core : Fin 160) (slot : SlotId)
  deriving DecidableEq, Repr

/-- A unit that the array self-test finds failed, or that a fence takes out (R697, Table 16.3). -/
inductive FenceUnit where
  | sequencer (core : Fin 160)
  | core (core : Fin 160)
  | matrix (station : Fin 20)
  | cluster (k : Fin 4)
  | ways (slice : Fin 20) (mask : BitVec 16)
  | channel (k : Fin 128)
  | port (p : Fin 32)
  deriving DecidableEq, Repr

/-- How a bring-up phase ends (Table 19.5). -/
inductive PhaseEnd where
  /-- What R691 finds of the images in the two slots. -/
  | rom (a b : ImgChk)
  /-- The I/O dies whose die-to-die link failed. -/
  | links (failed : BitVec 4)
  /-- A failure that is fatal, by unit kind, and the units that failed. -/
  | arrays (fatal : Option (Fin 32)) (units : List FenceUnit)
  | hbm
  | hbmInit
  | control
  | fabric
  deriving DecidableEq, Repr

/-- A reference clock (Table 18.8). -/
inductive RefPin where
  | pe
  | ser (d : Fin 4)
  | mclk
  deriving DecidableEq, Repr

/-! ### Register accesses (spec/00, spec/11, spec/12, spec/20) -/

/-- Who accesses control space (R707): a function of the host through its HW0, a JTAG host through DBGACC, the
Stationmaster. -/
inductive Requester where
  | hw0 (fn : Fin 64)
  | dbgacc
  | stationmaster
  deriving DecidableEq, Repr

/-- The errors that the endpoint reports through AER (Table 12.8), in the order of the table. -/
inductive AerErr where
  | receiver | badTlp | badDllp | replayTimeout | replayRollover | advisoryNonfatal | correctedInternal
  | poisonedTlp | completionTimeout | completerAbort | unexpectedCompletion | unsupportedRequest | ecrc
  | dataLinkProtocol | flowControlProtocol | receiverOverflow | malformedTlp | uncorrectableInternal
  deriving DecidableEq, Repr

/-- What the host sets in the configuration space of a function (Tables 11.8, 12.1, 12.8, R480). -/
inductive CfgWrite where
  | ats (on : Bool)
  /-- PRI and PASID stand in the physical function and govern its virtual functions. -/
  | pri (on : Bool)
  | pasid (on : Bool)
  | vfEnable (on : Bool)
  /-- HW4 takes 2^(30 + log) bytes. -/
  | hw4Size (log : Fin 9)
  /-- An MSI-X vector is masked. -/
  | mask (entry : Fin 32)
  /-- Max Payload Size and Max Read Request Size: 128 bytes shifted left by the code. -/
  | maxPayload (code : Fin 3)
  | maxRead (code : Fin 6)
  | relaxedOrdering (on : Bool)
  /-- Completion Timeout Value and Disable (R480). -/
  | timeoutRange (code : Fin 16)
  | timeoutOff (on : Bool)
  | ecrc (generate check : Bool)
  /-- AER: status bits cleared by writing 1, masks, and the severities of the errors that are not correctable (1 is fatal). -/
  | aerClear (bits : BitVec 18)
  | aerMask (bits : BitVec 18)
  | aerSeverity (bits : BitVec 18)
  deriving DecidableEq, Repr

/-- What a configuration read asks a function for, by the name Tables 11.8, 12.1, 12.2 and 12.8 or R2, R480 give it. -/
inductive CfgItem where
  | vendorId | deviceId | revisionId | classCode | serialNumber
  | linkSpeed | linkWidth | payloadSupported | maxPayload | maxRead | tags10 | tags8 | relaxedOrdering
  | msixVectors | ecrcGenSupported | ecrcCheckSupported | ecrcGenerate | ecrcCheck
  | totalVfs | vfDeviceId | firstVfOffset | vfStride | vfEnable | ari | flr
  | powerState | aspmL1 | aspmL0s | hw4Sizes | hw4Size
  /-- The size of a host window in bytes; whether it is prefetchable; all are 64-bit (Table 12.2). -/
  | windowSize (hw : Fin 3) | windowPrefetch (hw : Fin 3)
  | timeoutRanges | timeoutOffSupported | timeoutRange | timeoutOff
  | atsQueueDepth | atsPageAligned | atsGlobalInvalidate | atsEnable
  | pasidWidth | pasidExecute | pasidPrivileged | pasidEnable
  | priCapacity | priPasidRequired | priEnable
  | aerStatus | aerMask | aerSeverity | vectorMask (entry : Fin 32) | vectorPending (entry : Fin 32)
  /-- Anything outside Table 12.1. -/
  | absent
  deriving DecidableEq, Repr

/-- Where a read of registers goes: control space (for a virtual function, its HW0), the HW2 of a function, or an item of its
configuration space, which no offset names. -/
inductive ReadTarget where
  | control (who : Requester)
  | hw2 (fn : Fin 64)
  | config (fn : Fin 64) (what : CfgItem)
  deriving DecidableEq, Repr

/-- Where a register write goes: an offset in control space (for a virtual function, in its HW0), or configuration
space. -/
inductive WriteTarget where
  | control (who : Requester) (offset : BitVec 26) (data : List (BitVec 8))
  | config (fn : Fin 64) (what : CfgWrite)
  deriving DecidableEq, Repr

/-- The registers of a queue block that the host writes (Table 12.9). -/
inductive QueueReg where
  | ctl | sqBase | cqBase | taken | irq
  deriving DecidableEq, Repr

/-- The registers of an inbound window (R450). -/
inductive WinReg where
  | ctl | len | base | box
  deriving DecidableEq, Repr

/-- The debug registers that act on a halted core (R722). -/
inductive DbgReg where
  | pc (slot : SlotId)
  | g (slot : SlotId) (i : Reg)
  | f (slot : SlotId) (i : Reg)
  | lsData
  deriving DecidableEq, Repr

/-! ### The commands -/

/-- The operations and events of the opcode table, one constructor for each row, in the table's order. -/
inductive Instr where
  /-- INTEGER_REGISTER_OPERATION (R135). -/
  | integerRegisterOperation (a : At) (op : IntOp) (rd ra rb : Reg)
  /-- INTEGER_IMMEDIATE_OPERATION (R136). -/
  | integerImmediateOperation (a : At) (op : ImmOp) (rd ra : Reg) (v : BitVec 16)
  /-- SETH (R138). -/
  | seth (a : At) (rd : Reg) (hw : BitVec 2) (v : BitVec 16)
  /-- PUTH (R138). -/
  | puth (a : At) (rd : Reg) (hw : BitVec 2) (v : BitVec 16)
  /-- CONDITIONAL_BRANCH (R140). -/
  | conditionalBranch (a : At) (c : Cond) (ra rb : Reg) (h : Bool) (off : BitVec 15) (younger : Fin 5)
  /-- JAL (R141). -/
  | jal (a : At) (rd : Reg) (off : BitVec 21)
  /-- JALR (R142). -/
  | jalr (a : At) (rd ra : Reg) (v : BitVec 16) (younger : Fin 5)
  /-- LOCAL_STORE_LOAD (R145). -/
  | localStoreLoad (a : At) (op : LoadOp) (rd ra : Reg) (v : BitVec 16)
  /-- LOCAL_STORE_STORE (R145). -/
  | localStoreStore (a : At) (op : StoreOp) (rs ra : Reg) (v : BitVec 16)
  /-- MFSR (R151). -/
  | mfsr (a : At) (rd : Reg) (sr : BitVec 8)
  /-- MTSR (R151). -/
  | mtsr (a : At) (ra : Reg) (sr : BitVec 8)
  /-- FLOATING_POINT_OPERATION (R155). -/
  | floatingPointOperation (a : At) (op : FpOp) (double : Bool) (rd ra rb : Reg)
  /-- FMA (R159). -/
  | fma (a : At) (double : Bool) (rd ra rb rc : Reg)
  /-- DIVD (R161). -/
  | divd (a : At) (rd ra rb : Reg) (wrongPath : Bool)
  /-- SQRTD (R162). -/
  | sqrtd (a : At) (rd ra : Reg) (wrongPath : Bool)
  /-- COPROCESSOR_RESULT (R103). -/
  | coprocessorResult (a : At) (k : Nat)
  /-- FCVTX (R164). -/
  | fcvtx (a : At) (rd ra : Reg) (f : BitVec 4) (rm : BitVec 2) (sat : Bool)
  /-- FCVTF (R164). -/
  | fcvtf (a : At) (rd ra : Reg) (f : BitVec 4)
  /-- FCVT_L_D (R166). -/
  | fcvtLD (a : At) (rd ra : Reg) (rm : BitVec 2) (sat : Bool)
  /-- FCVT_D_L (R164). -/
  | fcvtDL (a : At) (rd ra : Reg) (rm : BitVec 2)
  /-- FCVT_S_D (R164). -/
  | fcvtSD (a : At) (rd ra : Reg) (rm : BitVec 2) (sat : Bool)
  /-- FCVT_D_S (R164). -/
  | fcvtDS (a : At) (rd ra : Reg)
  /-- TRAP (R168). -/
  | trap (a : At) (v : BitVec 16)
  /-- BREAK (R169). -/
  | break_ (a : At)
  /-- END (R170). -/
  | end_ (a : At)
  /-- END_COMPLETE (R124). -/
  | endComplete (a : At)
  /-- COMMIT_AFTER_STALL (R102). -/
  | commitAfterStall (a : At) (tag : Fin 4096) (younger : Fin 5)
  /-- RETIREMENT_REPORT (R109). -/
  | retirementReport (core : Fin 160)
  /-- TDEF (R194). -/
  | tdef (a : At) (ra : Reg) (x : BitVec 6)
  /-- SEED (R195). -/
  | seed (a : At) (ra : Reg)
  /-- AZERO (R196). -/
  | azero (a : At) (rd : Reg) (k : BitVec 4) (tag : Fin 4096)
  /-- ACCWB (R197). -/
  | accwb (a : At) (rd ra : Reg) (tag : Fin 4096)
  /-- SLOAD (R198). -/
  | sload (a : At) (rd ra : Reg) (tag : Fin 4096)
  /-- SSTORE (R198). -/
  | sstore (a : At) (rd ra : Reg) (tag : Fin 4096)
  /-- GPOOL (R200). -/
  | gpool (a : At) (rd ra : Reg) (tag : Fin 4096)
  /-- XOP_CVT (R202). -/
  | xopCvt (a : At) (rd ra : Reg) (tag : Fin 4096)
  /-- XOP_ADD (R202). -/
  | xopAdd (a : At) (rd ra : Reg) (tag : Fin 4096)
  /-- XOP_SUB (R202). -/
  | xopSub (a : At) (rd ra : Reg) (tag : Fin 4096)
  /-- XOP_MUL (R202). -/
  | xopMul (a : At) (rd ra : Reg) (tag : Fin 4096)
  /-- XOP_FMA (R202). -/
  | xopFma (a : At) (rd ra : Reg) (tag : Fin 4096)
  /-- XOP_MAX (R202). -/
  | xopMax (a : At) (rd ra : Reg) (tag : Fin 4096)
  /-- XOP_MIN (R202). -/
  | xopMin (a : At) (rd ra : Reg) (tag : Fin 4096)
  /-- XOP_SCALE (R202). -/
  | xopScale (a : At) (rd ra : Reg) (tag : Fin 4096)
  /-- XOP_RELU (R202). -/
  | xopRelu (a : At) (rd ra : Reg) (tag : Fin 4096)
  /-- XOP_ACC (R202). -/
  | xopAcc (a : At) (rd ra : Reg) (tag : Fin 4096)
  /-- XOP_ACCS (R202). -/
  | xopAccs (a : At) (rd ra : Reg) (tag : Fin 4096)
  /-- XOP_HAMM (R202). -/
  | xopHamm (a : At) (rd ra : Reg) (tag : Fin 4096)
  /-- CMPR (R203). -/
  | cmpr (a : At) (rd ra : Reg) (tag : Fin 4096)
  /-- SCADD (R204). -/
  | scadd (a : At) (rd ra : Reg) (tag : Fin 4096)
  /-- MLAYER (R207). -/
  | mlayer (a : At) (rd ra : Reg) (tag : Fin 4096)
  /-- LEND (R209). -/
  | lend (a : At)
  /-- SOLVE (R210). -/
  | solve (a : At) (rd ra : Reg) (tag : Fin 4096)
  /-- PFETCH (R212). -/
  | pfetch (a : At) (ra rb : Reg)
  /-- CMAINT_CLEAN (R390). -/
  | cmaintClean (a : At) (rd ra : Reg) (tag : Fin 4096)
  /-- CMAINT_INVALIDATE (R390). -/
  | cmaintInvalidate (a : At) (rd ra : Reg) (tag : Fin 4096)
  /-- CMAINT_CLEAN_INVALIDATE (R390). -/
  | cmaintCleanInvalidate (a : At) (rd ra : Reg) (tag : Fin 4096)
  /-- CMAINT_FILL (R390). -/
  | cmaintFill (a : At) (rd ra : Reg) (tag : Fin 4096)
  /-- RREAD (R214). -/
  | rread (a : At) (rd ra : Reg) (tag : Fin 4096)
  /-- WWRITE (R214). -/
  | wwrite (a : At) (rd ra : Reg) (tag : Fin 4096)
  /-- PSEND (R216). -/
  | psend (a : At) (rd ra rb : Reg) (x : BitVec 6) (tag : Fin 4096)
  /-- PRECV (R218). -/
  | precv (a : At) (rd ra : Reg) (tag : Fin 4096)
  /-- BARR (R219). -/
  | barr (a : At) (rd ra : Reg) (tag : Fin 4096)
  /-- BARR_RELEASE (R219). -/
  | barrRelease (ctx : Fin 64) (id : Fin 256)
  /-- TWAIT (R222). -/
  | twait (a : At) (ra : Reg)
  /-- TWAIT_REACHED (R545). -/
  | twaitReached (a : At)
  /-- WAIT (R223). -/
  | wait (a : At) (rd ra : Reg)
  /-- STAT (R223). -/
  | stat (a : At) (rd ra : Reg)
  /-- WAITALL (R223). -/
  | waitall (a : At)
  /-- LINE_REQUEST_ISSUE (R235). -/
  | lineRequestIssue (tag : Fin 4096) (remote : Bool)
  /-- LINE_ARRIVAL (R232). -/
  | lineArrival (id : Nat) (host : HostReply)
  /-- EXECUTE_UNIT_END (R238). -/
  | executeUnitEnd (a : At)
  /-- STREAM_RESUME (R266). -/
  | streamResume (tag : Fin 4096)
  /-- INJECTOR_FIRST_READ (R244). -/
  | injectorFirstRead (ctx : Fin 64) (layer : BitVec 16)
  /-- PANEL_INJECT (R246). -/
  | panelInject (ctx : Fin 64) (layer : BitVec 16) (host : List HostReply)
  /-- PANEL_CONSUMED (R246). -/
  | panelConsumed (ctx : Fin 64) (layer : BitVec 16) (station : Fin 20)
  /-- LAYER_END_MARKER (R258). -/
  | layerEndMarker (a : At)
  /-- OUTPUT_COMPRESSOR_WRITE (R335). -/
  | outputCompressorWrite (ctx : Fin 64) (layer : BitVec 16) (station : Fin 20)
  /-- PARCEL_DELIVERY (R250). -/
  | parcelDelivery (what : ParcelRef)
  /-- CONTRIBUTION_ARRIVAL (R295). -/
  | contributionArrival (k : Nat)
  /-- HELD_CONTRIBUTION_ACCEPT (R295). -/
  | heldContributionAccept (k : Fin 128) (j : Nat)
  /-- DRAIN_END (R303). -/
  | drainEnd (k : Fin 128) (ctx : Fin 64) (step : Nat)
  /-- APPLY_END (R306). -/
  | applyEnd (k : Fin 128)
  /-- SOLVE_FRONT_END (R348). -/
  | solveFrontEnd (tag : Fin 4096) (host : List HostReply)
  /-- PROBLEM_ASSIGN (R349). -/
  | problemAssign (problem : Nat)
  /-- PROBLEM_END (R363). -/
  | problemEnd (problem : Nat) (host : List HostReply)
  /-- DEADLINE_CHECK (R366). -/
  | deadlineCheck (problem iters pivots : Nat) (checked : Bool) (host : List HostReply)
  /-- SOLVER_LANE_STORE_ERROR (R351). -/
  | solverLaneStoreError (cluster : Fin 4) (lane : Fin 32)
  /-- LINE_REQUEST_AT_SLICE (R379). -/
  | lineRequestAtSlice (id : Nat)
  /-- MISS_FILL_ARRIVAL (R386). -/
  | missFillArrival (slice : Fin 20) (l : Nat)
  /-- VICTIM_WRITE_ACCEPT (R386). -/
  | victimWriteAccept (slice : Fin 20) (l : Nat)
  /-- PREFETCH_LINE (R389). -/
  | prefetchLine (slice : Fin 20) (k : Nat)
  /-- WAY_INVALIDATE (R395). -/
  | wayInvalidate (ways : BitVec 16)
  /-- WAY_INVALIDATE_COMPLETE (R395). -/
  | wayInvalidateComplete
  /-- ENABLE (R395). -/
  | enable (ways : BitVec 16)
  /-- DISABLE (R395). -/
  | disable (ways : BitVec 16)
  /-- POWER_DOWN (R395). -/
  | powerDown (ways : BitVec 16)
  /-- POWER_UP (R395). -/
  | powerUp (ways : BitVec 16)
  /-- SWEEP_COMPLETE (R394). -/
  | sweepComplete (slice : Fin 20) (way : Fin 16)
  /-- CORRECTED_ERROR (R398). -/
  | correctedError (place : CorrectedAt) (again : Bool)
  /-- LEAK_TICK (R398). -/
  | leakTick
  /-- UNCORRECTABLE_DATA_ERROR (R399). -/
  | uncorrectableDataError (place : UncorrectableAt) (both : Bool) (a b : ImgChk)
  /-- TAG_LOST (R400). -/
  | tagLost (slice : Fin 20) (way : Fin 16) (set : Fin 8192) (known : Bool)
  /-- LOOKASIDE_MISS (R415). -/
  | lookasideMiss (who : MissBy)
  /-- LOOKASIDE_MISS_SERVED (R416). -/
  | lookasideMissServed
  /-- SEG_SYNC (R422). -/
  | segSync (mirror : List HostReply)
  /-- INVALIDATE (R423). -/
  | invalidate
  /-- GRANULE_SET (R430). -/
  | granuleSet
  /-- OWN_SET (R448). -/
  | ownSet
  /-- EPOCH_DRAINED (R424). -/
  | epochDrained
  /-- FAULT_BATCH_CLOSE (R434). -/
  | faultBatchClose
  /-- ATS_TRANSLATION_COMPLETION (R441). -/
  | atsTranslationCompletion (fn : Fin 64) (pasid : Option (BitVec 20)) (iova : BitVec 64) (sizeLog2 : Fin 64)
      (pa : BitVec 64) (r w : Bool)
  /-- PRG_RESPONSE (R444). -/
  | prgResponse (fn : Fin 64) (group : Nat) (code : PrgCode)
  /-- ATS_INVALIDATE_REQUEST (R445). -/
  | atsInvalidateRequest (fn : Fin 64) (pasid : Option (BitVec 20)) (global : Bool) (va : BitVec 64) (len : Nat)
      (itag : Fin 32)
  /-- COMMAND_QUEUE_TAIL_DOORBELL (R469). -/
  | commandQueueTailDoorbell (fn ctx : Fin 64) (q skew : Fin 8) (data : List Byte)
  /-- COMPLETION_QUEUE_HEAD_DOORBELL (R470). -/
  | completionQueueHeadDoorbell (fn ctx : Fin 64) (q skew : Fin 8) (data : List Byte)
  /-- PARCEL_RING_HEAD_DOORBELL (R477). -/
  | parcelRingHeadDoorbell (fn ctx : Fin 64) (skew : Fin 8) (data : List Byte)
  /-- COMMAND_READ_COMPLETION (R468). -/
  | commandReadCompletion (ctx : Fin 64) (q : Fin 8) (reply : HostReply)
  /-- RUN (R463). -/
  | run (cmd : Nat)
  /-- RUN_START (R463). -/
  | runStart (cmd : Nat)
  /-- RUN_EXPIRED (R467). -/
  | runExpired (cmd : Nat)
  /-- LOAD (R462). -/
  | load (cmd : Nat) (tag : Fin 4096) (host : HostReply)
  /-- COPY (R462). -/
  | copy (cmd : Nat) (tag : Fin 4096) (host : HostReply)
  /-- NOP (R461). -/
  | nop (cmd : Nat)
  /-- INTERRUPT_TIME_TRIGGER (R479). -/
  | interruptTimeTrigger (ctx : Fin 64) (q : Fin 8)
  /-- PARCEL_PORT_SEND (R475). -/
  | parcelPortSend (fn ctx : Fin 64) (port : Fin 8) (data : List (Nat × List Byte)) (send : BitVec 64)
      (tag : Fin 4096)
  /-- HW4_ACCESS (R458). -/
  | hw4Access (offset : BitVec 38) (len : Nat) (write : Option (List Byte × Bool))
  /-- DSP_CTXRESET (R483). -/
  | dspCtxreset (ctx : Fin 64) (go : Bool)
  /-- DSP_FNRESET (R484). -/
  | dspFnreset (fn : Fin 64) (go : Bool)
  /-- FLR_VF (R484). -/
  | flrVf (fn : Fin 64)
  /-- FLR_PF (R485). -/
  | flrPf
  /-- D3HOT_ENTRY (R486). -/
  | d3hotEntry (fn : Fin 64)
  /-- IDLE_FLIT (R492). -/
  | idleFlit (port : Fin 32) (good : Bool) (head : FlitHead) (sym unc : Nat)
  /-- DATA_FLIT (R495). -/
  | dataFlit (port : Fin 32) (good : Bool) (head : FlitHead) (vc : Fin 4) (dl : Bool) (sop : Option Packet)
      (eop : Bool) (sym unc : Nat)
  /-- RETRY_TIMER_EXPIRY (R496). -/
  | retryTimerExpiry (port : Fin 32)
  /-- LOCK_LOSS_TIMEOUT (R498). -/
  | lockLossTimeout (port : Fin 32)
  /-- TRAINING_ATTEMPT_END (R503). -/
  | trainingAttemptEnd (port : Fin 32) (markers : List (List (BitVec 20)))
  /-- PORT_RETRY_TIMER (R503). -/
  | portRetryTimer (port : Fin 32)
  /-- HELLO_TIMER (R513). -/
  | helloTimer (port : Fin 32)
  /-- HELLO (R514). -/
  | hello (port : Fin 32) (good : Bool) (head : FlitHead) (hello : Hello)
  /-- FAILOVER (R505). -/
  | failover (port : Fin 32) (good : Bool) (head : FlitHead) (link : Fin 4) (answer : Option (BitVec 16))
  /-- FAILOVER_RESEND_TIMER (R505). -/
  | failoverResendTimer (port : Fin 32)
  /-- FAILOVER_TIMEOUT (R506). -/
  | failoverTimeout (port : Fin 32)
  /-- LSA (R521). -/
  | lsa (pkt : PktRef)
  /-- PACKET_FORWARD (R522). -/
  | packetForward (pkt : PktRef) (tag : Fin 4096) (combine : Option PktRef)
  /-- REMOTE_READ (R451). -/
  | remoteRead (id : Nat)
  /-- WINDOW_WRITE (R451). -/
  | windowWrite (id : Nat)
  /-- POOL_AT_HOME (R528). -/
  | poolAtHome (id : Nat)
  /-- PARCEL (R449). -/
  | parcel (id : Nat)
  /-- TIME (R552). -/
  | time (pkt : PktRef)
  /-- ERROR (R533). -/
  | error (id : Nat)
  /-- REMOTE_RESPONSE (R531). -/
  | remoteResponse (id : Nat)
  /-- REMOTE_TIMEOUT (R532). -/
  | remoteTimeout (k : Nat)
  /-- TIME_CLOCK_TICK (R538). -/
  | timeClockTick
  /-- TIME_COPY_UPDATE (R542). -/
  | timeCopyUpdate (skew : Int)
  /-- PPS_IN_EDGE (R547). -/
  | ppsInEdge (jitter : Int) (incr : BitVec 40)
  /-- PPS_TIMEOUT (R548). -/
  | ppsTimeout
  /-- SYNC_EXCHANGE_TIMER (R550). -/
  | syncExchangeTimer (port : Fin 32) (jitter : Int)
  /-- SYNC (R551). -/
  | sync (port : Fin 32) (good : Bool) (head : FlitHead) (tsync : Tsync) (jitter : Int)
  /-- FOLLOW_UP (R550). -/
  | followUp (port : Fin 32) (good : Bool) (head : FlitHead) (tsync : Tsync) (jitter : Int)
  /-- DELAY_REQ (R550). -/
  | delayReq (port : Fin 32) (good : Bool) (head : FlitHead) (tsync : Tsync) (jitter : Int)
  /-- DELAY_RESP (R553). -/
  | delayResp (port : Fin 32) (good : Bool) (head : FlitHead) (tsync : Tsync) (incr : BitVec 40)
  /-- TIME_ANNOUNCE_TIMER (R552). -/
  | timeAnnounceTimer
  /-- HOLDOVER_TIMEOUT (R559). -/
  | holdoverTimeout
  /-- HOLDOVER_LIMIT (R561). -/
  | holdoverLimit
  /-- STEP_APPLY (R556). -/
  | stepApply
  /-- TT_TOD (R546). -/
  | ttTod (sec : BitVec 48)
  /-- TT_SEC_READ (R544). -/
  | ttSecRead (who : TtReader)
  /-- IDENT (R573). -/
  | ident (via : Via)
  /-- STATUS (R573). -/
  | status (via : Via)
  /-- TELEMETRY (R573). -/
  | telemetry (via : Via)
  /-- READ_LOG (R629). -/
  | readLog (via : Via)
  /-- SET_TOD (R573). -/
  | setTod (via : Via)
  /-- SET_CAP (R574). -/
  | setCap (via : Via)
  /-- GOV_CTL (R575). -/
  | govCtl (via : Via)
  /-- GOV_TARGET (R575). -/
  | govTarget (via : Via)
  /-- FW_STAGE (R596). -/
  | fwStage (via : Via)
  /-- FW_VERIFY (R597). -/
  | fwVerify (via : Via) (chk : ImgChk)
  /-- FW_ACTIVATE (R598). -/
  | fwActivate (via : Via) (allot : List Nat)
  /-- FW_CONFIRM (R693). -/
  | fwConfirm (via : Via)
  /-- FW_STATUS (R596). -/
  | fwStatus (via : Via)
  /-- BOOT_STATUS_READ (R703). -/
  | bootStatusRead
  /-- RESPONSE_READ (R572). -/
  | responseRead
  /-- WATCHDOG_EXPIRY (R566). -/
  | watchdogExpiry (a b : ImgChk)
  /-- GOVERNOR_CYCLE_START (R582). -/
  | governorCycleStart (g : GovWrite) (coreMw : List Nat) (avs : BitVec 4)
  /-- GOVERNOR_PROBLEM_END (R587). -/
  | governorProblemEnd (allot : List Nat) (avs : BitVec 4)
  /-- FALLBACK_TICK (R591). -/
  | fallbackTick (allot : List Nat) (avs : BitVec 4)
  /-- THERMAL_SAMPLE (R580). -/
  | thermalSample (temps : List Int) (hbm die : Int) (allot : List Nat)
  /-- RAIL_TELEMETRY_POLL (R577). -/
  | railTelemetryPoll (railMw : Nat) (fault : Option (BitVec 16))
  /-- GOV_LSUBMIT (R595). -/
  | govLsubmit (offset : BitVec 16)
  /-- DIVERGENCE (R605). -/
  | divergence (core logical : Fin 160) (kind : Fin 5)
  /-- SELF_TEST (R606). -/
  | selfTest (core : Fin 160) (result : SelfTest)
  /-- REMAP (R618). -/
  | remap (logical : Fin 160)
  /-- REPLAY_START (R614). -/
  | replayStart (a : At)
  /-- SCRUB (R603). -/
  | scrub (l : Nat) (unit : Fin 4) (result : Scrubbed)
  /-- CONSERVATION_AUDIT (R623). -/
  | conservationAudit (what : Quantity) (upset : Bool)
  /-- PORT_FENCE_RELEASE (R620). -/
  | portFenceRelease (port : Fin 32)
  /-- HOST_LOG_RING_WRITE (R628). -/
  | hostLogRingWrite
  /-- POR_N_FALL (R682). -/
  | porNFall
  /-- POR_N_RELEASE (R663). -/
  | porNRelease (straps : BitVec 6)
  /-- POWER_UP_STEP (R663). -/
  | powerUpStep
  /-- PWRDN_N (R667). -/
  | pwrdnN
  /-- REFERENCE_LOSS (R673). -/
  | referenceLoss (ref : RefPin)
  /-- REFERENCE_RETURN (R673). -/
  | referenceReturn (ref : RefPin)
  /-- PERST_N_FALL (R687). -/
  | perstNFall
  /-- PERST_N_RELEASE (R687). -/
  | perstNRelease
  /-- BRINGUP_PHASE_END (R695). -/
  | bringupPhaseEnd (what : PhaseEnd)
  /-- HBM_TRAINING_ATTEMPT (R696). -/
  | hbmTrainingAttempt (channel : Fin 128) (ok : Bool)
  /-- IDCODE (R715). -/
  | idcode
  /-- SAMPLE_PRELOAD (R715). -/
  | samplePreload (cells : List Bool)
  /-- EXTEST (R729). -/
  | extest
  /-- CLAMP (R729). -/
  | clamp
  /-- HIGHZ (R729). -/
  | highz
  /-- EXTEST_PULSE (R729). -/
  | extestPulse
  /-- EXTEST_TRAIN (R729). -/
  | extestTrain
  /-- BOOTSTAT (R715). -/
  | bootstat
  /-- DBGACC (R717). -/
  | dbgacc (write : Bool) (word : BitVec 38) (data : W32)
  /-- BYPASS (R715). -/
  | bypass (opcode : BitVec 8)
  /-- HALT (R719). -/
  | halt (who : Requester) (core : Fin 160)
  /-- RESUME (R720). -/
  | resume (who : Requester) (core : Fin 160)
  /-- STEP (R720). -/
  | step (who : Requester) (core : Fin 160) (slot : SlotId)
  /-- DBG_CTL (R718). -/
  | dbgCtl (who : Requester) (value : W32)
  /-- DEBUG_REGISTER_ACCESS (R722). -/
  | debugRegisterAccess (who : Requester) (core : Fin 160) (reg : DbgReg) (write : Option W64)
  /-- ACCUMULATOR_VIEW_READ (R724). -/
  | accumulatorViewRead (who : Requester) (core : Fin 160) (tile row : Fin 16) (col : Fin 32)
  /-- ARM (R727). -/
  | arm (who : Requester)
  /-- STOP (R727). -/
  | stop (who : Requester)
  /-- DBG_PORTTEST (R734). -/
  | dbgPorttest (who : Requester) (value : W32)
  /-- SEQ_TAGQUOTA (R112). -/
  | seqTagquota (who : Requester) (logical : Fin 160) (value : W32)
  /-- SEQ_EXPRESS (R126). -/
  | seqExpress (who : Requester) (core : Fin 160) (value : W32)
  /-- RC_SALT (R374). -/
  | rcSalt (who : Requester) (slice : Fin 20) (value : W32)
  /-- RC_LFSR (R383). -/
  | rcLfsr (who : Requester) (slice : Fin 20) (value : W32)
  /-- RC_CLASSMASK (R382). -/
  | rcClassmask (who : Requester) (cls : Option (Fin 8)) (value : W32)
  /-- RMU_MTREG (R314). -/
  | rmuMtreg (who : Requester) (ctx : Fin 64) (value : W64)
  /-- DSP_LDEV (R317). -/
  | dspLdev (who : Requester) (ctx : Fin 64) (value : W32)
  /-- XL_CTXBIND (R406). -/
  | xlCtxbind (who : Requester) (ctx : Fin 64) (value : W64)
  /-- XL_SEGTBASE (R418). -/
  | xlSegtbase (who : Requester) (mirror : Bool) (value : W64)
  /-- XL_IWIN (R452). -/
  | xlIwin (who : Requester) (ctx : Fin 64) (window : Fin 16) (reg : WinReg) (value : W64)
  /-- XL_FRHEAD (R435). -/
  | xlFrhead (who : Requester) (value : W32)
  /-- DSP_QCTL (R460). -/
  | dspQctl (who : Requester) (ctx : Fin 64) (q : Fin 8) (reg : QueueReg) (value : W64)
  /-- DSP_PRING (R477). -/
  | dspPring (who : Requester) (ctx : Fin 64) (cfg : Bool) (value : W64)
  /-- JN_CFG (R512). -/
  | jnCfg (who : Requester) (value : W32)
  /-- SB_REGISTER_WRITE (R616). -/
  | sbRegisterWrite (host : Bool) (offset : BitVec 12) (value : W32)
  /-- SM_MBOXDB (R576). -/
  | smMboxdb (go : Bool)
  /-- LOG_RCFG (R735). -/
  | logRcfg (who : Requester) (value : W32)
  /-- LOG_RHEAD (R735). -/
  | logRhead (who : Requester) (value : W32)
  /-- READ_CLEAR_ACCESS (R17). -/
  | readClearAccess (target : ReadTarget) (offset : BitVec 26) (len : Nat)
  /-- REGISTER_WRITE (R11). -/
  | registerWrite (target : WriteTarget)
  /-- ILLEGAL_INSTR (R131). -/
  | illegalInstr (a : At) (word : W32)
  /-- LINE_WRITE_ACCEPTED (R236). -/
  | lineWriteAccepted (id : Nat)
  /-- TRANSLATION_CACHE_MISS_SERVED (R416). -/
  | translationCacheMissServed (k : Nat)
  /-- COMPLETION_TIMEOUT (R480). -/
  | completionTimeout (what : TimedOut)
  /-- RETURN_TO_D0 (R486). -/
  | returnToD0 (fn : Fin 64)
  /-- MSIX_UNMASK (R479). -/
  | msixUnmask (vector : Fin 2048)
  /-- POWER_GOOD_TIMEOUT (R663). -/
  | powerGoodTimeout
  /-- STATIONMASTER_READY (R598). -/
  | stationmasterReady (a b : ImgChk)
  /-- XL_FRBASE (R435). -/
  | xlFrbase (who : Requester) (value : W64)
  /-- RESET_COMPLETE (R682). -/
  | resetComplete (what : ResetKind)
  deriving DecidableEq, Repr

end Sys2Proof
end

