-- ==== Sys2Proof/Decode.lean ====
section
/-! DEFINITION. The decoder and the encoder of Wewald instruction words (Tables 4.2 to 4.11, 5.1
and 5.2), and the reading of opcode-table words, of which the table gives no bits. -/

namespace Sys2Proof

/-! ### Field numbers -/

/-- FN of Table 4.5. -/
def intOpFn : IntOp → Nat
  | .add => 0x00 | .sub => 0x01 | .and => 0x02 | .or => 0x03 | .xor => 0x04 | .andn => 0x05
  | .sll => 0x06 | .srl => 0x07 | .sra => 0x08 | .ror => 0x09 | .slt => 0x0A | .sltu => 0x0B
  | .seq => 0x0C | .min => 0x0D | .max => 0x0E | .minu => 0x0F | .maxu => 0x10 | .mul => 0x11
  | .mulh => 0x12 | .mulhu => 0x13 | .clz => 0x14 | .ctz => 0x15 | .popc => 0x16

def intOpOfFn : Nat → Option IntOp
  | 0x00 => some .add | 0x01 => some .sub | 0x02 => some .and | 0x03 => some .or
  | 0x04 => some .xor | 0x05 => some .andn | 0x06 => some .sll | 0x07 => some .srl
  | 0x08 => some .sra | 0x09 => some .ror | 0x0A => some .slt | 0x0B => some .sltu
  | 0x0C => some .seq | 0x0D => some .min | 0x0E => some .max | 0x0F => some .minu
  | 0x10 => some .maxu | 0x11 => some .mul | 0x12 => some .mulh | 0x13 => some .mulhu
  | 0x14 => some .clz | 0x15 => some .ctz | 0x16 => some .popc
  | _ => none

/-- R135: CLZ, CTZ and POPC name one source, and RB must be zero. -/
def intOpUnary : IntOp → Bool
  | .clz | .ctz | .popc => true
  | _ => false

/-- OP of Table 4.6. -/
def immOpCode : ImmOp → Nat
  | .addi => 0x02 | .andi => 0x03 | .ori => 0x04 | .xori => 0x05 | .slti => 0x06 | .sltiu => 0x07
  | .seqi => 0x08 | .slli => 0x09 | .srli => 0x0A | .srai => 0x0B | .rori => 0x0C

def immOpOfCode : Nat → Option ImmOp
  | 0x02 => some .addi | 0x03 => some .andi | 0x04 => some .ori | 0x05 => some .xori
  | 0x06 => some .slti | 0x07 => some .sltiu | 0x08 => some .seqi | 0x09 => some .slli
  | 0x0A => some .srli | 0x0B => some .srai | 0x0C => some .rori
  | _ => none

/-- R137: the shifts take a 6-bit count, and IMM16[15:6] must be zero. -/
def immOpShift : ImmOp → Bool
  | .slli | .srli | .srai | .rori => true
  | _ => false

/-- OP of Table 4.8. -/
def condCode : Cond → Nat
  | .beq => 0x20 | .bne => 0x21 | .blt => 0x22 | .bge => 0x23 | .bltu => 0x24 | .bgeu => 0x25

def condOfCode : Nat → Option Cond
  | 0x20 => some .beq | 0x21 => some .bne | 0x22 => some .blt | 0x23 => some .bge
  | 0x24 => some .bltu | 0x25 => some .bgeu
  | _ => none

/-- OP of Table 4.9. -/
def loadOpCode : LoadOp → Nat
  | .ldb => 0x10 | .ldbu => 0x11 | .ldh => 0x12 | .ldhu => 0x13 | .ldw => 0x14 | .ldwu => 0x15
  | .ldd => 0x16 | .fldw => 0x17 | .fldd => 0x18

def loadOpOfCode : Nat → Option LoadOp
  | 0x10 => some .ldb | 0x11 => some .ldbu | 0x12 => some .ldh | 0x13 => some .ldhu
  | 0x14 => some .ldw | 0x15 => some .ldwu | 0x16 => some .ldd | 0x17 => some .fldw
  | 0x18 => some .fldd
  | _ => none

def storeOpCode : StoreOp → Nat
  | .stb => 0x19 | .sth => 0x1A | .stw => 0x1B | .std => 0x1C | .fstw => 0x1D | .fstd => 0x1E

def storeOpOfCode : Nat → Option StoreOp
  | 0x19 => some .stb | 0x1A => some .sth | 0x1B => some .stw | 0x1C => some .std
  | 0x1D => some .fstw | 0x1E => some .fstd
  | _ => none

/-- FN[9:0] of Table 4.10. -/
def fpOpFn : FpOp → Nat
  | .fadd => 0x0 | .fsub => 0x1 | .fmul => 0x2 | .fmin => 0x3 | .fmax => 0x4 | .fabs => 0x5
  | .fneg => 0x6 | .fmov => 0x7 | .feq => 0x8 | .flt => 0x9 | .fle => 0xA | .fmvg => 0xB
  | .fmvf => 0xC

def fpOpOfFn : Nat → Option FpOp
  | 0x0 => some .fadd | 0x1 => some .fsub | 0x2 => some .fmul | 0x3 => some .fmin
  | 0x4 => some .fmax | 0x5 => some .fabs | 0x6 => some .fneg | 0x7 => some .fmov
  | 0x8 => some .feq | 0x9 => some .flt | 0xA => some .fle | 0xB => some .fmvg
  | 0xC => some .fmvf
  | _ => none

/-- R155: where Table 4.10 names one source, RB must be zero. -/
def fpOpUnary : FpOp → Bool
  | .fabs | .fneg | .fmov | .fmvg | .fmvf => true
  | _ => false

/-- OP and SUB of Table 5.2 for the commands that name an operand block. -/
def blockOpCode : BlockOp → Nat × Nat
  | .accwb => (0x38, 3) | .sload => (0x39, 0) | .sstore => (0x39, 1) | .gpool => (0x39, 2)
  | .xop => (0x39, 3) | .cmpr => (0x39, 4) | .scadd => (0x3A, 0) | .mlayer => (0x3B, 0)
  | .solve => (0x3C, 0) | .cmaint => (0x3D, 1) | .rread => (0x3E, 0) | .wwrite => (0x3E, 1)
  | .barr => (0x3F, 0)

def blockOpOfCode : Nat → Nat → Option BlockOp
  | 0x38, 3 => some .accwb | 0x39, 0 => some .sload | 0x39, 1 => some .sstore
  | 0x39, 2 => some .gpool | 0x39, 3 => some .xop | 0x39, 4 => some .cmpr
  | 0x3A, 0 => some .scadd | 0x3B, 0 => some .mlayer | 0x3C, 0 => some .solve
  | 0x3D, 1 => some .cmaint | 0x3E, 0 => some .rread | 0x3E, 1 => some .wwrite
  | 0x3F, 0 => some .barr
  | _, _ => none

/-! ### Words -/

/-- The major opcode above the four remaining fields of format R (Table 4.2). -/
def wordR (op : Nat) (rd ra rb : Reg) (fn : Nat) : W32 :=
  BitVec.ofNat 6 op ++ rd ++ ra ++ rb ++ BitVec.ofNat 11 fn

/-- Format I. -/
def wordI (op : Nat) (rd ra : Reg) (imm : BitVec 16) : W32 :=
  BitVec.ofNat 6 op ++ rd ++ ra ++ imm

/-- Format U. -/
def wordU (op : Nat) (rd : Reg) (hw : BitVec 2) (imm : BitVec 16) : W32 :=
  BitVec.ofNat 6 op ++ rd ++ 0#3 ++ hw ++ imm

/-- Format B. -/
def wordB (op : Nat) (ra rb : Reg) (h : Bool) (off : BitVec 15) : W32 :=
  BitVec.ofNat 6 op ++ ra ++ rb ++ BitVec.ofBool h ++ off

/-- Format J. -/
def wordJ (op : Nat) (rd : Reg) (off : BitVec 21) : W32 := BitVec.ofNat 6 op ++ rd ++ off

/-- Format C. -/
def wordC (rd ra : Reg) (fmt : BitVec 4) (rm : BitVec 2) (sat : Bool) (kind : Nat) : W32 :=
  0x33#6 ++ rd ++ ra ++ fmt ++ rm ++ BitVec.ofBool sat ++ BitVec.ofNat 3 kind ++ 0#6

/-- Format E (Table 5.1). -/
def wordE (op : Nat) (rd ra rb : Reg) (sub : Nat) (x : BitVec 6) : W32 :=
  BitVec.ofNat 6 op ++ rd ++ ra ++ rb ++ BitVec.ofNat 5 sub ++ x

/-- The word of an instruction. -/
def encodeWew : Wew → W32
  | .int op rd ra rb => wordR 0x01 rd ra rb (intOpFn op)
  | .imm op rd ra imm => wordI (immOpCode op) rd ra imm
  | .seth rd hw imm => wordU 0x0D rd hw imm
  | .puth rd hw imm => wordU 0x0E rd hw imm
  | .branch c ra rb h off => wordB (condCode c) ra rb h off
  | .jal rd off => wordJ 0x26 rd off
  | .jalr rd ra imm => wordI 0x27 rd ra imm
  | .load op rd ra imm => wordI (loadOpCode op) rd ra imm
  | .store op rs ra imm => wordI (storeOpCode op) rs ra imm
  | .mfsr rd sr => wordI 0x28 rd 0#5 (0#8 ++ sr)
  | .mtsr ra sr => wordI 0x29 0#5 ra (0#8 ++ sr)
  | .trap imm => wordI 0x2A 0#5 0#5 imm
  | .brk => wordI 0x2B 0#5 0#5 0#16
  | .stop => wordI 0x2C 0#5 0#5 0#16
  | .fp op p rd ra rb => wordR 0x30 rd ra rb ((if p then 0x400 else 0) + fpOpFn op)
  | .divd rd ra rb => wordR 0x30 rd ra rb 0x40D
  | .sqrtd rd ra => wordR 0x30 rd ra 0#5 0x40E
  | .fma p rd ra rb rc => wordR (if p then 0x32 else 0x31) rd ra rb (rc.toNat * 64)
  | .fcvtx rd ra fmt rm sat => wordC rd ra fmt rm sat 0
  | .fcvtf rd ra fmt => wordC rd ra fmt 0#2 false 1
  | .fcvtLD rd ra rm sat => wordC rd ra 0#4 rm sat 2
  | .fcvtDL rd ra rm => wordC rd ra 0#4 rm false 3
  | .fcvtSD rd ra rm sat => wordC rd ra 0#4 rm sat 4
  | .fcvtDS rd ra => wordC rd ra 0#4 0#2 false 5
  | .tdef ra x => wordE 0x38 0#5 ra 0#5 0 x
  | .seed ra => wordE 0x38 0#5 ra 0#5 1 0#6
  | .azero rd k => wordE 0x38 rd 0#5 0#5 2 (0#2 ++ k)
  | .block op rd ra => wordE (blockOpCode op).1 rd ra 0#5 (blockOpCode op).2 0#6
  | .lend => wordE 0x3B 0#5 0#5 0#5 1 0#6
  | .pfetch ra rb => wordE 0x3D 0#5 ra rb 0 0#6
  | .psend rd ra rb x => wordE 0x3E rd ra rb 2 x
  | .precv rd ra => wordE 0x3E rd ra 0#5 3 0#6
  | .twait ra => wordE 0x3F 0#5 ra 0#5 1 0#6
  | .wait rd ra => wordE 0x3F rd ra 0#5 2 0#6
  | .stat rd ra => wordE 0x3F rd ra 0#5 3 0#6
  | .waitall => wordE 0x3F 0#5 0#5 0#5 4 0#6

/-! ### The decoder (R129 to R131, R173) -/

/-- Why a word is not an instruction: each raises ILLEGAL_INSTR (R131). -/
inductive BadWord where
  | opcode   -- OP is not in Table 4.3
  | function -- FN, KIND or SUB is not defined for its OP
  | nonzero  -- a field marked 0 holds a one
  deriving DecidableEq, Repr

/-- What the decoder reads: an instruction, or the reason it is none. -/
inductive Decoded where
  | ok (w : Wew)
  | bad (why : BadWord)
  deriving DecidableEq, Repr

/-- `w` when the check holds, a nonzero must-be-zero field otherwise. -/
def zeroIf (b : Bool) (w : Wew) : Decoded := if b then .ok w else .bad .nonzero

/-- Major 0x30 (R155). -/
def decodeFp (rd ra rb : Reg) (fn : Nat) : Decoded :=
  let p := fn / 1024 == 1
  let k := fn % 1024
  match fpOpOfFn k with
  | some op => zeroIf (!fpOpUnary op || rb == 0#5) (.fp op p rd ra rb)
  | none =>
    if p && k == 0x00D then .ok (.divd rd ra rb)
    else if p && k == 0x00E then zeroIf (rb == 0#5) (.sqrtd rd ra)
    else .bad .function

/-- Major 0x33 (R164): the fields Table 4.11 marks "must be zero" are checked. -/
def decodeConv (rd ra : Reg) (fmt : BitVec 4) (rm : BitVec 2) (sat : Bool) (kind : Nat)
    (low : BitVec 6) : Decoded :=
  let z := low == 0#6
  match kind with
  | 0 => zeroIf z (.fcvtx rd ra fmt rm sat)
  | 1 => zeroIf (z && rm == 0#2 && !sat) (.fcvtf rd ra fmt)
  | 2 => zeroIf (z && fmt == 0#4) (.fcvtLD rd ra rm sat)
  | 3 => zeroIf (z && fmt == 0#4 && !sat) (.fcvtDL rd ra rm)
  | 4 => zeroIf (z && fmt == 0#4) (.fcvtSD rd ra rm sat)
  | 5 => zeroIf (z && fmt == 0#4 && rm == 0#2 && !sat) (.fcvtDS rd ra)
  | _ => .bad .function

/-- Majors 0x38 to 0x3F (R173). -/
def decodeEngine (op : Nat) (rd ra rb : Reg) (sub : Nat) (x : BitVec 6) : Decoded :=
  let d0 := rd == 0#5
  let a0 := ra == 0#5
  let b0 := rb == 0#5
  let x0 := x == 0#6
  match op, sub with
  | 0x38, 0 => zeroIf (d0 && b0) (.tdef ra x)
  | 0x38, 1 => zeroIf (d0 && b0 && x0) (.seed ra)
  | 0x38, 2 => zeroIf (a0 && b0 && x.extractLsb' 4 2 == 0#2) (.azero rd (x.extractLsb' 0 4))
  | 0x3B, 1 => zeroIf (d0 && a0 && b0 && x0) .lend
  | 0x3D, 0 => zeroIf (d0 && x0) (.pfetch ra rb)
  | 0x3E, 2 => .ok (.psend rd ra rb x)
  | 0x3E, 3 => zeroIf (b0 && x0) (.precv rd ra)
  | 0x3F, 1 => zeroIf (d0 && b0 && x0) (.twait ra)
  | 0x3F, 2 => zeroIf (b0 && x0) (.wait rd ra)
  | 0x3F, 3 => zeroIf (b0 && x0) (.stat rd ra)
  | 0x3F, 4 => zeroIf (d0 && a0 && b0 && x0) .waitall
  | op, sub =>
    match blockOpOfCode op sub with
    | some b => zeroIf (b0 && x0) (.block b rd ra)
    | none => .bad .function

/-- The decoder: total, and every refusal names why (R130, R131). -/
def decodeWew (w : W32) : Decoded :=
  let op := (w.extractLsb' 26 6).toNat
  let rd := w.extractLsb' 21 5
  let ra := w.extractLsb' 16 5
  let rb := w.extractLsb' 11 5
  let imm := w.extractLsb' 0 16
  let hi8 := w.extractLsb' 8 8
  let fn := (w.extractLsb' 0 11).toNat
  if op = 0x01 then
    match intOpOfFn fn with
    | some o => zeroIf (!intOpUnary o || rb == 0#5) (.int o rd ra rb)
    | none => .bad .function
  else if op = 0x0D then zeroIf (w.extractLsb' 18 3 == 0#3) (.seth rd (w.extractLsb' 16 2) imm)
  else if op = 0x0E then zeroIf (w.extractLsb' 18 3 == 0#3) (.puth rd (w.extractLsb' 16 2) imm)
  else if op = 0x26 then .ok (.jal rd (w.extractLsb' 0 21))
  else if op = 0x27 then .ok (.jalr rd ra imm)
  else if op = 0x28 then zeroIf (ra == 0#5 && hi8 == 0#8) (.mfsr rd (w.extractLsb' 0 8))
  else if op = 0x29 then zeroIf (rd == 0#5 && hi8 == 0#8) (.mtsr ra (w.extractLsb' 0 8))
  else if op = 0x2A then zeroIf (rd == 0#5 && ra == 0#5) (.trap imm)
  else if op = 0x2B then zeroIf (rd == 0#5 && ra == 0#5 && imm == 0#16) .brk
  else if op = 0x2C then zeroIf (rd == 0#5 && ra == 0#5 && imm == 0#16) .stop
  else if op = 0x30 then decodeFp rd ra rb fn
  else if op = 0x31 then
    zeroIf (w.extractLsb' 0 6 == 0#6) (.fma false rd ra rb (w.extractLsb' 6 5))
  else if op = 0x32 then
    zeroIf (w.extractLsb' 0 6 == 0#6) (.fma true rd ra rb (w.extractLsb' 6 5))
  else if op = 0x33 then
    decodeConv rd ra (w.extractLsb' 12 4) (w.extractLsb' 10 2) (w.getLsbD 9)
      (w.extractLsb' 6 3).toNat (w.extractLsb' 0 6)
  else if 0x38 ≤ op then
    decodeEngine op rd ra rb (w.extractLsb' 6 5).toNat (w.extractLsb' 0 6)
  else
    match immOpOfCode op, condOfCode op, loadOpOfCode op, storeOpOfCode op with
    | some o, _, _, _ => zeroIf (!immOpShift o || w.extractLsb' 6 10 == 0#10) (.imm o rd ra imm)
    | _, some c, _, _ => .ok (.branch c rd ra (w.getLsbD 15) (w.extractLsb' 0 15))
    | _, _, some o, _ => .ok (.load o rd ra imm)
    | _, _, _, some o => .ok (.store o rd ra imm)
    | none, none, none, none => .bad .opcode

/-- The table gives no row any bits, so no word spells a command. -/
def decodeTableWord (_nbits _w : Nat) : Option Instr := none

end Sys2Proof
end

