-- ==== Sys2Proof/Machine/Formats.lean ====
section
/-! DEFINITION. The sixteen storage formats and every conversion between them
(spec/02_number_formats.md, R49 to R76). A value is held exactly, as a signed dyadic
`m * 2 ^ e`; one rounding function serves every target. -/

namespace Sys2Proof.Machine

/-- The storage formats of Table 2.1, in the order of their codes. -/
inductive Fmt where
  | fp32 | fp64 | fp16 | bf16 | f8a | f8b | int32 | int16 | int8 | uint8 | int4 | uint4
  | bs8 | bs4 | tern2 | bin1
  deriving DecidableEq, Repr

/-- R49: every 4-bit code names a format. -/
def fmtOfCode (c : Nat) : Fmt :=
  match c % 16 with
  | 0 => .fp32 | 1 => .fp64 | 2 => .fp16 | 3 => .bf16 | 4 => .f8a | 5 => .f8b
  | 6 => .int32 | 7 => .int16 | 8 => .int8 | 9 => .uint8 | 10 => .int4 | 11 => .uint4
  | 12 => .bs8 | 13 => .bs4 | 14 => .tern2 | _ => .bin1

/-- The 4-bit code of Table 2.1. -/
def fmtCode : Fmt → Nat
  | .fp32 => 0 | .fp64 => 1 | .fp16 => 2 | .bf16 => 3 | .f8a => 4 | .f8b => 5
  | .int32 => 6 | .int16 => 7 | .int8 => 8 | .uint8 => 9 | .int4 => 10 | .uint4 => 11
  | .bs8 => 12 | .bs4 => 13 | .tern2 => 14 | .bin1 => 15

/-- An exact value: NaN, an infinity, or `(-1)^neg * m * 2^e`. The sign of zero is kept. -/
inductive Num where
  | nan
  | inf (neg : Bool)
  | fin (neg : Bool) (m : Nat) (e : Int)
  deriving DecidableEq, Repr

/-- Rounding modes of Table 2.4 (0b11 is illegal and never reaches a conversion, R65). -/
inductive Rm where
  | nearest | zero | stochastic
  deriving DecidableEq, Repr

/-- R65, Table 2.4: the 2-bit RM field; none for the illegal 0b11. -/
def rmOfCode (c : Nat) : Option Rm :=
  match c % 4 with
  | 0 => some .nearest | 1 => some .zero | 2 => some .stochastic | _ => none

/-- The format flag field of Table 2.5. -/
abbrev Flags := BitVec 8

def flagNX : Flags := 1#8
def flagUF : Flags := 2#8
def flagOF : Flags := 4#8
def flagNV : Flags := 8#8
def flagSAT : Flags := 16#8

/-- `f` when `b`, no flag otherwise. -/
def flagIf (b : Bool) (f : Flags) : Flags := if b then f else 0#8

/-- The parameters of a floating-point format (Table 2.2): fraction bits, exponent of the least
subnormal, the encoding width, the largest finite encoding, whether it has infinities. -/
structure FloatSpec where
  frac : Nat
  emin : Int
  width : Nat
  maxFinite : Nat
  hasInf : Bool
  nan : Nat
  deriving DecidableEq, Repr

/-- Table 2.2 and R52. -/
def specFp64 : FloatSpec := ⟨52, -1074, 64, 0x7FEFFFFFFFFFFFFF, true, 0x7FF8000000000000⟩
def specFp32 : FloatSpec := ⟨23, -149, 32, 0x7F7FFFFF, true, 0x7FC00000⟩
def specFp16 : FloatSpec := ⟨10, -24, 16, 0x7BFF, true, 0x7E00⟩
def specBf16 : FloatSpec := ⟨7, -133, 16, 0x7F7F, true, 0x7FC0⟩
def specF8a : FloatSpec := ⟨3, -9, 8, 0x7F, false, 0x80⟩
def specF8b : FloatSpec := ⟨2, -16, 8, 0x7B, true, 0x7E⟩

/-- What kind of target a scalar element format is: floating point, or an integer of a width. -/
inductive ElemSpec where
  | float (s : FloatSpec)
  | int (bits : Nat) (signed : Bool)
  deriving DecidableEq, Repr

/-- The element encoding of the twelve formats whose elements stand alone (Table 2.1). -/
def elemSpec : Fmt → Option ElemSpec
  | .fp32 => some (.float specFp32) | .fp64 => some (.float specFp64)
  | .fp16 => some (.float specFp16) | .bf16 => some (.float specBf16)
  | .f8a => some (.float specF8a) | .f8b => some (.float specF8b)
  | .int32 => some (.int 32 true) | .int16 => some (.int 16 true) | .int8 => some (.int 8 true)
  | .uint8 => some (.int 8 false) | .int4 => some (.int 4 true) | .uint4 => some (.int 4 false)
  | _ => none

/-- R82, R75: does the format hold integers (an integer-to-integer conversion rounds nothing)? -/
def fmtIsInt : Fmt → Bool
  | .int32 | .int16 | .int8 | .uint8 | .int4 | .uint4 => true
  | _ => false

/-- Element width in bits (Table 2.1). -/
def fmtBits : Fmt → Nat
  | .fp64 => 64 | .fp32 | .int32 => 32 | .fp16 | .bf16 | .int16 => 16
  | .f8a | .f8b | .int8 | .uint8 | .bs8 => 8
  | .int4 | .uint4 | .bs4 => 4
  | .tern2 => 2 | .bin1 => 1

/-! ### Row sizes (R63) -/

/-- The granule of Table 2.3. -/
def fmtGranule : Fmt → Nat
  | .fp64 => 2 | .fp32 | .int32 => 4 | .fp16 | .bf16 | .int16 => 8
  | .f8a | .f8b | .int8 | .uint8 => 16
  | .int4 | .uint4 | .bs8 | .bs4 => 32
  | .tern2 => 64 | .bin1 => 128

/-- R63, Table 2.3: the bytes of a row of `n` elements. -/
def rowBytes (f : Fmt) (n : Nat) : Nat :=
  match f with
  | .bs8 => n + 16 * ((n + 511) / 512)
  | .bs4 => n / 2 + 16 * ((n + 511) / 512)
  | .tern2 => 16 + n / 4
  | _ => n * fmtBits f / 8

/-- R63: `n` is a row length of the format. -/
def rowOk (f : Fmt) (n : Nat) : Bool :=
  0 < n && n % fmtGranule f == 0 && rowBytes f n ≤ 8192

/-! ### Byte order and bit fields -/

/-- The unsigned number of a little-endian byte list. -/
def leNat : List Byte → Nat
  | [] => 0
  | b :: bs => b.toNat + 256 * leNat bs

/-- The `k` low bytes of `n`, least significant first. -/
def leBytes : Nat → Nat → List Byte
  | 0, _ => []
  | k + 1, n => BitVec.ofNat 8 n :: leBytes k (n / 256)

/-- Bits `lo` up of `n`, `w` of them. -/
def bitsOf (n lo w : Nat) : Nat := (n >>> lo) % 2 ^ w

/-- `n` as a two's complement number of `w` bits. -/
def signedOf (w n : Nat) : Int :=
  let m := n % 2 ^ w
  if 2 * m < 2 ^ w then (m : Int) else (m : Int) - (2 ^ w : Nat)

/-- The low `w` bits of an integer, as an unsigned number. -/
def unsignedOf (w : Nat) (i : Int) : Nat := (i % ((2 ^ w : Nat) : Int)).toNat

/-! ### Exact values -/

/-- The exact value of an integer. -/
def numOfInt (i : Int) : Num := .fin (i < 0) i.natAbs 0

def numIsNan : Num → Bool
  | .nan => true | _ => false
def numIsInf : Num → Bool
  | .inf _ => true | _ => false
def numIsFin : Num → Bool
  | .fin .. => true | _ => false
def numIsZero : Num → Bool
  | .fin _ m _ => m == 0 | _ => false
def numNeg : Num → Num
  | .nan => .nan | .inf s => .inf (!s) | .fin s m e => .fin (!s) m e
def numAbs : Num → Num
  | .nan => .nan | .inf _ => .inf false | .fin _ m e => .fin false m e

/-- `a * 2^ea` and `b * 2^eb` over one exponent. -/
def numAlign (a : Nat) (ea : Int) (b : Nat) (eb : Int) : Nat × Nat × Int :=
  if ea ≤ eb then (a, b <<< (eb - ea).toNat, ea) else (a <<< (ea - eb).toNat, b, eb)

/-- Exact signed comparison of two finite values: is the first less than the second? -/
def finLt (s1 : Bool) (m1 : Nat) (e1 : Int) (s2 : Bool) (m2 : Nat) (e2 : Int) : Bool :=
  let (a, b, _) := numAlign m1 e1 m2 e2
  let x : Int := if s1 then -(a : Int) else a
  let y : Int := if s2 then -(b : Int) else b
  x < y

/-- `a < b` in the order of the reals with infinities; false when either is a NaN. -/
def numLt : Num → Num → Bool
  | .nan, _ => false
  | _, .nan => false
  | .inf s, .inf t => s && !t
  | .inf s, .fin .. => s
  | .fin .., .inf t => !t
  | .fin s1 m1 e1, .fin s2 m2 e2 => finLt s1 m1 e1 s2 m2 e2

/-- Equality of values (both zeros equal); false when either is a NaN. -/
def numEq : Num → Num → Bool
  | .nan, _ => false
  | _, .nan => false
  | .inf s, .inf t => s == t
  | .inf _, .fin .. => false
  | .fin .., .inf _ => false
  | .fin s1 m1 e1, .fin s2 m2 e2 => !finLt s1 m1 e1 s2 m2 e2 && !finLt s2 m2 e2 s1 m1 e1

/-- The exact sum; `true` when the sum is invalid (∞ − ∞), which is a NaN. An exact zero sum of
unlike signs is +0. -/
def numAdd : Num → Num → Num × Bool
  | .nan, _ => (.nan, false)
  | _, .nan => (.nan, false)
  | .inf s, .inf t => if s == t then (.inf s, false) else (.nan, true)
  | .inf s, .fin .. => (.inf s, false)
  | .fin .., .inf t => (.inf t, false)
  | .fin s1 m1 e1, .fin s2 m2 e2 =>
    let (a, b, e) := numAlign m1 e1 m2 e2
    let x : Int := (if s1 then -(a : Int) else a) + (if s2 then -(b : Int) else b)
    if x = 0 then (.fin (s1 && s2) 0 0, false) else (.fin (x < 0) x.natAbs e, false)

def numSub (a b : Num) : Num × Bool := numAdd a (numNeg b)

/-- The exact product; `true` when it is invalid (0 × ∞). -/
def numMul : Num → Num → Num × Bool
  | .nan, _ => (.nan, false)
  | _, .nan => (.nan, false)
  | .inf s, .inf t => (.inf (s != t), false)
  | .inf s, .fin t m _ => if m == 0 then (.nan, true) else (.inf (s != t), false)
  | .fin s m _, .inf t => if m == 0 then (.nan, true) else (.inf (s != t), false)
  | .fin s1 m1 e1, .fin s2 m2 e2 => (.fin (s1 != s2) (m1 * m2) (e1 + e2), false)

/-- The exact `a × b + c`; `true` when a step is invalid. -/
def numFma (a b c : Num) : Num × Bool :=
  let (p, i1) := numMul a b
  let (r, i2) := numAdd p c
  (r, i1 || i2)

/-- A quotient `m / d * 2^e` of naturals as a dyadic with 128 bits beyond the dividend and a sticky
last bit: every rounding of Table 2.4 sees it as it would see the exact quotient. -/
def stickyDiv (m d : Nat) (e : Int) : Nat × Int :=
  let sh := 192 + Nat.log2 (d + 1)
  let n := m <<< sh
  (2 * (n / d) + (if n % d == 0 then 0 else 1), e - (sh : Int) - 1)

/-- The quotient; `true` for 0/0 and ∞/∞. A finite value over zero is an infinity. -/
def numDiv : Num → Num → Num × Bool
  | .nan, _ => (.nan, false)
  | _, .nan => (.nan, false)
  | .inf _, .inf _ => (.nan, true)
  | .inf s, .fin t _ _ => (.inf (s != t), false)
  | .fin s _ _, .inf t => (.fin (s != t) 0 0, false)
  | .fin s1 m1 e1, .fin s2 m2 e2 =>
    if m2 == 0 then (if m1 == 0 then (.nan, true) else (.inf (s1 != s2), false))
    else
      let (q, e) := stickyDiv m1 m2 (e1 - e2)
      (.fin (s1 != s2) q e, false)

/-- Bit-by-bit integer square root: `fuel` bits are tried from the top. -/
def isqrtGo : Nat → Nat → Nat → Nat
  | 0, _, r => r
  | k + 1, n, r =>
    let c := r + 2 ^ k
    isqrtGo k n (if c * c ≤ n then c else r)

/-- The integer square root of `n`. -/
def isqrt (n : Nat) : Nat := isqrtGo (Nat.log2 n / 2 + 1) n 0

/-- The square root; `true` for a negative operand (−0 gives −0). -/
def numSqrt : Num → Num × Bool
  | .nan => (.nan, false)
  | .inf s => if s then (.nan, true) else (.inf false, false)
  | .fin s m e =>
    if m == 0 then (.fin s 0 0, false)
    else if s then (.nan, true)
    else
      let odd := if e % 2 = 0 then 0 else 1
      let n := m <<< (256 + odd)
      let r := isqrt n
      (.fin false (2 * r + (if r * r == n then 0 else 1)) ((e - odd - 256) / 2 - 1), false)

/-! ### Rounding (R65 to R70) -/

/-- R70: the 16-bit stochastic threshold of one element. -/
abbrev Threshold := Nat

/-- Shift `m` right by `sh`, rounding under `rm`; the flag says whether bits were lost. R70: under
stochastic rounding the magnitude goes up when ⌊f × 65,536⌋ exceeds R. -/
def roundShift (rm : Rm) (r : Threshold) (m sh : Nat) : Nat × Bool :=
  let hi := m >>> sh
  let rem := m % 2 ^ sh
  let up := match rm with
    | .nearest => 2 ^ sh < 2 * rem || (2 * rem == 2 ^ sh && hi % 2 == 1)
    | .zero => false
    | .stochastic => r < (rem * 65536) >>> sh
  (if up then hi + 1 else hi, rem != 0)

/-- Round the magnitude `m * 2^e` to a multiple of `2^q`. -/
def roundTo (rm : Rm) (r : Threshold) (m : Nat) (e q : Int) : Nat × Bool :=
  if q ≤ e then (m <<< (e - q).toNat, false) else roundShift rm r m (q - e).toNat

/-- The exponent of the last place of a floating-point result for `m * 2^e`. -/
def lastPlace (s : FloatSpec) (m : Nat) (e : Int) : Int :=
  max s.emin ((Nat.log2 m : Int) + e - s.frac)

/-- The encoding with a sign bit above a magnitude. F8A has no negative zero (R52). -/
def withSign (s : FloatSpec) (neg : Bool) (mag : Nat) : Nat :=
  if neg && (s.hasInf || mag != 0) then mag + 2 ^ (s.width - 1) else mag

/-- The infinity encoding's magnitude. -/
def infMag (s : FloatSpec) : Nat := s.maxFinite + 1

/-- R66, R73: a rounded magnitude above the largest finite value. -/
def floatOverflow (s : FloatSpec) (rm : Rm) (sat neg : Bool) : Nat × Flags :=
  if sat then (withSign s neg s.maxFinite, flagOF ||| flagNX ||| flagSAT)
  else if !s.hasInf then (s.nan, flagOF ||| flagNX)
  else if rm = .zero then (withSign s neg s.maxFinite, flagOF ||| flagNX)
  else (withSign s neg (infMag s), flagOF ||| flagNX)

/-- R73, Table 2.6: convert an exact value to a floating-point encoding. -/
def encodeFloat (s : FloatSpec) (rm : Rm) (sat : Bool) (r : Threshold) : Num → Nat × Flags
  | .nan => (s.nan, 0#8)
  | .inf neg =>
    if s.hasInf then (withSign s neg (infMag s), 0#8)
    else if sat then (withSign s neg s.maxFinite, flagOF ||| flagNX ||| flagSAT)
    else (s.nan, flagOF)
  | .fin neg m e =>
    if m == 0 then (withSign s neg 0, 0#8)
    else
      let q := lastPlace s m e
      let (m', lost) := roundTo rm r m e q
      let mag := (q - s.emin).toNat * 2 ^ s.frac + m'
      if s.maxFinite < mag then floatOverflow s rm sat neg
      else
        let tiny := (Nat.log2 m : Int) + e < s.emin + s.frac
        (withSign s neg mag, flagIf lost flagNX ||| flagIf (lost && tiny) flagUF)

/-- The exact value of a floating-point encoding (R51 to R53; F8A by R52). -/
def decodeFloat (s : FloatSpec) (bits : Nat) : Num :=
  let b := bits % 2 ^ s.width
  let neg := 2 ^ (s.width - 1) ≤ b
  let mag := b % 2 ^ (s.width - 1)
  if !s.hasInf && b == s.nan then .nan
  else if s.hasInf && infMag s < mag then .nan
  else if s.hasInf && mag == infMag s then .inf neg
  else
    let ex := mag / 2 ^ s.frac
    let f := mag % 2 ^ s.frac
    if ex == 0 then .fin neg f s.emin
    else .fin neg (2 ^ s.frac + f) (s.emin + (ex : Int) - 1)

/-- Least and greatest value of an integer format. -/
def intMin (bits : Nat) (signed : Bool) : Int := if signed then -((2 ^ (bits - 1) : Nat) : Int) else 0
def intMax (bits : Nat) (signed : Bool) : Int :=
  if signed then ((2 ^ (bits - 1) : Nat) : Int) - 1 else ((2 ^ bits : Nat) : Int) - 1

/-- R74: the indefinite integer value. -/
def intIndefinite (bits : Nat) (signed : Bool) : Int :=
  if signed then intMin bits signed else intMax bits signed

/-- R73, R75: an integer result `i`, out of range or not. `src` says the source is an integer. -/
def encodeInt (bits : Nat) (signed sat src : Bool) (i : Int) (lost : Bool) : Nat × Flags :=
  if intMin bits signed ≤ i && i ≤ intMax bits signed then
    (unsignedOf bits i, flagIf lost flagNX)
  else if sat then
    (unsignedOf bits (if i < 0 then intMin bits signed else intMax bits signed),
      flagOF ||| flagNX ||| flagSAT)
  else if src then (unsignedOf bits i, flagOF ||| flagNX)
  else (unsignedOf bits (intIndefinite bits signed), flagOF ||| flagNX)

/-- R73, R75: convert an exact value to an integer format. -/
def encodeIntNum (bits : Nat) (signed : Bool) (rm : Rm) (sat src : Bool) (r : Threshold) :
    Num → Nat × Flags
  | .nan => (0, flagNV)
  | .inf neg =>
    if sat then
      (unsignedOf bits (if neg then intMin bits signed else intMax bits signed),
        flagOF ||| flagNX ||| flagSAT)
    else (unsignedOf bits (intIndefinite bits signed), flagOF ||| flagNX)
  | .fin neg m e =>
    let (m', lost) := roundTo rm r m e 0
    encodeInt bits signed sat src (if neg then -(m' : Int) else m') lost

/-- Convert one exact value to a stand-alone element format. -/
def encodeElem (t : ElemSpec) (rm : Rm) (sat src : Bool) (r : Threshold) (x : Num) : Nat × Flags :=
  match t with
  | .float s => encodeFloat s rm sat r x
  | .int bits signed => encodeIntNum bits signed rm sat src r x

/-- The exact value of a stand-alone element. -/
def decodeElem (t : ElemSpec) (bits : Nat) : Num :=
  match t with
  | .float s => decodeFloat s bits
  | .int w signed =>
    numOfInt (if signed then signedOf w bits else ((bits % 2 ^ w : Nat) : Int))

/-! ### Rows -/

/-- The elements of `w` bits packed least significant first in a byte list (R54, R55). -/
def unpackBits (w n : Nat) (bs : List Byte) : List Nat :=
  let v := leNat bs
  (List.range n).map fun i => bitsOf v (w * i) w

/-- Pack elements of `w` bits, least significant first. -/
def packBits (w : Nat) : List Nat → Nat
  | [] => 0
  | x :: xs => x % 2 ^ w + 2 ^ w * packBits w xs

/-- R56, R57: one element of a block-scaled row. -/
def decodeScaled (w : Nat) (scale v : Nat) : Num :=
  if scale == 255 then .nan
  else
    let i := signedOf w v
    .fin (i < 0) i.natAbs ((scale : Int) - 127)

/-- R60: a TERN2 code under σ. -/
def decodeTern (sigma : Num) (c : Nat) : Num :=
  if c == 1 then sigma else if c == 3 then numNeg sigma else .fin false 0 0

/-- R62: a BIN1 bit. -/
def decodeBin (b : Nat) : Num := .fin (b == 1) 1 0

/-- The exact values of a row of `n` elements (R54 to R57, R60, R62). -/
def decodeRow (f : Fmt) (n : Nat) (bs : List Byte) : List Num :=
  match elemSpec f with
  | some t => (unpackBits (fmtBits f) n bs).map (decodeElem t)
  | none =>
    match f with
    | .tern2 =>
      let sigma := decodeFloat specFp16 (leNat (bs.take 2))
      (unpackBits 2 n (bs.drop 16)).map (decodeTern sigma)
    | .bin1 => (unpackBits 1 n bs).map decodeBin
    | _ =>
      let w := fmtBits f
      let scales := bs.drop (n * w / 8)
      (unpackBits w n bs).zipIdx.map fun (v, i) =>
        decodeScaled w ((scales.getD (i / 32) 0#8).toNat) v

/-- R58: the least E from −127 to 127 with `m * 2^e * 2^(−E) ≤ q`. -/
def scaleExp (q : Nat) (m : Nat) (e : Int) : Int :=
  if m == 0 then -127
  else
    let top : Int := (Nat.log2 m : Int) + e - (Nat.log2 q : Int)
    let fits := let (a, b, _) := numAlign m e q top; decide (a ≤ b)
    max (-127) (min 127 (if fits then top else top + 1))

/-- The larger of two finite magnitudes. -/
def magMax (a b : Nat × Int) : Nat × Int :=
  if finLt false a.1 a.2 false b.1 b.2 then b else a

/-- FP32's largest finite value, as a magnitude (Table 2.6 counts an infinity so). -/
def fp32MaxMag : Nat × Int := (0xFFFFFF, 104)

/-- R58: what one input adds to its block's M. -/
def blockMag (sat : Bool) : Num → Nat × Int
  | .nan => (0, 0)
  | .inf _ => if sat then fp32MaxMag else (0, 0)
  | .fin _ m e => (m, e)

/-- R57, R73: an input that makes its block a NaN block. -/
def blockPoison (sat : Bool) : Num → Bool
  | .nan => true | .inf _ => !sat | .fin .. => false

/-- R58, R59, R73: quantize one element of a block of exponent `ex`. -/
def quantElem (w q : Nat) (ex : Int) (rm : Rm) (r : Threshold) : Num → Nat × Flags
  | .nan => (0, flagNV)
  | .inf neg => (unsignedOf w (if neg then -(q : Int) else q), flagOF ||| flagNX ||| flagSAT)
  | .fin neg m e =>
    let (m', lost) := roundTo rm r m (e - ex) 0
    if q < m' then (unsignedOf w (if neg then -(q : Int) else q), flagOF ||| flagNX ||| flagSAT)
    else (unsignedOf w (if neg then -(m' : Int) else m'), flagIf lost flagNX)

/-- R57, R67: the flags of an element of a NaN block, whose value is 0. -/
def poisonFlags : Num → Flags
  | .nan => flagNV
  | .inf _ => flagOF
  | .fin .. => flagNX

/-- R58: a block of up to 32 inputs with their thresholds; the scale byte, the codes, the flags. -/
def encodeBlock (w q : Nat) (rm : Rm) (sat : Bool) (xs : List (Num × Threshold)) :
    Nat × List Nat × Flags :=
  if xs.any (fun x => blockPoison sat x.1) then
    (255, xs.map (fun _ => 0), xs.foldl (fun f x => f ||| poisonFlags x.1) 0#8)
  else
    let (m, e) := xs.foldl (fun a x => magMax a (blockMag sat x.1)) (0, 0)
    let ex := scaleExp q m e
    let ys := xs.map fun x => quantElem w q ex rm x.2 x.1
    ((ex + 127).toNat, ys.map (·.1), ys.foldl (fun f y => f ||| y.2) 0#8)

/-- Cut a list into pieces of `k`; `fuel` bounds the number of pieces. -/
def chunks {α : Type} (k : Nat) : Nat → List α → List (List α)
  | 0, _ => []
  | fuel + 1, xs => if xs.isEmpty then [] else xs.take k :: chunks k fuel (xs.drop k)

/-- R61 step 1 and 2: σ in FP16, the mean of the finite magnitudes. -/
def ternSigma (xs : List Num) : Nat :=
  let fins := xs.filter numIsFin
  if fins.isEmpty then 0
  else
    let sum := fins.foldl (fun a x => (numAdd a (numAbs x)).1) (.fin false 0 0)
    match sum with
    | .fin _ m e =>
      let (q, e') := stickyDiv m fins.length e
      (encodeFloat specFp16 .nearest true 0 (.fin false q e')).1
    | _ => 0

/-- R61 step 3 and Table 2.6: the code of one element. -/
def ternCode (sigma : Num) : Num → Nat × Flags
  | .nan => (0, flagNV)
  | .inf neg => (if neg then 3 else 1, flagOF ||| flagNX)
  | .fin neg m e =>
    let x := Num.fin neg m e
    let half := (numMul sigma (.fin false 1 (-1))).1
    let c := if numIsZero sigma then 0
      else if numLt half x then 1
      else if numLt x (numNeg half) then 3 else 0
    (c, flagIf (!numEq (decodeTern sigma c) x) flagNX)

/-- R62, R67, Table 2.6: the bit of one element. -/
def binCode (x : Num) : Nat × Flags :=
  match x with
  | .nan => (0, flagNV)
  | .inf neg => (if neg then 1 else 0, flagOF ||| flagNX)
  | .fin neg m _ =>
    let b := if neg && m != 0 then 1 else 0
    (b, flagIf (!numEq (decodeBin b) x) flagNX)

def orFlags (xs : List (Nat × Flags)) : Flags := xs.foldl (fun f x => f ||| x.2) 0#8

/-- Zero padding up to `k` bytes (R64). -/
def padTo (k : Nat) (bs : List Byte) : List Byte := bs ++ List.replicate (k - bs.length) 0#8

/-- R58 to R64, R73: the row bytes of a list of exact values with their stochastic thresholds. `src`
says the source elements are integers (R75). -/
def encodeRow (f : Fmt) (rm : Rm) (sat src : Bool) (xs : List (Num × Threshold)) :
    List Byte × Flags :=
  let n := xs.length
  match elemSpec f with
  | some t =>
    let ys := xs.map fun x => encodeElem t rm sat src x.2 x.1
    (leBytes (rowBytes f n) (packBits (fmtBits f) (ys.map (·.1))), orFlags ys)
  | none =>
    match f with
    | .tern2 =>
      let sb := ternSigma (xs.map (·.1))
      let sigma := decodeFloat specFp16 sb
      let ys := xs.map fun x => ternCode sigma x.1
      (padTo 16 (leBytes 2 sb) ++ leBytes (n / 4) (packBits 2 (ys.map (·.1))), orFlags ys)
    | .bin1 =>
      let ys := xs.map fun x => binCode x.1
      (leBytes (n / 8) (packBits 1 (ys.map (·.1))), orFlags ys)
    | _ =>
      let w := fmtBits f
      let q := 2 ^ (w - 1) - 1
      let bl := (chunks 32 (n + 1) xs).map (encodeBlock w q rm sat)
      let codes := bl.flatMap (fun b => b.2.1)
      let scales := bl.map fun b => BitVec.ofNat 8 b.1
      (padTo (rowBytes f n) (leBytes (n * w / 8) (packBits w codes) ++ scales),
        bl.foldl (fun f b => f ||| b.2.2) 0#8)

/-! ### The stochastic source (R69, R70) -/

/-- R69: a seed of zero is loaded as 1. -/
def lfsrSeed (s : W32) : W32 := if s = 0#32 then 1#32 else s

/-- R69: one step of the slot's LFSR. -/
def lfsrStep (s : W32) : W32 :=
  let b := s.getLsbD 31 ^^ s.getLsbD 21 ^^ s.getLsbD 1 ^^ s.getLsbD 0
  (s <<< 1) ||| (if b then 1#32 else 0#32)

/-- R70: the threshold R of a new LFSR state. -/
def lfsrThreshold (s : W32) : Threshold := s.toNat >>> 16

/-- `n` steps of the LFSR. -/
def lfsrSkip : Nat → W32 → W32
  | 0, s => s
  | n + 1, s => lfsrSkip n (lfsrStep s)

/-- R69, R70: the thresholds of `n` elements in ascending order; none are drawn unless the mode is
stochastic. -/
def thresholds (rm : Rm) : Nat → W32 → List Threshold
  | 0, _ => []
  | n + 1, s =>
    match rm with
    | .stochastic => lfsrThreshold (lfsrStep s) :: thresholds rm n (lfsrStep s)
    | _ => 0 :: thresholds rm n s

/-- Values with the thresholds of a conversion that starts at LFSR state `s`. -/
def withThresholds (rm : Rm) (s : W32) (xs : List Num) : List (Num × Threshold) :=
  xs.zip (thresholds rm xs.length s)

/-! ### The compensated pair (R77 to R83, R731, R732) -/

/-- One CP32 element: the sum and the error term, both FP32 encodings. -/
structure Pair where
  s : W32
  e : W32
  deriving DecidableEq, Repr

def pairZero : Pair := ⟨0#32, 0#32⟩

/-- The exact value of an FP32 encoding. -/
def fp32Num (x : W32) : Num := decodeFloat specFp32 x.toNat

/-- Round an exact value to FP32 by nearest-even with SAT = 0 (R77, R731). -/
def fp32Of (x : Num) : W32 := BitVec.ofNat 32 (encodeFloat specFp32 .nearest false 0 x).1

/-- R731: the flags of rounding an input to FP32. -/
def fp32Flags (x : Num) : Flags := (encodeFloat specFp32 .nearest false 0 x).2

def fp32Add (a b : W32) : W32 := fp32Of (numAdd (fp32Num a) (fp32Num b)).1
def fp32Sub (a b : W32) : W32 := fp32Of (numSub (fp32Num a) (fp32Num b)).1

/-- R77, R80, R732: add an FP32 value to a pair. OF only when finite operands give an infinity, NV
only when infinities of unlike sign meet. -/
def pairAdd (p : Pair) (x : W32) : Pair × Flags :=
  let (ex, inv) := numAdd (fp32Num p.s) (fp32Num x)
  let t := fp32Of ex
  if numIsFin (fp32Num t) then
    let z := fp32Sub t p.s
    let err := fp32Add (fp32Sub p.s (fp32Sub t z)) (fp32Sub x z)
    (⟨t, fp32Add p.e err⟩, 0#8)
  else
    (⟨t, 0#32⟩,
      flagIf inv flagNV ||| flagIf (numIsFin (fp32Num p.s) && numIsFin (fp32Num x)) flagOF)

/-- The error term of a pair whose sum is finite takes one more addend. -/
def pairAddErr (p : Pair) (x : W32) : Pair :=
  if numIsFin (fp32Num p.s) then ⟨p.s, fp32Add p.e x⟩ else p

/-- R78: add the product of two FP32 values to a pair. A product of zero and infinity is a NaN and raises no NV: R732 names the
cases of R80 alone (DESIGN CHOICE, log 48). -/
def pairAddProduct (p : Pair) (a b : W32) : Pair × Flags :=
  let prod := fp32Of (numMul (fp32Num a) (fp32Num b)).1
  let (p1, f) := pairAdd p prod
  let rest := fp32Of (numFma (fp32Num a) (fp32Num b) (numNeg (fp32Num prod))).1
  let f := if numIsInf (fp32Num p1.s) && numIsFin (fp32Num p.s) && numIsFin (fp32Num a)
      && numIsFin (fp32Num b) then f ||| flagOF else f
  (pairAddErr p1 rest, f)

/-- R326: add an exact value to a pair, its rounding error included. -/
def pairAddExact (p : Pair) (x : Num) : Pair × Flags :=
  let v := fp32Of x
  let (p1, f) := pairAdd p v
  let rest := fp32Of (numSub x (fp32Num v)).1
  let f := if numIsFin x && numIsInf (fp32Num v) && numIsFin (fp32Num p.s) then f ||| flagOF else f
  (pairAddErr p1 rest, f)

/-- R79: combine a second pair into a first. -/
def pairCombine (p q : Pair) : Pair × Flags :=
  let (p1, f) := pairAdd p q.s
  (pairAddErr p1 q.e, f)

/-- R81: the exact value a pair writes back. A sum that is the real 0 is +0, of -0 and +0 too (DESIGN CHOICE, log 53: the spec
gives no sign). -/
def pairNum (p : Pair) : Num :=
  match fp32Num p.s with
  | .fin .. => (numAdd (fp32Num p.s) (fp32Num p.e)).1
  | x => x

/-- R83: the 64-bit view. -/
def pairView (p : Pair) : W64 := p.e ++ p.s

/-- R83: the pair of a 64-bit view. -/
def pairOfView (v : W64) : Pair := ⟨v.extractLsb' 0 32, v.extractLsb' 32 32⟩

/-- R82: INT64 accumulation wraps and raises OF. -/
def int64Add (a b : Int) : Int × Flags :=
  let s := a + b
  let w := signedOf 64 (unsignedOf 64 s)
  (w, flagIf (w != s) flagOF)

end Sys2Proof.Machine
end

