-- ==== Sys2Proof/Config.lean ====
section
/-! DEFINITION. What the spec fixes for no value: the free values. Each is an opaque constant, so that no
proof can see what it is; it is applied to the counter `State.free`, which the step advances, or to
the operands it depends on. -/

namespace Sys2Proof

/-- A byte the spec leaves open: the data of a poisoned line whose word was never read (Table 6.7),
the contents of a row-cache way after POWER_UP (Table 10.6). Log entry 2. -/
opaque Config.freeByte : Nat → BitVec 8

/-- A 64-bit value the spec leaves open. Log entry 2. -/
opaque Config.freeWord : Nat → BitVec 64

/-- R360: min(max(v, l), u) when one of the three is a NaN, by their FP64 encodings. Log entry 2. -/
opaque Config.clampNan : BitVec 64 → BitVec 64 → BitVec 64 → BitVec 64


/-- The number that stands for a cause in a record whose rule names the cause and gives no numbers for it (R503, *When
it fails*; R609). Log entry 2. -/
opaque Config.causeCode : Nat → BitVec 16

/-- R578, Table 19.3: the V/f table of a quadrant, with the board record's margin: the VDD_CORE setpoint in mV for a clock
in MHz. Log entry 2. -/
opaque Config.vfTable : Nat → Nat → BitVec 11

/-- The logical core ID that SEQ_LOGCORE shows for a core that no logical core is bound to (Table 3.9). Log entry 2. -/
opaque Config.unboundCore : Nat → BitVec 8

/-- R440: the set of the device translation cache that holds an entry, by what tags it. Log entry 2. -/
opaque Config.dtcGranuleSet : Nat → Nat → Nat → BitVec 10
opaque Config.dtcHostSet : Nat → Option Nat → Nat → BitVec 10

/-- Mehrica's PCI Vendor ID (R454). Log entry 2. -/
opaque Config.vendorId : BitVec 16

/-- Mehrica's JEDEC manufacturer code (Table 20.5). Log entry 2. -/
opaque Config.jedecCode : BitVec 11

end Sys2Proof
end

