-- ==== Sys2Proof/Machine/RegTable.lean ====
section
/-! DEFINITION. The register tables of the spec (Tables 3.9, 3.10, 6.4, 7.8, 8.6, 9.7, 10.9, 10.10,
11.11, 11.12, 12.9, 13.10, 13.11, 14.4, 15.11, 16.6, 16.10, 17.6, 19.8, 20.2 to 20.4, 20.6, 20.7, 20.9): names,
addresses in control space, fields with their access types, and reset values. -/

namespace Sys2Proof.Machine

/-- The register blocks of Tables 20.2 and 20.3. -/
inductive Blk where
  | core | seq | fe | xe | dbgc | tag | rmu | dsp | mu | slv | rc | rcs | xl | mc | kl | jn | tt | sm | gov | sb | log | px | dbg
  deriving DecidableEq, Repr

/-- Base of instance `u` of a block (Tables 20.2, 20.3). -/
def blkBase (b : Blk) (u : Nat) : Nat :=
  match b with
  | .core => 0xF000000000 + 0x20000 * u
  | .seq => 0xF000001000 + 0x20000 * u
  | .fe => 0xF000002000 + 0x20000 * u
  | .xe => 0xF000003000 + 0x20000 * u
  | .dbgc => 0xF000008000 + 0x20000 * u
  | .mu => 0xF001400000 + 0x10000 * u
  | .rcs => 0xF001408000 + 0x10000 * u
  | .slv => 0xF001540000 + 0x1000 * u
  | .rc => 0xF001600000 | .tag => 0xF001610000 | .rmu => 0xF001620000 | .mc => 0xF001640000
  | .xl => 0xF001680000 | .dsp => 0xF0016A0000 | .px => 0xF0016C0000 | .jn => 0xF0016D0000
  | .sb => 0xF0016E0000 | .log => 0xF0016F0000
  | .kl => 0xF001700000 + 0x1000 * u
  | .tt => 0xF001800000 | .sm => 0xF001810000 | .gov => 0xF001820000 | .dbg => 0xF001900000

/-- How many instances of a block there are. -/
def blkCount : Blk → Nat
  | .core | .seq | .fe | .xe | .dbgc => 160
  | .mu | .rcs => 20
  | .slv => 4
  | .kl => 32
  | _ => 1

/-- The distance between two instances of a block. -/
def blkStride : Blk → Nat
  | .core | .seq | .fe | .xe | .dbgc => 0x20000
  | .mu | .rcs => 0x10000
  | .slv | .kl => 0x1000
  | _ => 0

/-- Access types (R11). -/
inductive Acc where
  | ro | rw | rwl | w1c | rc | wo
  deriving DecidableEq, Repr

/-- One field: least bit, width, access, value after cold reset (0 where the table says S). -/
structure Field where
  lsb : Nat
  width : Nat
  acc : Acc
  reset : Nat
  deriving DecidableEq, Repr

/-- One register of the tables: `n1` by `n2` elements at strides `s1` and `s2`. -/
structure RegInfo where
  blk : Blk
  off : Nat
  wide : Bool
  n1 : Nat
  s1 : Nat
  n2 : Nat
  s2 : Nat
  fields : List Field
  deriving DecidableEq, Repr

/-- The registers, by name. -/
inductive RegName where
  | coreId | seqStatus | seqExpress | seqTagheld | seqTrapcause | seqTrappc | seqTrapval
  | seqSquashed | seqCopbusy | seqLogcore | seqTagquota | seqTagpool | seqQuotasum | feStatus
  | feStall | feHalts | xeStatus | xeStall | xePoison | rmuMtreg | rmuLastclose | rmuApplied
  | rmuFail | rmuFailstep | rmuIn | rmuSpilled | rmuOut | rmuRefused | rmuDupdrop | rmuDupkey
  | dspIdxdrop | dspLdev | muStatus | muCyc | muPanels | muPruned | muPoison | slvStatus
  | slvLanebusy | slvLaneoff | slvEnd | slvPivots | slvDsissue | slvRestart | slvPending
  | rcStatus | rcCmd | rcCmdslice | rcCmdstat | rcReserve | rcEcccfg | rcClassmask | rcWaystate
  | rcWayinv | rcWayfault | rcSalt | rcLfsr | rcMissuse | rcCecnt | rcEvictdirty | rcPfdrop
  | rcCorrected | rcHits | rcMisses | xlCtxbind | xlSegtbase | xlMirror | xlFrbase | xlFrcfg
  | xlFrhead | xlFrtail | xlHotthr | xlEpoch | xlPending | xlHotlost | xlLkmiss | xlDtcmiss
  | xlPriout | xlIwctl | xlIwlen | xlIwbase | xlIwbox | mcOwn | dspA4base | dspCtxreset
  | dspFnreset | dspCtxcores | dspPring | dspPringcfg | dspQctl | dspQsqbase | dspQcqbase
  | dspQtaken | dspQirq | dspQhead | dspQtails | dspQout | dspXlatcfg | dspXhist | dspXmax
  | dspXover | klStatus | klCfg | klTxflits | klRxflits | klCrcerr | klRetries | klFeccorr
  | klFecunc | klDowns | klCredit | jnSelf | jnDims | jnDescid | jnFabid | jnPortmap | jnCfg
  | jnStatus | jnDetour | jnBundle | jnTimeout | jnLate | jnUnreach | jnCombined | jnReverse
  | jnLost | jnFailover | ttStatus | ttSec | ttNsfrac | ttIncr | ttOffset | ttArmed | ttCfg
  | ttTod | ttSteps | ttSynclost | ttHoldsec | ttPpsbad | smStatus | smStraps | smFwver
  | smMboxdb | smMboxstat | smMboxvec | smBoot | smMboxcmd | smMboxrsp | govStatus | govQclk
  | govQvolt | govAllot | govCfg | govLimits | govLsubmit | govLstat | govCycles | govSkipped
  | govFallbacks | sbCstat | sbCfence | sbLmap | sbMufail | sbSlvfail | sbPortfence | sbChfail
  | sbCkpolicy | sbWayfence | sbDiverge | sbChecker | sbSelftest | logStatus | logRbase | logRcfg
  | logRhead | logRtail | logLost | logCoalesced | pxStatus | pxServed | dbgCtl | dbgStatus
  | dbgCmd | dbgBpctl | dbgBp | dbgPc | dbgG | dbgF | dbgLsaddr | dbgLsdata | dbgTrcfg | dbgTrsrc
  | dbgTrig | dbgTrmatch | dbgTrmask | dbgTrtime | dbgTrstat | dbgTrcmd | dbgTrdrop | dbgPorttest
  | dbgPorterr
  deriving DecidableEq, Repr

/-- The tables. -/
def regInfo : RegName → RegInfo
  | .coreId => ⟨.core, 0x0, false, 1, 0x0, 1, 0x0,
      [⟨0, 8, .ro, 0⟩, ⟨8, 5, .ro, 0⟩, ⟨13, 3, .ro, 0⟩, ⟨16, 2, .ro, 0⟩]⟩
  | .seqStatus => ⟨.seq, 0x0, false, 1, 0x0, 1, 0x0,
      [⟨0, 1, .ro, 0⟩, ⟨1, 1, .ro, 0⟩, ⟨2, 1, .ro, 0⟩, ⟨3, 1, .ro, 0⟩, ⟨4, 4, .ro, 0⟩, ⟨8, 6, .ro, 0⟩]⟩
  | .seqExpress => ⟨.seq, 0x4, false, 1, 0x0, 1, 0x0,
      [⟨0, 1, .rw, 0⟩]⟩
  | .seqTagheld => ⟨.seq, 0x8, false, 1, 0x0, 1, 0x0,
      [⟨0, 6, .ro, 0⟩, ⟨16, 5, .ro, 0⟩, ⟨24, 7, .ro, 0⟩]⟩
  | .seqTrapcause => ⟨.seq, 0xc, false, 1, 0x0, 1, 0x0,
      [⟨0, 5, .ro, 0⟩, ⟨8, 1, .ro, 0⟩, ⟨31, 1, .w1c, 0⟩]⟩
  | .seqTrappc => ⟨.seq, 0x10, true, 1, 0x0, 1, 0x0,
      [⟨0, 48, .ro, 0⟩]⟩
  | .seqTrapval => ⟨.seq, 0x18, true, 1, 0x0, 1, 0x0,
      [⟨0, 64, .ro, 0⟩]⟩
  | .seqSquashed => ⟨.seq, 0x20, true, 1, 0x0, 1, 0x0,
      [⟨0, 64, .rc, 0⟩]⟩
  | .seqCopbusy => ⟨.seq, 0x28, true, 1, 0x0, 1, 0x0,
      [⟨0, 64, .rc, 0⟩]⟩
  | .seqLogcore => ⟨.seq, 0x30, false, 1, 0x0, 1, 0x0,
      [⟨0, 8, .ro, 0⟩]⟩
  | .seqTagquota => ⟨.tag, 0x1000, false, 160, 0x4, 1, 0x0,
      [⟨0, 6, .rw, 0x18⟩]⟩
  | .seqTagpool => ⟨.tag, 0x1400, false, 1, 0x0, 1, 0x0,
      [⟨0, 8, .ro, 0x80⟩, ⟨8, 7, .ro, 0x40⟩, ⟨16, 7, .ro, 0x40⟩]⟩
  | .seqQuotasum => ⟨.tag, 0x1404, false, 1, 0x0, 1, 0x0,
      [⟨0, 12, .ro, 0xf00⟩]⟩
  | .feStatus => ⟨.fe, 0x0, false, 1, 0x0, 1, 0x0,
      [⟨0, 8, .ro, 0⟩, ⟨8, 7, .ro, 0⟩, ⟨16, 3, .ro, 4⟩, ⟨20, 3, .ro, 4⟩, ⟨24, 3, .ro, 7⟩, ⟨28, 1, .ro, 0⟩, ⟨29, 1, .ro, 0⟩]⟩
  | .feStall => ⟨.fe, 0x8, true, 8, 0x8, 1, 0x0,
      [⟨0, 64, .rc, 0⟩]⟩
  | .feHalts => ⟨.fe, 0x48, true, 1, 0x0, 1, 0x0,
      [⟨0, 64, .rc, 0⟩]⟩
  | .xeStatus => ⟨.xe, 0x0, false, 1, 0x0, 1, 0x0,
      [⟨0, 3, .ro, 7⟩, ⟨4, 1, .ro, 0⟩]⟩
  | .xeStall => ⟨.xe, 0x8, true, 8, 0x8, 1, 0x0,
      [⟨0, 64, .rc, 0⟩]⟩
  | .xePoison => ⟨.xe, 0x48, true, 1, 0x0, 1, 0x0,
      [⟨0, 64, .rc, 0⟩]⟩
  | .rmuMtreg => ⟨.rmu, 0x0, true, 64, 0x8, 1, 0x0,
      [⟨0, 7, .rw, 0⟩, ⟨12, 28, .rw, 0⟩]⟩
  | .rmuLastclose => ⟨.rmu, 0x200, false, 64, 0x4, 1, 0x0,
      [⟨0, 32, .ro, 0⟩]⟩
  | .rmuApplied => ⟨.rmu, 0x300, false, 64, 0x4, 1, 0x0,
      [⟨0, 32, .ro, 0⟩]⟩
  | .rmuFail => ⟨.rmu, 0x400, false, 1, 0x0, 1, 0x0,
      [⟨0, 6, .ro, 0⟩, ⟨8, 2, .ro, 0⟩, ⟨31, 1, .w1c, 0⟩]⟩
  | .rmuFailstep => ⟨.rmu, 0x404, false, 1, 0x0, 1, 0x0,
      [⟨0, 32, .ro, 0⟩]⟩
  | .rmuIn => ⟨.rmu, 0x500, true, 1, 0x0, 1, 0x0,
      [⟨0, 64, .rc, 0⟩]⟩
  | .rmuSpilled => ⟨.rmu, 0x508, true, 1, 0x0, 1, 0x0,
      [⟨0, 64, .rc, 0⟩]⟩
  | .rmuOut => ⟨.rmu, 0x510, true, 1, 0x0, 1, 0x0,
      [⟨0, 64, .rc, 0⟩]⟩
  | .rmuRefused => ⟨.rmu, 0x518, true, 1, 0x0, 1, 0x0,
      [⟨0, 64, .rc, 0⟩]⟩
  | .rmuDupdrop => ⟨.rmu, 0x520, true, 1, 0x0, 1, 0x0,
      [⟨0, 64, .rc, 0⟩]⟩
  | .rmuDupkey => ⟨.rmu, 0x528, true, 1, 0x0, 1, 0x0,
      [⟨0, 64, .rc, 0⟩]⟩
  | .dspIdxdrop => ⟨.dsp, 0x8000, true, 64, 0x8, 1, 0x0,
      [⟨0, 64, .rc, 0⟩]⟩
  | .dspLdev => ⟨.dsp, 0x8200, false, 64, 0x4, 1, 0x0,
      [⟨0, 10, .rw, 0⟩]⟩
  | .muStatus => ⟨.mu, 0x0, false, 1, 0x0, 1, 0x0,
      [⟨0, 1, .ro, 0⟩, ⟨1, 1, .ro, 0⟩, ⟨2, 1, .ro, 0⟩, ⟨3, 1, .ro, 0⟩, ⟨8, 5, .ro, 0⟩, ⟨16, 3, .ro, 6⟩]⟩
  | .muCyc => ⟨.mu, 0x8, true, 7, 0x8, 1, 0x0,
      [⟨0, 64, .rc, 0⟩]⟩
  | .muPanels => ⟨.mu, 0x40, true, 1, 0x0, 1, 0x0,
      [⟨0, 64, .rc, 0⟩]⟩
  | .muPruned => ⟨.mu, 0x48, true, 1, 0x0, 1, 0x0,
      [⟨0, 64, .rc, 0⟩]⟩
  | .muPoison => ⟨.mu, 0x50, true, 1, 0x0, 1, 0x0,
      [⟨0, 64, .rc, 0⟩]⟩
  | .slvStatus => ⟨.slv, 0x0, false, 1, 0x0, 1, 0x0,
      [⟨0, 6, .ro, 0⟩, ⟨8, 1, .ro, 0⟩, ⟨9, 1, .ro, 0⟩, ⟨16, 6, .ro, 0⟩]⟩
  | .slvLanebusy => ⟨.slv, 0x4, false, 1, 0x0, 1, 0x0,
      [⟨0, 32, .ro, 0⟩]⟩
  | .slvLaneoff => ⟨.slv, 0x8, false, 1, 0x0, 1, 0x0,
      [⟨0, 32, .ro, 0⟩]⟩
  | .slvEnd => ⟨.slv, 0x10, true, 5, 0x8, 1, 0x0,
      [⟨0, 64, .rc, 0⟩]⟩
  | .slvPivots => ⟨.slv, 0x38, true, 1, 0x0, 1, 0x0,
      [⟨0, 64, .rc, 0⟩]⟩
  | .slvDsissue => ⟨.slv, 0x40, true, 1, 0x0, 1, 0x0,
      [⟨0, 64, .rc, 0⟩]⟩
  | .slvRestart => ⟨.slv, 0x48, true, 1, 0x0, 1, 0x0,
      [⟨0, 64, .rc, 0⟩]⟩
  | .slvPending => ⟨.slv, 0x50, false, 1, 0x0, 1, 0x0,
      [⟨0, 32, .ro, 0⟩]⟩
  | .rcStatus => ⟨.rc, 0x0, false, 1, 0x0, 1, 0x0,
      [⟨0, 1, .ro, 0⟩, ⟨1, 1, .ro, 0⟩]⟩
  | .rcCmd => ⟨.rc, 0x4, false, 1, 0x0, 1, 0x0,
      [⟨0, 4, .wo, 0⟩, ⟨16, 16, .wo, 0⟩]⟩
  | .rcCmdslice => ⟨.rc, 0x8, false, 1, 0x0, 1, 0x0,
      [⟨0, 20, .rw, 0⟩]⟩
  | .rcCmdstat => ⟨.rc, 0xc, false, 1, 0x0, 1, 0x0,
      [⟨0, 4, .ro, 0⟩, ⟨4, 5, .ro, 0⟩, ⟨12, 4, .ro, 0⟩, ⟨31, 1, .w1c, 0⟩]⟩
  | .rcReserve => ⟨.rc, 0x10, false, 1, 0x0, 1, 0x0,
      [⟨0, 16, .rw, 0⟩]⟩
  | .rcEcccfg => ⟨.rc, 0x14, false, 1, 0x0, 1, 0x0,
      [⟨0, 8, .rw, 0x10⟩, ⟨8, 16, .rw, 0x3e8⟩]⟩
  | .rcClassmask => ⟨.rc, 0x40, false, 8, 0x4, 1, 0x0,
      [⟨0, 16, .rw, 0xffff⟩]⟩
  | .rcWaystate => ⟨.rcs, 0x0, false, 1, 0x0, 1, 0x0,
      [⟨0, 32, .ro, 0x55555555⟩]⟩
  | .rcWayinv => ⟨.rcs, 0x4, false, 1, 0x0, 1, 0x0,
      [⟨0, 16, .ro, 0⟩, ⟨16, 16, .ro, 0⟩]⟩
  | .rcWayfault => ⟨.rcs, 0x8, false, 1, 0x0, 1, 0x0,
      [⟨0, 16, .ro, 0⟩, ⟨16, 16, .ro, 0⟩]⟩
  | .rcSalt => ⟨.rcs, 0xc, false, 1, 0x0, 1, 0x0,
      [⟨0, 13, .rw, 0⟩]⟩
  | .rcLfsr => ⟨.rcs, 0x10, false, 1, 0x0, 1, 0x0,
      [⟨0, 16, .rw, 0⟩]⟩
  | .rcMissuse => ⟨.rcs, 0x14, false, 1, 0x0, 1, 0x0,
      [⟨0, 9, .ro, 0⟩]⟩
  | .rcCecnt => ⟨.rcs, 0x20, false, 4, 0x4, 1, 0x0,
      [⟨0, 32, .ro, 0⟩]⟩
  | .rcEvictdirty => ⟨.rcs, 0x80, true, 1, 0x0, 1, 0x0,
      [⟨0, 64, .rc, 0⟩]⟩
  | .rcPfdrop => ⟨.rcs, 0x88, true, 1, 0x0, 1, 0x0,
      [⟨0, 64, .rc, 0⟩]⟩
  | .rcCorrected => ⟨.rcs, 0x90, true, 1, 0x0, 1, 0x0,
      [⟨0, 64, .rc, 0⟩]⟩
  | .rcHits => ⟨.rcs, 0x100, true, 8, 0x10, 1, 0x0,
      [⟨0, 64, .rc, 0⟩]⟩
  | .rcMisses => ⟨.rcs, 0x108, true, 8, 0x10, 1, 0x0,
      [⟨0, 64, .rc, 0⟩]⟩
  | .xlCtxbind => ⟨.xl, 0x0, true, 64, 0x8, 1, 0x0,
      [⟨0, 1, .rw, 0⟩, ⟨1, 6, .rw, 0⟩, ⟨7, 1, .rw, 0⟩, ⟨8, 20, .rw, 0⟩, ⟨32, 16, .rw, 0⟩]⟩
  | .xlSegtbase => ⟨.xl, 0x200, true, 1, 0x0, 1, 0x0,
      [⟨15, 25, .rw, 0⟩]⟩
  | .xlMirror => ⟨.xl, 0x208, true, 1, 0x0, 1, 0x0,
      [⟨15, 49, .rw, 0⟩]⟩
  | .xlFrbase => ⟨.xl, 0x210, true, 1, 0x0, 1, 0x0,
      [⟨12, 52, .rw, 0⟩]⟩
  | .xlFrcfg => ⟨.xl, 0x218, false, 1, 0x0, 1, 0x0,
      [⟨0, 5, .rw, 6⟩, ⟨16, 11, .rw, 0⟩]⟩
  | .xlFrhead => ⟨.xl, 0x21c, false, 1, 0x0, 1, 0x0,
      [⟨0, 16, .rw, 0⟩]⟩
  | .xlFrtail => ⟨.xl, 0x220, false, 1, 0x0, 1, 0x0,
      [⟨0, 16, .ro, 0⟩]⟩
  | .xlHotthr => ⟨.xl, 0x224, false, 1, 0x0, 1, 0x0,
      [⟨0, 16, .rw, 0x400⟩]⟩
  | .xlEpoch => ⟨.xl, 0x228, false, 1, 0x0, 1, 0x0,
      [⟨0, 32, .ro, 0⟩]⟩
  | .xlPending => ⟨.xl, 0x22c, false, 1, 0x0, 1, 0x0,
      [⟨0, 13, .ro, 0⟩]⟩
  | .xlHotlost => ⟨.xl, 0x230, true, 1, 0x0, 1, 0x0,
      [⟨0, 64, .rc, 0⟩]⟩
  | .xlLkmiss => ⟨.xl, 0x238, true, 1, 0x0, 1, 0x0,
      [⟨0, 64, .rc, 0⟩]⟩
  | .xlDtcmiss => ⟨.xl, 0x240, true, 1, 0x0, 1, 0x0,
      [⟨0, 64, .rc, 0⟩]⟩
  | .xlPriout => ⟨.xl, 0x248, false, 1, 0x0, 1, 0x0,
      [⟨0, 11, .ro, 0⟩]⟩
  | .xlIwctl => ⟨.xl, 0x10000, false, 64, 0x200, 16, 0x20,
      [⟨0, 1, .rw, 0⟩, ⟨1, 1, .rw, 0⟩, ⟨2, 1, .rw, 0⟩, ⟨3, 2, .rw, 0⟩]⟩
  | .xlIwlen => ⟨.xl, 0x10004, false, 64, 0x200, 16, 0x20,
      [⟨0, 32, .rw, 0⟩]⟩
  | .xlIwbase => ⟨.xl, 0x10008, true, 64, 0x200, 16, 0x20,
      [⟨16, 24, .rw, 0⟩]⟩
  | .xlIwbox => ⟨.xl, 0x10010, true, 64, 0x200, 16, 0x20,
      [⟨0, 48, .rw, 0⟩]⟩
  | .mcOwn => ⟨.mc, 0x10000, false, 24576, 0x4, 1, 0x0,
      [⟨0, 32, .ro, 0⟩]⟩
  | .dspA4base => ⟨.dsp, 0x10, true, 1, 0x0, 1, 0x0,
      [⟨30, 10, .rw, 0⟩]⟩
  | .dspCtxreset => ⟨.dsp, 0x18, false, 1, 0x0, 1, 0x0,
      [⟨0, 6, .wo, 0⟩, ⟨30, 1, .ro, 0⟩, ⟨31, 1, .wo, 0⟩]⟩
  | .dspFnreset => ⟨.dsp, 0x1c, false, 1, 0x0, 1, 0x0,
      [⟨0, 6, .wo, 0⟩, ⟨30, 1, .ro, 0⟩, ⟨31, 1, .wo, 0⟩]⟩
  | .dspCtxcores => ⟨.dsp, 0x100, false, 64, 0x20, 5, 0x4,
      [⟨0, 32, .rw, 0⟩]⟩
  | .dspPring => ⟨.dsp, 0x1000, true, 64, 0x10, 1, 0x0,
      [⟨12, 52, .rw, 0⟩]⟩
  | .dspPringcfg => ⟨.dsp, 0x1008, false, 64, 0x10, 1, 0x0,
      [⟨0, 4, .rw, 4⟩, ⟨15, 1, .rw, 0⟩, ⟨16, 11, .rw, 0⟩]⟩
  | .dspQctl => ⟨.dsp, 0x10000, false, 64, 0x200, 8, 0x40,
      [⟨0, 1, .rw, 0⟩, ⟨1, 1, .rw, 0⟩, ⟨2, 1, .ro, 0⟩, ⟨4, 4, .ro, 0⟩, ⟨8, 5, .rw, 4⟩]⟩
  | .dspQsqbase => ⟨.dsp, 0x10008, true, 64, 0x200, 8, 0x40,
      [⟨12, 52, .rw, 0⟩]⟩
  | .dspQcqbase => ⟨.dsp, 0x10010, true, 64, 0x200, 8, 0x40,
      [⟨12, 52, .rw, 0⟩]⟩
  | .dspQtaken => ⟨.dsp, 0x10018, true, 64, 0x200, 8, 0x40,
      [⟨4, 60, .rw, 0⟩]⟩
  | .dspQirq => ⟨.dsp, 0x10020, false, 64, 0x200, 8, 0x40,
      [⟨0, 11, .rw, 0⟩, ⟨15, 1, .rw, 0⟩, ⟨16, 8, .rw, 0⟩, ⟨24, 8, .rw, 0⟩]⟩
  | .dspQhead => ⟨.dsp, 0x10024, false, 64, 0x200, 8, 0x40,
      [⟨0, 16, .ro, 0⟩, ⟨16, 16, .ro, 0⟩]⟩
  | .dspQtails => ⟨.dsp, 0x10028, false, 64, 0x200, 8, 0x40,
      [⟨0, 16, .ro, 0⟩, ⟨16, 16, .ro, 0⟩]⟩
  | .dspQout => ⟨.dsp, 0x1002c, false, 64, 0x200, 8, 0x40,
      [⟨0, 16, .ro, 0⟩, ⟨16, 16, .ro, 0⟩]⟩
  | .dspXlatcfg => ⟨.dsp, 0x9000, false, 1, 0x0, 1, 0x0,
      [⟨0, 16, .rw, 0x7d0⟩, ⟨16, 8, .rw, 0x20⟩, ⟨31, 1, .rw, 0⟩]⟩
  | .dspXhist => ⟨.dsp, 0x9008, true, 16, 0x8, 1, 0x0,
      [⟨0, 64, .rc, 0⟩]⟩
  | .dspXmax => ⟨.dsp, 0x9088, false, 1, 0x0, 1, 0x0,
      [⟨0, 32, .rc, 0⟩]⟩
  | .dspXover => ⟨.dsp, 0x908c, false, 1, 0x0, 1, 0x0,
      [⟨0, 32, .rc, 0⟩]⟩
  | .klStatus => ⟨.kl, 0x0, false, 1, 0x0, 1, 0x0,
      [⟨0, 3, .ro, 0⟩, ⟨3, 2, .ro, 0⟩, ⟨5, 3, .ro, 0⟩, ⟨8, 2, .ro, 0⟩, ⟨10, 4, .ro, 0⟩, ⟨14, 10, .ro, 0⟩, ⟨24, 5, .ro, 0⟩]⟩
  | .klCfg => ⟨.kl, 0x4, false, 1, 0x0, 1, 0x0,
      [⟨0, 1, .rw, 1⟩]⟩
  | .klTxflits => ⟨.kl, 0x8, true, 1, 0x0, 1, 0x0,
      [⟨0, 64, .rc, 0⟩]⟩
  | .klRxflits => ⟨.kl, 0x10, true, 1, 0x0, 1, 0x0,
      [⟨0, 64, .rc, 0⟩]⟩
  | .klCrcerr => ⟨.kl, 0x18, true, 1, 0x0, 1, 0x0,
      [⟨0, 64, .rc, 0⟩]⟩
  | .klRetries => ⟨.kl, 0x20, true, 1, 0x0, 1, 0x0,
      [⟨0, 64, .rc, 0⟩]⟩
  | .klFeccorr => ⟨.kl, 0x28, true, 1, 0x0, 1, 0x0,
      [⟨0, 64, .rc, 0⟩]⟩
  | .klFecunc => ⟨.kl, 0x30, true, 1, 0x0, 1, 0x0,
      [⟨0, 64, .rc, 0⟩]⟩
  | .klDowns => ⟨.kl, 0x38, true, 1, 0x0, 1, 0x0,
      [⟨0, 64, .rc, 0⟩]⟩
  | .klCredit => ⟨.kl, 0x40, false, 8, 0x4, 1, 0x0,
      [⟨0, 8, .ro, 0⟩]⟩
  | .jnSelf => ⟨.jn, 0x0, false, 1, 0x0, 1, 0x0,
      [⟨0, 10, .rwl, 0⟩]⟩
  | .jnDims => ⟨.jn, 0x4, false, 1, 0x0, 1, 0x0,
      [⟨0, 2, .rwl, 0⟩, ⟨4, 4, .rwl, 0⟩, ⟨8, 4, .rwl, 0⟩, ⟨12, 2, .rwl, 0⟩, ⟨16, 2, .rwl, 0⟩]⟩
  | .jnDescid => ⟨.jn, 0x8, false, 1, 0x0, 1, 0x0,
      [⟨0, 32, .rwl, 0⟩]⟩
  | .jnFabid => ⟨.jn, 0xc, false, 1, 0x0, 1, 0x0,
      [⟨0, 32, .rwl, 0⟩]⟩
  | .jnPortmap => ⟨.jn, 0x10, false, 32, 0x4, 1, 0x0,
      [⟨0, 5, .rwl, 0⟩]⟩
  | .jnCfg => ⟨.jn, 0x90, false, 1, 0x0, 1, 0x0,
      [⟨0, 1, .rw, 0⟩]⟩
  | .jnStatus => ⟨.jn, 0x94, false, 1, 0x0, 1, 0x0,
      [⟨0, 1, .ro, 0⟩, ⟨1, 1, .ro, 0⟩, ⟨8, 6, .ro, 0⟩]⟩
  | .jnDetour => ⟨.jn, 0x98, false, 3, 0x4, 1, 0x0,
      [⟨0, 16, .ro, 0⟩]⟩
  | .jnBundle => ⟨.jn, 0xa4, false, 1, 0x0, 1, 0x0,
      [⟨0, 18, .ro, 0⟩]⟩
  | .jnTimeout => ⟨.jn, 0x100, true, 1, 0x0, 1, 0x0,
      [⟨0, 64, .rc, 0⟩]⟩
  | .jnLate => ⟨.jn, 0x108, true, 1, 0x0, 1, 0x0,
      [⟨0, 64, .rc, 0⟩]⟩
  | .jnUnreach => ⟨.jn, 0x110, true, 1, 0x0, 1, 0x0,
      [⟨0, 64, .rc, 0⟩]⟩
  | .jnCombined => ⟨.jn, 0x118, true, 1, 0x0, 1, 0x0,
      [⟨0, 64, .rc, 0⟩]⟩
  | .jnReverse => ⟨.jn, 0x120, true, 1, 0x0, 1, 0x0,
      [⟨0, 64, .rc, 0⟩]⟩
  | .jnLost => ⟨.jn, 0x128, true, 1, 0x0, 1, 0x0,
      [⟨0, 64, .rc, 0⟩]⟩
  | .jnFailover => ⟨.jn, 0x130, true, 1, 0x0, 1, 0x0,
      [⟨0, 64, .rc, 0⟩]⟩
  | .ttStatus => ⟨.tt, 0x0, false, 1, 0x0, 1, 0x0,
      [⟨0, 3, .ro, 0⟩, ⟨3, 1, .ro, 0⟩, ⟨4, 1, .ro, 0⟩, ⟨5, 1, .ro, 0⟩, ⟨6, 1, .ro, 0⟩, ⟨7, 1, .ro, 0⟩, ⟨8, 2, .ro, 0⟩, ⟨16, 5, .ro, 0⟩, ⟨24, 5, .ro, 0⟩]⟩
  | .ttSec => ⟨.tt, 0x8, true, 1, 0x0, 1, 0x0,
      [⟨0, 48, .ro, 0⟩]⟩
  | .ttNsfrac => ⟨.tt, 0x10, true, 1, 0x0, 1, 0x0,
      [⟨0, 16, .ro, 0⟩, ⟨16, 32, .ro, 0⟩]⟩
  | .ttIncr => ⟨.tt, 0x18, true, 1, 0x0, 1, 0x0,
      [⟨0, 40, .ro, 0x200000000⟩]⟩
  | .ttOffset => ⟨.tt, 0x20, false, 1, 0x0, 1, 0x0,
      [⟨0, 32, .ro, 0⟩]⟩
  | .ttArmed => ⟨.tt, 0x24, false, 1, 0x0, 1, 0x0,
      [⟨0, 16, .ro, 0⟩]⟩
  | .ttCfg => ⟨.tt, 0x28, false, 1, 0x0, 1, 0x0,
      [⟨0, 16, .rw, 0x3e8⟩, ⟨16, 1, .rw, 0⟩, ⟨20, 12, .rw, 0x3e8⟩]⟩
  | .ttTod => ⟨.tt, 0x30, true, 1, 0x0, 1, 0x0,
      [⟨0, 48, .rw, 0⟩]⟩
  | .ttSteps => ⟨.tt, 0x38, true, 1, 0x0, 1, 0x0,
      [⟨0, 64, .rc, 0⟩]⟩
  | .ttSynclost => ⟨.tt, 0x40, true, 1, 0x0, 1, 0x0,
      [⟨0, 64, .rc, 0⟩]⟩
  | .ttHoldsec => ⟨.tt, 0x48, false, 1, 0x0, 1, 0x0,
      [⟨0, 32, .ro, 0⟩]⟩
  | .ttPpsbad => ⟨.tt, 0x4c, false, 1, 0x0, 1, 0x0,
      [⟨0, 32, .rc, 0⟩]⟩
  | .smStatus => ⟨.sm, 0x0, false, 1, 0x0, 1, 0x0,
      [⟨0, 3, .ro, 0⟩, ⟨8, 1, .ro, 0⟩, ⟨9, 3, .ro, 0⟩]⟩
  | .smStraps => ⟨.sm, 0x4, false, 1, 0x0, 1, 0x0,
      [⟨0, 6, .ro, 0⟩]⟩
  | .smFwver => ⟨.sm, 0x8, false, 1, 0x0, 1, 0x0,
      [⟨0, 32, .ro, 0⟩]⟩
  | .smMboxdb => ⟨.sm, 0x10, false, 1, 0x0, 1, 0x0,
      [⟨31, 1, .wo, 0⟩]⟩
  | .smMboxstat => ⟨.sm, 0x14, false, 1, 0x0, 1, 0x0,
      [⟨0, 1, .ro, 0⟩, ⟨1, 1, .w1c, 0⟩, ⟨8, 8, .ro, 0⟩]⟩
  | .smMboxvec => ⟨.sm, 0x18, false, 1, 0x0, 1, 0x0,
      [⟨0, 5, .rw, 0⟩]⟩
  | .smBoot => ⟨.sm, 0x20, false, 1, 0x0, 1, 0x0,
      [⟨0, 4, .ro, 0⟩, ⟨8, 8, .ro, 0⟩, ⟨16, 8, .ro, 0⟩, ⟨24, 4, .ro, 0⟩, ⟨31, 1, .ro, 0⟩]⟩
  | .smMboxcmd => ⟨.sm, 0x100, false, 64, 0x4, 1, 0x0,
      [⟨0, 32, .rw, 0⟩]⟩
  | .smMboxrsp => ⟨.sm, 0x200, false, 64, 0x4, 1, 0x0,
      [⟨0, 32, .ro, 0⟩]⟩
  | .govStatus => ⟨.gov, 0x0, false, 1, 0x0, 1, 0x0,
      [⟨0, 2, .ro, 2⟩, ⟨4, 4, .ro, 0⟩, ⟨8, 8, .ro, 0⟩, ⟨16, 4, .ro, 0⟩]⟩
  | .govQclk => ⟨.gov, 0x4, false, 4, 0x4, 1, 0x0,
      [⟨0, 11, .ro, 0x4b0⟩]⟩
  | .govQvolt => ⟨.gov, 0x14, false, 4, 0x4, 1, 0x0,
      [⟨0, 11, .ro, 0⟩]⟩
  | .govAllot => ⟨.gov, 0x24, false, 4, 0x4, 1, 0x0,
      [⟨0, 20, .ro, 0⟩]⟩
  | .govCfg => ⟨.gov, 0x34, false, 1, 0x0, 1, 0x0,
      [⟨0, 11, .rw, 0x4b0⟩, ⟨16, 8, .rw, 0x14⟩, ⟨24, 8, .rw, 0x5f⟩]⟩
  | .govLimits => ⟨.gov, 0x38, false, 1, 0x0, 1, 0x0,
      [⟨0, 8, .rw, 0x1e⟩, ⟨16, 16, .rw, 0x3c00⟩]⟩
  | .govLsubmit => ⟨.gov, 0x40, false, 1, 0x0, 1, 0x0,
      [⟨0, 16, .rw, 0⟩]⟩
  | .govLstat => ⟨.gov, 0x44, false, 1, 0x0, 1, 0x0,
      [⟨0, 1, .ro, 0⟩, ⟨1, 1, .w1c, 0⟩, ⟨2, 1, .w1c, 0⟩]⟩
  | .govCycles => ⟨.gov, 0x48, true, 1, 0x0, 1, 0x0,
      [⟨0, 64, .rc, 0⟩]⟩
  | .govSkipped => ⟨.gov, 0x50, true, 1, 0x0, 1, 0x0,
      [⟨0, 64, .rc, 0⟩]⟩
  | .govFallbacks => ⟨.gov, 0x58, true, 1, 0x0, 1, 0x0,
      [⟨0, 64, .rc, 0⟩]⟩
  | .sbCstat => ⟨.sb, 0x0, false, 160, 0x4, 1, 0x0,
      [⟨0, 2, .ro, 0⟩, ⟨2, 1, .ro, 0⟩, ⟨3, 1, .ro, 0⟩, ⟨8, 8, .ro, 0⟩]⟩
  | .sbCfence => ⟨.sb, 0x400, false, 160, 0x4, 1, 0x0,
      [⟨0, 2, .rw, 0⟩]⟩
  | .sbLmap => ⟨.sb, 0x800, false, 160, 0x4, 1, 0x0,
      [⟨0, 8, .rw, 0⟩, ⟨8, 1, .rw, 0⟩]⟩
  | .sbMufail => ⟨.sb, 0xc00, false, 1, 0x0, 1, 0x0,
      [⟨0, 20, .rw, 0⟩]⟩
  | .sbSlvfail => ⟨.sb, 0xc04, false, 1, 0x0, 1, 0x0,
      [⟨0, 4, .rw, 0⟩]⟩
  | .sbPortfence => ⟨.sb, 0xc08, false, 1, 0x0, 1, 0x0,
      [⟨0, 32, .rw, 0⟩]⟩
  | .sbChfail => ⟨.sb, 0xc10, false, 4, 0x4, 1, 0x0,
      [⟨0, 32, .rw, 0⟩]⟩
  | .sbCkpolicy => ⟨.sb, 0xc20, false, 5, 0x4, 1, 0x0,
      [⟨0, 32, .rw, 0⟩]⟩
  | .sbWayfence => ⟨.sb, 0xc40, false, 20, 0x4, 1, 0x0,
      [⟨0, 16, .rw, 0⟩]⟩
  | .sbDiverge => ⟨.sb, 0xd00, true, 1, 0x0, 1, 0x0,
      [⟨0, 64, .rc, 0⟩]⟩
  | .sbChecker => ⟨.sb, 0xd08, true, 1, 0x0, 1, 0x0,
      [⟨0, 64, .rc, 0⟩]⟩
  | .sbSelftest => ⟨.sb, 0xd10, true, 1, 0x0, 1, 0x0,
      [⟨0, 64, .rc, 0⟩]⟩
  | .logStatus => ⟨.log, 0x0, false, 1, 0x0, 1, 0x0,
      [⟨0, 1, .ro, 0⟩, ⟨1, 1, .ro, 0⟩, ⟨16, 13, .ro, 0⟩]⟩
  | .logRbase => ⟨.log, 0x8, true, 1, 0x0, 1, 0x0,
      [⟨12, 52, .rw, 0⟩]⟩
  | .logRcfg => ⟨.log, 0x10, false, 1, 0x0, 1, 0x0,
      [⟨0, 5, .rw, 8⟩, ⟨8, 3, .rw, 1⟩, ⟨12, 3, .rw, 3⟩, ⟨16, 5, .rw, 0⟩, ⟨31, 1, .rw, 0⟩]⟩
  | .logRhead => ⟨.log, 0x14, false, 1, 0x0, 1, 0x0,
      [⟨0, 16, .rw, 0⟩]⟩
  | .logRtail => ⟨.log, 0x18, false, 1, 0x0, 1, 0x0,
      [⟨0, 16, .ro, 0⟩]⟩
  | .logLost => ⟨.log, 0x20, true, 1, 0x0, 1, 0x0,
      [⟨0, 64, .rc, 0⟩]⟩
  | .logCoalesced => ⟨.log, 0x28, true, 1, 0x0, 1, 0x0,
      [⟨0, 64, .rc, 0⟩]⟩
  | .pxStatus => ⟨.px, 0x0, false, 1, 0x0, 1, 0x0,
      [⟨0, 1, .ro, 0⟩, ⟨1, 1, .ro, 0⟩, ⟨8, 8, .ro, 0⟩]⟩
  | .pxServed => ⟨.px, 0x8, true, 1, 0x0, 1, 0x0,
      [⟨0, 64, .rc, 0⟩]⟩
  | .dbgCtl => ⟨.dbg, 0x0, false, 1, 0x0, 1, 0x0,
      [⟨0, 1, .rwl, 0⟩, ⟨1, 1, .rw, 0⟩, ⟨31, 1, .ro, 0⟩]⟩
  | .dbgStatus => ⟨.dbgc, 0x0, false, 1, 0x0, 1, 0x0,
      [⟨0, 1, .ro, 0⟩, ⟨1, 1, .ro, 0⟩, ⟨2, 1, .w1c, 0⟩, ⟨3, 1, .w1c, 0⟩, ⟨4, 1, .w1c, 0⟩]⟩
  | .dbgCmd => ⟨.dbgc, 0x4, false, 1, 0x0, 1, 0x0,
      [⟨0, 2, .wo, 0⟩, ⟨8, 1, .wo, 0⟩]⟩
  | .dbgBpctl => ⟨.dbgc, 0x8, false, 1, 0x0, 1, 0x0,
      [⟨0, 2, .rw, 0⟩]⟩
  | .dbgBp => ⟨.dbgc, 0x10, true, 2, 0x8, 1, 0x0,
      [⟨0, 48, .rw, 0⟩]⟩
  | .dbgPc => ⟨.dbgc, 0x20, true, 2, 0x8, 1, 0x0,
      [⟨0, 48, .rw, 0⟩]⟩
  | .dbgG => ⟨.dbgc, 0x100, true, 2, 0x100, 32, 0x8,
      [⟨0, 64, .rw, 0⟩]⟩
  | .dbgF => ⟨.dbgc, 0x400, true, 2, 0x100, 32, 0x8,
      [⟨0, 64, .rw, 0⟩]⟩
  | .dbgLsaddr => ⟨.dbgc, 0x800, false, 1, 0x0, 1, 0x0,
      [⟨3, 16, .rw, 0⟩]⟩
  | .dbgLsdata => ⟨.dbgc, 0x808, true, 1, 0x0, 1, 0x0,
      [⟨0, 64, .rw, 0⟩]⟩
  | .dbgTrcfg => ⟨.dbg, 0x10, false, 1, 0x0, 1, 0x0,
      [⟨0, 5, .rw, 0⟩, ⟨16, 12, .rw, 0⟩]⟩
  | .dbgTrsrc => ⟨.dbg, 0x14, false, 1, 0x0, 1, 0x0,
      [⟨0, 8, .rw, 0⟩, ⟨15, 1, .rw, 0⟩]⟩
  | .dbgTrig => ⟨.dbg, 0x18, false, 1, 0x0, 1, 0x0,
      [⟨0, 3, .rw, 0⟩]⟩
  | .dbgTrmatch => ⟨.dbg, 0x20, false, 1, 0x0, 1, 0x0,
      [⟨0, 32, .rw, 0⟩]⟩
  | .dbgTrmask => ⟨.dbg, 0x24, false, 1, 0x0, 1, 0x0,
      [⟨0, 32, .rw, 0⟩]⟩
  | .dbgTrtime => ⟨.dbg, 0x28, true, 1, 0x0, 1, 0x0,
      [⟨0, 64, .rw, 0⟩]⟩
  | .dbgTrstat => ⟨.dbg, 0x30, false, 1, 0x0, 1, 0x0,
      [⟨0, 1, .ro, 0⟩, ⟨1, 1, .ro, 0⟩, ⟨16, 12, .ro, 0⟩]⟩
  | .dbgTrcmd => ⟨.dbg, 0x34, false, 1, 0x0, 1, 0x0,
      [⟨0, 1, .wo, 0⟩, ⟨1, 1, .wo, 0⟩]⟩
  | .dbgTrdrop => ⟨.dbg, 0x38, true, 1, 0x0, 1, 0x0,
      [⟨0, 64, .rc, 0⟩]⟩
  | .dbgPorttest => ⟨.dbg, 0x40, false, 1, 0x0, 1, 0x0,
      [⟨0, 5, .rw, 0⟩, ⟨5, 2, .rw, 0⟩, ⟨30, 1, .ro, 0⟩, ⟨31, 1, .wo, 0⟩]⟩
  | .dbgPorterr => ⟨.dbg, 0x44, false, 1, 0x0, 1, 0x0,
      [⟨8, 22, .ro, 0⟩]⟩

/-- The registers, part 0. -/
def regAll0 : List RegName :=
  [.coreId, .seqStatus, .seqExpress, .seqTagheld, .seqTrapcause, .seqTrappc, .seqTrapval,
    .seqSquashed, .seqCopbusy, .seqLogcore, .seqTagquota, .seqTagpool, .seqQuotasum, .feStatus,
    .feStall, .feHalts, .xeStatus, .xeStall, .xePoison, .rmuMtreg, .rmuLastclose, .rmuApplied,
    .rmuFail, .rmuFailstep, .rmuIn, .rmuSpilled, .rmuOut, .rmuRefused, .rmuDupdrop, .rmuDupkey,
    .dspIdxdrop, .dspLdev, .muStatus, .muCyc, .muPanels, .muPruned, .muPoison, .slvStatus,
    .slvLanebusy, .slvLaneoff]

/-- The registers, part 1. -/
def regAll1 : List RegName :=
  [.slvEnd, .slvPivots, .slvDsissue, .slvRestart, .slvPending, .rcStatus, .rcCmd, .rcCmdslice,
    .rcCmdstat, .rcReserve, .rcEcccfg, .rcClassmask, .rcWaystate, .rcWayinv, .rcWayfault, .rcSalt,
    .rcLfsr, .rcMissuse, .rcCecnt, .rcEvictdirty, .rcPfdrop, .rcCorrected, .rcHits, .rcMisses,
    .xlCtxbind, .xlSegtbase, .xlMirror, .xlFrbase, .xlFrcfg, .xlFrhead, .xlFrtail, .xlHotthr,
    .xlEpoch, .xlPending, .xlHotlost, .xlLkmiss, .xlDtcmiss, .xlPriout, .xlIwctl, .xlIwlen]

/-- The registers, part 2. -/
def regAll2 : List RegName :=
  [.xlIwbase, .xlIwbox, .mcOwn, .dspA4base, .dspCtxreset, .dspFnreset, .dspCtxcores, .dspPring,
    .dspPringcfg, .dspQctl, .dspQsqbase, .dspQcqbase, .dspQtaken, .dspQirq, .dspQhead, .dspQtails,
    .dspQout, .dspXlatcfg, .dspXhist, .dspXmax, .dspXover, .klStatus, .klCfg, .klTxflits,
    .klRxflits, .klCrcerr, .klRetries, .klFeccorr, .klFecunc, .klDowns, .klCredit, .jnSelf,
    .jnDims, .jnDescid, .jnFabid, .jnPortmap, .jnCfg, .jnStatus, .jnDetour, .jnBundle]

/-- The registers, part 3. -/
def regAll3 : List RegName :=
  [.jnTimeout, .jnLate, .jnUnreach, .jnCombined, .jnReverse, .jnLost, .jnFailover, .ttStatus,
    .ttSec, .ttNsfrac, .ttIncr, .ttOffset, .ttArmed, .ttCfg, .ttTod, .ttSteps, .ttSynclost,
    .ttHoldsec, .ttPpsbad, .smStatus, .smStraps, .smFwver, .smMboxdb, .smMboxstat, .smMboxvec,
    .smBoot, .smMboxcmd, .smMboxrsp, .govStatus, .govQclk, .govQvolt, .govAllot, .govCfg,
    .govLimits, .govLsubmit, .govLstat, .govCycles, .govSkipped, .govFallbacks, .sbCstat]

/-- The registers, part 4. -/
def regAll4 : List RegName :=
  [.sbCfence, .sbLmap, .sbMufail, .sbSlvfail, .sbPortfence, .sbChfail, .sbCkpolicy, .sbWayfence,
    .sbDiverge, .sbChecker, .sbSelftest, .logStatus, .logRbase, .logRcfg, .logRhead, .logRtail,
    .logLost, .logCoalesced, .pxStatus, .pxServed, .dbgCtl, .dbgStatus, .dbgCmd, .dbgBpctl,
    .dbgBp, .dbgPc, .dbgG, .dbgF, .dbgLsaddr, .dbgLsdata, .dbgTrcfg, .dbgTrsrc, .dbgTrig,
    .dbgTrmatch, .dbgTrmask, .dbgTrtime, .dbgTrstat, .dbgTrcmd, .dbgTrdrop, .dbgPorttest]

/-- The registers, part 5. -/
def regAll5 : List RegName :=
  [.dbgPorterr]

/-- Every register. -/
def regAll : List RegName :=
  regAll0 ++ regAll1 ++ regAll2 ++ regAll3 ++ regAll4 ++ regAll5

/-- The address of element `(i, j)` of register `r` in instance `u` of its block. -/
def regAddr (r : RegName) (u i j : Nat) : Nat :=
  let x := regInfo r
  blkBase x.blk u + x.off + x.s1 * i + x.s2 * j

/-- The value of a list of fields at reset. -/
def fieldsReset : List Field → Nat
  | [] => 0
  | f :: fs => f.reset * 2 ^ f.lsb + fieldsReset fs

/-- The cold-reset value of an element (R16): the table's, and for CORE_ID, RC_SALT, RC_LFSR, SEQ_LOGCORE and
SB_LMAP the value that depends on the instance. -/
def regReset (r : RegName) (u i : Nat) : W64 :=
  match r with
  | .coreId => BitVec.ofNat 64 (u + 256 * (u / 8) + 8192 * (u % 8) + 65536 * (u / 40))
  | .seqLogcore => BitVec.ofNat 64 u
  | .rcSalt => BitVec.ofNat 64 (u * 0x19D3 % 0x2000)
  | .rcLfsr => BitVec.ofNat 64 (0x1000 + u)
  | .sbLmap => BitVec.ofNat 64 i
  | _ => BitVec.ofNat 64 (fieldsReset (regInfo r).fields)

/-- Where an address falls inside a register array: the element, when it is the element's first byte
or the upper half of a 64-bit element. -/
def arrayFind (x : RegInfo) (o : Nat) : Option (Nat × Nat × Nat) :=
  if o < x.off then none
  else
    let d := o - x.off
    let i := if x.n1 ≤ 1 then 0 else d / x.s1
    let d1 := d - x.s1 * i
    let j := if x.n2 ≤ 1 then 0 else d1 / x.s2
    let b := d1 - x.s2 * j
    if i < x.n1 && j < x.n2 && (b == 0 || (x.wide && b == 4)) then some (i, j, b) else none

/-- Does register `r` lie at control-space address `a`? Instance, element and byte of the element. -/
def regAt (r : RegName) (a : Nat) : Option (Nat × Nat × Nat × Nat) :=
  let x := regInfo r
  let base := blkBase x.blk 0
  if a < base then none
  else
    let d := a - base
    let st := blkStride x.blk
    let u := if st = 0 then 0 else d / st
    if u < blkCount x.blk then
      match arrayFind x (d - st * u) with
      | some (i, j, b) => some (u, i, j, b)
      | none => none
    else none

/-- The first register of a list that lies at an address. -/
def regFindIn : List RegName → Nat → Option (RegName × Nat × Nat × Nat × Nat)
  | [], _ => none
  | r :: rs, a =>
    match regAt r a with
    | some (u, i, j, b) => some (r, u, i, j, b)
    | none => regFindIn rs a

/-- R711: the register at a control-space address, if any covers it. -/
def regFind (a : Nat) : Option (RegName × Nat × Nat × Nat × Nat) := regFindIn regAll a

/-- Read `w` bits at `lsb` of a register value. -/
def fGet (v : W64) (lsb w : Nat) : Nat := (v.toNat >>> lsb) % 2 ^ w

/-- Replace `w` bits at `lsb` of a register value. -/
def fSet (v : W64) (lsb w x : Nat) : W64 :=
  BitVec.ofNat 64 (v.toNat - fGet v lsb w * 2 ^ lsb + x % 2 ^ w * 2 ^ lsb)

end Sys2Proof.Machine
end

