-- ==== Sys2Proof/Machine/Sparse.lean ====
section
/-! DEFINITION. Sparse maps: the plain-data form of every numbered collection of the machine
(memories, register files, tags, tables). A map is a list of key and value pairs in one canonical
form: keys strictly rising, and no entry equal to what an unlisted key reads as. -/

namespace Sys2Proof.Machine

/-- A sparse map from numbers: keys strictly rising, no entry equal to the default. -/
abbrev Sp (α : Type) := List (Nat × α)

/-- Read key `k`; an unlisted key reads as `d`. -/
def spGet {α : Type} (d : α) (k : Nat) : Sp α → α
  | [] => d
  | (a, v) :: m => if a = k then v else spGet d k m

/-- Remove key `k`. -/
def spDel {α : Type} (k : Nat) (m : Sp α) : Sp α := m.filter fun e => e.1 != k

/-- Insert or replace key `k`. -/
def spPut {α : Type} (k : Nat) (v : α) : Sp α → Sp α
  | [] => [(k, v)]
  | (a, w) :: m =>
    if a = k then (k, v) :: m else if k < a then (k, v) :: (a, w) :: m else (a, w) :: spPut k v m

/-- Write key `k`, keeping the canonical form for the default `d`. -/
def spSet {α : Type} [DecidableEq α] (d : α) (k : Nat) (v : α) (m : Sp α) : Sp α :=
  if v = d then spDel k m else spPut k v m

/-- Keys strictly rising from `lo` up. -/
def spSorted {α : Type} : Nat → Sp α → Bool
  | _, [] => true
  | lo, (a, _) :: m => decide (lo ≤ a) && spSorted (a + 1) m

/-- The canonical form: keys strictly rising and no entry equal to the default. -/
def spWf {α : Type} [DecidableEq α] (d : α) (m : Sp α) : Bool :=
  spSorted 0 m && m.all fun e => e.2 != d

/-- Apply `f` to every listed value, dropping what becomes the default. -/
def spMap {α : Type} [DecidableEq α] (d : α) (f : Nat → α → α) (m : Sp α) : Sp α :=
  (m.map fun e => (e.1, f e.1 e.2)).filter fun e => e.2 != d

/-- The least number from `lo` up, of `n` tried, whose value satisfies `p`. -/
def spFindFree {α : Type} (d : α) (p : α → Bool) (m : Sp α) : Nat → Nat → Option Nat
  | 0, _ => none
  | n + 1, lo => if p (spGet d lo m) then some lo else spFindFree d p m n (lo + 1)

/-! ### Byte memories: a sparse map of bytes whose unlisted addresses read as zero -/

/-- A byte memory. -/
abbrev Mem := Sp Byte

/-- Read one byte. -/
def memGet (m : Mem) (a : Nat) : Byte := spGet 0#8 a m

/-- Write one byte, keeping the canonical form. -/
def memSet (m : Mem) (a : Nat) (b : Byte) : Mem := spSet 0#8 a b m

/-- Read `n` bytes from `a` up. -/
def memRead (m : Mem) (a : Nat) : Nat → List Byte
  | 0 => []
  | n + 1 => memGet m a :: memRead m (a + 1) n

/-- Write a list of bytes from `a` up. -/
def memWrite (m : Mem) (a : Nat) : List Byte → Mem
  | [] => m
  | b :: bs => memWrite (memSet m a b) (a + 1) bs

/-- Write the bytes whose enable is set. -/
def memWriteEn (m : Mem) (a : Nat) : List (Option Byte) → Mem
  | [] => m
  | some b :: bs => memWriteEn (memSet m a b) (a + 1) bs
  | none :: bs => memWriteEn m (a + 1) bs

/-- Set every byte of a range to zero. -/
def memClear (m : Mem) (a n : Nat) : Mem := m.filter fun e => !(a ≤ e.1 && e.1 < a + n)

/-- The canonical form of a byte memory. -/
def memWf (m : Mem) : Bool := spWf 0#8 m

end Sys2Proof.Machine
end

