-- ==== Sys2Proof/Machine/State.lean ====
section
/-! DEFINITION. The state of the block, as plain data: everything the spec gives the machine. The
types of each unit come first, in the order of the spec's chapters; `State` gathers them, and
`State.reset` is the part right after cold reset. -/

namespace Sys2Proof.Machine

/-! ### Sequencers and slots (spec/03, spec/04) -/

/-- Stall causes (Table 3.3). -/
inductive Stall where
  | none | icache | dep | cop | tag | fq | xq | score | sync | trap | switch
  deriving DecidableEq, Repr

/-- A tile table entry (R194). -/
structure Tile where
  base : Nat
  rows : Nat
  n : Nat
  fmt : Fmt
  deriving DecidableEq, Repr

/-- A coprocessor operation in flight (R103, R104). -/
structure CopOp where
  /-- Destination f register. -/
  rd : Reg
  /-- Square root (16 cycles) or divide (14). -/
  sqrt : Bool
  /-- The issuing instruction was squashed: the result is discarded. -/
  discard : Bool
  result : W64
  flags : Flags
  deriving DecidableEq, Repr

/-- A parcel (R216 to R218). -/
structure Parcel where
  bytes : List Byte
  srcCore : Nat
  srcDev : Nat
  fromHost : Bool
  /-- Poison of its 16-byte words (R262). -/
  poison : List Bool
  deriving DecidableEq, Repr

/-- A Timetable snapshot (R543, R544): seconds, nanoseconds and fraction. -/
structure Snap where
  sec : Nat
  ns : Nat
  frac : Nat
  deriving DecidableEq, Repr

/-- What a slot is doing. -/
inductive Phase where
  /-- No program. -/
  | idle
  /-- A program runs. -/
  | running
  /-- A program fault has stopped the program; its commands drain (R119). -/
  | faulting (cause : Nat) (pc : Pc)
  /-- Ended by a reset or a full fence; its commands drain (R617). -/
  | aborting
  /-- Waiting for a divergence drain and a host sequencer (R613, R614). -/
  | diverged
  deriving DecidableEq, Repr

/-- The replay record of a slot (R611, R614): the register state at the replay point and the logged
status words since. -/
structure Replay where
  valid : Bool
  pc : Pc
  g : Sp W64
  f : Sp W64
  fflags : Flags
  frm : BitVec 2
  statsum : BitVec 8
  lfsr : W32
  snap : Snap
  tiles : Sp (Option Tile)
  /-- Engine commands and SCADDs committed since (R614). -/
  cmds : Nat
  scadds : Nat
  /-- Status words of the BARR, MLAYER, PSEND and PRECV commands committed since, by tag. -/
  log : List (Nat × Option W64)
  /-- More than 32 such commands: the replay point is spent. -/
  spent : Bool
  deriving DecidableEq, Repr

/-- A replay in progress (R614): the logged status words still to hand out, the SCADDs of the first run
still to come, and the tags of its halted streams, each with the number of its command. -/
structure ReplayRun where
  statuses : List W64
  scadds : Nat
  adopt : List (Nat × Nat)
  deriving DecidableEq, Repr

/-- A captured operand block (Tables 5.3 and 5.4). -/
structure Block where
  fmtOut : Fmt
  rm : Nat
  sat : Bool
  fm : Bool
  fmtIn : Fmt
  sp : Bool
  ex : Bool
  mg : Bool
  init : Bool
  tile : Nat
  acc : Nat
  accn : Nat
  count : Nat
  w1 : Nat
  w2 : Nat
  w3 : Nat
  deriving DecidableEq, Repr

/-- An instruction waiting at the commit gate (R102): its stall cause, its word, and the operand block it read at X2 (R176). -/
structure Held where
  why : Stall
  word : Wew
  blk : Option Block
  deriving DecidableEq, Repr

/-- The state of one slot of a logical core (R121, Table 3.8). -/
structure Slot where
  phase : Phase
  ctx : Nat
  /-- The context of the slot's previous program, none since a reset. -/
  prevCtx : Option Nat
  /-- The Dispatcher's number of the command that started the program. -/
  cmd : Nat
  queue : Nat
  pc : Pc
  g : Sp W64
  f : Sp W64
  fflags : Flags
  frm : BitVec 2
  statsum : BitVec 8
  cycle : W64
  snap : Snap
  lfsr : W32
  /-- The instruction waiting at the commit gate. -/
  held : Option Held
  /-- A time fault under EXPIRE has reached the waiting TWAIT (R562). -/
  timeUp : Bool
  cop : List CopOp
  /-- Fetch queue and execute queue: tags in commit order (R230). -/
  fq : List Nat
  xq : List Nat
  /-- Tile tokens free, held by fetch, held by execute (R231, R234). -/
  tokFree : Nat
  tokFetch : Nat
  tokExec : Nat
  inbox : List Parcel
  replay : Replay
  /-- Replaying: logged status words still to hand out (R614). -/
  replaying : Option ReplayRun
  deriving DecidableEq, Repr

/-- A segment entry as held in a lookaside (R409, R413). -/
structure Seg where
  idx : Nat
  r : Bool
  w : Bool
  x : Bool
  wp : Nat
  host : Bool
  mig : Bool
  vbase : Nat
  len : Nat
  tbase : Nat
  gtbase : Nat
  deriving DecidableEq, Repr

/-- A segment lookaside: 16 places, each an entry tagged with its context, and the place replaced
last in each share (R413, R415). -/
structure Lookaside where
  ent : Sp (Option (Nat × Seg))
  last : Sp Nat
  deriving DecidableEq, Repr

/-- Operations pending on an accumulator tile (R114, R116). -/
inductive ScoreKind where
  | write | acc | read
  deriving DecidableEq, Repr

/-- One core, keyed by its logical number: local store, accumulators, tile table, slots, queues. -/
structure Core where
  ls : Mem
  /-- Poison bit of each 16-byte local-store word (R262). -/
  lsPoison : Sp Bool
  /-- The 64-bit view of accumulator element `tile * 512 + row * 32 + column` (R83, R723). -/
  acc : Sp W64
  /-- Poison, and integer view, of each accumulator row `tile * 16 + row` (R82, R285). -/
  accPoison : Sp Bool
  accInt : Sp Bool
  /-- Elements that hold an uncorrectable error (Table 16.1). -/
  accBad : Sp Bool
  tiles : Sp (Option Tile)
  bulk : Slot
  express : Slot
  expressEn : Bool
  /-- A written SEQ_EXPRESS.EN that waits for both slots to be idle (R126). -/
  expressPend : Option Bool
  /-- Retirement reports that have arrived and are not observed: tag and status (R109). -/
  reports : List (Nat × W64)
  /-- Scoreboards: the pending operations of each accumulator tile, oldest first, by tag. -/
  score : Sp (List (Nat × ScoreKind))
  look : Lookaside
  /-- An instruction-fetch lookaside miss is being served (R118). -/
  fetchMiss : Option (SlotId × Nat)
  /-- The core's execute engine is running work of this slot (R239). -/
  xeSlot : SlotId
  /-- It has changed slot and no cycle has counted the change (Table 6.3). -/
  xeTurned : Bool
  halted : Bool
  stepping : Option SlotId
  /-- The slots whose next instruction commits even at a breakpoint (R720). -/
  skipBp : List SlotId
  /-- Halted MLAYER or stream state is in the tags. Next self-test injection point (R606). -/
  injPoint : Nat
  deriving DecidableEq, Repr

/-! ### Engine commands and OpTags (spec/03, spec/05, spec/06) -/

/-- What an engine command does. -/
inductive EngOp where
  | azero | block (op : BlockOp) | psend | precv
  deriving DecidableEq, Repr

/-- A bag of GPOOL or SCADD, read after commit (R274 to R280). -/
structure Bag where
  addr : Nat
  id : Nat
  wfmt : Nat
  drops : Nat
  /-- Kept positions: position, shard, local row, weight as FP32. -/
  kept : List (Nat × Nat × Nat × W32)
  /-- Remote shards whose part failed (R201, R285). -/
  failed : Nat
  poison : Bool
  deriving DecidableEq, Repr

/-- A partial of one shard of one bag: element views, with its poison (R283). -/
structure Partial where
  bag : Nat
  shard : Nat
  /-- Output piece of 256 elements, and the shard partials it holds (R531); 0 for the local partial, which is whole. -/
  piece : Nat
  npart : Nat
  vals : List W64
  poison : Bool
  deriving DecidableEq, Repr

/-- Why a halted stream waits (Table 6.9). -/
inductive WaitOn where
  | granule (ctx seg k : Nat)
  | page (fn : Nat) (pasid : Option Nat) (page : Nat)
  deriving DecidableEq, Repr

/-- The fetch-and-execute progress of a stream (R225 to R236, R264). -/
structure Stream where
  /-- Context address of each row, in stream order. -/
  rows : List Nat
  /-- For gathers: the bag and kept position of each local row. -/
  owners : List (Nat × Nat)
  rowb : Nat
  stage : Nat
  trows : Nat
  list : Nat
  /-- Stream tile whose requests are issued next, and the next line of it. -/
  tile : Nat
  line : Nat
  /-- Stream tiles whose token the fetch side holds, and those the execute side holds. -/
  fetchTiles : List Nat
  execTiles : List Nat
  /-- Stream tiles finished. -/
  done : Nat
  rowsDone : Nat
  /-- Rows of an SSTORE whose granule or page was not resident (Table 6.7). -/
  lost : List Nat
  halted : Option (Nat × WaitOn)
  halts : Nat
  /-- The translation of the next line waits for the Points processor or the host (R415, R440). -/
  xlate : Bool
  deriving DecidableEq, Repr

/-- A merge contribution (R287, R288). -/
structure Contribution where
  step : Nat
  ldev : Nat
  lcore : Nat
  bag : Nat
  pos : Nat
  ctx : Nat
  table : Nat
  shard : Nat
  row : Nat
  grad : List W32
  bf16 : Bool
  replay : Bool
  /-- The sender: a local tag, or the request identity of a fabric contribution. -/
  from_ : Option Nat
  srcDev : Nat
  srcTag : Nat
  express : Bool
  /-- Poison of each gradient element. -/
  poison : List Bool
  /-- The fabric-inbound tag that a contribution of another device holds (R525). -/
  tag : Option Nat
  deriving DecidableEq, Repr

/-- A table descriptor with its shard map, read after commit (R269, R270). -/
structure TableDesc where
  id : Nat
  fmt : Fmt
  fast : Bool
  train : Bool
  shmode : Nat
  rowb : Nat
  grows : Nat
  base : Nat
  devs : List Nat
  lshard : Nat
  srows : Nat
  stage : Nat
  trows : Nat
  rstep : Nat
  /-- Elements per row. -/
  w : Nat
  deriving DecidableEq, Repr

/-- An engine command between commit and retirement. -/
structure Cmd where
  op : EngOp
  core : Nat
  slot : SlotId
  ctx : Nat
  blk : Block
  tile : Tile
  ta : Tile
  tb : Tile
  tc : Tile
  ga : Nat
  gb : Nat
  /-- Local-store address of the operand block or buffer. -/
  addr : Nat
  /-- LFSR state at which the command's reserved steps start (R184). -/
  lfsr : W32
  ldev : Nat
  /-- Global order number of the commit, for epochs and arrival order. -/
  seq : Nat
  /-- Its number among the slot's commands since the replay point (R614). -/
  ord : Nat
  /-- The descriptors have been read and accepted. -/
  ready : Bool
  table : Option TableDesc
  stream : Option Stream
  bags : List Bag
  partials : List Partial
  /-- Pool-at-home requests still to send: bag, shard, piece, pieces (R527). -/
  remoteQ : List (Nat × Nat × Nat × Nat)
  /-- Contributions formed and not yet sent. -/
  outbox : List Contribution
  /-- Remote requests or contributions not yet answered. -/
  waiting : Nat
  /-- Execute units done; rows, elements or bytes done. -/
  unit : Nat
  doneN : Nat
  flags : Flags
  drops : Nat
  poison : Bool
  late : Bool
  pivot : Bool
  /-- The first failure code met. -/
  code : Nat
  detail : Nat
  replay : Bool
  deriving DecidableEq, Repr

/-- The states of an OpTag (R109). -/
inductive TagSt where
  | free | inFlight | retiring
  deriving DecidableEq, Repr

/-- One OpTag (R105, R109, R111). -/
structure Tag where
  st : TagSt
  gen : BitVec 4
  /-- The logical core and slot whose command took it last; none for requests and the Dispatcher. -/
  owner : Option (Nat × SlotId)
  ctx : Nat
  status : W64
  cmd : Option Cmd
  /-- The command, which has retired, read or wrote context memory (R424). -/
  mem : Bool
  deriving DecidableEq, Repr

/-- Where a line request goes. -/
inductive Target where
  | dev (pa : Nat)
  | host (fn iova : Nat) (seg : Option (Nat × Nat))
  deriving DecidableEq, Repr

/-- What a line request asks of its line: a read, a write, or a CMAINT operation (R390). -/
inductive ReqKind where
  | read | write | maint (opn : Nat)
  deriving DecidableEq, Repr

/-- Where a line request stands. -/
inductive ReqStage where
  | issued | missing | ready
  deriving DecidableEq, Repr

/-- A line request of a core's fetch engine in flight (R235, R236). -/
structure LineReq where
  id : Nat
  tag : Nat
  core : Nat
  slot : SlotId
  ctx : Nat
  kind : ReqKind
  tile : Nat
  va : Nat
  cls : Nat
  wp : Nat
  target : Target
  /-- Write data with byte enables, or the bytes read once ready. -/
  data : List (Option Byte)
  poison : List Bool
  stage : ReqStage
  code : Nat
  deriving DecidableEq, Repr

/-- A PFETCH line on its way to its slice (R212, R389). -/
structure Hint where
  ctx : Nat
  pa : Nat
  wp : Nat
  deriving DecidableEq, Repr

/-! ### Matrix layers and barriers (spec/05, spec/06, spec/08) -/

/-- A weight panel on the Loop Line: its m-block, its k range, and for each of its columns the
weights (k position, exact value) and whether a weight word of that column was poisoned (R322). -/
structure Panel where
  mblock : Nat
  k0 : Nat
  kn : Nat
  cols : List (List (Nat × Num) × Bool)
  deriving DecidableEq, Repr

/-- Output bytes on their way to a core's local store (R335): address, bytes, the poison of each byte, and whether they wait for the
rest of their word. -/
structure OcWrite where
  core : Nat
  addr : Nat
  bytes : List Byte
  poison : List Bool
  late : Bool
  deriving DecidableEq, Repr

/-- What one station still owes an instance: landed panels and consumed panels (R246). -/
structure StationSt where
  landed : List Panel
  consumed : Nat
  /-- m-blocks whose output rows have been written. -/
  written : Nat
  /-- Partial store: the 64-bit view of each sum, with its poison (R323). -/
  part : Sp W64
  poison : Sp Bool
  /-- Output rows that hold a poisoned word. -/
  rowBad : Sp Bool
  flags : Sp Flags
  /-- TERN2 hold buffer: rows of exact FP32 roundings (R336). -/
  hold : Sp W32
  /-- Output bytes that have not gone to local store: the weights can still fail, or their word is not whole. -/
  outs : List OcWrite
  deriving DecidableEq, Repr

/-- An MLAYER instance: the arrivals of one LAYER within a context (R208). -/
structure Layer where
  ctx : Nat
  id : Nat
  /-- The first arrival's parameters that later arrivals must match. -/
  list : List Byte
  mask : Nat
  fmtIn : Fmt
  fmtOut : Fmt
  sp : Bool
  cm : Nat
  count : Nat
  express : Bool
  fm : Bool
  k : Nat
  m : Nat
  /-- Tags of the arrivals that have not retired. -/
  arrivals : List Nat
  /-- Every slot that takes part (R259). -/
  who : List (Nat × SlotId)
  complete : Bool
  /-- Global order number of the last arrival (R247). -/
  seq : Nat
  started : Bool
  rows : List Nat
  sent : Nat
  stations : Sp StationSt
  halted : Option WaitOn
  halts : Nat
  /-- The injector waits for a host translation (R441). -/
  xlate : Bool
  deriving DecidableEq, Repr

/-- A landing buffer held for the participants of one instance (R258): its order number and class, and the slots whose layer-end
markers have not arrived. -/
structure MuHold where
  seq : Nat
  express : Bool
  waits : List (Nat × SlotId)
  deriving DecidableEq, Repr

/-- A Matrix Unit's layer-end book: the holds of its landing buffer, the markers on their way (R258), and the class and station of the
panel it consumed last (R344). -/
structure MuSt where
  holds : List MuHold
  sent : List (Nat × SlotId)
  last : Option (Bool × Nat)
  /-- The class or station has changed and no cycle has counted the change. -/
  turned : Bool
  deriving DecidableEq, Repr

/-- A barrier instance (R219, R220). -/
structure Barrier where
  ctx : Nat
  id : Nat
  count : Nat
  time : Nat
  mg : Bool
  step : Nat
  arrivals : List Nat
  /-- Released; with MG = 1 waiting for the close checks (R221). -/
  closing : Bool
  delay : Nat
  /-- Some Row Merge Unit failed its close check (R304). -/
  failed : Bool
  deriving DecidableEq, Repr

/-! ### The merge (spec/07) -/

/-- A run in a spill log (R298). -/
structure Run where
  ctx : Nat
  step : Nat
  table : Nat
  shard : Nat
  /-- Where its bytes lie, in order: address and length of each extent. -/
  ext : List (Nat × Nat)
  len : Nat
  count : Nat
  deriving DecidableEq, Repr

/-- A merge window's books (R302, Table 7.6) and its phase. -/
structure Window where
  ctx : Nat
  step : Nat
  inn : Nat
  flight : Nat
  buf : Nat
  spilled : Nat
  out : Nat
  dup : Nat
  overflow : Bool
  /-- The closing BARR has released: no more contributions. -/
  closing : Bool
  /-- The close check of this Row Merge Unit has passed. -/
  passed : Bool
  /-- The check has passed everywhere: the window waits for its apply. -/
  applying : Bool
  flags : Flags
  /-- An uncorrectable error in the merge buffer has touched the window (Table 16.1). -/
  upset : Bool
  /-- LR, EPS and BETA of each table and shard, as its home table record held them when the apply began (R310). -/
  hyper : List (Nat × Nat × W32 × W32 × W32)
  deriving DecidableEq, Repr

/-- A Row Merge Unit: one per HBM channel. -/
structure Rmu where
  buffer : List Contribution
  held : List Contribution
  windows : List Window
  runs : List Run
  lastClose : Sp Nat
  applied : Sp Nat
  deriving DecidableEq, Repr

/-! ### Solver Clusters (spec/09) -/

/-- The inputs of a problem descriptor (Table 9.1). -/
structure Problem where
  /-- Order number at the front end. -/
  id : Nat
  /-- The SOLVE's tag; none for a governor problem. -/
  tag : Option Nat
  idx : Nat
  ctx : Nat
  express : Bool
  addr : Nat
  qp : Bool
  fmt : Fmt
  warm : Bool
  dwarm : Bool
  n : Nat
  m : Nat
  maxit : Nat
  deadline : Nat
  addrA : Nat
  addrB : Nat
  addrX : Nat
  addrP : Nat
  addrL : Nat
  addrU : Nat
  addrY : Nat
  lam : W64
  prox : W64
  relax : W64
  epsAbs : W64
  epsRel : W64
  pivtol : W64
  check : Nat
  mask : Nat
  /-- Cluster and lane once assigned. -/
  lane : Option (Nat × Nat)
  /-- Restarted after a failure: goes ahead of waiting problems (R351). -/
  restart : Bool
  /-- A poisoned word of the descriptor was read (R364). -/
  bad : Bool
  /-- A time fault under EXPIRE has reached its deadline (R562). -/
  expired : Bool
  /-- The lane waits for a granule or page (R365). -/
  wait : Option WaitOn
  deriving DecidableEq, Repr

/-! ### The row cache and memory (spec/10) -/

/-- A cached line: line number, dirty bit, 128 bytes, poison of its eight 16-byte words. -/
structure CLine where
  l : Nat
  dirty : Bool
  data : List Byte
  poison : List Bool
  deriving DecidableEq, Repr

/-- A miss entry (R385, R386, R388). -/
structure Miss where
  l : Nat
  /-- The way chosen, with its key `way * 8192 + set`; none when nothing was allocated. -/
  place : Option Nat
  /-- The dirty victim still waiting for the memory controller. -/
  victim : Option CLine
  /-- The fill data, once it has arrived (or a full-line write that needs none). -/
  fill : Option CLine
  /-- The line is to be installed: no write-around write has passed through it. -/
  keep : Bool
  waiters : List Nat
  deriving DecidableEq, Repr

/-- One row-cache slice (R373, R392, R393). -/
structure Slice where
  /-- Way states: 0 OFF, 1 INACTIVE, 2 ACTIVE, 3 CLEANING. -/
  way : Sp Nat
  inv : BitVec 16
  fenced : BitVec 16
  faultCe : BitVec 16
  faultUe : BitVec 16
  salt : Nat
  lfsr : BitVec 16
  ce : Sp Nat
  /-- A CLEANING way goes to OFF at the end of its sweep (POWER_DOWN). -/
  toOff : BitVec 16
  /-- Lines written by the sweep of each CLEANING way, and its cause (R401). -/
  swept : Sp Nat
  cause : Sp Nat
  /-- The set that the sweep of each CLEANING way comes to next (R394). -/
  sweepAt : Sp Nat
  /-- Requests that wait at the ingress behind a miss that finds no free entry, oldest first (R385). -/
  ingress : List Nat
  lines : Sp (Option CLine)
  misses : List Miss
  deriving DecidableEq, Repr

/-- A way command in progress (R396). -/
structure WayCmd where
  op : Nat
  ways : BitVec 16
  slices : Nat
  deriving DecidableEq, Repr

/-! ### Translation (spec/11) -/

/-- A granule-table entry (Table 11.6). -/
structure Gran where
  state : Nat
  hotp : Bool
  count : Nat
  host : Nat
  deriving DecidableEq, Repr

/-- A granule entry in the device translation cache (R440): its tag, the table it came from (R438), and the number of its
fill, by which a full set finds its oldest entry. -/
structure GranTr where
  ctx : Nat
  seg : Nat
  k : Nat
  gtbase : Nat
  g : Gran
  fill : Nat
  deriving DecidableEq, Repr

/-- A Page Request without a response (R443): what it asks for, and its group. -/
structure PageReq where
  fn : Nat
  pasid : Option Nat
  page : Nat
  group : Nat
  deriving DecidableEq, Repr

/-- A host translation in the device translation cache (R440, R441). -/
structure HostTr where
  fn : Nat
  pasid : Option Nat
  va : Nat
  size : Nat
  pa : Nat
  r : Bool
  w : Bool
  /-- The number of its fill. -/
  fill : Nat
  deriving DecidableEq, Repr

/-- A fault or hot-granule record (Table 11.7). -/
structure FaultRec where
  typ : Nat
  ctx : Nat
  seg : Nat
  express : Bool
  flowed : Bool
  granule : Nat
  va : Nat
  count : Nat
  time : Nat
  deriving DecidableEq, Repr

/-- Who waits at the Points processor for a miss (R415, R416). -/
inductive PxWho where
  | fetch (core : Nat) (slot : SlotId)
  | stream (tag : Nat)
  /-- A problem on a solver lane, a SOLVE at the front end, a weight injector, a LOAD or COPY. -/
  | lane (problem : Nat)
  | frontEnd (tag : Nat)
  | injector (ctx layer : Nat)
  | transfer (cmd : Nat)
  /-- A PFETCH of lines of a context from one line on. -/
  | hint (core : Nat) (slot : SlotId) (line count : Nat)
  deriving DecidableEq, Repr

/-- A miss waiting at the Points processor. -/
structure PxMiss where
  who : PxWho
  ctx : Nat
  va : Nat
  express : Bool
  /-- A device translation cache miss (granule entry) rather than a lookaside miss. -/
  dtc : Bool
  deriving DecidableEq, Repr

/-- A control command waiting at, or in progress on, the Points processor (R420). -/
structure CtrlCmd where
  /-- The Dispatcher's command number, for its completion. -/
  cmd : Nat
  code : Nat
  body : List Byte
  pf : Bool
  deriving DecidableEq, Repr

/-- An epoch that has not drained (R424). -/
structure Epoch where
  /-- Drained when it drains: the control command it completes. -/
  cmd : Nat
  ctx : Option Nat
  /-- Tags in the drain set with their generations. -/
  tags : List (Nat × Nat)
  /-- Inbound fabric requests in the drain set, by identity. -/
  inbound : List Nat
  /-- Applies in the drain set: unit, context and step. -/
  applies : List (Nat × Nat × Nat)
  deriving DecidableEq, Repr

/-! ### The host side (spec/12) -/

/-- A queue pair's indices and counts (R460, R465, R471); its configuration is in its registers. -/
structure Queue where
  sqHead : Nat
  sqTail : Nat
  cqHead : Nat
  cqTail : Nat
  phase : Bool
  /-- Commands taken since enable, modulo 2^32 (R468). -/
  taken : Nat
  /-- Taken and not yet completed. -/
  out : Nat
  /-- 0 no error; else ERRCODE (R470). -/
  err : Nat
  /-- Entries written since the last interrupt (R479). -/
  unsig : Nat
  /-- Tails written and the times of their doorbells, oldest first, while commands before them wait (R646). -/
  bells : List (Nat × Nat)
  deriving DecidableEq, Repr

/-- Where a taken command stands. -/
inductive DSt where
  /-- Taken, waiting for ORDER, a target slot or its executor. -/
  | waiting
  /-- Assigned: waits for the slot of this logical core. -/
  | assigned (core : Nat)
  | running
  deriving DecidableEq, Repr

/-- A taken command (R461, R468). -/
structure DCmd where
  id : Nat
  ctx : Nat
  q : Nat
  express : Bool
  order : Bool
  irq : Bool
  /-- Time of its doorbell (R646). -/
  bell : Nat
  cmdid : Nat
  op : Nat
  bytes : List Byte
  st : DSt
  /-- OpTag of a COPY or LOAD, and bytes moved. -/
  tag : Option Nat
  moved : Nat
  /-- A COPY halted under HALT_SAVE waits for this (Table 6.7). -/
  wait : Option WaitOn
  /-- A time fault under EXPIRE has reached its deadline (R562). -/
  timeUp : Bool
  deriving DecidableEq, Repr

/-- A parcel ring's indices (R477). -/
structure PRing where
  tail : Nat
  head : Nat
  phase : Bool
  deriving DecidableEq, Repr

/-- What a request to the host carries beside its address: Relaxed Ordering (R465), the PASID prefix, and the mark of a
translated address (R441, R442). -/
structure TlpAttr where
  ro : Bool
  pasid : Option Nat
  translated : Bool
  deriving DecidableEq, Repr

/-- Output of the PCIe endpoint, in transmit order. -/
inductive Post where
  /-- A write to host memory by function `fn`: address, bytes, EP bit of a poisoned write (R482). -/
  | write (fn addr : Nat) (bytes : List Byte) (ep : Bool) (attr : TlpAttr)
  /-- A read of host memory: address and bytes asked for. -/
  | read (fn addr len : Nat) (attr : TlpAttr)
  /-- An MSI-X message, device-wide vector number (R478). -/
  | msix (vector : Nat)
  /-- An ATS translation request, page request, invalidate completion (R441, R443, R445). -/
  | atsRequest (fn va : Nat) (pasid : Option Nat)
  /-- R443: with the Last bit set, in the group of this number, which holds nothing else. -/
  | pageRequest (fn va : Nat) (pasid : Option Nat) (group : Nat)
  | invalidateDone (fn itag : Nat)
  /-- The completion of a host read: its data, EP when poisoned (R458), or Completer Abort. -/
  | readDone (bytes : List Byte) (ep : Bool)
  | readAbort
  /-- A configuration completion: its value, or configuration request retry status (R45, R484). -/
  | cfgDone (fn value : Nat)
  | cfgRetry (fn : Nat)
  /-- An AER error message of a function: 0 correctable, 1 non-fatal, 2 fatal (R481). -/
  | errMsg (fn sev : Nat)
  deriving DecidableEq, Repr

/-- A parcel on its way from a host parcel port (R475): the port's key, its tag, its destination. -/
structure PortSend where
  port : Nat
  tag : Option Nat
  core : Nat
  slot : SlotId
  bytes : List Byte
  deriving DecidableEq, Repr

/-- A read of commands in flight (R472): the queue, the index of the first command and the number asked for. -/
structure CmdRead where
  key : Nat
  first : Nat
  count : Nat
  deriving DecidableEq, Repr

/-- The settings of a function's configuration space (Tables 12.1, 12.8, R480) that stand in no other field. AER bits are
numbered as `AerErr`. -/
structure CfgFn where
  maxPayload : Nat
  maxRead : Nat
  relaxed : Bool
  toRange : Nat
  toOff : Bool
  ecrcGen : Bool
  ecrcCheck : Bool
  aerStatus : BitVec 18
  aerMask : BitVec 18
  aerSev : BitVec 18
  deriving DecidableEq, Repr

/-- Host-side state that is not in registers. -/
structure HostSt where
  queues : Sp Queue
  cmds : List DCmd
  nextCmd : Nat
  /-- Express queues with a moved tail, in order of doorbell arrival (R472). -/
  service : List Nat
  /-- Reads of commands in flight, oldest first (R472). -/
  cmdReads : List CmdRead
  /-- Queue key of the bulk command started last (R464). -/
  turn : Nat
  rings : Sp PRing
  /-- Parcel ports: PSTAT and DATA, keyed 8 * context + port (R475). -/
  pstat : Sp Nat
  pdata : Sp (List Byte)
  portSends : List PortSend
  /-- MSI-X masks, set at reset (log 7), and pending bits, by device-wide vector (R479). -/
  masked : Sp Bool
  vecPending : Sp Bool
  /-- Functions in D3hot (R486), and their held output: function, rank (R639), output. -/
  d3 : Sp Bool
  heldPosts : List (Nat × Nat × Post)
  /-- Functions with ATS enabled; PRI and PASID as the physical function enables them for all (Table 11.8); functions whose
  PRI failed (R444). -/
  ats : Sp Bool
  pri : Bool
  pasid : Bool
  priFailed : Sp Bool
  /-- ATS Translation Requests that wait for their completions: function, PASID and address (R441). -/
  atsOut : List (Nat × Option Nat × Nat)
  /-- ATS Invalidate Requests not yet completed: function, tag and the line requests they wait for (R445). -/
  atsInv : List (Nat × Nat × List Nat)
  /-- Host reads of ended commands whose data has not returned (R445). -/
  orphans : List Nat
  /-- Functions whose reset has not completed (R484); the physical function is 0. -/
  resetting : Sp Bool
  vfEnable : Bool
  /-- The size of HW4 as a power of two, 30 to 38 (Table 12.1). -/
  hw4Log : Nat
  ctxResetBusy : Option Nat
  fnResetBusy : Option Nat
  /-- Configuration space of each function. -/
  cfg : Sp CfgFn
  /-- Everything that has entered the transmit queue, oldest first; how many of these have left it; and what waits to enter
  it, first to enter first, each with its rank: 0 a taken record of an express queue (R473), 1 a posted write of an express
  slot or an entry of an express queue (R639), 2 the rest. -/
  out : List Post
  sent : Nat
  unqueued : List (Nat × Post)
  /-- The part answers on the link: PERST_N high and trained (R487). -/
  linkUp : Bool
  deriving DecidableEq, Repr

/-! ### Records (spec/16) -/

/-- A log record (Table 16.6a). -/
structure LogRec where
  code : Nat
  sev : Nat
  plane : Nat
  ctx : Option Nat
  seq : Nat
  time : Nat
  unit : Nat
  count : Nat
  arg : Nat
  addr : Nat
  /-- Written to the host log ring. -/
  toHost : Bool
  /-- Passed by a READ_LOG cursor. -/
  read : Bool
  deriving DecidableEq, Repr

/-- The central log and what follows it (R624 to R629). -/
structure LogSt where
  /-- Records created since cold reset: the SEQ of the newest (R742). -/
  seq : Nat
  central : List LogRec
  holding : List LogRec
  spill : List LogRec
  lostHi : Bool
  fatal : Bool
  /-- The data plane is halted by a fatal record (R630). -/
  dpHalted : Bool
  /-- READ_LOG cursors: the least SEQ that SMBus and the mailbox read next (R629). -/
  curSmbus : Nat
  curMbox : Nat
  /-- Records that the spill ring holds from before the last cold reset, and how many of them each cursor has passed. -/
  old : List LogRec
  oldSmbus : Nat
  oldMbox : Nat
  deriving DecidableEq, Repr

/-! ### The trace buffer (spec/20) -/

/-- A trace entry (R725). -/
structure TraceEnt where
  time : Nat
  unit : Nat
  kind : Nat
  data : Nat
  deriving DecidableEq, Repr

/-- The trace buffer (R725 to R727). -/
structure TraceSt where
  armed : Bool
  triggered : Bool
  left : Nat
  wptr : Nat
  ent : Sp (Option TraceEnt)
  deriving DecidableEq, Repr

/-! ### Outstanding remote requests (spec/13) -/

/-- A request of this device that waits for its answer (R531, R532). -/
structure Remote where
  tag : Nat
  handle : Nat
  op : Nat
  dst : Nat
  core : Nat
  slot : SlotId
  ctx : Nat
  bag : Nat
  shard : Nat
  piece : Nat
  /-- Position of a contribution in its bag. -/
  pos : Nat
  /-- Has left the requester's Junction: the 24 µs bound runs (R532). -/
  left : Bool
  deriving DecidableEq, Repr

/-- A pending fault (R431): the absent granule, and whether its record is in the open batch. -/
structure Pend where
  ctx : Nat
  seg : Nat
  k : Nat
  deriving DecidableEq, Repr
/-! ### The Junction and the fabric (spec/13) -/

/-- A request from another device that a serving unit holds (R525): its identity, its fabric-inbound tag and
the packet. -/
structure Inbound where
  id : Nat
  tag : Option Nat
  pkt : Packet
  /-- XL_IWCTL, XL_IWLEN, XL_IWBASE and XL_IWBOX of its window as they stood when it arrived (R450). -/
  win : List W64
  deriving DecidableEq, Repr

/-- A DATA flit that a sender holds until it is acknowledged (R494): its sequence number and class, its packet and its
place in it. -/
structure TxEnt where
  seq : Nat
  cls : Nat
  pkt : Packet
  part : Nat
  deriving DecidableEq, Repr

/-- A receive buffer of one class (R499): the packet being received, with the flits it has, and the whole packets. -/
structure RxQueue where
  part : Option (Packet × Nat)
  whole : List Packet
  deriving DecidableEq, Repr

/-- A port (Table 13.4). -/
structure PortSt where
  /-- 0 OFF, 1 TRAIN, 2 HELLO, 3 UP, 4 MISMATCH, 5 FAILED. -/
  st : Nat
  /-- 0 none, 1 x2, 2 x4. -/
  width : Nat
  /-- Failed training attempts in a row. -/
  fails : Nat
  /-- A matching HELLO has been received (R514). -/
  heard : Bool
  /-- Has left TRAIN and HELLO (R516). -/
  ended : Bool
  misreason : Nat
  peer : Nat
  peerport : Nat
  txSeq : Nat
  rxSeq : Nat
  /-- Last DATA sequence number accepted that ends a packet (R505). -/
  lastEop : Nat
  /-- Unacknowledged DATA flits, oldest first. -/
  replay : List TxEnt
  /-- A go-back has happened with no advance of ACK since; consecutive retries (R496). -/
  wentBack : Bool
  retries : Nat
  /-- A NAK has been sent for the expected flit (R495). -/
  nakked : Bool
  credits : Sp Nat
  /-- Credits of each class still to return (R500). -/
  owed : Sp Nat
  rx : Sp RxQueue
  /-- Joined its bundle's active set while other links had unacknowledged flits (R507). -/
  joining : Bool
  /-- Flits of the failed link that wait for the neighbour's answer (R505). -/
  failover : Option (List TxEnt)
  /-- Times of the last entries to FAILED and transitions out of UP (Table 16.3). -/
  failedAt : List Nat
  downAt : List Nat
  /-- When the port was fenced (R620). -/
  fencedAt : Option Nat
  /-- Symbols corrected in the last millisecond, each count with its time, and whether it has been recorded (R491). -/
  syms : List (Nat × Nat)
  symTold : Bool
  /-- DATA flits of the express classes sent since a bulk class sent one (R502). -/
  run : Nat
  deriving DecidableEq, Repr

/-- What a flit that the part sends holds. -/
inductive WireBody where
  | idle
  | data (cls : Nat) (pkt : Packet) (part : Nat)
  | hello (h : Hello)
  | tsync (t : Tsync)
  /-- R505: the failed link, and the answer when it is one. -/
  | failover (link : Nat) (answer : Option Nat)
  deriving DecidableEq, Repr

/-- A flit on its way out of a port. -/
structure WireFlit where
  port : Nat
  head : FlitHead
  body : WireBody
  deriving DecidableEq, Repr

/-- The Junction and its ports. -/
structure Fabric where
  ports : Sp PortSt
  /-- Packets taken back from failed links, with their direction and class (R505). -/
  resend : List (Packet × Nat × Nat)
  /-- Flits sent, oldest first. -/
  wire : List WireFlit
  /-- A valid topology descriptor has been committed (R741). -/
  committed : Bool
  timeMaster : Nat
  /-- JN_CFG.COMMIT has been written with 1 since cold reset: the RWL fields are locked (R12, R512). -/
  locked : Bool
  deriving DecidableEq, Repr

/-! ### The Timetable counter (spec/14) -/

/-- An exchange of this follower in progress (R550): its number and t1, t2, t3 in units of 2^-16 ns. -/
structure Exchange where
  seqid : Nat
  t1 : Option Nat
  t2 : Nat
  t3 : Option Nat
  deriving DecidableEq, Repr

/-- State of the Timetable counter that is in no register. -/
structure TimeSt where
  /-- The time-clock PLL has locked (R539). -/
  running : Bool
  /-- The counter of I/O die 0: seconds, and nanoseconds in units of 2^-32 ns. -/
  sec : Nat
  sub : Nat
  /-- The copy less the counter, in units of 2^-16 ns (R542). -/
  skew : Int
  /-- Correction still to be made, in units of 2^-32 ns (R556). -/
  corr : Int
  /-- Past rates: INCR and the counter (in ns) when it was left, newest first (R559). -/
  rates : List (Nat × Nat)
  /-- Consecutive good edges or exchanges (R548, R553). -/
  good : Nat
  /-- The named second of the next PPS edge (R546). -/
  named : Option Nat
  /-- The counter at the last PPS edge, in units of 2^-16 ns. -/
  lastEdge : Option Nat
  exchange : Option Exchange
  /-- Number of the next exchange that this device starts for a follower, by port. -/
  seqOut : Sp Nat
  /-- The counter in ns when the last exchange completed, and when HOLDOVER began. -/
  lastDone : Nat
  heldSince : Nat
  announce : Nat
  /-- The master has stepped since its last announce (R552). -/
  stepped : Bool
  /-- The upstream port; a new upstream is followed by slewing only until the device locks (R554); the master's state as
  last announced. -/
  up : Option Nat
  slewOnly : Bool
  mstate : Nat
  /-- The PPS_OUT pin. -/
  ppsOut : Bool
  /-- Snapshots of TT_SEC readers: functions, the Stationmaster (64), DBGACC (65) (R544). -/
  snaps : Sp Snap
  deriving DecidableEq, Repr

/-! ### The Stationmaster (spec/15, spec/19) -/

/-- What outlives every reset: the flash directory and image slots, and OTP (R568, R689, R692). -/
structure NvSt where
  /-- The directory's CRC holds. -/
  dirOk : Bool
  /-- ACTIVE: 0 A, 1 B. -/
  active : Nat
  /-- 0 none, 1 a trial not yet started, 2 a trial started. -/
  dirPending : Nat
  imageA : Mem
  imageB : Mem
  /-- Anti-rollback fuses blown; KEYREVOKE; SERIAL; DBGLOCK. -/
  arb : Nat
  revoke : Nat
  serial : Nat
  dbgLock : Bool
  /-- The CRC of OTP holds; the unit fences of REPAIR, by register address (R620, R689). -/
  otpOk : Bool
  repair : List (Nat × W64)
  /-- The topology descriptor region of the flash (Table 15.3). -/
  desc : Mem
  deriving DecidableEq, Repr

/-- Why the Stationmaster restarts (R566, R598). -/
inductive Restart where
  | none | activation | watchdog
  deriving DecidableEq, Repr

/-- The Stationmaster and the governor, beside their registers. -/
structure SmSt where
  /-- Table 15.1 and Table 15.9. -/
  st : Nat
  upd : Nat
  /-- The image that runs, and the versions of Table 15.4's FW_STATUS. -/
  image : Nat
  version : Nat
  staged : Nat
  restart : Restart
  /-- Caps in W, 0 for none (R574). -/
  capBoard : Nat
  capHost : Nat
  /-- Enable and target as commanded, and as taken at the last cycle boundary (R575). -/
  govWant : Bool
  govOn : Bool
  targetWant : Nat
  target : Nat
  /-- A mailbox command has been started and not executed. -/
  mbox : Bool
  /-- The SMBus response, and what the SMBus target has returned, oldest first. -/
  rsp : List Byte
  out : List (List Byte)
  /-- An SMBus command that waits for a mailbox command before it (R572, R575): its code and request bytes. -/
  smbusPend : Option (Nat × List Byte)
  /-- Quadrants that the hardware throttle holds; HBM_HOT holds; THERMTRIP_N is asserted (Table 15.7). -/
  throttle : BitVec 4
  hbmHot : Bool
  trip : Bool
  /-- Telemetry: hottest sensor of each quadrant and of the HBM stacks in 1/16 °C; power of each VDD_CORE rail and of
  all other rails in mW. -/
  temps : List Int
  hbmTemp : Int
  coreMw : List Nat
  railMw : Nat
  /-- Failed AVSBus transactions in a row, by quadrant. -/
  avsFails : List Nat
  /-- Start of the current governor cycle in ns of global time, and of the one before in ns of local time. -/
  cycleAt : Option Nat
  cycleLocal : Option Nat
  /-- The governor waits for the problem of this cycle. -/
  solving : Bool
  /-- Bulk RUNs completed on each quadrant since the last boundary (RATE_TALLY). -/
  tally : List Nat
  /-- What the governor keeps from one cycle to the next: x and y of its last problem and the work per GHz of each quadrant (R586, R585),
  as FP64; and the temperatures of the last boundary. -/
  govX : List W64
  govY : List W64
  govG : List W64
  govT : List Int
  deriving DecidableEq, Repr

/-! ### Power, reset and boot (spec/18, spec/19) -/

/-- Where the rails are: the power-up step in progress, or what the sequence has come to. -/
inductive Rails where
  | off
  | rising (step : Nat)
  | on
  | failed
  | down
  deriving DecidableEq, Repr

/-- The reference clocks (Table 18.8). -/
inductive RefClk where
  | pe
  | ser (d : Nat)
  | mclk
  deriving DecidableEq, Repr

/-- Power, reset pins, references and boot. -/
structure PowerSt where
  /-- POR_N, PERST_N and PWRDN_N are low. -/
  por : Bool
  perst : Bool
  pwrdn : Bool
  pwrdnDone : Bool
  rails : Rails
  lost : List RefClk
  /-- I/O dies whose die-to-die link failed at bring-up (R697). -/
  deadDies : List Nat
  /-- Boundary drive has been entered since cold reset (R729). -/
  drive : Bool
  /-- SM_BOOT (Table 19.8). -/
  phase : Nat
  code : Nat
  arg : Nat
  warns : Nat
  bootFatal : Bool
  /-- The boot ROM has chosen and verified an image. -/
  booted : Bool
  /-- HBM training: failed attempts of each channel, and the channels trained. -/
  tries : Sp Nat
  trained : Sp Bool
  /-- A warm reset, and a data-plane reset, in progress (R686, R687). -/
  warm : Bool
  dataPlane : Bool
  deriving DecidableEq, Repr

/-! ### JTAG and port tests (spec/20) -/

/-- What the pins follow (Table 20.8). -/
inductive PinDrive where
  | core | boundary | held | floating
  deriving DecidableEq, Repr

/-- The test access port and the port test. -/
structure TestSt where
  /-- The selected instruction's opcode, and the data register as captured. -/
  ir : Nat
  dr : Nat
  /-- DBGACC: the last read's data, and DONE. -/
  accData : Nat
  accDone : Bool
  boundary : List Bool
  pins : PinDrive
  /-- The port under test. -/
  portTest : Option Nat
  /-- Boundary drive has been entered since the last cold reset (R729); DBG_CTL.LOCK has been written with 1 since then (R12). -/
  entered : Bool
  locked : Bool
  deriving DecidableEq, Repr

/-- The parts covered (Table 0.1). -/
inductive Variant where
  | og4H1 | og4H2 | og6H2 | og8H4
  deriving DecidableEq, Repr

/-! ### The state -/

/-- Everything the spec gives the part. -/
structure State where
  /-- Which part this is. -/
  variant : Variant
  /-- Commands waiting, first in, first out. -/
  pending : List Instr
  /-- Control registers by address; none where the register holds its reset value. -/
  regs : Sp (Option W64)
  cores : Sp Core
  tags : Sp Tag
  /-- Order number of the next command to commit. -/
  seq : Nat
  reqs : List LineReq
  nextReq : Nat
  hints : List Hint
  layers : List Layer
  mus : Sp MuSt
  barriers : List Barrier
  /-- Contributions on their way to a Row Merge Unit of this device. -/
  mergeNet : List Contribution
  rmus : Sp Rmu
  problems : List Problem
  nextProblem : Nat
  /-- SOLVE commands at the solver front end, each with the granule or page its descriptors wait for. -/
  solveNet : List (Nat × Option WaitOn)
  laneOff : Sp Bool
  /-- The governor window: 64 KiB of Stationmaster SRAM (R594). -/
  govWin : Mem
  slices : Sp Slice
  wayCmd : Option WayCmd
  hbm : Mem
  hbmPoison : Sp Bool
  own : Sp Byte
  /-- Lookasides of the Solver Clusters (0 to 3) and the weight injectors (4 to 7). -/
  looks : Sp Lookaside
  /-- The device translation cache: granule entries and host translations, oldest fill first, and the fills so far (R440). -/
  dtcG : List GranTr
  dtcH : List HostTr
  dtcFills : Nat
  pend : List Pend
  batchOpen : List FaultRec
  batchHeld : List (List FaultRec)
  /-- Host granule requests counted, modulo 64 (R436). -/
  hostSeq : Nat
  px : List PxMiss
  /-- Misses served that found no segment, until their requesters take the fault (R417). -/
  pxNone : List PxMiss
  ctrl : List CtrlCmd
  epochs : List Epoch
  epoch : Nat
  /-- Page Requests without a response (R443). -/
  priOut : List PageReq
  remotes : List Remote
  /-- Packets handed to the Junction and not yet routed (R522). -/
  inject : List Packet
  /-- Requests of other devices in service, and the number of the next. -/
  inbound : List Inbound
  nextInbound : Nat
  /-- Inbound window registers written less than 64 cycles ago: address, value before the write, and cycles left (R452). -/
  winOld : List (Nat × W64 × Nat)
  fab : Fabric
  time : TimeSt
  /-- Flash and OTP contents. -/
  nv : NvSt
  sm : SmSt
  power : PowerSt
  test : TestSt
  host : HostSt
  log : LogSt
  trace : TraceSt
  /-- Consecutive retries of each link that carries a CRC-32 per transfer (Table 16.1): 0 the Loop Line, 1 the Parcel path, 2 on the
  die-to-die links. -/
  linkRetry : Sp Nat
  /-- Times, in ns, of the ARRAY_UE records of each unit within the last second (Table 16.3). -/
  ueTimes : Sp (List Nat)
  /-- The main-die copy of the Timetable counter (R542). -/
  now : Snap
  /-- The model's own counter: one step for each free value drawn (Config). -/
  free : Nat
  deriving DecidableEq, Repr

/-! ### The part right after cold reset (R16, R682, R684) -/

def snapZero : Snap := ⟨0, 0, 0⟩

def replayReset : Replay := ⟨false, 0, [], [], 0, 0, 0, 1, snapZero, [], 0, 0, [], false⟩

/-- R121, Table 3.8: an idle slot that has run nothing; its LFSR holds 1. -/
def slotReset : Slot where
  phase := .idle
  ctx := 0
  prevCtx := none
  cmd := 0
  queue := 0
  pc := 0
  g := []
  f := []
  fflags := 0
  frm := 0
  statsum := 0
  cycle := 0
  snap := snapZero
  lfsr := 1
  held := none
  timeUp := false
  cop := []
  fq := []
  xq := []
  tokFree := 4
  tokFetch := 0
  tokExec := 0
  inbox := []
  replay := replayReset
  replaying := none

def lookReset : Lookaside := ⟨[], []⟩

/-- A core after reset: local store and accumulators zero (R684), tiles undefined, EN = 0. -/
def coreReset : Core where
  ls := []
  lsPoison := []
  acc := []
  accPoison := []
  accInt := []
  accBad := []
  tiles := []
  bulk := slotReset
  express := slotReset
  expressEn := false
  expressPend := none
  reports := []
  score := []
  look := lookReset
  fetchMiss := none
  xeSlot := .bulk
  xeTurned := false
  halted := false
  stepping := none
  skipBp := []
  injPoint := 0

/-- A free tag of generation 0 whose status word reads zero. -/
def tagReset : Tag := ⟨.free, 0, none, 0, 0, none, false⟩

def muReset : MuSt := ⟨[], [], none, false⟩

def stationReset : StationSt := ⟨[], 0, 0, [], [], [], [], [], []⟩

def rmuReset : Rmu := ⟨[], [], [], [], [], []⟩

/-- R374, R383, R393: every way INACTIVE and powered, nothing invalidated, salt and LFSR as given. -/
def sliceReset (s : Nat) : Slice where
  way := []
  inv := 0
  fenced := 0
  faultCe := 0
  faultUe := 0
  salt := s * 0x19D3 % 0x2000
  lfsr := BitVec.ofNat 16 (0x1000 + s)
  ce := []
  toOff := 0
  swept := []
  cause := []
  sweepAt := []
  ingress := []
  lines := []
  misses := []

/-- The reset state of every way (R393). -/
def wayInactive : Nat := 1

def queueReset : Queue := ⟨0, 0, 0, 0, true, 0, 0, 0, 0, []⟩

def pringReset : PRing := ⟨0, 0, true⟩

/-- Configuration space after reset: the defaults of the base specification and the severities of Table 12.8. -/
def cfgReset : CfgFn where
  maxPayload := 0
  maxRead := 2
  relaxed := true
  toRange := 0
  toOff := false
  ecrcGen := false
  ecrcCheck := false
  aerStatus := 0
  aerMask := 0
  aerSev := 0x3E000#18

def hostReset : HostSt where
  queues := []
  cmds := []
  nextCmd := 0
  service := []
  cmdReads := []
  turn := 0
  rings := []
  pstat := []
  pdata := []
  portSends := []
  masked := []
  vecPending := []
  d3 := []
  heldPosts := []
  ats := []
  pri := false
  pasid := false
  priFailed := []
  atsOut := []
  atsInv := []
  orphans := []
  resetting := []
  vfEnable := false
  hw4Log := 30
  ctxResetBusy := none
  fnResetBusy := none
  cfg := []
  out := []
  sent := 0
  unqueued := []
  linkUp := false

def logReset : LogSt := ⟨0, [], [], [], false, false, false, 0, 0, [], 0, 0⟩

def traceReset : TraceSt := ⟨false, false, 0, 0, []⟩

def rxReset : RxQueue := ⟨none, []⟩

/-- A port after cold reset: OFF. -/
def portReset : PortSt where
  st := 0
  width := 0
  fails := 0
  heard := false
  ended := false
  misreason := 0
  peer := 0
  peerport := 0
  txSeq := 0
  rxSeq := 0
  lastEop := 65535
  replay := []
  wentBack := false
  retries := 0
  nakked := false
  credits := []
  owed := []
  rx := []
  joining := false
  failover := none
  failedAt := []
  downAt := []
  fencedAt := none
  syms := []
  symTold := false
  run := 0

def fabricReset : Fabric := ⟨[], [], [], false, 0, false⟩

/-- R539: the counter reads zero and does not yet tick. -/
def timeReset : TimeSt where
  running := false
  sec := 0
  sub := 0
  skew := 0
  corr := 0
  rates := []
  good := 0
  named := none
  lastEdge := none
  exchange := none
  seqOut := []
  lastDone := 0
  heldSince := 0
  announce := 0
  stepped := false
  up := none
  slewOnly := false
  mstate := 0
  ppsOut := false
  snaps := []

/-- An unprogrammed flash and OTP. -/
def nvReset : NvSt where
  dirOk := true
  active := 0
  dirPending := 0
  imageA := []
  imageB := []
  arb := 0
  revoke := 0
  serial := 0
  dbgLock := false
  otpOk := true
  repair := []
  desc := []

/-- The Stationmaster after cold reset: in ROM (Table 15.1), nothing capped, nothing measured. -/
def smReset : SmSt where
  st := 0
  upd := 0
  image := 0
  version := 0
  staged := 0
  restart := .none
  capBoard := 0
  capHost := 0
  govWant := false
  govOn := false
  targetWant := 0
  target := 0
  mbox := false
  rsp := []
  out := []
  smbusPend := none
  throttle := 0
  hbmHot := false
  trip := false
  temps := [0, 0, 0, 0]
  hbmTemp := 0
  coreMw := [0, 0, 0, 0]
  railMw := 0
  avsFails := [0, 0, 0, 0]
  cycleAt := none
  cycleLocal := none
  solving := false
  tally := [0, 0, 0, 0]
  govX := List.replicate 30 0#64
  govY := List.replicate 90 0#64
  govG := List.replicate 4 0#64
  govT := []

/-- POR_N and PERST_N low, every switched rail off (R682). -/
def powerReset : PowerSt where
  por := true
  perst := true
  pwrdn := false
  pwrdnDone := false
  rails := .off
  lost := []
  deadDies := []
  drive := false
  phase := 0
  code := 0
  arg := 0
  warns := 0
  bootFatal := false
  booted := false
  tries := []
  trained := []
  warm := false
  dataPlane := false

/-- R715: TAP reset selects IDCODE. -/
def testReset : TestSt := ⟨1, 0, 0, false, [], .core, none, false, false⟩

/-- R16, R682: the part in cold reset, every register at its value after cold reset. -/
def State.reset : State where
  variant := .og8H4
  pending := []
  regs := []
  cores := []
  tags := []
  seq := 0
  reqs := []
  nextReq := 0
  hints := []
  layers := []
  mus := []
  barriers := []
  mergeNet := []
  rmus := []
  problems := []
  nextProblem := 0
  solveNet := []
  laneOff := []
  govWin := []
  slices := []
  wayCmd := none
  hbm := []
  hbmPoison := []
  own := []
  looks := []
  dtcG := []
  dtcH := []
  dtcFills := 0
  pend := []
  batchOpen := []
  batchHeld := []
  hostSeq := 0
  px := []
  pxNone := []
  ctrl := []
  epochs := []
  epoch := 0
  priOut := []
  remotes := []
  inject := []
  inbound := []
  nextInbound := 0
  winOld := []
  fab := fabricReset
  time := timeReset
  nv := nvReset
  sm := smReset
  power := powerReset
  test := testReset
  host := hostReset
  log := logReset
  trace := traceReset
  now := snapZero
  linkRetry := []
  ueTimes := []
  free := 0

/-! ### Outcomes -/

/-- Why a step stops: the command's own operands contradict the row it names. A command or event whose
condition does not hold is no stop: nothing happens (`whenDue`, log 5). -/
inductive Fault where
  /-- A row of XOP or CMAINT whose operand block names another function, or an ILLEGAL_INSTR whose
  word is defined. Safe. -/
  | wrongRow
  /-- The tag a command's environment chose is not free in a pool the command may take. Safe. -/
  | badTag
  deriving DecidableEq, Repr

/-- Why a command has no meaning. -/
inductive Refusal where
  /-- The command is not modelled, by its name in the opcode table. Safe. -/
  | notModelled (mnemonic : String)
  deriving DecidableEq, Repr

/-- The outcome of a command. -/
abbrev Res := Host.Outcome State Fault Refusal

end Sys2Proof.Machine
end

