-- ==== Sys2Proof/Machine/Ops.lean ====
section
/-! DEFINITION. The named operations over registers, slots, tags and logs that every meaning uses. -/

namespace Sys2Proof.Machine

/-! ### The variant (Tables 0.1, 0.2) -/

def stackCount : Variant → Nat
  | .og4H1 | .og4H2 => 4 | .og6H2 => 6 | .og8H4 => 8

def ioDies : Variant → Nat
  | .og4H1 => 1 | .og4H2 | .og6H2 => 2 | .og8H4 => 4

/-- R5: 16 channels, Row Merge Units and Turntables per stack. -/
def channels (v : Variant) : Nat := 16 * stackCount v

/-- R5: 8 Kamup ports per I/O die. -/
def ports (v : Variant) : Nat := 8 * ioDies v

/-- R705: installed HBM in bytes. -/
def installed (v : Variant) : Nat := 24 * 2 ^ 30 * stackCount v

/-- R708: the channel of a device physical address. -/
def channelOf (v : Variant) (pa : Nat) : Nat :=
  4 * (pa / 2 ^ 21 % (channels v / 4)) + pa / 256 % 4

/-! ### Guards -/

/-- `t` when the condition holds, the named fault otherwise. -/
def need (b : Bool) (why : Fault) (t : Res) : Res := if b then t else .fault why

/-- `t` when the condition holds; otherwise the command or event does not occur, and the block waits as it is. The spec
gives an event its condition and a waiting unit nothing to do (DESIGN CHOICE, log 5). -/
def whenDue (b : Bool) (s : State) (t : Res) : Res := if b then t else .next s

/-! ### Control registers -/

/-- The stored value of a register element: its reset value until something writes it. -/
def regVal (s : State) (r : RegName) (u i j : Nat) : W64 :=
  (spGet none (regAddr r u i j) s.regs).getD (regReset r u i)

/-- Store a register element. -/
def setReg (s : State) (r : RegName) (u i j : Nat) (v : W64) : State :=
  { s with regs := spPut (regAddr r u i j) (some v) s.regs }

/-- A field of a register element. -/
def regFld (s : State) (r : RegName) (u i j lsb w : Nat) : Nat := fGet (regVal s r u i j) lsb w

/-- One bit of a register element. -/
def regBit (s : State) (r : RegName) (u i j lsb : Nat) : Bool := regFld s r u i j lsb 1 == 1

/-- Replace a field of a register element. -/
def setFld (s : State) (r : RegName) (u i j lsb w x : Nat) : State :=
  setReg s r u i j (fSet (regVal s r u i j) lsb w x)

/-- Add to a 64-bit event counter, which wraps. -/
def bump (s : State) (r : RegName) (u i j n : Nat) : State :=
  setReg s r u i j (regVal s r u i j + BitVec.ofNat 64 n)

/-! ### Time (R178, R538, R545) -/

/-- A snapshot as a time operand: seconds modulo 2^34 above nanoseconds. -/
def timeOperand (t : Snap) : Nat := t.sec % 2 ^ 34 * 2 ^ 30 + t.ns

/-- Global time as a time operand. -/
def nowOp (s : State) : Nat := timeOperand s.now

/-- R178: a well-formed time operand. -/
def timeOk (t : Nat) : Bool := t % 2 ^ 30 < 1000000000

/-- R178: has the main-die copy reached a time operand? -/
def reached (s : State) (t : Nat) : Bool := t ≤ nowOp s

/-! ### Free values -/

/-- The next free 64-bit value. -/
def drawWord (s : State) : W64 × State := (Config.freeWord s.free, { s with free := s.free + 1 })

/-- `n` free bytes. -/
def drawBytes (s : State) (n : Nat) : List Byte × State :=
  ((List.range n).map fun i => Config.freeByte (s.free + i), { s with free := s.free + n })

/-! ### Trace buffer (R725 to R727) -/

/-- Does the trigger configuration fire on an entry of this kind and data? -/
def traceFires (s : State) (kind data : Nat) : Bool :=
  let tk := regFld s .dbgTrig 0 0 0 0 3
  let m := regFld s .dbgTrmatch 0 0 0 0 32
  let k := regFld s .dbgTrmask 0 0 0 0 32
  let hit := (data &&& k) == (m &&& k)
  match tk with
  | 1 => kind == 1 && hit
  | 2 => kind == 2
  | 3 => kind == 3 && hit
  | _ => false

/-- R727: after the trigger, `left` more entries. -/
def traceTrigger (s : State) : State :=
  let t := s.trace
  if t.armed && !t.triggered then
    let post := regFld s .dbgTrcfg 0 0 0 16 12
    { s with trace := { t with triggered := true, left := post, armed := post != 0 } }
  else s

/-- Is an event of this kind from this physical core (if it is a core's) enabled? -/
def traceEnabled (s : State) (kind : Nat) (core : Option Nat) : Bool :=
  regFld s .dbgTrcfg 0 0 0 (kind - 1) 1 == 1 &&
    (match core with
     | some p => regBit s .dbgTrsrc 0 0 0 15 || regFld s .dbgTrsrc 0 0 0 0 8 == p
     | none => true)

/-- R725 to R727: record an event, then test the trigger. -/
def traceEv (s : State) (kind unit : Nat) (core : Option Nat) (data : Nat) : State :=
  let t := s.trace
  if !t.armed then s
  else if !traceEnabled s kind core then
    (if kind == 2 && traceFires s kind data then traceTrigger s else s)
  else
    let e : TraceEnt := ⟨nowOp s, unit, kind, data % 2 ^ 32⟩
    let left := if t.triggered then t.left - 1 else 0
    let t' := { t with ent := spPut t.wptr (some e) t.ent, wptr := (t.wptr + 1) % 4096,
                       left := left, armed := !t.triggered || left != 0 }
    let s' := { s with trace := t' }
    if traceFires s kind data then traceTrigger s' else s'

/-- R727: the trigger kinds 4 (DBG_TRTIME reached) and 5 (a debug halt). -/
def traceHaltTrigger (s : State) : State :=
  if regFld s .dbgTrig 0 0 0 0 3 == 5 then traceTrigger s else s

/-! ### The error and event log (R624 to R630, R742) -/

/-- Record codes (Table 16.7). -/
inductive LogCode where
  | lockedWrite | sbDenied | arrayCe | arrayUe | d2dRetry | internalFatal | conserveBreak
  | rateTally | divergence | checkerFault | coreRemap | replayLost | quotaRefused | unitFenced
  | unitReleased | saltRefused | cmdBusy | wayDisabled | tagLost | mtregBusy | windowClose
  | mergeMismatch | xlBusy | xlDenied | ownerMismatch | rangeRefused | logDenied | hostAbort
  | hostTimeout | priFailed | qcfgRefused | doorbellDenied | doorbellBad | hwSize | hw4Range
  | aerCorrectable | aerNonfatal | aerFatal | linkDegraded | linkDown | linkUp | packetLost
  | linkMismatch | descInvalid | badPacket | timeStep | timeFault | ttDenied | smWatchdog
  | vregFault | thermalThrottle | hbmHot | fwRollback | smDenied
  deriving DecidableEq, Repr

/-- Table 16.7: the code of a record. -/
def logCodeNum : LogCode → Nat
  | .lockedWrite => 0x0001 | .sbDenied => 0x0002 | .rangeRefused => 0x0003 | .logDenied => 0x0004
  | .arrayCe => 0x0010 | .arrayUe => 0x0011 | .d2dRetry => 0x0012 | .internalFatal => 0x0013
  | .conserveBreak => 0x0014 | .rateTally => 0x0015
  | .divergence => 0x0101 | .checkerFault => 0x0102 | .coreRemap => 0x0103 | .replayLost => 0x0104
  | .quotaRefused => 0x0105 | .unitFenced => 0x0106 | .unitReleased => 0x0107
  | .saltRefused => 0x0201 | .cmdBusy => 0x0202 | .wayDisabled => 0x0203 | .tagLost => 0x0204
  | .mtregBusy => 0x0301 | .windowClose => 0x0302 | .mergeMismatch => 0x0303
  | .xlBusy => 0x0401 | .xlDenied => 0x0402 | .ownerMismatch => 0x0403 | .hostAbort => 0x0404
  | .hostTimeout => 0x0405 | .priFailed => 0x0406
  | .qcfgRefused => 0x0501 | .doorbellDenied => 0x0502 | .doorbellBad => 0x0503 | .hwSize => 0x0504
  | .hw4Range => 0x0505 | .aerCorrectable => 0x0506 | .aerNonfatal => 0x0507 | .aerFatal => 0x0508
  | .linkDegraded => 0x0601 | .linkDown => 0x0602 | .linkUp => 0x0603 | .packetLost => 0x0604
  | .linkMismatch => 0x0605 | .descInvalid => 0x0606 | .badPacket => 0x0607
  | .timeStep => 0x0701 | .timeFault => 0x0702 | .ttDenied => 0x0703
  | .smWatchdog => 0x0801 | .vregFault => 0x0802 | .thermalThrottle => 0x0803 | .hbmHot => 0x0804
  | .fwRollback => 0x0805 | .smDenied => 0x0806

/-- Table 16.7: the severity; TAG_LOST and CONSERVE_BREAK are given by their rules. -/
def logSev : LogCode → Nat
  | .arrayCe | .d2dRetry | .aerCorrectable | .linkDegraded => 1
  | .divergence | .checkerFault | .unitFenced | .wayDisabled | .tagLost | .linkDown | .timeFault
  | .smWatchdog | .thermalThrottle | .hbmHot | .fwRollback | .conserveBreak => 2
  | .arrayUe | .replayLost | .mergeMismatch | .ownerMismatch | .hostAbort | .hostTimeout
  | .priFailed | .aerNonfatal | .aerFatal | .packetLost | .linkMismatch | .descInvalid | .badPacket
  | .vregFault => 3
  | .internalFatal => 4
  | _ => 0

/-- UNIT of Table 16.6a: a kind above an index. -/
def unitOf (kind idx : Nat) : Nat := kind * 2048 + idx % 2048

/-- R742, Table 1.3: the plane of the posting block: the fence map for the records about fences and remaps, else the block
of the UNIT kind. -/
def planeOf (code : LogCode) (kind : Nat) : Nat :=
  match code, kind with
  | .unitFenced, _ | .unitReleased, _ | .coreRemap, _ | .sbDenied, _ => 2
  | _, 7 | _, 8 | _, 9 => 1
  | _, 10 | _, 11 => 2
  | _, _ => 0

/-- R626: an undelivered record. -/
def undelivered (r : LogRec) : Bool := !r.toHost && !r.read

/-- The number of the oldest record (list position) of SEV 0 or 1. -/
def oldestLow : List LogRec → Option Nat
  | [] => none
  | r :: rs => if r.sev ≤ 1 then some 0 else (oldestLow rs).map (· + 1)

/-- A record of the holding register enters the central log once there is room. -/
def logRefill (l : LogSt) : LogSt :=
  match l.holding with
  | r :: rs => if l.central.length < 4096 then { l with central := l.central ++ [r], holding := rs } else l
  | [] => l

/-- The flash spill ring holds 1 MiB of records (Table 15.3). -/
def spillAdd (l : LogSt) (r : LogRec) : LogSt :=
  let x := l.spill ++ [r]
  if l.old.length + x.length ≤ 32768 then { l with spill := x }
  else
    match l.old with
    | _ :: rs => { l with spill := x, old := rs, oldSmbus := l.oldSmbus - 1, oldMbox := l.oldMbox - 1 }
    | [] => { l with spill := x.drop 1 }

/-- The oldest undelivered record moves to the flash spill ring. -/
def spillOne (l : LogSt) : LogSt :=
  match l.central.find? undelivered with
  | some r => logRefill (spillAdd { l with central := l.central.erase r } r)
  | none => l

/-- R627: the Stationmaster moves one record while the central log is more than three quarters full. -/
def logSpill (on : Bool) (l : LogSt) : LogSt := if on && 3072 < l.central.length then spillOne l else l

/-- R627: a record enters the central log, replaces the oldest record of SEV 0 or 1, waits in the
holding register, or is dropped; `on` says that the Stationmaster controls the spill ring. The second answer says that it
was dropped. -/
def logEnter (on : Bool) (l : LogSt) (r : LogRec) : LogSt × Bool :=
  if l.central.length < 4096 then (logSpill on { l with central := l.central ++ [r] }, false)
  else
    match oldestLow l.central with
    | some i => (logSpill on { l with central := l.central.eraseIdx i ++ [r] }, false)
    | none =>
      if r.sev ≤ 2 then (l, true)
      else if l.holding.length < 64 then ({ l with holding := l.holding ++ [r] }, false)
      else ({ l with lostHi := true }, true)

/-- Nanoseconds of a time operand, for intervals. -/
def opNs (t : Nat) : Nat := t / 2 ^ 30 * 1000000000 + t % 2 ^ 30

/-- R626: merge a repeated SEV 1 record into the newest undelivered record of its code. -/
def coalesce (r : LogRec) : List LogRec → Option (List LogRec)
  | [] => none
  | x :: xs =>
    match coalesce r xs with
    | some ys => some (x :: ys)
    | none =>
      if x.code == r.code && undelivered x then
        (if x.unit == r.unit && x.addr == r.addr && opNs r.time ≤ opNs x.time + 1000000 then
          some ({ x with count := min 65535 (x.count + 1) } :: xs) else none)
      else none

/-- The Stationmaster works: READY or UPDATING (R565, R599). -/
def smWorks (s : State) : Bool := s.sm.st == 2 || s.sm.st == 3

/-- Post one record with every item given (R624, R742). A fatal record halts the data plane, and every
taken command is ended by the Dispatcher (R630). -/
def postRec (s : State) (code : LogCode) (sev unitKind unitIdx : Nat) (ctx : Option Nat)
    (arg addr : Nat) : State :=
  let r : LogRec :=
    { code := logCodeNum code, sev := sev, plane := planeOf code unitKind, ctx := ctx,
      seq := (s.log.seq + 1) % 2 ^ 32, time := nowOp s, unit := unitOf unitKind unitIdx, count := 1,
      arg := arg % 2 ^ 32, addr := addr % 2 ^ 64, toHost := false, read := false }
  match (if sev == 1 then coalesce r s.log.central else none) with
  | some c => bump { s with log := { s.log with central := c } } .logCoalesced 0 0 0 1
  | none =>
    let (l, lost) := logEnter (smWorks s) { s.log with seq := s.log.seq + 1 } r
    let l := if sev == 4 then { l with fatal := true, dpHalted := true } else l
    let s := { s with log := l }
    let s := if lost then bump s .logLost 0 0 0 1 else s
    traceEv s 3 (unitOf unitKind unitIdx) none (logCodeNum code + 65536 * sev)

/-- Post a record of the severity Table 16.7 gives. -/
def post (s : State) (code : LogCode) (unitKind unitIdx : Nat) (ctx : Option Nat)
    (arg addr : Nat) : State := postRec s code (logSev code) unitKind unitIdx ctx arg addr

/-! ### Fences and hosts (R94, R616 to R619) -/

/-- SB_CFENCE[p].MODE (Table 16.6): 0 none, 1 SEQ, 2 FULL; 3 is taken as FULL. -/
def fenceMode (s : State) (p : Nat) : Nat := min 2 (regFld s .sbCfence 0 p 0 0 2)

/-- The physical core whose sequencer serves logical core `n`; none when it is unmapped, or when the entry names no core. -/
def hostOf (s : State) (n : Nat) : Option Nat :=
  let p := regFld s .sbLmap 0 n 0 0 8
  if regBit s .sbLmap 0 n 0 8 || 160 ≤ p then none else some p

/-- The sequencer of a logical core issues: it is mapped and its host is not fenced. -/
def seqWorks (s : State) (n : Nat) : Bool :=
  match hostOf s n with
  | some p => fenceMode s p == 0
  | none => false

/-- The physical core for register purposes: the host, or the core's own number when unmapped. -/
def physOf (s : State) (n : Nat) : Nat := (hostOf s n).getD n

/-- The logical cores that a physical core serves, as host or guest. -/
def servedBy (s : State) (p : Nat) : List Nat := (List.range 160).filter fun n => hostOf s n == some p

/-- Firmware ready (*Bring-up sequence*): phase 6 or 7, with every rail on. -/
def firmwareReady (s : State) : Bool := (s.power.phase == 6 || s.power.phase == 7) && s.power.rails == .on

/-- R673, Table 18.9: the main die has its reference. -/
def mainClocked (s : State) : Bool := !(s.power.lost.contains (.ser 0))

/-- The control and data planes run: brought up, in no reset, in no test mode, halted by no fatal record (R630, R686,
R698, R729). -/
def planeUp (s : State) : Bool :=
  !s.log.dpHalted && firmwareReady s && !s.power.warm && !s.power.dataPlane && !s.power.drive && mainClocked s

/-- The host reaches the endpoint, whose retry status has ended (R487, R698). -/
def hostHere (s : State) : Bool := s.host.linkUp && firmwareReady s && !s.power.warm

/-- R683, R686: the part serves requests of other devices. -/
def servesFabric (s : State) : Bool :=
  s.power.phase == 7 && s.power.rails == .on && !s.power.warm && !s.power.dataPlane && !s.power.drive

/-! ### Cores and slots -/

def getCore (s : State) (n : Nat) : Core := spGet coreReset n s.cores

def setCore (s : State) (n : Nat) (c : Core) : State := { s with cores := spSet coreReset n c s.cores }

def modCore (s : State) (n : Nat) (f : Core → Core) : State := setCore s n (f (getCore s n))

def coreSlot (c : Core) : SlotId → Slot
  | .bulk => c.bulk
  | .express => c.express

def setCoreSlot (c : Core) (i : SlotId) (x : Slot) : Core :=
  match i with
  | .bulk => { c with bulk := x }
  | .express => { c with express := x }

def getSlot (s : State) (n : Nat) (i : SlotId) : Slot := coreSlot (getCore s n) i

def setSlot (s : State) (n : Nat) (i : SlotId) (x : Slot) : State :=
  setCore s n (setCoreSlot (getCore s n) i x)

def modSlot (s : State) (n : Nat) (i : SlotId) (f : Slot → Slot) : State :=
  setSlot s n i (f (getSlot s n i))

def isExpress : SlotId → Bool
  | .express => true
  | .bulk => false

def slotNum : SlotId → Nat
  | .bulk => 0
  | .express => 1

/-- A slot that holds a program. -/
def slotBusy (x : Slot) : Bool := x.phase != .idle

/-- R120, Table 3.7: first byte of the slot's local store and the byte after its last. -/
def lsRange (c : Core) (i : SlotId) : Nat × Nat :=
  match i with
  | .bulk => (0, if c.expressEn then 0x70000 else 0x80000)
  | .express => (0x70000, 0x80000)

/-- Table 3.7: the slot's command mailbox. -/
def mailbox (i : SlotId) : Nat :=
  match i with
  | .bulk => 0
  | .express => 0x70000

/-- Table 3.7: does the slot own tile handle `t`? -/
def ownsTile (c : Core) (i : SlotId) (t : Nat) : Bool :=
  match i with
  | .bulk => t < (if c.expressEn then 56 else 64)
  | .express => 56 ≤ t && t < 64

/-- Table 3.7: does the slot own accumulator tile `a`? -/
def ownsAcc (c : Core) (i : SlotId) (a : Nat) : Bool :=
  match i with
  | .bulk => a < (if c.expressEn then 12 else 16)
  | .express => 12 ≤ a && a < 16

/-! ### General and floating-point registers (R91, R92) -/

/-- R91: g0 reads as zero. -/
def getG (x : Slot) (r : Reg) : W64 := if r = 0#5 then 0#64 else spGet 0#64 r.toNat x.g

/-- R91: a write to g0 is discarded. -/
def setG (x : Slot) (r : Reg) (v : W64) : Slot :=
  if r = 0#5 then x else { x with g := spSet 0#64 r.toNat v x.g }

def getF (x : Slot) (r : Reg) : W64 := spGet 0#64 r.toNat x.f

def setF (x : Slot) (r : Reg) (v : W64) : Slot := { x with f := spSet 0#64 r.toNat v x.f }

/-! ### Local store and its poison (R262, R263) -/

/-- Is any 16-byte word of a range poisoned? -/
def lsPoisoned (c : Core) (a n : Nat) : Bool :=
  (List.range ((a + n + 15) / 16 - a / 16)).any fun i => spGet false (a / 16 + i) c.lsPoison

/-- R263: the poison bit of word `w` after a write of `a .. a + n - 1`: a full write takes the data's
poison, a partial write only ever sets it. -/
def lsPoisonWord (c : Core) (a n : Nat) (bad : Bool) (w : Nat) : Sp Bool :=
  if a ≤ 16 * w && 16 * w + 16 ≤ a + n then spSet false w bad c.lsPoison
  else if bad then spSet false w true c.lsPoison else c.lsPoison

/-- Poison bookkeeping of a write over the words it touches; `fuel` words are left. -/
def lsMark (a n : Nat) (bad : Bool) : Nat → Nat → Core → Core
  | 0, _, c => c
  | fuel + 1, w, c => lsMark a n bad fuel (w + 1) { c with lsPoison := lsPoisonWord c a n bad w }

/-- Write bytes to local store; `bad` says the data is poisoned. -/
def lsWrite (c : Core) (a : Nat) (bs : List Byte) (bad : Bool) : Core :=
  let n := bs.length
  let c := { c with ls := memWrite c.ls a bs }
  lsMark a n bad ((a + n + 15) / 16 - a / 16) (a / 16) c

def lsRead (c : Core) (a n : Nat) : List Byte := memRead c.ls a n

/-- An unsigned little-endian field of local store. -/
def lsNat (c : Core) (a n : Nat) : Nat := leNat (lsRead c a n)

/-! ### OpTags (R105 to R113, R185) -/

def getTag (s : State) (t : Nat) : Tag := spGet tagReset t s.tags

def setTag (s : State) (t : Nat) (x : Tag) : State := { s with tags := spSet tagReset t x s.tags }

/-- Change the command a tag carries. -/
def modCmd (s : State) (t : Nat) (f : Cmd → Cmd) : State :=
  let x := getTag s t
  setTag s t { x with cmd := x.cmd.map f }

/-- The command in flight under a tag. -/
def tagCmd (s : State) (t : Nat) : Option Cmd :=
  let x := getTag s t
  if x.st = .inFlight then x.cmd else none

/-- The pools of R105. -/
inductive Pool where
  | quota | express | fabric | parcel
  deriving DecidableEq, Repr

/-- R105: the pool of a tag number. -/
def poolOf (t : Nat) : Pool :=
  if t < 3840 then .quota else if t < 3968 then .express else if t < 4032 then .fabric else .parcel

/-- Tags of a pool that satisfy a predicate. -/
def countTags (s : State) (p : Pool) (q : Tag → Bool) : Nat :=
  s.tags.countP fun e => poolOf e.1 == p && q e.2

/-- Tags of a pool that are not free. -/
def heldIn (s : State) (p : Pool) : Nat := countTags s p fun x => x.st != .free

/-- R110, Table 3.5: the size of a pool. -/
def poolSize : Pool → Nat
  | .quota => 3840 | .express => 128 | .fabric => 64 | .parcel => 64

def poolFree (s : State) (p : Pool) : Nat := poolSize p - heldIn s p

/-- Tags of a pool that a logical core holds. -/
def coreHolds (s : State) (p : Pool) (n : Nat) : Nat :=
  countTags s p fun x => x.st != .free && (x.owner.map (·.1) == some n)

/-- R112, R113: the quota of a logical core admits one more tag. -/
def quotaLeft (s : State) (n : Nat) : Nat :=
  min (regFld s .seqTagquota 0 n 0 0 6 - coreHolds s .quota n) (poolFree s .quota)

/-- R105, R109: express-pool tags the core may still take. -/
def expressLeft (s : State) (n : Nat) : Nat :=
  min (16 - coreHolds s .express n) (poolFree s .express)

/-- R105: the pool from which the next tag of a slot comes; none when it must wait (R107). -/
def nextPool (s : State) (n : Nat) (i : SlotId) (parcel : Bool) : Option Pool :=
  if parcel then (if 0 < poolFree s .parcel then some .parcel else none)
  else if isExpress i && 0 < expressLeft s n then some .express
  else if 0 < quotaLeft s n then some .quota
  else none

/-- Table 3.2, TAGFREE: the tags the slot could take now. -/
def tagsFree (s : State) (n : Nat) (i : SlotId) : Nat :=
  quotaLeft s n + (if isExpress i then expressLeft s n else 0)

/-- R109: the slot holds a tag that has not been observed. -/
def slotHolds (s : State) (n : Nat) (i : SlotId) : Bool :=
  s.tags.any fun e => e.2.st != .free && e.2.owner == some (n, i)

/-- R105: a handle: generation above tag number. -/
def handleOf (t : Nat) (gen : BitVec 4) : W64 := BitVec.ofNat 64 (t + 4096 * gen.toNat)

/-- Take a free tag for a command of a slot (R105, R106): the next generation, in flight. -/
def takeTag (s : State) (t : Nat) (owner : Option (Nat × SlotId)) (ctx : Nat) (c : Option Cmd) :
    State :=
  let x := getTag s t
  setTag s t { st := .inFlight, gen := x.gen + 1, owner := owner, ctx := ctx, status := x.status,
               cmd := c, mem := false }

/-- Table 5.6: completion codes. -/
def codeDone : Nat := 0x00
def codeHomeUnreachable : Nat := 0x10
def codeRemoteTimeout : Nat := 0x11
def codeWindowRefused : Nat := 0x12
def codeSegFault : Nat := 0x13
def codeGranuleFailed : Nat := 0x14
def codeDescMismatch : Nat := 0x15
def codeBadDescriptor : Nat := 0x16
def codeJoinMismatch : Nat := 0x17
def codeJoinBroken : Nat := 0x18
def codeConserveFail : Nat := 0x19
def codeAborted : Nat := 0x1A
def codeParcelRefused : Nat := 0x1B
def codeWindowClosed : Nat := 0x1C
def codeCacheRefused : Nat := 0x1D
def codeStaleTag : Nat := 0x20
def codePending : Nat := 0xFF

/-- R185, Table 5.5: a completion status word. -/
def statusWord (code : Nat) (ffl : Flags) (drop poison late pivot : Bool) (detail : Nat) : W64 :=
  BitVec.ofNat 64 (code % 256 + ffl.toNat % 32 * 2 ^ 8 + drop.toNat * 2 ^ 16 + poison.toNat * 2 ^ 17
    + late.toNat * 2 ^ 18 + pivot.toNat * 2 ^ 19
    + (if 0x10 ≤ code then 2 ^ 20 else 0) + detail % 2 ^ 32 * 2 ^ 32)

/-- The status of a command that retires with its own books. -/
def cmdStatus (c : Cmd) : W64 :=
  statusWord c.code c.flags (c.drops != 0) c.poison c.late c.pivot c.detail

/-! ### The transmit queue (R465, R473, R482, R486) -/

/-- Bytes that an output takes of the 96 KiB of posted writes. -/
def postBytes : Post → Nat
  | .write _ _ bs _ _ => bs.length
  | .msix _ => 4
  | _ => 0

/-- The posted writes in the transmit queue, in bytes. -/
def txBytes (s : State) : Nat := ((s.host.out.drop s.host.sent).map postBytes).sum

/-- R473: an output may enter the transmit queue. -/
def txFits (s : State) (p : Post) : Bool := postBytes p == 0 || txBytes s + postBytes p ≤ 98304

/-- Everything the endpoint has put out for the link, oldest first. -/
def posted (s : State) : List Post := s.host.out ++ s.host.unqueued.map (·.2)

/-- R473, R639: an output of a rank goes ahead of what is not yet queued and ranks behind it, and behind the rest: rank 0
the taken records of express queues, 1 the writes of express slots and the entries of express queues, 2 everything else. -/
def enqueue (s : State) (rank : Nat) (p : Post) : State :=
  let first := s.host.unqueued.takeWhile fun e => e.1 ≤ rank
  if first.isEmpty && txFits s p then { s with host := { s.host with out := s.host.out ++ [p] } }
  else { s with host := { s.host with unqueued := first ++ (rank, p) :: s.host.unqueued.drop first.length } }

/-- Outputs that now fit enter the transmit queue, in order. -/
def txFill : Nat → State → State
  | 0, s => s
  | fuel + 1, s =>
    match s.host.unqueued with
    | (_, p) :: ps =>
      if txFits s p then txFill fuel { s with host := { s.host with out := s.host.out ++ [p], unqueued := ps } } else s
    | [] => s

/-- The link takes the oldest output of the transmit queue. -/
def transmit (s : State) : State :=
  if s.host.linkUp && s.host.sent < s.host.out.length then
    txFill s.host.unqueued.length { s with host := { s.host with sent := s.host.sent + 1 } }
  else s

/-- Post to the host with a rank (R639); a function in D3hot holds its output (R486). -/
def emitAt (rank : Nat) (s : State) (fn : Nat) (p : Post) : State :=
  if spGet false fn s.host.d3 then
    { s with host := { s.host with heldPosts := s.host.heldPosts ++ [(fn, rank, p)] } }
  else enqueue s rank p

/-- Post to the host in order. -/
def emit (s : State) (fn : Nat) (p : Post) : State := emitAt 2 s fn p

/-- R639: the rank of what express work posts. -/
def postRank (express : Bool) : Nat := if express then 1 else 2

/-- R465: entries, taken records, fault records, ring entries and tails carry Relaxed Ordering clear; they are untranslated
and carry no PASID. -/
def plainAttr : TlpAttr := ⟨false, none, false⟩

/-- A write to host memory with the attributes of an entry or record. -/
def emitEntry (rank : Nat) (s : State) (fn a : Nat) (bs : List Byte) : State :=
  emitAt rank s fn (.write fn a bs false plainAttr)

/-- The configuration space of a function. -/
def getCfg (s : State) (fn : Nat) : CfgFn := spGet cfgReset fn s.host.cfg

def setCfg (s : State) (fn : Nat) (x : CfgFn) : State := { s with host := { s.host with cfg := spSet cfgReset fn x s.host.cfg } }

/-! ### AER (R481, Table 12.8) -/

/-- The place of an error in Table 12.8, its bit in the AER registers. -/
def aerBit : AerErr → Nat
  | .receiver => 0 | .badTlp => 1 | .badDllp => 2 | .replayTimeout => 3 | .replayRollover => 4
  | .advisoryNonfatal => 5 | .correctedInternal => 6 | .poisonedTlp => 7 | .completionTimeout => 8
  | .completerAbort => 9 | .unexpectedCompletion => 10 | .unsupportedRequest => 11 | .ecrc => 12
  | .dataLinkProtocol => 13 | .flowControlProtocol => 14 | .receiverOverflow => 15 | .malformedTlp => 16
  | .uncorrectableInternal => 17

/-- Table 12.8: the default severity: 0 correctable, 1 non-fatal, 2 fatal. -/
def aerSeverity (e : AerErr) : Nat := if aerBit e < 7 then 0 else if aerBit e < 13 then 1 else 2

/-- The severity as the function's configuration space sets it. -/
def aerSevNow (c : CfgFn) (e : AerErr) : Nat :=
  if aerBit e < 7 then 0 else if c.aerSev.getLsbD (aerBit e) then 2 else 1

/-- The record of a severity (*An AER error posts the record of its severity in Table 12.8*). -/
def aerCode (sev : Nat) : LogCode :=
  match sev with
  | 0 => .aerCorrectable
  | 1 => .aerNonfatal
  | _ => .aerFatal

/-- R481: an error of a function sets its status bit, sends an error message unless it is masked, and posts its record. -/
def aerReport (s : State) (fn : Nat) (e : AerErr) : State :=
  let c := getCfg s fn
  let s := setCfg s fn { c with aerStatus := c.aerStatus ||| (1#18 <<< aerBit e) }
  let s := if c.aerMask.getLsbD (aerBit e) then s else emit s fn (.errMsg fn (aerSevNow c e))
  post s (aerCode (aerSeverity e)) 7 fn none 0 0

/-- R445: complete the ATS Invalidate Requests whose line requests have all finished. -/
def atsSweep (s : State) : State :=
  let busy (e : Nat × Nat × List Nat) : Bool :=
    e.2.2.any fun i => s.host.orphans.contains i || s.reqs.any fun r => r.id == i
  let s' := { s with host := { s.host with atsInv := s.host.atsInv.filter busy } }
  (s.host.atsInv.filter fun e => !busy e).foldl (fun s e => emit s e.1 (.invalidateDone e.1 e.2.1)) s'

/-- A read of host memory whose data has not returned. -/
def awaitsHost (r : LineReq) : Bool :=
  r.kind == .read && r.stage != .ready && match r.target with
    | .host .. => true
    | .dev _ => false

/-- Drop line requests. A host read that has gone out still returns its data, to no one (R445). -/
def dropReqs (s : State) (p : LineReq → Bool) : State :=
  let gone := (s.reqs.filter fun r => p r && awaitsHost r).map (·.id)
  atsSweep { s with reqs := s.reqs.filter fun r => !p r,
                    host := { s.host with orphans := s.host.orphans ++ gone } }

/-- Remove a tag from the queues, tokens and scoreboards of its slot when its command ends. -/
def dropFromSlot (s : State) (t : Nat) (c : Cmd) : State :=
  let st := c.stream
  let f := (st.map fun x => x.fetchTiles.length).getD 0
  let e := (st.map fun x => x.execTiles.length).getD 0
  let s := modSlot s c.core c.slot fun x =>
    { x with fq := x.fq.filter (· != t), xq := x.xq.filter (· != t),
             tokFree := x.tokFree + f + e, tokFetch := x.tokFetch - f, tokExec := x.tokExec - e }
  let s := modCore s c.core fun k =>
    { k with score := spMap [] (fun _ l => l.filter fun o => o.1 != t) k.score }
  dropReqs { s with remotes := s.remotes.filter fun r => r.tag != t } fun r => r.tag == t

/-- R424: a command that reads or writes context memory. -/
def usesMemory (c : Cmd) : Bool :=
  match c.op with
  | .block o =>
    match o with
    | .sload | .sstore | .gpool | .scadd | .mlayer | .solve | .cmaint | .rread | .wwrite => true
    | .barr => c.blk.mg
    | _ => false
  | _ => false

/-- R109: an engine retires a command: the tag is RETIRING and its report reaches the sequencer. A
command logged for replay keeps its status there (R611). -/
def retireWith (s : State) (t : Nat) (w : W64) : State :=
  let x := getTag s t
  match x.cmd with
  | none => s
  | some c =>
    let s := dropFromSlot s t c
    let s := setTag s t { x with st := .retiring, cmd := none, mem := usesMemory c }
    let s := modSlot s c.core c.slot fun k =>
      { k with replay := { k.replay with
                 log := k.replay.log.map fun e => if e.1 == t && e.2.isNone then (t, some w) else e } }
    modCore s c.core fun k => { k with reports := k.reports ++ [(t, w)] }

/-- Retire a command with the books it carries. -/
def retire (s : State) (t : Nat) : State :=
  match (getTag s t).cmd with
  | some c => retireWith s t (cmdStatus c)
  | none => s

/-- Retire a command with a failure code. -/
def fail (s : State) (t code : Nat) : State := retire (modCmd s t fun c => { c with code := code }) t

/-! ### Posted output and interrupts (R465, R478, R479, R486) -/

/-- The function a context is bound to (R406). -/
def fnOf (s : State) (ctx : Nat) : Nat := regFld s .xlCtxbind 0 ctx 0 1 6

/-- The PASID of a context, none for the untranslated space (R406). -/
def pasidOf (s : State) (ctx : Nat) : Option Nat :=
  if regBit s .xlCtxbind 0 ctx 0 7 then some (regFld s .xlCtxbind 0 ctx 0 8 20) else none

/-- R441, R442: what the host requests of a context carry. Data carries Relaxed Ordering when its function enables it: R465 keeps
it clear on entries, records and tails, and the spec names no other case (DESIGN CHOICE, log 46). The rest: requests are translated while ATS is enabled on its function, else untranslated
with the PASID prefix when PASIDEN is 1. A translated request carries no prefix (DEDUCED, log 46). -/
def hostAttr (s : State) (ctx : Nat) (data : Bool) : TlpAttr :=
  let fn := fnOf s ctx
  let ro := data && (getCfg s fn).relaxed
  if spGet false fn s.host.ats then ⟨ro, none, true⟩ else ⟨ro, pasidOf s ctx, false⟩

/-- R404: a context is valid. -/
def ctxValid (s : State) (ctx : Nat) : Bool := regBit s .xlCtxbind 0 ctx 0 0

/-- R478, R479: send a vector; a masked vector sets its pending bit. -/
def sendVector (s : State) (v : Nat) : State :=
  if spGet true v s.host.masked then
    { s with host := { s.host with vecPending := spSet false v true s.host.vecPending } }
  else emit s (v / 32) (.msix v)

def qKey (ctx q : Nat) : Nat := 8 * ctx + q

def getQueue (s : State) (ctx q : Nat) : Queue := spGet queueReset (qKey ctx q) s.host.queues

def setQueue (s : State) (ctx q : Nat) (x : Queue) : State :=
  { s with host := { s.host with queues := spSet queueReset (qKey ctx q) x s.host.queues } }

/-- Entries of a queue pair's rings: 2^LOG2. -/
def qSize (s : State) (ctx q : Nat) : Nat := 2 ^ regFld s .dspQctl 0 ctx q 8 5

/-- R471: entries written and not yet released. -/
def qWritten (s : State) (ctx q : Nat) : Nat :=
  let x := getQueue s ctx q
  (x.cqTail + qSize s ctx q - x.cqHead) % qSize s ctx q

/-- R471: free credits. -/
def qCredits (s : State) (ctx q : Nat) : Nat :=
  qSize s ctx q - 1 - (getQueue s ctx q).out - qWritten s ctx q

/-- R465, Table 12.5: the bytes of a completion entry. -/
def completionBytes (cmdid sqhead code : Nat) (phase late : Bool) (detail detail2 tend : Nat) :
    List Byte :=
  leBytes 4 cmdid ++ leBytes 2 sqhead ++ leBytes 1 code
    ++ leBytes 1 (phase.toNat + 2 * late.toNat)
    ++ leBytes 8 detail ++ leBytes 8 detail2 ++ leBytes 8 tend

/-- DEADLINE of a RUN (bytes 16 to 23 of the command). -/
def cmdDeadline (d : DCmd) : Nat := if d.op == 1 then leNat ((d.bytes.drop 16).take 8) else 0

/-- R646: measure an express RUN from its doorbell to its completion entry. -/
def measureRun (s : State) (d : DCmd) : State :=
  if d.op == 1 && d.express && regBit s .dspXlatcfg 0 0 0 31 then
    let ns := opNs (nowOp s) - opNs d.bell
    let w := max 1 (regFld s .dspXlatcfg 0 0 0 0 16)
    let lim := regFld s .dspXlatcfg 0 0 0 16 8
    let s := bump s .dspXhist 0 (min 15 (ns / w)) 0 1
    let s := if lim != 0 && lim * 1000 < ns then setReg s .dspXover 0 0 0 (regVal s .dspXover 0 0 0 + 1) else s
    let m := min ns (2 ^ 32 - 1)
    if regFld s .dspXmax 0 0 0 0 32 < m then setReg s .dspXmax 0 0 0 (BitVec.ofNat 64 m) else s
  else s

/-- R465, R467, R479: write a taken command's completion entry, and its interrupt if one is due. -/
def completeCmd (s : State) (d : DCmd) (code detail detail2 : Nat) : State :=
  let x := getQueue s d.ctx d.q
  let fn := fnOf s d.ctx
  let late := d.express && cmdDeadline d != 0 && (d.timeUp || cmdDeadline d < nowOp s)
  let base := (regVal s .dspQcqbase 0 d.ctx d.q).toNat
  let bytes := completionBytes d.cmdid (x.taken % 65536) code x.phase late detail detail2 (nowOp s)
  let s := measureRun (emitEntry (postRank d.express) s fn (base + 32 * x.cqTail) bytes) d
  let tail := (x.cqTail + 1) % qSize s d.ctx d.q
  let n := x.unsig + 1
  let irq := regBit s .dspQirq 0 d.ctx d.q 15
  let icount := regFld s .dspQirq 0 d.ctx d.q 16 8
  let due := irq && (d.irq || (icount != 0 && icount ≤ n))
  let s := setQueue s d.ctx d.q
    { x with cqTail := tail, phase := if tail == 0 then !x.phase else x.phase, out := x.out - 1,
             unsig := if due then 0 else n }
  let s := { s with host := { s.host with cmds := s.host.cmds.filter fun e => e.id != d.id } }
  if due then sendVector s (regFld s .dspQirq 0 d.ctx d.q 0 11) else s

/-- RATE_TALLY: a bulk RUN completes on a core of a quadrant. -/
def tallyRun (s : State) (n : Nat) (i : SlotId) : State :=
  if isExpress i then s
  else
    let q := physOf s n / 40
    { s with sm := { s.sm with tally := s.sm.tally.set q (s.sm.tally.getD q 0 + 1) } }

/-- The taken command of a number. -/
def findCmd (s : State) (id : Nat) : Option DCmd := s.host.cmds.find? fun d => d.id == id

/-- Complete a taken command by number, if it is still there. -/
def completeId (s : State) (id code detail detail2 : Nat) : State :=
  match findCmd s id with
  | some d => completeCmd s d code detail detail2
  | none => s

/-! ### Joins and faults (R208, R220) -/

/-- Insert a tag number into an ascending list. -/
def insertTag (x : Nat) : List Nat → List Nat
  | [] => [x]
  | y :: ys => if x ≤ y then x :: y :: ys else y :: insertTag x ys

/-- R109: tags whose reports arrive together are reported in ascending tag number. -/
def ascending (ts : List Nat) : List Nat := ts.foldr insertTag []

/-- Retire every tag of a list with a code. -/
def failAll (s : State) (code : Nat) : List Nat → State
  | [] => s
  | t :: ts => failAll (fail s t code) code ts

/-- R208, R220: a program fault in a context breaks its open instances. -/
def breakJoins (s : State) (ctx : Nat) : State :=
  let ls := s.layers.filter fun l => l.ctx == ctx && !l.complete
  let bs := s.barriers.filter fun b => b.ctx == ctx && !b.closing
  let s := { s with layers := s.layers.filter fun l => !(l.ctx == ctx && !l.complete),
                    barriers := s.barriers.filter fun b => !(b.ctx == ctx && !b.closing) }
  failAll s codeJoinBroken (ascending (ls.flatMap (·.arrivals) ++ bs.flatMap (·.arrivals)))

/-! ### Traps (R117, R738) -/

/-- Trap causes (Table 3.6). -/
inductive Trap where
  | segFault | illegalInstr | illegalOperand | lsAlign | lsRange | swtrap | brk
  deriving DecidableEq, Repr

def trapCode : Trap → Nat
  | .segFault => 2 | .illegalInstr => 3 | .illegalOperand => 4 | .lsAlign => 5 | .lsRange => 6
  | .swtrap => 7 | .brk => 8

/-- R738: SEQ_TRAPCAUSE, SEQ_TRAPPC and SEQ_TRAPVAL take the trap. -/
def recordTrap (s : State) (n : Nat) (i : SlotId) (c : Trap) (pc : Pc) (v : W64) : State :=
  let p := physOf s n
  let s := setReg s .seqTrapcause p 0 0
    (BitVec.ofNat 64 (trapCode c + 256 * slotNum i + 2 ^ 31))
  let s := setReg s .seqTrappc p 0 0 (pc.setWidth 64)
  let s := setReg s .seqTrapval p 0 0 v
  traceEv s 2 (unitOf 1 p) (some p) (trapCode c + 256 * slotNum i)

/-- R117, R119: a program fault stops the slot's program; its command completes when its last tag has
been observed. R208, R220: it breaks the context's open joins. -/
def programFault (s : State) (n : Nat) (i : SlotId) (c : Trap) (v : W64) : State :=
  let x := getSlot s n i
  let s := recordTrap s n i c x.pc v
  let s := setSlot s n i { getSlot s n i with phase := .faulting (trapCode c) x.pc, held := none }
  breakJoins s x.ctx

/-- R222: the slot waits at a TWAIT. -/
def heldTwait (x : Slot) : Bool :=
  match x.held with
  | some ⟨_, .twait _, _⟩ => true
  | _ => false

/-- R719, R721: a halt discards the uncommitted instruction of a slot, which is fetched again on resume; an armed TWAIT stays armed. -/
def haltSlot (x : Slot) : Slot := if heldTwait x then x else { x with held := none }

/-- R719: the sequencer pair of a physical core stops, with every logical core it serves. -/
def haltServed (s : State) (p : Nat) : State :=
  (servedBy s p).foldl (fun s m => modCore s m fun k =>
    { k with halted := true, stepping := none, bulk := haltSlot k.bulk, express := haltSlot k.express }) s

/-- R719: debug halt of a core, with the DBG_STATUS bit that says why. -/
def debugHalt (s : State) (n : Nat) (bit : Option Nat) : State :=
  let s := haltServed s (physOf s n)
  let s := match bit with
    | some b => setFld s .dbgStatus (physOf s n) 0 0 b 1 1
    | none => s
  traceHaltTrigger s

/-- R718: debug mode. -/
def debugMode (s : State) : Bool := regBit s .dbgCtl 0 0 0 0

/-! ### The governor's state (R591, R592) -/

/-- GOV_STATUS.STATE: 0 OFF, 1 RUN, 2 FALLBACK. Until bring-up completes it stays at its reset value. -/
def govState (s : State) : Nat :=
  if s.power.phase != 7 then 2
  else if !s.sm.govOn then 0
  else if regBit s .sbSlvfail 0 0 0 0 || 4 ≤ regFld s .govStatus 0 0 0 4 4 then 2
  else 1

/-- Report the state, and count an entry into FALLBACK. -/
def govRefresh (s : State) : State :=
  let was := regFld s .govStatus 0 0 0 0 2
  let st := govState s
  let s := setFld s .govStatus 0 0 0 0 2 st
  if st = 2 && was != 2 then bump s .govFallbacks 0 0 0 1 else s

end Sys2Proof.Machine
end

