-- ==== Sys2Proof/Machine/Flags.lean ====
section
/-! DEFINITION. The results of the scalar instructions and the flags they raise (spec/04, Tables 4.5
to 4.11, with the flag rules of Table 2.5). -/

namespace Sys2Proof.Machine

/-! ### Integer results (R135, R136) -/

/-- Table 4.5: leading zeros. -/
def clz64 (a : W64) : Nat := if a = 0#64 then 64 else 63 - Nat.log2 a.toNat

/-- Trailing zeros, counted from bit `i` up over `fuel` bits. -/
def ctzFrom (a : W64) : Nat → Nat → Nat
  | 0, i => i
  | fuel + 1, i => if a.getLsbD i then i else ctzFrom a fuel (i + 1)

def ctz64 (a : W64) : Nat := ctzFrom a 64 0

/-- One bits among the first `n`. -/
def popcUpTo (a : W64) : Nat → Nat
  | 0 => 0
  | n + 1 => popcUpTo a n + (a.getLsbD n).toNat

def popc64 (a : W64) : Nat := popcUpTo a 64

def boolWord (b : Bool) : W64 := if b then 1#64 else 0#64

/-- R135, Table 4.5. -/
def intResult (op : IntOp) (a b : W64) : W64 :=
  let sh := b.toNat % 64
  match op with
  | .add => a + b
  | .sub => a - b
  | .and => a &&& b
  | .or => a ||| b
  | .xor => a ^^^ b
  | .andn => a &&& ~~~b
  | .sll => a <<< sh
  | .srl => a >>> sh
  | .sra => a.sshiftRight sh
  | .ror => a.rotateRight sh
  | .slt => boolWord (a.slt b)
  | .sltu => boolWord (a.ult b)
  | .seq => boolWord (a == b)
  | .min => if a.slt b then a else b
  | .max => if a.slt b then b else a
  | .minu => if a.ult b then a else b
  | .maxu => if a.ult b then b else a
  | .mul => a * b
  | .mulh => BitVec.ofInt 64 (a.toInt * b.toInt / 2 ^ 64)
  | .mulhu => BitVec.ofNat 64 (a.toNat * b.toNat / 2 ^ 64)
  | .clz => BitVec.ofNat 64 (clz64 a)
  | .ctz => BitVec.ofNat 64 (ctz64 a)
  | .popc => BitVec.ofNat 64 (popc64 a)

def sext16 (i : BitVec 16) : W64 := i.signExtend 64
def zext16 (i : BitVec 16) : W64 := i.setWidth 64

/-- R136, Table 4.6. -/
def immResult (op : ImmOp) (a : W64) (i : BitVec 16) : W64 :=
  let sh := i.toNat % 64
  match op with
  | .addi => a + sext16 i
  | .andi => a &&& zext16 i
  | .ori => a ||| zext16 i
  | .xori => a ^^^ zext16 i
  | .slti => boolWord (a.slt (sext16 i))
  | .sltiu => boolWord (a.ult (sext16 i))
  | .seqi => boolWord (a == sext16 i)
  | .slli => a <<< sh
  | .srli => a >>> sh
  | .srai => a.sshiftRight sh
  | .rori => a.rotateRight sh

/-- R138: SETH. -/
def sethResult (hw : BitVec 2) (i : BitVec 16) : W64 := zext16 i <<< (16 * hw.toNat)

/-- R138: PUTH. -/
def puthResult (old : W64) (hw : BitVec 2) (i : BitVec 16) : W64 :=
  (old &&& ~~~(0xFFFF#64 <<< (16 * hw.toNat))) ||| sethResult hw i

/-- R140, Table 4.8. -/
def condHolds (c : Cond) (a b : W64) : Bool :=
  match c with
  | .beq => a == b
  | .bne => a != b
  | .blt => a.slt b
  | .bge => !a.slt b
  | .bltu => a.ult b
  | .bgeu => !a.ult b

/-! ### Floating point (R154 to R163) -/

/-- The rounding mode of FRM; 0b11 is never held (R96). -/
def frmMode (frm : BitVec 2) : Rm := (rmOfCode frm.toNat).getD .nearest

/-- Round an exact value to FP32 or FP64 in a register, zero above (R92). -/
def roundReg (double : Bool) (rm : Rm) (sat : Bool) (r : Threshold) (x : Num) : W64 × Flags :=
  let (b, f) := encodeFloat (if double then specFp64 else specFp32) rm sat r x
  (BitVec.ofNat 64 b, f)

/-- The exact value an FP operand names (R92). -/
def regNum (double : Bool) (x : W64) : Num :=
  if double then decodeFloat specFp64 x.toNat else decodeFloat specFp32 (x.toNat % 2 ^ 32)

/-- The operand bits an operation moves: all 64, or the low 32 with zeros above. -/
def regBits (double : Bool) (x : W64) : W64 := if double then x else x &&& 0xFFFFFFFF#64

/-- R155: a rounded arithmetic result, with NV when the operation is invalid. -/
def arith (double : Bool) (rm : Rm) (r : Threshold) (x : Num × Bool) : W64 × Flags :=
  let (b, f) := roundReg double rm false r x.1
  (b, f ||| flagIf x.2 flagNV)

/-- R156: −0 orders below +0. -/
def numLess (a b : Num) : Bool :=
  numLt a b || (numIsZero a && numIsZero b &&
    (match a, b with | .fin s _ _, .fin t _ _ => s && !t | _, _ => false))

/-- R156: FMIN and FMAX return an operand, or the canonical NaN when both are NaN. -/
def minMax (double max : Bool) (a b : W64) : W64 :=
  let x := regNum double a
  let y := regNum double b
  if numIsNan x && numIsNan y then
    BitVec.ofNat 64 (if double then specFp64.nan else specFp32.nan)
  else if numIsNan x then regBits double b
  else if numIsNan y then regBits double a
  else if numLess x y == max then regBits double b else regBits double a

/-- The sign bit of a format in a register. -/
def signMask (double : Bool) : W64 := if double then 0x8000000000000000#64 else 0x80000000#64

/-- R155, Table 4.10: the result and flags of a scalar floating-point operation. -/
def fpResult (op : FpOp) (double : Bool) (rm : Rm) (r : Threshold) (a b : W64) : W64 × Flags :=
  let x := regNum double a
  let y := regNum double b
  let anyNan := numIsNan x || numIsNan y
  match op with
  | .fadd => arith double rm r (numAdd x y)
  | .fsub => arith double rm r (numSub x y)
  | .fmul => arith double rm r (numMul x y)
  | .fmin => (minMax double false a b, 0#8)
  | .fmax => (minMax double true a b, 0#8)
  | .fabs => (regBits double a &&& ~~~signMask double, 0#8)
  | .fneg => (regBits double a ^^^ signMask double, 0#8)
  | .fmov => (regBits double a, 0#8)
  | .feq => (boolWord (numEq x y), 0#8)
  | .flt => (boolWord (numLt x y), flagIf anyNan flagNV)
  | .fle => (boolWord (numLt x y || numEq x y), flagIf anyNan flagNV)
  | .fmvg => (regBits double a, 0#8)
  | .fmvf => (regBits double a, 0#8)

/-- R154, R160: does the operation round by FRM (and so step the LFSR under a stochastic mode)? -/
def fpRounds : FpOp → Bool
  | .fadd | .fsub | .fmul => true
  | _ => false

/-- R159: one rounding of fa × fb + fc. -/
def fmaResult (double : Bool) (rm : Rm) (r : Threshold) (a b c : W64) : W64 × Flags :=
  arith double rm r (numFma (regNum double a) (regNum double b) (regNum double c))

/-- R161: the quotient; a finite nonzero dividend over zero raises OF. -/
def divResult (rm : Rm) (r : Threshold) (a b : W64) : W64 × Flags :=
  let x := regNum true a
  let y := regNum true b
  let (q, f) := arith true rm r (numDiv x y)
  (q, f ||| flagIf (numIsFin x && !numIsZero x && numIsZero y) flagOF)

/-- R162: the square root. -/
def sqrtResult (rm : Rm) (r : Threshold) (a : W64) : W64 × Flags :=
  arith true rm r (numSqrt (regNum true a))

/-! ### Conversions (R164 to R167) -/

/-- R164, R165, R167: FCVTX of an FP64 value into a stand-alone format. -/
def fcvtxResult (t : ElemSpec) (rm : Rm) (sat : Bool) (r : Threshold) (a : W64) : W64 × Flags :=
  let (b, f) := encodeElem t rm sat false r (regNum true a)
  (BitVec.ofNat 64 b, f)

/-- R164, R76: FCVTF, an exact widening to FP64. -/
def fcvtfResult (t : ElemSpec) (a : W64) : W64 × Flags :=
  roundReg true .nearest false 0 (decodeElem t a.toNat)

/-- R166: FCVT.L.D. -/
def fcvtLDResult (rm : Rm) (sat : Bool) (r : Threshold) (a : W64) : W64 × Flags :=
  let (b, f) := encodeIntNum 64 true rm sat false r (regNum true a)
  (BitVec.ofNat 64 b, f)

/-- R164: FCVT.D.L. -/
def fcvtDLResult (rm : Rm) (r : Threshold) (a : W64) : W64 × Flags :=
  roundReg true rm false r (numOfInt a.toInt)

/-- R164: FCVT.S.D. -/
def fcvtSDResult (rm : Rm) (sat : Bool) (r : Threshold) (a : W64) : W64 × Flags :=
  roundReg false rm sat r (regNum true a)

/-- R164: FCVT.D.S, exact. -/
def fcvtDSResult (a : W64) : W64 × Flags := roundReg true .nearest false 0 (regNum false a)

/-! ### Loads and stores (R145, Table 4.9) -/

def loadSize : LoadOp → Nat
  | .ldb | .ldbu => 1 | .ldh | .ldhu => 2 | .ldw | .ldwu | .fldw => 4 | .ldd | .fldd => 8

/-- Table 4.9: the register value of the loaded bytes. -/
def loadValue (op : LoadOp) (n : Nat) : W64 :=
  match op with
  | .ldb => (BitVec.ofNat 8 n).signExtend 64
  | .ldh => (BitVec.ofNat 16 n).signExtend 64
  | .ldw => (BitVec.ofNat 32 n).signExtend 64
  | _ => BitVec.ofNat 64 n

def loadIsFp : LoadOp → Bool
  | .fldw | .fldd => true
  | _ => false

def storeSize : StoreOp → Nat
  | .stb => 1 | .sth => 2 | .stw | .fstw => 4 | .std | .fstd => 8

def storeIsFp : StoreOp → Bool
  | .fstw | .fstd => true
  | _ => false

end Sys2Proof.Machine
end

