-- ==== Sys2Proof/Machine/Operands.lean ====
section
/-! DEFINITION. The operand forms of the Wewald instructions: sources and destinations, local-store
addresses and their checks, operand blocks (Tables 5.3, 5.4) and the descriptors they name. -/

namespace Sys2Proof.Machine

/-! ### Register operands, for the waits of R133 and R163 -/

/-- The f registers an instruction reads. -/
def srcF : Wew → List Reg
  | .fp op _ _ ra rb =>
    match op with
    | .fmvf => []
    | .fabs | .fneg | .fmov | .fmvg => [ra]
    | _ => [ra, rb]
  | .divd _ ra rb => [ra, rb]
  | .sqrtd _ ra => [ra]
  | .fma _ _ ra rb rc => [ra, rb, rc]
  | .fcvtx _ ra _ _ _ | .fcvtLD _ ra _ _ | .fcvtSD _ ra _ _ | .fcvtDS _ ra => [ra]
  | .store .fstw rs _ _ | .store .fstd rs _ _ => [rs]
  | _ => []

/-- The f register an instruction writes. -/
def dstF : Wew → Option Reg
  | .fp op _ rd _ _ =>
    match op with
    | .feq | .flt | .fle | .fmvg => none
    | _ => some rd
  | .divd rd _ _ | .sqrtd rd _ => some rd
  | .fma _ rd _ _ _ => some rd
  | .fcvtf rd _ _ | .fcvtDL rd _ _ | .fcvtSD rd _ _ _ | .fcvtDS rd _ => some rd
  | .load .fldw rd _ _ | .load .fldd rd _ _ => some rd
  | _ => none

/-- A committed coprocessor operation still owes register `r` (R163). -/
def copOwes (x : Slot) (r : Reg) : Bool := x.cop.any fun o => !o.discard && o.rd == r

/-- R163: COP for a source still in flight, DEP for a destination still in flight. -/
def copWait (x : Slot) (w : Wew) : Option Stall :=
  if (srcF w).any (copOwes x) then some .cop
  else match dstF w with
    | some r => if copOwes x r then some .dep else none
    | none => none

/-! ### Local-store addresses (R145, R146) -/

/-- R145: A = ga + sext(IMM16), as a 64-bit value. -/
def lsAddr (ga : W64) (imm : BitVec 16) : W64 := ga + sext16 imm

/-- R146: alignment first, then the slot's range. -/
def lsCheck (c : Core) (i : SlotId) (a size align : Nat) : Option Trap :=
  let (lo, hi) := lsRange c i
  if a % align != 0 then some .lsAlign
  else if a < lo || hi < a + size then some .lsRange
  else none

/-! ### Operand blocks (R175 to R177) -/

/-- Tables 5.3 and 5.4: the fields of the 32 bytes at `a`. -/
def readBlock (c : Core) (a : Nat) : Block :=
  let b0 := lsNat c a 1
  let b1 := lsNat c (a + 1) 1
  let h := lsNat c (a + 2) 2
  { fmtOut := fmtOfCode b0, rm := bitsOf b0 4 2, sat := bitsOf b0 6 1 == 1, fm := bitsOf b0 7 1 == 1,
    fmtIn := fmtOfCode b1, sp := bitsOf b1 4 1 == 1, ex := bitsOf b1 5 1 == 1,
    mg := bitsOf b1 6 1 == 1, init := bitsOf b1 7 1 == 1,
    tile := bitsOf h 0 6, acc := bitsOf h 8 4, accn := bitsOf h 12 4,
    count := lsNat c (a + 4) 4, w1 := lsNat c (a + 8) 8, w2 := lsNat c (a + 16) 8,
    w3 := lsNat c (a + 24) 8 }

/-- Bits 7:6 of bytes 2 and 3 of the header, which must be zero (Table 5.3). -/
def blockZero (c : Core) (a : Nat) : Bool := bitsOf (lsNat c (a + 2) 2) 6 2 == 0

/-- A tile that is not defined, in place of a tile a command does not name. -/
def noTile : Tile := ⟨0, 0, 0, .fp32⟩

/-- R93: the entry of a tile handle that the slot owns and has defined. -/
def tileOf (c : Core) (i : SlotId) (t : Nat) : Option Tile :=
  if ownsTile c i t then spGet none t c.tiles else none

/-- R193: accumulator rows of one vector of `w` elements. -/
def vecRows (w : Nat) : Nat := (w + 31) / 32

/-- R183: the accumulator range ACC to ACC + ACCN lies in the slot's share. -/
def accOk (c : Core) (i : SlotId) (b : Block) : Bool :=
  (List.range (b.accn + 1)).all fun k => ownsAcc c i (b.acc + k)

/-- R193: the index of element `e` of vector `v` of width `w` in the accumulator array. -/
def accIndex (acc w v e : Nat) : Nat :=
  let r := v * vecRows w + e / 32
  (acc + r / 16) * 512 + r % 16 * 32 + e % 32

/-- R193: vectors up to and including `v` fit the range. -/
def accFits (b : Block) (w v : Nat) : Bool := (v + 1) * vecRows w ≤ 16 * (b.accn + 1)

/-- The slot's view of header fields an instruction does not use: each must be zero (R177). -/
structure HeadUse where
  fmtOut : Bool := false
  rm : Bool := false
  sat : Bool := false
  fm : Bool := false
  fmtIn : Bool := false
  sp : Bool := false
  ex : Bool := false
  mg : Bool := false
  init : Bool := false
  tile : Bool := false
  acc : Bool := false
  accn : Bool := false
  count : Bool := false

/-- R177: which header fields each instruction uses. -/
def headUse : BlockOp → HeadUse
  | .accwb => { rm := true, sat := true, init := true, tile := true, acc := true, accn := true }
  | .sload => { rm := true, sat := true, fm := true, fmtIn := true, tile := true, count := true }
  | .sstore => { fmtOut := true, rm := true, sat := true, fm := true, fmtIn := true, tile := true, count := true }
  | .gpool => { fm := true, fmtIn := true, ex := true, init := true, acc := true, accn := true,
                count := true }
  | .xop => { rm := true, sat := true, tile := true, acc := true, accn := true }
  | .cmpr => { fmtOut := true, rm := true, sat := true, tile := true }
  | .scadd => { fm := true, fmtIn := true, tile := true, count := true }
  | .mlayer => { fmtOut := true, rm := true, sat := true, fm := true, fmtIn := true, sp := true,
                 count := true }
  | .solve => { fmtIn := true, count := true }
  | .cmaint => {}
  | .rread | .wwrite => { tile := true, count := true }
  | .barr => { mg := true, count := true }

/-- R177: every unused header field is zero. -/
def headOk (u : HeadUse) (b : Block) : Bool :=
  (u.fmtOut || fmtCode b.fmtOut == 0) && (u.rm || b.rm == 0) && (u.sat || !b.sat) &&
  (u.fm || !b.fm) && (u.fmtIn || fmtCode b.fmtIn == 0) && (u.sp || !b.sp) && (u.ex || !b.ex) &&
  (u.mg || !b.mg) && (u.init || !b.init) && (u.tile || b.tile == 0) && (u.acc || b.acc == 0) &&
  (u.accn || b.accn == 0) && (u.count || b.count == 0)

/-- Bits of a body word at and above `n` are zero (R177, R739). -/
def above (w n : Nat) : Bool := w / 2 ^ n == 0

/-- R177, R739: the bits of the body words that no field of the instruction names are zero. -/
def bodyZero (op : BlockOp) (b : Block) : Bool :=
  match op with
  | .accwb => above b.w1 16 && above b.w2 16 && above b.w3 16
  | .sload | .sstore => above b.w1 19 && above b.w2 16 && b.w3 == 0
  | .gpool => above b.w1 19 && above b.w2 19 && above b.w3 8
  | .xop =>
    bitsOf b.w1 6 2 == 0 && bitsOf b.w1 14 2 == 0 && above b.w1 22 && above b.w2 32 &&
      bitsOf b.w3 8 8 == 0 && above b.w3 32
  | .cmpr => above b.w1 6 && above b.w2 6 && above b.w3 8
  | .scadd => above b.w1 19 && above b.w2 19 && above b.w3 32
  | .mlayer =>
    above b.w1 19 && bitsOf b.w2 6 2 == 0 && bitsOf b.w2 14 2 == 0 && bitsOf b.w2 24 8 == 0 &&
      above b.w2 48 && above b.w3 20
  | .solve => above b.w1 48 && bitsOf b.w2 1 3 == 0 && above b.w2 8 && b.w3 == 0
  | .cmaint =>
    above b.w1 48 && above b.w2 32 && bitsOf b.w3 2 6 == 0 && above b.w3 11 && (bitsOf b.w3 0 2 == 3 || above b.w3 8)
  | .rread | .wwrite =>
    bitsOf b.w1 10 6 == 0 && above b.w1 20 && above b.w2 48 && above b.w3 16
  | .barr => above b.w1 8 && above b.w2 32

end Sys2Proof.Machine
end

