-- ==== Sys2Proof/Machine/Scalar.lean ====
section
/-! DEFINITION. What each scalar instruction does at the commit gate (spec/04), and the outcomes a
commit can have: it commits, traps, or waits with a stall cause (R101, R102). -/

namespace Sys2Proof.Machine

/-- What an instruction at the commit gate comes to. -/
inductive Eff where
  /-- It commits; the state is the one it leaves. -/
  | done (s : State)
  /-- It traps with a cause and a SEQ_TRAPVAL (R117, R738). -/
  | trap (c : Trap) (v : W64)
  /-- BREAK in debug mode: debug halt (R169). -/
  | halt
  /-- It waits at the commit gate (R102). -/
  | hold (why : Stall)
  /-- The tag the environment chose is not a free tag of the pool the command draws from. -/
  | badTag

/-- What the environment decides of a commit where the spec leaves it open: the free tag a command
takes (R105), the younger instructions in flight (R99), a divide on the wrong path (R104). -/
structure Choice where
  tag : Nat := 0
  younger : Nat := 0
  /-- The operand block that a waiting command read at X2 (R176). -/
  blk : Option Block := none
  deriving DecidableEq, Repr

/-- R144: the next sequential address, modulo 2^48. -/
def nextPc (pc : Pc) : Pc := pc + 4#48

/-- Commit with a new slot state and the next sequential PC. -/
def commitSlot (s : State) (n : Nat) (i : SlotId) (x : Slot) : Eff :=
  .done (setSlot s n i { x with pc := nextPc x.pc })

/-- Commit with a result in a g register. -/
def commitG (s : State) (n : Nat) (i : SlotId) (rd : Reg) (v : W64) : Eff :=
  commitSlot s n i (setG (getSlot s n i) rd v)

/-- R155: OR flags into FFLAGS. -/
def orFflags (x : Slot) (f : Flags) : Slot := { x with fflags := x.fflags ||| f }

/-- R160: the threshold of a rounding instruction, and the slot with its LFSR stepped once when the
mode is stochastic. -/
def slotThreshold (x : Slot) (rm : Rm) : Threshold × Slot :=
  match rm with
  | .stochastic => (lfsrThreshold (lfsrStep x.lfsr), { x with lfsr := lfsrStep x.lfsr })
  | _ => (0, x)

/-! ### Integer instructions (R135 to R139) -/

def effInt (op : IntOp) (rd ra rb : Reg) (n : Nat) (i : SlotId) (s : State) : Eff :=
  let x := getSlot s n i
  commitG s n i rd (intResult op (getG x ra) (getG x rb))

def effImm (op : ImmOp) (rd ra : Reg) (imm : BitVec 16) (n : Nat) (i : SlotId) (s : State) : Eff :=
  commitG s n i rd (immResult op (getG (getSlot s n i) ra) imm)

def effSeth (rd : Reg) (hw : BitVec 2) (imm : BitVec 16) (n : Nat) (i : SlotId) (s : State) : Eff :=
  commitG s n i rd (sethResult hw imm)

def effPuth (rd : Reg) (hw : BitVec 2) (imm : BitVec 16) (n : Nat) (i : SlotId) (s : State) : Eff :=
  commitG s n i rd (puthResult (getG (getSlot s n i) rd) hw imm)

/-! ### Branches and jumps (R97 to R100, R140 to R144) -/

/-- R140: the target of a branch. -/
def branchTarget (pc : Pc) (off : BitVec 15) : Pc := pc + (off.signExtend 48 <<< 2)

/-- R141: the target of JAL. -/
def jalTarget (pc : Pc) (off : BitVec 21) : Pc := pc + (off.signExtend 48 <<< 2)

/-- R142: the target of JALR, bits [1:0] cleared, modulo 2^48. -/
def jalrTarget (ga : W64) (imm : BitVec 16) : Pc :=
  ((ga + sext16 imm).setWidth 48 >>> 2) <<< 2

/-- R97: the static prediction. -/
def predictTaken (pc : Pc) (off : BitVec 15) (h : Bool) : Bool :=
  (branchTarget pc off).ult pc != h

/-- R98, R99: squashed younger instructions, at most four, count in SEQ_SQUASHED. -/
def squash (s : State) (n younger : Nat) : State :=
  bump s .seqSquashed (physOf s n) 0 0 (min 4 younger)

/-- R726: a taken branch or jump that commits is a KIND 5 trace event. -/
def traceJump (s : State) (n : Nat) (target : Pc) : State :=
  let p := physOf s n
  traceEv s 5 (unitOf 1 p) (some p) (target.toNat % 2 ^ 32)

def effBranch (c : Cond) (ra rb : Reg) (h : Bool) (off : BitVec 15) (ch : Choice) (n : Nat)
    (i : SlotId) (s : State) : Eff :=
  let x := getSlot s n i
  let taken := condHolds c (getG x ra) (getG x rb)
  let t := branchTarget x.pc off
  let s := setSlot s n i { x with pc := if taken then t else nextPc x.pc }
  let s := if taken == predictTaken x.pc off h then s else squash s n ch.younger
  .done (if taken then traceJump s n t else s)

def effJal (rd : Reg) (off : BitVec 21) (n : Nat) (i : SlotId) (s : State) : Eff :=
  let x := getSlot s n i
  let t := jalTarget x.pc off
  let x' := setG x rd ((nextPc x.pc).setWidth 64)
  .done (traceJump (setSlot s n i { x' with pc := t }) n t)

def effJalr (rd ra : Reg) (imm : BitVec 16) (ch : Choice) (n : Nat) (i : SlotId) (s : State) : Eff :=
  let x := getSlot s n i
  let t := jalrTarget (getG x ra) imm
  let x' := setG x rd ((nextPc x.pc).setWidth 64)
  .done (traceJump (squash (setSlot s n i { x' with pc := t }) n ch.younger) n t)

/-! ### Local-store loads and stores (R145 to R149, R263) -/

def effLoad (op : LoadOp) (rd ra : Reg) (imm : BitVec 16) (n : Nat) (i : SlotId) (s : State) : Eff :=
  let c := getCore s n
  let x := coreSlot c i
  let a := lsAddr (getG x ra) imm
  match lsCheck c i a.toNat (loadSize op) (loadSize op) with
  | some t => .trap t a
  | none =>
    let v := loadValue op (lsNat c a.toNat (loadSize op))
    commitSlot s n i (if loadIsFp op then setF x rd v else setG x rd v)

def effStore (op : StoreOp) (rs ra : Reg) (imm : BitVec 16) (n : Nat) (i : SlotId) (s : State) :
    Eff :=
  let c := getCore s n
  let x := coreSlot c i
  let a := lsAddr (getG x ra) imm
  match lsCheck c i a.toNat (storeSize op) (storeSize op) with
  | some t => .trap t a
  | none =>
    let v := if storeIsFp op then getF x rs else getG x rs
    let s := setCore s n (lsWrite c a.toNat (leBytes (storeSize op) v.toNat) false)
    commitSlot s n i x

/-! ### Special registers (R95, R96, R151 to R153, Table 3.2, Table 4.10a) -/

/-- The value of a special register; none for a number not in Table 3.2. -/
def specialReg (s : State) (n : Nat) (i : SlotId) (sr : Nat) : Option W64 :=
  let x := getSlot s n i
  match sr with
  | 0x00 => some (BitVec.ofNat 64 n)
  | 0x01 => some (BitVec.ofNat 64 x.ctx)
  | 0x02 => some (BitVec.ofNat 64 (slotNum i))
  | 0x03 => some (BitVec.ofNat 64 (mailbox i))
  | 0x04 => some x.cycle
  | 0x05 => some (BitVec.ofNat 64 (s.now.sec % 2 ^ 48))
  | 0x06 => some (BitVec.ofNat 64 (x.snap.ns % 2 ^ 32 * 2 ^ 16 + x.snap.frac % 2 ^ 16))
  | 0x07 => some (x.statsum.setWidth 64)
  | 0x08 => some (x.fflags.setWidth 64)
  | 0x09 => some (x.frm.setWidth 64)
  | 0x0A => some (BitVec.ofNat 64 (tagsFree s n i))
  | _ => none

/-- R153: flags are still owed to FFLAGS. -/
def copPending (x : Slot) : Bool := x.cop.any fun o => !o.discard

def effMfsr (rd : Reg) (sr : BitVec 8) (n : Nat) (i : SlotId) (s : State) : Eff :=
  let x := getSlot s n i
  match specialReg s n i sr.toNat with
  | none => .trap .illegalOperand 0#64
  | some v =>
    if sr.toNat = 0x08 && copPending x then .hold .cop
    else
      let x := if sr.toNat = 0x05 then { x with snap := s.now } else x
      commitSlot s n i (setG x rd v)

def effMtsr (ra : Reg) (sr : BitVec 8) (n : Nat) (i : SlotId) (s : State) : Eff :=
  let x := getSlot s n i
  let v := getG x ra
  match sr.toNat with
  | 0x07 => commitSlot s n i { x with statsum := x.statsum &&& ~~~(v.setWidth 8) }
  | 0x08 =>
    if copPending x then .hold .cop
    else commitSlot s n i { x with fflags := v.setWidth 8 &&& 0x1F#8 }
  | 0x09 =>
    if v.setWidth 2 = 3#2 then .trap .illegalOperand 0#64
    else commitSlot s n i { x with frm := v.setWidth 2 }
  | _ => .trap .illegalOperand 0#64

/-! ### Scalar floating point (R154 to R163) -/

/-- Does the operation write a g register? -/
def fpToG : FpOp → Bool
  | .feq | .flt | .fle | .fmvg => true
  | _ => false

def effFp (op : FpOp) (p : Bool) (rd ra rb : Reg) (n : Nat) (i : SlotId) (s : State) : Eff :=
  let x := getSlot s n i
  let a := if op = .fmvf then getG x ra else getF x ra
  let rm := if fpRounds op then frmMode x.frm else .nearest
  let (r, x) := slotThreshold x rm
  let (v, f) := fpResult op p rm r a (getF x rb)
  let x := orFflags x f
  commitSlot s n i (if fpToG op then setG x rd v else setF x rd v)

def effFma (p : Bool) (rd ra rb rc : Reg) (n : Nat) (i : SlotId) (s : State) : Eff :=
  let x := getSlot s n i
  let rm := frmMode x.frm
  let (r, x) := slotThreshold x rm
  let (v, f) := fmaResult p rm r (getF x ra) (getF x rb) (getF x rc)
  commitSlot s n i (setF (orFflags x f) rd v)

/-- R103: latency of a coprocessor operation, which SEQ_COPBUSY counts. -/
def copCycles (sqrt : Bool) : Nat := if sqrt then 16 else 14

/-- R103, R161, R162: start an operation that commits. -/
def effCop (sqrt : Bool) (rd ra rb : Reg) (n : Nat) (i : SlotId) (s : State) : Eff :=
  let x := getSlot s n i
  let rm := frmMode x.frm
  let (r, x) := slotThreshold x rm
  let (v, f) := if sqrt then sqrtResult rm r (getF x ra) else divResult rm r (getF x ra) (getF x rb)
  let s := bump s .seqCopbusy (physOf s n) 0 0 (copCycles sqrt)
  commitSlot s n i { x with cop := x.cop ++ [⟨rd, sqrt, false, v, f⟩] }

/-- R104: an operation started on a wrong path keeps its pipeline slot, and its result is discarded. -/
def copSquashed (sqrt : Bool) (rd : Reg) (n : Nat) (i : SlotId) (s : State) : State :=
  let s := bump s .seqCopbusy (physOf s n) 0 0 (copCycles sqrt)
  modSlot s n i fun x => { x with cop := x.cop ++ [⟨rd, sqrt, true, 0#64, 0#8⟩] }

/-! ### Conversions (R164 to R167) -/

/-- R165: KIND 0 and 1 take the formats 0x0 to 0xB. -/
def scalarFmt (f : BitVec 4) : Option ElemSpec := elemSpec (fmtOfCode f.toNat)

def effFcvtx (rd ra : Reg) (fmt : BitVec 4) (rm : BitVec 2) (sat : Bool) (n : Nat) (i : SlotId)
    (s : State) : Eff :=
  match scalarFmt fmt, rmOfCode rm.toNat with
  | some t, some m =>
    let (r, x) := slotThreshold (getSlot s n i) m
    let (v, f) := fcvtxResult t m sat r (getF x ra)
    commitSlot s n i (setG (orFflags x f) rd v)
  | _, _ => .trap .illegalOperand 0#64

def effFcvtf (rd ra : Reg) (fmt : BitVec 4) (n : Nat) (i : SlotId) (s : State) : Eff :=
  match scalarFmt fmt with
  | some t =>
    let x := getSlot s n i
    let (v, f) := fcvtfResult t (getG x ra)
    commitSlot s n i (setF (orFflags x f) rd v)
  | none => .trap .illegalOperand 0#64

def effFcvtLD (rd ra : Reg) (rm : BitVec 2) (sat : Bool) (n : Nat) (i : SlotId) (s : State) : Eff :=
  match rmOfCode rm.toNat with
  | some m =>
    let (r, x) := slotThreshold (getSlot s n i) m
    let (v, f) := fcvtLDResult m sat r (getF x ra)
    commitSlot s n i (setG (orFflags x f) rd v)
  | none => .trap .illegalOperand 0#64

def effFcvtDL (rd ra : Reg) (rm : BitVec 2) (n : Nat) (i : SlotId) (s : State) : Eff :=
  match rmOfCode rm.toNat with
  | some m =>
    let (r, x) := slotThreshold (getSlot s n i) m
    let (v, f) := fcvtDLResult m r (getG x ra)
    commitSlot s n i (setF (orFflags x f) rd v)
  | none => .trap .illegalOperand 0#64

def effFcvtSD (rd ra : Reg) (rm : BitVec 2) (sat : Bool) (n : Nat) (i : SlotId) (s : State) : Eff :=
  match rmOfCode rm.toNat with
  | some m =>
    let (r, x) := slotThreshold (getSlot s n i) m
    let (v, f) := fcvtSDResult m sat r (getF x ra)
    commitSlot s n i (setF (orFflags x f) rd v)
  | none => .trap .illegalOperand 0#64

def effFcvtDS (rd ra : Reg) (n : Nat) (i : SlotId) (s : State) : Eff :=
  let x := getSlot s n i
  let (v, f) := fcvtDSResult (getF x ra)
  commitSlot s n i (setF (orFflags x f) rd v)

/-! ### Control (R168 to R171) and waits (R222, R223) -/

def effTrap (imm : BitVec 16) : Eff := .trap .swtrap (imm.setWidth 64)

def effBreak (s : State) : Eff := if debugMode s then .halt else .trap .brk 0#64

/-- R178, R222: TWAIT. -/
def effTwait (ra : Reg) (n : Nat) (i : SlotId) (s : State) : Eff :=
  let x := getSlot s n i
  let t := (getG x ra).toNat
  if !timeOk t then .trap .illegalOperand 0#64
  else if reached s t then commitSlot s n i x
  else .hold .sync

/-- R224: the status of a handle that a slot reads: STALE_TAG when the generation does not match or
another slot took the tag last. -/
def handleStale (s : State) (n : Nat) (i : SlotId) (h : W64) : Bool :=
  let t := getTag s (h.toNat % 4096)
  t.gen.toNat != h.toNat / 4096 % 16 || t.owner != some (n, i)

/-- R223, R224: WAIT. -/
def effWait (rd ra : Reg) (n : Nat) (i : SlotId) (s : State) : Eff :=
  let x := getSlot s n i
  let h := getG x ra
  if handleStale s n i h then commitG s n i rd (statusWord codeStaleTag 0 false false false false 0)
  else
    let t := getTag s (h.toNat % 4096)
    if t.st = .free then commitG s n i rd t.status else .hold .sync

/-- R223, R224: STAT. -/
def effStat (rd ra : Reg) (n : Nat) (i : SlotId) (s : State) : Eff :=
  let x := getSlot s n i
  let h := getG x ra
  if handleStale s n i h then commitG s n i rd (statusWord codeStaleTag 0 false false false false 0)
  else
    let t := getTag s (h.toNat % 4096)
    commitG s n i rd (if t.st = .free then t.status else BitVec.ofNat 64 codePending)

/-- R223: WAITALL. -/
def effWaitall (n : Nat) (i : SlotId) (s : State) : Eff :=
  if slotHolds s n i then .hold .sync else commitSlot s n i (getSlot s n i)

end Sys2Proof.Machine
end

