-- ==== Sys2Proof/Machine/Memory.lean ====
section
/-! DEFINITION. Device memory: HBM with its poison, the ownership check, and the row cache with its
hashes, replacement, misses and write policies (spec/10, R446, R447, R737). -/

namespace Sys2Proof.Machine

/-! ### HBM and poison (R737) -/

/-- A 128-byte line of HBM, with the poison of its eight 16-byte words (one bit per 32-byte unit). -/
def hbmLine (s : State) (l : Nat) : CLine where
  l := l
  dirty := false
  data := memRead s.hbm (128 * l) 128
  poison := (List.range 8).map fun w => spGet false (4 * l + w / 2) s.hbmPoison

/-- How many bytes of 16-byte word `w` an access writes. -/
def wordEn (en : List (Option Byte)) (w : Nat) : Nat := ((en.drop (16 * w)).take 16).countP (·.isSome)

/-- The poison of word `w` after a write (R263): a full write takes the data's, a partial one only sets it. -/
def mergeWordPoison (old new : List Bool) (en : List (Option Byte)) (w : Nat) : Bool :=
  if wordEn en w = 16 then new.getD w false
  else if wordEn en w = 0 then old.getD w false
  else old.getD w false || new.getD w false

/-- Merge written bytes into a line. -/
def mergeLine (c : CLine) (en : List (Option Byte)) (poison : List Bool) : CLine :=
  { c with data := List.zipWith (fun b e => e.getD b) c.data (en ++ List.replicate 128 none),
           poison := (List.range 8).map (mergeWordPoison c.poison poison en) }

/-- R737: poison of the 32-byte unit `u` of a line after a write to memory. -/
def unitPoison (s : State) (l : Nat) (en : List (Option Byte)) (poison : List Bool) (u : Nat) : Bool :=
  let n := wordEn en (2 * u) + wordEn en (2 * u + 1)
  let bad := (wordEn en (2 * u) != 0 && poison.getD (2 * u) false)
    || (wordEn en (2 * u + 1) != 0 && poison.getD (2 * u + 1) false)
  if n = 32 then bad else bad || spGet false (4 * l + u) s.hbmPoison

/-- Write enabled bytes of a line to HBM. -/
def hbmWrite (s : State) (l : Nat) (en : List (Option Byte)) (poison : List Bool) : State :=
  let p := (List.range 4).foldl (fun m u => spSet false (4 * l + u) (unitPoison s l en poison u) m)
    s.hbmPoison
  { s with hbm := memWriteEn s.hbm (128 * l) en, hbmPoison := p }

/-- Write a whole line to HBM. -/
def hbmPut (s : State) (c : CLine) : State := hbmWrite s c.l (c.data.map some) c.poison

/-! ### Ownership (R446, R447, R706) -/

/-- The outcomes of Table 11.9. -/
inductive Own where
  | pass | mismatch | failed
  deriving DecidableEq, Repr

/-- SB_CHFAIL: a failed channel. -/
def channelFailed (s : State) (k : Nat) : Bool := regBit s .sbChfail 0 (k / 32) 0 (k % 32)

/-- R621, R709: granule `g` has a line on a failed channel. -/
def granuleLost (s : State) (g : Nat) : Bool :=
  (List.range 4).any fun i => channelFailed s (4 * (g % (channels s.variant / 4)) + i)

/-- R446, R621: the ownership byte of a device granule; a granule on a failed channel reads MODE 2. -/
def ownByte (s : State) (g : Nat) : Nat :=
  let b := (spGet 0#8 g s.own).toNat
  if granuleLost s g then b % 64 + 128 else b

/-- R447, R706: the check of a request of context `ctx` (none: privileged). -/
def ownCheck (s : State) (ctx : Option Nat) (pa : Nat) : Own :=
  if installed s.variant ≤ pa then .mismatch
  else
    let b := ownByte s (pa / 2 ^ 21)
    match b / 64, ctx with
    | 2, _ => .failed
    | _, none => .pass
    | 1, some c => if c == b % 64 then .pass else .mismatch
    | _, some _ => .mismatch

/-! ### Slices (R372 to R384) -/

/-- R372: the slice of a line number. -/
def sliceOf (l : Nat) : Nat :=
  let f := (l ^^^ (l / 2 ^ 17)) % 2 ^ 32
  f * 0x8B3D5C27 % 2 ^ 32 * 20 / 2 ^ 32

/-- R372: the set of a line number under a salt. -/
def setOf (salt l : Nat) : Nat :=
  l % 2 ^ 13 ^^^ (l / 2 ^ 13 % 2 ^ 13) ^^^ (l / 2 ^ 26 % 2 ^ 7) ^^^ (salt % 2 ^ 13)

def getSlice (s : State) (i : Nat) : Slice := spGet (sliceReset i) i s.slices

def setSlice (s : State) (i : Nat) (x : Slice) : State :=
  { s with slices := spSet (sliceReset i) i x s.slices }

def modSlice (s : State) (i : Nat) (f : Slice → Slice) : State := setSlice s i (f (getSlice s i))

/-- The state of way `w`: 0 OFF, 1 INACTIVE, 2 ACTIVE, 3 CLEANING. -/
def wayState (x : Slice) (w : Nat) : Nat := spGet wayInactive w x.way

def setWay (x : Slice) (w v : Nat) : Slice := { x with way := spSet wayInactive w v x.way }

/-- R376: the cache is enabled while some way of some slice is ACTIVE. -/
def cacheEnabled (s : State) : Bool := s.slices.any fun e => e.2.way.any fun w => w.2 == 2

/-- Key of the line in way `w` and set `x`. -/
def lineKey (w x : Nat) : Nat := w * 8192 + x

def lineAt (c : Slice) (w x : Nat) : Option CLine := spGet none (lineKey w x) c.lines

def putLine (c : Slice) (k : Nat) (v : Option CLine) : Slice := { c with lines := spSet none k v c.lines }

/-- R373, R394: the way that holds line `l`, in an ACTIVE or CLEANING way. -/
def lookupWay (c : Slice) (l : Nat) : Nat → Option (Nat × CLine)
  | 0 => none
  | w + 1 =>
    match lineAt c w (setOf c.salt l) with
    | some x => if x.l = l && 2 ≤ wayState c w then some (w, x) else lookupWay c l w
    | none => lookupWay c l w

def lookup (c : Slice) (l : Nat) : Option (Nat × CLine) := lookupWay c l 16

/-- R381: may a request of class `k` allocate in way `w`? A CMAINT FILL also takes reserved ways. -/
def wayAllowed (s : State) (c : Slice) (k : Nat) (fill : Bool) (w : Nat) : Bool :=
  regBit s .rcClassmask 0 k 0 w && (fill || !regBit s .rcReserve 0 0 0 w) && wayState c w == 2

/-- R383: one step of a replacement LFSR. -/
def rcLfsrStep (v : BitVec 16) : BitVec 16 :=
  let b := v.getLsbD 15 ^^ v.getLsbD 13 ^^ v.getLsbD 12 ^^ v.getLsbD 10
  v <<< 1 ||| (if b then 1#16 else 0#16)

/-- R384: the first allowed way from `r` up, wrapping at 15. -/
def firstFrom (ok : Nat → Bool) (r : Nat) : Nat → Option Nat
  | 0 => none
  | n + 1 => if ok (r % 16) then some (r % 16) else firstFrom ok (r + 1) n

/-- R384: an allocation decision: the way taken, and the slice with its LFSR stepped once. -/
def allocate (s : State) (c : Slice) (k : Nat) (fill : Bool) (l : Nat) : Option Nat × Slice :=
  let v := rcLfsrStep c.lfsr
  let c' := { c with lfsr := v }
  let x := setOf c.salt l
  let held (w : Nat) : Bool := c.misses.any fun m => m.place == some (lineKey w x)
  let free := firstFrom (fun w => wayAllowed s c k fill w && (lineAt c w x).isNone && !held w) 0 16
  match free with
  | some w => (some w, c')
  | none => (firstFrom (wayAllowed s c k fill) (v.toNat % 16) 16, c')

/-- Policies that allocate on a read miss (Table 10.2). -/
def readAllocates (wp : Nat) : Bool := wp != 3

/-! ### Misses (R385 to R388) -/

/-- What a write leaves of a line that is hit, and what it does to memory (Table 10.2; R394 for a CLEANING way). -/
def writeHit (s : State) (c : CLine) (wp : Nat) (cleaning : Bool) (en : List (Option Byte))
    (poison : List Bool) : Option CLine × State :=
  let x := mergeLine c en poison
  if cleaning then (some { x with dirty := false }, hbmPut s x)
  else if wp = 0 then (some { x with dirty := true }, s)
  else if wp = 2 then (none, hbmPut s x)
  else (some x, hbmWrite s c.l en poison)

/-- Serve the waiters of an open miss in order, on the line as filled; `keep` says whether the line is still to be
installed: a write-around write drops it, and a write-back write after it allocates it again (R380, R388). -/
def serveWaiters (s : State) (c : CLine) (keep : Bool) : List Nat → CLine × Bool × State
  | [] => (c, keep, s)
  | i :: is =>
    match s.reqs.find? fun r => r.id == i with
    | none => serveWaiters s c keep is
    | some r =>
      let put (r' : LineReq) (s : State) : State :=
        { s with reqs := s.reqs.map fun q => if q.id == i then r' else q }
      match r.kind with
      | .read | .maint _ =>
        serveWaiters (put { r with stage := .ready, data := c.data.map some, poison := c.poison } s) c keep is
      | .write =>
        let (x, s) := writeHit s c r.wp false r.data r.poison
        let s := put { r with stage := .ready } s
        match x with
        | some x => serveWaiters s x (keep || r.wp == 0) is
        | none => serveWaiters s { mergeLine c r.data r.poison with dirty := false } false is

/-- Write the line a way still holds, if it is dirty and is not the line about to be installed. -/
def displace (s : State) (c : Slice) (k l : Nat) : State :=
  match spGet none k c.lines with
  | some x => if x.dirty && x.l != l then hbmPut s x else s
  | none => s

/-- Replace the open miss of a line. -/
def putMiss (s : State) (i : Nat) (m : Miss) : State :=
  modSlice s i fun x => { x with misses := x.misses.map fun q => if q.l == m.l then m else q }

/-- R386 step 4: install a miss whose data has arrived and whose victim has been accepted. -/
def installMiss (s : State) (i : Nat) (m : Miss) : State :=
  match m.fill, m.victim with
  | some c, none =>
    let s := modSlice s i fun x => { x with misses := x.misses.filter fun q => q.l != m.l }
    let x := getSlice s i
    match m.place with
    | some k =>
      if m.keep && 2 ≤ wayState x (k / 8192) then
        setSlice (displace s x k c.l) i (putLine x k (some c))
      else if m.keep && c.dirty then hbmPut s c else s
    | none => s
  | _, _ => putMiss s i m

/-- The line of an open miss with its data serves the requests that wait on it. -/
def serveMiss (s : State) (c : CLine) (m : Miss) : Miss × State :=
  let (c, keep, s) := serveWaiters s c m.keep m.waiters
  ({ m with fill := some c, keep := keep, waiters := [] }, s)

/-- The fill data of a miss arrives, and its requests are served in order (R388). -/
def arriveFill (s : State) (m : Miss) : Miss × State :=
  match m.fill with
  | some _ => (m, s)
  | none => serveMiss s (hbmLine s m.l) m

/-- The memory controller accepts a dirty victim. -/
def acceptVictim (s : State) (m : Miss) : State × Miss :=
  match m.victim with
  | some v => (hbmPut s v, { m with victim := none })
  | none => (s, m)

/-- Bring an open miss to its end at once. -/
def finishMiss (s : State) (i : Nat) (m : Miss) : State :=
  let (s, m) := acceptVictim s m
  let (m, s) := arriveFill s m
  installMiss s i m

/-- R387, R388: before an access that this model performs whole, end the open misses of its line and of the
line's victims. -/
def settleList (i l : Nat) : List Miss → State → State
  | [], s => s
  | m :: ms, s =>
    settleList i l ms
      (if m.l == l || (m.victim.map (·.l)) == some l then finishMiss s i m else s)

def settle (s : State) (i l : Nat) : State := settleList i l (getSlice s i).misses s

/-- R385: every miss entry of the slice is in use. -/
def missesFull (c : Slice) : Bool := 256 ≤ c.misses.length

/-- R385: a miss of an access that this model performs whole waits until an entry is free: the oldest miss ends first. -/
def awaitEntry (s : State) (i : Nat) : State :=
  match (getSlice s i).misses with
  | m :: _ => if missesFull (getSlice s i) then finishMiss s i m else s
  | [] => s

/-- Count a hit or a miss of class `k`. -/
def countLookup (s : State) (i k : Nat) (hit : Bool) : State :=
  bump s (if hit then .rcHits else .rcMisses) i k 0 1

/-! ### Accesses performed whole (all requesters but the fetch engines) -/

/-- Who makes an access: its context (none: privileged), class and write policy. -/
structure MemWho where
  ctx : Option Nat
  cls : Nat
  wp : Nat
  deriving DecidableEq, Repr

/-- R447: the record of a mismatch. -/
def mismatchRecord (s : State) (a : MemWho) (pa : Nat) : State :=
  if cacheEnabled s then post s .ownerMismatch 4 (sliceOf (pa / 128)) a.ctx a.cls pa
  else post s .ownerMismatch 5 (channelOf s.variant pa) a.ctx a.cls pa

/-- A line that a failed check returns: poisoned, its bytes open. -/
def poisonLine (s : State) (l : Nat) : CLine × State :=
  let (d, s) := drawBytes s 128
  (⟨l, false, d, List.replicate 8 true⟩, s)

/-- Read a line that has passed its check, through the cache when it is enabled. -/
def cacheRead (s : State) (a : MemWho) (l : Nat) : CLine × State :=
  if !cacheEnabled s then (hbmLine s l, s)
  else
    let i := sliceOf l
    let s := settle s i l
    let c := getSlice s i
    match lookup c l with
    | some (_, x) => (x, countLookup s i a.cls true)
    | none =>
      let s := countLookup (awaitEntry s i) i a.cls false
      if !readAllocates a.wp then (hbmLine s l, s)
      else
        let (w, c) := allocate s (getSlice s i) a.cls false l
        match w with
        | none => (hbmLine s l, setSlice s i c)
        | some w =>
          let k := lineKey w (setOf c.salt l)
          let dirty := ((spGet none k c.lines).map (·.dirty)).getD false
          let s := if dirty then bump s .rcEvictdirty i 0 0 1 else s
          let s := displace s c k l
          let x := hbmLine s l
          (x, setSlice s i (putLine c k (some x)))

/-- Write a line that has passed its check. -/
def cacheWrite (s : State) (a : MemWho) (l : Nat) (en : List (Option Byte)) (poison : List Bool) : State :=
  if !cacheEnabled s then hbmWrite s l en poison
  else
    let i := sliceOf l
    let s := settle s i l
    let c := getSlice s i
    match lookup c l with
    | some (w, x) =>
      let s := countLookup s i a.cls true
      let (y, s) := writeHit s x a.wp (wayState c w == 3) en poison
      setSlice s i (putLine (getSlice s i) (lineKey w (setOf c.salt l)) y)
    | none =>
      let s := countLookup (awaitEntry s i) i a.cls false
      if a.wp != 0 then hbmWrite s l en poison
      else
        let (w, c) := allocate s (getSlice s i) a.cls false l
        match w with
        | none => hbmWrite (setSlice s i c) l en poison
        | some w =>
          let k := lineKey w (setOf c.salt l)
          let dirty := ((spGet none k c.lines).map (·.dirty)).getD false
          let s := if dirty then bump s .rcEvictdirty i 0 0 1 else s
          let s := displace s c k l
          let x := { mergeLine (hbmLine s l) en poison with dirty := true }
          setSlice s i (putLine c k (some x))

/-- What a read of a range brings: bytes, whether any is poisoned, and what the checks found. -/
structure MemRead where
  bytes : List Byte
  poison : Bool
  mismatch : Bool
  failed : Bool
  deriving DecidableEq, Repr

/-- Read one line with its ownership check (R378, R447). -/
def memLine (s : State) (a : MemWho) (l : Nat) : CLine × Own × State :=
  match ownCheck s a.ctx (128 * l) with
  | .pass => let (c, s) := cacheRead s a l; (c, .pass, s)
  | .mismatch => let (c, s) := poisonLine (mismatchRecord s a (128 * l)) l; (c, .mismatch, s)
  | .failed => let (c, s) := poisonLine s l; (c, .failed, s)

/-- Bytes `lo` to `hi - 1` of a line, and whether a word of them is poisoned. -/
def linePart (c : CLine) (lo hi : Nat) : List Byte × Bool :=
  ((c.data.drop lo).take (hi - lo),
   (List.range 8).any fun w => lo < 16 * w + 16 && 16 * w < hi && c.poison.getD w false)

/-- Read bytes `[pa, pa + n)`, line by line; `fuel` lines at most. -/
def memFetch (a : MemWho) (pa e : Nat) : Nat → Nat → MemRead → State → MemRead × State
  | 0, _, r, s => (r, s)
  | fuel + 1, l, r, s =>
    let (c, o, s) := memLine s a l
    let (bs, p) := linePart c (pa - 128 * l) (min 128 (e - 128 * l))
    memFetch a pa e fuel (l + 1)
      ⟨r.bytes ++ bs, r.poison || p, r.mismatch || o == .mismatch, r.failed || o == .failed⟩ s

/-- Read `n` bytes of device memory. -/
def devRead (s : State) (a : MemWho) (pa n : Nat) : MemRead × State :=
  memFetch a pa (pa + n) ((pa + n + 127) / 128 - pa / 128) (pa / 128) ⟨[], false, false, false⟩ s

/-- The byte enables of bytes at offset `o` within line `l` of a write at `pa`. -/
def lineEn (pa : Nat) (bs : List (Option Byte)) (l : Nat) : List (Option Byte) :=
  (List.range 128).map fun i =>
    let x := 128 * l + i
    if pa ≤ x then (bs.getD (x - pa) none) else none

/-- Poison of each word of a line, from that of each 16 bytes of the data, which may lie askew of the words. -/
def linePoison (pa : Nat) (bad : List Bool) (l : Nat) : List Bool :=
  (List.range 8).map fun w =>
    let x := 128 * l + 16 * w
    (pa ≤ x && bad.getD ((x - pa) / 16) false) || (pa ≤ x + 15 && bad.getD ((x + 15 - pa) / 16) false)

/-- Write one line with its ownership check. -/
def memLineWrite (s : State) (a : MemWho) (l : Nat) (en : List (Option Byte)) (poison : List Bool) :
    Own × State :=
  match ownCheck s a.ctx (128 * l) with
  | .pass => (.pass, cacheWrite s a l en poison)
  | .mismatch => (.mismatch, mismatchRecord s a (128 * l))
  | .failed => (.failed, s)

def memStore (a : MemWho) (pa : Nat) (bs : List (Option Byte)) (bad : List Bool) :
    Nat → Nat → Bool × Bool → State → (Bool × Bool) × State
  | 0, _, r, s => (r, s)
  | fuel + 1, l, r, s =>
    let (o, s) := memLineWrite s a l (lineEn pa bs l) (linePoison pa bad l)
    memStore a pa bs bad fuel (l + 1) (r.1 || o == .mismatch, r.2 || o == .failed) s

/-- Write bytes of device memory; `bad` is the poison of each 16-byte word of the data. The answer says
whether some line mismatched and whether some line lies on a failed channel. -/
def devWrite (s : State) (a : MemWho) (pa : Nat) (bs : List Byte) (bad : List Bool) : (Bool × Bool) × State :=
  memStore a pa (bs.map some) bad ((pa + bs.length + 127) / 128 - pa / 128) (pa / 128) (false, false) s

/-- The privileged accesses of the Dispatcher, the Points processor and HW4 (Table 10.4). -/
def privAcc : MemWho := ⟨none, 5, 3⟩

/-- Read a structure privileged, as a number or bytes. -/
def privRead (s : State) (pa n : Nat) : List Byte × State :=
  let (r, s) := devRead s privAcc pa n
  (r.bytes, s)

def privWrite (s : State) (pa : Nat) (bs : List Byte) : State := (devWrite s privAcc pa bs []).2

end Sys2Proof.Machine
end

