-- ==== Sys2Proof/Machine/Xlate.lean ====
section
/-! DEFINITION. Address translation as every unit uses it: segment entries, lookasides, granule entries,
host targets, fault and hot-granule records and the fault ring (spec/11). -/

namespace Sys2Proof.Machine

/-! ### Segment entries (R409, R411) -/

/-- Table 11.1: the four words of an entry. -/
def segOfWords (idx w0 w1 w2 w3 : Nat) : Seg where
  idx := idx
  r := w0.testBit 1
  w := w0.testBit 2
  x := w0.testBit 3
  wp := bitsOf w0 4 2
  host := w0.testBit 6
  mig := w0.testBit 7
  vbase := bitsOf w0 16 32 * 2 ^ 16
  len := bitsOf w1 0 32 * 2 ^ 16
  tbase := bitsOf w2 16 48 * 2 ^ 16
  gtbase := bitsOf w3 4 36 * 16

/-- Words 0 to 3 of a 32-byte entry. -/
def words4 (bs : List Byte) : Nat × Nat × Nat × Nat :=
  (leNat (bs.take 8), leNat ((bs.drop 8).take 8), leNat ((bs.drop 16).take 8), leNat ((bs.drop 24).take 8))

/-- The entry held in 32 bytes, when its V bit is set. -/
def segOfBytes (idx : Nat) (bs : List Byte) : Option Seg :=
  let (w0, w1, w2, w3) := words4 bs
  if w0.testBit 0 then some (segOfWords idx w0 w1 w2 w3) else none

/-- R411. -/
def segHas (g : Seg) (va : Nat) : Bool := g.vbase ≤ va && va < g.vbase + g.len

/-- R418: address of entry `i` of context `ctx` in the device segment table. -/
def segAddr (s : State) (ctx i : Nat) : Nat := regFld s .xlSegtbase 0 0 0 15 25 * 2 ^ 15 + 512 * ctx + 32 * i

/-- The Points processor reads one entry of the device segment table. -/
def segRead (s : State) (ctx i : Nat) : Option Seg × State :=
  let (bs, s) := privRead s (segAddr s ctx i) 32
  (segOfBytes i bs, s)

/-- The valid segments of a context in ascending number, from entry `i` on. -/
def segTable (ctx : Nat) : Nat → Nat → State → List Seg × State
  | 0, _, s => ([], s)
  | n + 1, i, s =>
    let (g, s) := segRead s ctx i
    let (gs, s) := segTable ctx n (i + 1) s
    (g.toList ++ gs, s)

/-! ### Lookasides (R413 to R415) -/

/-- First and one-past-last place of a share. -/
abbrev Share := Nat × Nat

/-- R413: the places that serve a slot of a core. -/
def coreShare (c : Core) (i : SlotId) : Share :=
  match i with
  | .bulk => (0, if c.expressEn then 12 else 16)
  | .express => if c.expressEn then (12, 16) else (0, 0)

/-- The segment that a share holds for an address of a context. -/
def lookFind (k : Lookaside) (h : Share) (ctx va : Nat) : Option Seg :=
  (List.range (h.2 - h.1)).findSome? fun p =>
    match spGet none (h.1 + p) k.ent with
    | some (c, g) => if c = ctx && segHas g va then some g else none
    | none => none

/-- R415: the place the next installed entry takes. -/
def lookPlace (k : Lookaside) (h : Share) : Nat × Lookaside :=
  match (List.range (h.2 - h.1)).find? fun p => (spGet none (h.1 + p) k.ent).isNone with
  | some p => (h.1 + p, k)
  | none =>
    let n := spGet 0 h.1 k.last % (h.2 - h.1)
    (h.1 + n, { k with last := spSet 0 h.1 ((n + 1) % (h.2 - h.1)) k.last })

def lookInstall (k : Lookaside) (h : Share) (ctx : Nat) (g : Seg) : Lookaside :=
  if h.2 ≤ h.1 then k
  else
    let (p, k) := lookPlace k h
    { k with ent := spSet none p (some (ctx, g)) k.ent }

/-- Invalidate the entries a predicate selects. -/
def lookDrop (k : Lookaside) (p : Nat → Seg → Bool) : Lookaside :=
  { k with ent := k.ent.filter fun e =>
      match e.2 with
      | some (c, g) => !p c g
      | none => false }

/-- Invalidate selected entries of every lookaside of the part. -/
def dropLooks (s : State) (p : Nat → Seg → Bool) : State :=
  { s with cores := spMap coreReset (fun _ c => { c with look := lookDrop c.look p }) s.cores,
           looks := spMap lookReset (fun _ k => lookDrop k p) s.looks }

/-! ### Granule entries (R428, R429, R438, R440) -/

/-- Table 11.6. -/
def granOfBytes (bs : List Byte) : Gran :=
  let w := leNat (bs.take 8)
  { state := if bitsOf w 0 2 = 3 then 0 else bitsOf w 0 2, hotp := w.testBit 2, count := bitsOf w 16 16,
    host := leNat ((bs.drop 8).take 8) / 2 ^ 21 * 2 ^ 21 }

def granBytes (g : Gran) : List Byte :=
  leBytes 8 (g.state + 4 * g.hotp.toNat + g.count * 2 ^ 16) ++ leBytes 8 (if g.state = 2 then g.host else 0)

/-- The entry is of this granule. -/
def granIs (ctx seg k : Nat) (e : GranTr) : Bool := e.ctx == ctx && e.seg == seg && e.k == k

/-- The granule entry that the device translation cache holds. -/
def dtcFind (s : State) (ctx seg k : Nat) : Option Gran := (s.dtcG.find? (granIs ctx seg k)).map (·.g)

def dtcPut (s : State) (ctx seg k : Nat) (g : Gran) : State :=
  { s with dtcG := s.dtcG.map fun e => if granIs ctx seg k e then { e with g := g } else e }

/-- Read a granule entry from its table. -/
def granRead (s : State) (gtbase k : Nat) : Gran × State :=
  let (bs, s) := privRead s (gtbase + 16 * k) 16
  (granOfBytes bs, s)

def granWrite (s : State) (gtbase k : Nat) (g : Gran) : State := privWrite s (gtbase + 16 * k) (granBytes g)

/-- R438: a cached entry that leaves the cache first writes COUNT and HOTP back to the table it came from. -/
def granWriteBack (s : State) (e : GranTr) : State :=
  let (t, s) := granRead s e.gtbase e.k
  granWrite s e.gtbase e.k { t with hotp := e.g.hotp, count := e.g.count }

/-- Write back the entries of a list. -/
def granWriteBacks (s : State) : List GranTr → State
  | [] => s
  | e :: es => granWriteBacks (granWriteBack s e) es

/-- Write back and drop the granule entries a predicate selects. -/
def dtcDrop (s : State) (p : GranTr → Bool) : State :=
  let s := granWriteBacks s (s.dtcG.filter p)
  { s with dtcG := s.dtcG.filter fun e => !p e }

/-! ### Sets of the device translation cache (R440) -/

def granSet (e : GranTr) : BitVec 10 := Config.dtcGranuleSet e.ctx e.seg e.k

/-- The page number of a host translation, which tags it. -/
def hostSet (h : HostTr) : BitVec 10 := Config.dtcHostSet h.fn h.pasid (h.va / 4096)

/-- The fills of the entries that a set holds. -/
def setFills (s : State) (x : BitVec 10) : List Nat :=
  ((s.dtcG.filter fun e => granSet e == x).map (·.fill)) ++ ((s.dtcH.filter fun h => hostSet h == x).map (·.fill))

/-- The least number of a list. -/
def leastOf : List Nat → Nat
  | [] => 0
  | x :: xs => xs.foldl min x

/-- R440: a full set gives up the entry filled longest ago, which is its rotating order (DEDUCED, log 23). -/
def dtcRoom (s : State) (x : BitVec 10) : State :=
  let l := setFills s x
  if l.length < 8 then s
  else
    let n := leastOf l
    let s := dtcDrop s fun e => e.fill == n
    { s with dtcH := s.dtcH.filter fun h => h.fill != n }

/-! ### Fault and hot-granule records (R431 to R437) -/

/-- Table 11.7. -/
def faultBytes (r : FaultRec) : List Byte :=
  [BitVec.ofNat 8 r.typ, BitVec.ofNat 8 r.ctx, BitVec.ofNat 8 r.seg,
   BitVec.ofNat 8 (r.express.toNat + 2 * r.flowed.toNat)] ++ leBytes 4 r.granule ++ leBytes 8 r.va
    ++ leBytes 4 (min r.count (2 ^ 32 - 1)) ++ leBytes 4 0 ++ leBytes 8 r.time

/-- R435: the fault ring's size and base. -/
def frSize (s : State) : Nat := 2 ^ regFld s .xlFrcfg 0 0 0 0 5
def frBase (s : State) : Nat := regFld s .xlFrbase 0 0 0 12 52 * 2 ^ 12

/-- Entries of the fault ring that the part may write now. -/
def frRoom (s : State) : Nat :=
  if frBase s = 0 then 0
  else
    let n := frSize s
    n - 1 - (regFld s .xlFrtail 0 0 0 0 16 + n - regFld s .xlFrhead 0 0 0 0 16 % n) % n

/-- Write records to consecutive ring entries. -/
def frPut (s : State) : List FaultRec → State
  | [] => s
  | r :: rs =>
    let t := regFld s .xlFrtail 0 0 0 0 16
    let s := emitEntry 2 s 0 (frBase s + 32 * t) (faultBytes r)
    frPut (setFld s .xlFrtail 0 0 0 0 16 ((t + 1) % frSize s)) rs

/-- R434, R435: write as much as fits of the oldest held batch, then of the next; `fuel` batches. A VECTOR above 31 sends no
interrupt (R478). -/
def frFlush : Nat → State → State
  | 0, s => s
  | fuel + 1, s =>
    match s.batchHeld with
    | [] => s
    | b :: bs =>
      let n := min (frRoom s) b.length
      if n = 0 then s
      else
        let s := frPut s (b.take n)
        let v := regFld s .xlFrcfg 0 0 0 16 11
        let s := if v ≤ 31 then sendVector s v else s
        let rest := b.drop n
        if rest.isEmpty then frFlush fuel { s with batchHeld := bs }
        else { s with batchHeld := rest :: bs }

def frService (s : State) : State := frFlush s.batchHeld.length s

/-- R434: close the open batch. -/
def closeBatch (s : State) : State :=
  if s.batchOpen.isEmpty then s
  else frService { s with batchHeld := s.batchHeld ++ [s.batchOpen], batchOpen := [] }

/-- Enter a record in the open batch, closing it when it is full or express. -/
def addRecord (s : State) (r : FaultRec) : State :=
  let s := { s with batchOpen := s.batchOpen ++ [r] }
  if r.express || 64 ≤ s.batchOpen.length then closeBatch s else s

/-- An absent-granule record of this granule. -/
def recordOf (ctx seg k : Nat) (r : FaultRec) : Bool :=
  (r.typ == 1 || r.typ == 2) && r.ctx == ctx && r.seg == seg && r.granule == k

/-- R431: merge an access into the record of its granule in the open batch. -/
def mergeRecord (s : State) (ctx seg k : Nat) (express waits : Bool) : State :=
  let upd (r : FaultRec) : FaultRec :=
    if recordOf ctx seg k r then
      { r with count := min (r.count + 1) (2 ^ 32 - 1), express := r.express || express,
               flowed := r.flowed && !waits }
    else r
  let s' := { s with batchOpen := s.batchOpen.map upd }
  if express && s.batchOpen.any (recordOf ctx seg k) then closeBatch s' else s'

/-- The table of pending faults, which XL_PENDING counts. -/
def setPending (s : State) (p : List Pend) : State := { s with pend := p }

/-- R431: an access to an absent granule. The table has room: `faultRoom`. -/
def faultRecord (s : State) (ctx seg k va : Nat) (write express waits : Bool) : State :=
  if (s.pend.any fun p => p == ⟨ctx, seg, k⟩) then mergeRecord s ctx seg k express waits
  else
    let s := setPending s (s.pend ++ [⟨ctx, seg, k⟩])
    addRecord s ⟨if write then 2 else 1, ctx, seg, express, !waits, k, va, 1, nowOp s⟩

/-- R431: the pending table has room for this granule. -/
def faultRoom (s : State) (ctx seg k : Nat) : Bool :=
  s.pend.length < 4096 || s.pend.any fun p => p == ⟨ctx, seg, k⟩

/-- R435: post a hot-granule record, unless two batches are already held. -/
def hotRecord (s : State) (ctx seg k va : Nat) : State :=
  if 2 ≤ s.batchHeld.length then bump s .xlHotlost 0 0 0 1
  else addRecord s ⟨3, ctx, seg, false, false, k, va, 1, nowOp s⟩

/-- R436, R437: count one line request to a HOST granule. -/
def countHost (s : State) (ctx seg k va : Nat) : State :=
  let n := (s.hostSeq + 1) % 64
  let s := { s with hostSeq := n }
  if n != 0 then s
  else
    match dtcFind s ctx seg k with
    | none => s
    | some g =>
      let c := min 65535 (g.count + 1)
      if regFld s .xlHotthr 0 0 0 0 16 ≤ c && !g.hotp then
        hotRecord (dtcPut s ctx seg k { g with count := c, hotp := true }) ctx seg k va
      else dtcPut s ctx seg k { g with count := c }

/-! ### Targets (R411, R412, R429) -/

/-- What an access needs of its segment. -/
inductive Need where
  | read | write | fetch
  deriving DecidableEq, Repr

def segGrants (g : Seg) : Need → Bool
  | .read => g.r
  | .write => g.w
  | .fetch => g.x

/-- Where an address leads. -/
inductive Xl where
  /-- Device physical address and write policy. -/
  | dev (pa wp : Nat)
  /-- Host I/O virtual address; for a granule in state HOST its segment and number. -/
  | host (iova : Nat) (gran : Option (Nat × Nat))
  /-- Outside every segment, or against its permissions (Table 11.2). -/
  | fault
  /-- The granule entry is not in the device translation cache. -/
  | dtcMiss (seg k : Nat)
  /-- A miss waits at the Points processor. -/
  | miss
  /-- The granule is absent. -/
  | absent (seg k : Nat)
  deriving DecidableEq, Repr

/-- R411, R429: the target of an address in a segment. -/
def segTarget (s : State) (g : Seg) (ctx va : Nat) (n : Need) : Xl :=
  if !segGrants g n then .fault
  else
    let o := va - g.vbase
    if g.mig then
      let k := o / 2 ^ 21
      match dtcFind s ctx g.idx k with
      | none => .dtcMiss g.idx k
      | some e =>
        if e.state = 1 then .dev (g.tbase + o) g.wp
        else if e.state = 2 then .host (e.host + o % 2 ^ 21) (some (g.idx, k))
        else .absent g.idx k
    else if g.host then .host (g.tbase + o) none
    else .dev (g.tbase + o) g.wp

/-- R440: fill a granule entry into the device translation cache, unless it holds it. -/
def dtcFill (s : State) (ctx : Nat) (g : Seg) (k : Nat) : State :=
  if (dtcFind s ctx g.idx k).isSome then s
  else
    let s := dtcRoom s (Config.dtcGranuleSet ctx g.idx k)
    let (e, s) := granRead s g.gtbase k
    { s with dtcG := s.dtcG ++ [⟨ctx, g.idx, k, g.gtbase, e, s.dtcFills⟩], dtcFills := s.dtcFills + 1 }

/-- R440: hold a host translation. -/
def hostFill (s : State) (fn : Nat) (pasid : Option Nat) (va size pa : Nat) (r w : Bool) : State :=
  let h : HostTr := ⟨fn, pasid, va, size, pa, r, w, s.dtcFills⟩
  let s := { s with dtcH := s.dtcH.filter fun x => !(x.fn == fn && x.pasid == pasid && x.va == va) }
  let s := dtcRoom s (hostSet h)
  { s with dtcH := s.dtcH ++ [h], dtcFills := s.dtcFills + 1 }

/-! ### Misses of units that serve whole accesses (R415 to R417) -/

/-- A miss of a requester is at the Points processor. -/
def missWaits (s : State) (who : PxWho) : Bool := s.px.any fun m => m.who == who

/-- R415, R416: a miss waits at the Points processor. -/
def askMiss (s : State) (m : PxMiss) : State :=
  if missWaits s m.who then s
  else
    let s := if m.dtc then bump s .xlDtcmiss 0 0 0 1 else s
    { s with px := s.px ++ [m] }

/-- R417: the requester's miss found no segment. -/
def noSegment (s : State) (who : PxWho) (ctx va : Nat) : Bool :=
  s.pxNone.any fun m => m.who == who && m.ctx == ctx && m.va == va

/-! ### Units that translate whole accesses: solver lanes and weight injectors (R413, R415) -/

/-- The lookaside of Solver Cluster `k` (0 to 3) or weight injector `k - 4`. -/
def getLook (s : State) (k : Nat) : Lookaside := spGet lookReset k s.looks
def setLook (s : State) (k : Nat) (x : Lookaside) : State := { s with looks := spSet lookReset k x s.looks }

/-- Translate one address for a requester of a unit; `.miss` says that the miss waits at the Points processor. -/
def unitXlate (s : State) (who : PxWho) (k ctx va : Nat) (n : Need) (express : Bool) : Xl × State :=
  match lookFind (getLook s k) (0, 16) ctx va with
  | none =>
    if noSegment s who ctx va then (.fault, { s with pxNone := s.pxNone.filter fun m => m.who != who })
    else (.miss, askMiss s ⟨who, ctx, va, express, false⟩)
  | some g =>
    match segTarget s g ctx va n with
    | .dtcMiss _ _ => (.miss, askMiss s ⟨who, ctx, va, express, true⟩)
    | x => (x, s)

end Sys2Proof.Machine
end

