-- ==== Sys2Proof/Machine/Engine.lean ====
section
/-! DEFINITION. What each engine instruction does at the commit gate (spec/05): its checks, what it claims,
its OpTag and handle, and its arrival at the unit that performs it. -/

namespace Sys2Proof.Machine

/-! ### Claims and stalls (R181, R182) -/

/-- What a command holds besides its OpTag: queue entries and scoreboard entries. -/
structure Claim where
  fq : Bool := false
  xq : Bool := false
  parcel : Bool := false
  score : List (Nat × ScoreKind) := []
  deriving DecidableEq, Repr

/-- What the checks of R176 leave to issue: captured tiles, claims, reserved LFSR steps. -/
structure Plan where
  tile : Tile := noTile
  ta : Tile := noTile
  tb : Tile := noTile
  tc : Tile := noTile
  claim : Claim := {}
  steps : Nat := 0
  deriving DecidableEq, Repr

/-- Pending operations of an accumulator tile. -/
def scoreOf (c : Core) (a : Nat) : List (Nat × ScoreKind) := spGet [] a c.score

/-- R116: every named accumulator tile has room for the operations claimed on it. -/
def scoreRoom (c : Core) (l : List (Nat × ScoreKind)) : Bool :=
  l.all fun e => (scoreOf c e.1).length + l.countP (fun x => x.1 == e.1) ≤ 8

/-- R181: the first missing resource in the order TAG, FQ, XQ, SCORE. -/
def stallOf (s : State) (n : Nat) (i : SlotId) (q : Claim) : Option Stall :=
  let c := getCore s n
  let x := coreSlot c i
  if (nextPool s n i q.parcel).isNone then some .tag
  else if q.fq && 8 ≤ x.fq.length then some .fq
  else if q.xq && 16 ≤ x.xq.length then some .xq
  else if !scoreRoom c q.score then some .score
  else none

/-- R105: the tag is free and of the pool the command draws from. -/
def tagFits (s : State) (n : Nat) (i : SlotId) (parcel : Bool) (t : Nat) : Bool :=
  (getTag s t).st == .free && nextPool s n i parcel == some (poolOf t) && t < 4096

/-- The command as captured at CM (R176). -/
def capture (s : State) (n : Nat) (i : SlotId) (op : EngOp) (b : Block) (p : Plan) (ga gb addr : Nat) :
    Cmd :=
  let x := getSlot s n i
  { op := op, core := n, slot := i, ctx := x.ctx, blk := b, tile := p.tile, ta := p.ta, tb := p.tb,
    tc := p.tc, ga := ga, gb := gb, addr := addr, lfsr := x.lfsr,
    ldev := regFld s .dspLdev 0 x.ctx 0 0 10, seq := s.seq, ord := x.replay.cmds, ready := false,
    table := none, stream := none, bags := [], partials := [], remoteQ := [], outbox := [],
    waiting := 0, unit := 0, doneN := 0, flags := 0, drops := 0, poison := false, late := false,
    pivot := false, code := 0, detail := 0,
    replay := match x.replaying with
      | some r => 0 < r.scadds
      | none => false }

/-- The commands whose status a replay record logs (R611). -/
def replayLogged : EngOp → Bool
  | .block .barr | .block .mlayer | .psend | .precv => true
  | _ => false

/-- R611, R614: the replay books of one more command. -/
def replayBooks (x : Slot) (op : EngOp) (t : Nat) : Slot :=
  let r := x.replay
  let logged := replayLogged op
  let r := { r with cmds := r.cmds + 1,
                    scadds := if op = .block .scadd then r.scadds + 1 else r.scadds,
                    spent := r.spent || (logged && 32 ≤ r.log.length),
                    log := if logged && r.log.length < 32 then r.log ++ [(t, none)] else r.log }
  { x with replay := r,
           replaying := x.replaying.map fun y =>
             { y with scadds := if op = .block .scadd then y.scadds - 1 else y.scadds } }

/-- Take the tag, the queue entries, the scoreboard entries and the LFSR steps, write the handle, and send
the word (R105, R180, R181, R184, R726). -/
def claimAll (s : State) (n : Nat) (i : SlotId) (rd : Reg) (w : Wew) (c : Cmd) (p : Plan) (t : Nat) :
    State :=
  let s := takeTag s t (some (n, i)) c.ctx (some c)
  let s := { s with seq := s.seq + 1 }
  let s := modCore s n fun k =>
    { k with score := p.claim.score.foldl (fun m e => spSet [] e.1 (spGet [] e.1 m ++ [(t, e.2)]) m)
               k.score }
  let s := modSlot s n i fun x =>
    let x := setG x rd (handleOf t (getTag s t).gen)
    let x := replayBooks x c.op t
    { x with pc := nextPc x.pc, lfsr := lfsrSkip p.steps x.lfsr,
             fq := if p.claim.fq then x.fq ++ [t] else x.fq,
             xq := if p.claim.xq then x.xq ++ [t] else x.xq }
  traceEv s 1 (unitOf 1 (physOf s n)) (some (physOf s n)) (encodeWew w).toNat

/-! ### Barriers (R219, R220) -/

/-- R219: the delay of an instance whose last arrival comes after its time operand. -/
def barrDelay (s : State) (b : Barrier) : Barrier :=
  if b.arrivals.length = b.count && b.time != 0 && b.time < nowOp s then
    { b with delay := opNs (nowOp s) - opNs b.time }
  else b

/-- A BARR arrives at its instance. -/
def barrArrive (s : State) (t : Nat) (c : Cmd) : State :=
  let b := c.blk
  let id := b.w1 % 256
  match s.barriers.find? fun x => x.ctx == c.ctx && x.id == id && !x.closing with
  | none =>
    { s with barriers := s.barriers ++ [barrDelay s ⟨c.ctx, id, b.count, b.w3, b.mg, b.w2, [t], false, 0, false⟩] }
  | some x =>
    if x.count = b.count && x.time = b.w3 && x.mg == b.mg && x.step = b.w2 && x.arrivals.length < x.count then
      { s with barriers := s.barriers.map fun y => if y = x then barrDelay s { y with arrivals := y.arrivals ++ [t] } else y }
    else fail s t codeJoinMismatch

/-! ### Matrix layers (R208) -/

/-- The bytes of a block list other than its stream-state block: header and entries. -/
def listBytes (c : Core) (a : Nat) : List Byte :=
  lsRead c a 32 ++ lsRead c (a + 64) (16 * (lsNat c a 4 % 2048))

/-- A slot's marker, or its end, takes it out of the holds. -/
def dropWait (w : Nat × SlotId) (hs : List MuHold) : List MuHold :=
  (hs.map fun h => { h with waits := h.waits.filter (· != w) }).filter fun h => !h.waits.isEmpty

/-- R258: a slot that goes on to another layer, or whose program is over, sends no further marker for the layers before (DESIGN CHOICE,
log 21). One on its way still counts. -/
def releaseHolds (s : State) (n : Nat) (i : SlotId) : State :=
  let m := spGet muReset (n / 8) s.mus
  if m.sent.contains (n, i) then s
  else { s with mus := spSet muReset (n / 8) { m with holds := dropWait (n, i) m.holds } s.mus }

/-- An MLAYER arrives at its instance. -/
def layerArrive (s : State) (t : Nat) (c : Cmd) : State :=
  let s := releaseHolds s c.core c.slot
  let b := c.blk
  let id := bitsOf b.w2 32 16
  let bytes := listBytes (getCore s c.core) b.w1
  let cm := bitsOf b.w2 22 2
  let close (y : Layer) : Layer :=
    if y.arrivals.length = y.count then { y with complete := true, seq := c.seq } else y
  match s.layers.find? fun x => x.ctx == c.ctx && x.id == id && !x.complete with
  | none =>
    { s with layers := s.layers ++ [close
        { ctx := c.ctx, id := id, list := bytes, mask := b.w3, fmtIn := b.fmtIn, fmtOut := b.fmtOut,
          sp := b.sp, cm := cm, count := b.count, express := isExpress c.slot, fm := b.fm, k := c.ta.n,
          m := c.tile.n, arrivals := [t], who := [(c.core, c.slot)], complete := false, seq := c.seq,
          started := false, rows := [], sent := 0, stations := [], halted := none,
          halts := 0, xlate := false }] }
  | some x =>
    if x.list = bytes && x.mask = b.w3 && x.fmtIn = b.fmtIn && x.fmtOut = b.fmtOut && x.sp == b.sp
        && x.cm = cm && x.count = b.count && x.k = c.ta.n && x.m = c.tile.n then
      { s with layers := s.layers.map fun y =>
          if y = x then close { y with arrivals := y.arrivals ++ [t], who := y.who ++ [(c.core, c.slot)] } else y }
    else fail s t codeJoinMismatch

/-- R190: the XQ commands of the slot that committed before this command have made their last write. -/
def directReady (s : State) (c : Cmd) : Bool :=
  (getSlot s c.core c.slot).xq.all fun t => ((tagCmd s t).map fun d => decide (c.seq < d.seq)).getD true

/-- Insert a command in commit order. -/
def insertCmd (x : Nat × Cmd) : List (Nat × Cmd) → List (Nat × Cmd)
  | [] => [x]
  | y :: ys => if x.2.seq ≤ y.2.seq then x :: y :: ys else y :: insertCmd x ys

/-- The MLAYERs in flight that have not joined an instance, in commit order. -/
def unjoined (s : State) : List (Nat × Cmd) :=
  s.tags.foldl (fun l e =>
    match e.2.cmd with
    | some c => if e.2.st == .inFlight && c.op == .block .mlayer && !c.ready then insertCmd (e.1, c) l else l
    | none => l) []

/-- R190, R208: each of them whose block list can be read joins, unless an earlier one of its LAYER still waits. -/
def joinEach : List (Nat × Cmd) → List (Nat × Nat) → State → State
  | [], _, s => s
  | (t, c) :: l, wait, s =>
    let id := (c.ctx, bitsOf c.blk.w2 32 16)
    if wait.contains id || !directReady s c then joinEach l (id :: wait) s
    else joinEach l wait (layerArrive (modCmd s t fun c => { c with ready := true }) t c)

def joinLayers (s : State) : State := joinEach (unjoined s) [] s

/-! ### Parcels into local store (R218) -/

/-- The PRECVs of a slot that wait, in commit order. -/
def waitingPrecv (s : State) (n : Nat) (i : SlotId) : Option Nat :=
  let l := s.tags.filter fun e =>
    e.2.st == .inFlight && e.2.owner == some (n, i) && (e.2.cmd.map (·.op)) == some .precv
  (l.foldl (fun a e =>
    let q := (e.2.cmd.map (·.seq)).getD 0
    match a with
    | some (_, q') => if q < q' then some (e.1, q) else a
    | none => some (e.1, q)) (none : Option (Nat × Nat))).map (·.1)

/-- R218: DETAIL of a PRECV. -/
def parcelDetail (p : Parcel) : Nat :=
  (p.bytes.length - 1) % 64 + p.srcCore % 256 * 2 ^ 8 + p.srcDev % 1024 * 2 ^ 16
    + p.fromHost.toNat * 2 ^ 26

/-- Write bytes with a poison bit for each byte, in pieces that stay inside one 16-byte word (R262). -/
def lsWritePieces : Nat → Nat → List Byte → List Bool → Core → Core
  | 0, _, _, _, c => c
  | fuel + 1, a, bs, ps, c =>
    if bs.isEmpty then c
    else
      let n := 16 - a % 16
      lsWritePieces fuel (a + n) (bs.drop n) (ps.drop n) (lsWrite c a (bs.take n) ((ps.take n).any id))

def lsPut (c : Core) (a : Nat) (bs : List Byte) (ps : List Bool) : Core :=
  lsWritePieces ((bs.length + 31) / 16) a bs ps c

/-- The poison of each byte of 16-byte words. -/
def poisonBytes (ps : List Bool) : List Bool := ps.flatMap fun b => List.replicate 16 b

/-- R218: the oldest parcel goes to the oldest waiting PRECV. -/
def serveInbox (s : State) (n : Nat) (i : SlotId) : State :=
  match (getSlot s n i).inbox, waitingPrecv s n i with
  | p :: ps, some t =>
    match tagCmd s t with
    | some c =>
      let s := modSlot s n i fun x => { x with inbox := ps }
      let s := modCore s n fun k => lsPut k c.addr (padTo 64 p.bytes) (poisonBytes p.poison)
      retire (modCmd s t fun c => { c with detail := parcelDetail p, poison := c.poison || p.poison.any id }) t
    | none => s
  | _, _ => s

/-! ### Requests to other devices (R214, R449, R524) -/

/-- The device's own ID. -/
def selfId (s : State) : Nat := regFld s .jnSelf 0 0 0 0 10

/-- The fabric key of a context (R449). -/
def fabKey (s : State) (ctx : Nat) : Nat := regFld s .xlCtxbind 0 ctx 0 32 16

/-- A request packet of a command under tag `t` (Table 13.7). -/
def requestPacket (s : State) (t : Nat) (c : Cmd) (op dst : Nat) : Packet :=
  { op := op, x := isExpress c.slot, dst := dst, src := selfId s, ctx := c.ctx,
    handle := (handleOf t (getTag s t).gen).toNat, core := c.core, slot := slotNum c.slot,
    key := fabKey s c.ctx }

/-- Hand a request to the Junction and remember that its answer is awaited (R526, R532). -/
def sendRequest (s : State) (t : Nat) (c : Cmd) (p : Packet) (bag shard piece pos : Nat) : State :=
  let r : Remote := ⟨t, p.handle, p.op, p.dst, c.core, c.slot, c.ctx, bag, shard, piece, pos, false⟩
  let s := { s with inject := s.inject ++ [p], remotes := s.remotes ++ [r] }
  modCmd s t fun c => { c with waiting := c.waiting + 1 }

/-! ### Limits (R235, R236, R526) -/

def reqReads (r : LineReq) : Bool := r.kind != .write

/-- Line reads of a core in flight: its own, and its remote requests (R526). -/
def readsOf (s : State) (n : Nat) (p : SlotId → Bool) : Nat :=
  s.reqs.countP (fun r => r.core == n && p r.slot && reqReads r)
    + s.remotes.countP (fun r => r.core == n && p r.slot && r.op != 5)

def writesOf (s : State) (n : Nat) (p : SlotId → Bool) : Nat :=
  s.reqs.countP fun r => r.core == n && p r.slot && r.kind == .write

/-- R235: one more line read may go. -/
def readRoom (s : State) (n : Nat) (i : SlotId) : Bool :=
  readsOf s n (fun _ => true) < 128
    && (isExpress i || !(getCore s n).expressEn || readsOf s n (fun j => !isExpress j) < 96)

/-- R236: one more line write may go. -/
def writeRoom (s : State) (n : Nat) (i : SlotId) : Bool :=
  writesOf s n (fun _ => true) < 64
    && (isExpress i || !(getCore s n).expressEn || writesOf s n (fun j => !isExpress j) < 48)

/-- RREAD and WWRITE leave for their target. The data of a WWRITE is read as it leaves (R190). -/
def windowRequest (s : State) (t : Nat) (c : Cmd) (write : Bool) : State :=
  let b := c.blk
  let p := requestPacket s t c (if write then 2 else 1) (b.w1 % 1024)
  let p := { p with args := { window := bitsOf b.w1 16 4, offset := b.w2, count := b.count } }
  sendRequest (modCmd s t fun c => { c with ready := true }) t c p 0 0 0 0

/-- R235, R526: the request leaves at once when the core has a line read for it; otherwise LINE_REQUEST_ISSUE sends it. -/
def windowStart (s : State) (t : Nat) (c : Cmd) (write : Bool) : State :=
  if readRoom s c.core c.slot then windowRequest s t c write else s

/-- An RREAD or WWRITE that has not left. -/
def windowWaits (c : Cmd) : Bool := (c.op == .block .rread || c.op == .block .wwrite) && !c.ready

/-! ### Arrival of a command at its unit -/

/-- R216: PSEND's destination. -/
def psendHost (c : Cmd) : Bool := c.gb.testBit 63
def psendDev (c : Cmd) : Nat := c.gb % 1024
def psendCore (c : Cmd) : Nat := bitsOf c.gb 10 8
def psendSlot (c : Cmd) : Nat := bitsOf c.gb 18 1

/-- R250: a parcel to another device leaves as a fabric parcel; its bytes are read as it leaves (R190). -/
def parcelLeaves (s : State) (t : Nat) (c : Cmd) : State :=
  if psendHost c || psendDev c == selfId s then s
  else
    let p := requestPacket s t c 5 (psendDev c)
    sendRequest s t c { p with args := { core := psendCore c, slot := psendSlot c } } 0 0 0 0

/-- What a command does the moment it leaves the core. -/
def arrive (s : State) (t : Nat) (c : Cmd) : State :=
  match c.op with
  | .block .barr => barrArrive s t c
  | .block .mlayer => joinLayers s
  | .block .solve => { s with solveNet := s.solveNet ++ [(t, none)] }
  | .block .rread => windowStart s t c false
  | .block .wwrite => windowStart s t c true
  | .precv => serveInbox s c.core c.slot
  | .psend => parcelLeaves s t c
  | _ => s

/-- R614, Table 16.2: what a replayed command finds: a logged status, or a halted stream to adopt. -/
def replayed (x : Slot) (op : EngOp) : Option W64 × Option Nat :=
  match x.replaying with
  | none => (none, none)
  | some r =>
    ((if replayLogged op then r.statuses.head? else none),
     (r.adopt.find? fun e => e.1 == x.replay.cmds).map (·.2))

/-- Hand the next logged status out. -/
def popStatus (x : Slot) : Slot :=
  { x with replaying := x.replaying.map fun r => { r with statuses := r.statuses.drop 1 } }

/-- R181: issue a command, or wait. -/
def issue (op : EngOp) (b : Block) (p : Plan) (rd : Reg) (ga gb addr : Nat) (w : Wew) (ch : Choice)
    (n : Nat) (i : SlotId) (s : State) : Eff :=
  let x := getSlot s n i
  match replayed x op with
  | (_, some t) =>
    let x := setG (replayBooks x op t) rd (handleOf t (getTag s t).gen)
    .done (setSlot s n i { x with pc := nextPc x.pc, lfsr := lfsrSkip p.steps x.lfsr })
  | (st, none) =>
    match stallOf s n i p.claim with
    | some why => .hold why
    | none =>
      if !tagFits s n i p.claim.parcel ch.tag then .badTag
      else
        let c := capture s n i op b p ga gb addr
        let s := claimAll s n i rd w c p ch.tag
        match st with
        | some v => .done (retireWith (modSlot s n i popStatus) ch.tag v)
        | none => .done (arrive s ch.tag c)

/-! ### The checks of each instruction (R175 to R177 and its own statements) -/

/-- Steps reserved under RM = 0b10 (R184). -/
def reserve (b : Block) (n : Nat) : Nat := if b.rm = 2 then n else 0

/-- Entries on every accumulator tile of the block's range, in ascending order (R182). -/
def accClaim (b : Block) (k : List ScoreKind) : List (Nat × ScoreKind) :=
  (List.range (b.accn + 1)).flatMap fun j => k.map fun x => (b.acc + j, x)

def planAccwb (c : Core) (i : SlotId) (b : Block) : Option Plan := do
  let t ← tileOf c i b.tile
  guard (accOk c i b && b.w2 != 0 && b.w3 + b.w2 ≤ t.rows && accFits b t.n (b.w1 + b.w2 - 1))
  return { tile := t, steps := reserve b (b.w2 * t.n),
           claim := { xq := true, score := accClaim b (if b.init then [.read, .write] else [.read]) } }

/-- R198, R199: SLOAD, and SSTORE, whose rows are written in FMT_OUT (`f`). R199 tests FMT_IN for both. -/
def planStream (c : Core) (i : SlotId) (b : Block) (f : Fmt) : Option Plan := do
  let t ← tileOf c i b.tile
  guard (1 ≤ b.count && b.count ≤ 4096 && b.w2 + b.count ≤ t.rows && rowOk b.fmtIn t.n && rowOk f t.n)
  return { tile := t, steps := reserve b (b.count * t.n), claim := { fq := true, xq := true } }

/-- R282: the weighted modes take floating-point and block-scaled formats only. -/
def fmtWeighted : Fmt → Bool
  | .fp32 | .fp64 | .fp16 | .bf16 | .f8a | .f8b | .bs8 | .bs4 => true
  | _ => false

def planGpool (c : Core) (i : SlotId) (b : Block) : Option Plan := do
  guard (1 ≤ b.count && b.count ≤ 4096 && b.w3 ≤ 5 && accOk c i b)
  guard (!(1 ≤ b.w3 && b.w3 ≤ 3) || fmtWeighted b.fmtIn)
  return { claim := { fq := true, xq := true, score := accClaim b [if b.init then .write else .acc] } }

/-- Fields of the XOP body (Table 5.4). -/
def xopA (b : Block) : Nat := bitsOf b.w1 0 6
def xopB (b : Block) : Nat := bitsOf b.w1 8 6
def xopC (b : Block) : Nat := bitsOf b.w1 16 6
def xopFunc (b : Block) : Nat := bitsOf b.w3 0 8
def xopVfirst (b : Block) : Nat := bitsOf b.w3 16 16

/-- R177: fields that one function of XOP does not use are zero. -/
def xopUnused (b : Block) : Bool :=
  let f := xopFunc b
  let useB := f == 1 || f == 2 || f == 3 || f == 4 || f == 5 || f == 6 || f == 11
  (useB || xopB b == 0) && (f == 4 || xopC b == 0) && (f == 7 || f == 10 || b.w2 == 0) &&
    (if f == 9 || f == 10 then b.rm == 0 && !b.sat && b.tile == 0
     else b.acc == 0 && b.accn == 0 && xopVfirst b == 0)

def sameShape (a b : Tile) : Bool := a.rows == b.rows && a.n == b.n

def planXop (c : Core) (i : SlotId) (b : Block) : Option Plan := do
  let f := xopFunc b
  guard (f ≤ 11 && xopUnused b)
  let ta ← tileOf c i (xopA b)
  let useB := (1 ≤ f && f ≤ 6) || f = 11
  let tb ← if useB then tileOf c i (xopB b) else some noTile
  let tc ← if f = 4 then tileOf c i (xopC b) else some noTile
  if f = 9 || f = 10 then
    guard (accOk c i b && accFits b ta.n (xopVfirst b + ta.rows - 1))
    return { ta := ta, claim := { xq := true, score := accClaim b [.acc] } }
  else
    let t ← tileOf c i b.tile
    if f = 11 then
      guard (ta.fmt == .bin1 && tb.fmt == .bin1 && ta.n == tb.n && (t.fmt == .int32 || t.fmt == .int16)
        && t.rows == ta.rows && tb.rows ≤ t.n)
    else guard (sameShape ta t && (!useB || sameShape tb t) && (f != 4 || sameShape tc t))
    return { tile := t, ta := ta, tb := tb, tc := tc, steps := reserve b (t.rows * t.n),
             claim := { xq := true } }

/-- R84, R86: the formats of the Matrix Unit's operands and of its sparse path. -/
def fmtMatrix : Fmt → Bool
  | .fp16 | .bf16 | .f8a | .f8b | .int8 | .bs8 | .int4 | .bs4 => true
  | _ => false

/-- R203. A TILE whose format is not FMT_OUT, or row counts of A, TILE and E that differ, are operands the instruction does not
accept (DESIGN CHOICE, log 13). -/
def planCmpr (c : Core) (i : SlotId) (b : Block) : Option Plan := do
  let ta ← tileOf c i b.w1
  let te ← tileOf c i b.w2
  let t ← tileOf c i b.tile
  guard (b.w3 ≤ 1 && fmtMatrix b.fmtOut && t.fmt == b.fmtOut && 2 * t.n == ta.n
    && te.fmt == .uint8 && 8 * te.n == ta.n && t.rows == ta.rows && te.rows == ta.rows)
  return { tile := t, ta := ta, tb := te, steps := reserve b (ta.rows * (ta.n / 2)), claim := { xq := true } }

def planScadd (c : Core) (i : SlotId) (b : Block) : Option Plan := do
  let t ← tileOf c i b.tile
  guard (1 ≤ b.count && b.count ≤ 4096 && b.w3 != 0 && t.fmt == b.fmtIn
    && (b.fmtIn == .fp32 || b.fmtIn == .bf16))
  return { tile := t, claim := { fq := true, xq := true } }

/-- R207, R319, R340. An output tile whose format is not FMT_OUT is an operand the instruction does not accept (DESIGN CHOICE,
log 13). -/
def planMlayer (n : Nat) (c : Core) (i : SlotId) (b : Block) : Option Plan := do
  let ta ← tileOf c i (bitsOf b.w2 0 6)
  let t ← tileOf c i (bitsOf b.w2 8 6)
  let cm := bitsOf b.w2 22 2
  guard (cm ≤ 1 && (cm = 1 || bitsOf b.w2 16 6 = 0))
  let te ← if cm = 1 then tileOf c i (bitsOf b.w2 16 6) else some noTile
  guard (1 ≤ b.count && b.count ≤ 160 && bitsOf b.w3 (n / 8) 1 == 1 && ta.rows == t.rows)
  guard (ta.rows ≤ (if isExpress i then 32 else 256) && fmtMatrix b.fmtIn && fmtMatrix ta.fmt)
  guard ((!b.sp || ta.n % 32 == 0) && t.fmt == b.fmtOut)
  guard (!(b.fmtOut == .tern2 && cm == 0) || ta.rows * t.n ≤ (if isExpress i then 1024 else 8192))
  guard (cm != 1 || (t.n % 128 == 0 && fmtMatrix b.fmtOut && te.fmt == .uint8 && 8 * te.n == t.n
    && te.rows == t.rows))
  return { tile := t, ta := ta, tb := te, steps := reserve b (if cm = 1 then ta.rows * (t.n / 2) else ta.rows * t.n) }

def planSolve (b : Block) : Option Plan := do
  guard (1 ≤ b.count && b.count ≤ 1024 && (b.fmtIn == .fp32 || b.fmtIn == .fp64) && b.w1 % 64 == 0)
  return {}

def planCmaint (b : Block) : Option Plan := do
  guard (b.w1 % 128 == 0 && b.w2 % 128 == 0)
  return { claim := { fq := true } }

def planWindow (c : Core) (i : SlotId) (b : Block) : Option Plan := do
  let t ← tileOf c i b.tile
  let r := rowBytes t.fmt t.n
  guard (16 ≤ b.count && b.count ≤ 8192 && b.count % 16 == 0 && b.w2 % 16 == 0)
  guard (b.w3 < t.rows && b.w3 * r + b.count ≤ t.rows * r)
  return { tile := t }

def planBarr (b : Block) : Option Plan := do
  guard (1 ≤ b.count && b.count ≤ 160 && timeOk b.w3)
  guard (!b.mg || (b.w3 != 0 && b.w2 != 0))
  return {}

/-- The checks of one operand block; none for ILLEGAL_OPERAND. -/
def planBlock (op : BlockOp) (c : Core) (n : Nat) (i : SlotId) (b : Block) : Option Plan :=
  match op with
  | .accwb => planAccwb c i b
  | .sload => planStream c i b b.fmtIn
  | .sstore => planStream c i b b.fmtOut
  | .gpool => planGpool c i b
  | .xop => planXop c i b
  | .cmpr => planCmpr c i b
  | .scadd => planScadd c i b
  | .mlayer => planMlayer n c i b
  | .solve => planSolve b
  | .cmaint => planCmaint b
  | .rread | .wwrite => planWindow c i b
  | .barr => planBarr b

/-- R175: the operand block's address. -/
def blockCheck (c : Core) (i : SlotId) (a : Nat) : Option Trap := lsCheck c i a 32 32

/-- R65, R177: the header and body rules that hold for every instruction. -/
def blockFields (op : BlockOp) (c : Core) (a : Nat) (b : Block) : Bool :=
  b.rm != 3 && blockZero c a && headOk (headUse op) b && bodyZero op b

/-- The block at an address that passes the checks of its fields; none for ILLEGAL_OPERAND. -/
def checkedBlock (op : BlockOp) (c : Core) (a : Nat) : Option Block :=
  let b := readBlock c a
  if blockFields op c a b then some b else none

/-- An instruction with an operand block (R175 to R177, R181); one that has waited keeps the block it read at X2. -/
def effBlock (op : BlockOp) (rd ra : Reg) (ch : Choice) (n : Nat) (i : SlotId) (s : State) : Eff :=
  let c := getCore s n
  let ga := getG (coreSlot c i) ra
  let a := ga.toNat
  match blockCheck c i a with
  | some t => .trap t ga
  | none =>
    match ch.blk.orElse fun _ => checkedBlock op c a with
    | none => .trap .illegalOperand 0#64
    | some b =>
      match planBlock op c n i b with
      | none => .trap .illegalOperand 0#64
      | some p => issue (.block op) b p rd a 0 a (.block op rd ra) ch n i s

/-- A block whose every field is zero, for the commands that name none. -/
def noBlock : Block :=
  ⟨.fp32, 0, false, false, .fp32, false, false, false, false, 0, 0, 0, 0, 0, 0, 0⟩

/-- R196: AZERO. -/
def effAzero (rd : Reg) (k : BitVec 4) (ch : Choice) (n : Nat) (i : SlotId) (s : State) : Eff :=
  if ownsAcc (getCore s n) i k.toNat then
    issue .azero { noBlock with acc := k.toNat }
      { claim := { xq := true, score := [(k.toNat, .write)] } } rd 0 0 0 (.azero rd k) ch n i s
  else .trap .illegalOperand 0#64

/-- R216: PSEND. Of several causes the lowest code is reported (R117). -/
def effPsend (rd ra rb : Reg) (x : BitVec 6) (ch : Choice) (n : Nat) (i : SlotId) (s : State) : Eff :=
  let c := getCore s n
  let ga := getG (coreSlot c i) ra
  let gb := getG (coreSlot c i) rb
  let len := x.toNat + 1
  if gb.getLsbD 63 && gb.toNat % 2 ^ 19 != 0 then .trap .illegalOperand 0#64
  else
    match lsCheck c i ga.toNat len 64 with
    | some t => .trap t ga
    | none =>
      issue .psend noBlock { claim := { parcel := true } } rd len gb.toNat ga.toNat (.psend rd ra rb x)
        ch n i s

/-- R218: PRECV. -/
def effPrecv (rd ra : Reg) (ch : Choice) (n : Nat) (i : SlotId) (s : State) : Eff :=
  let c := getCore s n
  let ga := getG (coreSlot c i) ra
  match lsCheck c i ga.toNat 64 1 with
  | some t => .trap t ga
  | none => issue .precv noBlock {} rd 0 0 ga.toNat (.precv rd ra) ch n i s

/-! ### Core instructions and the hint -/

/-- R194: TDEF. Of several causes the lowest code is reported (R117): a tile outside the slot's share goes first. -/
def effTdef (ra : Reg) (x : BitVec 6) (n : Nat) (i : SlotId) (s : State) : Eff :=
  let c := getCore s n
  let ga := getG (coreSlot c i) ra
  let a := ga.toNat
  match (if ownsTile c i x.toNat then blockCheck c i a else some .illegalOperand) with
  | some .illegalOperand => .trap .illegalOperand 0#64
  | some t => .trap t ga
  | none =>
    let b := readBlock c a
    let (lo, hi) := lsRange c i
    let ok := b.rm != 3 && blockZero c a && headOk { fmtOut := true, count := true } b
      && above b.w1 19 && above b.w2 16 && b.w3 == 0 && 1 ≤ b.count && b.count ≤ 4096 && b.w1 % 16 == 0 && rowOk b.fmtOut b.w2
      && lo ≤ b.w1 && b.w1 + b.count * rowBytes b.fmtOut b.w2 ≤ hi
    if ok then
      let s := setCore s n { c with tiles := spPut x.toNat (some ⟨b.w1, b.count, b.w2, b.fmtOut⟩) c.tiles }
      commitSlot s n i (getSlot s n i)
    else .trap .illegalOperand 0#64

/-- R195: SEED. -/
def effSeed (ra : Reg) (n : Nat) (i : SlotId) (s : State) : Eff :=
  let x := getSlot s n i
  commitSlot s n i { x with lfsr := lfsrSeed ((getG x ra).setWidth 32) }

/-- R611: the replay record of a slot at a replay point whose next PC is `pc`. -/
def replayPoint (c : Core) (x : Slot) (pc : Pc) : Replay where
  valid := true
  pc := pc
  g := x.g
  f := x.f
  fflags := x.fflags
  frm := x.frm
  statsum := x.statsum
  lfsr := x.lfsr
  snap := x.snap
  tiles := c.tiles
  cmds := 0
  scadds := 0
  log := []
  spent := false

/-- R259: an instance that a slot takes part in is not over at every station. -/
def layerOpen (s : State) (n : Nat) (i : SlotId) : Bool := s.layers.any fun l => l.who.contains (n, i)

/-- R209, R258, R259, R611: LEND. Its layer-end marker goes to the station's Matrix Unit. -/
def effLend (n : Nat) (i : SlotId) (s : State) : Eff :=
  if slotHolds s n i || layerOpen s n i then .hold .sync
  else
    let c := getCore s n
    let x := coreSlot c i
    let x := { x with replay := replayPoint c x (nextPc x.pc), replaying := none }
    let m := spGet muReset (n / 8) s.mus
    let s := { s with mus := spSet muReset (n / 8) { m with sent := m.sent ++ [(n, i)] } s.mus }
    commitSlot s n i x

/-- What a hint's range comes to: its lines, a miss of the device translation cache, or nothing. -/
inductive HintXl where
  | lines (l : List Hint)
  | miss (va : Nat)
  | drop
  deriving DecidableEq, Repr

/-- R212: the lines of a hint's range from a line on, translated by the core's lookaside. -/
def hintLines (s : State) (k : Lookaside) (h : Share) (ctx : Nat) : Nat → Nat → HintXl
  | 0, _ => .lines []
  | fuel + 1, l =>
    match (lookFind k h ctx (128 * l)).map fun g => segTarget s g ctx (128 * l) .read with
    | some (.dev pa wp) =>
      (match hintLines s k h ctx fuel (l + 1) with
       | .lines hs => .lines (⟨ctx, pa, wp⟩ :: hs)
       | x => x)
    | some (.dtcMiss _ _) => .miss (128 * l)
    | _ => .drop

/-- R212, R416: a hint goes to the row cache, is dropped, or waits at the Points processor for a granule entry. -/
def hintSend (s : State) (n : Nat) (i : SlotId) (ctx line cnt : Nat) : State :=
  let c := getCore s n
  if regFld s .rcClassmask 0 7 0 0 16 == 0 then s
  else
    match hintLines s c.look (coreShare c i) ctx cnt line with
    | .lines hs => { s with hints := s.hints ++ hs }
    | .miss va => askMiss s ⟨.hint n i line cnt, ctx, va, isExpress i, true⟩
    | .drop => s

/-- R212: PFETCH. -/
def effPfetch (ra rb : Reg) (n : Nat) (i : SlotId) (s : State) : Eff :=
  let x := getSlot s n i
  let a := (getG x ra).toNat
  let len := min (getG x rb).toNat 65536
  let cnt := if len = 0 then 0 else (a + len - 1) / 128 + 1 - a / 128
  commitSlot (hintSend s n i x.ctx (a / 128) cnt) n i x

end Sys2Proof.Machine
end

