-- ==== Sys2Proof/Machine/Rows.lean ====
section
/-! DEFINITION. Rows in local store: reading and writing them with the poison of each 16-byte word, which
words an element depends on, and the conversion of one row (R54 to R64, R75, R262, R263). -/

namespace Sys2Proof.Machine

/-! ### Words and their poison -/

/-- Poison of the `n / 16` words from local-store address `a`, a multiple of 16. -/
def lsWordPoison (c : Core) (a n : Nat) : List Bool :=
  (List.range ((n + 15) / 16)).map fun i => spGet false (a / 16 + i) c.lsPoison

/-- Write words of 16 bytes with their poison (R262, R263); `fuel` words at most. -/
def lsWriteWords : Nat → Nat → List Byte → List Bool → Core → Core
  | 0, _, _, _, c => c
  | fuel + 1, a, bs, ps, c =>
    if bs.isEmpty then c
    else lsWriteWords fuel (a + 16) (bs.drop 16) (ps.drop 1) (lsWrite c a (bs.take 16) (ps.headD false))

/-- Write a row of bytes with the poison of its words. -/
def lsWriteRow (c : Core) (a : Nat) (bs : List Byte) (ps : List Bool) : Core :=
  lsWriteWords ((bs.length + 15) / 16) a bs ps c

/-! ### Which words an element depends on (R54 to R61) -/

/-- The words of a row of `n` elements that hold element `e`: its own bits, and its scale or σ. -/
def elemWords (f : Fmt) (n e : Nat) : List Nat :=
  match f with
  | .bs8 | .bs4 => [e * fmtBits f / 128, (n * fmtBits f / 8 + e / 32) / 16]
  | .tern2 => [0, 1 + e * 2 / 128]
  | _ => [e * fmtBits f / 128]

/-- How many neighbouring elements share one encoding: a block of 32, a whole row, or one. -/
def elemGroup (f : Fmt) (n : Nat) : Nat :=
  match f with
  | .bs8 | .bs4 => 32
  | .tern2 => n
  | _ => 1

/-- Poison of each element of a row, from the poison of its words. -/
def elemPoison (f : Fmt) (n : Nat) (ps : List Bool) : List Bool :=
  (List.range n).map fun e => (elemWords f n e).any fun w => ps.getD w false

/-- R262: poison of each word of a row written in `f`, from the poison of its elements. -/
def rowPoison (f : Fmt) (n : Nat) (es : List Bool) : List Bool :=
  let k := max 1 (elemGroup f n)
  let bad (e : Nat) : Bool := ((es.drop (e / k * k)).take k).any id
  let hit := (List.range n).flatMap fun e => if bad e then elemWords f n e else []
  (List.range ((rowBytes f n + 15) / 16)).map fun w => hit.contains w

/-! ### Tiles -/

/-- Local-store address of row `r` of a tile. -/
def tileRowAddr (t : Tile) (r : Nat) : Nat := t.base + r * rowBytes t.fmt t.n

/-- The exact values of row `r` of a tile. -/
def tileRow (c : Core) (t : Tile) (r : Nat) : List Num :=
  decodeRow t.fmt t.n (lsRead c (tileRowAddr t r) (rowBytes t.fmt t.n))

/-- The poison of each element of row `r` of a tile. -/
def tileRowPoison (c : Core) (t : Tile) (r : Nat) : List Bool :=
  elemPoison t.fmt t.n (lsWordPoison c (tileRowAddr t r) (rowBytes t.fmt t.n))

/-! ### Writing converted rows -/

/-- What the execute engine has written: the core, the flags raised and the words written poisoned. -/
structure Wrote where
  core : Core
  flags : Flags
  bad : Nat
  deriving DecidableEq, Repr

/-- Encode values in a format and write them as one row (R198, R202); `src` says the source holds integers. -/
def putRow (x : Wrote) (a : Nat) (f : Fmt) (rm : Rm) (sat src : Bool) (vs : List (Num × Threshold))
    (es : List Bool) : Wrote :=
  let (bs, fl) := encodeRow f rm sat src vs
  let ps := rowPoison f vs.length es
  { core := lsWriteRow x.core a bs ps, flags := x.flags ||| fl, bad := x.bad + ps.countP id }

/-- The rounding mode of an operand block (Table 5.3). -/
def blkRm (b : Block) : Rm := (rmOfCode b.rm).getD .nearest

/-- R71, R184: thresholds of conversion `k` of a command that converts `n` elements each time. -/
def rowThresholds (rm : Rm) (lfsr : W32) (k n : Nat) (xs : List Num) : List (Num × Threshold) :=
  match rm with
  | .stochastic => withThresholds rm (lfsrSkip (k * n) lfsr) xs
  | _ => xs.map fun x => (x, 0)

end Sys2Proof.Machine
end

