-- ==== Sys2Proof/Machine/Descriptors.lean ====
section
/-! DEFINITION. The descriptors an engine reads after commit: block lists (Tables 6.1, 6.2), table
descriptors with their shard maps (Table 7.1, R270) and bag lists (Table 7.2), with the checks of R179,
R227, R273, R276 and R290. -/

namespace Sys2Proof.Machine

/-- What reading a command's descriptors comes to: a failure code, or the command ready to run. -/
inductive Setup where
  | bad (code : Nat)
  | ok (c : Cmd)
  deriving DecidableEq, Repr

/-- Local-store bytes `a .. a + n - 1` lie in a range. -/
def within (r : Nat × Nat) (a n : Nat) : Bool := r.1 ≤ a && a + n ≤ r.2

/-- A stream at its first row (R226). -/
def newStream (rows : List Nat) (owners : List (Nat × Nat)) (rowb stage trows list : Nat) : Stream where
  rows := rows
  owners := owners
  rowb := rowb
  stage := stage
  trows := trows
  list := list
  tile := 0
  line := 0
  fetchTiles := []
  execTiles := []
  done := 0
  rowsDone := 0
  lost := []
  halted := none
  halts := 0
  xlate := false

/-! ### Block lists (R225 to R227) -/

/-- Table 6.2, R226: the rows of one entry, when the entry is legal. -/
def listEntry (c : Core) (e rowb : Nat) : Option (List Nat) :=
  let a := lsNat c e 8
  let st := lsNat c (e + 8) 4
  let n := lsNat c (e + 12) 2
  if a < 2 ^ 48 && a % 16 == 0 && st % 16 == 0 && rowb ≤ st && 1 ≤ n && n ≤ 4096
      && lsNat c (e + 14) 2 == 0 then
    some ((List.range n).map fun j => (a + j * st) % 2 ^ 48)
  else none

/-- The rows of entries from address `e` on. -/
def listEntries (c : Core) (rowb : Nat) : Nat → Nat → Option (List Nat)
  | 0, _ => some []
  | n + 1, e =>
    match listEntry c e rowb, listEntries c rowb n (e + 16) with
    | some a, some b => some (a ++ b)
    | _, _ => none

/-- Table 6.1: must-be-zero fields of a header are zero and the others are in range. -/
def listHeadOk (c : Core) (a : Nat) : Bool :=
  let w0 := lsNat c a 4
  let rowb := lsNat c (a + 4) 4
  let stage := lsNat c (a + 8) 4
  let trows := lsNat c (a + 12) 4
  bitsOf w0 11 1 == 0 && bitsOf w0 16 16 == 0 && 1 ≤ bitsOf w0 0 11 && bitsOf w0 0 11 ≤ 1024
    && 16 ≤ rowb && rowb ≤ 8192 && rowb % 16 == 0 && stage < 2 ^ 19 && stage % 128 == 0
    && 1 ≤ trows && trows ≤ 4096 && trows * rowb ≤ 16384 && lsNat c (a + 16) 16 == 0

/-- R227: read a block list for `count` rows of `rb` bytes in format `f`. -/
def listStream (c : Core) (i : SlotId) (a : Nat) (f : Fmt) (rb count : Nat) : Nat ⊕ Stream :=
  let r := lsRange c i
  if !within r a 64 then .inl codeBadDescriptor
  else if fmtOfCode (lsNat c (a + 1) 1 / 16) != f then .inl codeDescMismatch
  else
    let nent := lsNat c a 4 % 2 ^ 11
    let rowb := lsNat c (a + 4) 4
    let stage := lsNat c (a + 8) 4
    let trows := lsNat c (a + 12) 4
    match (if listHeadOk c a && rowb == rb && within r a (64 + 16 * nent)
              && within r stage (4 * trows * rowb) then listEntries c rowb nent (a + 64) else none) with
    | none => .inl codeBadDescriptor
    | some rows =>
      if rows.length < count then .inl codeBadDescriptor
      else .inr (newStream (rows.take count) [] rowb stage trows a)

/-! ### Tables (R269 to R273, R278 to R280) -/

/-- The element count whose row size in `f` is `rowb` (R273); none when there is none. -/
def elemsOf (f : Fmt) (rowb : Nat) : Option Nat :=
  let g := fmtGranule f
  let cand := match f with
    | .tern2 => 4 * (rowb - 16)
    | .bs8 => (rowb - 16 * ((rowb + 527) / 528)) / g * g
    | .bs4 => 2 * (rowb - 16 * ((rowb + 271) / 272)) / g * g
    | _ => rowb * 8 / fmtBits f
  if rowOk f cand && rowBytes f cand == rowb then some cand else none

/-- The smallest power of two at least `n` (R280). -/
def pow2Above (n : Nat) : Nat := if n ≤ 1 then 1 else 2 ^ (Nat.log2 (n - 1) + 1)

/-- Rows that the index mode can name (R273, R280). -/
def nameable (fast : Bool) (grows : Nat) : Nat := if fast then pow2Above grows else grows

/-- Table 7.1: a legal descriptor at `a` for rows of format `f`. -/
def tableOk (c : Core) (i : SlotId) (a : Nat) : Bool :=
  let r := lsRange c i
  let m := lsNat c (a + 2) 1
  let rowb := lsNat c (a + 4) 4
  let grows := lsNat c (a + 8) 8
  let base := lsNat c (a + 16) 8
  let ns := lsNat c (a + 24) 2
  let srows := lsNat c (a + 28) 4
  let smap := lsNat c (a + 32) 4
  let stage := lsNat c (a + 36) 4
  let trows := lsNat c (a + 40) 2
  lsNat c (a + 3) 1 == 0 && bitsOf m 6 2 != 3 && 16 ≤ rowb && rowb ≤ 8192 && rowb % 16 == 0
    && 1 ≤ grows && grows ≤ 2 ^ 40 && base < 2 ^ 48 && base % 16 == 0 && 1 ≤ ns && ns ≤ 1024
    && lsNat c (a + 26) 2 < ns
    && (bitsOf m 6 2 != 2 || (1 ≤ srows && nameable (m.testBit 4) grows ≤ ns * srows))
    && smap < 2 ^ 19 && smap % 2 == 0 && within r smap (2 * ns)
    && (List.range ns).all (fun h => lsNat c (smap + 2 * h) 2 < 1024)
    && stage < 2 ^ 19 && stage % 128 == 0 && 1 ≤ trows && trows ≤ 4096 && trows * rowb ≤ 16384
    && within r stage (4 * trows * rowb) && lsNat c (a + 42) 2 == 0 && lsNat c (a + 48) 16 == 0

/-- The fields of a table descriptor. -/
def readTable (c : Core) (a w : Nat) : TableDesc where
  id := lsNat c a 2
  fmt := fmtOfCode (lsNat c (a + 2) 1 % 16)
  fast := (lsNat c (a + 2) 1).testBit 4
  train := (lsNat c (a + 2) 1).testBit 5
  shmode := bitsOf (lsNat c (a + 2) 1) 6 2
  rowb := lsNat c (a + 4) 4
  grows := lsNat c (a + 8) 8
  base := lsNat c (a + 16) 8
  devs := (List.range (lsNat c (a + 24) 2)).map fun h => lsNat c (lsNat c (a + 32) 4 + 2 * h) 2
  lshard := lsNat c (a + 26) 2
  srows := lsNat c (a + 28) 4
  stage := lsNat c (a + 36) 4
  trows := lsNat c (a + 40) 2
  rstep := lsNat c (a + 44) 4
  w := w

/-- R271: shard and local row of a kept index. -/
def shardOf (t : TableDesc) (g : Nat) : Nat × Nat :=
  if t.shmode = 0 then (0, g)
  else if t.shmode = 1 then (g % t.devs.length, g / t.devs.length)
  else (g / t.srows, g % t.srows)

/-- R278 to R280: the index that is read for index `g`; none when it is dropped. -/
def keepIndex (t : TableDesc) (g : Nat) : Option Nat :=
  if t.fast then some (g % pow2Above t.grows) else if g < t.grows then some g else none

/-! ### Bags (R274 to R276) -/

def indexSize (ifmt : Nat) : Nat := if ifmt = 0 then 2 else if ifmt = 1 then 4 else 8
def weightSize (wfmt : Nat) : Nat := if wfmt = 0 then 0 else if wfmt = 1 then 4 else 2

/-- Table 7.2, R273, R276: a legal bag descriptor; `weights` says the command accepts weighted bags. -/
def bagOk (c : Core) (i : SlotId) (weights : Bool) (a : Nat) : Bool :=
  let r := lsRange c i
  let n := lsNat c (a + 4) 2
  let m := lsNat c (a + 6) 1
  let ix := lsNat c (a + 8) 4
  let wg := lsNat c (a + 12) 4
  let wf := bitsOf m 2 2
  bitsOf m 0 2 != 3 && m / 16 == 0 && lsNat c (a + 7) 1 == 0 && ix < 2 ^ 19 && ix % 8 == 0
    && within r ix (n * indexSize (bitsOf m 0 2)) && lsNat c (a + 20) 12 == 0
    && (if wf = 0 then wg == 0
        else weights && wg < 2 ^ 19 && wg % 4 == 0 && within r wg (n * weightSize wf))

/-- FP32 one. -/
def fp32One : W32 := 0x3F800000#32

/-- The weight of position `p`, exactly as FP32 (R282, R287). -/
def bagWeight (c : Core) (wfmt wgt p : Nat) : W32 :=
  let v := lsNat c (wgt + p * weightSize wfmt) (weightSize wfmt)
  if wfmt = 0 then fp32One
  else if wfmt = 1 then BitVec.ofNat 32 v
  else fp32Of (decodeFloat (if wfmt = 2 then specBf16 else specFp16) v)

/-- Read one bag: its kept positions in ascending order, and its drops. -/
def readBag (c : Core) (t : TableDesc) (a : Nat) : Bag :=
  let n := lsNat c (a + 4) 2
  let m := lsNat c (a + 6) 1
  let k := indexSize (bitsOf m 0 2)
  let wf := bitsOf m 2 2
  let kept := (List.range n).filterMap fun p =>
    (keepIndex t (lsNat c (lsNat c (a + 8) 4 + p * k) k)).map fun g =>
      (p, (shardOf t g).1, (shardOf t g).2, bagWeight c wf (lsNat c (a + 12) 4) p)
  { addr := a, id := lsNat c a 4, wfmt := wf, drops := n - kept.length, kept := kept, failed := 0,
    poison := lsPoisoned c (lsNat c (a + 8) 4) (n * k) || lsPoisoned c (lsNat c (a + 12) 4) (n * weightSize wf) }

/-- R282: the factor of each kept position in a GPOOL of mode `m` with `n` kept positions. -/
def poolFactor (m n : Nat) (w : W32) : W32 :=
  let one : Num := .fin false 1 0
  if m = 1 then w
  else if m = 2 then fp32Of (numDiv one (numOfInt n)).1
  else if m = 3 then fp32Of (numDiv one (fp32Num (fp32Of (numSqrt (numOfInt n)).1))).1
  else fp32One

/-- A bag as GPOOL pools it. -/
def poolBag (m : Nat) (b : Bag) : Bag :=
  { b with kept := b.kept.map fun k => (k.1, k.2.1, k.2.2.1, poolFactor m b.kept.length k.2.2.2) }

/-- Insert a number into an ascending list without repeats. -/
def insertNat (x : Nat) : List Nat → List Nat
  | [] => [x]
  | y :: ys => if x < y then x :: y :: ys else if x = y then y :: ys else y :: insertNat x ys

/-- The shards that a bag touches, ascending. -/
def bagShards (b : Bag) : List Nat := b.kept.foldr (fun k l => insertNat k.2.1 l) []

/-- Kept positions of a bag in one shard. -/
def inShard (b : Bag) (h : Nat) : List (Nat × Nat × Nat × W32) := b.kept.filter fun k => k.2.1 == h

/-- R527: entries of 12 bytes that one packet of at most 16,384 data bytes carries. -/
def entriesPerPacket : Nat := 1365

/-- R527: the pool-at-home requests of a bag's remote shards. -/
def remotePieces (lshard : Nat) (k : Nat) (b : Bag) : List (Nat × Nat × Nat × Nat) :=
  (bagShards b).flatMap fun h =>
    if h = lshard then []
    else
      let n := ((inShard b h).length + entriesPerPacket - 1) / entriesPerPacket
      (List.range n).map fun p => (k, h, p, n)

/-- The bag and kept index of every kept position, in bag-list order. -/
def positions (bags : List Bag) : List (Nat × Nat) :=
  bags.zipIdx.flatMap fun b => (List.range b.1.kept.length).map fun j => (b.2, j)

/-- The kept position an owner names. -/
def keptAt (bags : List Bag) (o : Nat × Nat) : Nat × Nat × Nat × W32 :=
  ((bags[o.1]?).bind fun b => b.kept[o.2]?).getD (0, 0, 0, 0#32)

/-! ### Setting commands up (R179, R227, R273, R290) -/

/-- The stream of SLOAD and SSTORE. -/
def setupList (k : Core) (c : Cmd) (f : Fmt) : Setup :=
  match listStream k c.slot c.blk.w1 f (rowBytes f c.tile.n) c.blk.count with
  | .inl e => .bad e
  | .inr st => .ok { c with ready := true, stream := some st }

/-- The parts of R273 common to GPOOL and SCADD: the table, or the failure. -/
def setupTable (k : Core) (c : Cmd) (weights : Fmt → Bool) : Nat ⊕ (TableDesc × List Bag) :=
  let a := c.blk.w1
  let l := c.blk.w2
  let r := lsRange k c.slot
  if !(a % 64 == 0 && within r a 64) then .inl codeBadDescriptor
  else
    let f := fmtOfCode (lsNat k (a + 2) 1 % 16)
    if f != c.blk.fmtIn then .inl codeDescMismatch
    else
      match (if tableOk k c.slot a then elemsOf f (lsNat k (a + 4) 4) else none) with
      | none => .inl codeBadDescriptor
      | some w =>
        if l % 32 == 0 && within r l (32 * c.blk.count)
            && (List.range c.blk.count).all (fun j => bagOk k c.slot (weights f) (l + 32 * j)) then
          let t := readTable k a w
          .inr (t, (List.range c.blk.count).map fun j => readBag k t (l + 32 * j))
        else .inl codeBadDescriptor

def totalDrops (bags : List Bag) : Nat := bags.foldl (fun n b => n + b.drops) 0

/-- GPOOL after commit (R273, R276, R283). -/
def setupGpool (k : Core) (c : Cmd) : Setup :=
  match setupTable k c (fun f => c.blk.w3 == 1 && fmtWeighted f) with
  | .inl e => .bad e
  | .inr (t, bags) =>
    if !accFits c.blk t.w (c.blk.count - 1) then .bad codeBadDescriptor
    else
      let bags := bags.map (poolBag c.blk.w3)
      let own := (positions bags).filter fun o => (keptAt bags o).2.1 == t.lshard
      let rows := own.map fun o => (t.base + (keptAt bags o).2.2.1 * t.rowb) % 2 ^ 48
      .ok { c with ready := true, table := some t, bags := bags, drops := totalDrops bags,
                   poison := bags.any (·.poison),
                   stream := some (newStream rows own t.rowb t.stage t.trows 0),
                   remoteQ := bags.zipIdx.flatMap fun b => remotePieces t.lshard b.2 b.1 }

/-- SCADD after commit (R273, R276, R287, R290). -/
def setupScadd (k : Core) (c : Cmd) : Setup :=
  match setupTable k c (fun f => !fmtIsInt f) with
  | .inl e => .bad e
  | .inr (t, bags) =>
    if !(t.train && c.tile.n == t.w && c.blk.count ≤ c.tile.rows) then .bad codeBadDescriptor
    else
      let own := positions bags
      .ok { c with ready := true, table := some t, bags := bags, drops := totalDrops bags,
                   poison := bags.any (·.poison),
                   stream := some (newStream (own.map fun _ => 0) own t.rowb t.stage t.trows 0) }

/-! ### Order with the execute queue (R188) -/

/-- The local-store range of a tile: first byte, and one past the last. -/
def tileSpan (t : Tile) : Nat × Nat := (t.base, t.base + t.rows * rowBytes t.fmt t.n)

/-- The ranges that a command of the execute queue can still write: its tiles, its staging buffers, its stream-state block and its bags'
status. -/
def cmdWrites (c : Cmd) : List (Nat × Nat) :=
  let own := match c.op with
    | .block .cmpr => [tileSpan c.tile, tileSpan c.tb]
    | .block .accwb | .block .xop | .block .sload => [tileSpan c.tile]
    | _ => []
  let staged := match c.stream with
    | some st =>
      (st.stage, st.stage + 4 * st.trows * st.rowb)
        :: (if c.op == .block .gpool || c.op == .block .scadd then [] else [(st.list + 32, st.list + 64)])
    | none => []
  own ++ staged ++ c.bags.map fun b => (b.addr + 16, b.addr + 20)

/-- The ranges that setting a command up reads. -/
def setupReads (k : Core) (c : Cmd) : List (Nat × Nat) :=
  let a := c.blk.w1
  let l := c.blk.w2
  match c.op with
  | .block .sload | .block .sstore => [(a, a + 64 + 16 * (lsNat k a 4 % 2048))]
  | .block .gpool | .block .scadd =>
    [(a, a + 64), (lsNat k (a + 32) 4, lsNat k (a + 32) 4 + 2 * lsNat k (a + 24) 2), (l, l + 32 * c.blk.count)]
      ++ (List.range c.blk.count).flatMap fun j =>
        let b := l + 32 * j
        let n := lsNat k (b + 4) 2
        let m := lsNat k (b + 6) 1
        [(lsNat k (b + 8) 4, lsNat k (b + 8) 4 + n * indexSize (bitsOf m 0 2)),
         (lsNat k (b + 12) 4, lsNat k (b + 12) 4 + n * weightSize (bitsOf m 2 2))]
  | _ => []

def spansMeet (x y : Nat × Nat) : Bool := x.1 < y.2 && y.1 < x.2

/-- R188: no earlier command of the slot's execute queue can still write what setting a command up reads. -/
def setupClear (s : State) (c : Cmd) : Bool :=
  let rs := setupReads (getCore s c.core) c
  (getSlot s c.core c.slot).xq.all fun t =>
    match tagCmd s t with
    | some d => c.seq ≤ d.seq || !((cmdWrites d).any fun w => rs.any (spansMeet w))
    | none => true

/-- The set-up of a command that uses the fetch queue. CMAINT reads no descriptor; a FILL whose class has an
empty way mask is refused (R213). -/
def setupCmd (s : State) (c : Cmd) : Setup :=
  let k := getCore s c.core
  match c.op with
  | .block .sload => setupList k c c.blk.fmtIn
  | .block .sstore => setupList k c c.blk.fmtOut
  | .block .gpool => setupGpool k c
  | .block .scadd => setupScadd k c
  | .block .cmaint =>
    if bitsOf c.blk.w3 0 2 == 3 && regFld s .rcClassmask 0 (bitsOf c.blk.w3 8 3) 0 0 16 == 0 then
      .bad codeCacheRefused
    else .ok { c with ready := true }
  | _ => .ok { c with ready := true }

end Sys2Proof.Machine
end

