-- ==== Sys2Proof/Machine/Stream.lean ====
section
/-! DEFINITION. The fetch side of streams: line requests, their translation, tile tokens, halts and what
reaches staging (spec/06, R286, R390, R431, R436, R441 to R443). -/

namespace Sys2Proof.Machine

/-! ### Geometry of a stream (R226, R231) -/

/-- Stream tiles of a stream. -/
def streamTiles (st : Stream) : Nat := (st.rows.length + st.trows - 1) / st.trows

/-- The rows of stream tile `t`: number and address, in stream order. -/
def tileRows (st : Stream) (t : Nat) : List (Nat × Nat) :=
  (((st.rows.drop (t * st.trows)).take st.trows).zipIdx).map fun e => (t * st.trows + e.2, e.1)

/-- R231: local-store address of the staging place of stream row `r`. -/
def stageAddr (st : Stream) (r : Nat) : Nat :=
  st.stage + (r / st.trows % 4) * (st.trows * st.rowb) + r % st.trows * st.rowb

/-- The address of the `w`-th 16-byte word of a row. -/
def rowWord (va w : Nat) : Nat := (va + 16 * w) % 2 ^ 48

/-- The lines of one row, in order. -/
def rowLines (va rowb : Nat) : List Nat :=
  ((List.range (rowb / 16)).map fun w => rowWord va w / 128).eraseDups

/-- The lines of stream tile `t`, each once, in the order they are requested. -/
def tileLines (st : Stream) (t : Nat) : List Nat :=
  ((tileRows st t).flatMap fun r => rowLines r.2 st.rowb).eraseDups

/-- The line whose request is issued next. -/
def nextLine (st : Stream) : Option Nat := (tileLines st st.tile)[st.line]?

/-- The rows of the current tile that touch line `l` and are not lost. -/
def rowsOn (st : Stream) (l : Nat) : List (Nat × Nat) :=
  (tileRows st st.tile).filter fun r => !st.lost.contains r.1 && (rowLines r.2 st.rowb).contains l

/-! ### Where a line leads (R411, R429, R440 to R443) -/

/-- The outcome of translating one line of a core's command. -/
inductive LineXl where
  | dev (pa wp : Nat)
  /-- Function, address on the link, and the granule a HOST entry gave. -/
  | host (fn iova : Nat) (gran : Option (Nat × Nat))
  | look
  | fault
  | dtc (seg k : Nat)
  | ats (fn : Nat) (pasid : Option Nat) (iova : Nat)
  /-- A host page that grants no access, or lacks W (R443). -/
  | page (fn : Nat) (pasid : Option Nat) (iova : Nat)
  | absent (seg k : Nat)
  deriving DecidableEq, Repr

/-- The host translation that covers an address. -/
def hostFind (s : State) (fn : Nat) (pasid : Option Nat) (iova : Nat) : Option HostTr :=
  s.dtcH.find? fun h => h.fn == fn && h.pasid == pasid && h.va ≤ iova && iova < h.va + h.size

/-- R441 to R443: a host target, translated while ATS is enabled. -/
def hostLine (s : State) (ctx iova : Nat) (gran : Option (Nat × Nat)) (w : Bool) : LineXl :=
  let fn := fnOf s ctx
  let x := pasidOf s ctx
  if !spGet false fn s.host.ats then .host fn iova gran
  else
    match hostFind s fn x iova with
    | none => .ats fn x iova
    | some h => if (w && h.w) || (!w && h.r) then .host fn (h.pa + (iova - h.va)) gran else .page fn x iova

/-- The translation of a line address for a slot of a core. -/
def lineXl (s : State) (n : Nat) (i : SlotId) (ctx va : Nat) (w : Bool) : LineXl :=
  let k := getCore s n
  match lookFind k.look (coreShare k i) ctx va with
  | none => .look
  | some g =>
    match segTarget s g ctx va (if w then .write else .read) with
    | .dev pa wp => .dev pa wp
    | .host iova gran => hostLine s ctx iova gran w
    | .fault | .miss => .fault
    | .dtcMiss seg j => .dtc seg j
    | .absent seg j => .absent seg j

/-- R443, R444, Table 11.8: page requests can be sent for a function. -/
def priUp (s : State) (fn : Nat) : Bool := s.host.pri && !spGet false fn s.host.priFailed

/-! ### Commands of the fetch queue -/

/-- A write stream: SSTORE. -/
def isWrite (c : Cmd) : Bool := c.op == .block .sstore

/-- FM of the operand block (R261). -/
def haltSave (c : Cmd) : Bool := c.blk.fm

/-- The lines of the rows that touch a line. -/
def rowsLines (st : Stream) (l : Nat) : List Nat := ((rowsOn st l).flatMap fun r => rowLines r.2 st.rowb).eraseDups

/-- The line addresses of the next request that must translate together: the line itself; for the first line of a tile to be
written, every line of the tile, so that a tile that fails writes none of its rows (R187, R228); for a write that flows on,
every line of every row that touches it (Table 6.7). -/
def needLines (c : Cmd) (st : Stream) (l : Nat) : List Nat :=
  if !isWrite c then [l]
  else if st.line = 0 then tileLines st st.tile
  else if haltSave c then [l]
  else rowsLines st l

/-- Does an outcome stop the request: it must be resolved before the line can leave? -/
def blocks (c : Cmd) : LineXl → Bool
  | .dev .. | .host .. => false
  | .absent .. => !(isWrite c && !haltSave c)
  | .page .. => !(isWrite c && !haltSave c)
  | _ => true

/-- The first line, with its outcome, that stops the next request. -/
def blocker (s : State) (c : Cmd) (ls : List Nat) : Option (Nat × LineXl) :=
  (ls.map fun l => (128 * l, lineXl s c.core c.slot c.ctx (128 * l) (isWrite c))).find? fun e => blocks c e.2

/-- A line that ends the write stream: no way to it, a page that cannot be asked for, or a granule that has failed. -/
def failsAt (s : State) (c : Cmd) (l : Nat) : Option Nat :=
  match lineXl s c.core c.slot c.ctx (128 * l) true with
  | .fault => some codeSegFault
  | .page fn _ _ => if priUp s fn then none else some codeSegFault
  | .dev pa _ => if ownCheck s (some c.ctx) pa == .failed then some codeGranuleFailed else none
  | _ => none

/-- R187, R228: the next line of a write stream ends it; it is served once the earlier tiles are written. -/
def writeEnds (s : State) (c : Cmd) (st : Stream) (l : Nat) : Option Nat :=
  if isWrite c then (needLines c st l).findSome? (failsAt s c) else none

/-- A row whose granule or page is not there (Table 6.7): not resident. -/
def notThere : LineXl → Bool
  | .absent .. | .page .. => true
  | _ => false

/-- The rows on line `l` that cannot be written. -/
def rowsLost (s : State) (c : Cmd) (st : Stream) (l : Nat) : List Nat :=
  ((rowsOn st l).filter fun r => (rowLines r.2 st.rowb).any fun x =>
    notThere (lineXl s c.core c.slot c.ctx (128 * x) true)).map (·.1)

/-! ### Finishing (R185, R198, R201, R205, R277) -/

/-- DETAIL of a command that uses the fetch queue. -/
def streamDetail (c : Cmd) : Nat :=
  match c.op with
  | .block .gpool => c.drops
  | .block .scadd => c.doneN
  | .block .cmaint => c.detail
  | _ => (c.stream.map (·.rowsDone)).getD 0

/-- Table 7.2: STATUS and DROPS of a bag. -/
def bagStatus (b : Bag) : Nat :=
  1 + 2 * (b.drops != 0).toNat + 4 * b.poison.toNat + 8 * (b.failed != 0).toNat + 16 * b.kept.isEmpty.toNat

def writeBags (k : Core) : List Bag → Core
  | [] => k
  | b :: bs => writeBags (lsWrite k (b.addr + 16) (leBytes 2 (bagStatus b) ++ leBytes 2 (min b.drops 65535)) false) bs

/-- Retire a command of the fetch queue with its books. -/
def retireStream (s : State) (t : Nat) : State :=
  match tagCmd s t with
  | none => s
  | some c =>
    let s := modCore s c.core fun k => writeBags k c.bags
    retire (modCmd s t fun c => { c with detail := streamDetail c }) t

/-- End it with a failure code (R228). -/
def failStream (s : State) (t code : Nat) : State := retireStream (modCmd s t fun c => { c with code := code }) t

/-- The fetch side has issued its last request. -/
def fetchDone (c : Cmd) : Bool :=
  match c.op with
  | .block .scadd =>
    c.outbox.isEmpty && ((c.stream.map fun st => decide (streamTiles st ≤ c.unit)).getD false)
  | .block .cmaint => c.blk.w2 ≤ 128 * c.unit
  | _ => c.remoteQ.isEmpty && ((c.stream.map fun st => decide (streamTiles st ≤ st.tile)).getD false)

/-- R230: the FQ entry goes free with the last request. -/
def releaseFq (s : State) (t : Nat) : State :=
  match tagCmd s t with
  | some c =>
    if c.ready && fetchDone c then
      modSlot s c.core c.slot fun x => { x with fq := x.fq.filter (· != t) }
    else s
  | none => s

/-- Replace a command's stream. -/
def setStream (s : State) (t : Nat) (f : Stream → Stream) : State :=
  modCmd s t fun c => { c with stream := c.stream.map f }

/-- The execute side is over, and so is everything the fetch side waits for. -/
def scaddOver (c : Cmd) : Bool := c.op == .block .scadd && c.ready && fetchDone c && c.waiting == 0

/-! ### Tokens (R231 to R234) -/

/-- Every token a stream needs has been taken. -/
def tokensTaken (c : Cmd) : Bool :=
  match c.stream with
  | some st => c.ready && streamTiles st ≤ st.done + st.fetchTiles.length + st.execTiles.length
  | none => false

/-- R233: the streams of the slot that committed earlier and still hold a queue entry have taken all theirs. -/
def tokenTurn (s : State) (c : Cmd) : Bool :=
  s.tags.all fun e =>
    match e.2.cmd with
    | some d =>
      !(e.2.st == .inFlight && d.core == c.core && d.slot == c.slot && d.seq < c.seq
        && (match d.op with
            | .block .sload | .block .sstore | .block .gpool | .block .scadd => true
            | _ => false)) || tokensTaken d
    | none => true

/-- A command has sent a request to another home, or has none to send. -/
def remoteBegun (c : Cmd) : Bool :=
  c.remoteQ.isEmpty || 0 < c.waiting || !c.partials.isEmpty || c.bags.any fun b => 0 < b.failed

/-- R189: a command has begun its memory reads, or has none. -/
def begun (c : Cmd) : Bool :=
  c.ready && match c.op, c.stream with
    | .block .cmaint, _ => c.blk.w2 = 0 || 0 < c.unit
    | _, some st =>
      isWrite c || 0 < st.tile || 0 < st.line || st.halted.isSome || (st.rows.isEmpty && remoteBegun c)
    | _, none => true

/-- R189: earlier commands of the fetch queue have begun. -/
def readTurn (s : State) (c : Cmd) (t : Nat) : Bool :=
  ((getSlot s c.core c.slot).fq.takeWhile (· != t)).all fun u => ((tagCmd s u).map begun).getD true

def takeToken (s : State) (n : Nat) (i : SlotId) : State :=
  modSlot s n i fun x => { x with tokFree := x.tokFree - 1, tokFetch := x.tokFetch + 1 }

/-- A token the fetch side holds returns free. -/
def freeFetch (s : State) (n : Nat) (i : SlotId) (k : Nat) : State :=
  modSlot s n i fun x => { x with tokFree := x.tokFree + k, tokFetch := x.tokFetch - k }

/-- A token passes from the fetch side to the execute side. -/
def passToken (s : State) (n : Nat) (i : SlotId) : State :=
  modSlot s n i fun x => { x with tokFetch := x.tokFetch - 1, tokExec := x.tokExec + 1 }

/-- A token the execute side holds returns free. -/
def freeExec (s : State) (n : Nat) (i : SlotId) : State :=
  modSlot s n i fun x => { x with tokFree := x.tokFree + 1, tokExec := x.tokExec - 1 }

/-! ### RSTEP (R286) -/

/-- Step applied by Row Merge Unit `k` for a context (R306). -/
def appliedAt (s : State) (k ctx : Nat) : Nat := spGet 0 ctx (spGet rmuReset k s.rmus).applied

/-- R286: the rows that lie on this line have had the merge of RSTEP applied at their home. -/
def homeReady (s : State) (c : Cmd) (st : Stream) (l : Nat) : Bool :=
  match c.table with
  | some t =>
    if t.train && t.rstep != 0 then
      (tileRows st st.tile).all fun r =>
        if (rowLines r.2 st.rowb).contains l then
          match lineXl s c.core c.slot c.ctx r.2 false with
          | .dev pa _ => t.rstep ≤ appliedAt s (channelOf s.variant pa) c.ctx
          | _ => true
        else true
    else true
  | none => true

/-! ### When a request can leave -/

/-- R617, R630: the engines of a logical core run. -/
def enginesRun (s : State) (n : Nat) : Bool :=
  planeUp s && (match hostOf s n with
    | some p => fenceMode s p != 2
    | none => false)

/-- The page request of a page, if one is out. -/
def pageAsked (s : State) (fn : Nat) (pasid : Option Nat) (page : Nat) : Bool :=
  s.priOut.any fun r => r.fn == fn && r.pasid == pasid && r.page == page

/-- A new page request can be sent, or one for this page is out (Table 11.8). -/
def pageRoom (s : State) (fn : Nat) (pasid : Option Nat) (iova : Nat) : Bool :=
  pageAsked s fn pasid (iova / 4096) || s.priOut.length < 1024

/-- What stops a line can be acted on now. -/
def blockReady (s : State) (c : Cmd) (x : LineXl) : Bool :=
  match x with
  | .look => false
  | .absent seg k => faultRoom s c.ctx seg k
  | .page fn x iova => pageRoom s fn x iova
  | _ => true

/-- A token is at hand for the tile of the next line. -/
def tokenReady (s : State) (c : Cmd) (st : Stream) : Bool :=
  if st.fetchTiles.contains st.tile then true
  else (!isWrite c || st.tile < c.unit) && 0 < (getSlot s c.core c.slot).tokFree && tokenTurn s c

/-- A local line of a stream can be issued, or acted on. -/
def streamReady (s : State) (t : Nat) (c : Cmd) (st : Stream) : Bool :=
  match nextLine st with
  | none => false
  | some l =>
    st.halted.isNone && !st.xlate && tokenReady s c st && readTurn s c t
      && (if isWrite c then writeRoom s c.core c.slot else readRoom s c.core c.slot)
      && homeReady s c st l && ((writeEnds s c st l).isNone || !(s.reqs.any fun r => r.tag == t))
      && (needLines c st l).all (fun x => blockReady s c (lineXl s c.core c.slot c.ctx (128 * x) (isWrite c)))

/-- The context address of a CMAINT's next line. -/
def maintVa (c : Cmd) : Nat := (c.blk.w1 + 128 * c.unit) % 2 ^ 48

/-- A CMAINT line waits for the Points processor. -/
def maintReady (s : State) (t : Nat) (c : Cmd) : Bool :=
  readTurn s c t && readRoom s c.core c.slot
    && (c.blk.w2 = 0 || (128 * c.unit < c.blk.w2
          && !(s.px.any fun m => m.who == .stream t)
          && blockReady s c (lineXl s c.core c.slot c.ctx (maintVa c) false)))

/-- A remote request, or a contribution, can be sent: the stream is not halted (R264). -/
def remoteReady (s : State) (t : Nat) (c : Cmd) : Bool :=
  readTurn s c t && ((c.stream.bind (·.halted)).isNone) && readRoom s c.core c.slot && (!c.remoteQ.isEmpty || !c.outbox.isEmpty)

/-- The command's next request can leave; `remote` chooses between a row of the local shard and a request to
another home. -/
def requestReady (s : State) (t : Nat) (c : Cmd) (remote : Bool) : Bool :=
  if windowWaits c then remote && readRoom s c.core c.slot
  else if !c.ready then readTurn s c t && setupClear s c
  else if remote then remoteReady s t c
  else
    match c.op, c.stream with
    | .block .cmaint, _ => maintReady s t c
    | .block .scadd, _ => false
    | _, some st => streamReady s t c st
    | _, none => false

/-- R235: a ready express request goes ahead of every bulk request. -/
def expressAhead (s : State) (n : Nat) : Bool :=
  (getSlot s n .express).fq.any (fun t =>
    match tagCmd s t with
    | some c => requestReady s t c false || (c.ready && remoteReady s t c)
    | none => false)
  || (readRoom s n .express && s.tags.any fun e =>
    match e.2.cmd with
    | some c => e.2.st == .inFlight && c.core == n && isExpress c.slot && windowWaits c
    | none => false)

/-! ### What a request does -/

/-- R264, R268: the stream-state block at a halt (Table 6.9). -/
def ssbBytes (s : State) (st : Stream) (halts : Nat) (w : WaitOn) (va : Nat) : List Byte :=
  let reason := match w with
    | .granule .. => 1
    | .page .. => 2
  leBytes 4 (1 + 256 * min 255 halts + 65536 * reason) ++ leBytes 4 st.tile ++ leBytes 8 va
    ++ leBytes 8 (nowOp s) ++ leBytes 4 st.rowsDone ++ leBytes 4 0

/-- R264: halt a stream at its current tile. -/
def haltStream (s : State) (t : Nat) (c : Cmd) (st : Stream) (w : WaitOn) (va : Nat) : State :=
  let f := st.tile
  let gone := st.fetchTiles.filter fun x => f ≤ x
  let s := freeFetch s c.core c.slot gone.length
  let s := dropReqs s fun r => r.tag == t && f ≤ r.tile
  let s := if c.op == .block .gpool then s
    else modCore s c.core fun k => lsWrite k (st.list + 32) (ssbBytes s st (st.halts + 1) w va) false
  let s := setStream s t fun x =>
    { x with line := 0, fetchTiles := x.fetchTiles.filter fun y => y < f, halted := some (f, w),
             halts := x.halts + 1, xlate := false }
  bump s .feHalts c.core 0 0 1

/-- R441, R453: an ATS Translation Request for an address, unless one is out; a miss of the translation cache. -/
def askAts (s : State) (fn : Nat) (pasid : Option Nat) (iova : Nat) : State :=
  if s.host.atsOut.contains (fn, pasid, iova) then s
  else emit { bump s .xlDtcmiss 0 0 0 1 with host := { s.host with atsOut := s.host.atsOut ++ [(fn, pasid, iova)] } } fn
    (.atsRequest fn iova pasid)

/-- The least group number that no outstanding page request of a function uses; each request is a group of its own (R443). -/
def newGroup (s : State) (fn : Nat) : Nat :=
  ((List.range 1025).find? fun n => !(s.priOut.any fun r => r.fn == fn && r.group == n)).getD 0

/-- R443: a page request, unless one for the page is out. -/
def requestPage (s : State) (fn : Nat) (pasid : Option Nat) (iova : Nat) : State :=
  let p := iova / 4096
  if pageAsked s fn pasid p then s
  else
    let g := newGroup s fn
    emit { s with priOut := s.priOut ++ [⟨fn, pasid, p, g⟩] } fn (.pageRequest fn (4096 * p) pasid g)

/-- Mark a command's stream as waiting for a translation, or not. -/
def setXlate (s : State) (t : Nat) (b : Bool) : State := setStream s t fun x => { x with xlate := b }

/-- R415, R416: a miss goes to the Points processor. -/
def askPoints (s : State) (t : Nat) (c : Cmd) (va : Nat) (dtc : Bool) : State :=
  setXlate (askMiss s ⟨.stream t, c.ctx, va, isExpress c.slot, dtc⟩) t true

/-- Take the token of the current tile, when the fetch side does not hold it. -/
def beginTile (s : State) (t : Nat) (c : Cmd) (st : Stream) : State :=
  if st.fetchTiles.contains st.tile then s
  else setStream (takeToken s c.core c.slot) t fun x => { x with fetchTiles := x.fetchTiles ++ [x.tile] }

/-- A request of a command. -/
def newReq (s : State) (t : Nat) (c : Cmd) (tile va : Nat) (kind : ReqKind) (target : Target) (wp : Nat) : LineReq where
  id := s.nextReq
  tag := t
  core := c.core
  slot := c.slot
  ctx := c.ctx
  kind := kind
  tile := tile
  va := va
  cls := if isExpress c.slot then 0 else 1
  wp := wp
  target := target
  data := []
  poison := []
  stage := .issued
  code := 0

/-- A line request goes out; a read of host memory goes to the link (R441, R442). -/
def pushReq (s : State) (r : LineReq) : State :=
  let s := { s with reqs := s.reqs ++ [r], nextReq := s.nextReq + 1 }
  match r.kind, r.target with
  | .read, .host fn a _ => emit s fn (.read fn a 128 (hostAttr s r.ctx true))
  | _, _ => s

/-- The words of line `l` that the rows of the current tile write, from staging, later rows last (R229):
each place in the line with its bytes and poison. -/
def stagedWords (k : Core) (st : Stream) (l : Nat) : List (Nat × List Byte × Bool) :=
  (rowsOn st l).flatMap fun r =>
    (List.range (st.rowb / 16)).filterMap fun w =>
      let va := rowWord r.2 w
      if va / 128 = l then
        let a := stageAddr st r.1 + 16 * w
        some (va / 16 % 8, lsRead k a 16, spGet false (a / 16) k.lsPoison)
      else none

/-- The line write those words make: bytes with their enables, and the poison of each word. -/
def lineData (ws : List (Nat × List Byte × Bool)) : List (Option Byte) × List Bool :=
  let last (p : Nat) : Option (List Byte × Bool) := (ws.reverse.find? fun e => e.1 == p).map (·.2)
  ((List.range 8).flatMap fun p =>
      match last p with
      | some (bs, _) => bs.map some
      | none => List.replicate 16 none,
   (List.range 8).map fun p => ((last p).map (·.2)).getD false)

/-- Step to the next line of a stream. -/
def stepLine (st : Stream) : Stream :=
  if st.line + 1 < (tileLines st st.tile).length then { st with line := st.line + 1 }
  else { st with line := 0, tile := st.tile + 1 }

/-- Rows of tile `k` that were not lost. -/
def goodRows (st : Stream) (k : Nat) : Nat :=
  (tileRows st k).countP fun r => !st.lost.contains r.1

/-- R232: a write stream's tile is over once every write of it has been issued and accepted. -/
def writeTileDone (s : State) (t k : Nat) : State :=
  match tagCmd s t with
  | some c =>
    match c.stream with
    | some st =>
      if isWrite c && k < st.tile && st.fetchTiles.contains k
          && !(s.reqs.any fun r => r.tag == t && r.tile == k) then
        let s := freeFetch s c.core c.slot 1
        let s := setStream s t fun x =>
          { x with fetchTiles := x.fetchTiles.filter (· != k), done := x.done + 1,
                   rowsDone := x.rowsDone + goodRows x k }
        if streamTiles st ≤ st.done + 1 then retireStream s t else s
      else s
    | none => s
  | none => s

/-- Count a request to a HOST granule (R436). -/
def hostCounted (s : State) (c : Cmd) (va : Nat) : Option (Nat × Nat) → State
  | some (seg, k) => countHost s c.ctx seg k va
  | none => s

/-- A line whose data never comes: a read of an absent granule or page under POISON_FLOW (Table 6.7). -/
def pushPoisoned (s : State) (t : Nat) (c : Cmd) (st : Stream) (va : Nat) : State :=
  let (d, s) := drawBytes s 128
  let r := newReq s t c st.tile va .read (.dev 0) 3
  let s := pushReq s { r with data := d.map some, poison := List.replicate 8 true, stage := .ready }
  modCmd s t fun c => { c with poison := true }

/-- The target and policy of a translated line. -/
def targetOf : LineXl → Target × Nat × Option (Nat × Nat)
  | .dev pa wp => (.dev pa, wp, none)
  | .host fn iova g => (.host fn iova g, 3, g)
  | _ => (.dev 0, 3, none)

/-- Post the faults of the rows that a flowing write loses (Table 6.7). -/
def loseFaults (s : State) (c : Cmd) : List Nat → State
  | [] => s
  | l :: ls =>
    match lineXl s c.core c.slot c.ctx (128 * l) true with
    | .absent seg k => loseFaults (faultRecord s c.ctx seg k (128 * l) true (isExpress c.slot) false) c ls
    | .page fn x iova => loseFaults (requestPage s fn x iova) c ls
    | _ => loseFaults s c ls

/-- Issue line `l`, whose lines all translate. -/
def pushLine (s : State) (t : Nat) (c : Cmd) (st : Stream) (l : Nat) : State :=
  let va := 128 * l
  if isWrite c then
    let lost := if haltSave c then [] else rowsLost s c st l
    let needed := if haltSave c then [] else rowsLines st l
    let st := { st with lost := st.lost ++ lost }
    let s := if lost.isEmpty then s
      else modCmd (setStream (loseFaults s c needed) t fun x => { x with lost := st.lost }) t
        fun c => { c with poison := true }
    let (en, ps) := lineData (stagedWords (getCore s c.core) st l)
    if (rowsOn st l).isEmpty then s
    else
      let (g, wp, gran) := targetOf (lineXl s c.core c.slot c.ctx va true)
      let s := hostCounted s c va gran
      pushReq s { newReq s t c st.tile va .write g wp with data := en, poison := ps }
  else
    let (g, wp, gran) := targetOf (lineXl s c.core c.slot c.ctx va false)
    let s := hostCounted s c va gran
    pushReq s (newReq s t c st.tile va .read g wp)

/-- After a line: the next one, the FQ entry, and a tile that needed no write. -/
def afterLine (s : State) (t : Nat) (st : Stream) : State :=
  let s := setStream s t stepLine
  writeTileDone (releaseFq s t) t st.tile

/-- The next local line of a stream. -/
def issueLine (s : State) (t : Nat) (c : Cmd) (st : Stream) (l : Nat) : State :=
  match writeEnds s c st l, blocker s c (needLines c st l) with
  | some e, none | some e, some (_, .fault) => failStream s t e
  | _, b => match b with
  | some (_, .fault) => failStream s t codeSegFault
  | some (va, .dtc _ _) => askPoints s t c va true
  | some (_, .ats fn x iova) => setXlate (askAts s fn x iova) t true
  | some (va, .absent seg k) =>
    let s := faultRecord s c.ctx seg k va (isWrite c) (isExpress c.slot) (haltSave c)
    if haltSave c then haltStream s t c st (.granule c.ctx seg k) va
    else afterLine (pushPoisoned (beginTile s t c st) t c st va) t st
  | some (va, .page fn x iova) =>
    if !priUp s fn then failStream s t codeSegFault
    else
      let s := requestPage s fn x iova
      if haltSave c then haltStream s t c st (.page fn x (iova / 4096)) va
      else afterLine (pushPoisoned (beginTile s t c st) t c st va) t st
  | some _ => s
  | none =>
    afterLine (pushLine (beginTile s t c st) t c st l) t st

/-- R390, R429: a CMAINT's next line, or its end when its range is empty. A line of an absent granule records its fault and is
passed over (DEDUCED, log 17), one of a host target is passed over. -/
def issueMaint (s : State) (t : Nat) (c : Cmd) : State :=
  let va := maintVa c
  let next (s : State) : State :=
    let s := releaseFq (modCmd s t fun c => { c with unit := c.unit + 1 }) t
    if c.blk.w2 ≤ 128 * (c.unit + 1) && !(s.reqs.any fun r => r.tag == t) then retireStream s t else s
  if c.blk.w2 = 0 then retireStream s t
  else
    match lineXl s c.core c.slot c.ctx va false with
    | .fault => failStream s t codeSegFault
    | .dtc _ _ => askPoints s t c va true
    | .dev pa wp =>
      let r := newReq s t c 0 va (.maint (bitsOf c.blk.w3 0 2)) (.dev pa) wp
      next (pushReq s { r with cls := bitsOf c.blk.w3 8 3 })
    | .absent seg k => next (faultRecord s c.ctx seg k va false (isExpress c.slot) false)
    | _ => next s

/-- R527: the entries of one piece (Table 13.8). -/
def pieceData (b : Bag) (h p : Nat) : List Byte :=
  (((inShard b h).drop (p * entriesPerPacket)).take entriesPerPacket).flatMap fun k =>
    leBytes 5 k.2.2.1 ++ leBytes 2 k.1 ++ leBytes 1 0 ++ leBytes 4 k.2.2.2.toNat

/-- R527: send the next pool-at-home request. -/
def sendPiece (s : State) (t : Nat) (c : Cmd) (d : TableDesc) (q : Nat × Nat × Nat × Nat) : State :=
  let (b, h, p, n) := q
  let bag := (c.bags[b]?).getD ⟨0, 0, 0, 0, [], 0, false⟩
  let k := requestPacket s t c 3 (d.devs.getD h 0)
  let exact := c.blk.ex || fmtIsInt d.fmt
  let k := { k with exm := exact, data := pieceData bag h p,
                    args := { table := d.id, shard := h, mode := c.blk.w3, fmt := fmtCode d.fmt, bag := b,
                              piece := p, pieces := n, rstep := if d.train then d.rstep else 0 } }
  let s := modCmd s t fun c => { c with remoteQ := c.remoteQ.drop 1 }
  releaseFq (sendRequest s t c k b h p 0) t

/-- Table 7.5: the record of a contribution with its gradient. -/
def recordBytes (x : Contribution) : List Byte :=
  leBytes 4 x.step ++ leBytes 2 x.ldev ++ leBytes 1 x.lcore ++ leBytes 1 (x.replay.toNat + 2 * x.bf16.toNat)
    ++ leBytes 4 x.bag ++ leBytes 2 x.pos ++ leBytes 2 x.table ++ leBytes 8 x.row ++ leBytes 8 0

/-- The gradient of a contribution, as its sender's format gives it. -/
def gradBytes (x : Contribution) : List Byte :=
  x.grad.flatMap fun g => if x.bf16 then leBytes 2 (g.toNat / 65536) else leBytes 4 g.toNat

/-- Poison of the 16-byte words of that gradient. -/
def gradPoison (x : Contribution) : List Bool :=
  let k := if x.bf16 then 8 else 4
  (chunks k (x.grad.length + 1) x.poison).map fun g => g.any id

/-- R287, R205: send the next contribution: to a home of this device, or over the fabric. -/
def sendContribution (s : State) (t : Nat) (c : Cmd) (d : TableDesc) (x : Contribution) : State :=
  let dst := d.devs.getD x.shard 0
  let s := modCmd s t fun c => { c with outbox := c.outbox.drop 1, doneN := c.doneN + 1 }
  let s :=
    if dst = selfId s then
      modCmd { s with mergeNet := s.mergeNet ++ [x] } t fun c => { c with waiting := c.waiting + 1 }
    else
      let k := requestPacket s t c 4 dst
      sendRequest s t c { k with data := recordBytes x ++ gradBytes x, poison := [false, false] ++ gradPoison x,
                                 args := { table := x.table, shard := x.shard } } 0 x.shard 0 x.pos
  let tiles := (c.stream.map fun st => st.fetchTiles.length).getD 0
  let s := if c.outbox.length ≤ 1 then
      setStream (freeFetch s c.core c.slot tiles) t fun st =>
        { st with fetchTiles := [], done := st.done + st.fetchTiles.length }
    else s
  releaseFq s t

/-- The next request to another home. -/
def issueRemote (s : State) (t : Nat) (c : Cmd) : State :=
  match c.table, c.remoteQ, c.outbox with
  | some d, q :: _, _ => sendPiece s t c d q
  | some d, [], x :: _ => sendContribution s t c d x
  | _, _, _ => s

/-- Count the indices a bag list dropped (R279). -/
def countDrops (s : State) (c : Cmd) : State :=
  if c.drops = 0 then s else bump s .dspIdxdrop 0 c.ctx 0 c.drops

/-- Read a command's descriptors (R179, R227, R273), unless they have been read. -/
def setup (s : State) (t : Nat) (c : Cmd) : State :=
  if c.ready then s
  else
    match setupCmd s c with
    | .bad e => retire (modCmd s t fun c => { c with code := e }) t
    | .ok d =>
      let s := releaseFq (countDrops (modCmd s t fun _ => d) d) t
      if scaddOver d && (d.stream.map (·.rows.isEmpty)).getD false then retireStream s t else s

/-- One event of the fetch engine for a command. -/
def issueStep (s : State) (t : Nat) (remote : Bool) : State :=
  match tagCmd s t with
  | none => s
  | some c =>
    if remote then issueRemote s t c
    else
      match c.op, c.stream with
      | .block .cmaint, _ => issueMaint s t c
      | .block .scadd, _ => s
      | _, some st =>
        match nextLine st with
        | some l => issueLine s t c st l
        | none => s
      | _, none => s

/-- R235: read the descriptors first; then a request leaves if it can. -/
def issueRequest (s : State) (t : Nat) (c : Cmd) (remote : Bool) : State :=
  if windowWaits c then windowRequest s t c (c.op == .block .wwrite)
  else if c.ready then issueStep s t remote
  else
    let s := setup s t c
    match tagCmd s t with
    | some d => if d.ready && requestReady s t d remote then issueStep s t remote else s
    | none => s

/-- The fetch engine of the command's core may issue now. -/
def requestDue (s : State) (t : Nat) (remote : Bool) : Bool :=
  match tagCmd s t with
  | some c =>
    ((getSlot s c.core c.slot).fq.contains t || windowWaits c) && enginesRun s c.core && requestReady s t c remote
      && (isExpress c.slot || !expressAhead s c.core)
  | none => false

def lineRequestIssue (s : State) (t : Nat) (remote : Bool) : State :=
  match tagCmd s t with
  | some c => issueRequest s t c remote
  | none => s

def execLineRequestIssue (tag : Fin 4096) (remote : Bool) (s : State) : Res :=
  whenDue (requestDue s tag.val remote) s (.next (lineRequestIssue s tag.val remote))

/-! ### Arrivals in staging (R232, R262) -/

def findReq (s : State) (id : Nat) : Option LineReq := s.reqs.find? fun r => r.id == id

/-- A request that has been answered is over. -/
def dropReq (s : State) (id : Nat) : State := atsSweep { s with reqs := s.reqs.filter fun r => r.id != id }

/-- The words of line `l` that the rows of stream tile `k` hold. -/
def wordsUsed (st : Stream) (k l : Nat) : List Nat :=
  (tileRows st k).flatMap fun r =>
    (List.range (st.rowb / 16)).filterMap fun w =>
      if rowWord r.2 w / 128 = l then some (rowWord r.2 w / 16 % 8) else none

/-- Land the words of a line in the staging buffer of tile `k`. -/
def landLine (c : Core) (st : Stream) (k l : Nat) (bs : List Byte) (ps : List Bool) : Core :=
  (tileRows st k).foldl (fun c r =>
    (List.range (st.rowb / 16)).foldl (fun c w =>
      let va := rowWord r.2 w
      if va / 128 = l then
        let p := va / 16 % 8
        lsWrite c (stageAddr st r.1 + 16 * w) ((bs.drop (16 * p)).take 16) (ps.getD p false)
      else c) c) c

/-- R232: every line of a tile has arrived and its token passes to the execute engine. -/
def tileArrived (s : State) (t k : Nat) : State :=
  match tagCmd s t with
  | some c =>
    match c.stream with
    | some st =>
      if k < st.tile && st.fetchTiles.contains k && !(s.reqs.any fun r => r.tag == t && r.tile == k) then
        setStream (passToken s c.core c.slot) t fun x =>
          { x with fetchTiles := x.fetchTiles.filter (· != k), execTiles := x.execTiles ++ [k] }
      else s
    | none => s
  | none => s

/-- The last line of a CMAINT has been served. -/
def maintOver (s : State) (t : Nat) : State :=
  match tagCmd s t with
  | some c =>
    if c.op == .block .cmaint && c.ready && c.blk.w2 ≤ 128 * c.unit && !(s.reqs.any fun r => r.tag == t) then
      retireStream s t
    else s
  | none => s

/-- A line with its data reaches its command. -/
def arriveLine (s : State) (r : LineReq) (bs : List Byte) (ps : List Bool) : State :=
  let s := dropReq s r.id
  match tagCmd s r.tag with
  | none => s
  | some c =>
    match r.kind, c.stream with
    | .maint _, _ =>
      maintOver (modCmd s r.tag fun c => { c with detail := c.detail + (if r.code = 0 then 0 else 1) }) r.tag
    | .read, some st =>
      let s := modCore s c.core fun k => landLine k st r.tile (r.va / 128) bs ps
      let bad := (wordsUsed st r.tile (r.va / 128)).any fun w => ps.getD w false
      let s := modCmd s r.tag fun c => { c with poison := c.poison || bad }
      tileArrived s r.tag r.tile
    | _, _ => s

/-- R442: a host read that the host refused. -/
def hostRefused (s : State) (r : LineReq) (fn iova : Nat) : State :=
  failStream (post s .hostAbort 7 fn (some r.ctx) 0 iova) r.tag codeSegFault

/-- The data of a line: from its slice, or from the host. -/
def lineArrival (s : State) (r : LineReq) (h : HostReply) : State :=
  match r.target, r.stage with
  | _, .ready => arriveLine s r (r.data.map fun b => b.getD 0#8) r.poison
  | .host fn iova _, _ =>
    match h with
    | .data bs bad =>
      let s := if bad then aerReport s fn .poisonedTlp else s
      arriveLine s r (padTo 128 (bs.take 128)) (List.replicate 8 bad)
    | .unsupported | .aborted => hostRefused s r fn iova
  | _, _ => s

/-- A read can arrive: its slice has it ready, or the host answers. -/
def arrivalDue (r : LineReq) : Bool :=
  reqReads r && r.code != 2 &&
    (match r.target, r.stage with
     | _, .ready => true
     | .host .., _ => true
     | _, _ => false)

/-- R445: the data of a host read whose command has ended reaches no one. -/
def orphanReturns (s : State) (id : Nat) : State :=
  if s.host.orphans.contains id then
    atsSweep { s with host := { s.host with orphans := s.host.orphans.filter (· != id) } }
  else s

/-- `host`: what the host returned, used only for a line of host memory. -/
def execLineArrival (id : Nat) (host : HostReply) (s : State) : Res :=
  match findReq s id with
  | none => .next (orphanReturns s id)
  | some r => whenDue (arrivalDue r) s (.next (lineArrival s r host))

/-! ### Accepted writes (R232, R236, R391) -/

/-- The runs of enabled bytes of a line write from byte `o` on, none of which crosses from a clean word to a poisoned one:
offset, bytes and poison. -/
def enabledRuns (ps : List Bool) : List (Option Byte) → Nat → List (Nat × List Byte × Bool)
  | [], _ => []
  | none :: bs, o => enabledRuns ps bs (o + 1)
  | some b :: bs, o =>
    let bad := ps.getD (o / 16) false
    match enabledRuns ps bs (o + 1) with
    | (p, r, q) :: rs => if p = o + 1 && q == bad then (o, b :: r, bad) :: rs else (o, [b], bad) :: (p, r, q) :: rs
    | [] => [(o, [b], bad)]

/-- A write to host memory is posted in order, the poisoned words with EP (R253, R257, R482). -/
def postRuns (rank : Nat) (s : State) (fn a : Nat) (attr : TlpAttr) : List (Nat × List Byte × Bool) → State
  | [] => s
  | (o, bs, bad) :: rs => postRuns rank (emitAt rank s fn (.write fn (a + o) bs bad attr)) fn a attr rs

def postLine (s : State) (r : LineReq) : State :=
  match r.target with
  | .host fn iova _ => postRuns (postRank (isExpress r.slot)) s fn iova (hostAttr s r.ctx true) (enabledRuns r.poison r.data 0)
  | .dev _ => s

/-- A write is accepted: at its slice, by the memory controller, or by the endpoint. -/
def acceptLine (s : State) (r : LineReq) : State :=
  let s := dropReq (postLine s r) r.id
  let s := modCmd s r.tag fun c => { c with poison := c.poison || r.poison.any id }
  match r.kind with
  | .maint _ => maintOver (modCmd s r.tag fun c => { c with detail := c.detail + 1 }) r.tag
  | _ => writeTileDone s r.tag r.tile

/-- R229: host writes of one command leave in the order they were issued. -/
def hostTurn (s : State) (r : LineReq) : Bool :=
  !(s.reqs.any fun q => q.tag == r.tag && q.kind == .write && q.id < r.id && match q.target with
    | .host .. => true
    | .dev _ => false)

/-- The write has been performed, or goes to the host. -/
def acceptDue (s : State) (r : LineReq) : Bool :=
  (r.kind == .write || r.code == 2) &&
    (match r.target, r.stage with
     | .host .., _ => hostTurn s r
     | _, .ready => true
     | _, _ => false)

def execLineWriteAccepted (id : Nat) (s : State) : Res :=
  match findReq s id with
  | none => .next s
  | some r => whenDue (acceptDue s r) s (.next (acceptLine s r))

/-! ### Resuming (R266, R268, R432) -/

/-- The granule or page a halted stream waits for is there. -/
def waitOver (s : State) : WaitOn → Bool
  | .granule ctx seg k => !(s.pend.contains ⟨ctx, seg, k⟩)
  | .page fn x p => !(pageAsked s fn x p)

def resumeDue (s : State) (t : Nat) : Bool :=
  match (tagCmd s t).bind (·.stream) with
  | some st =>
    (match st.halted with
     | some (_, w) => waitOver s w
     | none => false)
  | none => false

/-- R268: STATE of the stream-state block becomes 2. -/
def ssbResumed (k : Core) (list : Nat) : Core :=
  lsWrite k (list + 32) (leBytes 1 (lsNat k (list + 32) 1 / 4 * 4 + 2)) false

def resumeStream (s : State) (t : Nat) : State :=
  match tagCmd s t with
  | some c =>
    match c.stream with
    | some st =>
      let s := if c.op == .block .gpool then s else modCore s c.core fun k => ssbResumed k st.list
      setStream s t fun x => { x with halted := none }
    | none => s
  | none => s

end Sys2Proof.Machine
end

