-- ==== Sys2Proof/Machine/Cache.lean ====
section
/-! DEFINITION. The row-cache slices: line requests, misses, prefetch lines, way commands, sweeps and errors
(spec/10). -/

namespace Sys2Proof.Machine

/-! ### Line requests at their slice (R378 to R391) -/

def setReq (s : State) (r : LineReq) : State :=
  { s with reqs := s.reqs.map fun q => if q.id == r.id then r else q }

/-- A read whose data is at hand. -/
def readyWith (r : LineReq) (c : CLine) : LineReq :=
  { r with stage := .ready, data := c.data.map some, poison := c.poison }

/-- The open miss entry of a line. -/
def openMissOf (c : Slice) (l : Nat) : Option Miss := c.misses.find? fun m => m.l == l

/-- R387: the line waits, as a victim, for the memory controller. -/
def victimWaits (c : Slice) (l : Nat) : Bool := c.misses.any fun m => (m.victim.map (·.l)) == some l

/-- R386: take a miss entry, and the way chosen when there is one. -/
def openMiss (s : State) (i : Nat) (c : Slice) (l : Nat) (w : Nat) (fill : Option CLine) (ws : List Nat) : State :=
  let k := lineKey w (setOf c.salt l)
  let victim := (spGet none k c.lines).filter (·.dirty)
  let m : Miss := ⟨l, some k, victim, fill, true, ws⟩
  let c := putLine c k none
  let s := setSlice s i { c with misses := c.misses ++ [m] }
  let s := if victim.isSome then bump s .rcEvictdirty i 0 0 1 else s
  if fill.isSome then installMiss s i m else s

/-- A read that misses (Table 10.2). -/
def sliceReadMiss (s : State) (i : Nat) (r : LineReq) (l : Nat) : State :=
  let s := countLookup s i r.cls false
  if !readAllocates r.wp then setReq s (readyWith r (hbmLine s l))
  else
    let (w, c) := allocate s (getSlice s i) r.cls false l
    match w with
    | none => setReq (setSlice s i c) (readyWith r (hbmLine s l))
    | some w => setReq (openMiss s i c l w none [r.id]) { r with stage := .missing }

/-- A write that misses (Table 10.2). -/
def sliceWriteMiss (s : State) (i : Nat) (r : LineReq) (l : Nat) : State :=
  let s := countLookup s i r.cls false
  let done := { r with stage := .ready }
  if r.wp != 0 then setReq (hbmWrite s l r.data r.poison) done
  else
    let (w, c) := allocate s (getSlice s i) r.cls false l
    match w with
    | none => setReq (hbmWrite (setSlice s i c) l r.data r.poison) done
    | some w =>
      if r.data.all (·.isSome) then
        let x := { mergeLine ⟨l, true, List.replicate 128 0#8, List.replicate 8 false⟩ r.data r.poison with dirty := true }
        setReq (openMiss s i c l w (some x) []) done
      else setReq (openMiss s i c l w none [r.id]) { r with stage := .missing }

/-- R390, Table 10.5: a CMAINT line at its slice. CODE of the request is 0 when the line is unaffected, 1 when
it is affected, 2 when it was also written to memory. -/
def sliceMaint (s : State) (i : Nat) (r : LineReq) (l opn : Nat) : State :=
  let c := getSlice s i
  let done (code : Nat) : LineReq := { r with stage := .ready, code := code }
  match lookup c l with
  | some (w, x) =>
    let k := lineKey w (setOf c.salt l)
    if opn = 0 then
      (if x.dirty then setReq (hbmPut (setSlice s i (putLine c k (some { x with dirty := false }))) x) (done 2)
       else setReq s (done 0))
    else if opn = 1 then setReq (setSlice s i (putLine c k none)) (done 1)
    else if opn = 2 then
      (if x.dirty then setReq (hbmPut (setSlice s i (putLine c k none)) x) (done 2)
       else setReq (setSlice s i (putLine c k none)) (done 1))
    else setReq s (done 0)
  | none =>
    if opn != 3 then setReq s (done 0)
    else
      let (w, c) := allocate s c r.cls true l
      match w with
      | none => setReq (setSlice s i c) (done 0)
      | some w => setReq (openMiss s i c l w none [r.id]) { r with stage := .missing, code := 1 }

/-- R380, R388: a request that has passed its check, at an enabled slice. -/
def sliceServe (s : State) (i : Nat) (r : LineReq) (l : Nat) : State :=
  let c := getSlice s i
  match openMissOf c l with
  | some m =>
    let s := countLookup (setReq s { r with stage := .missing }) i r.cls false
    match m.fill with
    | some x =>
      let (m, s) := serveMiss s x { m with waiters := [r.id] }
      putMiss s i m
    | none => putMiss s i { m with waiters := m.waiters ++ [r.id] }
  | none =>
    match r.kind with
    | .maint o => sliceMaint s i r l o
    | .read =>
      match lookup c l with
      | some (_, x) => setReq (countLookup s i r.cls true) (readyWith r x)
      | none => sliceReadMiss s i r l
    | .write =>
      match lookup c l with
      | some (w, x) =>
        let s := countLookup s i r.cls true
        let (y, s) := writeHit s x r.wp (wayState c w == 3) r.data r.poison
        setReq (setSlice s i (putLine (getSlice s i) (lineKey w (setOf c.salt l)) y)) { r with stage := .ready }
      | none => sliceWriteMiss s i r l

/-- R377: with the cache disabled the memory controller serves the request. -/
def memoryServe (s : State) (r : LineReq) (l : Nat) : State :=
  match r.kind with
  | .read => setReq s (readyWith r (hbmLine s l))
  | .write => setReq (hbmWrite s l r.data r.poison) { r with stage := .ready }
  | .maint _ => setReq s { r with stage := .ready }

/-- R447: a request that fails its ownership check: lines poisoned, writes discarded. -/
def ownRefused (s : State) (r : LineReq) (pa : Nat) : State :=
  let s := mismatchRecord s ⟨some r.ctx, r.cls, r.wp⟩ pa
  let s := modCmd s r.tag fun c => { c with poison := true }
  match r.kind with
  | .read =>
    let (c, s) := poisonLine s (pa / 128)
    setReq s (readyWith r c)
  | _ => setReq s { r with stage := .ready }

/-- A line request reaches its slice, or its memory controller. -/
def atSlice (s : State) (r : LineReq) (pa : Nat) : State :=
  match ownCheck s (some r.ctx) pa with
  | .mismatch => ownRefused s r pa
  | .failed => failStream s r.tag codeGranuleFailed
  | .pass =>
    if cacheEnabled s then sliceServe s (sliceOf (pa / 128)) r (pa / 128) else memoryServe s r (pa / 128)

/-- R229, R380: requests of one command to one line reach it in the order they were issued. -/
def lineTurn (s : State) (r : LineReq) (pa : Nat) : Bool :=
  s.reqs.all fun q => !(q.tag == r.tag && q.id < r.id && q.stage == .issued &&
    (match q.target with
     | .dev p => p / 128 == pa / 128
     | .host .. => false))

/-- CMAINT other than FILL takes no miss entry. -/
def takesEntry : ReqKind → Bool
  | .maint o => o == 3
  | _ => true

/-- R385: the request is a miss that finds no free entry. -/
def noEntry (s : State) (r : LineReq) (l : Nat) : Bool :=
  let c := getSlice s (sliceOf l)
  cacheEnabled s && takesEntry r.kind && (lookup c l).isNone && (openMissOf c l).isNone && missesFull c

/-- R387, R390: the request waits for a victim's acceptance, or, as a CMAINT, for an open miss of its line. -/
def lineBusy (s : State) (r : LineReq) (l : Nat) : Bool :=
  let c := getSlice s (sliceOf l)
  let mt := match r.kind with
    | .maint _ => true
    | _ => false
  cacheEnabled s && (victimWaits c l || (mt && (openMissOf c l).isSome))

/-- R385: another request waits at the ingress before this one. -/
def behind (s : State) (c : Slice) (r : LineReq) : Bool :=
  match c.ingress.find? fun i => s.reqs.any fun q => q.id == i && q.stage == .issued with
  | some i => i != r.id
  | none => false

/-- The request joins the ingress, unless it waits there already. -/
def joinIngress (s : State) (i : Nat) (r : LineReq) : State :=
  modSlice s i fun c => if c.ingress.contains r.id then c else { c with ingress := c.ingress ++ [r.id] }

def leaveIngress (s : State) (i : Nat) (r : LineReq) : State :=
  modSlice s i fun c => { c with ingress := c.ingress.filter (· != r.id) }

def sliceDue (s : State) (r : LineReq) : Bool :=
  match r.target with
  | .dev pa => r.stage == .issued && planeUp s && lineTurn s r pa && !lineBusy s r (pa / 128)
  | .host .. => false

/-- A line request at its slice: it is served, or waits at the ingress. -/
def sliceStep (s : State) (r : LineReq) : State :=
  match r.target with
  | .dev pa =>
    let i := sliceOf (pa / 128)
    if behind s (getSlice s i) r || noEntry s r (pa / 128) then joinIngress s i r else atSlice (leaveIngress s i r) r pa
  | .host .. => s

def execLineRequestAtSlice (id : Nat) (s : State) : Res :=
  match findReq s id with
  | none => .next s
  | some r => whenDue (sliceDue s r) s (.next (sliceStep s r))

/-- R386, R388: the fill data of an open miss arrives. -/
def fillArrival (s : State) (i : Nat) (m : Miss) : State :=
  let (m, s) := arriveFill s m
  installMiss s i m

def execMissFillArrival (slice : Fin 20) (l : Nat) (s : State) : Res :=
  match openMissOf (getSlice s slice.val) l with
  | none => .next s
  | some m => whenDue m.fill.isNone s (.next (fillArrival s slice.val m))

/-- R386 step 4: the memory controller has the dirty victim. -/
def victimAccepted (s : State) (i : Nat) (m : Miss) : State :=
  let (s, m) := acceptVictim s m
  installMiss s i m

def execVictimWriteAccept (slice : Fin 20) (l : Nat) (s : State) : Res :=
  match openMissOf (getSlice s slice.val) l with
  | none => .next s
  | some m => whenDue m.victim.isSome s (.next (victimAccepted s slice.val m))

/-! ### Prefetch lines (R212, R389) -/

/-- A prefetch line at a slice that does not discard it. -/
def prefetchFill (s : State) (i : Nat) (h : Hint) : State :=
  let l := h.pa / 128
  let s := countLookup s i 7 false
  if !readAllocates h.wp then s
  else
    let (w, c) := allocate s (getSlice s i) 7 false l
    match w with
    | none => setSlice s i c
    | some w => openMiss s i c l w none []

/-- R389: the slice discards the line. -/
def prefetchDrops (s : State) (h : Hint) : Bool :=
  let l := h.pa / 128
  let c := getSlice s (sliceOf l)
  (lookup c l).isSome || (openMissOf c l).isSome || 192 < c.misses.length

def prefetchLine (s : State) (h : Hint) : State :=
  let i := sliceOf (h.pa / 128)
  if !cacheEnabled s then s
  else
    match ownCheck s (some h.ctx) h.pa with
    | .mismatch => mismatchRecord s ⟨some h.ctx, 7, h.wp⟩ h.pa
    | .failed => s
    | .pass => if prefetchDrops s h then bump s .rcPfdrop i 0 0 1 else prefetchFill s i h

/-- R387: the line waits, as a victim, for the memory controller. -/
def prefetchWaits (s : State) (h : Hint) : Bool :=
  cacheEnabled s && victimWaits (getSlice s (sliceOf (h.pa / 128))) (h.pa / 128) && !prefetchDrops s h

/-- The prefetches that wait at a slice. -/
def hintsAt (s : State) (i : Nat) : List Hint := s.hints.filter fun h => sliceOf (h.pa / 128) == i

/-- `k`: which of the prefetches that wait at the slice. -/
def execPrefetchLine (slice : Fin 20) (k : Nat) (s : State) : Res :=
  match (hintsAt s slice.val)[k]? with
  | none => .next s
  | some h =>
    whenDue (planeUp s && !prefetchWaits s h) s (.next (prefetchLine { s with hints := s.hints.erase h } h))

/-! ### Way commands (R392 to R396) -/

/-- RC_CMDSTAT: code, first failing slice and way, DONE. -/
def setCmdstat (s : State) (code slice way : Nat) : State :=
  setReg s .rcCmdstat 0 0 0 (BitVec.ofNat 64 (code + 16 * slice + 4096 * way + 2 ^ 31))

/-- Why way `w` cannot take command `op` (Tables 10.7, 10.8); 0 when it can. -/
def wayRefuses (c : Slice) (op w : Nat) : Nat :=
  let st := wayState c w
  if op = 1 then (if st = 1 then 0 else 2)
  else if op = 2 then
    (if st != 1 then 2 else if !c.inv.getLsbD w then 1 else if c.fenced.getLsbD w then 4
     else if c.faultUe.getLsbD w then 3 else 0)
  else if op = 3 then (if st = 2 then 0 else 2)
  else if op = 4 then (if st = 2 || st = 1 then 0 else 2)
  else if st = 0 then 0 else 2

/-- The first refusal in ascending slice and then ascending way. -/
def firstRefusal (s : State) (op : Nat) (ways : BitVec 16) (slices : Nat) : Option (Nat × Nat × Nat) :=
  ((List.range 20).flatMap fun i => (List.range 16).filterMap fun w =>
    if slices.testBit i && ways.getLsbD w then
      let e := wayRefuses (getSlice s i) op w
      if e = 0 then none else some (e, i, w)
    else none).head?

def clearBit (v : BitVec 16) (w : Nat) : BitVec 16 := v &&& ~~~(1#16 <<< w)
def setBit16 (v : BitVec 16) (w : Nat) : BitVec 16 := v ||| (1#16 <<< w)

/-- Drop every line of a way. -/
def dropWay (c : Slice) (w : Nat) : Slice := { c with lines := c.lines.filter fun e => e.1 / 8192 != w }

/-- R394: a way enters CLEANING, for a cause: 0 a command or fence, 1 the corrected threshold, 2 an
uncorrectable error (R401). -/
def startClean (c : Slice) (w cause : Nat) : Slice :=
  { setWay c w 3 with swept := spSet 0 w 0 c.swept, cause := spSet 0 w cause c.cause, sweepAt := spSet 0 w 0 c.sweepAt }

/-- Table 10.7: the effect of a command on one way. -/
def wayApply (op : Nat) (c : Slice) (w : Nat) : Slice :=
  if op = 1 then { dropWay c w with inv := setBit16 c.inv w }
  else if op = 2 then
    { setWay c w 2 with inv := clearBit c.inv w, faultCe := clearBit c.faultCe w, ce := spSet 0 w 0 c.ce }
  else if op = 3 then { startClean c w 0 with toOff := clearBit c.toOff w }
  else if op = 4 then
    (if wayState c w = 2 then { startClean c w 0 with toOff := setBit16 c.toOff w }
     else setWay (dropWay c w) w 0)
  else { setWay c w 1 with inv := clearBit c.inv w }

def waysApply (op : Nat) (ways : BitVec 16) (c : Slice) : Slice :=
  (List.range 16).foldl (fun c w => if ways.getLsbD w then wayApply op c w else c) c

def slicesApply (s : State) (op : Nat) (ways : BitVec 16) (slices : Nat) : State :=
  (List.range 20).foldl (fun s i => if slices.testBit i then modSlice s i (waysApply op ways) else s) s

/-- A selected way is still CLEANING. -/
def stillCleaning (s : State) (k : WayCmd) : Bool :=
  (List.range 20).any fun i => k.slices.testBit i &&
    (List.range 16).any fun w => k.ways.getLsbD w && wayState (getSlice s i) w == 3

/-- R396: a command whose every way has made its transition is done. -/
def wayCmdDone (s : State) : State :=
  match s.wayCmd with
  | some k => if k.op != 1 && !stillCleaning s k then setCmdstat { s with wayCmd := none } 0 0 0 else s
  | none => s

/-- A write to RC_CMD (R395, R396). -/
def wayCommand (op : Nat) (ways : BitVec 16) (s : State) : State :=
  if s.wayCmd.isSome then post s .cmdBusy 0 0 none op 0
  else
    let slices := regFld s .rcCmdslice 0 0 0 0 20
    if op = 0 || 5 < op || ways = 0#16 || slices = 0 then setCmdstat s 5 0 0
    else
      match firstRefusal s op ways slices with
      | some (e, i, w) => setCmdstat s e i w
      | none => wayCmdDone (slicesApply { s with wayCmd := some ⟨op, ways, slices⟩ } op ways slices)

def execWayInvalidate (ways : BitVec 16) (s : State) : Res := .next (wayCommand 1 ways s)
def execEnable (ways : BitVec 16) (s : State) : Res := .next (wayCommand 2 ways s)
def execDisable (ways : BitVec 16) (s : State) : Res := .next (wayCommand 3 ways s)
def execPowerDown (ways : BitVec 16) (s : State) : Res := .next (wayCommand 4 ways s)
def execPowerUp (ways : BitVec 16) (s : State) : Res := .next (wayCommand 5 ways s)

/-- An INVALIDATE is under way. -/
def invalidating (s : State) : Bool := (s.wayCmd.map (·.op)) == some 1

def execWayInvalidateComplete (s : State) : Res :=
  whenDue (invalidating s) s (.next (setCmdstat { s with wayCmd := none } 0 0 0))

/-! ### Sweeps and errors (R394, R397 to R401) -/

/-- Write every dirty line of a way to memory. -/
def sweepLines (w : Nat) : List (Nat × Option CLine) → State → State
  | [], s => s
  | (k, v) :: ls, s =>
    sweepLines w ls (match v with
      | some x => if k / 8192 = w && x.dirty then hbmPut s x else s
      | none => s)

def dirtyLines (c : Slice) (w : Nat) : Nat :=
  c.lines.countP fun e => e.1 / 8192 == w && (e.2.map (·.dirty)).getD false

/-- R394: the sweep of a CLEANING way visits its next set: a dirty line is written, and the line invalidated. -/
def sweepSet (s : State) (i w : Nat) : State :=
  let c := getSlice s i
  let x := spGet 0 w c.sweepAt
  if wayState c w != 3 || 8192 ≤ x then s
  else
    let y := lineAt c w x
    let dirty := (y.map (·.dirty)).getD false
    let s := match y with
      | some z => if z.dirty then hbmPut s z else s
      | none => s
    setSlice s i { putLine c (lineKey w x) none with
      sweepAt := spSet 0 w (x + 1) c.sweepAt, swept := spSet 0 w (spGet 0 w c.swept + dirty.toNat) c.swept }

/-- One cycle of every sweep under way. -/
def sweepCycle (s : State) : State :=
  s.slices.foldl (fun s e => (List.range 16).foldl (fun s w => sweepSet s e.1 w) s) s

/-- R394, R401: the sweep of a way visits the sets that are left, and its writes are accepted. The record's UNIT is the slice,
its ARG the way and the cause, and its ADDR the lines written (DESIGN CHOICE, log 44). -/
def sweepDone (s : State) (i w : Nat) : State :=
  let c := getSlice s i
  let n := spGet 0 w c.swept + dirtyLines c w
  let s := sweepLines w c.lines s
  let cause := spGet 0 w c.cause
  let off := c.toOff.getLsbD w
  let c' := { setWay (dropWay c w) w (if off then 0 else 1) with
                toOff := clearBit c.toOff w, swept := spSet 0 w 0 c.swept, cause := spSet 0 w 0 c.cause,
                sweepAt := spSet 0 w 0 c.sweepAt }
  let s := setSlice s i c'
  let s := if cause = 0 then s else post s .wayDisabled 4 i none (w + 65536 * cause) n
  wayCmdDone s

/-- R394: no fill is still pending into the way. -/
def sweepReady (s : State) (i w : Nat) : Bool :=
  let c := getSlice s i
  wayState c w == 3 && !(c.misses.any fun m => (m.place.map (· / 8192)) == some w)

def execSweepComplete (slice : Fin 20) (way : Fin 16) (s : State) : Res :=
  whenDue (sweepReady s slice.val way.val) s (.next (sweepDone s slice.val way.val))

/-- RC_ECCCFG.THRESH, with 0 taken as 1. -/
def eccThresh (s : State) : Nat := max 1 (regFld s .rcEcccfg 0 0 0 0 8)

/-- R398: one corrected error. -/
def correctedError (s : State) (i w : Nat) : State :=
  let s := bump s .rcCorrected i 0 0 1
  let c := getSlice s i
  let n := min 255 (spGet 0 w c.ce + 1)
  let c := { c with ce := spSet 0 w n c.ce }
  if eccThresh s ≤ n then
    let c := { c with faultCe := setBit16 c.faultCe w }
    setSlice s i (if wayState c w = 2 then startClean c w 1 else c)
  else setSlice s i c

/-- The way is powered. -/
def wayOn (s : State) (i w : Nat) : Bool := wayState (getSlice s i) w != 0

/-- R398: every way's count drops by one. -/
def leakTick (s : State) : State :=
  (List.range 20).foldl (fun s i => modSlice s i fun c => { c with ce := spMap 0 (fun _ n => n - 1) c.ce }) s

def execLeakTick (s : State) : Res := .next (leakTick s)

/-- A way in service leaves it with FAULT_UE. -/
def faultWay (c : Slice) (w : Nat) : Slice :=
  let c := { c with faultUe := setBit16 c.faultUe w }
  if wayState c w = 2 then startClean c w 2 else c

/-- The line in a set of a way in use. -/
def heldLine (s : State) (i w x : Nat) : Option CLine :=
  let c := getSlice s i
  if 2 ≤ wayState c w then lineAt c w x else none

/-- R399: an uncorrectable error in word `u` of a line. A dirty line goes to memory poisoned, so the request
is served poisoned data; a clean one is served again from memory. -/
def dataError (s : State) (i w x u : Nat) : State :=
  let c := getSlice s i
  let s := match heldLine s i w x with
    | some y => if y.dirty then hbmPut s { y with poison := y.poison.set u true } else s
    | none => s
  setSlice s i (faultWay (putLine c (lineKey w x) none) w)

/-- R400: both copies of a tag are lost. `known`: the dirty bit could be recovered. -/
def tagLost (s : State) (i w x : Nat) (known : Bool) : State :=
  let c := getSlice s i
  let s := setSlice s i (faultWay (putLine c (lineKey w x) none) w)
  postRec s .tagLost (if known then 2 else 3) 4 i none (x + 65536 * w) 0

def execTagLost (slice : Fin 20) (way : Fin 16) (set : Fin 8192) (known : Bool) (s : State) : Res :=
  whenDue (wayOn s slice.val way.val) s (.next (tagLost s slice.val way.val set.val known))

end Sys2Proof.Machine
end

