-- ==== Sys2Proof/Machine/Compress.lean ====
section
/-! DEFINITION. The selection of 2:4 values, shared by CMPR and the Output Compressor (R338 to R341), and the
layout of 2:4 rows (R329, R330). -/

namespace Sys2Proof.Machine

/-- R338, Table 8.2a: does `a` rank above `b`? MODE 0 ranks by magnitude, MODE 1 by signed value. -/
def ranksAbove (signed : Bool) (a b : Num) : Bool :=
  if numIsNan a then !numIsNan b
  else if numIsNan b then false
  else if signed then numLess b a
  else numLt (numAbs b) (numAbs a)

/-- The position of the highest-ranked element not excluded; ties go to the lower position. -/
def topRank (signed : Bool) (xs : List Num) (skip : Option Nat) : Nat :=
  (xs.zipIdx.foldl (fun (best : Option (Num × Nat)) e =>
    if some e.2 == skip then best
    else
      match best with
      | some b => if ranksAbove signed e.1 b.1 then some e else best
      | none => some e) none).elim 0 (·.2)

/-- R338: the two positions kept of a group of four, ascending. -/
def keepTwo (signed : Bool) (xs : List Num) : Nat × Nat :=
  let a := topRank signed xs none
  let b := topRank signed xs (some a)
  (min a b, max a b)

/-- R341: more than two elements of a group are nonzero or NaN. -/
def prunedGroup (xs : List Num) : Bool := 2 < xs.countP fun x => !numIsZero x

/-- A row of values as its groups of four. -/
def groupsOf {α : Type} (xs : List α) : List (List α) := chunks 4 (xs.length + 1) xs

/-- Kept values of a row, in ascending position. -/
def keptValues (signed : Bool) (xs : List Num) : List Num :=
  (groupsOf xs).flatMap fun g =>
    let k := keepTwo signed g
    [g.getD k.1 .nan, g.getD k.2 .nan]

/-- Position codes of the kept values. -/
def keptCodes (signed : Bool) (xs : List Num) : List Nat :=
  (groupsOf xs).flatMap fun g => let k := keepTwo signed g; [k.1, k.2]

/-- Table 8.2: code bytes, four codes to a byte. -/
def codeBytes (cs : List Nat) : List Byte :=
  (chunks 4 (cs.length + 1) cs).map fun g => BitVec.ofNat 8 (packBits 2 g)

/-- How many groups of a row were pruned. -/
def prunedCount (xs : List Num) : Nat := (groupsOf xs).countP prunedGroup

/-- A kept value, and its code, depend on the whole group. -/
def keptPoison (es : List Bool) : List Bool := (groupsOf es).flatMap fun g => [g.any id, g.any id]

/-- Poison of each code byte. -/
def codePoison (es : List Bool) : List Bool :=
  (chunks 8 (es.length + 1) es).map fun g => g.any id

/-- R329: bytes of a 2:4 weight row of `k` original elements. -/
def sparseBytes (f : Fmt) (k : Nat) : Nat :=
  let v := k / 2 * fmtBits f / 8
  let s := match f with
    | .bs8 | .bs4 => k / 32
    | _ => 0
  (v + k / 8 + s + 15) / 16 * 16

/-- R330: the weights of a 2:4 row, each with the k position it multiplies. -/
def sparseWeights (f : Fmt) (k : Nat) (bs : List Byte) : List (Nat × Num) :=
  let n := k / 2
  let v := n * fmtBits f / 8
  let codes := unpackBits 2 n (bs.drop v)
  let scales := bs.drop (v + k / 8)
  let vals : List Num := match elemSpec f with
    | some t => (unpackBits (fmtBits f) n bs).map (decodeElem t)
    | none => (unpackBits (fmtBits f) n bs).zipIdx.map fun e =>
        decodeScaled (fmtBits f) ((scales.getD (e.2 / 16) 0#8).toNat) e.1
  (vals.zip codes).zipIdx.map fun e => (4 * (e.2 / 2) + e.1.2, e.1.1)

end Sys2Proof.Machine
end

