-- ==== Sys2Proof/Machine/Execute.lean ====
section
/-! DEFINITION. The execute engine: execute units of streams, gathers, element-wise work, compression and merge
contributions (R193 to R206, R238 to R240, R282 to R287). -/

namespace Sys2Proof.Machine

/-! ### Accumulator vectors (R193, R83) -/

/-- The accumulator rows of vector `v`, as row numbers `tile * 16 + row`. -/
def accRows (b : Block) (w v : Nat) : List Nat :=
  (List.range (vecRows w)).map fun j => 16 * b.acc + v * vecRows w + j

def accGet (c : Core) (k : Nat) : W64 := spGet 0#64 k c.acc

/-- The 64-bit views of vector `v`. -/
def accVec (c : Core) (b : Block) (w v : Nat) : List W64 :=
  (List.range w).map fun e => accGet c (accIndex b.acc w v e)

/-- Write a vector; `pad` says the padding columns become zero (a WRITE). -/
def accPut (c : Core) (b : Block) (w v : Nat) (xs : List W64) (pad : Bool) : Core :=
  let cols := if pad then 32 * vecRows w else w
  (List.range cols).foldl (fun c e =>
    { c with acc := spSet 0#64 (accIndex b.acc w v e) (xs.getD e 0#64) c.acc }) c

/-- Mark the rows of a vector: integer view, and poison. Their elements hold no error any more. -/
def accMark (c : Core) (rows : List Nat) (int bad : Bool) : Core :=
  rows.foldl (fun c r =>
    { c with accInt := spSet false r int c.accInt, accPoison := spSet false r bad c.accPoison,
             accBad := c.accBad.filter fun e => e.1 / 32 != r }) c

/-- A row, or an element of it, is poisoned. -/
def rowsPoisoned (c : Core) (rows : List Nat) : Bool :=
  rows.any fun r => spGet false r c.accPoison || c.accBad.any fun e => e.1 / 32 == r

/-- Clear whole accumulator rows. -/
def accClear (c : Core) (rows : List Nat) : Core :=
  accMark (rows.foldl (fun c r => { c with acc := c.acc.filter fun e => e.1 / 32 != r }) c) rows false false

/-! ### Sums (R77 to R82, R156, R282, R731) -/

/-- The FP32 value of an exact value, in the low half of a 64-bit view. -/
def viewOf (x : Num) : W64 := (fp32Of x).setWidth 64

/-- R156 on two FP32 sums whose error terms stay +0. -/
def viewMax (larger : Bool) (a b : W64) : W64 := minMax false larger a b

/-- The INT64 value of a view. -/
def viewInt (v : W64) : Int := v.toInt

def intView (i : Int) : W64 := BitVec.ofInt 64 i

/-- Integer value of a decoded integer element. -/
def numInt : Num → Int
  | .fin neg m e => let v : Int := (m * 2 ^ e.toNat : Nat); if neg then -v else v
  | _ => 0

/-- What is done with two elements: pooling modes 4 and 5 take the larger or smaller, all others add. -/
inductive PoolOp where
  | sum | larger | smaller
  deriving DecidableEq, Repr

def poolOp (mode : Nat) : PoolOp := if mode = 4 then .larger else if mode = 5 then .smaller else .sum

/-- Is the mode weighted (R78)? -/
def weighted (mode : Nat) : Bool := 1 ≤ mode && mode ≤ 3

/-- One element of one row enters a partial (Table 7.3). -/
def poolElem (int : Bool) (mode : Nat) (factor : W32) (a : W64) (x : Num) : W64 × Flags :=
  if int then
    match poolOp mode with
    | .sum => let (v, f) := int64Add (viewInt a) (numInt x); (intView v, f)
    | .larger => (intView (max (viewInt a) (numInt x)), 0#8)
    | .smaller => (intView (min (viewInt a) (numInt x)), 0#8)
  else
    match poolOp mode with
    | .sum =>
      let (p, f) := if weighted mode then pairAddProduct (pairOfView a) factor (fp32Of x)
        else pairAdd (pairOfView a) (fp32Of x)
      (pairView p, f ||| fp32Flags x)
    | .larger => (viewMax true a (viewOf x), fp32Flags x)
    | .smaller => (viewMax false a (viewOf x), fp32Flags x)

/-- Two partial elements combine (R79, R283, R284). -/
def combineElem (int : Bool) (mode : Nat) (a b : W64) : W64 × Flags :=
  if int then
    match poolOp mode with
    | .sum => let (v, f) := int64Add (viewInt a) (viewInt b); (intView v, f)
    | .larger => (intView (max (viewInt a) (viewInt b)), 0#8)
    | .smaller => (intView (min (viewInt a) (viewInt b)), 0#8)
  else
    match poolOp mode with
    | .sum => let (p, f) := pairCombine (pairOfView a) (pairOfView b); (pairView p, f)
    | .larger => (viewMax true a b, 0#8)
    | .smaller => (viewMax false a b, 0#8)

/-- A fast-mode partial element is added by R77 (R283). -/
def fastElem (mode : Nat) (a b : W64) : W64 × Flags :=
  match poolOp mode with
  | .sum => let (p, f) := pairAdd (pairOfView a) (b.setWidth 32); (pairView p, f)
  | .larger => (viewMax true a b, 0#8)
  | .smaller => (viewMax false a b, 0#8)

/-- Element-wise over two lists, collecting flags. -/
def zipFlags {α β : Type} (f : α → β → α × Flags) (as : List α) (bs : List β) : List α × Flags :=
  let r := List.zipWith f as bs
  (r.map (·.1), r.foldl (fun x y => x ||| y.2) 0#8)

/-- R283: a row enters a partial, which starts at (+0, +0) in every mode. -/
def poolRow (int : Bool) (mode : Nat) (factor : W32) (acc : List W64) (xs : List Num) : List W64 × Flags :=
  zipFlags (poolElem int mode factor) (if acc.isEmpty then xs.map fun _ => 0#64 else acc) xs

/-- A partial enters a bag's value; the first of a MAX or MIN is taken as it is. -/
def combineVec (f : W64 → W64 → W64 × Flags) (mode : Nat) (acc p : List W64) : List W64 × Flags :=
  if acc.isEmpty && poolOp mode != .sum then (p, 0#8)
  else zipFlags f (if acc.isEmpty then p.map fun _ => 0#64 else acc) p

/-! ### GPOOL (R283 to R285) -/

/-- The local partial of a bag. -/
def localPartial (c : Cmd) (b : Nat) : Option Partial := c.partials.find? fun p => p.bag == b && p.npart == 0

/-- Replace or add the local partial of a bag. -/
def putPartial (c : Cmd) (p : Partial) : Cmd :=
  if (localPartial c p.bag).isSome then
    { c with partials := c.partials.map fun q => if q.bag == p.bag && q.npart == 0 then p else q }
  else { c with partials := c.partials ++ [p] }

/-- One staged row enters the partial of its bag. -/
def gpoolRow (k : Core) (d : TableDesc) (st : Stream) (c : Cmd) (r : Nat) : Cmd :=
  let o := st.owners.getD r (0, 0)
  let a := stageAddr st r
  let xs := decodeRow d.fmt d.w (lsRead k a d.rowb)
  let bad := (lsWordPoison k a d.rowb).any id
  let kept := keptAt c.bags o
  let p := (localPartial c o.1).getD ⟨o.1, d.lshard, 0, 0, [], false⟩
  let (vs, f) := poolRow (fmtIsInt d.fmt) c.blk.w3 kept.2.2.2 p.vals xs
  let c := putPartial c { p with vals := vs, poison := p.poison || bad }
  { c with flags := c.flags ||| f, poison := c.poison || bad,
           bags := if bad then c.bags.set o.1 { (c.bags.getD o.1 ⟨0, 0, 0, 0, [], 0, false⟩) with poison := true }
                   else c.bags }

/-- A stream tile of GPOOL is pooled. -/
def gpoolTile (k : Core) (d : TableDesc) (st : Stream) (t : Nat) (c : Cmd) : Cmd :=
  ((tileRows st t).map (·.1)).foldl (gpoolRow k d st) c

/-- R531: an exact partial of a remote shard, from its output pieces. -/
def exactRemote (c : Cmd) (b h w : Nat) : List W64 :=
  (List.range ((w + 255) / 256)).flatMap fun p =>
    match c.partials.find? fun q => q.bag == b && q.shard == h && q.piece == p && q.npart != 0 with
    | some q => q.vals
    | none => []

/-- A fast partial enters the elements of its piece of a value of `w` elements. -/
def addPiece (mode w : Nat) (acc : List W64) (q : Partial) : List W64 × Flags :=
  let n := q.vals.length
  let acc := if acc.isEmpty then List.replicate w 0#64 else acc
  let (v, f) := zipFlags (fastElem mode) ((acc.drop (256 * q.piece)).take n) q.vals
  (acc.take (256 * q.piece) ++ v ++ acc.drop (256 * q.piece + n), f)

/-- R283: the value B of a bag. -/
def bagValue (c : Cmd) (d : TableDesc) (b : Nat) (bag : Bag) : List W64 × Flags :=
  let int := fmtIsInt d.fmt
  let mode := c.blk.w3
  let step (x : List W64 × Flags) (p : List W64) : List W64 × Flags :=
    if p.isEmpty then x
    else let (v, f) := combineVec (combineElem int mode) mode x.1 p; (v, x.2 ||| f)
  let own := ((localPartial c b).map (·.vals)).getD []
  let out :=
    if c.blk.ex || int then
      (bagShards bag).foldl (fun x h => step x (if h = d.lshard then own else exactRemote c b h d.w)) ([], 0#8)
    else
      let start := step ([], 0#8) own
      (c.partials.filter fun q => q.bag == b && q.npart != 0).foldl (fun x q =>
        let (v, f) := addPiece mode d.w x.1 q; (v, x.2 ||| f)) start
  if out.1.isEmpty then (List.replicate d.w 0#64, out.2) else out

/-- The bag's rows hold no valid sum: open values (R285). -/
def freeVec : Nat → State → List W64 × State
  | 0, s => ([], s)
  | n + 1, s =>
    let (x, s) := drawWord s
    let (xs, s) := freeVec n s
    (x :: xs, s)

/-- R284, R285: a bag's accumulator rows. -/
def gpoolBag (s : State) (c : Cmd) (d : TableDesc) (b : Nat) (bag : Bag) : State × Flags :=
  let int := fmtIsInt d.fmt
  let (v, f) := bagValue c d b bag
  let k := getCore s c.core
  let rows := accRows c.blk d.w b
  let bad := bag.poison || (!c.blk.init && rowsPoisoned k rows)
  let (v, f) := if c.blk.init then (v, f)
    else let (x, g) := zipFlags (combineElem int c.blk.w3) (accVec k c.blk d.w b) v; (x, f ||| g)
  let (v, s) := if bag.failed = 0 then (v, s) else freeVec d.w s
  (setCore s c.core (accMark (accPut k c.blk d.w b v c.blk.init) rows int bad), f)

def gpoolBags (c : Cmd) (d : TableDesc) : List (Bag × Nat) → State → Flags → State × Flags
  | [], s, f => (s, f)
  | (bag, b) :: bs, s, f =>
    let (s, g) := gpoolBag s c d b bag
    gpoolBags c d bs s (f ||| g)

/-- The last unit of a GPOOL: the partials are combined and the command retires. -/
def gpoolEnd (s : State) (t : Nat) (c : Cmd) (d : TableDesc) : State :=
  let k := getCore s c.core
  let bad := !c.blk.init && (List.range c.bags.length).any fun b => rowsPoisoned k (accRows c.blk d.w b)
  let (s, f) := gpoolBags c d c.bags.zipIdx s 0#8
  retireStream (modCmd s t fun c => { c with flags := c.flags ||| f, poison := c.poison || bad }) t

/-! ### SLOAD and SSTORE (R198) -/

/-- Convert staged rows of a tile into the destination tile. -/
def sloadRow (c : Cmd) (st : Stream) (x : Wrote) (r : Nat) : Wrote :=
  let n := c.tile.n
  let a := stageAddr st r
  let xs := decodeRow c.blk.fmtIn n (lsRead x.core a st.rowb)
  let es := elemPoison c.blk.fmtIn n (lsWordPoison x.core a st.rowb)
  putRow x (tileRowAddr c.tile (c.blk.w2 + r)) c.tile.fmt (blkRm c.blk) c.blk.sat (fmtIsInt c.blk.fmtIn)
    (rowThresholds (blkRm c.blk) c.lfsr r n xs) es

/-- Convert tile rows into the staging buffer. -/
def sstoreRow (c : Cmd) (st : Stream) (x : Wrote) (r : Nat) : Wrote :=
  let n := c.tile.n
  let xs := tileRow x.core c.tile (c.blk.w2 + r)
  let es := tileRowPoison x.core c.tile (c.blk.w2 + r)
  putRow x (stageAddr st r) c.blk.fmtOut (blkRm c.blk) c.blk.sat (fmtIsInt c.tile.fmt)
    (rowThresholds (blkRm c.blk) c.lfsr r n xs) es

/-- Make the writes of a unit: the core, the flags, the poison. -/
def applyWrote (s : State) (t : Nat) (c : Cmd) (x : Wrote) : State :=
  let s := setCore s c.core x.core
  let s := if x.bad = 0 then s else bump s .xePoison c.core 0 0 x.bad
  modCmd s t fun c => { c with flags := c.flags ||| x.flags, poison := c.poison || x.bad != 0 }

def wroteOf (s : State) (n : Nat) : Wrote := ⟨getCore s n, 0#8, 0⟩

def sloadTile (s : State) (t : Nat) (c : Cmd) (st : Stream) (k : Nat) : State :=
  let rows := (tileRows st k).map (·.1)
  let s := applyWrote s t c (rows.foldl (sloadRow c st) (wroteOf s c.core))
  let s := setStream (freeExec s c.core c.slot) t fun x =>
    { x with execTiles := x.execTiles.drop 1, done := x.done + 1, rowsDone := x.rowsDone + rows.length }
  if streamTiles st ≤ st.done + 1 then retireStream s t else s

/-- The execute side has made its last write: the XQ entry goes free (R230). -/
def releaseXq (s : State) (t : Nat) (c : Cmd) : State :=
  modSlot s c.core c.slot fun x => { x with xq := x.xq.filter (· != t) }

def sstoreTile (s : State) (t : Nat) (c : Cmd) (st : Stream) : State :=
  let rows := (tileRows st c.unit).map (·.1)
  let s := applyWrote s t c (rows.foldl (sstoreRow c st) (wroteOf s c.core))
  let s := setStream (takeToken s c.core c.slot) t fun x => { x with fetchTiles := x.fetchTiles ++ [c.unit] }
  let s := modCmd s t fun c => { c with unit := c.unit + 1 }
  if streamTiles st ≤ c.unit + 1 then releaseXq s t c else s

def gpoolUnit (s : State) (t : Nat) (c : Cmd) (d : TableDesc) (st : Stream) : State :=
  match st.execTiles with
  | k :: _ =>
    let s := modCmd s t (gpoolTile (getCore s c.core) d st k)
    setStream (freeExec s c.core c.slot) t fun x => { x with execTiles := x.execTiles.drop 1, done := x.done + 1 }
  | [] => gpoolEnd s t c d

/-! ### SCADD (R287) -/

/-- The gradient of a bag: row `b` of the tile, as FP32 encodings. -/
def gradient (k : Core) (c : Cmd) (b : Nat) : List W32 :=
  let n := c.tile.n
  let bits := unpackBits (fmtBits c.tile.fmt) n (lsRead k (tileRowAddr c.tile b) (rowBytes c.tile.fmt n))
  bits.map fun x => BitVec.ofNat 32 (if c.tile.fmt == .bf16 then 65536 * x else x)

/-- R287: the contribution of one kept position. -/
def contribution (s : State) (t : Nat) (c : Cmd) (d : TableDesc) (o : Nat × Nat) : Contribution :=
  let k := getCore s c.core
  let bag := c.bags.getD o.1 ⟨0, 0, 0, 0, [], 0, false⟩
  let p := keptAt c.bags o
  let g := gradient k c o.1
  let scaled := bag.wfmt != 0
  let es := (tileRowPoison k c.tile o.1).map fun e => e || bag.poison
  { step := c.blk.w3, ldev := c.ldev, lcore := c.core, bag := bag.id, pos := p.1, ctx := c.ctx, table := d.id,
    shard := p.2.1, row := p.2.2.1,
    grad := if scaled then g.map fun x => fp32Of (numMul (fp32Num p.2.2.2) (fp32Num x)).1 else g,
    bf16 := c.tile.fmt == .bf16 && !scaled, replay := c.replay, from_ := some t, srcDev := selfId s, srcTag := t,
    express := isExpress c.slot, poison := es, tag := none }

/-- The flags of scaling the gradient of a bag (R287). -/
def scaleFlags (k : Core) (c : Cmd) (o : Nat × Nat) : Flags :=
  let bag := c.bags.getD o.1 ⟨0, 0, 0, 0, [], 0, false⟩
  if bag.wfmt = 0 then 0#8
  else
    (gradient k c o.1).foldl (fun f x =>
      let p := numMul (fp32Num (keptAt c.bags o).2.2.2) (fp32Num x)
      f ||| fp32Flags p.1 ||| flagIf p.2 flagNV) 0#8

def scaddTile (s : State) (t : Nat) (c : Cmd) (d : TableDesc) (st : Stream) : State :=
  let os := ((tileRows st c.unit).map fun r => st.owners.getD r.1 (0, 0))
  let xs := os.map (contribution s t c d)
  let f := os.foldl (fun f o => f ||| scaleFlags (getCore s c.core) c o) 0#8
  let s := setStream (takeToken s c.core c.slot) t fun x => { x with fetchTiles := x.fetchTiles ++ [c.unit] }
  let s := modCmd s t fun c => { c with outbox := c.outbox ++ xs, unit := c.unit + 1,
                                        flags := c.flags ||| f, poison := c.poison || xs.any fun x => x.poison.any id }
  if streamTiles st ≤ c.unit + 1 then releaseXq s t c else s

/-! ### Accumulator and tile commands (R196, R197, R202, R203) -/

/-- R238: rows of `n` bytes in one execute unit. -/
def unitRows (n : Nat) : Nat := max 1 (16384 / max 1 n)

/-- The rows of the next unit of a command over `total` rows. -/
def unitRange (c : Cmd) (total n : Nat) : List Nat :=
  (List.range (min (unitRows n) (total - c.unit))).map (c.unit + ·)

/-- The value of one accumulator element. -/
def accNum (int : Bool) (v : W64) : Num := if int then numOfInt (viewInt v) else pairNum (pairOfView v)

/-- R197: one vector to one row. INIT = 1 sets the whole accumulator row to zero, its padding with it (DESIGN CHOICE, log 54: R193
says that ACCWB neither reads nor writes padding). -/
def accwbRow (c : Cmd) (x : Wrote) (j : Nat) : Wrote :=
  let w := c.tile.n
  let v := c.blk.w1 + j
  let rows := accRows c.blk w v
  let int := spGet false (rows.headD 0) x.core.accInt
  let vals := (accVec x.core c.blk w v).map (accNum int)
  let es := (List.range w).map fun e =>
    spGet false (rows.getD (e / 32) 0) x.core.accPoison || spGet false (accIndex c.blk.acc w v e) x.core.accBad
  let x := putRow x (tileRowAddr c.tile (c.blk.w3 + j)) c.tile.fmt (blkRm c.blk) c.blk.sat int
    (rowThresholds (blkRm c.blk) c.lfsr j w vals) es
  if c.blk.init then { x with core := accClear x.core rows } else x

/-- Table 5.7: the exact value of one element, and whether the operation is invalid. -/
def xopElem (f : Nat) (scalar a b k : Num) : Num × Bool :=
  let pick (larger : Bool) : Num :=
    if numIsNan a && numIsNan b then .nan
    else if numIsNan a then b
    else if numIsNan b then a
    else if numLess a b == larger then b else a
  if f = 1 then numAdd a b
  else if f = 2 then numSub a b
  else if f = 3 then numMul a b
  else if f = 4 then numFma a b k
  else if f = 5 then (pick true, false)
  else if f = 6 then (pick false, false)
  else if f = 7 then numMul scalar a
  else if f = 8 then
    (if numIsNan a then .nan else if numLt (.fin false 0 0) a then a else .fin false 0 0, false)
  else (a, false)

/-- Does a function of XOP read tile B, and tile C? -/
def xopUsesB (f : Nat) : Bool := 1 ≤ f && f ≤ 6

/-- The scalar S of an XOP block. -/
def xopScalar (b : Block) : Num := fp32Num (BitVec.ofNat 32 b.w2)

/-- Element-wise functions: one row. The integer rule of R75 holds where every source tile is of integers and FUNC is not
SCALE; elsewhere elements convert as Table 2.6 gives (DESIGN CHOICE, log 55). -/
def xopRow1 (c : Cmd) (x : Wrote) (r : Nat) : Wrote :=
  let f := xopFunc c.blk
  let k := x.core
  let as := tileRow k c.ta r
  let bs := if xopUsesB f then tileRow k c.tb r else []
  let cs := if f = 4 then tileRow k c.tc r else []
  let ys := (List.range c.tile.n).map fun e =>
    xopElem f (xopScalar c.blk) (as.getD e .nan) (bs.getD e .nan) (cs.getD e .nan)
  let ps := [c.ta] ++ (if xopUsesB f then [c.tb] else []) ++ (if f = 4 then [c.tc] else [])
  let es := (List.range c.tile.n).map fun e => ps.any fun p => (tileRowPoison k p r).getD e false
  let src := f != 7 && ps.all fun p => fmtIsInt p.fmt
  let x := putRow x (tileRowAddr c.tile r) c.tile.fmt (blkRm c.blk) c.blk.sat src
    (rowThresholds (blkRm c.blk) c.lfsr r c.tile.n (ys.map (·.1))) es
  { x with flags := x.flags ||| flagIf (ys.any (·.2)) flagNV }

/-- HAMM: one row of Hamming distances. -/
def hammRow (c : Cmd) (x : Wrote) (r : Nat) : Wrote :=
  let k := x.core
  let bitsOfRow (t : Tile) (j : Nat) : List Nat := unpackBits 1 t.n (lsRead k (tileRowAddr t j) (rowBytes t.fmt t.n))
  let a := bitsOfRow c.ta r
  let pa := (tileRowPoison k c.ta r).any id
  let ys := (List.range c.tile.n).map fun j =>
    if j < c.tb.rows then numOfInt ((List.zipWith (fun p q => if p = q then 0 else 1) a (bitsOfRow c.tb j)).sum : Nat)
    else numOfInt 0
  let es := (List.range c.tile.n).map fun j => decide (j < c.tb.rows) && (pa || (tileRowPoison k c.tb j).any id)
  putRow x (tileRowAddr c.tile r) c.tile.fmt (blkRm c.blk) c.blk.sat true
    (rowThresholds (blkRm c.blk) c.lfsr r c.tile.n ys) es

/-- The elements that the `k`-th accumulator row of ACC or ACCS takes from tile A: its row and its first column. -/
def accPlace (c : Cmd) (k : Nat) : Nat × Nat := (k / vecRows c.ta.n, 32 * (k % vecRows c.ta.n))

/-- The number of that accumulator row. -/
def accTarget (c : Cmd) (k : Nat) : Nat :=
  (accRows c.blk c.ta.n (xopVfirst c.blk + (accPlace c k).1)).getD (k % vecRows c.ta.n) 0

/-- Does the `k`-th accumulator row of ACC or ACCS meet poison (R262)? -/
def xopAccBad (k : Core) (c : Cmd) (i : Nat) : Bool :=
  let (r, e) := accPlace c i
  rowsPoisoned k [accTarget c i] || (((tileRowPoison k c.ta r).drop e).take 32).any id

/-- ACC and ACCS: what the `i`-th accumulator row takes of A is added to it (R77, R78, R82). ACCS of an integer tile rounds A to
FP32 and adds S x A as R78 adds a product, in CP32: Table 5.7 names the product, Table 2.7 an INT64 pair (DESIGN CHOICE,
log 47). -/
def xopAccRow (c : Cmd) (x : Wrote) (i : Nat) : Wrote :=
  let k := x.core
  let (r, e) := accPlace c i
  let scale := xopFunc c.blk == 10
  let int := fmtIsInt c.ta.fmt && !scale
  let at_ := 32 * accTarget c i
  let xs := ((tileRow k c.ta r).drop e).take 32
  let (ys, f) := zipFlags (poolElem int (if scale then 1 else 0) (BitVec.ofNat 32 c.blk.w2))
    ((List.range xs.length).map fun j => accGet k (at_ + j)) xs
  let y := { k with acc := (ys.zipIdx).foldl (fun m v => spSet 0#64 (at_ + v.2) v.1 m) k.acc }
  { core := accMark y [accTarget c i] int (xopAccBad k c i), flags := x.flags ||| f, bad := x.bad }

/-- R203, R339: one row of CMPR: values to TILE, codes to E. -/
def cmprRow (c : Cmd) (x : Wrote) (r : Nat) : Wrote :=
  let signed := c.blk.w3 == 1
  let xs := tileRow x.core c.ta r
  let es := tileRowPoison x.core c.ta r
  let vals := keptValues signed xs
  let codes := codeBytes (keptCodes signed xs)
  let x := putRow x (tileRowAddr c.tile r) c.tile.fmt (blkRm c.blk) c.blk.sat (fmtIsInt c.ta.fmt)
    (rowThresholds (blkRm c.blk) c.lfsr r (c.ta.n / 2) vals) (keptPoison es)
  let ps := rowPoison .uint8 c.tb.n (codePoison es)
  { x with core := lsWriteRow x.core (tileRowAddr c.tb r) codes ps, bad := x.bad + ps.countP id }

/-- Groups of A pruned in some rows. -/
def cmprPruned (k : Core) (c : Cmd) (rows : List Nat) : Nat :=
  (rows.map fun r => prunedCount (tileRow k c.ta r)).sum

/-- A unit of a command that works row by row: its rows are done, and after the last the command retires with
`detail`. -/
def rowsUnit (s : State) (t : Nat) (c : Cmd) (f : Wrote → Nat → Wrote) (rows : List Nat) (total detail : Nat) : State :=
  let s := applyWrote s t c (rows.foldl f (wroteOf s c.core))
  let s := modCmd s t fun c => { c with unit := c.unit + rows.length }
  if total ≤ c.unit + rows.length then retire (modCmd s t fun c => { c with detail := detail }) t else s

def azeroUnit (s : State) (t : Nat) (c : Cmd) : State :=
  let rows := (List.range 16).map fun r => 16 * c.blk.acc + r
  retire (modCore s c.core fun k => accClear k rows) t

def accwbUnit (s : State) (t : Nat) (c : Cmd) : State :=
  rowsUnit s t c (accwbRow c) (unitRange c c.blk.w2 (rowBytes c.tile.fmt c.tile.n)) c.blk.w2 c.blk.w2

def xopUnit (s : State) (t : Nat) (c : Cmd) : State :=
  let f := xopFunc c.blk
  let total := c.ta.rows
  if f = 9 || f = 10 then
    let all := total * vecRows c.ta.n
    let rows := unitRange c all 256
    let s := if rows.any (xopAccBad (getCore s c.core) c) then modCmd s t fun c => { c with poison := true } else s
    rowsUnit s t c (xopAccRow c) rows all (total * c.ta.n)
  else
    rowsUnit s t c (if f = 11 then hammRow c else xopRow1 c) (unitRange c total (rowBytes c.tile.fmt c.tile.n))
      total (total * c.tile.n)

def cmprUnit (s : State) (t : Nat) (c : Cmd) : State :=
  let rows := unitRange c c.ta.rows (rowBytes c.tile.fmt c.tile.n + c.tb.n)
  let n := cmprPruned (getCore s c.core) c rows
  let s := if n = 0 then s else bump s .muPruned (c.core / 8) 0 0 n
  let s := modCmd s t fun c => { c with doneN := c.doneN + n }
  rowsUnit s t c (cmprRow c) rows c.ta.rows (c.doneN + n)

/-! ### Units and slots (R238 to R240) -/

/-- The head of a slot's execute queue. -/
def xqHead (s : State) (n : Nat) (i : SlotId) : Option Nat := (getSlot s n i).xq.head?

/-- The command can do a unit now. -/
def unitReady (s : State) (c : Cmd) : Bool :=
  match c.op, c.stream with
  | .azero, _ | .block .accwb, _ | .block .xop, _ | .block .cmpr, _ => true
  | .block .sload, some st => !st.execTiles.isEmpty
  | .block .gpool, some st =>
    c.ready && (!st.execTiles.isEmpty || (streamTiles st ≤ st.done && c.remoteQ.isEmpty && c.waiting == 0))
  | .block .sstore, some st =>
    c.ready && c.unit < streamTiles st && c.unit < st.tile + 4 && st.halted.isNone
      && 0 < (getSlot s c.core c.slot).tokFree && tokenTurn s c
  | .block .scadd, some st =>
    c.ready && c.unit < streamTiles st && c.outbox.isEmpty && 0 < (getSlot s c.core c.slot).tokFree
      && tokenTurn s c
  | .block .sstore, none | .block .scadd, none => !c.ready
  | _, _ => false

/-- The effect of one unit of the command under tag `t`. -/
def unitStep (s : State) (t : Nat) (c : Cmd) : State :=
  match c.op, c.stream, c.table with
  | .azero, _, _ => azeroUnit s t c
  | .block .accwb, _, _ => accwbUnit s t c
  | .block .xop, _, _ => xopUnit s t c
  | .block .cmpr, _, _ => cmprUnit s t c
  | .block .sload, some st, _ =>
    (match st.execTiles with
     | k :: _ => sloadTile s t c st k
     | [] => s)
  | .block .gpool, some st, some d => gpoolUnit s t c d st
  | .block .sstore, some st, _ => sstoreTile s t c st
  | .block .scadd, some st, some d => scaddTile s t c d st
  | .block .sstore, none, _ | .block .scadd, none, _ => setup s t c
  | _, _, _ => s

/-- R239: bulk work is held while express work is queued and runs. -/
def slotTurn (s : State) (n : Nat) (i : SlotId) : Bool :=
  isExpress i || (getSlot s n .express).xq.isEmpty || (getCore s n).xeSlot == .bulk

/-- The execute engine turns to a slot. -/
def turnTo (c : Core) (i : SlotId) : Core := { c with xeSlot := i, xeTurned := c.xeTurned || c.xeSlot != i }

/-- R239: at a tile boundary, express work goes first. -/
def tileBoundary (s : State) (n : Nat) : State :=
  modCore s n fun c => turnTo c (if c.express.xq.isEmpty then .bulk else .express)

def unitDue (s : State) (n : Nat) (i : SlotId) : Bool :=
  match (xqHead s n i).bind (tagCmd s) with
  | some c => enginesRun s n && slotTurn s n i && unitReady s c
  | none => false

/-- R239: express work that finds no bulk unit running begins at once. -/
def expressBegins (s : State) (n : Nat) : State :=
  if (getSlot s n .express).xq.isEmpty || unitDue s n .bulk then s else modCore s n fun c => turnTo c .express

/-- The unit ends; commands of other units that waited for the slot's local-store writes go on (R190). -/
def unitEnd (s : State) (n : Nat) (i : SlotId) : State :=
  match xqHead s n i with
  | some t =>
    (match tagCmd s t with
     | some c => joinLayers (tileBoundary (unitStep s t c) n)
     | none => s)
  | none => s

def execExecuteUnitEnd (a : At) (s : State) : Res :=
  whenDue (unitDue s a.core.val a.slot) s (.next (unitEnd s a.core.val a.slot))

end Sys2Proof.Machine
end

