-- ==== Sys2Proof/Machine/Merge.lean ====
section
/-! DEFINITION. The reproducible merge: home table records, Turntables, spill logs, the closing of windows and
the row updates (spec/07 from R287 on), with barrier release (R219, R221). -/

namespace Sys2Proof.Machine

/-! ### Home table records (R312, R313) -/

/-- Table 7.7. -/
structure HomeRec where
  fmt : Fmt
  fn : Nat
  ep : Bool
  base : Nat
  rowb : Nat
  epbase : Nat
  stbase : Nat
  lr : W32
  eps : W32
  beta : W32
  spillkb : Nat
  spillbase : Nat
  deriving DecidableEq, Repr

/-- The little-endian field of `n` bytes at offset `o`. -/
def fieldAt (bs : List Byte) (o n : Nat) : Nat := leNat ((bs.drop o).take n)

/-- The record in 64 bytes, when its every field is legal (R313). -/
def homeOfBytes (bs : List Byte) : Option HomeRec :=
  let m := fieldAt bs 4 1
  let f := fmtOfCode (m % 16)
  let fn := bitsOf m 4 2
  let ep := m.testBit 6
  let base := fieldAt bs 8 8
  let rowb := fieldAt bs 16 2
  let epb := fieldAt bs 24 8
  let stb := fieldAt bs 32 8
  let spb := fieldAt bs 56 8
  let ok := fieldAt bs 2 2 < 1024 && (f == .fp32 || f == .bf16 || f == .fp16) && fn != 3
    && (!ep || f == .fp32) && !m.testBit 7 && fieldAt bs 5 3 == 0 && base < 2 ^ 40 && base % 16 == 0
    && 16 ≤ rowb && rowb ≤ 8192 && rowb % 16 == 0 && fieldAt bs 18 6 == 0 && epb < 2 ^ 40 && (ep || epb == 0)
    && stb < 2 ^ 40 && (fn == 2 || stb == 0) && spb < 2 ^ 40 && spb % 4096 == 0
  if ok then
    some { fmt := f, fn := fn, ep := ep, base := base, rowb := rowb, epbase := epb, stbase := stb,
           lr := BitVec.ofNat 32 (fieldAt bs 40 4), eps := BitVec.ofNat 32 (fieldAt bs 44 4),
           beta := BitVec.ofNat 32 (fieldAt bs 48 4), spillkb := fieldAt bs 52 4, spillbase := spb }
  else none

/-- What looking a record up comes to. -/
inductive Home where
  | missing
  | illegal
  | found (r : HomeRec)
  deriving DecidableEq, Repr

/-- Row Merge Unit accesses of a context (Tables 10.3, 10.4). -/
def mergeWho (ctx : Nat) : MemWho := ⟨some ctx, 3, 1⟩

/-- R312: search the records of a context from record `k` on. A record read with poison is not legal. -/
def homeSearch (ctx table shard base : Nat) : Nat → Nat → State → Home × State
  | 0, _, s => (.missing, s)
  | n + 1, k, s =>
    let (r, s) := devRead s (mergeWho ctx) (base + 64 * k) 64
    if fieldAt r.bytes 0 2 = table && fieldAt r.bytes 2 2 % 1024 = shard then
      match (if r.poison || r.mismatch || r.failed then none else homeOfBytes r.bytes) with
      | some h => (.found h, s)
      | none => (.illegal, s)
    else homeSearch ctx table shard base n (k + 1) s

def homeRecord (s : State) (ctx table shard : Nat) : Home × State :=
  homeSearch ctx table shard (regFld s .rmuMtreg 0 ctx 0 12 28 * 4096)
    (min 64 (regFld s .rmuMtreg 0 ctx 0 0 7)) 0 s

/-- Elements of a home row. -/
def homeElems (h : HomeRec) : Nat := h.rowb * 8 / fmtBits h.fmt

/-- Device physical address of a local row. -/
def homeRow (h : HomeRec) (row : Nat) : Nat := h.base + row * h.rowb

/-! ### Row Merge Units -/

def getRmu (s : State) (k : Nat) : Rmu := spGet rmuReset k s.rmus
def setRmu (s : State) (k : Nat) (r : Rmu) : State := { s with rmus := spSet rmuReset k r s.rmus }
def modRmu (s : State) (k : Nat) (f : Rmu → Rmu) : State := setRmu s k (f (getRmu s k))

/-- R293: buffer entries of a contribution. -/
def entriesOf (x : Contribution) : Nat := ((gradBytes x).length + 511) / 512

def bufferUsed (r : Rmu) : Nat := (r.buffer.map entriesOf).sum

/-- R288, R296: the order of a run: table, shard, local row, canonical key. -/
def contribKey (x : Contribution) : List Nat := [x.table, x.shard, x.row, x.step, x.ldev, x.lcore, x.bag, x.pos]

def lexLt : List Nat → List Nat → Bool
  | [], [] => false
  | [], _ => true
  | _, [] => false
  | a :: as, b :: bs => if a = b then lexLt as bs else decide (a < b)

/-- Insert in key order, after equal keys. -/
def insertContrib (x : Contribution) : List Contribution → List Contribution
  | [] => [x]
  | y :: ys => if lexLt (contribKey x) (contribKey y) then x :: y :: ys else y :: insertContrib x ys

def sortContribs (l : List Contribution) : List Contribution := l.foldl (fun acc x => insertContrib x acc) []

def isWindow (ctx step : Nat) (w : Window) : Bool := w.ctx == ctx && w.step == step

def newWindow (ctx step : Nat) : Window where
  ctx := ctx
  step := step
  inn := 0
  flight := 0
  buf := 0
  spilled := 0
  out := 0
  dup := 0
  overflow := false
  closing := false
  passed := false
  applying := false
  flags := 0
  upset := false
  hyper := []

/-- Change the window of a context and step, opening it first if it is not there. -/
def modWindow (r : Rmu) (ctx step : Nat) (f : Window → Window) : Rmu :=
  if r.windows.any (isWindow ctx step) then
    { r with windows := r.windows.map fun w => if isWindow ctx step w then f w else w }
  else { r with windows := r.windows ++ [f (newWindow ctx step)] }

def findWindow (r : Rmu) (ctx step : Nat) : Option Window := r.windows.find? (isWindow ctx step)

/-! ### Answers (R205, R291, R294, R313) -/

/-- A refused or accepted local contribution is counted off at its SCADD; the first failure code stands. -/
def answerLocal (s : State) (t code : Nat) : State :=
  let s := modCmd s t fun c => { c with waiting := c.waiting - 1, code := if c.code = 0 then code else c.code }
  match tagCmd s t with
  | some c => if scaddOver c then retireStream s t else s
  | none => s

/-- The fabric-inbound tag of an answered request goes free (R525). -/
def freeInbound (s : State) : Option Nat → State
  | some t => setTag s t { getTag s t with st := .free }
  | none => s

/-- The answer to a contribution: to its SCADD, or over the fabric (Table 13.8). -/
def answer (s : State) (x : Contribution) (code : Nat) : State :=
  match x.from_ with
  | some t => answerLocal s t code
  | none =>
    let p : Packet := { op := if code = 0 then 0x84 else 0x8F, x := x.express, dst := x.srcDev, src := selfId s,
                        ctx := x.ctx, handle := x.srcTag, core := x.lcore, slot := x.express.toNat,
                        key := fabKey s x.ctx, args := { reason := code, table := x.table, shard := x.shard } }
    freeInbound { s with inject := s.inject ++ [p] } x.tag

/-- Refuse a contribution and count it (R295, R300). -/
def refuse (s : State) (x : Contribution) (code : Nat) : State :=
  answer (bump s .rmuRefused 0 0 0 1) x code

/-! ### The spill log (R297 to R300) -/

/-- R297: first byte and length of part `k` of a record's spill log. -/
def spillPart (s : State) (h : HomeRec) (k : Nat) : Nat × Nat :=
  let share := h.spillkb * 1024 / channels s.variant
  (h.spillbase + k * share, share / 128 * 128)

/-- Insert an extent in address order. -/
def insertExtent (x : Nat × Nat) : List (Nat × Nat) → List (Nat × Nat)
  | [] => [x]
  | y :: ys => if x.1 < y.1 then x :: y :: ys else y :: insertExtent x ys

/-- The gaps from `a` to `e` among extents in address order. -/
def gapsFrom (e : Nat) : Nat → List (Nat × Nat) → List (Nat × Nat)
  | a, [] => if a < e then [(a, e - a)] else []
  | a, x :: xs => (if a < x.1 then [(a, x.1 - a)] else []) ++ gapsFrom e (max a (x.1 + x.2)) xs

/-- The first `n` bytes of the gaps. -/
def takeGaps : Nat → List (Nat × Nat) → Option (List (Nat × Nat))
  | n, [] => if n = 0 then some [] else none
  | n, g :: gs => if n ≤ g.2 then some [(g.1, n)] else (takeGaps (n - g.2) gs).map (g :: ·)

/-- R299, R300: a place for `n` bytes in a part, in the gaps that its runs leave. -/
def spillFit (r : Rmu) (p : Nat × Nat) (n : Nat) : Option (List (Nat × Nat)) :=
  let used := ((r.runs.flatMap (·.ext)).filter fun u => p.1 ≤ u.1 && u.1 < p.1 + p.2).foldl
    (fun l u => insertExtent u l) []
  takeGaps n (gapsFrom (p.1 + p.2) p.1 used)

/-- Write bytes with the poison of their words to extents of the spill log (R301). -/
def writeExtents (ctx : Nat) : List (Nat × Nat) → List Byte → List Bool → State → State
  | [], _, _, s => s
  | e :: es, bs, ps, s =>
    writeExtents ctx es (bs.drop e.2) (ps.drop (e.2 / 16)) (devWrite s ⟨some ctx, 3, 3⟩ e.1 (bs.take e.2) (ps.take (e.2 / 16))).2

/-- R298: a record with its gradient padded. -/
def runRecord (x : Contribution) : List Byte :=
  let g := gradBytes x
  recordBytes x ++ g ++ List.replicate ((16 - g.length % 16) % 16) 0#8

def recordPoison (x : Contribution) : List Bool := [false, false] ++ gradPoison x

/-- R298: the bytes of a run, and the poison of its words. -/
def runBytes (step : Nat) (xs : List Contribution) : List Byte × List Bool :=
  let body := xs.flatMap runRecord
  (leBytes 4 step ++ leBytes 4 xs.length ++ leBytes 8 (128 + body.length) ++ List.replicate 112 0#8 ++ body,
   List.replicate 8 false ++ xs.flatMap recordPoison)

/-- The windows and tables that a buffer holds. -/
def bufferGroups (r : Rmu) : List (Nat × Nat × Nat × Nat) :=
  (r.buffer.map fun x => (x.ctx, x.step, x.table, x.shard)).eraseDups

def inGroup (g : Nat × Nat × Nat × Nat) (x : Contribution) : Bool := (x.ctx, x.step, x.table, x.shard) == g

/-- The window is OVERFLOW. -/
def overflowed (r : Rmu) (ctx step : Nat) : Bool := ((findWindow r ctx step).map (·.overflow)).getD false

/-- R300. -/
def markOverflow (s : State) (k ctx step : Nat) : State :=
  modRmu s k fun r => modWindow r ctx step fun w => { w with overflow := true }

/-- R296, R300: spill the buffered contributions of one window and table, or mark the window OVERFLOW; what cannot be spilled stays in
the buffer (R302). -/
def spillRun (s : State) (k : Nat) (g : Nat × Nat × Nat × Nat) : State :=
  let ctx := g.1
  let step := g.2.1
  let xs := sortContribs ((getRmu s k).buffer.filter (inGroup g))
  let (h, s) := homeRecord s ctx g.2.2.1 g.2.2.2
  let (bs, ps) := runBytes step xs
  let r := getRmu s k
  let place := match h with
    | .found h => if overflowed r ctx step then none else spillFit r (spillPart s h k) bs.length
    | _ => none
  match place with
  | none => markOverflow s k ctx step
  | some ext =>
    let s := bump (writeExtents ctx ext bs ps s) .rmuSpilled 0 0 0 xs.length
    modRmu s k fun r =>
      { modWindow r ctx step (fun w => { w with buf := w.buf - xs.length, spilled := w.spilled + xs.length }) with
        buffer := r.buffer.filter fun x => !inGroup g x,
        runs := r.runs ++ [⟨ctx, step, g.2.2.1, g.2.2.2, ext, bs.length, xs.length⟩] }

/-- R296: write every buffered run. -/
def spill (s : State) (k : Nat) : State := (bufferGroups (getRmu s k)).foldl (fun s g => spillRun s k g) s

/-! ### Acceptance (R291, R294, R295, R300) -/

/-- Why a contribution is not taken now: refused with a code, or held; none when it is taken. -/
inductive Verdict where
  | take
  | hold
  | refuse (code : Nat)
  deriving DecidableEq, Repr

/-- R221, R303: a released BARR closes the window of this context and step, at every home. -/
def closingStep (s : State) (ctx step : Nat) : Bool :=
  s.barriers.any fun b => b.closing && b.mg && b.ctx == ctx && b.step == step

/-- R295, R300, R303. -/
def verdict (s : State) (k : Nat) (x : Contribution) : Verdict :=
  let r := getRmu s k
  let lc := spGet 0 x.ctx r.lastClose
  if x.step ≤ lc || closingStep s x.ctx x.step then .refuse codeWindowClosed
  else if lc + 2 < x.step then .hold
  else if overflowed r x.ctx x.step then .refuse codeConserveFail
  else .take

/-- The merge buffer has room for a contribution (R293). -/
def bufferFits (s : State) (k : Nat) (x : Contribution) : Bool := bufferUsed (getRmu s k) + entriesOf x ≤ 64

/-- Place an accepted contribution in the buffer. -/
def place (s : State) (k : Nat) (x : Contribution) : State :=
  let s := modRmu s k fun r =>
    { modWindow r x.ctx x.step (fun w => { w with inn := w.inn + 1, buf := w.buf + 1 }) with
      buffer := r.buffer ++ [x] }
  answer (bump s .rmuIn 0 0 0 1) x 0

/-- R296, R300: make room, then take the contribution, or refuse it when there is none. -/
def accept (s : State) (k : Nat) (x : Contribution) : State :=
  let s := if bufferFits s k x then s else spill s k
  if overflowed (getRmu s k) x.ctx x.step then refuse s x codeConserveFail
  else if bufferFits s k x then place s k x
  else refuse (markOverflow s k x.ctx x.step) x codeConserveFail

/-- A contribution at its Turntable. -/
def turntable (s : State) (k : Nat) (x : Contribution) : State :=
  match verdict s k x with
  | .refuse code => refuse s x code
  | .hold => modRmu s k fun r => { r with held := r.held ++ [x] }
  | .take => accept s k x

/-- R291, R313, R621: where a contribution goes: the Row Merge Unit of its row, or the code that refuses it. -/
def homeUnit (s : State) (x : Contribution) : (Nat ⊕ Nat) × State :=
  let (h, s) := homeRecord s x.ctx x.table x.shard
  match h with
  | .missing | .illegal => (.inr codeBadDescriptor, s)
  | .found h =>
    if x.grad.length != homeElems h then (.inr codeBadDescriptor, s)
    else
      let pa := homeRow h x.row
      if ownByte s (pa / 2 ^ 21) / 64 = 2 || channelFailed s (channelOf s.variant pa) then (.inr codeGranuleFailed, s)
      else (.inl (channelOf s.variant pa), s)

def contributionArrives (s : State) (x : Contribution) : State :=
  match homeUnit s x with
  | (.inl k, s) => turntable s k x
  | (.inr code, s) => answer s x code

/-- R295, R525: a contribution of another device would be held at its home. -/
def heldAtHome (s : State) (x : Contribution) : Bool :=
  match (homeUnit s x).1 with
  | .inl k => verdict s k x == .hold
  | .inr _ => false

def execContributionArrival (i : Nat) (s : State) : Res :=
  match s.mergeNet[i]? with
  | none => .next s
  | some x =>
    whenDue (planeUp s) s (.next (contributionArrives { s with mergeNet := s.mergeNet.eraseIdx i } x))

/-- R295: LASTCLOSE has risen enough for a held contribution. -/
def heldDue (r : Rmu) (x : Contribution) : Bool := x.step ≤ spGet 0 x.ctx r.lastClose + 2

def execHeldContributionAccept (k : Fin 128) (i : Nat) (s : State) : Res :=
  match (getRmu s k.val).held[i]? with
  | none => .next s
  | some x =>
    whenDue (planeUp s && heldDue (getRmu s k.val) x) s
      (.next (turntable (modRmu s k.val fun r => { r with held := r.held.eraseIdx i }) k.val x))

/-! ### Closing a window (R219, R221, R303, R304) -/

def isBarrier (ctx id : Nat) (closing : Bool) (b : Barrier) : Bool :=
  b.ctx == ctx && b.id == id && b.closing == closing

/-- The arrivals of a released barrier retire (R219), reported in ascending tag number (R109). -/
def retireArrivals (code delay : Nat) : List Nat → State → State
  | [], s => s
  | t :: ts, s =>
    retireArrivals code delay ts
      (retire (modCmd s t fun c => { c with code := code, late := delay != 0, detail := min delay (2 ^ 32 - 1) }) t)

/-- The barrier that closes the window of a context and step ends. -/
def endClose (s : State) (ctx step code : Nat) : State :=
  let bs := s.barriers.filter fun b => b.ctx == ctx && b.step == step && b.mg && b.closing
  let s := { s with barriers := s.barriers.filter fun b => !(b.ctx == ctx && b.step == step && b.mg && b.closing) }
  bs.foldl (fun s b => retireArrivals code b.delay (ascending b.arrivals) s) s

/-- R304: nothing is applied at any Row Merge Unit; the window's entries and runs are discarded. -/
def closeFails (s : State) (ctx step reason : Nat) : State :=
  let s := { s with rmus := spMap rmuReset (fun _ r =>
    { r with windows := r.windows.filter fun w => !isWindow ctx step w,
             buffer := r.buffer.filter fun x => !(x.ctx == ctx && x.step == step),
             runs := r.runs.filter fun u => !(u.ctx == ctx && u.step == step) }) s.rmus }
  let s := setReg s .rmuFail 0 0 0 (BitVec.ofNat 64 (ctx % 64 + 256 * reason + 2 ^ 31))
  let s := setReg s .rmuFailstep 0 0 0 (BitVec.ofNat 64 step)
  endClose s ctx step codeConserveFail

/-- R303: closes at one unit are applied in order of release. -/
def firstApplying (r : Rmu) : Option Window := r.windows.find? (·.applying)

/-- The tables and shards that a window's contributions touch at a unit. -/
def windowTables (r : Rmu) (w : Window) : List (Nat × Nat) :=
  (((r.buffer.filter fun x => x.ctx == w.ctx && x.step == w.step).map fun x => (x.table, x.shard))
    ++ ((r.runs.filter fun u => u.ctx == w.ctx && u.step == w.step && u.count != 0).map fun u => (u.table, u.shard))).eraseDups

/-- R310: LR, EPS and BETA of each table as an apply begins. -/
def readHyper (ctx : Nat) : List (Nat × Nat) → State → List (Nat × Nat × W32 × W32 × W32) × State
  | [], s => ([], s)
  | (t, h) :: l, s =>
    let (r, s) := homeRecord s ctx t h
    let (xs, s) := readHyper ctx l s
    match r with
    | .found r => ((t, h, r.lr, r.eps, r.beta) :: xs, s)
    | _ => (xs, s)

/-- The apply that is next at a unit begins. -/
def beginApply (s : State) (k : Nat) : State :=
  match firstApplying (getRmu s k) with
  | none => s
  | some w =>
    if w.hyper.isEmpty then
      let (l, s) := readHyper w.ctx (windowTables (getRmu s k) w) s
      modRmu s k fun r => modWindow r w.ctx w.step fun w => { w with hyper := l }
    else s

/-- R303, R306: LASTCLOSE rises at every Row Merge Unit, and the windows go to their apply. One that took
nothing has nothing to apply. -/
def closeAt (ctx step : Nat) (r : Rmu) : Rmu :=
  let r := { r with lastClose := spSet 0 ctx (max step (spGet 0 ctx r.lastClose)) r.lastClose }
  if r.windows.any (isWindow ctx step) || r.windows.any (fun w => w.ctx == ctx && w.applying) then
    let r := modWindow r ctx step fun w => { w with closing := true, passed := true, applying := true }
    { r with windows := r.windows.filter (fun w => !isWindow ctx step w) ++ r.windows.filter (isWindow ctx step) }
  else { r with applied := spSet 0 ctx (max step (spGet 0 ctx r.applied)) r.applied }

def closePasses (s : State) (ctx step : Nat) : State :=
  let s := (List.range (channels s.variant)).foldl (fun s k => beginApply (modRmu s k (closeAt ctx step)) k) s
  endClose s ctx step codeDone

/-- A Row Merge Unit that has still to drain and check its window. -/
def uncheckedAt (ctx step : Nat) (r : Rmu) : Bool := r.windows.any fun w => isWindow ctx step w && w.closing && !w.passed

def unchecked (s : State) (ctx step : Nat) : Bool := s.rmus.any fun e => uncheckedAt ctx step e.2

/-- R303: the window stops taking contributions everywhere; with none open the close passes at once. -/
def stopWindows (s : State) (ctx step : Nat) : State :=
  let s := { s with rmus := spMap rmuReset (fun _ r =>
    { r with windows := r.windows.map fun w => if isWindow ctx step w then { w with closing := true } else w }) s.rmus }
  if unchecked s ctx step then s else closePasses s ctx step

/-- R299, R300: space for the closing merge: as much again as the window spilled, in each part. -/
def reserveScratch (k ctx step : Nat) : List Run → State → Bool × State
  | [], s => (true, s)
  | u :: us, s =>
    let (h, s) := homeRecord s ctx u.table u.shard
    let place := match h with
      | .found h => spillFit (getRmu s k) (spillPart s h k) u.len
      | _ => none
    match place with
    | none => (false, s)
    | some ext =>
      reserveScratch k ctx step us (modRmu s k fun r => { r with runs := r.runs ++ [{ u with ext := ext, count := 0 }] })

/-- R303: the close check of one Row Merge Unit; 0, or the reason it fails (RMU_FAIL). -/
def closeReason (s : State) (k : Nat) (w : Window) : Nat :=
  if w.overflow then 1
  else if w.inn != w.buf + w.spilled || w.upset then 2
  else if channelFailed s k && w.inn != 0 then 3
  else 0

def checkWindow (s : State) (k : Nat) (w : Window) : State :=
  let reason := closeReason s k w
  if reason != 0 then closeFails s w.ctx w.step reason
  else
    let (ok, s) := reserveScratch k w.ctx w.step
      ((getRmu s k).runs.filter fun u => u.ctx == w.ctx && u.step == w.step) s
    if !ok then closeFails s w.ctx w.step 1
    else
      let s := modRmu s k fun r => modWindow r w.ctx w.step fun w => { w with passed := true }
      if unchecked s w.ctx w.step then s else closePasses s w.ctx w.step

/-- The window of a context and step drains at this unit. -/
def draining (s : State) (k ctx step : Nat) : Option Window :=
  (findWindow (getRmu s k) ctx step).filter fun w => w.closing && !w.passed && w.flight == 0

def execDrainEnd (k : Fin 128) (ctx : Fin 64) (step : Nat) (s : State) : Res :=
  match draining s k.val ctx.val step with
  | none => .next s
  | some w => whenDue (planeUp s) s (.next (checkWindow s k.val w))

/-- R219: the instance can release. -/
def releaseDue (s : State) (b : Barrier) : Bool :=
  b.arrivals.length == b.count && (b.time == 0 || reached s b.time)

/-- R219, R221: release. -/
def releaseBarrier (s : State) (b : Barrier) : State :=
  if b.mg then
    stopWindows { s with barriers := s.barriers.map fun y => if y = b then { y with closing := true } else y }
      b.ctx b.step
  else retireArrivals codeDone b.delay (ascending b.arrivals) { s with barriers := s.barriers.filter fun y => y != b }

def execBarrRelease (ctx : Fin 64) (id : Fin 256) (s : State) : Res :=
  match s.barriers.find? (isBarrier ctx.val id.val false) with
  | none => .next s
  | some b => whenDue (releaseDue s b && planeUp s) s (.next (releaseBarrier s b))

/-! ### Applying (R305, R306, R308 to R311) -/

/-- The contributions of a record list read back from a run. -/
def parseRecords (ctx shard w : Nat) (bs : List Byte) (ps : List Bool) : Nat → List Contribution
  | 0 => []
  | n + 1 =>
    let bf := (fieldAt bs 7 1).testBit 1
    let g := if bf then 2 * w else 4 * w
    let len := 32 + (g + 15) / 16 * 16
    let body := (bs.drop 32).take g
    let grad : List W32 := if bf then (unpackBits 16 w body).map fun v => BitVec.ofNat 32 (65536 * v)
      else (unpackBits 32 w body).map fun v => BitVec.ofNat 32 v
    let head := ps.getD 0 false || ps.getD 1 false
    let bad := (List.range w).map fun e => head || ps.getD (2 + e / (if bf then 8 else 4)) false
    { step := fieldAt bs 0 4, ldev := fieldAt bs 4 2 % 1024, lcore := fieldAt bs 6 1, bag := fieldAt bs 8 4,
      pos := fieldAt bs 12 2, ctx := ctx, table := fieldAt bs 14 2, shard := shard,
      row := fieldAt bs 16 8 % 2 ^ 40, grad := grad, bf16 := bf, replay := (fieldAt bs 7 1).testBit 0,
      from_ := none, srcDev := 0, srcTag := 0, express := false, poison := bad, tag := none }
      :: parseRecords ctx shard w (bs.drop len) (ps.drop (len / 16)) n

/-- The poison of the 16-byte word of device memory that holds a byte. -/
def devPoisonAt (s : State) (a : Nat) : Bool :=
  let l := a / 128
  let c := if cacheEnabled s then
      (match lookup (getSlice s (sliceOf l)) l with
       | some (_, x) => x
       | none => hbmLine s l)
    else hbmLine s l
  c.poison.getD (a / 16 % 8) false

/-- The poison of each 16 bytes of a range of device memory, for a requester whose check passes; the range may lie askew of
the words. -/
def devPoison (s : State) (pa n : Nat) : List Bool :=
  (List.range ((n + 15) / 16)).map fun i =>
    devPoisonAt s (pa + 16 * i) || (pa % 16 != 0 && devPoisonAt s (pa + min (16 * i + 15) (n - 1)))

/-- The bytes of extents and the poison of their words; none when one cannot be read. -/
def readExtents (ctx : Nat) : List (Nat × Nat) → State → Option (List Byte × List Bool) × State
  | [], s => (some ([], []), s)
  | e :: es, s =>
    let (r, s) := devRead s ⟨some ctx, 3, 3⟩ e.1 e.2
    let ps := devPoison s e.1 e.2
    let (x, s) := readExtents ctx es s
    if r.mismatch || r.failed then (none, s) else (x.map fun y => (r.bytes ++ y.1, ps ++ y.2), s)

/-- R306: read a run back. A run that cannot be read brings nothing. -/
def readRun (s : State) (u : Run) (w : Nat) : List Contribution × State :=
  match readExtents u.ctx u.ext s with
  | (none, s) => ([], s)
  | (some (bs, ps), s) => (parseRecords u.ctx u.shard w (bs.drop 128) (ps.drop 8) u.count, s)

def readRuns (ctx : Nat) : List Run → List Contribution → State → List Contribution × State
  | [], acc, s => (acc, s)
  | u :: us, acc, s =>
    let (h, s) := homeRecord s ctx u.table u.shard
    match h with
    | .found h =>
      let (xs, s) := readRun s u (homeElems h)
      readRuns ctx us (acc ++ xs) s
    | _ => readRuns ctx us acc s

/-- Do two contributions of one row share their canonical key? -/
def sameKey (x y : Contribution) : Bool := contribKey x == contribKey y

/-- R305: what becomes of the contributions of one row, in key order: those added, the replay duplicates
dropped, and the extra ones of a repeated key. The order among equal keys without REPLAY is open: a free value
chooses it. -/
def pickKeys : List Contribution → State → (List Contribution × Nat × Nat) × State
  | [], s => (([], 0, 0), s)
  | x :: xs, s =>
    let ((ys, d, e), s) := pickKeys xs s
    let same := ys.takeWhile (sameKey x)
    let rest := ys.drop same.length
    if same.isEmpty then ((x :: ys, d, e), s)
    else if x.replay || same.any (·.replay) then
      (({ x with replay := true } :: rest, d + same.length, e - (same.length - 1)), s)
    else
      let (w, s) := drawWord s
      let n := w.toNat % (same.length + 1)
      ((same.take n ++ x :: same.drop n ++ rest, d, e + 1), s)

/-- An FP32 operation rounded by nearest-even, with the flags it raises. -/
def flOp (x : Num × Bool) : W32 × Flags := (fp32Of x.1, fp32Flags x.1 ||| flagIf x.2 flagNV)

/-- R81 with nearest-even and SAT = 1. -/
def writeBack (f : FloatSpec) (p : Num) : Nat × Flags := encodeFloat f .nearest true 0 p

/-- R305: the window sums of a row, a pair per element. -/
def rowSums (w : Nat) (xs : List Contribution) : List Pair × Flags :=
  xs.foldl (fun a x =>
    let r := List.zipWith pairAdd a.1 x.grad
    (r.map (·.1), r.foldl (fun f y => f ||| y.2) a.2)) (List.replicate w pairZero, 0#8)

/-- Poison of each element of the sums. -/
def sumPoison (w : Nat) (xs : List Contribution) : List Bool :=
  (List.range w).map fun e => xs.any fun x => x.poison.getD e false

/-- The scalar steps of RWA (R308): the new state word, and q. -/
def rwaSteps (h : HomeRec) (w : Nat) (gs : List W32) (v : W32) : W32 × W32 × Flags :=
  let (p, f0) := gs.foldl (fun a g => let (q, f) := pairAddProduct a.1 g g; (q, a.2 ||| f)) (pairZero, 0#8)
  let (pb, f1) := writeBack specFp32 (pairNum p)
  let (inv, f2) := flOp (numDiv (.fin false 1 0) (numOfInt w))
  let (m, f3) := flOp (numMul (decodeFloat specFp32 pb) (fp32Num inv))
  let (bv, f4) := flOp (numMul (fp32Num h.beta) (fp32Num v))
  let (v2, f5) := flOp (numAdd (fp32Num bv) (fp32Num m))
  let (sq, f6) := flOp (numSqrt (fp32Num v2))
  let (d, f7) := flOp (numAdd (fp32Num sq) (fp32Num h.eps))
  let (q, f8) := flOp (numDiv (fp32Num h.lr) (fp32Num d))
  (v2, q, f0 ||| f1 ||| f2 ||| f3 ||| f4 ||| f5 ||| f6 ||| f7 ||| f8)

/-- FP32 negation. -/
def fp32Neg (x : W32) : W32 := x ^^^ 0x80000000#32

/-- R308: the pairs R after the update. -/
def updatePairs (h : HomeRec) (q : W32) (rs gs : List Pair) : List Pair × Flags :=
  if h.fn = 0 then
    let z := List.zipWith pairCombine rs gs
    (z.map (·.1), z.foldl (fun f y => f ||| y.2) 0#8)
  else
    let k := fp32Neg (if h.fn = 1 then h.lr else q)
    let z := List.zipWith (fun r (g : Pair) =>
      let (b, f1) := writeBack specFp32 (pairNum g)
      let (x, f2) := pairAddProduct r k (BitVec.ofNat 32 b)
      (x, f1 ||| f2)) rs gs
    (z.map (·.1), z.foldl (fun f y => f ||| y.2) 0#8)

/-- The element encoding of a home row's format. -/
def homeSpec (f : Fmt) : FloatSpec :=
  match f with
  | .bf16 => specBf16
  | .fp16 => specFp16
  | _ => specFp32

/-- Poison of 16-byte words from that of elements of `k` bytes. -/
def wordsOfElems (k : Nat) (es : List Bool) : List Bool :=
  (chunks (16 / k) (es.length + 1) es).map fun g => g.any id

/-- R308: update one row. -/
def updateRow (s : State) (ctx : Nat) (h : HomeRec) (row : Nat) (xs : List Contribution) : Flags × State :=
  let w := homeElems h
  let k := fmtBits h.fmt / 8
  let who := mergeWho ctx
  let sp := homeSpec h.fmt
  let pa := homeRow h row
  let epa := h.epbase + row * (h.rowb / 2)
  let (gs, f0) := rowSums w xs
  let (r, s) := devRead s who pa h.rowb
  let rowBad := if r.mismatch || r.failed then List.replicate w true
    else (List.range w).map fun e => (devPoison s pa h.rowb).getD (e * k / 16) false
  let (er, s) := if h.ep then devRead s who epa (2 * w) else (⟨[], false, false, false⟩, s)
  let eBad := if er.mismatch || er.failed then List.replicate w true
    else if h.ep then (List.range w).map fun e => (devPoison s epa (2 * w)).getD (e / 8) false
    else List.replicate w false
  let errs := unpackBits 16 w er.bytes
  let rs : List Pair := (unpackBits (fmtBits h.fmt) w r.bytes).zipIdx.map fun e =>
    ⟨fp32Of (decodeFloat sp e.1), if h.ep then BitVec.ofNat 32 (65536 * errs.getD e.2 0) else 0#32⟩
  let (st, s) := if h.fn = 2 then devRead s who (h.stbase + 4 * row) 4 else (⟨[], false, false, false⟩, s)
  let gb := gs.map fun g => BitVec.ofNat 32 (writeBack specFp32 (pairNum g)).1
  let (v, q, f1) := if h.fn = 2 then rwaSteps h w gb (BitVec.ofNat 32 (leNat st.bytes)) else (0#32, 0#32, 0#8)
  let gBad := sumPoison w xs
  let all := h.fn == 2 && (st.poison || st.mismatch || st.failed || gBad.any id)
  let s := if h.fn = 2 then (devWrite s who (h.stbase + 4 * row) (leBytes 4 v.toNat) [all]).2 else s
  let (ps, f2) := updatePairs h q rs gs
  let outs := ps.map fun p => writeBack sp (pairNum p)
  let bad := (List.range w).map fun e => all || gBad.getD e false || rowBad.getD e false || eBad.getD e false
  let s := (devWrite s who pa (outs.flatMap fun o => leBytes k o.1) (wordsOfElems k bad)).2
  let es := (ps.zip outs).map fun e =>
    let d := numSub (pairNum e.1) (decodeFloat sp e.2.1)
    let (b, f) := writeBack specBf16 d.1
    (b, f ||| flagIf d.2 flagNV)
  let s := if h.ep then (devWrite s who epa (es.flatMap fun o => leBytes 2 o.1) (wordsOfElems 2 bad)).2 else s
  (f0 ||| f1 ||| f2 ||| orFlags outs ||| (if h.ep then orFlags es else 0#8), s)

/-- What the apply of a window has done so far. -/
structure Applied where
  out : Nat
  dup : Nat
  extra : Nat
  flags : Flags
  deriving DecidableEq, Repr

/-- The next row of a sorted list: its contributions, and the rest. -/
def sameRow (x y : Contribution) : Bool := x.table == y.table && x.shard == y.shard && x.row == y.row

/-- A home record with the LR, EPS and BETA that the apply read at its beginning (R310). -/
def withHyper (l : List (Nat × Nat × W32 × W32 × W32)) (table shard : Nat) (h : HomeRec) : HomeRec :=
  match l.find? fun e => e.1 == table && e.2.1 == shard with
  | some (_, _, lr, eps, beta) => { h with lr := lr, eps := eps, beta := beta }
  | none => h

/-- R305: apply the rows of a sorted list one after another; `fuel` rows at most. -/
def applyRows (ctx : Nat) (hyper : List (Nat × Nat × W32 × W32 × W32)) : Nat → List Contribution → Applied → State → Applied × State
  | 0, _, a, s => (a, s)
  | fuel + 1, l, a, s =>
    match l with
    | [] => (a, s)
    | x :: _ =>
      let mine := l.takeWhile (sameRow x)
      let ((xs, d, e), s) := pickKeys mine s
      let (h, s) := homeRecord s ctx x.table x.shard
      match h with
      | .found h =>
        let (f, s) := updateRow s ctx (withHyper hyper x.table x.shard h) x.row xs
        applyRows ctx hyper fuel (l.dropWhile (sameRow x)) ⟨a.out + xs.length, a.dup + d, a.extra + e, a.flags ||| f⟩ s
      | _ => applyRows ctx hyper fuel (l.dropWhile (sameRow x)) a s

/-- R306, R307, R311: the window's books at the end of its apply, and its close record. -/
def windowOver (s : State) (k : Nat) (w : Window) (flags : Flags) : State :=
  let s := modRmu s k fun r =>
    { r with windows := r.windows.filter fun x => !isWindow w.ctx w.step x,
             buffer := r.buffer.filter fun x => !(x.ctx == w.ctx && x.step == w.step),
             runs := r.runs.filter fun u => !(u.ctx == w.ctx && u.step == w.step),
             applied := spSet 0 w.ctx (max w.step (spGet 0 w.ctx r.applied)) r.applied }
  let s := bump (bump s .rmuOut 0 0 0 w.out) .rmuDupdrop 0 0 0 w.dup
  let s := if w.out + w.dup = w.inn then s else post s .mergeMismatch 5 k (some w.ctx) 0 0
  post s .windowClose 5 k (some w.ctx) flags.toNat 0

/-- The apply of a window ends, and the next one at its unit begins. -/
def applyWindow (s : State) (k : Nat) (w : Window) : State :=
  let r := getRmu s k
  let buf := r.buffer.filter fun x => x.ctx == w.ctx && x.step == w.step
  let runs := r.runs.filter fun u => u.ctx == w.ctx && u.step == w.step && u.count != 0
  let (back, s) := readRuns w.ctx runs [] s
  let l := sortContribs (buf ++ back)
  let (a, s) := applyRows w.ctx w.hyper l.length l ⟨0, 0, 0, 0#8⟩ s
  let s := bump s .rmuDupkey 0 0 0 a.extra
  beginApply (windowOver s k { w with buf := 0, spilled := 0, out := a.out, dup := a.dup } a.flags) k

def execApplyEnd (k : Fin 128) (s : State) : Res :=
  match firstApplying (getRmu s k.val) with
  | none => .next s
  | some w => whenDue (planeUp s) s (.next (applyWindow s k.val w))

end Sys2Proof.Machine
end

