-- ==== Sys2Proof/Machine/Matrix.lean ====
section
/-! DEFINITION. Matrix layers: the weight injectors and the Loop Line, the Matrix Units and the Output
Compressor, layer ends and the resuming of halted streams (spec/08, R243 to R248, R258, R264 to R268). -/

namespace Sys2Proof.Machine

/-! ### Geometry (R320 to R322, Table 8.1) -/

/-- R85: a layer runs at the 16-bit rate when either operand is a 16-bit format. -/
def wideRate (a b : Fmt) : Bool :=
  let wide (f : Fmt) : Bool := f == .fp16 || f == .bf16
  wide a || wide b

/-- R326: positions of one reduction block. -/
def reduceBlock (a b : Fmt) : Nat := if wideRate a b then 128 else 256

/-- Table 8.1. -/
def panelReach (f : Fmt) (sp : Bool) : Nat :=
  match f, sp with
  | .fp16, _ | .bf16, _ => 256
  | .bs8, false => 256
  | .f8a, false | .f8b, false | .int8, false => 512
  | .int4, false => 1024
  | .bs4, false => 768
  | .int4, true => 1280
  | .bs4, true => 1024
  | _, _ => 768

/-- Bytes of one weight row (R320). -/
def weightBytes (f : Fmt) (sp : Bool) (k : Nat) : Nat := if sp then sparseBytes f k else rowBytes f k

def panelsPerBlock (l : Layer) : Nat :=
  let r := panelReach l.fmtIn l.sp
  (l.k + r - 1) / r

def mBlocks (l : Layer) : Nat := (l.m + 63) / 64

/-- Panels of a whole instance. -/
def panelCount (l : Layer) : Nat := mBlocks l * panelsPerBlock l

/-- First k position and reach of panel `p`. -/
def panelRange (l : Layer) (p : Nat) : Nat × Nat :=
  let r := panelReach l.fmtIn l.sp
  let k0 := p % panelsPerBlock l * r
  (k0, min r (l.k - k0))

/-- Columns of an m-block. -/
def blockCols (l : Layer) (j : Nat) : Nat := min 64 (l.m - 64 * j)

/-- Byte ranges of a weight row that a k range takes (R322, R329). -/
def panelBytes (f : Fmt) (sp : Bool) (k k0 kn : Nat) : List (Nat × Nat) :=
  let bits := if sp then fmtBits f / 2 else fmtBits f
  let v := k * bits / 8
  let scaled := f == .bs8 || f == .bs4
  let codes := if sp then [(v + k0 / 8, v + (k0 + kn + 7) / 8)] else []
  let base := if sp then v + k / 8 else v
  let scales := if scaled then [(base + k0 / 32, base + (k0 + kn + 31) / 32)] else []
  [(k0 * bits / 8, ((k0 + kn) * bits + 7) / 8)] ++ codes ++ scales

/-- The 16-byte words of those ranges. -/
def panelWords (f : Fmt) (sp : Bool) (k k0 kn : Nat) : List Nat :=
  ((panelBytes f sp k k0 kn).flatMap fun r =>
    (List.range ((r.2 + 15) / 16 - r.1 / 16)).map fun i => r.1 / 16 + i).eraseDups

/-! ### Instances -/

def isLayer (ctx id : Nat) (l : Layer) : Bool := l.ctx == ctx && l.id == id && l.complete

/-- The complete instance of a context and LAYER that runs now. -/
def findLayer (s : State) (ctx id : Nat) : Option Layer := s.layers.find? (isLayer ctx id)

/-- Change that instance. -/
def modLayer (s : State) (l : Layer) (f : Layer → Layer) : State :=
  { s with layers := s.layers.map fun x => if x.seq = l.seq && isLayer l.ctx l.id x then f x else x }

def dropLayer (s : State) (l : Layer) : State :=
  { s with layers := s.layers.filter fun x => !(x.seq = l.seq && isLayer l.ctx l.id x) }

/-- Stations named by a mask. -/
def maskStations (mask : Nat) : List Nat := (List.range 20).filter fun n => mask.testBit n

/-- The quadrant whose injector serves an instance. -/
def injectorOf (l : Layer) : Nat := (maskStations l.mask).headD 0 / 5

def getStation (l : Layer) (n : Nat) : StationSt := spGet stationReset n l.stations

def putStation (l : Layer) (n : Nat) (x : StationSt) : Layer :=
  { l with stations := spSet stationReset n x l.stations }

/-- End an instance with a failure code for every arrival. -/
def failLayer (s : State) (l : Layer) (code : Nat) : State := failAll (dropLayer s l) code (ascending l.arrivals)

/-! ### Matrix Units and partners (R318, R325) -/

def muFailed (s : State) (n : Nat) : Bool := regBit s .sbMufail 0 0 0 n

/-- R325: the station whose Matrix Unit serves station `n`. -/
def muServer (s : State) (n : Nat) : Option Nat :=
  let q := n / 5
  (([0, 1, 2, 3, 4] : List Nat).map fun j => 5 * q + (n - 5 * q + j) % 5).find? fun m => !muFailed s m

/-- Panels of an instance that occupy a Matrix Unit's landing buffer: its own and those it holds for others. -/
def landedAt (s : State) (m : Nat) (l : Layer) : Nat :=
  ((maskStations l.mask).filter fun n => muServer s n == some m).foldl
    (fun k n => max k (getStation l n).landed.length) 0

/-- R246: landing slots in use. -/
def slotsUsed (s : State) (m : Nat) : Nat := (s.layers.map (landedAt s m)).sum

/-- The station has a core whose express slot is enabled. -/
def stationExpress (s : State) (n : Nat) : Bool :=
  (List.range 8).any fun i => (getCore s (8 * n + i)).expressEn

/-- R246, R323: a slot is free for a panel of this class. -/
def slotFree (s : State) (express : Bool) (n : Nat) : Bool :=
  match muServer s n with
  | none => false
  | some m => slotsUsed s m < (if !express && stationExpress s m then 3 else 4)

/-- R258: no other instance of the class holds the station's landing buffer. -/
def holdFree (s : State) (l : Layer) (n : Nat) : Bool :=
  (spGet muReset n s.mus).holds.all fun h => h.seq == l.seq || h.express != l.express

/-- The arrivals of a station, by core and slot (R321). -/
def participants (s : State) (l : Layer) (n : Nat) : List (Nat × Cmd) :=
  ([0, 1, 2, 3, 4, 5, 6, 7] : List Nat).flatMap fun i =>
    l.arrivals.filterMap fun t =>
      match tagCmd s t with
      | some c => if c.core = 8 * n + i then some (t, c) else none
      | none => none

/-! ### The injector (R244 to R248, R320) -/

/-- R247: does another instance of the injector go first? -/
def servedNow (s : State) (l : Layer) : Bool :=
  s.layers.all fun x =>
    !(x.complete && injectorOf x == injectorOf l && (!x.started || x.sent < panelCount x))
      || (if x.express == l.express then decide (l.seq ≤ x.seq) else l.express)

/-- R63, R320, R227: the weight block list as the first arrival's core holds it. -/
def startLayer (s : State) (l : Layer) : State :=
  match (l.arrivals.head?).bind (tagCmd s) with
  | none => dropLayer s l
  | some c =>
    if !l.sp && !rowOk l.fmtIn l.k then failLayer s l codeBadDescriptor
    else
      match listStream (getCore s c.core) c.slot c.blk.w1 l.fmtIn (weightBytes l.fmtIn l.sp l.k) l.m with
      | .inl e => failLayer s l e
      | .inr st => modLayer s l fun x => { x with started := true, rows := st.rows }

/-- The instance may make its first read: its mask has the Matrix Units it needs, and it is its turn. -/
def firstReadDue (s : State) (l : Layer) : Bool := planeUp s && !l.started && servedNow s l

def execInjectorFirstRead (ctx : Fin 64) (layer : BitVec 16) (s : State) : Res :=
  match findLayer s ctx.val layer.toNat with
  | none => .next s
  | some l => whenDue (firstReadDue s l) s (.next (startLayer s l))

/-- Where a weight line comes from, or why the panel cannot be read now (Table 6.7). -/
inductive InjTo where
  | dev (pa wp : Nat)
  | host (fn a : Nat) (gran : Option (Nat × Nat))
  /-- Under POISON_FLOW: an absent granule, and a host page that is not there. -/
  | flow (seg k : Nat)
  | flowPage (fn : Nat) (pasid : Option Nat) (a : Nat)
  | halt (w : WaitOn)
  | fail (code : Nat)
  /-- The injector waits for a host translation. -/
  | ats
  | wait
  deriving DecidableEq, Repr

/-- A weight line at a host page that grants no read (R443). -/
def injPage (s : State) (l : Layer) (fn : Nat) (x : Option Nat) (a : Nat) : InjTo × State :=
  if !priUp s fn then (.fail codeSegFault, s)
  else if !pageRoom s fn x a then (.wait, s)
  else if l.fm then (.halt (.page fn x (a / 4096)), requestPage s fn x a)
  else (.flowPage fn x a, s)

/-- Translate one weight line. A stop has its effect at once; anything else has none. -/
def injTo (s : State) (l : Layer) (va : Nat) : InjTo × State :=
  match unitXlate s (.injector l.ctx l.id) (4 + injectorOf l) l.ctx va .read l.express with
  | (.dev pa wp, s) => (.dev pa wp, s)
  | (.host iova gran, s) =>
    (match hostLine s l.ctx iova gran false with
     | .host fn a g => (.host fn a g, s)
     | .ats fn x a => (.ats, modLayer (askAts s fn x a) l fun y => { y with xlate := true })
     | .page fn x a => injPage s l fn x a
     | _ => (.fail codeSegFault, s))
  | (.absent seg k, s) =>
    if !faultRoom s l.ctx seg k then (.wait, s)
    else if l.fm then (.halt (.granule l.ctx seg k), faultRecord s l.ctx seg k va false l.express true)
    else (.flow seg k, s)
  | (.miss, s) => (.wait, s)
  | (_, s) => (.fail codeSegFault, s)

/-- The line can be read. -/
def injGoes : InjTo → Bool
  | .dev .. | .host .. | .flow .. | .flowPage .. => true
  | _ => false

/-- Translate the lines of a panel, given by row and line: their sources, or the line that stops the panel. -/
def injScan (l : Layer) : List (Nat × Nat) → State → (List (Nat × Nat × InjTo) ⊕ (Nat × Nat × InjTo)) × State
  | [], s => (.inl [], s)
  | (r, x) :: xs, s =>
    match injTo s l (128 * x) with
    | (w, s) =>
      if injGoes w then
        match injScan l xs s with
        | (.inl ys, s) => (.inl ((r, x, w) :: ys), s)
        | e => e
      else (.inr (r, 128 * x, w), s)

/-- A line that never comes: its words are poisoned. -/
def injAbsent (s : State) : (List Byte × List Bool) × State :=
  let (d, s) := drawBytes s 128
  ((d, List.replicate 8 true), s)

/-- Host lines that a panel needs. -/
def hostLines (xs : List (Nat × Nat × InjTo)) : Nat := xs.countP fun e =>
  match e.2.2 with
  | .host .. => true
  | _ => false

/-- Read the lines of a panel, the host's answers in order: rows, lines and data, or the code that ends the instance. -/
def injFetch (l : Layer) : List (Nat × Nat × InjTo) → List HostReply → State →
    (List (Nat × Nat × List Byte × List Bool) ⊕ Nat) × State
  | [], _, s => (.inl [], s)
  | (r, x, w) :: xs, hs, s =>
    let put (d : List Byte × List Bool) (hs : List HostReply) (s : State) :=
      match injFetch l xs hs s with
      | (.inl ys, s) => ((.inl ((r, x, d.1, d.2) :: ys) : List (Nat × Nat × List Byte × List Bool) ⊕ Nat), s)
      | e => e
    match w with
    | .dev pa wp =>
      let (c, o, s) := memLine s ⟨some l.ctx, 2, wp⟩ (pa / 128)
      if o = .failed then (.inr codeGranuleFailed, s) else put (c.data, c.poison) hs s
    | .host fn a g =>
      let s := match g with
        | some (seg, k) => countHost s l.ctx seg k (128 * x)
        | none => s
      let s := emit s fn (.read fn a 128 (hostAttr s l.ctx true))
      (match hs with
       | .data bs bad :: hs =>
         put (padTo 128 (bs.take 128), List.replicate 8 bad) hs (if bad then aerReport s fn .poisonedTlp else s)
       | _ => (.inr codeSegFault, post s .hostAbort 7 fn (some l.ctx) 0 a))
    | .flow seg k =>
      let (d, s) := injAbsent (faultRecord s l.ctx seg k (128 * x) false l.express false)
      put d hs s
    | .flowPage fn p a =>
      let (d, s) := injAbsent (requestPage s fn p a)
      put d hs s
    | _ => (.inr codeSegFault, s)

/-- The bytes of a row's needed words and whether one is poisoned; the other bytes are zero. -/
def assembleRow (va rowb : Nat) (words : List Nat) (ls : List (Nat × List Byte × List Bool)) : List Byte × Bool :=
  let word (w : Nat) : List Byte × Bool :=
    let a := rowWord va w
    match ls.find? fun e => e.1 == a / 128 with
    | some (_, bs, ps) => ((bs.drop (a % 128)).take 16, ps.getD (a / 16 % 8) false)
    | none => (List.replicate 16 0#8, false)
  ((List.range (rowb / 16)).flatMap fun w => if words.contains w then (word w).1 else List.replicate 16 0#8,
   words.any fun w => (word w).2)

/-- The weights of a row in a k range, with their positions (R320, R330). -/
def rowWeights (l : Layer) (k0 kn : Nat) (bs : List Byte) : List (Nat × Num) :=
  let all := if l.sp then sparseWeights l.fmtIn l.k bs
    else (decodeRow l.fmtIn l.k bs).zipIdx.map fun e => (e.2, e.1)
  all.filter fun e => k0 ≤ e.1 && e.1 < k0 + kn

/-- The lines that the columns of a panel take, by row. -/
def panelLines (l : Layer) (p : Nat) : List (Nat × Nat) :=
  let j := p / panelsPerBlock l
  let (k0, kn) := panelRange l p
  (List.range (blockCols l j)).flatMap fun i =>
    let r := 64 * j + i
    (((panelWords l.fmtIn l.sp l.k k0 kn).map fun w => rowWord (l.rows.getD r 0) w / 128).eraseDups).map fun x => (r, x)

/-- The panel those lines make. -/
def panelOf (l : Layer) (p : Nat) (ls : List (Nat × Nat × List Byte × List Bool)) : Panel :=
  let j := p / panelsPerBlock l
  let (k0, kn) := panelRange l p
  { mblock := j, k0 := k0, kn := kn, cols := (List.range (blockCols l j)).map fun i =>
      let r := 64 * j + i
      let (bs, bad) := assembleRow (l.rows.getD r 0) (weightBytes l.fmtIn l.sp l.k)
        (panelWords l.fmtIn l.sp l.k k0 kn) ((ls.filter fun e => e.1 == r).map (·.2))
      (rowWeights l k0 kn bs, bad) }

/-- R264, R268: the weight stream halts; the stream-state block is that of the first arrival's block list. -/
def haltLayer (s : State) (l : Layer) (row va : Nat) (w : WaitOn) : State :=
  match (l.arrivals.head?).bind (tagCmd s) with
  | some c =>
    let k := getCore s c.core
    let st := { newStream l.rows [] 0 0 (max 1 (lsNat k (c.blk.w1 + 12) 4)) c.blk.w1 with
                tile := row / max 1 (lsNat k (c.blk.w1 + 12) 4), rowsDone := 64 * (l.sent / panelsPerBlock l) }
    let s := setCore s c.core (lsWrite k (c.blk.w1 + 32) (ssbBytes s st (l.halts + 1) w va) false)
    modLayer s l fun x => { x with halted := some w, halts := x.halts + 1 }
  | none => s

/-- R246: a panel lands at every station of the mask. -/
def landAll (s : State) (l : Layer) (p : Panel) : State :=
  modLayer s l fun x =>
    (maskStations l.mask).foldl (fun y n => let st := getStation y n; putStation y n { st with landed := st.landed ++ [p] })
      { x with sent := x.sent + 1 }

/-- R258: the slots of a station whose markers an instance waits for. One that takes part in another instance will send none between
the two (DESIGN CHOICE, log 21). -/
def markersOf (s : State) (l : Layer) (n : Nat) : List (Nat × SlotId) :=
  (l.who.eraseDups).filter fun w => w.1 / 8 == n && !(s.layers.any fun x => x.seq != l.seq && x.who.contains w)

/-- R258: the landing buffers of the mask's stations are held for the layer's participants. -/
def holdBuffers (s : State) (l : Layer) : State :=
  (maskStations l.mask).foldl (fun s n =>
    let m := spGet muReset n s.mus
    let ws := markersOf s l n
    if ws.isEmpty || m.holds.any (fun h => h.seq == l.seq) then s
    else { s with mus := spSet muReset n { m with holds := m.holds ++ [⟨l.seq, l.express, ws⟩] } s.mus }) s

/-- R187, R335: output bytes of a station go to local store once the weights have all come, those that share a word with later ones
with the last. -/
def flushOuts (s : State) (l : Layer) (n : Nat) : State :=
  match s.layers.find? fun x => x.seq = l.seq && isLayer l.ctx l.id x with
  | none => s
  | some x =>
    if x.sent != panelCount x then s
    else
      let st := getStation x n
      let goes (o : OcWrite) : Bool := !o.late || st.written == mBlocks x
      let s := (st.outs.filter goes).foldl (fun s o => modCore s o.core fun k => lsPut k o.addr o.bytes o.poison) s
      modLayer s l fun y => putStation y n { st with outs := st.outs.filter fun o => !goes o }

/-- A panel that has been read lands. -/
def landPanel (s : State) (l : Layer) (p : Panel) : State :=
  let s := holdBuffers (landAll s l p) l
  (maskStations l.mask).foldl (fun s n => flushOuts s l n) s

/-- The next panel of an instance is read and sent, or what stops it happens. With too few answers of the host it waits. -/
def injectPanel (s : State) (l : Layer) (hs : List HostReply) : State :=
  match injScan l (panelLines l l.sent) s with
  | (.inr (row, va, .halt w), s) => haltLayer s l row va w
  | (.inr (_, _, .fail code), s) => failLayer s l code
  | (.inr _, s) => s
  | (.inl xs, s) =>
    if hs.length < hostLines xs then s
    else
      match injFetch l xs hs s with
      | (.inl ls, s) => landPanel s l (panelOf l l.sent ls)
      | (.inr code, s) => failLayer s l code

/-- The instance's injector has its next panel at hand, and every station of the mask has room for it (R246, R258). -/
def panelReady (s : State) (l : Layer) : Bool :=
  planeUp s && l.started && l.sent < panelCount l && l.halted.isNone && !l.xlate
    && !missWaits s (.injector l.ctx l.id) && servedNow s l
    && (maskStations l.mask).all fun n => slotFree s l.express n && holdFree s l n

/-- R247: express panels go on the ring before bulk panels; the order among the rest is the sender's. -/
def injectDue (s : State) (l : Layer) : Bool :=
  panelReady s l && (l.express || !(s.layers.any fun x => x.complete && x.express && panelReady s x))

/-- `host`: what the host returns for the panel's lines of host memory, in order. -/
def execPanelInject (ctx : Fin 64) (layer : BitVec 16) (host : List HostReply) (s : State) : Res :=
  match findLayer s ctx.val layer.toNat with
  | none => .next s
  | some l => whenDue (injectDue s l) s (.next (injectPanel s l host))

/-! ### The array (R321, R326, R327, R342) -/

/-- Where a sum of m-block `j` stands in the partial store: participant, row and column. -/
def partKey (j p r c : Nat) : Nat := ((j % 2 * 16 + p) * 256 + r) * 64 + c

/-- Both operands are integers (R327). -/
def layerInt (l : Layer) (act : Fmt) : Bool :=
  (l.fmtIn == .int8 || l.fmtIn == .int4) && (act == .int8 || act == .int4)

/-- The exact sum of products of one reduction block, and whether an operation in it was invalid. -/
def blockSum (xs : List Num) (k0 : Nat) (ws : List (Nat × Num)) : Num × Bool :=
  ws.foldl (fun a w =>
    let p := numMul (xs.getD (w.1 - k0) .nan) w.2
    let y := numAdd a.1 p.1
    (y.1, a.2 || p.2 || y.2)) (.fin false 0 0, false)

/-- R326: the blocks of a panel enter the pair in ascending k. -/
def lanePairs (b : Nat) (xs : List Num) (k0 kn : Nat) (ws : List (Nat × Num)) (v : W64) : W64 × Flags :=
  let r := (List.range ((kn + b - 1) / b)).foldl (fun (a : Pair × Flags) i =>
    let x := blockSum xs k0 (ws.filter fun w => (w.1 - k0) / b = i)
    let y := pairAddExact a.1 x.1
    (y.1, a.2 ||| y.2 ||| flagIf x.2 flagNV)) (pairOfView v, 0#8)
  (pairView r.1, r.2)

/-- R327: the exact products accumulate as INT64. -/
def laneInts (xs : List Num) (k0 : Nat) (ws : List (Nat × Num)) (v : W64) : W64 × Flags :=
  let r := ws.foldl (fun (a : Int × Flags) w =>
    let y := int64Add a.1 (numInt (xs.getD (w.1 - k0) .nan) * numInt w.2)
    (y.1, a.2 ||| y.2)) (viewInt v, 0#8)
  (intView r.1, r.2)

/-- One lane: one column of the panel meets one activation row. -/
def laneStep (l : Layer) (p : Panel) (pi r : Nat) (act : Fmt) (xs : List Num) (bad : Bool) (st : StationSt)
    (c : Nat) : StationSt :=
  let col := p.cols.getD c ([], false)
  let key := partKey p.mblock pi r c
  let v := spGet 0#64 key st.part
  let (v, f) := if layerInt l act then laneInts xs p.k0 col.1 v
    else lanePairs (reduceBlock l.fmtIn act) xs p.k0 p.kn col.1 v
  { st with part := spSet 0#64 key v st.part,
            poison := if bad || col.2 then spSet false key true st.poison else st.poison,
            flags := spSet 0#8 pi (spGet 0#8 pi st.flags ||| f) st.flags }

/-- One activation row of a participant meets a panel. -/
def rowStep (k : Core) (l : Layer) (p : Panel) (pi : Nat) (c : Cmd) (st : StationSt) (r : Nat) : StationSt :=
  let xs := ((tileRow k c.ta r).drop p.k0).take p.kn
  let bad := (lsWordPoison k (tileRowAddr c.ta r) (rowBytes c.ta.fmt c.ta.n)).any id
  (List.range p.cols.length).foldl (laneStep l p pi r c.ta.fmt xs bad) st

/-- Row `r` of every participant's turn in its row group (R321). -/
def panelStep (s : State) (l : Layer) (p : Panel) (ps : List ((Nat × Cmd) × Nat)) (st : StationSt) : StationSt :=
  ps.foldl (fun st e =>
    (List.range e.1.2.ta.rows).foldl (rowStep (getCore s e.1.2.core) l p e.2 e.1.2) st) st

/-- R323: work of this class that the Matrix Unit has begun, or an express panel that has landed, goes first. -/
def muBusyOther (s : State) (m : Nat) (l : Layer) : Bool :=
  s.layers.any fun x =>
    x.complete && x.seq != l.seq && (maskStations x.mask).any fun n =>
      muServer s n == some m
        && (let st := getStation x n
            if x.express == l.express then
              (0 < st.consumed && st.written < mBlocks x) || (!st.landed.isEmpty && x.seq < l.seq)
            else x.express && (!st.landed.isEmpty || (0 < st.consumed && st.written < mBlocks x)))

/-- Activation rows that a Matrix Unit serves for an instance. -/
def rowsServed (s : State) (m : Nat) (l : Layer) : Nat :=
  (((maskStations l.mask).filter fun n => muServer s n == some m).map fun n =>
    ((participants s l n).map fun e => e.2.ta.rows).sum).sum

/-- R335: the partial store has room for the next m-block. -/
def storeRoom (s : State) (m : Nat) (l : Layer) (st : StationSt) : Bool :=
  let ahead := st.consumed / panelsPerBlock l - st.written
  if 2 * rowsServed s m l ≤ (if l.express then 512 else 4096) then ahead ≤ 1 else ahead = 0

/-- R325: the stations of the mask that a Matrix Unit serves, its own first. -/
def muOrder (s : State) (m : Nat) (l : Layer) : List Nat :=
  (([0, 1, 2, 3, 4] : List Nat).map fun j => 5 * (m / 5) + (m % 5 + 5 - j) % 5).filter fun n =>
    l.mask.testBit n && muServer s n == some m

/-- R325: for each panel, the stations are served in that order. -/
def passTurn (s : State) (m n : Nat) (l : Layer) : Bool :=
  let ns := muOrder s m l
  let k := (getStation l n).consumed
  (ns.takeWhile (· != n)).all (fun x => k < (getStation l x).consumed)
    && ((ns.dropWhile (· != n)).drop 1).all fun x => k ≤ (getStation l x).consumed

def consumeDue (s : State) (l : Layer) (n : Nat) : Bool :=
  match muServer s n with
  | none => false
  | some m =>
    planeUp s && !(getStation l n).landed.isEmpty && passTurn s m n l && !muBusyOther s m l
      && storeRoom s m l (getStation l n) && (participants s l n).all fun e => directReady s e.2

/-- The instance is over at every station. -/
def layerOver (l : Layer) : Bool :=
  l.sent == panelCount l && (maskStations l.mask).all fun n =>
    let st := getStation l n
    st.consumed == panelCount l && st.written == mBlocks l

/-- Remove an instance that is over. -/
def settleLayer (s : State) (l : Layer) : State :=
  match s.layers.find? fun x => x.seq = l.seq && isLayer l.ctx l.id x with
  | some x => if layerOver x then dropLayer s x else s
  | none => s

/-- R344: the Matrix Unit takes work of a class for a station. -/
def muTurns (s : State) (m n : Nat) (express : Bool) : State :=
  let x := spGet muReset m s.mus
  let y := some (express, n)
  { s with mus := spSet muReset m { x with last := y, turned := x.turned || (x.last.isSome && x.last != y) } s.mus }

/-- A panel is consumed for a station; with the last station that its Matrix Unit serves its slot goes free and it counts. -/
def consumePanel (s : State) (l : Layer) (n m : Nat) : State :=
  let st := getStation l n
  match st.landed with
  | [] => s
  | p :: ps =>
    let st := panelStep s l p (participants s l n).zipIdx { st with landed := ps, consumed := st.consumed + 1 }
    let s := muTurns (modLayer s l fun x => putStation x n st) m n l.express
    if (muOrder s m l).getLast? == some n then bump s .muPanels m 0 0 1 else s

def execPanelConsumed (ctx : Fin 64) (layer : BitVec 16) (station : Fin 20) (s : State) : Res :=
  match findLayer s ctx.val layer.toNat, muServer s station.val with
  | some l, some m =>
    whenDue (consumeDue s l station.val) s (.next (settleLayer (consumePanel s l station.val m) l))
  | _, _ => .next s

/-! ### The Output Compressor (R335 to R343) -/

/-- Poison of each byte of packed elements of `w` bits, from the poison of the elements. -/
def bytePoison (w n : Nat) (es : List Bool) : List Bool :=
  (List.range n).map fun b => (List.range ((8 * b + 7) / w - 8 * b / w + 1)).any fun i => es.getD (8 * b / w + i) false

/-- What the Output Compressor makes of a row: bytes to write, flags, and whether a word is poisoned. -/
structure OcRow where
  outs : List OcWrite
  flags : Flags
  bad : Bool
  deriving DecidableEq, Repr

/-- One more piece of output. -/
def ocAdd (x : OcRow) (core a : Nat) (bs : List Byte) (ps : List Bool) (late : Bool) : OcRow :=
  if bs.isEmpty then x else { x with outs := x.outs ++ [⟨core, a, bs, ps, late⟩] }

/-- The encodings of columns `e0` on of a row of `n` elements in a packed or block-scaled format; scale bytes, a few for each
m-block, wait for the rest of their 8-byte words (R148, R149). `pad` writes the padding up to the row's end. -/
def ocPut (x : OcRow) (core a : Nat) (f : Fmt) (n e0 : Nat) (rm : Rm) (sat src pad : Bool)
    (vs : List (Num × Threshold)) (es : List Bool) : OcRow :=
  let k := vs.length
  let (bs, fl) := encodeRow f rm sat src vs
  let w := fmtBits f
  let scaled := f == .bs8 || f == .bs4
  let group := (List.range k).map fun e => ((es.drop (e / 32 * 32)).take 32).any id
  let x := ocAdd x core (a + e0 * w / 8) (bs.take (k * w / 8)) (bytePoison w (k * w / 8) (if scaled then group else es)) false
  let x := if scaled then
      ocAdd x core (a + n * w / 8 + e0 / 32) ((bs.drop (k * w / 8)).take ((k + 31) / 32))
        ((chunks 32 (k + 1) es).map fun g => g.any id) true
    else x
  let used := n * w / 8 + (if scaled then (n + 31) / 32 else 0)
  let x := if pad && used < rowBytes f n then
      ocAdd x core (a + used) (List.replicate (rowBytes f n - used) 0#8) [] true
    else x
  { x with flags := x.flags ||| fl, bad := x.bad || es.any id }

/-- R336: quantize one row of an m-block. -/
def ocQuant (l : Layer) (c : Cmd) (x : OcRow) (j r : Nat) (int last : Bool) (vs : List Num) (es : List Bool) : OcRow :=
  let rm := blkRm c.blk
  let ts := match rm with
    | .stochastic => withThresholds rm (lfsrSkip (r * l.m + 64 * j) c.lfsr) vs
    | _ => vs.map fun v => (v, 0)
  ocPut x c.core (tileRowAddr c.tile r) l.fmtOut l.m (64 * j) rm c.blk.sat int last ts es

/-- R338, R340: keep two of each group of four, and write values and codes. -/
def ocSelect (l : Layer) (c : Cmd) (x : OcRow) (j r : Nat) (int last : Bool) (vs : List Num) (es : List Bool) : OcRow :=
  let rm := blkRm c.blk
  let kept := keptValues false vs
  let ts := match rm with
    | .stochastic => withThresholds rm (lfsrSkip (r * (l.m / 2) + 32 * j) c.lfsr) kept
    | _ => kept.map fun v => (v, 0)
  let x := ocPut x c.core (tileRowAddr c.tile r) l.fmtOut l.m (32 * j) rm c.blk.sat int last ts (keptPoison es)
  let x := if last then
      ocPut x c.core (tileRowAddr c.tile r) l.fmtOut l.m (l.m / 2) .nearest false int false
        (List.replicate (l.m / 2) (.fin false 0 0, 0)) []
    else x
  ocAdd x c.core (tileRowAddr c.tb r + 8 * j) (codeBytes (keptCodes false vs)) (codePoison es) false

/-- R336: TERN2 keeps FP32 roundings until the row's last m-block. -/
def holdKey (p r : Nat) (m e : Nat) : Nat := (p * 256 + r) * m + e

/-- What the Output Compressor carries from row to row of a station. -/
structure OcSt where
  st : StationSt
  state : State
  deriving DecidableEq, Repr

/-- Write row `r` of participant `p` for m-block `j`; Matrix Unit `m` counts. The FP32 roundings of the hold buffer report
their flags (DESIGN CHOICE, log 49: the spec does not say whether they do). -/
def ocRow (l : Layer) (m j : Nat) (p : Nat) (c : Cmd) (o : OcSt) (r : Nat) : OcSt :=
  let n := blockCols l j
  let last := j + 1 = mBlocks l
  let int := layerInt l c.ta.fmt
  let vs := (List.range n).map fun e => accNum int (spGet 0#64 (partKey j p r e) o.st.part)
  let es := (List.range n).map fun e => spGet false (partKey j p r e) o.st.poison
  let x : OcRow := ⟨[], 0#8, false⟩
  let hold := l.fmtOut == .tern2 && l.cm == 0
  let held := if hold then
      (vs.zipIdx).foldl (fun h v => spSet 0#32 (holdKey p r l.m (64 * j + v.2)) (fp32Of v.1) h) o.st.hold
    else o.st.hold
  let rowBad := spGet false (p * 256 + r) o.st.rowBad || es.any id
  let x : OcRow :=
    if hold then
      if last then
        let ws := (List.range l.m).map fun e => fp32Num (spGet 0#32 (holdKey p r l.m e) held)
        let (bs, fl) := encodeRow .tern2 (blkRm c.blk) c.blk.sat false (ws.map fun v => (v, 0))
        { ocAdd x c.core (tileRowAddr c.tile r) bs (List.replicate bs.length rowBad) false with flags := fl, bad := rowBad }
      else x
    else if l.cm = 1 then ocSelect l c x j r int last vs es
    else ocQuant l c x j r int last vs es
  let fl := if hold then vs.foldl (fun f v => f ||| fp32Flags v) x.flags else x.flags
  let pruned := if l.cm = 1 then prunedCount vs else 0
  let s := o.state
  let s := if pruned = 0 then s else bump s .muPruned m 0 0 pruned
  let s := if last && rowBad then bump s .muPoison m 0 0 1 else s
  { st := { o.st with hold := held, outs := o.st.outs ++ x.outs, rowBad := if rowBad then spSet false (p * 256 + r) true o.st.rowBad else o.st.rowBad,
                      flags := spSet 0#8 p (spGet 0#8 p o.st.flags ||| fl) o.st.flags },
    state := s }

/-- Clear the partial store of an m-block. -/
def clearPart (j : Nat) (st : StationSt) : StationSt :=
  let mine (k : Nat) : Bool := k / (64 * 256 * 16) == j % 2
  { st with part := st.part.filter fun e => !mine e.1, poison := st.poison.filter fun e => !mine e.1 }

/-- Insert a participant in ascending tag number. -/
def insertArrival (x : (Nat × Cmd) × Nat) : List ((Nat × Cmd) × Nat) → List ((Nat × Cmd) × Nat)
  | [] => [x]
  | y :: ys => if x.1.1 ≤ y.1.1 then x :: y :: ys else y :: insertArrival x ys

/-- R343: a station's participants retire after their last output row. -/
def retireStation (s : State) (st : StationSt) : List ((Nat × Cmd) × Nat) → State
  | [] => s
  | e :: es =>
    let bad := (List.range e.1.2.ta.rows).any fun r => spGet false (e.2 * 256 + r) st.rowBad
    let s := modCmd s e.1.1 fun c =>
      { c with flags := c.flags ||| spGet 0#8 e.2 st.flags, poison := c.poison || bad, detail := c.tile.rows }
    retireStation (retire s e.1.1) st es

/-- The rows of the next m-block of a station are written; with the last, its participants retire and are no arrivals any more. -/
def compressBlock (s : State) (l : Layer) (n : Nat) : State :=
  let st := getStation l n
  let j := st.written
  let ps := (participants s l n).zipIdx
  let o := ps.foldl (fun o e => (List.range e.1.2.ta.rows).foldl (ocRow l ((muServer s n).getD n) j e.2 e.1.2) o) ⟨st, s⟩
  let st := { clearPart j o.st with written := j + 1 }
  let s := flushOuts (modLayer o.state l fun x => putStation x n st) l n
  if j + 1 = mBlocks l then
    let s := modLayer s l fun x => { x with arrivals := x.arrivals.filter fun t => !(ps.any fun e => e.1.1 == t) }
    retireStation s st (ps.foldr insertArrival [])
  else s

def compressDue (s : State) (l : Layer) (n : Nat) : Bool :=
  let st := getStation l n
  planeUp s && (muServer s n).isSome && l.mask.testBit n && st.written < mBlocks l
    && (st.written + 1) * panelsPerBlock l ≤ st.consumed

def execOutputCompressorWrite (ctx : Fin 64) (layer : BitVec 16) (station : Fin 20) (s : State) : Res :=
  match findLayer s ctx.val layer.toNat with
  | none => .next s
  | some l =>
    whenDue (compressDue s l station.val) s (.next (settleLayer (compressBlock s l station.val) l))

/-! ### Layer ends (R258) -/

/-- R258: a marker arrives at its Matrix Unit. -/
def markerArrives (m : MuSt) (w : Nat × SlotId) : MuSt := { m with sent := m.sent.erase w, holds := dropWait w m.holds }

def execLayerEndMarker (a : At) (s : State) : Res :=
  let n := a.core.val / 8
  let m := spGet muReset n s.mus
  whenDue (m.sent.contains (a.core.val, a.slot)) s
    (.next { s with mus := spSet muReset n (markerArrives m (a.core.val, a.slot)) s.mus })

/-! ### Uncorrectable errors (R342, Table 16.1) -/

/-- A word of a lane queue or of the partial store: the element it feeds is poisoned. -/
def laneUpset (l : Layer) (n p r c : Nat) : Layer :=
  let st := getStation l n
  putStation l n { st with poison := spSet false (partKey (st.consumed / panelsPerBlock l) p r c) true st.poison }

/-- A word of the hold buffer: its row is poisoned. -/
def holdUpset (l : Layer) (n p r : Nat) : Layer :=
  let st := getStation l n
  putStation l n { st with rowBad := spSet false (p * 256 + r) true st.rowBad }

/-- A word of the oldest landed panel: the weights of its column are poisoned (R261). -/
def panelUpset (l : Layer) (n c : Nat) : Layer :=
  let st := getStation l n
  putStation l n { st with landed := match st.landed with
    | p :: ps => { p with cols := p.cols.modify c fun x => (x.1, true) } :: ps
    | [] => [] }

/-! ### Resuming (R266, R268) -/

/-- The halted instance that a tag's MLAYER takes part in. -/
def haltedLayer (s : State) (t : Nat) : Option Layer :=
  s.layers.find? fun l => l.complete && l.arrivals.contains t && l.halted.isSome

/-- The halted layer's stream goes on. -/
def resumeLayer (s : State) (l : Layer) : State :=
  let s := match (l.arrivals.head?).bind (tagCmd s) with
    | some c => modCore s c.core fun k => ssbResumed k c.blk.w1
    | none => s
  modLayer s l fun x => { x with halted := none }

def streamResumeDue (s : State) (t : Nat) : Bool :=
  planeUp s && match haltedLayer s t with
  | some l => (l.halted.map (waitOver s)).getD false
  | none => resumeDue s t

def streamResume (s : State) (t : Nat) : State :=
  match haltedLayer s t with
  | some l => resumeLayer s l
  | none => resumeStream s t

def execStreamResume (tag : Fin 4096) (s : State) : Res :=
  whenDue (streamResumeDue s tag.val) s (.next (streamResume s tag.val))

end Sys2Proof.Machine
end

