-- ==== Sys2Proof/Machine/Parcels.lean ====
section
/-! DEFINITION. The Parcel path: deliveries to inboxes and host rings, host parcel ports, and the parcel-ring
doorbell (R216 to R218, R250 to R252, R475 to R477). -/

namespace Sys2Proof.Machine

/-! ### Inboxes (R217) -/

/-- R217: the slot's inbox takes a parcel of this context. -/
def inboxTakes (s : State) (n slot ctx : Nat) : Bool :=
  let i : SlotId := if slot = 1 then .express else .bulk
  let x := getSlot s n i
  n < 160 && slot < 2 && (hostOf s n).isSome && (slot = 0 || (getCore s n).expressEn) && x.inbox.length < 8
    && (!slotBusy x || x.ctx == ctx)

/-- The slot a parcel names. -/
def slotOf (k : Nat) : SlotId := if k = 1 then .express else .bulk

/-- Put a parcel into the inbox of an existing slot, and serve a waiting PRECV. -/
def inboxPut (s : State) (n slot : Nat) (p : Parcel) : State :=
  serveInbox (modSlot s n (slotOf slot) fun x => { x with inbox := x.inbox ++ [p] }) n (slotOf slot)

/-- Deliver a parcel, or refuse it: the code of its sender. -/
def deliverParcel (s : State) (n slot ctx : Nat) (p : Parcel) : Nat × State :=
  if inboxTakes s n slot ctx then (codeDone, inboxPut s n slot p) else (codeParcelRefused, s)

/-! ### Host rings (R476, R477) -/

def getRing (s : State) (ctx : Nat) : PRing := spGet pringReset ctx s.host.rings

def setRing (s : State) (ctx : Nat) (x : PRing) : State :=
  { s with host := { s.host with rings := spSet pringReset ctx x s.host.rings } }

def ringSize (s : State) (ctx : Nat) : Nat := 2 ^ regFld s .dspPringcfg 0 ctx 0 0 4

/-- R476: an entry. -/
def ringEntry (p : Parcel) (phase : Bool) : List Byte :=
  padTo 64 p.bytes ++ [BitVec.ofNat 8 ((p.bytes.length - 1) % 64 + 128 * phase.toNat), BitVec.ofNat 8 p.srcCore]
    ++ leBytes 2 p.srcDev ++ List.replicate 60 0#8

/-- R476: the ring is enabled and not full. -/
def ringTakes (s : State) (ctx : Nat) : Bool :=
  let r := getRing s ctx
  regBit s .dspPringcfg 0 ctx 0 15 && (r.tail + 1) % ringSize s ctx != r.head

/-- R477, R482: write the entry, poisoned if a word of it is, advance the tail, send the vector. -/
def ringPut (rank : Nat) (s : State) (ctx : Nat) (p : Parcel) : State :=
  let r := getRing s ctx
  let fn := fnOf s ctx
  let base := regFld s .dspPring 0 ctx 0 12 52 * 4096
  let s := emitAt rank s fn (.write fn (base + 128 * r.tail) (ringEntry p r.phase) (p.poison.any id) plainAttr)
  let t := (r.tail + 1) % ringSize s ctx
  let s := setRing s ctx { r with tail := t, phase := if t = 0 then !r.phase else r.phase }
  sendVector s (regFld s .dspPringcfg 0 ctx 0 16 11)

def deliverRing (rank : Nat) (s : State) (ctx : Nat) (p : Parcel) : Nat × State :=
  if ringTakes s ctx then (codeDone, ringPut rank s ctx p) else (codeParcelRefused, s)

/-! ### Delivery (R250 to R252) -/

/-- R251: no earlier PSEND of the slot to the same destination is on its way. -/
def parcelTurn (s : State) (c : Cmd) : Bool :=
  s.tags.all fun e =>
    match e.2.cmd with
    | some d =>
      !(e.2.st == .inFlight && d.op == .psend && d.core == c.core && d.slot == c.slot
        && psendHost d == psendHost c && d.gb % 2 ^ 19 == c.gb % 2 ^ 19 && d.seq < c.seq)
    | none => true

/-- The parcel of a PSEND, its bytes read now (R190). -/
def psendParcel (s : State) (c : Cmd) : Parcel :=
  let k := getCore s c.core
  { bytes := lsRead k c.addr c.ga, srcCore := c.core, srcDev := selfId s, fromHost := false,
    poison := (List.range ((c.ga + 15) / 16)).map fun w => spGet false (c.addr / 16 + w) k.lsPoison }

/-- A PSEND to this device, or to the host ring, retires with its parcel delivered or refused; a poisoned parcel sets its
POISON (R262). -/
def psendDelivers (s : State) (t : Nat) (c : Cmd) : State :=
  let p := psendParcel s c
  let (code, s) := if psendHost c then deliverRing (postRank (isExpress c.slot)) s c.ctx p
    else deliverParcel s (psendCore c) (psendSlot c) c.ctx p
  fail (modCmd s t fun c => { c with poison := c.poison || p.poison.any id }) t code

def psendDue (s : State) (t : Nat) : Bool :=
  match tagCmd s t with
  | some c =>
    c.op == .psend && (psendHost c || psendDev c == selfId s) && directReady s c && parcelTurn s c && planeUp s
  | none => false

/-- The send of a host parcel port on its way. -/
def portSend (s : State) (key : Nat) : Option PortSend := s.host.portSends.find? fun p => p.port == key

/-- R475: a send whose port found the pool empty takes the pool's lowest free tag now (DESIGN CHOICE, log 24). -/
def portTag (s : State) (x : PortSend) : Option Nat :=
  match x.tag with
  | some t => some t
  | none => ((List.range 64).map (· + 4032)).find? fun t => (getTag s t).st == .free

/-- R475: PSTAT reads 2 for delivered and 3 for refused; the tag `t` of the parcel is free again. -/
def portDelivers (s : State) (ctx : Nat) (x : PortSend) (t : Nat) : State :=
  let (code, s) := deliverParcel s x.core (slotNum x.slot) ctx
    { bytes := x.bytes, srcCore := 0, srcDev := 0, fromHost := true, poison := [] }
  let s := if x.tag.isNone then takeTag s t none ctx none else s
  let s := setTag s t { getTag s t with st := .free }
  { s with host := { s.host with portSends := s.host.portSends.filter fun p => p.port != x.port,
                                 pstat := spSet 0 x.port (if code = codeDone then 2 else 3) s.host.pstat } }

def execParcelDelivery (what : ParcelRef) (s : State) : Res :=
  match what with
  | .psend t =>
    whenDue (psendDue s t.val) s
      (.next (match tagCmd s t.val with
        | some c => psendDelivers s t.val c
        | none => s))
  | .port ctx p =>
    match portSend s (8 * ctx.val + p.val) with
    | some x =>
      match portTag s x with
      | some t => whenDue (planeUp s) s (.next (portDelivers s ctx.val x t))
      | none => .next s
    | none => .next s

/-! ### Host windows (R456, R486) -/

/-- What a host access to a context's doorbell page meets: nothing (no endpoint, or the function is in D3hot or in reset), a denial,
or the page. -/
inductive Page where
  | gone | denied | ok
  deriving DecidableEq, Repr

/-- R456, R484, R486: may function `fn` reach the doorbells of a context? A virtual function is there while VF Enable is set
(R485). -/
def pageOf (s : State) (fn ctx : Nat) : Page :=
  if !hostHere s || spGet false fn s.host.d3 || spGet false fn s.host.resetting || (fn != 0 && !s.host.vfEnable) then .gone
  else if fn = 0 || (ctxValid s ctx && fnOf s ctx == fn) then .ok
  else .denied

/-- R456: the record of a denied doorbell. -/
def denied (s : State) (fn ctx : Nat) : State := post s .doorbellDenied 7 fn (some ctx) 0 0

/-- R475: one write of bytes at an offset of a parcel port's DATA; bytes past DATA are not its own. -/
def portWrite (old : List Byte) (off : Nat) (bs : List Byte) : List Byte :=
  (old.take off ++ bs ++ old.drop (off + bs.length)).take 64

/-- R475: a parcel port's DATA after the host's writes. -/
def portData (s : State) (key : Nat) (ws : List (Nat × List Byte)) : State :=
  let new := ws.foldl (fun d w => if w.1 < 64 then portWrite d w.1 w.2 else d) (padTo 64 (spGet [] key s.host.pdata))
  { s with host := { s.host with pdata := spPut key new s.host.pdata } }

/-- R475: SEND starts a parcel, which holds the tag of the host-direct and parcel pool that the command names, or waits
while that pool has none. -/
def portStart (s : State) (key : Nat) (v : W64) (tag : Option Nat) : State :=
  let s := match tag with
    | some t => takeTag s t none (key / 8) none
    | none => s
  let x : PortSend := ⟨key, tag, bitsOf v.toNat 8 8, slotOf (bitsOf v.toNat 16 1),
    (padTo 64 (spGet [] key s.host.pdata)).take (v.toNat % 64 + 1)⟩
  { s with host := { s.host with portSends := s.host.portSends ++ [x], pstat := spSet 0 key 1 s.host.pstat } }

/-- R475: a write to SEND; it is discarded while PSTAT is 1. -/
def portSends (s : State) (key : Nat) (v : W64) (tag : Nat) : Res :=
  if spGet 0 key s.host.pstat = 1 then .next s
  else if poolFree s .parcel = 0 then .next (portStart s key v none)
  else need ((getTag s tag).st == .free && poolOf tag == .parcel && tag < 4096) .badTag (.next (portStart s key v (some tag)))

/-- `data`: the host's writes to DATA since the last SEND, each an offset with its bytes; `send`: the value written to
SEND; `tag`: the tag that carries the parcel. -/
def execParcelPortSend (fn : Fin 64) (ctx : Fin 64) (port : Fin 8) (data : List (Nat × List Byte)) (send : BitVec 64)
    (tag : Fin 4096) (s : State) : Res :=
  let key := 8 * ctx.val + port.val
  match pageOf s fn.val ctx.val with
  | .gone => .next s
  | .denied => .next (denied s fn.val ctx.val)
  | .ok => portSends (portData s key data) key send tag.val

/-! ### Doorbells (R469) -/

/-- R469: a doorbell write is 4 or 8 bytes long and covers bytes [3:0] of its doorbell: it begins there (`skew` counts the
bytes from the doorbell to the first byte written). -/
def bellGood (skew : Nat) (data : List Byte) : Bool := skew = 0 && (data.length = 4 || data.length = 8)

/-- The doorbell value, in bits [15:0]. -/
def bellValue (data : List Byte) : Nat := leNat (data.take 2)

/-- A doorbell write: to a page that is gone it does nothing, to another function's it is denied, a malformed one is
discarded with a record, a good one rings. -/
def ringBell (s : State) (fn ctx skew : Nat) (data : List Byte) (rings : Nat → State) : State :=
  match pageOf s fn ctx with
  | .gone => s
  | .denied => denied s fn ctx
  | .ok => if bellGood skew data then rings (bellValue data) else post s .doorbellBad 7 fn (some ctx) 0 0

/-- R477: the ring has written at least up to the released index. -/
def ringRelease (s : State) (ctx v : Nat) : State :=
  let r := getRing s ctx
  let n := ringSize s ctx
  if n ≤ v || (r.tail + n - r.head) % n < (v + n - r.head) % n then post s .doorbellBad 7 (fnOf s ctx) (some ctx) 0 0
  else setRing s ctx { r with head := v }

/-- `skew`: bytes from the doorbell to the first byte written; `data`: the bytes written. -/
def execParcelRingHeadDoorbell (fn : Fin 64) (ctx : Fin 64) (skew : Fin 8) (data : List Byte) (s : State) : Res :=
  .next (ringBell s fn.val ctx.val skew.val data (ringRelease s ctx.val))

end Sys2Proof.Machine
end

