-- ==== Sys2Proof/Machine/Link.lean ====
section
/-! DEFINITION. The Kamup ports: flits, acknowledgement and retry, credits, link states, failover and discovery
(spec/13, R489 to R516). -/

namespace Sys2Proof.Machine

/-! ### Ports and bundles -/

def getPort (s : State) (p : Nat) : PortSt := spGet portReset p s.fab.ports

def setPort (s : State) (p : Nat) (x : PortSt) : State :=
  { s with fab := { s.fab with ports := spSet portReset p x s.fab.ports } }

def modPort (s : State) (p : Nat) (f : PortSt → PortSt) : State := setPort s p (f (getPort s p))

/-- Direction of a port: 0 unused, 1 +x, 2 −x, 3 +y, 4 −y, 5 +z, 6 −z. -/
def portDir (s : State) (p : Nat) : Nat := regFld s .jnPortmap 0 p 0 0 3

def portLane (s : State) (p : Nat) : Nat := regFld s .jnPortmap 0 p 0 3 2

/-- A port of this variant that the descriptor maps. -/
def mapped (s : State) (p : Nat) : Bool := p < ports s.variant && portDir s p != 0

/-- The ports of a bundle in ascending lane order. -/
def bundle (s : State) (dir : Nat) : List Nat :=
  (List.range 4).filterMap fun l =>
    (List.range (ports s.variant)).find? fun p => portDir s p == dir && portLane s p == l

def portUp (s : State) (p : Nat) : Bool := (getPort s p).st == 3

/-- R507: the active links of a bundle. -/
def bundleUp (s : State) (dir : Nat) : List Nat := (bundle s dir).filter (portUp s)

/-- Dimension of a direction, and whether it is the − way. -/
def dirDim (dir : Nat) : Nat := (dir - 1) / 2
def dirMinus (dir : Nat) : Bool := (dir - 1) % 2 == 1

/-- The direction of a way of a dimension. -/
def dirOf (d : Nat) (minus : Bool) : Nat := 2 * d + 1 + minus.toNat

/-- R508: the coordinate of a device in a dimension. -/
def coordOf (id d : Nat) : Nat :=
  match d with
  | 0 => id % 16
  | 1 => id / 16 % 16
  | _ => id / 256 % 4

def dimSize (s : State) (d : Nat) : Nat :=
  match d with
  | 0 => regFld s .jnDims 0 0 0 4 4 + 1
  | 1 => regFld s .jnDims 0 0 0 8 4 + 1
  | _ => regFld s .jnDims 0 0 0 12 2 + 1

/-- The coordinate one step on in a direction. -/
def stepCoord (s : State) (d c : Nat) (minus : Bool) : Nat :=
  let n := dimSize s d
  if minus then (c + n - 1) % n else (c + 1) % n

/-- R517: the number of the link that a direction uses at coordinate `c`. -/
def linkOf (s : State) (d c : Nat) (minus : Bool) : Nat := if minus then stepCoord s d c true else c

/-- A device ID with one coordinate replaced. -/
def withCoord (id d c : Nat) : Nat :=
  match d with
  | 0 => id / 16 * 16 + c
  | 1 => id / 256 * 256 + c * 16 + id % 16
  | _ => c * 256 + id % 256

/-- R514: the neighbour in a direction. -/
def neighbour (s : State) (dir : Nat) : Nat :=
  let d := dirDim dir
  withCoord (selfId s) d (stepCoord s d (coordOf (selfId s) d) (dirMinus dir))

/-! ### Packets as flits (R499, R524) -/

/-- R524: flits of a packet. -/
def flitCount (p : Packet) : Nat := (32 + p.data.length + 239) / 240

/-- An operation that asks for an answer. -/
def isRequest (p : Packet) : Bool := 1 ≤ p.op && p.op ≤ 5

/-- Virtual channel: 0 request express, 1 request bulk, 2 response express, 3 response bulk. -/
def vcOf (p : Packet) : Nat :=
  if p.op = 6 || p.op = 7 then 2 else (if isRequest p then 0 else 2) + (if p.x then 0 else 1)

/-- Table 13.3. -/
def bufferSize (cls : Nat) : Nat := if cls / 2 % 2 = 0 then 48 else 192

/-- R524: the packet breaks no field of Table 13.7. -/
def packetOk (p : Packet) : Bool :=
  [1, 2, 3, 4, 5, 6, 7, 0x81, 0x82, 0x83, 0x84, 0x85, 0x8F].contains p.op && p.rev < 8 && p.dst < 1024
    && p.src < 1024 && p.dir < 8 && p.ctx < 64 && p.handle < 65536 && p.core < 256 && p.slot < 2 && p.key < 65536
    && p.data.length ≤ 16384

/-! ### Flits as bytes (R492, R493, R513, R524, R550) -/

/-- One bit of the reflected CRC-32. -/
def crcBit (c : Nat) : Nat := if c % 2 = 1 then (c / 2) ^^^ 0xEDB88320 else c / 2

def crcByte (c : Nat) (b : Byte) : Nat := (List.range 8).foldl (fun x _ => crcBit x) (c ^^^ b.toNat)

/-- R493. -/
def crc32 (bs : List Byte) : Nat := (bs.foldl crcByte 0xFFFFFFFF) ^^^ 0xFFFFFFFF

/-- TYPE (Table 13.2). -/
def flitType : WireBody → Nat
  | .idle => 0
  | .data _ _ _ => 1
  | .hello _ => 2
  | .tsync _ => 3
  | .failover _ _ => 4

/-- VC, DL and SOP above TYPE. -/
def flitByte0 : WireBody → Nat
  | .data cls _ part => 1 + 16 * (cls / 2 % 4) + 64 * (cls % 2) + 128 * (part == 0).toNat
  | b => flitType b

/-- EOP, ACKV and NAK. -/
def flitByte1 (h : FlitHead) (b : WireBody) : Nat :=
  (match b with
    | .data _ k part => (part + 1 == flitCount k).toNat
    | _ => 0) + 2 * h.ack.isSome.toNat + 4 * h.nak.toNat

/-- R513: the payload of a HELLO. -/
def helloPayload (h : Hello) : List Byte :=
  leBytes 2 h.self.toNat ++ [h.port, h.dir, h.lane, BitVec.ofNat 8 h.matched.toNat, 0#8, 0#8]
    ++ leBytes 4 h.descId.toNat ++ leBytes 4 h.fabId.toNat

/-- Table 14.1: the payload of a TSYNC flit. -/
def tsyncPayload (t : Tsync) : List Byte :=
  [BitVec.ofNat 8 t.msg.val, 0#8] ++ leBytes 2 t.seqid.toNat ++ leBytes 6 t.sec.toNat ++ leBytes 4 t.ns.toNat
    ++ leBytes 2 t.frac.toNat ++ leBytes 2 t.sender.toNat ++ [t.port.setWidth 8]

/-- R552: the arguments of a Time packet. -/
def timeArgs (a : PktArgs) : List Byte :=
  leBytes 2 a.master ++ [BitVec.ofNat 8 a.state, BitVec.ofNat 8 a.hops] ++ leBytes 4 a.aseq ++ [BitVec.ofNat 8 a.stepped.toNat]

/-- Table 13.7: the header of a packet; `args` are the bytes of OPARGS, which the spec lays out for Time packets alone. -/
def headerBytes (k : Packet) (args : List Byte) : List Byte :=
  [BitVec.ofNat 8 k.op, BitVec.ofNat 8 (k.x.toNat + 2 * k.exm.toNat + 4 * k.cmb.toNat + 8 * k.rev)]
    ++ leBytes 2 k.dst ++ leBytes 2 k.src ++ [BitVec.ofNat 8 k.dir, BitVec.ofNat 8 k.ctx]
    ++ leBytes 4 (k.handle + 2 ^ 16 * k.core + 2 ^ 24 * k.slot) ++ leBytes 2 k.key ++ leBytes 2 k.data.length
    ++ padTo 16 (args.take 16)

/-- What a flit carries; `args` are the bytes of OPARGS of a packet, and the payload of a FAILOVER flit, which the spec
does not lay out. -/
def flitPayload (args : List Byte) : WireBody → List Byte
  | .idle => []
  | .data _ k part => ((headerBytes k args ++ k.data).drop (240 * part)).take 240
  | .hello h => helloPayload h
  | .tsync t => tsyncPayload t
  | .failover _ _ => args

/-- R492, R493: the 256 bytes of a flit. -/
def flitBytes (f : WireFlit) (args : List Byte) : List Byte :=
  let bs := [BitVec.ofNat 8 (flitByte0 f.body), BitVec.ofNat 8 (flitByte1 f.head f.body)]
    ++ leBytes 2 f.head.seq.toNat ++ leBytes 2 (f.head.ack.getD 0#16).toNat ++ leBytes 4 f.head.crd.toNat
    ++ [0#8, 0#8] ++ padTo 240 ((flitPayload args f.body).take 240)
  bs ++ leBytes 4 (crc32 bs)

/-- R492, R493: 256 bytes that the receiver does not discard: the CRC holds and TYPE is one of Table 13.2. -/
def flitGood (bs : List Byte) : Bool :=
  bs.length == 256 && leNat (bs.drop 252) == crc32 (bs.take 252) && leNat (bs.take 1) % 16 ≤ 4

/-! ### Sending flits (R492, R495, R500) -/

/-- R500: at most 15 credits of each class go into one flit. -/
def takeCredits (owed : Sp Nat) : BitVec 32 × Sp Nat :=
  (List.range 8).foldl (fun r i =>
    let n := min 15 (spGet 0 i r.2)
    (r.1 ||| BitVec.ofNat 32 (n * 2 ^ (4 * i)), spSet 0 i (spGet 0 i r.2 - n) r.2)) (0#32, owed)

/-- Send one flit; ACK is valid while the port is UP (R495). -/
def wireOut (s : State) (p seq : Nat) (nak : Bool) (body : WireBody) : State :=
  let x := getPort s p
  let (c, o) := takeCredits x.owed
  let h : FlitHead := ⟨BitVec.ofNat 16 seq, if x.st = 3 then some (BitVec.ofNat 16 (x.rxSeq + 65535)) else none, nak, c⟩
  let s := setPort s p { x with owed := o }
  { s with fab := { s.fab with wire := s.fab.wire ++ [⟨p, h, body⟩] } }

/-- Send an IDLE flit with the port's ACK. -/
def sendIdle (s : State) (p : Nat) (nak : Bool) : State := wireOut s p (getPort s p).txSeq nak .idle

/-- Send IDLE flits until no credit is owed; `fuel` flits at most. -/
def returnCredits (p : Nat) : Nat → State → State
  | 0, s => s
  | fuel + 1, s => if (getPort s p).owed.isEmpty then s else returnCredits p fuel (sendIdle s p false)

/-- R500: credits of a class are to be returned. -/
def oweCredits (s : State) (p cls n : Nat) : State :=
  if portUp s p then
    returnCredits p 16 (modPort s p fun x => { x with owed := spSet 0 cls (spGet 0 cls x.owed + n) x.owed })
  else s

/-- Send or resend one DATA flit. -/
def sendEnt (s : State) (p : Nat) (e : TxEnt) : State :=
  bump (wireOut s p e.seq false (.data e.cls e.pkt e.part)) .klTxflits p 0 0 1

/-- R494, R499: the port can start a packet of a class. -/
def canSend (s : State) (p cls : Nat) (k : Packet) : Bool :=
  let x := getPort s p
  x.st == 3 && flitCount k ≤ spGet 0 cls x.credits && x.replay.length + flitCount k ≤ 1024

/-- Send a packet: every flit takes a sequence number and a credit, and is held until it is acknowledged. -/
def sendPacket (s : State) (p cls : Nat) (k : Packet) : State :=
  let n := flitCount k
  let x := getPort s p
  let es := (List.range n).map fun i => (⟨(x.txSeq + i) % 65536, cls, k, i⟩ : TxEnt)
  let s := setPort s p
    { x with txSeq := (x.txSeq + n) % 65536, credits := spSet 0 cls (spGet 0 cls x.credits - n) x.credits,
             replay := x.replay ++ es, run := if cls / 2 % 2 = 0 then x.run + n else 0 }
  es.foldl (fun s e => sendEnt s p e) s

/-! ### Records and counts of link events -/

/-- LINK_DOWN and LINK_UP: the cause and the width. -/
def linkRecord (s : State) (code : LogCode) (p cause : Nat) : State :=
  post s code 6 p none ((Config.causeCode cause).toNat + 65536 * (getPort s p).width) 0

/-- Times within the last 60 s, with this one. -/
def recent (s : State) (ts : List Nat) : List Nat :=
  let now := opNs (nowOp s)
  ts.filter (fun t => now ≤ t + 60000000000) ++ [now]

/-! ### Link-state announcements (R517, R521) -/

def detourBit (s : State) (d link : Nat) : Bool := regBit s .jnDetour 0 d 0 link

/-- A dimension or link number that no ring has changes nothing. -/
def setDetour (s : State) (d link : Nat) (broken : Bool) : State :=
  if d < 3 && link < 16 then setFld s .jnDetour 0 d 0 link 1 broken.toNat else s

/-- R521: the announcement goes both ways around the ring. -/
def announceLink (s : State) (d link : Nat) (broken : Bool) : State :=
  let k (minus : Bool) : Packet :=
    { op := 7, x := true, dst := selfId s, src := selfId s, dir := if minus then 2 ^ d else 0,
      args := { dim := d, link := link, state := broken.toNat } }
  { s with inject := s.inject ++ [k false, k true] }

/-- R517, R521: a bundle that has become broken or whole. -/
def bundleChanged (s : State) (dir : Nat) : State :=
  if dir = 0 || 6 < dir then s
  else
    let d := dirDim dir
    let link := linkOf s d (coordOf (selfId s) d) (dirMinus dir)
    let broken := (bundleUp s dir).isEmpty
    if detourBit s d link == broken then s else announceLink (setDetour s d link broken) d link broken

/-! ### Links that go down (R498, R505, R506) -/

/-- Packets among unacknowledged flits. -/
def packetsIn (es : List TxEnt) : Nat := es.countP fun e => e.part + 1 == flitCount e.pkt

/-- R506: packets are lost. -/
def lose (s : State) (p n : Nat) : State :=
  if n = 0 then s else post (bump s .jnLost 0 0 0 n) .packetLost 6 p none n 0

/-- R506: nothing of a broken bundle can be resent. -/
def loseBundle (s : State) (dir p : Nat) : State :=
  let held := ((bundle s dir).map fun q => packetsIn ((getPort s q).failover.getD [])).sum
  let back := s.fab.resend.countP fun e => e.2.1 == dir
  let s := (bundle s dir).foldl (fun s q => modPort s q fun x => { x with failover := none }) s
  let s := { s with fab := { s.fab with resend := s.fab.resend.filter fun e => e.2.1 != dir } }
  lose s p (held + back)

/-- A port stops carrying traffic. -/
def quietPort (x : PortSt) (st : Nat) : PortSt :=
  { x with st := st, width := 0, fails := 0, heard := false, replay := [], wentBack := false, retries := 0,
           nakked := false, credits := [], owed := [], joining := false,
           rx := spMap rxReset (fun _ q => { q with part := none }) x.rx }

/-- R505: ask the neighbour, on a surviving link, what it accepted on a failed one. -/
def askFailover (s : State) (p : Nat) : State :=
  match bundleUp s (portDir s p) with
  | q :: _ => wireOut s q (getPort s q).txSeq false (.failover (portLane s p) none)
  | [] => s

/-- R550: an exchange is abandoned. -/
def abandon (s : State) : State :=
  bump { s with time := { s.time with exchange := none } } .ttSynclost 0 0 0 1

/-- *Two-step synchronization*: the exchange in progress is abandoned when its link goes down. -/
def exchangeCut (s : State) (p : Nat) : State :=
  if s.time.up = some p && s.time.exchange.isSome then abandon s else s

/-- R498, R505, R506: a link in UP goes down and enters state `st`. -/
def linkFails (s : State) (p st cause : Nat) : State :=
  let es := (getPort s p).replay
  let dir := portDir s p
  let s := linkRecord (bump (exchangeCut s p) .klDowns p 0 0 1) .linkDown p cause
  let s := modPort s p fun x => { quietPort x st with downAt := recent s x.downAt }
  let s :=
    if (bundleUp s dir).isEmpty then loseBundle (lose s p (packetsIn es)) dir p
    else if es.isEmpty then s
    else askFailover (modPort s p fun x => { x with failover := some (x.failover.getD [] ++ es) }) p
  bundleChanged s dir

/-- A port is fenced: it goes OFF. -/
def fencePort (s : State) (p : Nat) : State :=
  let s := post (setFld s .sbPortfence 0 0 0 p 1 1) .unitFenced 6 p none 0 0
  let s := if portUp s p then linkFails s p 0 2 else modPort s p fun x => quietPort x 0
  let s := modPort s p fun x => { x with fencedAt := some (opNs (nowOp s)), failedAt := [], downAt := [] }
  bundleChanged s (portDir s p)

/-- Table 16.3: 4 entries to FAILED, or 16 transitions out of UP, within 60 s. -/
def fenceRule (s : State) (p : Nat) : State :=
  let x := getPort s p
  if (4 ≤ x.failedAt.length || 16 ≤ x.downAt.length) && !regBit s .sbPortfence 0 0 0 p then fencePort s p else s

/-- R498: a link goes down. -/
def linkDown (s : State) (p cause : Nat) : State := fenceRule (linkFails s p 1 cause) p

/-! ### Acknowledgement and retry (R494 to R496) -/

/-- What is left after an acknowledgement of `a`; none when it names no held flit. -/
def afterAck (a : Nat) : List TxEnt → Option (List TxEnt)
  | [] => none
  | e :: es => if e.seq = a then some es else afterAck a es

/-- R496: go back: resend everything unacknowledged, or go down at the 8th consecutive retry. -/
def goBack (s : State) (p : Nat) : State :=
  let x := getPort s p
  let n := if x.wentBack then x.retries + 1 else x.retries
  let s := setPort (bump s .klRetries p 0 0 1) p { x with wentBack := true, retries := n }
  if 8 ≤ n then linkDown s p 0 else x.replay.foldl (fun s e => sendEnt s p e) s

/-- An acknowledgement, and credits that are returned. -/
def takeHead (s : State) (p : Nat) (h : FlitHead) : State :=
  let s := modPort s p fun x =>
    { x with credits := (List.range 8).foldl (fun c i => spSet 0 i (spGet 0 i c + bitsOf h.crd.toNat (4 * i) 4) c)
               x.credits }
  match h.ack.bind fun a => afterAck a.toNat (getPort s p).replay with
  | some es => modPort s p fun x => { x with replay := es, wentBack := false, retries := 0 }
  | none => s

/-- The head of a good flit that reaches a port in UP. -/
def headArrives (s : State) (p : Nat) (h : FlitHead) : State :=
  if !portUp s p then s
  else
    let s := takeHead s p h
    if h.nak then goBack s p else s

/-- R495: a DATA flit has been discarded: one NAK until the expected flit arrives. -/
def refuseFlit (s : State) (p : Nat) : State :=
  if (getPort s p).nakked then s
  else sendIdle (modPort s p fun x => { x with nakked := true }) p true

/-- R491: corrected symbols and uncorrectable codewords; one record for each time that the corrected symbols of the last
millisecond rise above the bound. -/
def fecCount (s : State) (p sym unc : Nat) : State :=
  let s := bump (bump s .klFeccorr p 0 0 sym) .klFecunc p 0 0 unc
  let now := opNs (nowOp s)
  let x := getPort s p
  let l := x.syms.filter (fun e => now < e.1 + 1000000) ++ (if sym = 0 then [] else [(now, sym)])
  let high := 2 ^ 20 < (l.map (·.2)).sum
  let s' := setPort s p { x with syms := l, symTold := high }
  if high && !x.symTold then post s' .linkDegraded 6 p none 0 0 else s'

/-! ### Receiving packets (R499, R524) -/

/-- Flits that a class of a port holds. -/
def heldFlits (q : RxQueue) : Nat := (q.whole.map flitCount).sum + (q.part.map (·.2)).getD 0

def getRx (x : PortSt) (cls : Nat) : RxQueue := spGet rxReset cls x.rx

def setRx (x : PortSt) (cls : Nat) (q : RxQueue) : PortSt := { x with rx := spSet rxReset cls q x.rx }

/-- R524: a malformed packet is discarded, and its buffer space comes back. -/
def dropPacket (s : State) (p cls n : Nat) : State := oweCredits (post s .badPacket 6 p none 0 0) p cls n

/-- A DATA flit in sequence enters the buffer of its class; `sop`: the packet that begins with it. -/
def enterFlit (s : State) (p cls : Nat) (sop : Option Packet) (eop : Bool) : State :=
  let q := getRx (getPort s p) cls
  let put (s : State) (q : RxQueue) : State := modPort s p fun x => setRx x cls q
  match sop, q.part with
  | some _, some (_, n) => dropPacket (put s { q with part := none }) p cls (n + 1)
  | none, none => dropPacket s p cls 1
  | _, part =>
    let (k, n) := match sop, part with
      | some k, _ => (k, 1)
      | none, some (k, n) => (k, n + 1)
      | none, none => ({ op := 0 }, 0)
    if !eop then put s { q with part := some (k, n) }
    else if packetOk k && n = flitCount k && vcOf k = cls / 2 then
      put s { q with part := none, whole := q.whole ++ [k] }
    else dropPacket (put s { q with part := none }) p cls n

/-- R495, R498: a good DATA flit at a port in UP. -/
def dataFlit (s : State) (p cls seq : Nat) (sop : Option Packet) (eop : Bool) : State :=
  let x := getPort s p
  if seq != x.rxSeq then refuseFlit s p
  else
    let s := setPort s p
      { x with rxSeq := (seq + 1) % 65536, nakked := false, lastEop := if eop then seq else x.lastEop }
    sendIdle (enterFlit (bump s .klRxflits p 0 0 1) p cls sop eop) p false

/-- The buffer of a class has room for one more flit. -/
def rxRoom (s : State) (p cls : Nat) : Bool := heldFlits (getRx (getPort s p) cls) < bufferSize cls

/-- A port that the part has, powered, with its reference clock and its die-to-die link (R673, R697). -/
def hasPort (s : State) (p : Nat) : Bool :=
  p < ports s.variant && s.power.rails == .on && !s.power.lost.contains (.ser (p / 8)) && !s.power.deadDies.contains (p / 8)

/-- `good`: its CRC holds and no codeword that carried it was uncorrectable; `sym`, `unc`: corrected symbols and
uncorrectable codewords since the flit before. -/
def execIdleFlit (port : Fin 32) (good : Bool) (head : FlitHead) (sym unc : Nat) (s : State) : Res :=
  whenDue (hasPort s port.val) s
    (.next (let s := fecCount s port.val sym unc
      if good then headArrives s port.val head else bump s .klCrcerr port.val 0 0 1))

/-- A DATA flit arrives at a port in UP. -/
def dataArrives (s : State) (p : Nat) (good : Bool) (h : FlitHead) (cls : Nat) (sop : Option Packet) (eop : Bool) :
    State :=
  if !portUp s p then s
  else if !good then refuseFlit (bump s .klCrcerr p 0 0 1) p
  else
    let s := headArrives s p h
    if portUp s p then dataFlit s p cls h.seq.toNat sop eop else s

def execDataFlit (port : Fin 32) (good : Bool) (head : FlitHead) (vc : Fin 4) (dl : Bool) (sop : Option Packet)
    (eop : Bool) (sym unc : Nat) (s : State) : Res :=
  let cls := 2 * vc.val + dl.toNat
  whenDue (hasPort s port.val && rxRoom s port.val cls) s
    (.next (dataArrives (fecCount s port.val sym unc) port.val good head cls sop eop))

def execRetryTimerExpiry (port : Fin 32) (s : State) : Res :=
  whenDue (portUp s port.val && !(getPort s port.val).replay.isEmpty) s (.next (goBack s port.val))

/-! ### Link states (R498, R503, R504) -/

/-- A port leaves the states in which it carries or could carry traffic. -/
def lockLost (s : State) (p : Nat) : State :=
  if portUp s p then linkDown s p 1 else modPort s p fun x => quietPort x 1

def execLockLossTimeout (port : Fin 32) (s : State) : Res :=
  whenDue ((getPort s port.val).st == 3 || (getPort s port.val).st == 2) s (.next (lockLost s port.val))

/-- R503: the port enters FAILED, or starts its next attempt. -/
def attemptFails (s : State) (p : Nat) : State :=
  let n := (getPort s p).fails + 1
  if n < 4 then modPort s p fun x => { x with fails := n }
  else
    let s := modPort s p fun x => { x with st := 5, fails := 0, ended := true, failedAt := recent s x.failedAt }
    fenceRule (bundleChanged s (portDir s p)) p

/-- R503: a lock takes the port to HELLO. -/
def locks (s : State) (p w : Nat) : State :=
  let s := modPort s p fun x => { x with st := 2, width := w, fails := 0, heard := false }
  if w = 1 then post s .linkDegraded 6 p none 0 0 else s

/-- R490: byte `j` of a codeword group travels on lane `j mod 4`: what lane `l` carries of a group. -/
def laneBytes (group : List Byte) (l : Nat) : List Byte :=
  (group.zipIdx.filter fun e => e.2 % 4 == l).map (·.1)

/-- R490: a codeword marker: a counter in bits [9:0], the lane in bits [11:10], zeros above. -/
def markerWord (counter lane : Nat) : BitVec 20 := BitVec.ofNat 20 (counter % 1024 + 1024 * (lane % 4))

/-- The counter that a marker of lane `l` shows; none when it is no marker of that lane. -/
def markerCount (l : Nat) (m : BitVec 20) : Option Nat :=
  if markerWord m.toNat l = m then some (m.toNat % 1024) else none

/-- The lanes show one counter on the codeword at the head of every list. -/
def sameCounter (lanes : List Nat) (ms : List (List (BitVec 20))) : Bool :=
  match lanes.map fun l => ((ms.getD l [])[0]?).bind (markerCount l) with
  | some c :: cs => cs.all (· == some c)
  | _ => false

/-- R490: the lanes show the same counter on 8 consecutive codewords; `run` is how many they have shown last, `fuel` the
codewords left. -/
def lockRun (lanes : List Nat) (run : Nat) : Nat → List (List (BitVec 20)) → Bool
  | 0, _ => run == 8
  | fuel + 1, ms =>
    run == 8 || lockRun lanes (if sameCounter lanes ms then run + 1 else 0) fuel (ms.map fun m => m.drop 1)

/-- R490: the lanes are locked by the markers they have received, oldest first. -/
def lanesLock (lanes : List Nat) (ms : List (List (BitVec 20))) : Bool :=
  lockRun lanes 0 ((ms.map (·.length)).foldl max 0) ms

/-- R490, R503, R504: the width an attempt comes to: x4 on all four lanes; x2, where KL_CFG allows it, on lanes 0 and 1 or
lanes 2 and 3; 0 when it fails. -/
def attemptWidth (s : State) (p : Nat) (ms : List (List (BitVec 20))) : Nat :=
  if lanesLock [0, 1, 2, 3] ms then 2
  else if regBit s .klCfg p 0 0 0 && (lanesLock [0, 1] ms || lanesLock [2, 3] ms) then 1
  else 0

/-- `markers`: the codeword markers that each lane has received in the attempt, oldest first. -/
def execTrainingAttemptEnd (port : Fin 32) (markers : List (List (BitVec 20))) (s : State) : Res :=
  let p := port.val
  whenDue ((getPort s p).st == 1 && hasPort s p) s
    (.next (match attemptWidth s p markers with
      | 0 => attemptFails s p
      | w => locks s p w))

def execPortRetryTimer (port : Fin 32) (s : State) : Res :=
  let st := (getPort s port.val).st
  whenDue (st == 4 || st == 5) s (.next (modPort s port.val fun x => quietPort x 1))

/-! ### Discovery (R513 to R516) -/

/-- The HELLO that a port sends. -/
def helloOf (s : State) (p : Nat) : Hello where
  self := BitVec.ofNat 10 (selfId s)
  port := BitVec.ofNat 8 p
  dir := BitVec.ofNat 8 (portDir s p)
  lane := BitVec.ofNat 8 (portLane s p)
  matched := (getPort s p).heard
  descId := (regVal s .jnDescid 0 0 0).setWidth 32
  fabId := (regVal s .jnFabid 0 0 0).setWidth 32

def execHelloTimer (port : Fin 32) (s : State) : Res :=
  let p := port.val
  whenDue ((getPort s p).st == 2 || (getPort s p).st == 3) s
    (.next (wireOut s p (getPort s p).txSeq false (.hello (helloOf s p))))

/-- The opposite direction. -/
def opposite (dir : Nat) : Nat := dirOf (dirDim dir) (!dirMinus dir)

/-- R514, R515: the first failing check; 0 for a match. -/
def helloFault (s : State) (p : Nat) (h : Hello) : Nat :=
  if h.fabId.toNat != regFld s .jnFabid 0 0 0 0 32 || h.descId.toNat != regFld s .jnDescid 0 0 0 0 32 then 1
  else if h.self.toNat != neighbour s (portDir s p) then 2
  else if h.dir.toNat != opposite (portDir s p) then 3
  else if h.lane.toNat != portLane s p then 4
  else 0

/-- R501: free space of every class. -/
def freeSpace (x : PortSt) : Sp Nat :=
  (List.range 8).foldl (fun m i => spSet 0 i (bufferSize i - heldFlits (getRx x i)) m) []

/-- R501, R514: the port enters UP; the neighbour's next DATA flit is `seq`. -/
def enterUp (s : State) (p seq : Nat) : State :=
  let dir := portDir s p
  let others := !(bundleUp s dir).isEmpty
  let s := modPort s p fun x =>
    { x with st := 3, ended := true, misreason := 0, rxSeq := seq, lastEop := (seq + 65535) % 65536, credits := [],
             owed := freeSpace x, joining := others }
  let s := linkRecord s .linkUp p 3
  bundleChanged (returnCredits p 16 s) dir

/-- R515. -/
def mismatch (s : State) (p why : Nat) (h : Hello) : State :=
  let s := modPort s p fun x => { x with st := 4, ended := true, misreason := why }
  let s := post s .linkMismatch 6 p none (neighbour s (portDir s p) + 65536 * h.self.toNat) 0
  bundleChanged s (portDir s p)

/-- A HELLO at a port in HELLO. -/
def helloHeard (s : State) (p : Nat) (h : Hello) (seq : Nat) : State :=
  let s := modPort s p fun x => { x with peer := h.self.toNat, peerport := h.port.toNat % 32 }
  let why := helloFault s p h
  if why != 0 then mismatch s p why h
  else
    let s := modPort s p fun x => { x with heard := true }
    if h.matched then enterUp s p seq else s

/-- A HELLO flit: in HELLO it is matched; in UP it brings its head. -/
def helloArrives (s : State) (p : Nat) (good : Bool) (head : FlitHead) (h : Hello) : State :=
  if !good then bump s .klCrcerr p 0 0 1
  else if (getPort s p).st = 2 then helloHeard s p h head.seq.toNat
  else if portUp s p then
    headArrives (modPort s p fun x => { x with peer := h.self.toNat, peerport := h.port.toNat % 32 }) p head
  else s

def execHello (port : Fin 32) (good : Bool) (head : FlitHead) (hello : Hello) (s : State) : Res :=
  whenDue (hasPort s port.val) s (.next (helloArrives s port.val good head hello))

/-! ### Failover (R505, R506) -/

/-- The port of a bundle with a lane. -/
def laneOf (s : State) (dir lane : Nat) : Option Nat := (bundle s dir).find? fun p => portLane s p == lane

/-- The packets that lie wholly after sequence number `a`, each by its last flit, since the first may have been acknowledged;
all that are held when `a` names no held flit. -/
def notDelivered (a : Nat) (es : List TxEnt) : List TxEnt :=
  ((afterAck a es).getD es).filter fun e => e.part + 1 == flitCount e.pkt

/-- The neighbour's answer: the packets it has not accepted go to the surviving links. -/
def failoverAnswer (s : State) (p a : Nat) : State :=
  match (getPort s p).failover with
  | none => s
  | some es =>
    let s := modPort s p fun x => { x with failover := none }
    let back := (notDelivered a es).map fun e => (e.pkt, portDir s p, e.cls)
    { s with fab := { s.fab with resend := s.fab.resend ++ back } }

/-- A FAILOVER flit that asks: the partial packets of the failed link are discarded, and the answer goes back. -/
def failoverAsked (s : State) (p q lane : Nat) : State :=
  let s := modPort s q fun x => { x with rx := spMap rxReset (fun _ r => { r with part := none }) x.rx }
  wireOut s p (getPort s p).txSeq false (.failover lane (some (getPort s q).lastEop))

/-- `link`: the lane of the failed link; `answer`: the sequence number, in an answer. -/
def failoverArrives (s : State) (p : Nat) (good : Bool) (head : FlitHead) (link : Nat) (answer : Option Nat) : State :=
  if !good then bump s .klCrcerr p 0 0 1
  else
    let s := headArrives s p head
    match laneOf s (portDir s p) link with
    | none => s
    | some q =>
      match answer with
      | some a => failoverAnswer s q a
      | none => failoverAsked s p q link

def execFailover (port : Fin 32) (good : Bool) (head : FlitHead) (link : Fin 4) (answer : Option (BitVec 16))
    (s : State) : Res :=
  whenDue (portUp s port.val) s
    (.next (failoverArrives s port.val good head link.val (answer.map (·.toNat))))

def execFailoverResendTimer (port : Fin 32) (s : State) : Res :=
  whenDue ((getPort s port.val).failover.isSome) s (.next (askFailover s port.val))

/-- R506: the neighbour has not answered. -/
def failoverLost (s : State) (p : Nat) : State :=
  let n := packetsIn ((getPort s p).failover.getD [])
  lose (modPort s p fun x => { x with failover := none }) p n

def execFailoverTimeout (port : Fin 32) (s : State) : Res :=
  whenDue ((getPort s port.val).failover.isSome) s (.next (failoverLost s port.val))

end Sys2Proof.Machine
end

