-- ==== Sys2Proof/Machine/Fabric.lean ====
section
/-! DEFINITION. The Junction: routing, delivery, failed routes, combining, inbound requests and their answers
(spec/13, R517 to R535; R286, R449 to R451, R643, R644). -/

namespace Sys2Proof.Machine

/-! ### Packets at the Junction -/

/-- The packet a reference names, with the port and class of its buffer. -/
def pktAt (s : State) : PktRef → Option (Packet × Option (Nat × Nat))
  | .inject i => s.inject[i]?.map fun p => (p, none)
  | .resend i => s.fab.resend[i]?.map fun e => (e.1, none)
  | .rx port cls i => (getRx (getPort s port.val) cls.val).whole[i]?.map fun p => (p, some (port.val, cls.val))

/-- Take a packet out of its place; the space of a receive buffer is returned (R500). -/
def takePkt (s : State) (r : PktRef) : State :=
  match r with
  | .inject i => { s with inject := s.inject.eraseIdx i }
  | .resend i => { s with fab := { s.fab with resend := s.fab.resend.eraseIdx i } }
  | .rx port cls i =>
    match (getRx (getPort s port.val) cls.val).whole[i]? with
    | none => s
    | some p =>
      let s := modPort s port.val fun x =>
        let q := getRx x cls.val
        setRx x cls.val { q with whole := q.whole.eraseIdx i }
      oweCredits s port.val cls.val (flitCount p)

/-- The same packet once another has been taken out of the list both are in. -/
def afterTake (gone r : PktRef) : PktRef :=
  match gone, r with
  | .inject i, .inject j => .inject (if i < j then j - 1 else j)
  | .resend i, .resend j => .resend (if i < j then j - 1 else j)
  | .rx p c i, .rx q d j => .rx q d (if p = q && c = d && i < j then j - 1 else j)
  | _, r => r

/-- R507: FLOW of a packet: 0 for what the Junction originates. -/
def flowOf (p : Packet) : Nat := if p.op = 6 || p.op = 7 || p.op = 0x8F then 0 else 2 * p.core + p.slot

/-- R523: two packets of one flow. -/
def sameFlow (p q : Packet) : Bool := p.src == q.src && p.dst == q.dst && flowOf p == flowOf q && vcOf p == vcOf q

/-! ### Routing (R517 to R520) -/

/-- R533: the destination lies inside the descriptor's dimensions. -/
def insideDims (s : State) (id : Nat) : Bool :=
  coordOf id 0 < dimSize s 0 && coordOf id 1 < dimSize s 1 && coordOf id 2 < dimSize s 2

/-- The first dimension in which a packet is not yet at its target. -/
def routeDim (s : State) (p : Packet) : Option Nat :=
  [0, 1, 2].find? fun d => coordOf (selfId s) d != coordOf p.dst d

/-- R517: no link of the `n` from `c` in a way is broken. -/
def wayOpen (s : State) (d : Nat) (minus : Bool) : Nat → Nat → Bool
  | 0, _ => true
  | n + 1, c => !detourBit s d (linkOf s d c minus) && wayOpen s d minus n (stepCoord s d c minus)

/-- R518: the way a packet takes as it enters dimension `d`; none when none is open. -/
def chooseWay (s : State) (d c t : Nat) : Option Bool :=
  let n := dimSize s d
  let up := (t + n - c) % n
  let down := (c + n - t) % n
  let plus := wayOpen s d false up c
  let minus := wayOpen s d true down c
  if plus && (up ≤ down || !minus) then some false else if minus then some true else none

/-- Set or clear bit `d` of a per-dimension field. -/
def putBit (x d : Nat) (b : Bool) : Nat := if x.testBit d == b then x else x ^^^ 2 ^ d

/-- Where a packet goes next. -/
inductive Hop where
  | here
  /-- The direction, the DL class, the packet as it leaves, and whether it is reversed here. -/
  | out (dir dl : Nat) (p : Packet) (back : Bool)
  | stuck
  deriving DecidableEq, Repr

/-- R519: the DL class on the link used. -/
def dlOn (s : State) (d c : Nat) (minus : Bool) (dl : Nat) : Nat :=
  if linkOf s d c minus + 1 = dimSize s d then 1 else dl

/-- R518: a packet enters dimension `d`. -/
def enterDim (s : State) (p : Packet) (d : Nat) : Hop :=
  let c := coordOf (selfId s) d
  match chooseWay s d c (coordOf p.dst d) with
  | none => .stuck
  | some m => .out (dirOf d m) (dlOn s d c m 0) { p with dir := putBit p.dir d m } false

/-- R518, R520: a later hop in dimension `d`. -/
def followDim (s : State) (p : Packet) (d dl : Nat) : Hop :=
  let c := coordOf (selfId s) d
  let m := p.dir.testBit d
  if !(bundleUp s (dirOf d m)).isEmpty then .out (dirOf d m) (dlOn s d c m dl) p false
  else if p.rev.testBit d || (bundleUp s (dirOf d !m)).isEmpty then .stuck
  else .out (dirOf d !m) 1 { p with rev := putBit p.rev d true, dir := putBit p.dir d !m } true

/-- R552: a Time packet goes one hop, on the bundle it names. -/
def timeHop (s : State) (p : Packet) : Hop :=
  if (bundleUp s p.args.dim).isEmpty then .stuck
  else
    let d := dirDim p.args.dim
    let m := dirMinus p.args.dim
    .out p.args.dim (dlOn s d (coordOf (selfId s) d) m 0) p false

/-- The next hop of a packet that came in by a port in a class, or that this part sends. -/
def route (s : State) (p : Packet) (by_ : Option (Nat × Nat)) : Hop :=
  if p.op = 6 && by_.isNone then timeHop s p
  else if p.dst = selfId s then .here
  else if !insideDims s p.dst then .stuck
  else
    match routeDim s p, by_ with
    | none, _ => .here
    | some d, some (port, cls) =>
      if portDir s port != 0 && dirDim (portDir s port) = d then followDim s p d (cls % 2) else enterDim s p d
    | some d, none => enterDim s p d

/-! ### Choosing a link (R507) -/

/-- A bundle whose newly joined links wait for the replay buffers to empty. -/
def bundleHeld (s : State) (dir : Nat) : Bool :=
  let up := bundleUp s dir
  up.any (fun p => (getPort s p).joining) && up.any fun p => !(getPort s p).replay.isEmpty

/-- The link a packet takes. -/
def pickLink (s : State) (dir : Nat) (p : Packet) : Option Nat :=
  let up := bundleUp s dir
  up[(p.src ^^^ p.dst ^^^ flowOf p) % max 1 up.length]?

/-- A packet can start on a bundle in a class now. -/
def outReady (s : State) (dir cls : Nat) (p : Packet) : Bool :=
  match pickLink s dir p with
  | some port => !bundleHeld s dir && canSend s port cls p
  | none => false

/-- The links of a bundle apply the new number of links. -/
def settleBundle (s : State) (dir : Nat) : State :=
  (bundleUp s dir).foldl (fun s p => modPort s p fun x => { x with joining := false }) s

def sendOn (s : State) (dir cls : Nat) (p : Packet) : State :=
  match pickLink s dir p with
  | some port => sendPacket (settleBundle s dir) port cls p
  | none => s

/-! ### Data of requests, read as they leave (R190) -/

/-- The command under the handle of a packet of this part. -/
def cmdOfHandle (s : State) (h : Nat) : Option (Nat × Cmd) :=
  let t := h % 4096
  if (handleOf t (getTag s t).gen).toNat = h then (tagCmd s t).map fun c => (t, c) else none

/-- A request of this part whose data is still in local store. -/
def lazyData (p : Packet) : Bool := p.op = 2 || p.op = 5

/-- R190, R523: the data can be read and it is the packet's turn. -/
def dataReady (s : State) (p : Packet) : Bool :=
  match cmdOfHandle s p.handle with
  | some (_, c) => directReady s c && (p.op != 5 || parcelTurn s c)
  | none => true

/-- The packet with its data: COUNT bytes of the tile from its row, or the parcel. -/
def loadData (s : State) (p : Packet) : Packet :=
  match cmdOfHandle s p.handle with
  | some (_, c) =>
    if p.op = 2 then
      let a := tileRowAddr c.tile c.blk.w3
      { p with data := lsRead (getCore s c.core) a c.blk.count, poison := lsWordPoison (getCore s c.core) a c.blk.count }
    else { p with data := (psendParcel s c).bytes, poison := (psendParcel s c).poison }
  | none => p

/-- R262: a WWRITE or PSEND whose data is poisoned sets POISON. -/
def poisonSent (s : State) (k : Packet) : State :=
  match cmdOfHandle s k.handle with
  | some (t, _) => modCmd s t fun c => { c with poison := c.poison || k.poison.any id }
  | none => s

/-- R532: the request has left its requester's Junction. -/
def markLeft (s : State) (p : Packet) : State :=
  { s with remotes := s.remotes.map fun r => if r.handle == p.handle && r.op == p.op then { r with left := true } else r }

/-! ### Answers at the requester (R215, R529 to R533) -/

/-- What a request is known by at its requester. -/
def remoteOf (p : Packet) (op : Nat) (r : Remote) : Bool :=
  r.handle == p.handle && r.op == op
    && (if op = 3 then r.bag == p.args.bag && r.shard == p.args.shard
        else if op = 4 then r.shard == p.args.shard else true)

/-- The operation of the command under a handle. -/
def opOfCmd (c : Cmd) : Nat :=
  match c.op with
  | .block .rread => 1
  | .block .wwrite => 2
  | .block .gpool => 3
  | .block .scadd => 4
  | .psend => 5
  | _ => 0

/-- Forget the awaited answers a predicate selects, and count them off at their command. -/
def forgetRemotes (s : State) (t : Nat) (q : Remote → Bool) : State :=
  let n := s.remotes.countP q
  modCmd { s with remotes := s.remotes.filter fun r => !q r } t fun c => { c with waiting := c.waiting - n }

/-- Forget the first awaited answer a predicate selects. -/
def forgetFirst (s : State) (q : Remote → Bool) : State := { s with remotes := s.remotes.eraseP q }

/-- Remote shards that a bag touches. -/
def remoteShards (d : TableDesc) (b : Bag) : Nat := ((bagShards b).filter fun h => h != d.lshard).length

/-- Shard partials received for a piece of a bag. -/
def npartOf (c : Cmd) (b p : Nat) : Nat :=
  ((c.partials.filter fun q => q.bag == b && q.piece == p && q.npart != 0).map (·.npart)).sum

/-- R531: a bag whose partials add up has its remote part. -/
def bagRemoteDone (c : Cmd) (d : TableDesc) (b : Nat) : Bool :=
  let bag := c.bags.getD b ⟨0, 0, 0, 0, [], 0, false⟩
  (List.range ((d.w + 255) / 256)).all fun p => remoteShards d bag ≤ npartOf c b p + bag.failed

/-- R531: all pieces of one shard's own partial have come. -/
def shardDone (c : Cmd) (d : TableDesc) (b h : Nat) : Bool :=
  (List.range ((d.w + 255) / 256)).all fun p =>
    c.partials.any fun q => q.bag == b && q.shard == h && q.piece == p && q.npart == 1

/-- Count off what the partials of a bag have completed. -/
def settleBag (s : State) (t : Nat) (b h : Nat) : State :=
  match tagCmd s t with
  | none => s
  | some c =>
    match c.table with
    | none => s
    | some d =>
      if bagRemoteDone c d b then forgetRemotes s t fun r => r.tag == t && r.op == 3 && r.bag == b
      else if shardDone c d b h then forgetRemotes s t fun r => r.tag == t && r.op == 3 && r.bag == b && r.shard == h
      else s

/-- The first failure code of a command stands. -/
def firstCode (c : Cmd) (code : Nat) : Cmd := { c with code := if c.code = 0 then code else c.code }

/-- R201, R285: a shard of a bag cannot be had. -/
def shardFails (s : State) (t b h code : Nat) : State :=
  let s := forgetRemotes s t fun r => r.tag == t && r.op == 3 && r.bag == b && r.shard == h
  let s := modCmd s t fun c =>
    let bag := c.bags.getD b ⟨0, 0, 0, 0, [], 0, false⟩
    let c := firstCode c code
    { c with bags := c.bags.set b { bag with failed := bag.failed + 1 },
             partials := c.partials.filter fun q => !(q.bag == b && q.shard == h && q.npart == 1) }
  settleBag s t b h

/-- R215, R313: a request under tag `t` ends with a failure code. -/
def requestFails (s : State) (t : Nat) (r : Remote) (code : Nat) : State :=
  match r.op with
  | 3 => shardFails s t r.bag r.shard code
  | 4 => answerLocal (forgetFirst s (· == r)) t code
  | _ => fail s t code

/-- R532: count an answer that comes too late. -/
def late (s : State) : State := bump s .jnLate 0 0 0 1

/-- An Error packet (or a failed first route) ends its request. -/
def errorArrives (s : State) (p : Packet) : State :=
  match cmdOfHandle s p.handle with
  | none => late s
  | some (t, c) =>
    match s.remotes.find? (remoteOf p (opOfCmd c)) with
    | some r => requestFails s t r p.args.reason
    | none => late s

/-- R214: the data of an RREAD. -/
def readArrives (s : State) (t : Nat) (c : Cmd) (p : Packet) : State :=
  let a := tileRowAddr c.tile c.blk.w3
  let s := modCore s c.core fun k => lsWriteRow k a (p.data.take c.blk.count) p.poison
  retire (modCmd s t fun c => { c with detail := c.blk.count, poison := c.poison || p.poison.any id }) t

/-- R447: a WWRITE whose write was discarded for a mismatch sets POISON. -/
def writeAnswered (s : State) (t : Nat) (p : Packet) : State :=
  retire (modCmd s t fun c => { c with detail := c.blk.count, poison := c.poison || p.poison.any id }) t

/-- The elements of a partial: 8 bytes each in exact mode, 4 in fast mode. -/
def partialVals (p : Packet) : List W64 :=
  (chunks (if p.exm then 8 else 4) (p.data.length + 1) p.data).map fun b => BitVec.ofNat 64 (leNat b)

/-- A partial arrives, with the flags that its home raised (R282, R731). The spec gives the answer of Table 13.8 no field for
them (DEDUCED, log 25). -/
def partialArrives (s : State) (t : Nat) (p : Packet) : State :=
  let q : Partial := ⟨p.args.bag, p.args.shard, p.args.piece, p.args.npart, partialVals p, p.poison.any id⟩
  let s := modCmd s t fun c =>
    let bag := c.bags.getD q.bag ⟨0, 0, 0, 0, [], 0, false⟩
    { c with partials := c.partials ++ [q], poison := c.poison || q.poison, flags := c.flags ||| p.args.flags,
             bags := if q.poison then c.bags.set q.bag { bag with poison := true } else c.bags }
  settleBag s t q.bag q.shard

/-- A combined partial may stand for any shard of its bag that still waits. -/
def awaited (p : Packet) (r : Remote) : Bool :=
  if p.cmb then r.handle == p.handle && r.op == 3 && r.bag == p.args.bag else remoteOf p (p.op - 0x80) r

def responseArrives (s : State) (p : Packet) : State :=
  match cmdOfHandle s p.handle, s.remotes.find? (awaited p) with
  | some (t, c), some r =>
    (match p.op with
     | 0x81 => readArrives s t c p
     | 0x82 => writeAnswered s t p
     | 0x83 => partialArrives s t p
     | 0x84 => answerLocal (forgetFirst s (· == r)) t 0
     | _ => fail s t p.args.reason)
  | _, _ => late s

/-! ### Delivery on this part (R522, R525, R643) -/

/-- R449: the context that a request names is valid here and has its key. -/
def keyOk (s : State) (p : Packet) : Bool := ctxValid s p.ctx && fabKey s p.ctx == p.key

/-- An answer to a request: it carries RTAG back. -/
def answerPacket (s : State) (q : Packet) (op reason : Nat) : Packet :=
  { op := op, x := q.x, dst := q.src, src := selfId s, ctx := q.ctx, handle := q.handle, core := q.core,
    slot := q.slot, key := fabKey s q.ctx, args := { q.args with reason := reason } }

def injectPkt (s : State) (p : Packet) : State := { s with inject := s.inject ++ [p] }

/-- R643: fabric-inbound tags that bulk requests hold, and whether an express request waits for one. -/
def bulkInbound (s : State) : Nat :=
  (s.inbound.countP fun e => e.tag.isSome && !e.pkt.x) + s.mergeNet.countP fun x => x.tag.isSome && !x.express

/-- R105, R525: a request of another device that this part serves takes a fabric-inbound tag. -/
def wantsTag (s : State) (p : Packet) : Bool :=
  servesFabric s && p.dst == selfId s && p.src != selfId s && isRequest p

def expressWaits (s : State) : Bool :=
  s.fab.ports.any fun e => e.2.rx.any fun q => q.2.whole.any fun p => p.x && wantsTag s p

/-- The tag can carry this request. -/
def inboundTag (s : State) (p : Packet) (tag : Nat) : Bool :=
  !wantsTag s p || ((getTag s tag).st == .free && poolOf tag == .fabric
    && (p.x || bulkInbound s < 56 || !expressWaits s))

/-- A contribution from another device (Table 7.5). -/
def fabricContribution (p : Packet) : Option Contribution :=
  let bf := (fieldAt p.data 7 1).testBit 1
  let w := (p.data.length - 32) / (if bf then 2 else 4)
  (parseRecords p.ctx p.args.shard w p.data p.poison 1).head?.map fun x =>
    { x with srcDev := p.src, srcTag := p.handle, express := p.x }

/-- R295, R525: a contribution of another device waits in its receive buffer, under the credits of its class, while its home
would hold it. -/
def heldBack (s : State) (p : Packet) : Bool :=
  p.op == 4 && wantsTag s p && keyOk s p && ((fabricContribution p).map (heldAtHome s)).getD false

/-- R452: a register of an inbound window as it applies to a request that arrives now: a write applies 64 cycles after it. -/
def winNow (s : State) (c w : Nat) (r : RegName) : W64 :=
  match s.winOld.find? fun e => e.1 == regAddr r 0 c w with
  | some e => e.2.1
  | none => regVal s r 0 c w

/-- The window that a request names, as it stands at its arrival (R450). -/
def winWords (s : State) (p : Packet) : List W64 :=
  [RegName.xlIwctl, .xlIwlen, .xlIwbase, .xlIwbox].map (winNow s p.ctx p.args.window)

/-- Hand a packet to its unit on this part, or turn a request away while the part serves none (R683, R686). -/
def deliverHere (s : State) (p : Packet) (tag : Nat) : State :=
  if isRequest p && !servesFabric s then injectPkt s (answerPacket s p 0x8F codeHomeUnreachable)
  else if p.op = 4 then
    match keyOk s p, fabricContribution p with
    | true, some x =>
      let take := wantsTag s p
      let s := if take then takeTag s tag none p.ctx none else s
      { s with mergeNet := s.mergeNet ++ [{ x with tag := if take then some tag else none }] }
    | _, _ => injectPkt s (answerPacket s p 0x8F codeWindowRefused)
  else
    let take := wantsTag s p
    let s := if take then takeTag s tag none p.ctx none else s
    { s with inbound := s.inbound ++ [⟨s.nextInbound, if take then some tag else none, p, winWords s p⟩],
             nextInbound := s.nextInbound + 1 }

/-! ### A route that cannot be completed (R533) -/

/-- R205: a contribution that is not sent does not count in DETAIL. -/
def unsent (s : State) (p : Packet) : State :=
  match cmdOfHandle s p.handle with
  | some (t, _) => if p.op = 4 then modCmd s t fun c => { c with doneN := c.doneN - 1 } else s
  | none => s

def routeFails (s : State) (r : PktRef) (p : Packet) : State :=
  if isRequest p then
    match r with
    | .inject _ => errorArrives (unsent s p) { p with args := { p.args with reason := codeHomeUnreachable } }
    | _ => injectPkt s (answerPacket s p 0x8F codeHomeUnreachable)
  else if p.op = 6 then s
  else bump s .jnUnreach 0 0 0 1

/-! ### Combining (R529, R530) -/

/-- Two packets of the same reduction. -/
def sameReduction (p q : Packet) : Bool :=
  p.op == 0x83 && q.op == 0x83 && !p.exm && !q.exm && p.dst == q.dst && p.handle == q.handle && p.core == q.core
    && p.slot == q.slot && p.args.bag == q.args.bag && p.args.piece == q.args.piece
    && p.data.length == q.data.length

/-- Two FP32 elements of a reduction. -/
def combineFast (mode : Nat) (a b : W32) : W32 :=
  match poolOp mode with
  | .sum => fp32Add a b
  | .larger => (minMax false true (a.setWidth 64) (b.setWidth 64)).setWidth 32
  | .smaller => (minMax false false (a.setWidth 64) (b.setWidth 64)).setWidth 32

def words32 (bs : List Byte) : List W32 := (chunks 4 (bs.length + 1) bs).map fun b => BitVec.ofNat 32 (leNat b)

/-- The poison of either. -/
def orPoison (a b : List Bool) : List Bool := (List.range (max a.length b.length)).map fun i => a.getD i false || b.getD i false

def combinePackets (p q : Packet) : Packet :=
  { p with cmb := true, args := { p.args with npart := p.args.npart + q.args.npart, flags := p.args.flags ||| q.args.flags },
           data := (List.zipWith (combineFast p.args.mode) (words32 p.data) (words32 q.data)).flatMap fun w =>
             leBytes 4 w.toNat,
           poison := orPoison p.poison q.poison }

/-- The two wait for the same output. -/
def sameOutput (s : State) (p q : Packet) (a b : Option (Nat × Nat)) : Bool :=
  match route s p a, route s q b with
  | .out d _ _ _, .out e _ _ _ => d == e
  | _, _ => false

/-! ### PACKET_FORWARD (R522) -/

/-- Only the oldest packet of a buffer, and the oldest of its flow among those waiting to enter, may go. -/
def turnOf (s : State) (r : PktRef) (p : Packet) : Bool :=
  match r with
  | .inject i => !(s.inject.take i).any (sameFlow p)
  | .resend i => !(s.fab.resend.take i).any fun e => sameFlow p e.1
  | .rx _ _ i => i == 0

/-- R505: packets taken back go ahead of packets of their flow that have no link yet. -/
def resendFirst (s : State) (r : PktRef) (p : Packet) : Bool :=
  match r with
  | .resend _ => true
  | _ => !(s.fab.resend.any fun e => sameFlow p e.1)

/-- The direction and class of a packet taken back. -/
def resendOf (s : State) : PktRef → Option (Nat × Nat)
  | .resend i => s.fab.resend[i]?.map fun e => (e.2.1, e.2.2)
  | _ => none

def isLazy (r : PktRef) (p : Packet) : Bool :=
  match r with
  | .inject _ => lazyData p
  | _ => false

/-- The packet as it leaves its place. -/
def leaving (s : State) (r : PktRef) (p : Packet) : Packet := if isLazy r p then loadData s p else p

/-- A request whose command has ended leaves no data to send. -/
def orphan (s : State) (r : PktRef) (p : Packet) : Bool := isLazy r p && (cmdOfHandle s p.handle).isNone

/-! ### The order of classes at an output (R502, R521) -/

/-- The direction an LSA goes in from here. -/
def lsaDir (p : Packet) : Nat := dirOf p.args.dim (p.dir.testBit p.args.dim)

/-- Its class on that link. -/
def lsaClass (s : State) (p : Packet) (by_ : Option (Nat × Nat)) : Nat :=
  let d := p.args.dim
  2 * vcOf p + dlOn s d (coordOf (selfId s) d) (p.dir.testBit d) ((by_.map (·.2 % 2)).getD 0)

/-- The direction and class in which a packet leaves this part, with the packet. -/
def leavesBy (s : State) (r : PktRef) : Option (Nat × Nat × Packet) :=
  match pktAt s r with
  | none => none
  | some (p, by_) =>
    match resendOf s r, p.op with
    | some (dir, cls), _ => some (dir, cls, p)
    | none, 7 => if by_.isSome && p.src == selfId s then none else some (lsaDir p, lsaClass s p by_, p)
    | none, _ =>
      match route s p by_ with
      | .out dir dl q _ => if isLazy r p && !dataReady s p then none else some (dir, 2 * vcOf q + dl, leaving s r q)
      | _ => none

/-- The packets that may be next to leave. -/
def candidates (s : State) : List PktRef :=
  ((List.range s.inject.length).map PktRef.inject ++ (List.range s.fab.resend.length).map PktRef.resend
    ++ (List.finRange 32).flatMap fun p => (List.finRange 8).map fun c => PktRef.rx p c 0).filter fun r =>
      match pktAt s r with
      | some (p, _) => turnOf s r p && resendFirst s r p
      | none => false

/-- The rank of a class at an output; after seven express flits in a row bulk goes first. -/
def classRank (run cls : Nat) : Nat :=
  let k := match cls / 2 with
    | 2 => 0
    | 0 => 1
    | 3 => 2
    | _ => 3
  if 7 ≤ run && k < 2 then k + 4 else k

/-- R502: no packet of a class that goes first can leave by the same link. Packets leave whole here, so that bulk's share of one
slot in 8 holds between packets (DESIGN CHOICE, log 25). -/
def classTurn (s : State) (dir cls : Nat) (p : Packet) : Bool :=
  match pickLink s dir p with
  | none => true
  | some port =>
    let run := (getPort s port).run
    !(candidates s).any fun r =>
      match leavesBy s r with
      | some (d, c, q) => d == dir && pickLink s d q == some port && classRank run c < classRank run cls && outReady s d c q
      | none => false

/-- The packet can leave now. -/
def hopReady (s : State) (r : PktRef) (p : Packet) (by_ : Option (Nat × Nat)) (tag : Nat) : Bool :=
  match resendOf s r with
  | some (dir, cls) => outReady s dir cls p && classTurn s dir cls p
  | none =>
    match route s p by_ with
    | .here => inboundTag s p tag && !heldBack s p
    | .stuck => true
    | .out dir dl q _ =>
      outReady s dir (2 * vcOf q + dl) (leaving s r q) && classTurn s dir (2 * vcOf q + dl) (leaving s r q)

def combineReady (s : State) (p : Packet) (by_ : Option (Nat × Nat)) (other : Option PktRef) : Bool :=
  match other with
  | none => true
  | some o =>
    match pktAt s o with
    | some (q, c) => sameReduction p q && sameOutput s p q by_ c
    | none => false

/-- The packet moves on from its place; `p` is the packet with what was combined into it. -/
def hopOut (s : State) (r : PktRef) (p : Packet) (by_ : Option (Nat × Nat)) (tag : Nat) : State :=
  match resendOf s r with
  | some (dir, cls) => sendOn (bump (takePkt s r) .jnFailover 0 0 0 1) dir cls p
  | none =>
    match route s p by_ with
    | .here =>
      let k := leaving s r p
      let s := if isLazy r p then poisonSent s k else s
      deliverHere (takePkt (markLeft s p) r) k tag
    | .stuck => routeFails (takePkt s r) r p
    | .out dir dl q back =>
      let k := leaving s r q
      let s := if isLazy r q then poisonSent s k else s
      let s := takePkt (if back then bump s .jnReverse 0 0 0 1 else s) r
      let s := match r with
        | .inject _ => if isRequest k then markLeft s k else s
        | _ => s
      sendOn s dir (2 * vcOf k + dl) k

/-- The combined packet replaces the first, and the second is gone. -/
def forward (s : State) (r : PktRef) (p : Packet) (by_ : Option (Nat × Nat)) (tag : Nat) (other : Option PktRef) :
    State :=
  match other.bind fun o => (pktAt s o).map fun q => (o, q.1) with
  | some (o, q) => hopOut (bump (takePkt s o) .jnCombined 0 0 0 1) (afterTake o r) (combinePackets p q) by_ tag
  | none => if orphan s r p then takePkt s r else hopOut s r p by_ tag

/-- `tag`: the fabric-inbound tag of a request delivered here; `combine`: a packet of the same reduction that is
combined into this one as it leaves. -/
def execPacketForward (pkt : PktRef) (tag : Fin 4096) (combine : Option PktRef) (s : State) : Res :=
  match pktAt s pkt with
  | none => .next s
  | some (p, by_) =>
    whenDue ((p.op != 6 || by_.isNone) && p.op != 7 && turnOf s pkt p && resendFirst s pkt p && combine != some pkt
        && (orphan s pkt p || ((!isLazy pkt p || dataReady s p) && hopReady s pkt p by_ tag.val
          && combineReady s p by_ combine))) s
      (.next (forward s pkt p by_ tag.val combine))

/-! ### LSA (R521) -/

/-- It ends here: back at its origin, or at a broken bundle. -/
def lsaStops (s : State) (p : Packet) (by_ : Option (Nat × Nat)) : Bool :=
  (by_.isSome && p.src == selfId s) || (bundleUp s (lsaDir p)).isEmpty

def lsaTake (s : State) (p : Packet) (by_ : Option (Nat × Nat)) : State :=
  if by_.isSome && p.src != selfId s then setDetour s p.args.dim p.args.link (p.args.state != 0) else s

def execLsa (pkt : PktRef) (s : State) : Res :=
  match pktAt s pkt with
  | none => .next s
  | some (p, by_) =>
    whenDue (p.op == 7 && turnOf s pkt p && (lsaStops s p by_ || outReady s (lsaDir p) (lsaClass s p by_) p)) s
      (.next (let t := takePkt (lsaTake s p by_) pkt
        if lsaStops s p by_ then t else sendOn t (lsaDir p) (lsaClass s p by_) p))

/-! ### Serving requests (R449 to R451, R527, R528) -/

/-- End a request in service: its tag goes free. -/
def endInbound (s : State) (e : Inbound) : State :=
  let s := match e.tag with
    | some t => setTag s t { getTag s t with st := .free }
    | none => s
  { s with inbound := s.inbound.filter fun x => x.id != e.id }

/-- Answer a request and end it. -/
def answerInbound (s : State) (e : Inbound) (op reason : Nat) (data : List Byte) (poison : List Bool) : State :=
  injectPkt (endInbound s e) { answerPacket s e.pkt op reason with data := data, poison := poison }

def refuseInbound (s : State) (e : Inbound) (code : Nat) : State := answerInbound s e 0x8F code [] []

/-- A request in service, by its number and operation. -/
def inboundOf (s : State) (id op : Nat) : Option Inbound := s.inbound.find? fun e => e.id == id && e.pkt.op == op

/-- R450, R451: the source lies in the box of a window. -/
def inBox (box id : Nat) : Bool :=
  [0, 1, 2].all fun d => bitsOf box (16 * d) 8 ≤ coordOf id d && coordOf id d ≤ bitsOf box (16 * d + 8) 8

/-- XL_IWCTL, XL_IWLEN, XL_IWBASE and XL_IWBOX of a request's window. -/
def winCtl (e : Inbound) : W64 := e.win.getD 0 0#64
def winLen (e : Inbound) : W64 := e.win.getD 1 0#64
def winBase (e : Inbound) : W64 := e.win.getD 2 0#64
def winBox (e : Inbound) : W64 := e.win.getD 3 0#64

/-- R451: the window admits the access. -/
def windowOk (e : Inbound) (write : Bool) (n : Nat) : Bool :=
  (winCtl e).getLsbD 0 && (winCtl e).getLsbD (if write then 2 else 1) && inBox (winBox e).toNat e.pkt.src
    && e.pkt.args.offset + n ≤ fGet (winLen e) 0 32 * 65536

/-- Device physical address, and the requester (Table 10.3). -/
def windowPa (e : Inbound) : Nat := fGet (winBase e) 16 24 * 65536 + e.pkt.args.offset
def windowWho (e : Inbound) : MemWho := ⟨some e.pkt.ctx, 6, fGet (winCtl e) 3 2⟩

def serveRead (s : State) (e : Inbound) : State :=
  let p := e.pkt
  if !keyOk s p || !windowOk e false p.args.count then refuseInbound s e codeWindowRefused
  else
    let bad := devPoison s (windowPa e) p.args.count
    let (r, s) := devRead s (windowWho e) (windowPa e) p.args.count
    if r.failed then refuseInbound s e codeGranuleFailed
    else answerInbound s e 0x81 0 r.bytes (if r.mismatch then bad.map fun _ => true else bad)

def execRemoteRead (id : Nat) (s : State) : Res :=
  match inboundOf s id 1 with
  | some e => whenDue (planeUp s) s (.next (serveRead s e))
  | none => .next s

def serveWrite (s : State) (e : Inbound) : State :=
  let p := e.pkt
  if !keyOk s p || !windowOk e true p.data.length then refuseInbound s e codeWindowRefused
  else
    let (r, s) := devWrite s (windowWho e) (windowPa e) p.data p.poison
    if r.2 then refuseInbound s e codeGranuleFailed else answerInbound s e 0x82 0 [] (if r.1 then [true] else [])

def execWindowWrite (id : Nat) (s : State) : Res :=
  match inboundOf s id 2 with
  | some e => whenDue (planeUp s) s (.next (serveWrite s e))
  | none => .next s

def serveParcel (s : State) (e : Inbound) : State :=
  let p := e.pkt
  if !keyOk s p then answerInbound s e 0x85 codeParcelRefused [] []
  else
    let (code, s) := deliverParcel s p.args.core p.args.slot p.ctx ⟨p.data, p.core, p.src, false, p.poison⟩
    answerInbound s e 0x85 code [] []

def execParcel (id : Nat) (s : State) : Res :=
  match inboundOf s id 5 with
  | some e => whenDue (planeUp s) s (.next (serveParcel s e))
  | none => .next s

/-! ### Pool at home (R283, R286, R527 to R530) -/

/-- The pieces of a request that have arrived, in piece order. -/
def piecesOf (s : State) (p : Packet) : List Inbound :=
  (List.range p.args.pieces).filterMap fun i =>
    s.inbound.find? fun e => e.pkt.op == 3 && e.pkt.src == p.src && e.pkt.handle == p.handle
      && e.pkt.args.bag == p.args.bag && e.pkt.args.shard == p.args.shard && e.pkt.args.piece == i

/-- The entries of a piece: local row and factor. -/
def entriesOfPiece (p : Packet) : List (Nat × W32) :=
  (chunks 12 (p.data.length + 1) p.data).map fun b => (leNat (b.take 5), BitVec.ofNat 32 (leNat (b.drop 8)))

/-- R286: every row's home has applied the merge of RSTEP. -/
def rowsApplied (s : State) (p : Packet) (h : HomeRec) (es : List (Nat × W32)) : Bool :=
  p.args.rstep == 0 || es.all fun e => p.args.rstep ≤ appliedAt s (channelOf s.variant (homeRow h e.1)) p.ctx

/-- What has been pooled: the partial, poison, and whether a row lies on a failed channel. -/
structure Pooled where
  vals : List W64
  poison : Bool
  failed : Bool
  flags : Flags
  deriving DecidableEq, Repr

/-- Add rows to a partial, in order. -/
def poolHome (p : Packet) (h : HomeRec) (f : Fmt) (w : Nat) : List (Nat × W32) → Pooled → State → Pooled × State
  | [], x, s => (x, s)
  | e :: es, x, s =>
    let (r, s) := devRead s ⟨some p.ctx, if p.x then 0 else 1, 0⟩ (homeRow h e.1) h.rowb
    let (v, g) := poolRow (fmtIsInt f) p.args.mode e.2 x.vals (decodeRow f w r.bytes)
    poolHome p h f w es ⟨v, x.poison || r.poison || r.mismatch, x.failed || r.failed, x.flags ||| g⟩ s

/-- The bytes of an element of the answer: the 64-bit view, or the FP32 value (R529, R530). -/
def partialBytes (exm : Bool) (mode : Nat) (v : W64) : List Byte :=
  if exm then leBytes 8 v.toNat
  else leBytes 4 (match poolOp mode with
    | .sum => (fp32Of (pairNum (pairOfView v))).toNat
    | _ => v.toNat % 2 ^ 32)

/-- One answer for each output piece of 256 elements. -/
def partialAnswers (s : State) (p : Packet) (x : Pooled) : List Packet :=
  (chunks 256 (x.vals.length + 1) x.vals).zipIdx.map fun g =>
    let data := g.1.flatMap (partialBytes p.exm p.args.mode)
    { answerPacket s p 0x83 0 with
      exm := p.exm, data := data, poison := List.replicate ((data.length + 15) / 16) x.poison,
      args := { p.args with piece := g.2, npart := 1, reason := 0, flags := x.flags } }

/-- Serve all pieces of a request together. -/
def servePool (s : State) (es : List Inbound) (p : Packet) : State :=
  let done (s : State) (ks : List Packet) : State := { es.foldl endInbound s with inject := s.inject ++ ks }
  let no (s : State) (code : Nat) : State := done s [answerPacket s p 0x8F code]
  if !keyOk s p then no s codeWindowRefused
  else
    let (h, s) := homeRecord s p.ctx p.args.table p.args.shard
    match h with
    | .missing | .illegal => no s codeBadDescriptor
    | .found h =>
      let f := fmtOfCode p.args.fmt
      match elemsOf f h.rowb with
      | none => no s codeBadDescriptor
      | some w =>
        let (x, s) := poolHome p h f w (es.flatMap fun e => entriesOfPiece e.pkt) ⟨[], false, false, 0#8⟩ s
        if x.failed then no s codeGranuleFailed else done s (partialAnswers s p x)

/-- The rows of the request may be read (R286); a request that will be refused waits for nothing. -/
def poolReady (s : State) (es : List Inbound) (p : Packet) : Bool :=
  es.length == p.args.pieces &&
    (!keyOk s p ||
      match (homeRecord s p.ctx p.args.table p.args.shard).1 with
      | .found h => rowsApplied s p h (es.flatMap fun e => entriesOfPiece e.pkt)
      | _ => true)

/-- R644: an express request that can be served goes first. -/
def expressPool (s : State) : Bool :=
  s.inbound.any fun e => e.pkt.op == 3 && e.pkt.x && poolReady s (piecesOf s e.pkt) e.pkt

def execPoolAtHome (id : Nat) (s : State) : Res :=
  match inboundOf s id 3 with
  | none => .next s
  | some e =>
    let es := piecesOf s e.pkt
    whenDue (planeUp s && poolReady s es e.pkt && (e.pkt.x || !expressPool s)) s (.next (servePool s es e.pkt))

/-! ### Answers (R531 to R533) -/

def execError (id : Nat) (s : State) : Res :=
  match inboundOf s id 0x8F with
  | some e => .next (errorArrives (endInbound s e) e.pkt)
  | none => .next s

/-- An answer in service: 0x81 to 0x85. -/
def answerIn (s : State) (id : Nat) : Option Inbound :=
  s.inbound.find? fun e => e.id == id && 0x81 ≤ e.pkt.op && e.pkt.op ≤ 0x85

def execRemoteResponse (id : Nat) (s : State) : Res :=
  match answerIn s id with
  | some e => .next (responseArrives (endInbound s e) e.pkt)
  | none => .next s

/-- R532: the bound of the request at place `k`. -/
def execRemoteTimeout (k : Nat) (s : State) : Res :=
  match s.remotes[k]? with
  | none => .next s
  | some r => whenDue r.left s (.next (requestFails (bump s .jnTimeout 0 0 0 1) r.tag r codeRemoteTimeout))

end Sys2Proof.Machine
end

