-- ==== Sys2Proof/Machine/Time.lean ====
section
/-! DEFINITION. The Timetable counter: ticks, the main-die copy, PPS, two-step synchronization, slewing and stepping,
holdover and time faults (spec/14, R538 to R564, R741). -/

namespace Sys2Proof.Machine

/-! ### Units -/

/-- Nanoseconds in a second, in units of 2^-16 ns and of 2^-32 ns. -/
def sec16 : Nat := 1000000000 * 65536
def sec32 : Nat := 1000000000 * 4294967296

/-- The counter in units of 2^-16 ns, and in ns. -/
def counter16 (t : TimeSt) : Nat := t.sec * sec16 + t.sub / 65536
def counterNs (t : TimeSt) : Nat := t.sec * 1000000000 + t.sub / 4294967296

/-- R538: a count of 2^-16 ns as seconds, ns and fraction. -/
def snapOf (n : Nat) : Snap := ⟨n / sec16 % 2 ^ 48, n / 65536 % 1000000000, n % 65536⟩

/-- A snapshot in units of 2^-16 ns. -/
def snap16 (x : Snap) : Nat := x.sec * sec16 + x.ns * 65536 + x.frac

def setTime (s : State) (t : TimeSt) : State := { s with time := t }

/-! ### TT_STATUS -/

def ttState (s : State) : Nat := regFld s .ttStatus 0 0 0 0 3
def isMaster (s : State) : Bool := regBit s .ttStatus 0 0 0 3
def stepPending (s : State) : Bool := regBit s .ttStatus 0 0 0 4
def setTtBit (s : State) (b : Nat) (v : Bool) : State := setFld s .ttStatus 0 0 0 b 1 v.toNat

/-- States of Table 14.4: 0 FREE, 1 ACQUIRE, 2 LOCKED, 3 HOLDOVER. Reaching LOCKED clears FAULT (R561). -/
def enterTt (s : State) (st : Nat) : State :=
  let s := setFld s .ttStatus 0 0 0 0 3 st
  if st = 2 then setTime (setTtBit s 7 false) { s.time with slewOnly := false } else s

/-! ### The main-die copy (R542) -/

/-- R727: TKIND 4 fires when DBG_TRTIME has been reached. -/
def traceTimeTrigger (s : State) : State :=
  if regFld s .dbgTrig 0 0 0 0 3 = 4 && reached s (regVal s .dbgTrtime 0 0 0).toNat then traceTrigger s else s

/-- The copy in units of 2^-16 ns. -/
def copy16 (t : TimeSt) : Nat := ((counter16 t : Int) + t.skew).toNat

/-- Publish the copy. -/
def publish (s : State) : State := traceTimeTrigger { s with now := snapOf (copy16 s.time) }

/-- Four nanoseconds, in units of 2^-16 ns. -/
def skewBound : Nat := 4 * 65536

/-- The time clock runs (R539, R673). -/
def timeClocked (s : State) : Bool := !s.power.por && mainClocked s

/-- `skew`: the copy less the counter after the correction. -/
def execTimeCopyUpdate (skew : Int) (s : State) : Res :=
  let t := { s.time with skew := skew }
  whenDue (timeClocked s && skew.natAbs ≤ skewBound && (copy16 s.time ≤ copy16 t || skewBound < s.time.skew.natAbs)) s
    (.next (publish (setTime s t)))

/-! ### Rates (R540, R559) -/

def nominalIncr : Nat := 0x200000000
def maxSlew : Nat := 1717986

/-- R540: rounded toward nominal. -/
def incrOk (i : Nat) : Bool := nominalIncr - maxSlew ≤ i && i ≤ nominalIncr + maxSlew

def curIncr (s : State) : Nat := regFld s .ttIncr 0 0 0 0 40

/-- Change INCR, keeping the rates of the last second. -/
def setIncr (s : State) (i : Nat) : State :=
  let now := counterNs s.time
  let old := (curIncr s, now) :: s.time.rates.filter fun e => now < e.2 + 1000000000
  setTime (setFld s .ttIncr 0 0 0 0 40 i) { s.time with rates := old }

/-- R559: INCR as it was 1 s ago: the rate left first among those left since then. -/
def incrBefore (s : State) : Nat :=
  match (s.time.rates.filter fun e => counterNs s.time < e.2 + 1000000000).getLast? with
  | some e => e.1
  | none => curIncr s

/-! ### Armed deadlines (R555, R562) -/

/-- R555: the exact number. -/
def armed (s : State) : Nat :=
  (s.cores.map fun e => (heldTwait e.2.bulk).toNat + (heldTwait e.2.express).toNat).sum
    + s.problems.countP (fun p => p.deadline != 0)
    + s.host.cmds.countP (fun d => d.express && cmdDeadline d != 0)
    + s.barriers.countP (fun b => b.time != 0 && !b.arrivals.isEmpty && !b.closing)

def expireSlot (x : Slot) : Slot := if heldTwait x then { x with timeUp := true } else x

/-- R562, EXPIRE: every armed TWAIT, problem and express RUN is treated as reached. -/
def expireArmed (s : State) : State :=
  { s with
    cores := spMap coreReset (fun _ c => { c with bulk := expireSlot c.bulk, express := expireSlot c.express }) s.cores,
    problems := s.problems.map fun p => if p.deadline != 0 then { p with expired := true } else p,
    host := { s.host with
      cmds := s.host.cmds.map fun d => if d.express && cmdDeadline d != 0 then { d with timeUp := true } else d } }

/-- R561, R562. -/
def timeFault (s : State) (code : Nat) : State :=
  let s := setFld (setTtBit s 7 true) .ttStatus 0 0 0 8 2 code
  let s := post s .timeFault 11 0 none code 0
  if regBit s .ttCfg 0 0 0 16 then expireArmed s else s

/-! ### Slewing and stepping (R556 to R558) -/

/-- Nothing is left to step. -/
def endStep (s : State) : State := setTime (setTtBit s 4 false) { s.time with corr := 0 }

/-- R558: step by `c` units of 2^-32 ns. Recorded instants move with the counter. -/
def stepBy (s : State) (c : Int) : State :=
  let t := s.time
  let total := ((t.sec * sec32 + t.sub : Nat) : Int) + c
  let n := total.toNat
  let before := counter16 t
  let t' := { t with sec := n / sec32 % 2 ^ 48, sub := n % sec32 }
  let d : Int := (counter16 t' : Int) - before
  let ns : Int := d / 65536
  let t' := { t' with
    skew := t.skew - d, stepped := t.stepped || isMaster s,
    lastEdge := t.lastEdge.map fun e => ((e : Int) + d).toNat,
    lastDone := ((t.lastDone : Int) + ns).toNat, heldSince := ((t.heldSince : Int) + ns).toNat, exchange := none,
    rates := t.rates.map fun e => (e.1, ((e.2 : Int) + ns).toNat) }
  let s := bump (endStep (setTime s t')) .ttSteps 0 0 0 1
  let s := { s with sm := { s.sm with cycleLocal := s.sm.cycleLocal.map fun e => ((e : Int) + ns).toNat } }
  post s .timeStep 11 0 none
    (timeOperand (snapOf before) % 65536 + timeOperand (snapOf (counter16 t')) % 65536 * 65536) 0

/-- STEPTHR in units of 2^-32 ns. -/
def stepThr (s : State) : Nat := regFld s .ttCfg 0 0 0 0 16 * 1000 * 4294967296

/-- R556: the counter slews at the limit, and the rest waits to be stepped. -/
def blockStep (s : State) (c : Int) : State :=
  let s := setIncr s (if c < 0 then nominalIncr - maxSlew else nominalIncr + maxSlew)
  let s := setTime (setTtBit s 4 true) { s.time with corr := c }
  if sec32 ≤ c.natAbs && !(regBit s .ttStatus 0 0 0 7 && regFld s .ttStatus 0 0 0 8 2 = 2) then timeFault s 2 else s

/-- R554, R556: correct by `c`; `incr` is the rate that the servo chooses when it slews. -/
def correct (s : State) (c : Int) (incr : Nat) : State :=
  if c.natAbs < stepThr s || s.time.slewOnly then endStep (setIncr s incr)
  else if armed s = 0 then stepBy s c
  else blockStep s c

/-- R557: the remaining correction, at a tick at which nothing is armed. -/
def execStepApply (s : State) : Res :=
  whenDue (stepPending s && armed s == 0) s (.next (setIncr (stepBy s s.time.corr) nominalIncr))

/-- What slewing has left of a pending correction. -/
def slewed (s : State) : State :=
  if !stepPending s then s
  else
    let c := s.time.corr - ((curIncr s : Int) - nominalIncr)
    if (0 < s.time.corr && c ≤ 0) || (s.time.corr < 0 && 0 ≤ c) || c = 0 then setIncr (endStep s) nominalIncr
    else setTime s { s.time with corr := c }

/-! ### Ticks (R538, R549) -/

/-- One tick of the counter. -/
def tickCounter (t : TimeSt) (incr : Nat) : TimeSt :=
  let n := t.sub + incr
  let wrap := decide (sec32 ≤ n)
  let sub := if wrap then n - sec32 else n
  { t with running := true, sec := if wrap then (t.sec + 1) % 2 ^ 48 else t.sec, sub := sub,
           ppsOut := (wrap || t.ppsOut) && decide (sub / 4294967296 < 10000) }

def execTimeClockTick (s : State) : Res :=
  whenDue (timeClocked s) s
    (.next (publish (slewed (setTime s (tickCounter s.time (curIncr s))))))

/-! ### The master (R546 to R548) -/

/-- Milliseconds in units of 2^-16 ns. -/
def ms16 (n : Nat) : Nat := n * 1000000 * 65536

/-- R546: a time-of-day value. -/
def takeTod (s : State) (sec : Nat) : State :=
  let now := counter16 s.time
  let inside := match s.time.lastEdge with
    | some e => e + ms16 10 ≤ now && now ≤ e + ms16 990
    | none => false
  if inside then
    setTime (setTtBit (setReg s .ttTod 0 0 0 (BitVec.ofNat 64 sec)) 5 false) { s.time with named := some sec }
  else setTtBit s 5 true

/-- R546: the host writes TT_TOD through HW0 of the physical function. -/
def execTtTod (sec : BitVec 48) (s : State) : Res := .next (if hostHere s then takeTod s sec.toNat else s)

/-- TT_OFFSET: signed ns, saturating; `e` in units of 2^-16 ns. -/
def setOffset (s : State) (e : Int) : State :=
  let ns := max (-2147483648) (min 2147483647 (e / 65536))
  setReg s .ttOffset 0 0 0 (BitVec.ofNat 64 (unsignedOf 32 ns))

/-- R547: the second that an edge marks; without an accepted value, the whole second nearest to the counter (DEDUCED, log 26). -/
def edgeSecond (s : State) (ts : Nat) : Nat :=
  match s.time.named with
  | some n => n
  | none => (ts + sec16 / 2) / sec16

/-- Distance of an edge from a whole number of seconds after the last one. -/
def edgeMiss (e ts : Nat) : Nat :=
  let r := (ts - e) % sec16
  min r (sec16 - r)

/-- R657, and the discards of *The time master*. -/
def badEdge (s : State) (ts : Nat) : Bool :=
  match s.time.lastEdge with
  | some e => ts < e + ms16 500 || (2 ≤ ttState s && ms16 1 < edgeMiss e ts)
  | none => false

/-- |error| below 100 ns. -/
def goodOffset (e : Int) : Bool := e.natAbs < 100 * 65536

/-- Count a good or bad measurement; the 8th good one in a row locks (R548, R553). -/
def measure (s : State) (good : Bool) : State :=
  let n := if good then s.time.good + 1 else 0
  let s := setTime s { s.time with good := n }
  if ttState s = 1 && 8 ≤ n then enterTt s 2 else s

/-- An accepted edge on a master out of holdover. -/
def edgeCorrects (s : State) (e : Int) (incr : Nat) : State :=
  let s := if ttState s = 0 then setTime (enterTt s 1) { s.time with good := 0 } else s
  correct (measure (setOffset s e) (goodOffset e)) (-(e * 65536)) incr

/-- The master leaves HOLDOVER, through ACQUIRE, on the 8th good edge in a row. -/
def edgeInHoldover (s : State) : State :=
  let n := s.time.good + 1
  if 8 ≤ n then setTime (enterTt s 1) { s.time with good := 0 } else setTime s { s.time with good := n }

def ppsEdge (s : State) (ts incr : Nat) : State :=
  if badEdge s ts then
    let s := setReg s .ttPpsbad 0 0 0 (BitVec.ofNat 64 ((regFld s .ttPpsbad 0 0 0 0 32 + 1) % 2 ^ 32))
    if ttState s = 3 then setTime s { s.time with good := 0 } else s
  else
    let e : Int := (ts : Int) - (edgeSecond s ts * sec16 : Nat)
    let s := setTime s { s.time with lastEdge := some ts }
    let s := if ttState s = 3 then edgeInHoldover s else edgeCorrects s e incr
    setTime s { s.time with named := none }

/-- A timestamp of the counter with an error of at most 2 ns (R551, R657). -/
def stamped (n : Nat) (jitter : Int) : Nat := ((n : Int) + jitter).toNat
def jitterOk (j : Int) : Bool := j.natAbs ≤ 2 * 65536

/-- The master acts on an edge once firmware is ready (R700). -/
def edgeCounts (s : State) : Bool := isMaster s && smWorks s && firmwareReady s

/-- `jitter`: the timestamp's error; `incr`: the rate the servo chooses. -/
def execPpsInEdge (jitter : Int) (incr : BitVec 40) (s : State) : Res :=
  whenDue (timeClocked s && jitterOk jitter && incrOk incr.toNat) s
    (.next (if edgeCounts s then ppsEdge s (stamped (counter16 s.time) jitter) incr.toNat else s))

/-! ### Holdover (R559 to R561) -/

def enterHoldover (s : State) : State :=
  let s := endStep (setIncr s (incrBefore s))
  setTime (enterTt s 3) { s.time with good := 0, heldSince := counterNs s.time, exchange := none }

/-- No edge within 1.1 s of the expected one. -/
def ppsMissing (s : State) : Bool :=
  match s.time.lastEdge with
  | some e => e + ms16 2100 ≤ counter16 s.time
  | none => false

def execPpsTimeout (s : State) : Res :=
  whenDue (isMaster s && smWorks s && (ttState s == 1 || ttState s == 2) && ppsMissing s) s (.next (enterHoldover s))

/-- R560. -/
def holdSeconds (s : State) : Nat :=
  if ttState s = 3 then (counterNs s.time - s.time.heldSince) / 1000000000 % 2 ^ 32 else 0

def execHoldoverLimit (s : State) : Res :=
  let m := regFld s .ttCfg 0 0 0 20 12
  whenDue (ttState s == 3 && m != 0 && m ≤ holdSeconds s
      && !(regBit s .ttStatus 0 0 0 7 && regFld s .ttStatus 0 0 0 8 2 == 1)) s (.next (timeFault s 1))

/-! ### Followers (R550 to R554) -/

/-- The upstream: the lowest-lane link in UP of the first hop to the master. -/
def upstream (s : State) : Option Nat :=
  if isMaster s then none
  else
    match route s { op := 1, dst := s.fab.timeMaster, src := selfId s } none with
    | .out dir _ _ _ => (bundleUp s dir).head?
    | _ => none

/-- R44, R559: a follower loses its time: no exchange has completed for 2 s, no route to the master exists, or the master is
absent. The last of the three is a fact about another device, so that the event itself stands for it (DESIGN CHOICE,
log 26). -/
def execHoldoverTimeout (s : State) : Res :=
  whenDue (!isMaster s && smWorks s && (ttState s == 1 || ttState s == 2)) s (.next (enterHoldover s))

/-- R554: follow the upstream. -/
def follow (s : State) (p : Nat) : State :=
  if s.time.up = some p then s
  else
    let again := s.time.up.isSome
    let s := setFld s .ttStatus 0 0 0 16 5 p
    let s := setTime s { s.time with up := some p, slewOnly := s.time.slewOnly || again, good := 0, exchange := none }
    if again && ttState s != 3 then enterTt s 1 else s

/-- A TSYNC flit that this part sends. -/
def sendTsync (s : State) (p msg seqid : Nat) (t : Snap) : State :=
  wireOut s p (getPort s p).txSeq false (.tsync
    ⟨Fin.ofNat 4 msg, BitVec.ofNat 16 seqid, BitVec.ofNat 48 t.sec, BitVec.ofNat 32 t.ns, BitVec.ofNat 16 t.frac,
     BitVec.ofNat 10 (selfId s), BitVec.ofNat 5 p⟩)

def tsyncSnap (t : Tsync) : Snap := ⟨t.sec.toNat, t.ns.toNat, t.frac.toNat⟩

/-- R683: the part serves exchanges and announces time. -/
def servesTime (s : State) : Bool := s.power.phase == 7 && !s.power.warm && !s.power.drive

/-- An upstream starts an exchange: Sync, then Follow_Up with t1. -/
def execSyncExchangeTimer (port : Fin 32) (jitter : Int) (s : State) : Res :=
  let p := port.val
  let q := spGet 0 p s.time.seqOut
  whenDue (portUp s p && servesTime s && jitterOk jitter) s
    (.next (let t1 := snapOf (stamped (copy16 s.time) jitter)
      let s := setTime s { s.time with seqOut := spSet 0 p ((q + 1) % 65536) s.time.seqOut }
      sendTsync (sendTsync s p 0 q snapZero) p 1 q t1))

/-- A TSYNC flit at a port in UP: a bad one is discarded and abandons the exchange it belongs to. -/
def tsyncArrives (s : State) (p : Nat) (good : Bool) (head : FlitHead) (act : State → State) : State :=
  if !portUp s p then s
  else if !good then
    let s := bump s .klCrcerr p 0 0 1
    if upstream s = some p then abandon s else s
  else
    let s := headArrives s p head
    if portUp s p then act s else s

/-- A follower acts on what comes from its upstream. -/
def fromUpstream (s : State) (p : Nat) : Bool := upstream s == some p && smWorks s

/-- t2. -/
def syncHeard (p : Nat) (t : Tsync) (jitter : Int) (s : State) : State :=
  if !fromUpstream s p then s
  else
    let s := if s.time.exchange.isSome then abandon s else s
    let s := follow s p
    setTime s { s.time with exchange := some ⟨t.seqid.toNat, none, stamped (copy16 s.time) jitter, none⟩ }

def execSync (port : Fin 32) (good : Bool) (head : FlitHead) (tsync : Tsync) (jitter : Int) (s : State) : Res :=
  whenDue (hasPort s port.val && jitterOk jitter) s
    (.next (tsyncArrives s port.val good head (syncHeard port.val tsync jitter)))

/-- t1, and Delay_Req at t3. -/
def followUpHeard (p : Nat) (t : Tsync) (jitter : Int) (s : State) : State :=
  match s.time.exchange with
  | some x =>
    if fromUpstream s p && x.seqid = t.seqid.toNat && x.t1.isNone then
      let t3 := stamped (copy16 s.time) jitter
      let s := setTime s { s.time with exchange := some { x with t1 := some (snap16 (tsyncSnap t)), t3 := some t3 } }
      sendTsync s p 2 x.seqid snapZero
    else s
  | none => s

def execFollowUp (port : Fin 32) (good : Bool) (head : FlitHead) (tsync : Tsync) (jitter : Int) (s : State) : Res :=
  whenDue (hasPort s port.val && jitterOk jitter) s
    (.next (tsyncArrives s port.val good head (followUpHeard port.val tsync jitter)))

/-- t4, returned in Delay_Resp. -/
def delayReqHeard (p : Nat) (t : Tsync) (jitter : Int) (s : State) : State :=
  if servesTime s then sendTsync s p 3 t.seqid.toNat (snapOf (stamped (copy16 s.time) jitter)) else s

def execDelayReq (port : Fin 32) (good : Bool) (head : FlitHead) (tsync : Tsync) (jitter : Int) (s : State) : Res :=
  whenDue (hasPort s port.val && jitterOk jitter) s
    (.next (tsyncArrives s port.val good head (delayReqHeard port.val tsync jitter)))

/-- The offset of an exchange, in units of 2^-16 ns. -/
def offsetOf (t1 t2 t3 t4 : Int) : Int := ((t2 - t1) - (t4 - t3)) / 2

/-- R553: a completed exchange corrects the counter. -/
def exchangeDone (s : State) (e : Int) (incr : Nat) : State :=
  let s := setTime s { s.time with lastDone := counterNs s.time, exchange := none }
  let s := if ttState s = 0 || ttState s = 3 then setTime (enterTt s 1) { s.time with good := 0 } else s
  correct (measure (setOffset s e) (goodOffset e)) (-(e * 65536)) incr

def delayRespHeard (p : Nat) (t : Tsync) (incr : Nat) (s : State) : State :=
  match s.time.exchange with
  | some ⟨q, some t1, t2, some t3⟩ =>
    if fromUpstream s p && q = t.seqid.toNat then exchangeDone s (offsetOf t1 t2 t3 (snap16 (tsyncSnap t))) incr else s
  | _ => s

def execDelayResp (port : Fin 32) (good : Bool) (head : FlitHead) (tsync : Tsync) (incr : BitVec 40) (s : State) : Res :=
  whenDue (hasPort s port.val && incrOk incr.toNat) s
    (.next (tsyncArrives s port.val good head (delayRespHeard port.val tsync incr.toNat)))

/-! ### Time packets (R552, R741) -/

/-- The announcement on one bundle. -/
def announcePkt (s : State) (dir : Nat) : Packet :=
  let m := isMaster s
  { op := 6, x := true, dst := neighbour s dir, src := selfId s,
    args := { dim := dir, master := s.fab.timeMaster, state := if m then ttState s else s.time.mstate,
              hops := if m then 0 else regFld s .ttStatus 0 0 0 24 5, aseq := s.time.announce,
              stepped := s.time.stepped } }

/-- R552: every bundle with a link in UP except the upstream's. -/
def announceDirs (s : State) : List Nat :=
  ([1, 2, 3, 4, 5, 6] : List Nat).filter fun d =>
    !(bundleUp s d).isEmpty && (upstream s).map (portDir s) != some d

def announceTime (s : State) : State :=
  let ks := (announceDirs s).map (announcePkt s)
  let s := { s with inject := s.inject ++ ks }
  setTime s { s.time with announce := (s.time.announce + 1) % 2 ^ 32, stepped := false }

def execTimeAnnounceTimer (s : State) : Res := whenDue (servesTime s) s (.next (announceTime s))

/-- A Time packet from the upstream. -/
def timeHeard (s : State) (p : Packet) : State :=
  if p.args.master != s.fab.timeMaster then timeFault s 3
  else
    let s := setTtBit (setFld s .ttStatus 0 0 0 24 5 (p.args.hops + 1)) 6 (p.args.state == 3)
    setTime s { s.time with mstate := p.args.state, stepped := s.time.stepped || p.args.stepped }

def execTime (pkt : PktRef) (s : State) : Res :=
  match pktAt s pkt with
  | some (p, some (port, _)) =>
    whenDue (p.op == 6 && turnOf s pkt p) s
      (.next (let t := takePkt s pkt
        if fromUpstream s port then timeHeard t p else t))
  | _ => .next s

/-! ### Reading (R544) -/

def readerKey : TtReader → Nat
  | .host => 0 | .stationmaster => 64 | .dbgacc => 65

/-- The snapshot that a read of TT_SEC takes. -/
def captureTt (s : State) (k : Nat) : State :=
  setTime s { s.time with snaps := spSet snapZero k (snapOf (counter16 s.time)) s.time.snaps }

def execTtSecRead (who : TtReader) (s : State) : Res :=
  let t := captureTt s (readerKey who)
  let bytes := leBytes 8 (spGet snapZero (readerKey who) t.time.snaps).sec
  .next (match who with
    | .host => if hostHere s then emit t 0 (.readDone bytes false) else s
    | .stationmaster => t
    | .dbgacc => { t with test := { t.test with accData := leNat (bytes.take 4), accDone := true } })

end Sys2Proof.Machine
end

