-- ==== Sys2Proof/Machine/Boot.lean ====
section
/-! DEFINITION. The boot ROM: images, the flash directory, boot codes, and what a boot that stops leaves (spec/19, R689 to
R694, R699, R702, R703). -/

namespace Sys2Proof.Machine

/-! ### Boot codes (Tables 19.6, 19.8) -/

/-- R702: a warning lets the boot continue. -/
def bootWarn (s : State) (code arg : Nat) : State :=
  let p := s.power
  let w := min 15 (p.warns + 1)
  { s with power := if p.bootFatal then { p with warns := w }
      else { p with code := code, arg := min 255 arg, warns := w } }

/-- The rails that the Stationmaster switches go off, and with them the link and the ports (R667, R699). -/
def railsOff (s : State) (r : Rails) : State :=
  { s with power := { s.power with rails := r }, host := { s.host with linkUp := false },
           fab := { s.fab with ports := [] } }

/-- R699, R702: a fatal code stops the boot; `st` is the state of the Stationmaster. A restart of the Stationmaster that
finds no image leaves the other planes running (R31). -/
def bootStop (s : State) (code arg phase st : Nat) : State :=
  let p := s.power
  let p := if p.bootFatal then p else { p with code := code, arg := arg % 256, bootFatal := true }
  let s' := { s with power := p, sm := { s.sm with st := st } }
  if firmwareReady s then s' else railsOff { s' with power := { p with phase := phase } } .failed

/-- SM_BOOT.PHASE: 14 in RECOVERY, 15 for a ROM that halted while the other planes run. -/
def bootPhase (s : State) : Nat :=
  if firmwareReady s && s.sm.st == 5 then 14
  else if firmwareReady s && s.sm.st == 0 then 15
  else s.power.phase % 16

/-- Table 19.8: the word of SM_BOOT. -/
def bootWord (s : State) : Nat :=
  let p := s.power
  bootPhase s + p.code % 256 * 2 ^ 8 + p.arg % 256 * 2 ^ 16 + p.warns % 16 * 2 ^ 24 + p.bootFatal.toNat * 2 ^ 31

/-- The boot starts again from phase 0: nothing is wrong yet, no image is chosen, and the rails that are off rise. -/
def bootStart (s : State) : State :=
  { s with
    power := { s.power with
      phase := 0, code := 0, arg := 0, warns := 0, bootFatal := false, booted := false, tries := [], trained := [],
      rails := if s.power.rails == .on then .on else .rising 1 },
    sm := { s.sm with st := 0 } }

/-! ### Images (R690, R691) -/

def imgNat (m : Mem) (o n : Nat) : Nat := leNat (memRead m o n)

def imgVersion (m : Mem) : Nat := imgNat m 4 4
def imgSvn (m : Mem) : Nat := imgNat m 8 2
def imgKey (m : Mem) : Nat := imgNat m 10 1

/-- Bytes `lo .. hi` are zero. -/
def imgZero (m : Mem) (lo hi : Nat) : Bool := (memRead m lo (hi + 1 - lo)).all (· == 0#8)

/-- Table 19.4. -/
def headerOk (m : Mem) : Bool :=
  let len := imgNat m 12 4
  let entry := imgNat m 16 4
  imgNat m 0 4 == 0x4F474657 && imgSvn m ≤ 64 && imgKey m ≤ 1
    && len % 64 == 0 && 64 ≤ len && len ≤ 4 * 2 ^ 20 - 512 && entry % 4 == 0 && entry < len
    && imgNat m 128 1 == 4
    && imgZero m 11 11 && imgZero m 20 127 && imgZero m 225 255 && imgZero m 352 511

/-- R691: the number of the first failing rule, 0 for a valid image. -/
def imageRule (nv : NvSt) (m : Mem) (c : ImgChk) : Nat :=
  if !headerOk m then 1
  else if !c.key then 2
  else if nv.revoke.testBit (imgKey m) then 3
  else if imgSvn m < nv.arb then 4
  else if !c.sig then 5
  else 0

def slotImage (nv : NvSt) (k : Nat) : Mem := if k = 0 then nv.imageA else nv.imageB

def setSlotImage (nv : NvSt) (k : Nat) (m : Mem) : NvSt :=
  if k = 0 then { nv with imageA := m } else { nv with imageB := m }

/-- Write the directory. -/
def setDir (s : State) (active pending : Nat) : State :=
  { s with nv := { s.nv with dirOk := true, active := active, dirPending := pending } }

/-- The image of a slot starts. -/
def bootImage (s : State) (k : Nat) : State :=
  { s with power := { s.power with booted := true },
           sm := { s.sm with st := 1, image := k, version := imgVersion (slotImage s.nv k) } }

/-! ### The choice of an image (R692) -/

/-- The directory after its first look: a bad one counts as slot A with no trial, a trial that did not confirm goes back to
the other slot, and a trial not yet started starts. -/
def romDirectory (s : State) : State :=
  let s := if s.nv.dirOk then s
    else bootWarn { s with nv := { s.nv with active := 0, dirPending := 0 } } 5 0
  match s.nv.dirPending with
  | 2 =>
    let other := 1 - s.nv.active
    let s := bootWarn (setDir s other 0) 7 other
    post { s with sm := { s.sm with upd := 4 } } .fwRollback 10 0 none other 0
  | 1 => { s with nv := { s.nv with dirPending := 2 } }
  | _ => s

/-- The ROM has started an image. -/
def romStarted (s : State) : Bool := s.sm.st == 1

/-- R692, after STRAP_RECOVERY and the directory. -/
def romImage (s : State) (a b : ImgChk) : State :=
  let rule (k : Nat) : Nat := imageRule s.nv (slotImage s.nv k) (if k = 0 then a else b)
  let k := s.nv.active
  if rule k = 0 then bootImage s k
  else if s.nv.dirPending = 0 && rule (1 - k) = 0 then
    bootImage (bootWarn (setDir s (1 - k) 0) 6 (rule k)) (1 - k)
  else bootStop s 4 (rule 0 + 16 * rule 1) 14 5

/-- The boot ROM: R689, then R692. `a` and `b`: what R691 finds of the images in the two slots. -/
def bootRom (s : State) (a b : ImgChk) : State :=
  if !s.nv.otpOk then bootStop s 2 0 15 0
  else if regBit s .smStraps 0 0 0 5 then bootStop s 3 0 14 5
  else romImage (romDirectory s) a b

end Sys2Proof.Machine
end

