-- ==== Sys2Proof/Machine/Commit.lean ====
section
/-! DEFINITION. The commit gate: when an instruction of a slot commits, waits or traps, how programs end,
and the rows of the opcode table that are instructions (spec/03, spec/04, spec/05). -/

namespace Sys2Proof.Machine

/-! ### Ends of programs (R119, R124, R126) -/

/-- R126: a written EN takes effect once both slots are idle; a change clears the express range. -/
def applyExpress (s : State) (n : Nat) : State :=
  let c := getCore s n
  match c.expressPend with
  | none => s
  | some b =>
    if slotBusy c.bulk || slotBusy c.express then s
    else if b == c.expressEn then setCore s n { c with expressPend := none }
    else
      setCore s n
        { c with expressPend := none, expressEn := b, ls := memClear c.ls 0x70000 0x10000,
                 lsPoison := c.lsPoison.filter fun e => e.1 < 0x7000,
                 acc := c.acc.filter fun e => e.1 < 12 * 512,
                 accPoison := c.accPoison.filter fun e => e.1 < 12 * 16,
                 accInt := c.accInt.filter fun e => e.1 < 12 * 16,
                 tiles := c.tiles.filter fun e => e.1 < 56 }

/-- The slot holds no program any more. -/
def slotIdle (s : State) (n : Nat) (i : SlotId) : State :=
  let s := modSlot (releaseHolds s n i) n i fun x =>
    { x with phase := .idle, prevCtx := some x.ctx, held := none, replaying := none,
             replay := { x.replay with valid := false } }
  applyExpress (modCore s n fun c => { c with skipBp := c.skipBp.filter (· != i) }) n

/-- R720: the step, or the skipped breakpoint, is used up. -/
def stepDone (s : State) (n : Nat) (i : SlotId) : State :=
  modCore s n fun c =>
    { c with stepping := if c.stepping = some i then none else c.stepping,
             skipBp := c.skipBp.filter (· != i) }

/-- R124, R465: the program ends and its command completes with STATSUM. -/
def endProgram (s : State) (n : Nat) (i : SlotId) : State :=
  let x := getSlot s n i
  stepDone (slotIdle (completeId (tallyRun s n i) x.cmd 0 x.statsum.toNat (n + 256 * slotNum i)) n i) n i

/-- R124, R170: END ends the program of a slot that holds no tag, and waits in any other. -/
def effEnd (n : Nat) (i : SlotId) (s : State) : Eff :=
  if slotHolds s n i then .hold .sync else .done (endProgram s n i)

/-- R119, R617: a faulted or aborted program is over once its last tag has been observed. -/
def finishSlot (s : State) (n : Nat) (i : SlotId) : State :=
  if slotHolds s n i then s
  else
    let x := getSlot s n i
    match x.phase with
    | .faulting cause pc =>
      slotIdle (completeId (tallyRun s n i) x.cmd 0x30 (cause + 256 * slotNum i + 65536 * n) pc.toNat) n i
    | .aborting => slotIdle (completeId (tallyRun s n i) x.cmd 0x1A 0 0) n i
    | _ => s

/-- R117, R119: take a program fault. -/
def takeFault (s : State) (n : Nat) (i : SlotId) (c : Trap) (v : W64) : State :=
  finishSlot (programFault s n i c v) n i

/-! ### The gate (R101, R102, R719) -/

/-- Dispatch of an instruction to its meaning. -/
def wewEffect (w : Wew) (ch : Choice) (n : Nat) (i : SlotId) (s : State) : Eff :=
  match w with
  | .int op rd ra rb => effInt op rd ra rb n i s
  | .imm op rd ra v => effImm op rd ra v n i s
  | .seth rd hw v => effSeth rd hw v n i s
  | .puth rd hw v => effPuth rd hw v n i s
  | .branch c ra rb h off => effBranch c ra rb h off ch n i s
  | .jal rd off => effJal rd off n i s
  | .jalr rd ra v => effJalr rd ra v ch n i s
  | .load op rd ra v => effLoad op rd ra v n i s
  | .store op rs ra v => effStore op rs ra v n i s
  | .mfsr rd sr => effMfsr rd sr n i s
  | .mtsr ra sr => effMtsr ra sr n i s
  | .trap v => effTrap v
  | .brk => effBreak s
  | .stop => effEnd n i s
  | .fp op d rd ra rb => effFp op d rd ra rb n i s
  | .divd rd ra rb => effCop false rd ra rb n i s
  | .sqrtd rd ra => effCop true rd ra ra n i s
  | .fma d rd ra rb rc => effFma d rd ra rb rc n i s
  | .fcvtx rd ra f rm sat => effFcvtx rd ra f rm sat n i s
  | .fcvtf rd ra f => effFcvtf rd ra f n i s
  | .fcvtLD rd ra rm sat => effFcvtLD rd ra rm sat n i s
  | .fcvtDL rd ra rm => effFcvtDL rd ra rm n i s
  | .fcvtSD rd ra rm sat => effFcvtSD rd ra rm sat n i s
  | .fcvtDS rd ra => effFcvtDS rd ra n i s
  | .tdef ra x => effTdef ra x n i s
  | .seed ra => effSeed ra n i s
  | .azero rd k => effAzero rd k ch n i s
  | .block op rd ra => effBlock op rd ra ch n i s
  | .lend => effLend n i s
  | .pfetch ra rb => effPfetch ra rb n i s
  | .psend rd ra rb x => effPsend rd ra rb x ch n i s
  | .precv rd ra => effPrecv rd ra ch n i s
  | .twait ra => effTwait ra n i s
  | .wait rd ra => effWait rd ra n i s
  | .stat rd ra => effStat rd ra n i s
  | .waitall => effWaitall n i s

/-- R101, R123, R719: the slot runs, nothing of it waits, its core is not halted (but for a step), and the
bulk slot does not commit while an express program runs. -/
def slotRuns (s : State) (n : Nat) (i : SlotId) : Bool :=
  let c := getCore s n
  let x := coreSlot c i
  x.phase == .running && seqWorks s n && planeUp s && c.fetchMiss.isNone &&
    (!c.halted || c.stepping == some i) && (isExpress i || c.express.phase != .running)

/-- The gate is free for a new instruction of the slot. -/
def canCommit (s : State) (n : Nat) (i : SlotId) : Bool :=
  slotRuns s n i && (getSlot s n i).held.isNone

/-- The segment that the core's lookaside holds for the slot's PC. -/
def fetchSeg (s : State) (n : Nat) (i : SlotId) : Option Seg :=
  let c := getCore s n
  let x := coreSlot c i
  lookFind c.look (coreShare c i) x.ctx x.pc.toNat

/-- R719: an enabled breakpoint lies at the slot's PC. -/
def atBreakpoint (s : State) (n : Nat) (i : SlotId) : Bool :=
  let p := physOf s n
  let c := getCore s n
  debugMode s && !c.skipBp.contains i && c.stepping != some i &&
    (List.range 2).any fun j =>
      regBit s .dbgBpctl p 0 0 j && regFld s .dbgBp p j 0 0 48 == (getSlot s n i).pc.toNat

/-- An instruction that hands the execute engine a command. -/
def engineWork : Wew → Bool
  | .azero .. | .block .. => true
  | _ => false

/-- After a commit: a step is over, and express work that finds no bulk unit running begins (R239). -/
def afterCommit (w : Wew) (n : Nat) (i : SlotId) (s : State) : State :=
  if isExpress i && engineWork w then expressBegins (stepDone s n i) n else stepDone s n i

/-- R176: the operand block that an instruction has read when it waits: none while it waits for its registers. -/
def blockRead (s : State) (n : Nat) (i : SlotId) : Wew → Option Block
  | .block op rd ra =>
    if (copWait (getSlot s n i) (.block op rd ra)).isSome then none
    else some (readBlock (getCore s n) (getG (getSlot s n i) ra).toNat)
  | _ => none

/-- The instruction waits at the gate for this cause (R107, R116, R181). `blk`: the operand block it read before. -/
def holdAt (w : Wew) (why : Stall) (blk : Option Block) (n : Nat) (i : SlotId) (s : State) : State :=
  modSlot s n i fun x => { x with held := some ⟨why, w, blk.orElse fun _ => blockRead s n i w⟩ }

/-- What an instruction at the gate does to the machine. A BREAK that halts leaves the PC at itself: it is a trap, and a trapping
instruction does not commit, though R169 says that BREAK commits (DESIGN CHOICE, log 50). -/
def applyEff (e : Eff) (w : Wew) (n : Nat) (i : SlotId) (s : State) : Res :=
  match e with
  | .done s' => .next (afterCommit w n i s')
  | .trap c v => .next (takeFault (stepDone s n i) n i c v)
  | .halt => .next (debugHalt (recordTrap s n i .brk (getSlot s n i).pc 0#64) n (some 3))
  | .hold why => .next (holdAt w why none n i (modSlot s n i fun x => { x with timeUp := false }))
  | .badTag => .fault .badTag

/-- R133, R163: the register waits, then the meaning. -/
def gate (w : Wew) (ch : Choice) (n : Nat) (i : SlotId) (s : State) : Eff :=
  match copWait (getSlot s n i) w with
  | some why => .hold why
  | none => wewEffect w ch n i s

/-- An instruction reaches the commit gate. Its fetch has hit a segment: a fetch that misses is the row
LOOKASIDE_MISS, and one without X traps (R412). -/
def commit (w : Wew) (ch : Choice) (a : At) (s : State) : Res :=
  let n := a.core.val
  let i := a.slot
  whenDue (canCommit s n i) s
    (match fetchSeg s n i with
     | none => .next s
     | some g =>
       let pc := (getSlot s n i).pc
       if !g.x then .next (takeFault s n i .segFault (pc.setWidth 64))
       else if atBreakpoint s n i then .next (debugHalt s n (some 2))
       else applyEff (gate w ch n i s) w n i s)

/-! ### The scalar rows -/

def execIntegerRegisterOperation (a : At) (op : IntOp) (rd ra rb : Reg) (s : State) : Res :=
  commit (.int op rd ra rb) {} a s

def execIntegerImmediateOperation (a : At) (op : ImmOp) (rd ra : Reg) (v : BitVec 16) (s : State) : Res :=
  commit (.imm op rd ra v) {} a s

def execSeth (a : At) (rd : Reg) (hw : BitVec 2) (v : BitVec 16) (s : State) : Res :=
  commit (.seth rd hw v) {} a s

def execPuth (a : At) (rd : Reg) (hw : BitVec 2) (v : BitVec 16) (s : State) : Res :=
  commit (.puth rd hw v) {} a s

/-- `younger`: instructions in flight behind the branch, at most four (R99). -/
def execConditionalBranch (a : At) (c : Cond) (ra rb : Reg) (h : Bool) (off : BitVec 15)
    (younger : Fin 5) (s : State) : Res :=
  commit (.branch c ra rb h off) { younger := younger.val } a s

def execJal (a : At) (rd : Reg) (off : BitVec 21) (s : State) : Res := commit (.jal rd off) {} a s

def execJalr (a : At) (rd ra : Reg) (v : BitVec 16) (younger : Fin 5) (s : State) : Res :=
  commit (.jalr rd ra v) { younger := younger.val } a s

def execLocalStoreLoad (a : At) (op : LoadOp) (rd ra : Reg) (v : BitVec 16) (s : State) : Res :=
  commit (.load op rd ra v) {} a s

def execLocalStoreStore (a : At) (op : StoreOp) (rs ra : Reg) (v : BitVec 16) (s : State) : Res :=
  commit (.store op rs ra v) {} a s

def execMfsr (a : At) (rd : Reg) (sr : BitVec 8) (s : State) : Res := commit (.mfsr rd sr) {} a s
def execMtsr (a : At) (ra : Reg) (sr : BitVec 8) (s : State) : Res := commit (.mtsr ra sr) {} a s

def execFloatingPointOperation (a : At) (op : FpOp) (double : Bool) (rd ra rb : Reg) (s : State) : Res :=
  commit (.fp op double rd ra rb) {} a s

def execFma (a : At) (double : Bool) (rd ra rb rc : Reg) (s : State) : Res :=
  commit (.fma double rd ra rb rc) {} a s

/-- A divide or square root; `wrongPath` says that it started at RD and was squashed (R104). -/
def coprocessor (sqrt : Bool) (rd ra rb : Reg) (wrongPath : Bool) (a : At) (s : State) : Res :=
  if wrongPath then
    whenDue (slotRuns s a.core.val a.slot) s (.next (copSquashed sqrt rd a.core.val a.slot s))
  else commit (if sqrt then .sqrtd rd ra else .divd rd ra rb) {} a s

def execDivd (a : At) (rd ra rb : Reg) (wrongPath : Bool) (s : State) : Res :=
  coprocessor false rd ra rb wrongPath a s

def execSqrtd (a : At) (rd ra : Reg) (wrongPath : Bool) (s : State) : Res :=
  coprocessor true rd ra ra wrongPath a s

/-- R103: the operation `k` of the slot's coprocessor pipeline is the oldest of its kind. -/
def copDue (x : Slot) (k : Nat) : Bool :=
  match x.cop[k]? with
  | some o => (x.cop.take k).all fun e => e.sqrt != o.sqrt
  | none => false

/-- R103, R104: its result is written and its flags are OR-ed, unless it is discarded. -/
def copWrite (x : Slot) (k : Nat) : Slot :=
  match x.cop[k]? with
  | some o =>
    let x := { x with cop := x.cop.eraseIdx k }
    if o.discard then x else orFflags (setF x o.rd o.result) o.flags
  | none => x

def execCoprocessorResult (a : At) (k : Nat) (s : State) : Res :=
  whenDue (copDue (getSlot s a.core.val a.slot) k) s
    (.next (modSlot s a.core.val a.slot fun x => copWrite x k))

def execFcvtx (a : At) (rd ra : Reg) (f : BitVec 4) (rm : BitVec 2) (sat : Bool) (s : State) : Res :=
  commit (.fcvtx rd ra f rm sat) {} a s

def execFcvtf (a : At) (rd ra : Reg) (f : BitVec 4) (s : State) : Res := commit (.fcvtf rd ra f) {} a s

def execFcvtLD (a : At) (rd ra : Reg) (rm : BitVec 2) (sat : Bool) (s : State) : Res :=
  commit (.fcvtLD rd ra rm sat) {} a s

def execFcvtDL (a : At) (rd ra : Reg) (rm : BitVec 2) (s : State) : Res :=
  commit (.fcvtDL rd ra rm) {} a s

def execFcvtSD (a : At) (rd ra : Reg) (rm : BitVec 2) (sat : Bool) (s : State) : Res :=
  commit (.fcvtSD rd ra rm sat) {} a s

def execFcvtDS (a : At) (rd ra : Reg) (s : State) : Res := commit (.fcvtDS rd ra) {} a s

def execTrap (a : At) (v : BitVec 16) (s : State) : Res := commit (.trap v) {} a s

def execBreak (a : At) (s : State) : Res := commit .brk {} a s

/-- R124, R170: an END that waits at CM commits by END_COMPLETE. -/
def execEnd (a : At) (s : State) : Res := commit .stop {} a s

/-- The END of a slot waits and every tag of the slot has been observed. -/
def endDue (s : State) (n : Nat) (i : SlotId) : Bool :=
  let x := getSlot s n i
  slotRuns s n i && x.held == some ⟨.sync, .stop, none⟩ && !slotHolds s n i

def execEndComplete (a : At) (s : State) : Res :=
  whenDue (endDue s a.core.val a.slot) s (.next (endProgram s a.core.val a.slot))

/-- Waits that a row of their own ends: END and TWAIT. -/
def ownRow : Wew → Bool
  | .stop | .twait _ => true
  | _ => false

/-- R102: the instruction waiting at the gate commits once its cause has cleared, or waits for the cause that it meets now
(R181). `tag` is the free tag a waiting command takes. -/
def execCommitAfterStall (a : At) (tag : Fin 4096) (younger : Fin 5) (s : State) : Res :=
  let n := a.core.val
  let i := a.slot
  match (getSlot s n i).held with
  | none => .next s
  | some h =>
    whenDue (slotRuns s n i && !ownRow h.word) s
      (let s' := modSlot s n i fun x => { x with held := none }
       match gate h.word { tag := tag.val, younger := younger.val, blk := h.blk } n i s' with
       | .hold why => .next (holdAt h.word why h.blk n i s)
       | e => applyEff e h.word n i s')

/-- R109, R721: the sequencer observes reports; while its core is halted it does so only for an instruction being stepped. -/
def observes (s : State) (n : Nat) : Bool :=
  seqWorks s n && (!(getCore s n).halted || (getCore s n).stepping.isSome)

/-- R109, R111, R186: the sequencer observes the report at the head of its order. -/
def observe (s : State) (n t : Nat) (w : W64) : State :=
  let s := modCore s n fun c => { c with reports := c.reports.drop 1 }
  let x := getTag s t
  let s := setTag s t { x with st := .free, status := w }
  match x.owner with
  | some (m, i) =>
    let s := modSlot s m i fun y => { y with statsum := y.statsum ||| w.extractLsb' 16 8 }
    finishSlot s m i
  | none => s

def execRetirementReport (core : Fin 160) (s : State) : Res :=
  match (getCore s core.val).reports with
  | [] => .next s
  | (t, w) :: _ => whenDue (observes s core.val) s (.next (observe s core.val t w))

/-- R131: a word that decodes to no instruction reaches CM. -/
def execIllegalInstr (a : At) (word : W32) (s : State) : Res :=
  match decodeWew word with
  | .ok _ => .fault .wrongRow
  | .bad _ =>
    let n := a.core.val
    whenDue (canCommit s n a.slot) s
      (match fetchSeg s n a.slot with
       | none => .next s
       | some g =>
         if !g.x then .next (takeFault s n a.slot .segFault ((getSlot s n a.slot).pc.setWidth 64))
         else if atBreakpoint s n a.slot then .next (debugHalt s n (some 2))
         else .next (takeFault (stepDone s n a.slot) n a.slot .illegalInstr (word.setWidth 64)))

/-! ### The engine rows -/

def execTdef (a : At) (ra : Reg) (x : BitVec 6) (s : State) : Res := commit (.tdef ra x) {} a s
def execSeed (a : At) (ra : Reg) (s : State) : Res := commit (.seed ra) {} a s

def execAzero (a : At) (rd : Reg) (k : BitVec 4) (tag : Fin 4096) (s : State) : Res :=
  commit (.azero rd k) { tag := tag.val } a s

def execAccwb (a : At) (rd ra : Reg) (tag : Fin 4096) (s : State) : Res :=
  commit (.block .accwb rd ra) { tag := tag.val } a s

def execSload (a : At) (rd ra : Reg) (tag : Fin 4096) (s : State) : Res :=
  commit (.block .sload rd ra) { tag := tag.val } a s

def execSstore (a : At) (rd ra : Reg) (tag : Fin 4096) (s : State) : Res :=
  commit (.block .sstore rd ra) { tag := tag.val } a s

def execGpool (a : At) (rd ra : Reg) (tag : Fin 4096) (s : State) : Res :=
  commit (.block .gpool rd ra) { tag := tag.val } a s

/-- The operand block that an instruction of the slot would read. -/
def blockAt (s : State) (a : At) (ra : Reg) : Block :=
  readBlock (getCore s a.core.val) (getG (getSlot s a.core.val a.slot) ra).toNat

/-- R175: the operand block's address traps. -/
def blockAstray (s : State) (a : At) (ra : Reg) : Bool :=
  (blockCheck (getCore s a.core.val) a.slot (getG (getSlot s a.core.val a.slot) ra).toNat).isSome

/-- XOP is one instruction; the row says which FUNC its block holds. A block with an undefined FUNC, or
one at a bad address, traps in every row. -/
def xopRow (f : Nat) (a : At) (rd ra : Reg) (tag : Fin 4096) (s : State) : Res :=
  let g := xopFunc (blockAt s a ra)
  need (g == f || 11 < g || blockAstray s a ra) .wrongRow (commit (.block .xop rd ra) { tag := tag.val } a s)

def execXopCvt (a : At) (rd ra : Reg) (tag : Fin 4096) (s : State) : Res := xopRow 0x00 a rd ra tag s
def execXopAdd (a : At) (rd ra : Reg) (tag : Fin 4096) (s : State) : Res := xopRow 0x01 a rd ra tag s
def execXopSub (a : At) (rd ra : Reg) (tag : Fin 4096) (s : State) : Res := xopRow 0x02 a rd ra tag s
def execXopMul (a : At) (rd ra : Reg) (tag : Fin 4096) (s : State) : Res := xopRow 0x03 a rd ra tag s
def execXopFma (a : At) (rd ra : Reg) (tag : Fin 4096) (s : State) : Res := xopRow 0x04 a rd ra tag s
def execXopMax (a : At) (rd ra : Reg) (tag : Fin 4096) (s : State) : Res := xopRow 0x05 a rd ra tag s
def execXopMin (a : At) (rd ra : Reg) (tag : Fin 4096) (s : State) : Res := xopRow 0x06 a rd ra tag s
def execXopScale (a : At) (rd ra : Reg) (tag : Fin 4096) (s : State) : Res := xopRow 0x07 a rd ra tag s
def execXopRelu (a : At) (rd ra : Reg) (tag : Fin 4096) (s : State) : Res := xopRow 0x08 a rd ra tag s
def execXopAcc (a : At) (rd ra : Reg) (tag : Fin 4096) (s : State) : Res := xopRow 0x09 a rd ra tag s
def execXopAccs (a : At) (rd ra : Reg) (tag : Fin 4096) (s : State) : Res := xopRow 0x0A a rd ra tag s
def execXopHamm (a : At) (rd ra : Reg) (tag : Fin 4096) (s : State) : Res := xopRow 0x0B a rd ra tag s

def execCmpr (a : At) (rd ra : Reg) (tag : Fin 4096) (s : State) : Res :=
  commit (.block .cmpr rd ra) { tag := tag.val } a s

def execScadd (a : At) (rd ra : Reg) (tag : Fin 4096) (s : State) : Res :=
  commit (.block .scadd rd ra) { tag := tag.val } a s

def execMlayer (a : At) (rd ra : Reg) (tag : Fin 4096) (s : State) : Res :=
  commit (.block .mlayer rd ra) { tag := tag.val } a s

def execLend (a : At) (s : State) : Res := commit .lend {} a s

def execSolve (a : At) (rd ra : Reg) (tag : Fin 4096) (s : State) : Res :=
  commit (.block .solve rd ra) { tag := tag.val } a s

def execPfetch (a : At) (ra rb : Reg) (s : State) : Res := commit (.pfetch ra rb) {} a s

/-- CMAINT is one instruction; the row says which OPN its block holds. A block at a bad address traps in every row. -/
def cmaintRow (o : Nat) (a : At) (rd ra : Reg) (tag : Fin 4096) (s : State) : Res :=
  need (bitsOf (blockAt s a ra).w3 0 2 == o || blockAstray s a ra) .wrongRow (commit (.block .cmaint rd ra) { tag := tag.val } a s)

def execCmaintClean (a : At) (rd ra : Reg) (tag : Fin 4096) (s : State) : Res := cmaintRow 0 a rd ra tag s

def execCmaintInvalidate (a : At) (rd ra : Reg) (tag : Fin 4096) (s : State) : Res :=
  cmaintRow 1 a rd ra tag s

def execCmaintCleanInvalidate (a : At) (rd ra : Reg) (tag : Fin 4096) (s : State) : Res :=
  cmaintRow 2 a rd ra tag s

def execCmaintFill (a : At) (rd ra : Reg) (tag : Fin 4096) (s : State) : Res := cmaintRow 3 a rd ra tag s

def execRread (a : At) (rd ra : Reg) (tag : Fin 4096) (s : State) : Res :=
  commit (.block .rread rd ra) { tag := tag.val } a s

def execWwrite (a : At) (rd ra : Reg) (tag : Fin 4096) (s : State) : Res :=
  commit (.block .wwrite rd ra) { tag := tag.val } a s

def execPsend (a : At) (rd ra rb : Reg) (x : BitVec 6) (tag : Fin 4096) (s : State) : Res :=
  commit (.psend rd ra rb x) { tag := tag.val } a s

def execPrecv (a : At) (rd ra : Reg) (tag : Fin 4096) (s : State) : Res :=
  commit (.precv rd ra) { tag := tag.val } a s

def execBarr (a : At) (rd ra : Reg) (tag : Fin 4096) (s : State) : Res :=
  commit (.block .barr rd ra) { tag := tag.val } a s

def execTwait (a : At) (ra : Reg) (s : State) : Res := commit (.twait ra) {} a s

/-- R222, R545: the main-die copy has reached the operand of a waiting TWAIT. -/
def twaitDue (s : State) (n : Nat) (i : SlotId) : Bool :=
  match (getSlot s n i).held with
  | some ⟨_, .twait ra, _⟩ => slotRuns s n i && ((getSlot s n i).timeUp || reached s (getG (getSlot s n i) ra).toNat)
  | _ => false

def twaitCommit (s : State) (n : Nat) (i : SlotId) : State :=
  stepDone (modSlot s n i fun x => { x with held := none, pc := nextPc x.pc }) n i

def execTwaitReached (a : At) (s : State) : Res :=
  whenDue (twaitDue s a.core.val a.slot) s (.next (twaitCommit s a.core.val a.slot))

def execWait (a : At) (rd ra : Reg) (s : State) : Res := commit (.wait rd ra) {} a s
def execStat (a : At) (rd ra : Reg) (s : State) : Res := commit (.stat rd ra) {} a s
def execWaitall (a : At) (s : State) : Res := commit .waitall {} a s

end Sys2Proof.Machine
end

