-- ==== Sys2Proof/Machine/Translate.lean ====
section
/-! DEFINITION. The Points processor: lookaside and translation-cache misses, control commands, epochs, fault
batches, and the ATS and PRI exchanges with the host (spec/11). -/

namespace Sys2Proof.Machine

/-! ### Misses (R415 to R417) -/

/-- R416: the miss served next: the oldest express one, else the oldest. -/
def nextMiss (s : State) : Option PxMiss :=
  (s.px.find? (·.express)).orElse fun _ => s.px.head?

/-- The command waits on a lookaside miss: the first line its next request needs is in no lookaside entry. -/
def commandMiss (s : State) (t : Nat) : Option (Cmd × Nat) :=
  match tagCmd s t with
  | none => none
  | some c =>
    if !(c.ready && enginesRun s c.core && (getSlot s c.core c.slot).fq.contains t) then none
    else
      match c.op, c.stream with
      | .block .cmaint, _ =>
        if 128 * c.unit < c.blk.w2 && !(s.px.any fun m => m.who == .stream t)
            && lineXl s c.core c.slot c.ctx (maintVa c) false == .look then some (c, maintVa c) else none
      | .block .scadd, _ => none
      | _, some st =>
        if st.halted.isSome || st.xlate then none
        else
          match nextLine st with
          | some l =>
            match blocker s c (needLines c st l) with
            | some (va, .look) => some (c, va)
            | _ => none
          | none => none
      | _, none => none

/-- R117, R118: a fetch that misses holds its core. -/
def fetchMisses (s : State) (n : Nat) (i : SlotId) : State :=
  let x := getSlot s n i
  let s := modCore s n fun c => { c with fetchMiss := some (i, x.pc.toNat) }
  { s with px := s.px ++ [⟨.fetch n i, x.ctx, x.pc.toNat, isExpress i, false⟩] }

def execLookasideMiss (who : MissBy) (s : State) : Res :=
  match who with
  | .fetch a =>
    whenDue (canCommit s a.core.val a.slot && (fetchSeg s a.core.val a.slot).isNone) s
      (.next (fetchMisses s a.core.val a.slot))
  | .command t =>
    match commandMiss s t.val with
    | some (c, va) => .next (askPoints s t.val c va false)
    | none => .next s

/-- R417: the valid segment of a context that holds an address, as the Points processor finds it. -/
def pointsFind (s : State) (ctx va : Nat) : Option Seg × State :=
  let (gs, s) := segTable ctx 16 0 s
  (gs.find? fun g => segHas g va, s)

def coreInstall (s : State) (n : Nat) (i : SlotId) (ctx : Nat) (g : Seg) : State :=
  modCore s n fun c => { c with look := lookInstall c.look (coreShare c i) ctx g }

/-- The lookaside of a unit that translates whole accesses: a problem's cluster, a layer's injector. The front end uses that of
cluster 0 (DESIGN CHOICE, log 22). -/
def lookOf (s : State) : PxWho → Option Nat
  | .lane p => (s.problems.find? fun q => q.id == p).map fun q => (q.lane.map (·.1)).getD 0
  | .frontEnd _ => some 0
  | .injector ctx layer => (findLayer s ctx layer).map fun l => 4 + injectorOf l
  | _ => none

/-- A unit's miss has been served: it holds the segment, or finds none at its next access (R417). -/
def unitServed (s : State) (m : PxMiss) (g : Option Seg) : State :=
  match lookOf s m.who, g with
  | some k, some g => setLook s k (lookInstall (getLook s k) (0, 16) m.ctx g)
  | some _, none => { s with pxNone := s.pxNone ++ [m] }
  | none, _ => s

/-- The requester of a served miss goes on; R412, R417: when no segment holds the address it faults. -/
def missServed (s : State) (m : PxMiss) (g : Option Seg) : State :=
  let s := bump (bump s .xlLkmiss 0 0 0 1) .pxServed 0 0 0 1
  match m.who with
  | .fetch n i =>
    let s := modCore s n fun c => { c with fetchMiss := none }
    (match g with
     | some g => coreInstall s n i m.ctx g
     | none => takeFault s n i .segFault ((getSlot s n i).pc.setWidth 64))
  | .stream t =>
    (match tagCmd s t, g with
     | some c, some g => setXlate (coreInstall s c.core c.slot m.ctx g) t false
     | some _, none => failStream s t codeSegFault
     | none, _ => s)
  | .lane _ | .frontEnd _ | .injector .. | .transfer _ | .hint .. => unitServed s m g

def serveLookaside (s : State) (m : PxMiss) : State :=
  let s := { s with px := s.px.erase m }
  let (g, s) := pointsFind s m.ctx m.va
  missServed s m g

def execLookasideMissServed (s : State) : Res :=
  match nextMiss s with
  | some m => whenDue (!m.dtc && planeUp s) s (.next (serveLookaside s m))
  | none => .next s

/-! ### The device translation cache (R440) -/

/-- The granule of a miss is filled, and its request goes on. -/
def serveDtc (s : State) (m : PxMiss) : State :=
  let s := bump { s with px := s.px.erase m } .pxServed 0 0 0 1
  let (g, s) := pointsFind s m.ctx m.va
  let s := match g with
    | some g => if g.mig then dtcFill s m.ctx g ((m.va - g.vbase) / 2 ^ 21) else s
    | none => s
  match m.who with
  | .stream t => setXlate s t false
  | .hint n i line cnt => hintSend s n i m.ctx line cnt
  | .fetch .. | .lane _ | .frontEnd _ | .injector .. | .transfer _ => s

/-- `k`: the place of the miss among those that wait; misses are served in the order of R416. -/
def execTranslationCacheMissServed (k : Nat) (s : State) : Res :=
  match nextMiss s with
  | some m => whenDue (s.px[k]? == some m && m.dtc && planeUp s) s (.next (serveDtc s m))
  | none => .next s

/-! ### Epochs (R424 to R427) -/

/-- R265: a halted stream that holds nothing any more: the tiles before its halt are over. -/
def streamHalted (s : State) (t : Nat) (st : Stream) : Bool :=
  st.halted.isSome && st.fetchTiles.isEmpty && st.execTiles.isEmpty && !(s.reqs.any fun r => r.tag == t)
    && !(s.remotes.any fun r => r.tag == t)

/-- R425: the command of a tag is a halted stream, or takes part in a halted layer. -/
def haltedTag (s : State) (t : Nat) : Bool :=
  (((tagCmd s t).bind (·.stream)).map (streamHalted s t)).getD false || (haltedLayer s t).isSome

/-- Inbound contributions of a context: the fabric-inbound tags that they hold (R525). -/
def contributionTags (s : State) (inCtx : Nat → Bool) : List Nat :=
  ((s.mergeNet ++ s.rmus.flatMap fun e => e.2.held).filter fun x => inCtx x.ctx).filterMap (·.tag)

/-- The tags of the drain set, with their generations: those of commands that read or write context memory and are not observed, and
those of inbound contributions. -/
def drainTags (s : State) (inCtx : Nat → Bool) : List (Nat × Nat) :=
  (s.tags.filterMap fun e =>
    let mine := match e.2.cmd with
      | some c => e.2.st == .inFlight && usesMemory c && !haltedTag s e.1
      | none => e.2.st == .retiring && e.2.mem
    if mine && inCtx e.2.ctx then some (e.1, e.2.gen.toNat) else none)
  ++ (contributionTags s inCtx).map fun t => (t, (getTag s t).gen.toNat)

/-- The applies of the drain set: unit, context and step of each window on its way to its apply. -/
def drainApplies (s : State) (inCtx : Nat → Bool) : List (Nat × Nat × Nat) :=
  s.rmus.flatMap fun e => (e.2.windows.filter fun w => w.applying && inCtx w.ctx).map fun w => (e.1, w.ctx, w.step)

/-- R424: inbound requests of a context, of the windows of a mask when one is given. -/
def drainInbound (s : State) (inCtx : Nat → Bool) (windows : Option Nat) : List Nat :=
  (s.inbound.filter fun r => inCtx r.pkt.ctx && r.pkt.op ≤ 5 &&
    (match windows with
     | some m => (r.pkt.op == 1 || r.pkt.op == 2) && m.testBit r.pkt.args.window
     | none => true)).map (·.id)

/-- XL_EPOCH counts an epoch that starts. -/
def countEpoch (s : State) : State := { s with epoch := s.epoch + 1 }

/-- A control command is in progress from its epoch on (R464). -/
def markRunning (s : State) (cmd : Nat) : State :=
  { s with host := { s.host with cmds := s.host.cmds.map fun d => if d.id == cmd then { d with st := .running } else d } }

/-- Start an epoch that completes command `cmd` when it has drained. -/
def startEpoch (s : State) (cmd : Nat) (ctx : Option Nat) (windows : Option Nat) : State :=
  let inCtx (c : Nat) : Bool := match ctx with
    | some x => c == x
    | none => true
  let s := markRunning (countEpoch s) cmd
  let e : Epoch := if windows.isSome then ⟨cmd, ctx, [], drainInbound s inCtx windows, []⟩
    else ⟨cmd, ctx, drainTags s inCtx, drainInbound s inCtx none, drainApplies s inCtx⟩
  { s with epochs := s.epochs ++ [e] }

/-- R424, R425: every member of the drain set has retired and been observed, or has halted. -/
def epochOver (s : State) (e : Epoch) : Bool :=
  (e.tags.all fun t =>
    let x := getTag s t.1
    x.gen.toNat != t.2 || x.st == .free || haltedTag s t.1)
  && (e.inbound.all fun i => !(s.inbound.any fun r => r.id == i))
  && e.applies.all fun a => ((findWindow (getRmu s a.1) a.2.1 a.2.2).map fun w => !w.applying).getD true

/-- End the control command at the head of the Points processor's queue. -/
def endControl (s : State) (cmd code detail : Nat) : State :=
  completeId { s with ctrl := s.ctrl.filter fun c => c.cmd != cmd } cmd code detail 0

def execEpochDrained (s : State) : Res :=
  match s.epochs with
  | [] => .next s
  | e :: es => whenDue (epochOver s e) s (.next (endControl { s with epochs := es } e.cmd 0 0))

/-! ### Control commands (R420, R421) -/

/-- R464: the earlier commands of its queue let a command start: all have completed when it is marked ORDER. -/
def orderOk (s : State) (d : DCmd) : Bool :=
  !d.order || s.host.cmds.all fun e => !(e.ctx == d.ctx && e.q == d.q && e.id < d.id)

/-- R464: a command's turn in its queue: ORDER is met and the earlier commands have started. -/
def queueTurn (s : State) (d : DCmd) : Bool :=
  orderOk s d && s.host.cmds.all fun e => !(e.ctx == d.ctx && e.q == d.q && e.id < d.id && e.st != .running)

/-- The control command that the Points processor executes next, when it is one of code `code`. -/
def nextControl (s : State) (code : Nat) : Option CtrlCmd :=
  match s.ctrl with
  | c :: _ =>
    if c.code == code && s.epochs.isEmpty && planeUp s && ((findCmd s c.cmd).map (queueTurn s)).getD false then some c
    else none
  | [] => none

/-- Bytes `a .. b - 1` of a command are zero. -/
def zeroBytes (bs : List Byte) (a b : Nat) : Bool := ((bs.drop a).take (b - a)).all (· == 0#8)

/-- Run a control command: it fails with the first of R421's failures, or takes effect. -/
def control (s : State) (c : CtrlCmd) (bodyOk : Bool) (ctx : Option Nat) (run : State → State) : State :=
  if !c.pf then endControl s c.cmd 0x40 0
  else if !bodyOk then endControl s c.cmd 0x43 0
  else if !((ctx.map (ctxValid s)).getD true) then endControl s c.cmd 0x41 0
  else run s

/-! ### SEG_SYNC (R422) -/

/-- A mirror entry as it was read: its words, or a failed read. -/
abbrev MirrorEntry := Option (Nat × Nat × Nat × Nat)

/-- The fields that Table 11.1 marks zero. -/
def segZeroOk (w : Nat × Nat × Nat × Nat) : Bool :=
  bitsOf w.1 8 8 == 0 && bitsOf w.1 48 16 == 0 && bitsOf w.2.1 32 32 == 0 && bitsOf w.2.2.1 0 16 == 0
    && bitsOf w.2.2.2 0 4 == 0 && bitsOf w.2.2.2 40 24 == 0

/-- Reason 1: a field or zero rule of a valid entry. -/
def segFieldsOk (w : Nat × Nat × Nat × Nat) (g : Seg) : Bool :=
  segZeroOk w && g.len != 0 && (g.host || bitsOf w.2.2.1 40 24 == 0) && (g.mig || bitsOf w.2.2.2 4 36 == 0)

def overlaps (a la b lb : Nat) : Bool := a < b + lb && b < a + la

/-- The lowest-numbered reason of Table 11.4 for which a valid entry is refused; 0 for none. -/
def segReason (s : State) (w : Nat × Nat × Nat × Nat) (g : Seg) (others : List Seg) : Nat :=
  if !segFieldsOk w g then 1
  else if 2 ^ 48 < g.vbase + g.len then 2
  else if !g.host && installed s.variant < g.tbase + g.len then 3
  else if g.mig && (g.host || g.vbase % 2 ^ 21 != 0 || g.len % 2 ^ 21 != 0 || g.tbase % 2 ^ 21 != 0) then 4
  else if g.x && (g.host || g.mig) then 5
  else if g.host && g.wp != 3 then 6
  else if others.any fun o => o.idx != g.idx && overlaps g.vbase g.len o.vbase o.len then 7
  else 0

/-- The reason for one selected entry: a failed read is reason 8. -/
def mirrorReason (s : State) (i : Nat) (e : MirrorEntry) (others : List Seg) : Nat :=
  match e with
  | none => 8
  | some w =>
    if w.1.testBit 0 then segReason s w (segOfWords i w.1 w.2.1 w.2.2.1 w.2.2.2) others
    else if segZeroOk w then 0 else 1

/-- The segments selected by a mask, ascending. -/
def maskSegs (m : Nat) : List Nat := (List.range 16).filter fun i => m.testBit i

/-- Pair the selected segments with what the host returned for their entries. -/
def mirrorEntries : List Nat → List HostReply → List (Nat × MirrorEntry)
  | [], _ => []
  | i :: is, .data bs false :: hs => (i, some (words4 (padTo 32 bs))) :: mirrorEntries is hs
  | i :: is, _ :: hs => (i, none) :: mirrorEntries is hs
  | i :: is, [] => (i, none) :: mirrorEntries is []

/-- The mirror address of an entry. -/
def mirrorAddr (s : State) (ctx i : Nat) : Nat := regFld s .xlMirror 0 0 0 15 49 * 2 ^ 15 + 512 * ctx + 32 * i

/-- The segments of the context as they will stand. -/
def segsAfter (old : List Seg) (es : List (Nat × MirrorEntry)) : List Seg :=
  (old.filter fun g => !(es.any fun e => e.1 == g.idx)) ++
    es.filterMap fun e =>
      match e.2 with
      | some w => if w.1.testBit 0 then some (segOfWords e.1 w.1 w.2.1 w.2.2.1 w.2.2.2) else none
      | none => none

/-- The bytes of an entry's words. -/
def segBytes (w : Nat × Nat × Nat × Nat) : List Byte :=
  leBytes 8 w.1 ++ leBytes 8 w.2.1 ++ leBytes 8 w.2.2.1 ++ leBytes 8 w.2.2.2

def writeSegs (ctx : Nat) : List (Nat × MirrorEntry) → State → State
  | [], s => s
  | (i, some w) :: es, s => writeSegs ctx es (privWrite s (segAddr s ctx i) (segBytes w))
  | (_, none) :: es, s => writeSegs ctx es s

/-- A HOST_ABORT record for every mirror entry whose read failed. -/
def mirrorRecords (ctx : Nat) : List (Nat × MirrorEntry) → State → State
  | [], s => s
  | (i, none) :: es, s => mirrorRecords ctx es (post s .hostAbort 7 0 none 0 (mirrorAddr s ctx i))
  | _ :: es, s => mirrorRecords ctx es s

/-- R423: drop the copies of selected segments of a context. -/
def dropSegs (s : State) (ctx : Nat) (sel : Nat → Bool) : State :=
  dtcDrop (dropLooks s fun c g => c == ctx && sel g.idx) fun e => e.ctx == ctx && sel e.seg

/-- The reads of the mirror go out, as the physical function's (R422). -/
def mirrorReads (s : State) (ctx : Nat) : List Nat → State
  | [] => s
  | i :: is => mirrorReads (emit s 0 (.read 0 (mirrorAddr s ctx i) 32 plainAttr)) ctx is

/-- SEG_SYNC with the entries read; a command that fails changes nothing. -/
def segSync (s : State) (c : CtrlCmd) (es : List (Nat × MirrorEntry)) (mask : Nat) : State :=
  let ctx := fieldAt c.body 8 1
  let s := mirrorReads s ctx (es.map (·.1))
  let (old, s) := segTable ctx 16 0 s
  let after := segsAfter old es
  let s := mirrorRecords ctx es s
  match es.find? fun e => mirrorReason s e.1 e.2 after != 0 with
  | some e => endControl s c.cmd 0x42 (e.1 + 256 * mirrorReason s e.1 e.2 after)
  | none => startEpoch (dropSegs (writeSegs ctx es s) ctx fun i => mask.testBit i) c.cmd (some ctx) none

/-- R421: the fields and zero rules of a SEG_SYNC body. -/
def segSyncOk (b : List Byte) : Bool := fieldAt b 8 1 < 64 && zeroBytes b 9 10 && zeroBytes b 12 64

/-- `mirror`: what the host returns for the selected mirror entries, in ascending order. -/
def execSegSync (mirror : List HostReply) (s : State) : Res :=
  match nextControl s 0x40 with
  | none => .next s
  | some c =>
    let b := c.body
    let mask := fieldAt b 10 2
    .next (control s c (segSyncOk b) (some (fieldAt b 8 1)) fun s => segSync s c (mirrorEntries (maskSegs mask) mirror) mask)

/-! ### INVALIDATE (R423) -/

/-- The device translation cache entries of host translations in an address range of a function and PASID. -/
def dropHost (s : State) (fn : Nat) (pasid : Option Nat) (a n : Nat) : State :=
  { s with dtcH := s.dtcH.filter fun h => !(h.fn == fn && h.pasid == pasid && overlaps h.va h.size a n) }

/-- The granules of a context that lie in an address range. -/
def granIn (segs : List Seg) (a n g k : Nat) : Bool :=
  segs.any fun x => x.idx == g && overlaps (x.vbase + 2 ^ 21 * k) (2 ^ 21) a n

/-- Table 11.5. -/
def invalidateScope (s : State) (ctx scope mask start len : Nat) : State :=
  if scope = 0 then
    let s := dtcDrop (dropLooks s fun c _ => c == ctx) fun e => e.ctx == ctx
    dropHost s (fnOf s ctx) (pasidOf s ctx) 0 (2 ^ 64)
  else if scope = 1 then
    let (segs, s) := segTable ctx 16 0 s
    dtcDrop (dropLooks s fun c g => c == ctx && overlaps g.vbase g.len start len)
      fun e => e.ctx == ctx && granIn segs start len e.seg e.k
  else if scope = 2 then dropSegs s ctx fun i => mask.testBit i
  else if scope = 3 then dropHost s (fnOf s ctx) (pasidOf s ctx) start len
  else s

def execInvalidate (s : State) : Res :=
  match nextControl s 0x41 with
  | none => .next s
  | some c =>
    let b := c.body
    let ctx := fieldAt b 8 1
    let scope := fieldAt b 9 1
    let mask := fieldAt b 10 2
    let len := fieldAt b 24 8
    let ok := ctx < 64 && scope ≤ 4 && zeroBytes b 12 16 && zeroBytes b 32 64
      && !((scope == 1 || scope == 3) && len == 0)
    .next (control s c ok (some ctx) fun s =>
      startEpoch (invalidateScope s ctx scope mask (fieldAt b 16 8) len) c.cmd (some ctx)
        (if scope = 4 then some mask else none))

/-! ### GRANULE_SET (R430) -/

/-- Write one granule's entry; the answer says whether it left DEVICE or HOST or its HOSTADDR changed. -/
def setGranule (s : State) (ctx : Nat) (g : Seg) (k st : Nat) (reset : Bool) (host : Nat) : Bool × State :=
  let (old, s) := granRead s g.gtbase k
  let cur := (dtcFind s ctx g.idx k).getD old
  let new : Gran := { state := st, hotp := cur.hotp && !reset, count := if reset then 0 else cur.count,
                      host := if st = 2 then host else 0 }
  let s := granWrite s g.gtbase k new
  (old.state != 0 && (old.state != st || (st == 2 && old.host != host)),
   { s with dtcG := s.dtcG.filter fun e => !granIs ctx g.idx k e })

def setGranules (ctx : Nat) (g : Seg) (st : Nat) (reset : Bool) : Nat → Nat → Nat → Bool → State → Bool × State
  | 0, _, _, left, s => (left, s)
  | n + 1, k, host, left, s =>
    let (l, s) := setGranule s ctx g k st reset host
    setGranules ctx g st reset n (k + 1) (host + 2 ^ 21) (left || l) s

/-- Step 4: release the pending faults of granules that are there now. -/
def releasePending (s : State) (ctx seg first n : Nat) : State :=
  setPending s (s.pend.filter fun p => !(p.ctx == ctx && p.seg == seg && first ≤ p.k && p.k < first + n))

def granuleSet (s : State) (c : CtrlCmd) : State :=
  let b := c.body
  let ctx := fieldAt b 8 1
  let seg := fieldAt b 9 1
  let st := fieldAt b 10 1 % 4
  let first := fieldAt b 12 4
  let n := fieldAt b 16 4
  let (g, s) := segRead s ctx seg
  match g with
  | some g =>
    if !g.mig || g.len / 2 ^ 21 < first + n then endControl s c.cmd 0x44 0
    else
      let (left, s) := setGranules ctx g st ((fieldAt b 10 1).testBit 2) n first (fieldAt b 24 8) false s
      let s := startEpoch s c.cmd (some ctx) none
      let s := if st = 0 then s else releasePending s ctx seg first n
      if left then s else endControl { s with epochs := s.epochs.filter fun e => e.cmd != c.cmd } c.cmd 0 0
  | none => endControl s c.cmd 0x44 0

def execGranuleSet (s : State) : Res :=
  match nextControl s 0x42 with
  | none => .next s
  | some c =>
    let b := c.body
    let ok := fieldAt b 8 1 < 64 && fieldAt b 9 1 < 16 && fieldAt b 10 1 < 8 && fieldAt b 10 1 % 4 != 3
      && zeroBytes b 11 12 && fieldAt b 16 4 != 0 && zeroBytes b 20 24 && fieldAt b 24 8 % 2 ^ 21 == 0
      && zeroBytes b 32 64
    .next (control s c ok (some (fieldAt b 8 1)) fun s => granuleSet s c)

/-! ### OWN_SET (R448) -/

def setOwn (v : Nat) : Nat → Nat → State → State
  | 0, _, s => s
  | n + 1, g, s => setOwn v n (g + 1) { s with own := spSet 0#8 g (BitVec.ofNat 8 v) s.own }

def ownSet (s : State) (c : CtrlCmd) : State :=
  let b := c.body
  let start := fieldAt b 8 8
  let n := fieldAt b 16 4
  if installed s.variant < start + n * 2 ^ 21 then endControl s c.cmd 0x44 0
  else if (List.range (min n (channels s.variant / 4))).any fun j => granuleLost s (start / 2 ^ 21 + j) then
    endControl s c.cmd 0x45 0
  else
    startEpoch (setOwn (fieldAt b 21 1 + 64 * fieldAt b 20 1) n (start / 2 ^ 21) s) c.cmd none none

def execOwnSet (s : State) : Res :=
  match nextControl s 0x43 with
  | none => .next s
  | some c =>
    let b := c.body
    let ok := fieldAt b 8 8 % 2 ^ 21 == 0 && fieldAt b 16 4 != 0 && fieldAt b 20 1 ≤ 1 && fieldAt b 21 1 < 64
      && zeroBytes b 22 64
    .next (control s c ok none fun s => ownSet s c)

/-! ### Fault batches (R434) -/

def execFaultBatchClose (s : State) : Res :=
  whenDue (!s.batchOpen.isEmpty) s (.next (closeBatch s))

/-! ### ATS and PRI (R441 to R445) -/

/-- The stream of tag `t` no longer waits for an ATS completion. -/
def atsReady (s : State) (t : Nat) (c : Cmd) (st : Stream) : Bool :=
  st.xlate && !(s.px.any fun m => m.who == .stream t) &&
    match (nextLine st).bind fun l => blocker s c (needLines c st l) with
    | some (_, .ats fn x a) => !s.host.atsOut.contains (fn, x, a)
    | _ => true

/-- That stream, if it is there, goes on. -/
def wakeTag (s : State) (t : Nat) (x : Tag) : Tag :=
  match x.cmd with
  | some c =>
    (match c.stream with
     | some st =>
       if atsReady s t c st then { x with cmd := some { c with stream := some { st with xlate := false } } } else x
     | none => x)
  | none => x

/-- The streams that waited for a host translation and now have it go on. -/
def wakeStreams (s : State) : State :=
  { s with tags := s.tags.map fun e => (e.1, wakeTag s e.1 e.2),
           layers := s.layers.map fun l => { l with xlate := false } }

/-- R441: a translation larger than 1 GiB is held as the 1 GiB that contains the address. -/
def atsSize (size : Nat) : Nat := min size (2 ^ 30)

/-- A translation arrives for the outstanding request `q`: function, PASID and address. -/
def atsInstall (s : State) (q : Nat × Option Nat × Nat) (size pa : Nat) (r w : Bool) : State :=
  let n := atsSize size
  let a := q.2.2
  let s := { s with host := { s.host with atsOut := s.host.atsOut.erase q } }
  wakeStreams (hostFill s q.1 q.2.1 (a / n * n) n (pa + a % size / n * n) r w)

/-- `fn`, `pasid`, `iova`: the outstanding request answered; `sizeLog2`: the size of the translation, a power of two of at
least 4 KiB; `pa`: the translated address of its first byte. -/
def execAtsTranslationCompletion (fn : Fin 64) (pasid : Option (BitVec 20)) (iova : BitVec 64) (sizeLog2 : Fin 64)
    (pa : BitVec 64) (r w : Bool) (s : State) : Res :=
  let q := (fn.val, pasid.map (·.toNat), iova.toNat)
  whenDue (s.host.atsOut.contains q && 12 ≤ sizeLog2.val) s (.next (atsInstall s q (2 ^ sizeLog2.val) pa.toNat r w))

/-- R445: does a host translation match an invalidation? -/
def invMatches (fn : Nat) (pasid : Option Nat) (global : Bool) (a n : Nat) (h : HostTr) : Bool :=
  h.fn == fn && (global || h.pasid == pasid) && overlaps h.va h.size a n

/-- The line requests in flight that matching entries translated. -/
def invRequests (s : State) (fn : Nat) (gone : List HostTr) : List Nat :=
  (s.reqs.filter fun r =>
    match r.target with
    | .host f a _ => f == fn && gone.any fun h => overlaps h.pa h.size a 128
    | .dev _ => false).map (·.id)

def atsInvalidate (s : State) (fn : Nat) (pasid : Option Nat) (global : Bool) (a n itag : Nat) : State :=
  let gone := s.dtcH.filter (invMatches fn pasid global a n)
  let s := { s with dtcH := s.dtcH.filter fun h => !invMatches fn pasid global a n h }
  let e : Nat × Nat × List Nat := (fn, itag, invRequests s fn gone)
  atsSweep { s with host := { s.host with atsInv := s.host.atsInv ++ [e] } }

def execAtsInvalidateRequest (fn : Fin 64) (pasid : Option (BitVec 20)) (global : Bool) (va : BitVec 64)
    (len : Nat) (itag : Fin 32) (s : State) : Res :=
  .next (atsInvalidate s fn.val (pasid.map (·.toNat)) global va.toNat len itag.val)

end Sys2Proof.Machine
end

