-- ==== Sys2Proof/Machine/Host.lean ====
section
/-! DEFINITION. The host side: doorbells, the taking, checking and starting of commands, LOAD, COPY and NOP, HW4,
interrupts, power states of functions and completion timeouts (spec/12, R414, R121). -/

namespace Sys2Proof.Machine

/-! ### Doorbells (R469 to R471) -/

/-- R460: a queue pair is enabled. -/
def qEnabled (s : State) (ctx q : Nat) : Bool := regBit s .dspQctl 0 ctx q 0

/-- CLASS of a queue. -/
def qExpress (s : State) (ctx q : Nat) : Bool := regBit s .dspQctl 0 ctx q 1

/-- R470: put a queue in ERROR; the first error stands. -/
def queueError (s : State) (ctx q code : Nat) : State :=
  let x := getQueue s ctx q
  if x.err = 0 then setQueue s ctx q { x with err := code } else s

/-- R469, R470, R472: a command-queue tail. -/
def tailWritten (s : State) (ctx q v : Nat) : State :=
  if !qEnabled s ctx q then s
  else if qSize s ctx q ≤ v then queueError s ctx q 1
  else
    let x := getQueue s ctx q
    let s := setQueue s ctx q { x with sqTail := v, bells := x.bells ++ [(v, nowOp s)] }
    let k := qKey ctx q
    if qExpress s ctx q && v != x.sqHead && !s.host.service.contains k then
      { s with host := { s.host with service := s.host.service ++ [k] } }
    else s

/-- R470, R471: a completion-queue head. -/
def headWritten (s : State) (ctx q v : Nat) : State :=
  if !qEnabled s ctx q then s
  else
    let x := getQueue s ctx q
    let n := qSize s ctx q
    if n ≤ v || qWritten s ctx q < (v + n - x.cqHead) % n then queueError s ctx q 2
    else setQueue s ctx q { x with cqHead := v }

/-! ### Checking commands (R461, R466) -/

/-- The first nonzero byte of `a .. b - 1`. -/
def firstNonzero (bs : List Byte) (a b : Nat) : Option Nat :=
  (List.range (b - a)).findSome? fun i => if bs.getD (a + i) 0#8 == 0#8 then none else some (a + i)

/-- R410, Table 12.4: one segment with X = 1 holds the destination of a LOAD. -/
def codeSegOk (s : State) (ctx va n : Nat) : Bool :=
  match (pointsFind s ctx va).1 with
  | some g => g.x && va + n ≤ g.vbase + g.len
  | none => false

/-- Offset of the first offending field of a command; none when it is well formed. -/
def badOffset (s : State) (ctx : Nat) (express : Bool) (bs : List Byte) : Option Nat :=
  let op := fieldAt bs 0 1
  let a := fieldAt bs 8 8
  let b := fieldAt bs 16 8
  let len := fieldAt bs 24 4
  let t := fieldAt bs 24 2
  let head := if 4 ≤ fieldAt bs 1 1 then some 1 else firstNonzero bs 2 4
  let body : Option Nat :=
    if op = 1 then
      if a % 4 != 0 || 2 ^ 48 ≤ a then some 8
      else if b != 0 && (!express || !timeOk b) then some 16
      else if bitsOf t 8 7 != 0 || (t.testBit 15 && t % 256 != 0) then some 24 else none
    else if op = 2 then
      if 2 ^ 48 ≤ b then some 16
      else if len % 64 != 0 || 2 ^ 26 < len then some 24
      else if !codeSegOk s ctx b len then some 16
      else firstNonzero bs 28 64
    else if op = 3 then
      let dir := fieldAt bs 28 1
      if dir != 0 && 2 ^ 48 ≤ a then some 8
      else if dir != 1 && 2 ^ 48 ≤ b then some 16
      else if len % 16 != 0 || len < 16 then some 24
      else if 2 < dir then some 28
      else firstNonzero bs 29 64
    else if op = 4 then firstNonzero bs 8 64
    else none
  if !(op = 1 || op = 2 || op = 3 || op = 4 || (0x40 ≤ op && op ≤ 0x43)) then some 0
  else head.orElse fun _ => body

/-! ### Taking commands (R464, R468, R471, R472) -/

/-- Untaken commands that lie contiguously from the take index. -/
def untaken (s : State) (ctx q : Nat) : Nat :=
  let x := getQueue s ctx q
  if x.sqHead ≤ x.sqTail then x.sqTail - x.sqHead else qSize s ctx q - x.sqHead

/-- R468: room in the Dispatcher's buffer of a class. -/
def bufferRoom (s : State) (express : Bool) : Nat :=
  (if express then 64 else 1024) - s.host.cmds.countP fun d => d.express == express

/-- Commands that the Dispatcher can take from a queue now. -/
def takable (s : State) (ctx q : Nat) : Nat :=
  if qEnabled s ctx q && (getQueue s ctx q).err == 0 && ctxValid s ctx && !spGet false (fnOf s ctx) s.host.d3
      && !spGet false (fnOf s ctx) s.host.resetting && planeUp s then
    min (min 8 (untaken s ctx q)) (min (qCredits s ctx q) (bufferRoom s (qExpress s ctx q)))
  else 0

/-- The address of the command at the take index. -/
def takeAddr (s : State) (ctx q : Nat) : Nat :=
  regFld s .dspQsqbase 0 ctx q 12 52 * 4096 + 64 * (getQueue s ctx q).sqHead

/-- A queue has commands to read, and no read of it is in flight (DESIGN CHOICE, log 24: one at a time). -/
def readable (s : State) (k : Nat) : Bool :=
  takable s (k / 8) (k % 8) != 0 && !(s.host.cmdReads.any fun r => r.key == k)

/-- R472: the queue read next: express queues in order of doorbell arrival, before bulk queues, those in ascending order of
context and queue (DESIGN CHOICE, log 24). -/
def nextRead (s : State) : Option Nat :=
  (s.host.service.find? (readable s)).orElse fun _ =>
    (s.host.queues.map (·.1)).find? fun k => !qExpress s (k / 8) (k % 8) && readable s k

/-- A read of up to 8 commands goes to the host, untranslated and without a PASID. -/
def sendRead (s : State) (k : Nat) : State :=
  let ctx := k / 8
  let q := k % 8
  let n := takable s ctx q
  let r : CmdRead := ⟨k, (getQueue s ctx q).sqHead, n⟩
  emit { s with host := { s.host with cmdReads := s.host.cmdReads ++ [r] } } (fnOf s ctx)
    (.read (fnOf s ctx) (takeAddr s ctx q) (64 * n) plainAttr)

def serveSome : Nat → State → State
  | 0, s => s
  | fuel + 1, s =>
    match nextRead s with
    | some k => if s.host.cmdReads.length < 16 then serveSome fuel (sendRead s k) else s
    | none => s

/-- R472: the Dispatcher sends the reads that it can, at most 16 in flight. -/
def serveReads (s : State) : State := serveSome 16 s

/-- The doorbell time of the command at index `i`, and the doorbells that still cover later ones. -/
def bellOf (i : Nat) : List (Nat × Nat) → Nat × List (Nat × Nat)
  | [] => (0, [])
  | [b] => (b.2, [b])
  | b :: c :: bs => if b.1 = i then bellOf i (c :: bs) else (b.2, b :: c :: bs)

/-- Take one command: count it, and place it in the buffer. -/
def takeOne (s : State) (ctx q : Nat) (bs : List Byte) : State :=
  let x := getQueue s ctx q
  let (bell, bells) := bellOf x.sqHead x.bells
  let d : DCmd :=
    { id := s.host.nextCmd, ctx := ctx, q := q, express := qExpress s ctx q, order := (fieldAt bs 1 1).testBit 1,
      irq := (fieldAt bs 1 1).testBit 0, bell := bell, cmdid := fieldAt bs 4 4, op := fieldAt bs 0 1, bytes := bs,
      st := .waiting, tag := none, moved := 0, wait := none, timeUp := false }
  let s := setQueue s ctx q { x with sqHead := (x.sqHead + 1) % qSize s ctx q, taken := (x.taken + 1) % 2 ^ 32,
                                     out := x.out + 1, bells := bells }
  let s := { s with host := { s.host with cmds := s.host.cmds ++ [d], nextCmd := s.host.nextCmd + 1 } }
  if 0x40 ≤ d.op && d.op ≤ 0x43 && (badOffset s ctx d.express bs).isNone then
    { s with ctrl := s.ctrl ++ [⟨d.id, d.op, bs, fnOf s ctx == 0⟩] }
  else s

def takeAll (ctx q : Nat) : List (List Byte) → State → State
  | [], s => s
  | b :: bs, s => takeAll ctx q bs (takeOne s ctx q b)

/-- R468, R473: the taken record. -/
def takenRecord (s : State) (ctx q : Nat) : State :=
  let a := regFld s .dspQtaken 0 ctx q 4 60 * 16
  if a = 0 then s
  else
    let fn := fnOf s ctx
    let p : Post := .write fn a (leBytes 4 (getQueue s ctx q).taken ++ leBytes 4 0 ++ leBytes 8 (nowOp s)) false plainAttr
    emitAt (if qExpress s ctx q then 0 else 2) s fn p

/-- R466: commands that fail their check complete at once. -/
def completeBad (first : Nat) (s : State) : State :=
  (s.host.cmds.filter fun d => first ≤ d.id).foldl (fun s d =>
    match badOffset s d.ctx d.express d.bytes with
    | some o => completeCmd s d 0x32 (o % 64) 0
    | none => s) s

/-- A queue with no untaken command leaves the service list. -/
def serviceDone (s : State) (ctx q : Nat) : State :=
  let x := getQueue s ctx q
  if x.sqHead = x.sqTail then
    { s with host := { s.host with service := s.host.service.filter (· != qKey ctx q) } }
  else s

/-- The host returns the commands of a read; those that find no credit or buffer entry are read again. -/
def commandsRead (s : State) (r : CmdRead) (bs : List Byte) : State :=
  let ctx := r.key / 8
  let q := r.key % 8
  let n := min (min (takable s ctx q) r.count) (bs.length / 64)
  let first := s.host.nextCmd
  if n = 0 then s
  else
    let s := takeAll ctx q ((chunks 64 (n + 1) bs).take n) s
    serviceDone (completeBad first (takenRecord s ctx q)) ctx q

/-- A command read that fails (R470, *When it fails*). -/
def readFails (s : State) (ctx q : Nat) (code : LogCode) : State :=
  serviceDone (queueError (post s code 7 (fnOf s ctx) (some ctx) q (takeAddr s ctx q)) ctx q 3) ctx q

/-- The oldest read of commands of a queue in flight. -/
def readOf (s : State) (ctx q : Nat) : Option CmdRead := s.host.cmdReads.find? fun r => r.key == qKey ctx q

/-- The read is for commands that the queue still waits for: it is enabled, in no error, and its take index has not moved. -/
def readLive (s : State) (r : CmdRead) : Bool :=
  qEnabled s (r.key / 8) (r.key % 8) && (getQueue s (r.key / 8) (r.key % 8)).err == 0
    && (getQueue s (r.key / 8) (r.key % 8)).sqHead == r.first && r.count != 0

/-- A read of commands is over. -/
def endRead (s : State) (r : CmdRead) : State :=
  { s with host := { s.host with cmdReads := s.host.cmdReads.erase r } }

/-- What the host returns for a read of commands; what comes for a queue that waits for it no longer is discarded. -/
def readReturns (s : State) (r : CmdRead) (reply : HostReply) : State :=
  let ctx := r.key / 8
  let q := r.key % 8
  match reply with
  | .data bs false => if readLive s r then commandsRead s r bs else s
  | .data _ true =>
    let s := aerReport s (fnOf s ctx) .poisonedTlp
    if readLive s r then readFails s ctx q .hostAbort else s
  | .unsupported | .aborted => if readLive s r then readFails s ctx q .hostAbort else s

/-- `reply`: what the host returns for the Dispatcher's read. -/
def execCommandReadCompletion (ctx : Fin 64) (q : Fin 8) (reply : HostReply) (s : State) : Res :=
  match readOf s ctx.val q.val with
  | some r => .next (serveReads (readReturns (endRead s r) r reply))
  | none => .next s

/-! ### Doorbells as they arrive (R469) -/

/-- `skew`: bytes from the doorbell to the first byte written; `data`: the bytes written. -/
def execCommandQueueTailDoorbell (fn : Fin 64) (ctx : Fin 64) (q : Fin 8) (skew : Fin 8) (data : List Byte)
    (s : State) : Res :=
  .next (ringBell s fn.val ctx.val skew.val data fun v => serveReads (tailWritten s ctx.val q.val v))

def execCompletionQueueHeadDoorbell (fn : Fin 64) (ctx : Fin 64) (q : Fin 8) (skew : Fin 8) (data : List Byte)
    (s : State) : Res :=
  .next (ringBell s fn.val ctx.val skew.val data fun v => serveReads (headWritten s ctx.val q.val v))

/-! ### Starting (R463, R464, R467) -/

/-- Replace a taken command. -/
def modDCmd (s : State) (id : Nat) (f : DCmd → DCmd) : State :=
  { s with host := { s.host with cmds := s.host.cmds.map fun d => if d.id == id then f d else d } }

/-- R463: the slot of a class is idle, and no command is assigned to it; express work avoids a halted core (R721). -/
def slotIdleFor (s : State) (express : Bool) (n : Nat) : Bool :=
  !slotBusy (getSlot s n (if express then .express else .bulk))
    && !(s.host.cmds.any fun e => e.st == .assigned n && e.express == express)
    && !(express && (getCore s n).halted)

/-- R463, R617: the candidate cores of a context. -/
def candidate (s : State) (ctx : Nat) (express : Bool) (n : Nat) : Bool :=
  n < 160 && regBit s .dspCtxcores 0 ctx (n / 32) (n % 32) && (hostOf s n).isSome
    && (!express || (getCore s n).expressEn)

/-- R463: the core that ANY = 1 picks. -/
def pickCore (s : State) (ctx : Nat) (express : Bool) : Option Nat :=
  let free := (List.range 160).filter fun n => candidate s ctx express n && slotIdleFor s express n
  if express then
    (free.find? fun n => !slotBusy (getCore s n).bulk).orElse fun _ => free.head?
  else free.head?

/-- R467: an express RUN whose DEADLINE has been reached. -/
def runExpired (s : State) (d : DCmd) : Bool := d.express && cmdDeadline d != 0 && (d.timeUp || reached s (cmdDeadline d))

/-- R463: assign a RUN, or complete it with NO_CORE; none while it waits. -/
def assignRun (s : State) (d : DCmd) : Option State :=
  let t := fieldAt d.bytes 24 2
  let noCore := completeCmd s d 0x33 t 0
  if t.testBit 15 then
    if (List.range 160).any (candidate s d.ctx d.express) then
      (pickCore s d.ctx d.express).map fun n => modDCmd s d.id fun d => { d with st := .assigned n }
    else some noCore
  else if candidate s d.ctx d.express (t % 256) then
    some (modDCmd s d.id fun d => { d with st := .assigned (t % 256) })
  else some noCore

def execRun (cmd : Nat) (s : State) : Res :=
  match findCmd s cmd with
  | none => .next s
  | some d =>
    whenDue (d.op == 1 && d.st == .waiting && queueTurn s d && !runExpired s d && planeUp s) s
      (match assignRun s d with
       | some s' => .next s'
       | none => .next s)

/-- R464: the place of a queue in the rotation after the queue whose bulk command started last. -/
def rotation (s : State) (d : DCmd) : Nat := (qKey d.ctx d.q + 511 - s.host.turn % 512) % 512

/-- A taken command could start now, but for the rotation. -/
def startable (s : State) (d : DCmd) : Bool :=
  match d.st with
  | .assigned n =>
    d.op == 1 && queueTurn s d && !runExpired s d && seqWorks s n && !(getCore s n).halted
      && !slotBusy (getSlot s n (if d.express then .express else .bulk)) && candidate s d.ctx d.express n
  | .waiting => (d.op == 2 || d.op == 3 || d.op == 4) && queueTurn s d
  | .running => false

/-- R464: bulk commands start in rotating order of context and queue. -/
def startTurn (s : State) (d : DCmd) : Bool :=
  d.express || s.host.cmds.all fun e => e.express || e.id == d.id || !startable s e || rotation s d ≤ rotation s e

/-- The rotation moves on with a bulk start. -/
def tookTurn (s : State) (d : DCmd) : State :=
  if d.express then s else { s with host := { s.host with turn := qKey d.ctx d.q } }

/-- R121, R122, Table 3.8: clear what a slot does not keep. -/
def clearSlot (c : Core) (i : SlotId) (sameCtx : Bool) : Core :=
  let (lo, hi) := lsRange c i
  let c := if sameCtx then c
    else { c with ls := memClear c.ls lo (hi - lo),
                  lsPoison := c.lsPoison.filter fun e => !(lo ≤ 16 * e.1 && 16 * e.1 < hi) }
  let mine (a : Nat) : Bool := ownsAcc c i a
  { c with acc := c.acc.filter fun e => !mine (e.1 / 512),
           accPoison := c.accPoison.filter fun e => !mine (e.1 / 16),
           accInt := c.accInt.filter fun e => !mine (e.1 / 16),
           tiles := c.tiles.filter fun e => !ownsTile c i e.1 }

/-- R414: the lookaside of a slot that changes context holds the context's segments. -/
def loadLooks (s : State) (n : Nat) (i : SlotId) (ctx : Nat) : State :=
  let c := getCore s n
  let h := coreShare c i
  let k := { c.look with ent := c.look.ent.filter fun e => !(h.1 ≤ e.1 && e.1 < h.2), last := spSet 0 h.1 0 c.look.last }
  let (gs, s) := segTable ctx 16 0 s
  modCore s n fun c => { c with look := (gs.take (h.2 - h.1)).foldl (fun k g => lookInstall k h ctx g) k }

/-- The slot's registers at a program's start (Table 3.8). -/
def startSlot (x : Slot) (n : Nat) (i : SlotId) (d : DCmd) : Slot :=
  let same := x.prevCtx == some d.ctx
  { x with phase := .running, ctx := d.ctx, cmd := d.id, queue := d.q, pc := BitVec.ofNat 48 (fieldAt d.bytes 8 8),
           g := spSet 0#64 1 (BitVec.ofNat 64 (mailbox i)) (spSet 0#64 2 (BitVec.ofNat 64 n)
             (spSet 0#64 3 (BitVec.ofNat 64 (d.q + 256 * d.express.toNat)) [])),
           f := [], fflags := 0, frm := 0, statsum := 0, cycle := 0, lfsr := if same then x.lfsr else 1,
           snap := snapZero, held := none, cop := [], inbox := if same then x.inbox else [], replaying := none }

/-- R121, R463: a program starts in a slot. -/
def startProgram (s : State) (n : Nat) (i : SlotId) (d : DCmd) : State :=
  let same := (getSlot s n i).prevCtx == some d.ctx
  let s := if same then s else loadLooks s n i d.ctx
  let s := modCore s n fun c => lsWrite (clearSlot c i same) (mailbox i) d.bytes false
  let s := modSlot s n i fun x => startSlot x n i d
  let c := getCore s n
  let x := coreSlot c i
  let s := setSlot s n i { x with replay := replayPoint c x x.pc }
  if isExpress i then modSlot s n .bulk fun x => { x with held := none } else s

def execRunStart (cmd : Nat) (s : State) : Res :=
  match findCmd s cmd with
  | some d =>
    (match d.st with
     | .assigned n =>
       whenDue (startable s d && startTurn s d && planeUp s) s
         (.next (startProgram (tookTurn (modDCmd s cmd fun d => { d with st := .running }) d) n
           (if d.express then .express else .bulk) d))
     | _ => .next s)
  | none => .next s

def execRunExpired (cmd : Nat) (s : State) : Res :=
  match findCmd s cmd with
  | none => .next s
  | some d =>
    whenDue (d.op == 1 && d.st != .running && runExpired s d) s (.next (completeCmd s d 0x31 0 0))

def execNop (cmd : Nat) (s : State) : Res :=
  match findCmd s cmd with
  | none => .next s
  | some d =>
    whenDue (d.op == 4 && startable s d && startTurn s d && planeUp s) s
      (.next (completeCmd (tookTurn s d) d 0 0 0))

/-! ### LOAD and COPY (R462) -/

/-- What one transfer of bytes comes to; `poison` is that of each 16 bytes. -/
inductive Io where
  | data (bytes : List Byte) (poison : List Bool)
  | halt (w : WaitOn)
  | fail (code : Nat)
  | pause
  deriving DecidableEq, Repr

/-- Host bytes still to hand out, with their poison; none when the host refused the read. -/
abbrev HostData := Option (List Byte × Bool)

def hostData : HostReply → HostData
  | .data bs p => some (bs, p)
  | _ => none

/-- One side of a piece: a device address with its write policy, or an address on the link with the granule of a HOST
entry and the context address that a count names (R436). -/
inductive Side where
  | dev (pa wp : Nat)
  | host (fn a : Nat) (gran : Option (Nat × Nat)) (va : Nat)
  deriving DecidableEq, Repr

/-- R441, R443: where a host address of a transfer leads: an address on the link, or why not now. -/
def hostPath (s : State) (d : DCmd) (a : Nat) (gran : Option (Nat × Nat)) (va : Nat) (w : Bool) : (Side ⊕ Io) × State :=
  match hostLine s d.ctx a gran w with
  | .host fn x _ => (.inl (.host fn x gran va), s)
  | .ats fn p x => (.inr .pause, askAts s fn p x)
  | .page fn p x =>
    if !priUp s fn then (.inr (.fail codeSegFault), s)
    else if !pageRoom s fn p x then (.inr .pause, s)
    else (.inr (.halt (.page fn p (x / 4096))), requestPage s fn p x)
  | _ => (.inr (.fail codeSegFault), s)

/-- R405: the Dispatcher's accesses to device memory are privileged. -/
def transferWho (wp : Nat) : MemWho := ⟨none, 5, wp⟩

/-- R431: an access that waits on an absent granule. -/
def transferHalts (s : State) (d : DCmd) (va seg k : Nat) (w : Bool) : Io × State :=
  if faultRoom s d.ctx seg k then
    (.halt (.granule d.ctx seg k), faultRecord s d.ctx seg k va w d.express true)
  else (.pause, s)

/-- Where a context address of a transfer leads; a granule entry that is not cached waits at the Points processor (R416). -/
def devPath (s : State) (d : DCmd) (va : Nat) (n : Need) : (Side ⊕ Io) × State :=
  let (g, s) := pointsFind s d.ctx va
  match g.map fun g => segTarget s g d.ctx va n with
  | some (.dev pa wp) => (.inl (.dev pa wp), s)
  | some (.host a gran) => hostPath s d a gran va (n != .read)
  | some (.dtcMiss _ _) => (.inr .pause, askMiss s ⟨.transfer d.id, d.ctx, va, d.express, true⟩)
  | some (.absent seg k) =>
    let (e, s) := transferHalts s d va seg k (n != .read)
    (.inr e, s)
  | _ => (.inr (.fail codeSegFault), s)

/-- Count a transferred piece at its HOST granule. -/
def sideCounted (s : State) (d : DCmd) (va : Nat) : Option (Nat × Nat) → State
  | some (seg, k) => countHost s d.ctx seg k va
  | none => s

/-- Read `n` bytes from a side. -/
def sideRead (s : State) (d : DCmd) (x : Side) (n : Nat) (h : HostData) : Io × HostData × State :=
  match x with
  | .dev pa wp =>
    let (r, s) := devRead s (transferWho wp) pa n
    (if r.failed then .fail codeGranuleFailed
     else .data r.bytes ((devPoison s pa n).map fun b => b || r.mismatch), h, s)
  | .host fn a gran va =>
    let s := emit (sideCounted s d va gran) fn (.read fn a n (hostAttr s d.ctx true))
    match h with
    | none => (.fail codeSegFault, none, post s .hostAbort 7 fn (some d.ctx) 0 a)
    | some (bs, p) =>
      (.data (bs.take n) (List.replicate ((n + 15) / 16) p), some (bs.drop n, p), if p then aerReport s fn .poisonedTlp else s)

/-- Write a piece to the host, each 16 bytes that differ in poison in a write of their own (R482). -/
def hostPut (rank : Nat) (s : State) (fn a : Nat) (attr : TlpAttr) : List (List Byte × Bool) → State
  | [] => s
  | (bs, bad) :: l => hostPut rank (emitAt rank s fn (.write fn a bs bad attr)) fn (a + bs.length) attr l

/-- Join neighbours of the same poison. -/
def samePoison : List (List Byte × Bool) → List (List Byte × Bool)
  | [] => []
  | (bs, bad) :: l =>
    match samePoison l with
    | (cs, b) :: r => if b == bad then (bs ++ cs, bad) :: r else (bs, bad) :: (cs, b) :: r
    | [] => [(bs, bad)]

/-- Write bytes to a side. -/
def sideWrite (s : State) (d : DCmd) (x : Side) (bs : List Byte) (bad : List Bool) : Io × State :=
  match x with
  | .dev pa wp =>
    let (r, s) := devWrite s (transferWho wp) pa bs bad
    (if r.2 then .fail codeGranuleFailed else .data [] [], s)
  | .host fn a gran va =>
    let l := samePoison ((chunks 16 (bs.length + 1) bs).zipIdx.map fun e => (e.1, bad.getD e.2 false))
    (.data [] [], hostPut (postRank d.express) (sideCounted s d va gran) fn a (hostAttr s d.ctx true) l)

/-- The host has returned as much as a side needs. -/
def hostHas (x : Side) (n : Nat) (h : HostData) : Bool :=
  match x, h with
  | .host .., some (bs, _) => decide (n ≤ bs.length)
  | _, _ => true

/-- One piece of a transfer between two sides that can both be reached. -/
def movePiece (s : State) (d : DCmd) (x y : Side) (src dst n : Nat) (h : HostData) : (Io × Nat) × HostData × State :=
  let (r, h, s) := sideRead s d x n h
  match r with
  | .data bs bad =>
    let (w, s) := sideWrite s d y bs bad
    ((w, dst), h, s)
  | e => ((e, src), h, s)

/-- One piece of a transfer: its outcome, the context address it touched last, what is left of the host's data. -/
def transferPiece (s : State) (d : DCmd) (src dst n dir : Nat) (h : HostData) : (Io × Nat) × HostData × State :=
  let src' := if dir = 0 then dst else src
  let dst' := if dir = 1 then src else dst
  match (if dir = 0 then hostPath s d src none src false else devPath s d src .read) with
  | (.inr e, s) => ((e, src'), h, s)
  | (.inl x, s) =>
    if !hostHas x n h then ((.pause, src'), h, s)
    else
      match (if dir = 1 then hostPath s d dst none dst true else devPath s d dst (if d.op = 2 then .fetch else .write)) with
      | (.inr e, s) => ((e, dst'), h, s)
      | (.inl y, s) => movePiece s d x y src' dst' n h

/-- How a transfer stands after an event. -/
inductive Moved where
  | going
  | done
  | halt (w : WaitOn)
  | fail (code va : Nat)
  deriving DecidableEq, Repr

/-- Bytes of the next piece: within one line on a device side, one page on a host side. -/
def pieceSize (dir sa da left : Nat) : Nat :=
  min left (min (if dir = 0 then 4096 - sa % 4096 else 128 - sa % 128) (if dir = 1 then 4096 - da % 4096 else 128 - da % 128))

/-- Move pieces until the transfer ends, halts, or needs more of the host. -/
def transferGo (dir src dst len : Nat) : Nat → DCmd → HostData → State → (Moved × Nat) × State
  | 0, d, _, s => ((if d.moved < len then .going else .done, d.moved), s)
  | fuel + 1, d, h, s =>
    if len ≤ d.moved then ((.done, d.moved), s)
    else
      let n := pieceSize dir (src + d.moved) (dst + d.moved) (len - d.moved)
      match transferPiece s d (src + d.moved) (dst + d.moved) n dir h with
      | ((.data _ _, _), h, s) => transferGo dir src dst len fuel { d with moved := d.moved + n } h s
      | ((.halt w, _), _, s) => ((.halt w, d.moved), s)
      | ((.fail code, va), _, s) => ((.fail code va, d.moved), s)
      | ((.pause, _), _, s) => ((.going, d.moved), s)

/-- The tag of a transfer goes free. -/
def freeTransferTag (s : State) (d : DCmd) : State :=
  match d.tag with
  | some t => setTag s t { getTag s t with st := .free }
  | none => s

/-- An event of a LOAD or COPY: its tag is taken at the first. -/
def transfer (s : State) (d : DCmd) (tag : Nat) (h : HostData) : State :=
  let s := if d.tag.isSome then s else takeTag (tookTurn s d) tag none d.ctx none
  let d := { d with tag := some (d.tag.getD tag), st := .running, wait := none }
  let dir := if d.op = 2 then 0 else fieldAt d.bytes 28 1
  let len := fieldAt d.bytes 24 4
  let ((r, m), s) := transferGo dir (fieldAt d.bytes 8 8) (fieldAt d.bytes 16 8) len (len / 16 + 2) d h s
  let d := { d with moved := m }
  match r with
  | .going => modDCmd s d.id fun _ => d
  | .halt w => modDCmd s d.id fun _ => { d with wait := some w }
  | .done => completeCmd (freeTransferTag s d) d 0 m 0
  | .fail code va => completeCmd (freeTransferTag s d) d code m va

/-- A transfer can begin, with a free tag of its pool, or go on. -/
def transferDue (s : State) (d : DCmd) (op tag : Nat) : Bool :=
  d.op == op && planeUp s &&
    (if d.st == .running then (d.wait.map (waitOver s)).getD true && !missWaits s (.transfer d.id)
     else startable s d && startTurn s d && (getTag s tag).st == .free && poolOf tag == .parcel)

/-- `tag`: the tag taken at the start; `host`: what the host returns for the bytes still to be read. -/
def execLoad (cmd : Nat) (tag : Fin 4096) (host : HostReply) (s : State) : Res :=
  match findCmd s cmd with
  | none => .next s
  | some d => whenDue (transferDue s d 2 tag.val) s (.next (transfer s d tag.val (hostData host)))

def execCopy (cmd : Nat) (tag : Fin 4096) (host : HostReply) (s : State) : Res :=
  match findCmd s cmd with
  | none => .next s
  | some d => whenDue (transferDue s d 3 tag.val) s (.next (transfer s d tag.val (hostData host)))

/-! ### Interrupts (R479) -/

/-- ITIME has passed since the first entry not yet signalled. -/
def timeTrigger (s : State) (ctx q : Nat) : State :=
  let s := setQueue s ctx q { getQueue s ctx q with unsig := 0 }
  sendVector s (regFld s .dspQirq 0 ctx q 0 11)

def execInterruptTimeTrigger (ctx : Fin 64) (q : Fin 8) (s : State) : Res :=
  whenDue (regBit s .dspQirq 0 ctx.val q.val 15 && regFld s .dspQirq 0 ctx.val q.val 24 8 != 0
      && (getQueue s ctx.val q.val).unsig != 0) s (.next (timeTrigger s ctx.val q.val))

/-- R479: a masked vector that is pending is sent when it is unmasked. -/
def unmask (s : State) (v : Nat) : State :=
  let s := { s with host := { s.host with masked := spSet true v false s.host.masked } }
  if spGet false v s.host.vecPending then
    emit { s with host := { s.host with vecPending := spSet false v false s.host.vecPending } } (v / 32) (.msix v)
  else s

def execMsixUnmask (vector : Fin 2048) (s : State) : Res :=
  .next (if hostHere s then unmask s vector.val else s)

/-! ### HW4 (R458) -/

/-- Device physical address of a byte of HW4. -/
def hw4Addr (s : State) (o : Nat) : Nat := regFld s .dspA4base 0 0 0 30 10 * 2 ^ 30 + o

/-- R458: a read or write through HW4. -/
def hw4Read (s : State) (pa n : Nat) : State :=
  if installed s.variant < pa + n then aerReport (emit s 0 .readAbort) 0 .completerAbort
  else
    let (r, s) := devRead s privAcc pa n
    emit s 0 (.readDone r.bytes (r.poison || r.failed))

/-- `ep`: the write came in a poisoned TLP (R482). -/
def hw4Write (s : State) (pa : Nat) (bs : List Byte) (ep : Bool) : State :=
  let s := if ep then aerReport s 0 .poisonedTlp else s
  if installed s.variant < pa + bs.length then post s .hw4Range 7 0 none 0 pa
  else (devWrite s privAcc pa bs (List.replicate ((bs.length + 15) / 16) ep)).2

/-- `offset`: in HW4, which has the size that configuration space gives it; `write`: the bytes of a write and its EP bit,
none for a read of `len` bytes. -/
def execHw4Access (offset : BitVec 38) (len : Nat) (write : Option (List Byte × Bool)) (s : State) : Res :=
  let pa := hw4Addr s offset.toNat
  .next (if !hostHere s || spGet false 0 s.host.d3 || spGet false 0 s.host.resetting || 2 ^ s.host.hw4Log ≤ offset.toNat
      then s
    else match write with
      | some (bs, ep) => hw4Write s pa bs ep
      | none => hw4Read s pa len)

/-! ### Power states of functions (R486) -/

def execD3hotEntry (fn : Fin 64) (s : State) : Res :=
  .next (if hostHere s then { s with host := { s.host with d3 := spSet false fn.val true s.host.d3 } } else s)

/-- The held entries and interrupts of a function are sent, in order. -/
def toD0 (s : State) (fn : Nat) : State :=
  let mine := s.host.heldPosts.filter fun p => p.1 == fn
  mine.foldl (fun s e => enqueue s e.2.1 e.2.2)
    { s with host := { s.host with d3 := spSet false fn false s.host.d3,
                                   heldPosts := s.host.heldPosts.filter fun p => p.1 != fn } }

def execReturnToD0 (fn : Fin 64) (s : State) : Res :=
  .next (if hostHere s then toD0 s fn.val else s)

/-! ### Completion timeouts (R480) -/

/-- The records of a timed-out read: AER's and its own (R480, R481). -/
def timeoutRecord (s : State) (fn : Nat) (ctx : Option Nat) (arg addr : Nat) : State :=
  post (aerReport s fn .completionTimeout) .hostTimeout 7 fn ctx arg addr

/-- A line read of host memory without its completion. -/
def lineTimesOut (s : State) (r : LineReq) : State :=
  match r.target with
  | .host fn a _ => failStream (timeoutRecord s fn (some r.ctx) 0 a) r.tag codeSegFault
  | .dev _ => s

def lineWaitsHost (r : LineReq) : Bool :=
  reqReads r && match r.target with
  | .host .. => true
  | .dev _ => false

/-- The SEG_SYNC at the Points processor fails on a mirror entry (R422). -/
def mirrorTimesOut (s : State) (c : CtrlCmd) (seg : Nat) : State :=
  let ctx := fieldAt c.body 8 1
  control s c (segSyncOk c.body) (some ctx) fun s =>
    let s := mirrorReads s ctx (maskSegs (fieldAt c.body 10 2))
    endControl (timeoutRecord s 0 none 0 (mirrorAddr s ctx seg)) c.cmd 0x42 (seg + 256 * 8)

/-- A read of commands times out. -/
def commandsTimeOut (s : State) (r : CmdRead) : State :=
  let s := aerReport s (fnOf s (r.key / 8)) .completionTimeout
  if readLive s r then readFails s (r.key / 8) (r.key % 8) .hostTimeout else s

/-- The context address that a transfer has come to. -/
def transferAt (d : DCmd) : Nat := fieldAt d.bytes (if d.op = 3 && fieldAt d.bytes 28 1 != 0 then 8 else 16) 8 + d.moved

def execCompletionTimeout (what : TimedOut) (s : State) : Res :=
  match what with
  | .line id =>
    (match findReq s id with
     | some r => whenDue (lineWaitsHost r) s (.next (lineTimesOut s r))
     | none => .next s)
  | .queue ctx q =>
    match readOf s ctx.val q.val with
    | some r => .next (serveReads (commandsTimeOut (endRead s r) r))
    | none => .next s
  | .transfer id =>
    (match findCmd s id with
     | some d =>
       whenDue ((d.op == 2 || d.op == 3) && d.st == .running && d.wait.isNone && !missWaits s (.transfer d.id)) s
         (.next (completeCmd (freeTransferTag (timeoutRecord s (fnOf s d.ctx) (some d.ctx) 0 0) d) d codeSegFault d.moved
           (transferAt d)))
     | none => .next s)
  | .mirror seg =>
    (match nextControl s 0x40 with
     | some c => whenDue ((fieldAt c.body 10 2).testBit seg.val) s (.next (mirrorTimesOut s c seg.val))
     | none => .next s)
  | .weights ctx layer =>
    (match findLayer s ctx.val layer.toNat with
     | some l =>
       whenDue (l.started && l.sent < panelCount l) s
         (.next (failLayer (timeoutRecord s (fnOf s l.ctx) (some l.ctx) 0 0) l codeSegFault))
     | none => .next s)

end Sys2Proof.Machine
end

