-- ==== Sys2Proof/Machine/Solver.lean ====
section
/-! DEFINITION. The Solver Clusters: the front end, lanes, the arithmetic of both algorithms, end states, deadlines
and the reserved lane (spec/09, R594). -/

namespace Sys2Proof.Machine

/-! ### FP64 arithmetic of a lane (R355) -/

/-- Round to FP64, nearest-even. -/
def rnd (x : Num) : Num := decodeFloat specFp64 (encodeFloat specFp64 .nearest false 0 x).1

def fAdd (a b : Num) : Num := rnd (numAdd a b).1
def fSub (a b : Num) : Num := rnd (numSub a b).1
def fMul (a b : Num) : Num := rnd (numMul a b).1
def fDiv (a b : Num) : Num := rnd (numDiv a b).1
def fSqrt (a : Num) : Num := rnd (numSqrt a).1

/-- `s += a * b`, one rounding. -/
def fInc (s a b : Num) : Num := rnd (numFma a b s).1

/-- `s -= a * b`, one rounding. -/
def fDec (s a b : Num) : Num := rnd (numFma (numNeg a) b s).1

def fZero : Num := .fin false 0 0
def fOne : Num := .fin false 1 0

/-- The FP64 encoding of a value. -/
def fBits (x : Num) : W64 := BitVec.ofNat 64 (encodeFloat specFp64 .nearest false 0 x).1

def fOf (w : W64) : Num := decodeFloat specFp64 w.toNat

/-- The larger of two values; NaN when either is. -/
def fMax (a b : Num) : Num := if numIsNan a || numIsNan b then .nan else if numLt a b then b else a

/-- The largest magnitude; +0 for none. -/
def normInf (v : List Num) : Num := v.foldl (fun m x => fMax m (numAbs x)) fZero

/-- `s += a[k] * b[k]` in ascending k. -/
def incDot (s : Num) (a b : List Num) : Num := (a.zip b).foldl (fun s p => fInc s p.1 p.2) s

/-- `s -= a[k] * b[k]` in ascending k. -/
def decDot (s : Num) (a b : List Num) : Num := (a.zip b).foldl (fun s p => fDec s p.1 p.2) s

/-- The finite value at `k`. -/
def fAt (v : List Num) (k : Nat) : Num := v.getD k fZero

/-- The order of R156: -0 below +0. -/
def fLess (a b : Num) : Bool := numLess a b

/-- R360: clamp. The spec states no result when an argument is a NaN. -/
def fClamp (v l u : Num) : Num :=
  if numIsNan v || numIsNan l || numIsNan u then fOf (Config.clampNan (fBits v) (fBits l) (fBits u))
  else
    let x := if fLess v l then l else v
    if fLess u x then u else x

/-! ### Symmetric matrices, stored as their lower rows -/

/-- Row `j` of the whole matrix. -/
def symRow (h : List (List Num)) (j : Nat) : List Num :=
  h.getD j [] ++ (h.drop (j + 1)).map fun r => fAt r j

/-- Diagonal elements. -/
def diagOf (h : List (List Num)) : List Num := h.zipIdx.map fun e => fAt e.1 e.2

/-- Add `c[j] * a[k]` to every lower element. -/
def rankOne (h : List (List Num)) (c a : List Num) : List (List Num) :=
  (h.zip c).map fun e => (e.1.zip a).map fun p => fInc p.1 e.2 p.2

def zeroLower (n : Nat) : List (List Num) := (List.range n).map fun j => List.replicate (j + 1) fZero

/-! ### Factorizations (R362) -/

/-- The default PIVTOL, 2^-40. -/
def pivDefault : Num := .fin false 1 (-40)

/-- The largest diagonal element. -/
def diagMax (h : List (List Num)) : Num :=
  match diagOf h with
  | [] => fZero
  | d :: ds => ds.foldl fMax d

/-- R362: the threshold. -/
def pivThreshold (pivtol : Num) (h : List (List Num)) : Num :=
  let p := if numIsZero pivtol then pivDefault else pivtol
  let m := diagMax h
  if numLt fZero m then fMul p m else p

/-- A factorization: the strict lower rows of L, those of G, the reciprocals of its diagonal, pivots regularized. -/
structure Factor where
  l : List (List Num)
  g : List (List Num)
  inv : List Num
  pivots : Nat
  deriving DecidableEq, Repr

/-- R362: the pivot rule. -/
def pivotRule (t d : Num) : Num × Nat := if !numIsNan d && !numLt d t then (d, 0) else (t, 1)

/-- One column: every row from `j` on takes its element. -/
def factorColumn (ldl : Bool) (t : Num) (h : List (List Num)) (j : Nat) (f : Factor) : Factor :=
  let gj := f.g.getD j []
  let (d, p) := pivotRule t (decDot (fAt (h.getD j []) j) (f.l.getD j []) gj)
  let inv := if ldl then fDiv fOne d else fDiv fOne (fSqrt d)
  let step (i : Nat) : Num := decDot (fAt (h.getD i []) j) (f.l.getD i []) gj
  let put (gs : Bool) (r : List Num × Nat) : List Num :=
    if r.2 ≤ j then r.1
    else r.1 ++ [if gs && ldl then step r.2 else fMul (step r.2) inv]
  { l := f.l.zipIdx.map (put false), g := f.g.zipIdx.map (put true), inv := f.inv ++ [inv], pivots := f.pivots + p }

/-- R362: Cholesky, or LDL transposed. -/
def factorize (ldl : Bool) (pivtol : Num) (h : List (List Num)) : Factor :=
  let t := pivThreshold pivtol h
  (List.range h.length).foldl (fun f j => factorColumn ldl t h j f)
    ⟨h.map fun _ => [], h.map fun _ => [], [], 0⟩

/-- Forward substitution in ascending j; `inv` scales each element. -/
def solveLower (inv : Option (List Num)) (l : List (List Num)) (v : List Num) : List Num :=
  (l.zip v).foldl (fun y e =>
    let x := decDot e.2 e.1 y
    y ++ [match inv with
      | some i => fMul x (fAt i y.length)
      | none => x]) []

/-- Back substitution for the rows from `j` on. -/
def solveUpper (inv : Option (List Num)) (l : List (List Num)) (v : List Num) : Nat → List Num → List Num
  | 0, z => z
  | j + 1, z =>
    let col := (l.drop (j + 1)).map fun r => fAt r j
    let x := decDot (fAt v j) col z
    solveUpper inv l v j ((match inv with
      | some i => fMul x (fAt i j)
      | none => x) :: z)

/-- R358: trisolve. -/
def triSolve (f : Factor) (v : List Num) : List Num :=
  solveUpper (some f.inv) f.l (solveLower (some f.inv) f.l v) v.length []

/-- R360: ldlsolve. -/
def ldlSolve (f : Factor) (v : List Num) : List Num :=
  let y := ((solveLower none f.l v).zip f.inv).map fun e => fMul e.1 e.2
  solveUpper none f.l y v.length []

/-! ### Least squares (R358, R359) -/

/-- The data of a problem, converted to FP64. -/
structure LaneData where
  a : List (List Num)
  b : List Num
  /-- Observation weights, or the lower bounds. -/
  w : List Num
  u : List Num
  /-- The lower rows of P. -/
  p : List (List Num)
  x : List Num
  y : List Num
  poison : Bool
  deriving DecidableEq, Repr

/-- What an iterate was found to be. -/
structure Iterate where
  x : List Num
  y : List Num
  n : Nat
  rpri : Num
  rdua : Num
  obj : Num
  deriving DecidableEq, Repr

/-- What running a problem comes to: end code, pivots, iterations, the written iterate, and the divides and square roots
issued (R356, R371). -/
structure LaneEnd where
  code : Nat
  pivots : Nat
  iters : Nat
  best : Option Iterate
  issues : Nat
  deriving DecidableEq, Repr

/-- One observation enters H and g. -/
def formRow (h : List (List Num)) (g : List Num) (a : List Num) (b w : Num) : List (List Num) × List Num :=
  let c := a.map (fMul w)
  (rankOne h c a, (g.zip c).map fun e => fInc e.1 e.2 b)

/-- R358: the normal matrix and right-hand side. -/
def formNormal (n : Nat) (lam : Num) (d : LaneData) : List (List Num) × List Num :=
  let r := (d.a.zip (d.b.zip d.w)).foldl (fun s e => formRow s.1 s.2 e.1 e.2.1 e.2.2)
    (zeroLower n, List.replicate n fZero)
  (r.1.zipIdx.map fun e => e.1.set e.2 (fAdd (fAt e.1 e.2) lam), r.2)

/-- R358: resid. -/
def residual (h : List (List Num)) (g x : List Num) : List Num :=
  g.zipIdx.map fun e => decDot e.1 (symRow h e.2) x

/-- R359: the weighted sum of squared residuals. -/
def sumSquares (d : LaneData) (x : List Num) : Num :=
  (d.a.zip (d.b.zip d.w)).foldl (fun s e =>
    let r := incDot (numNeg e.2.1) e.1 x
    fInc s (fMul e.2.2 r) r) fZero

/-- R358, R359: the whole problem. -/
def leastSquares (p : Problem) (d : LaneData) : LaneEnd :=
  let lam := fOf p.lam
  let (h, g) := formNormal p.n lam d
  let f := factorize false (fOf p.pivtol) h
  let x1 := triSolve f g
  let x := (x1.zip (triSolve f (residual h g x1))).map fun e => fAdd e.1 e.2
  let e := normInf (residual h g x)
  let tol := fAdd (fOf p.epsAbs) (fMul (fOf p.epsRel) (normInf g))
  let code := if !numIsFin e then 4 else if numLt tol e then 2 else 1
  let q := sumSquares d x
  ⟨code, f.pivots, 1, some ⟨x, [], 1, fSqrt q, e, x.foldl (fun o v => fInc o (fMul lam v) v) q⟩, 2 * p.n + 1⟩

/-! ### Quadratic programs (R360, R361) -/

/-- What stays fixed over the iterations. -/
structure QpFixed where
  s : List Num
  lh : List Num
  uh : List Num
  f : Factor
  /-- PEN times s. -/
  ps : List Num
  /-- Divides issued before the first check. -/
  issues : Nat
  deriving DecidableEq, Repr

/-- What an iteration changes, and the best iterate so far with its measure. -/
structure QpRun where
  x : List Num
  z : List Num
  w : List Num
  best : Option (Iterate × Num)
  /-- Ended by a check: the end code. -/
  stop : Option Nat
  iters : Nat
  checks : Nat
  deriving DecidableEq, Repr

/-- The product with a matrix of rows. -/
def rowsTimes (a : List (List Num)) (x : List Num) : List Num := a.map fun r => incDot fZero r x

/-- The product with the transpose. -/
def transTimes (n : Nat) (a : List (List Num)) (y : List Num) : List Num :=
  (List.range n).map fun j => incDot fZero (a.map fun r => fAt r j) y

def symTimes (p : List (List Num)) (x : List Num) : List Num :=
  (List.range p.length).map fun j => incDot fZero (symRow p j) x

/-- R360: equilibration, K and its factors. -/
def qpSetup (p : Problem) (d : LaneData) : QpFixed :=
  let s := d.a.map fun r =>
    let e := normInf r
    if numLt fZero e then fDiv fOne e else fOne
  let ps := s.map (fMul (fOf p.lam))
  let k0 := d.p.zipIdx.map fun e => e.1.set e.2 (fAdd (fAt e.1 e.2) (fOf p.prox))
  let k := (d.a.zip (ps.zip s)).foldl (fun k e => rankOne k (e.1.map (fMul (fMul e.2.1 e.2.2))) e.1) k0
  { s := s, lh := (s.zip d.w).map fun e => fMul e.1 e.2, uh := (s.zip d.u).map fun e => fMul e.1 e.2,
    f := factorize true (fOf p.pivtol) k, ps := ps,
    issues := d.a.countP (fun r => numLt fZero (normInf r)) + p.n + (if p.dwarm then p.m else 0) }

/-- s times A x. -/
def scaledRows (q : QpFixed) (d : LaneData) (x : List Num) : List Num :=
  (q.s.zip (rowsTimes d.a x)).map fun e => fMul e.1 e.2

def clampAll (q : QpFixed) (v : List Num) : List Num :=
  (v.zip (q.lh.zip q.uh)).map fun e => fClamp e.1 e.2.1 e.2.2

/-- The start of the iteration. -/
def qpStart (p : Problem) (d : LaneData) (q : QpFixed) : QpRun :=
  let x := if p.warm then d.x else List.replicate p.n fZero
  let w := if p.dwarm then (d.y.zip q.ps).map fun e => fDiv e.1 e.2 else d.a.map fun _ => fZero
  ⟨x, clampAll q (scaledRows q d x), w, none, none, 0, 0⟩

/-- R360: check(n). -/
def qpCheck (p : Problem) (d : LaneData) (q : QpFixed) (n : Nat) (r : QpRun) : QpRun :=
  let y := (q.ps.zip r.w).map fun e => fMul e.1 e.2
  let zo := (r.z.zip q.s).map fun e => fDiv e.1 e.2
  let ax := rowsTimes d.a r.x
  let px := symTimes d.p r.x
  let aty := transTimes p.n d.a y
  let rp := normInf ((ax.zip zo).map fun e => fSub e.1 e.2)
  let rd := normInf ((px.zip (d.b.zip aty)).map fun e => fAdd (fAdd e.1 e.2.1) e.2.2)
  let ep := fAdd (fOf p.epsAbs) (fMul (fOf p.epsRel) (fMax (normInf ax) (normInf zo)))
  let ed := fAdd (fOf p.epsAbs) (fMul (fOf p.epsRel) (fMax (fMax (normInf px) (normInf aty)) (normInf d.b)))
  let m := fMax (fSub rp ep) (fSub rd ed)
  let r := { r with checks := r.checks + 1 }
  if !numIsFin m then { r with stop := some 4 }
  else
    let better := match r.best with
      | none => true
      | some (_, b) => numLt m b
    let best := if better then some (⟨r.x, y, n, rp, rd, fZero⟩, m) else r.best
    { r with best := best, stop := if numLt fZero m then none else some 1 }

/-- One iteration. -/
def qpStep (p : Problem) (d : LaneData) (q : QpFixed) (r : QpRun) : QpRun :=
  let v := (r.x.zip d.b).map fun e => fSub (fMul (fOf p.prox) e.1) e.2
  let c := (q.ps.zip (r.z.zip r.w)).map fun e => fMul e.1 (fSub e.2.1 e.2.2)
  let v := (d.a.zip c).foldl (fun v e => (v.zip e.1).map fun u => fInc u.1 u.2 e.2) v
  let x := ldlSolve q.f v
  let relax := fOf p.relax
  let zr := ((scaledRows q d x).zip r.z).map fun e =>
    fAdd (fMul relax e.1) (fMul (fSub fOne relax) e.2)
  let z := clampAll q ((zr.zip r.w).map fun e => fAdd e.1 e.2)
  let w := (r.w.zip (zr.zip z)).map fun e => fAdd e.1 (fSub e.2.1 e.2.2)
  { r with x := x, z := z, w := w, iters := r.iters + 1 }

/-- Iterations until a check ends the problem; `checked` says whether the check of iteration `last` is made. -/
def qpLoop (p : Problem) (d : LaneData) (q : QpFixed) (last : Nat) (checked : Bool) : Nat → QpRun → QpRun
  | 0, r => r
  | fuel + 1, r =>
    if r.stop.isSome || last ≤ r.iters then r
    else
      let r := qpStep p d q r
      let due := r.iters % p.check == 0 || r.iters == p.maxit
      let r := if due && (checked || r.iters < last) then qpCheck p d q r.iters r else r
      qpLoop p d q last checked fuel r

/-- R361: the objective of an iterate. -/
def qpObjective (d : LaneData) (x : List Num) : Num :=
  fAdd (fMul (.fin false 1 (-1)) (incDot fZero x (symTimes d.p x))) (incDot fZero d.b x)

/-- Run a quadratic program for at most `last` iterations. -/
def qpRun (p : Problem) (d : LaneData) (last : Nat) (checked : Bool) : QpFixed × QpRun :=
  let q := qpSetup p d
  let r := qpStart p d q
  let r := if checked || 0 < last then qpCheck p d q 0 r else r
  (q, qpLoop p d q last checked last r)

/-- The iterate a quadratic program writes. -/
def qpWritten (d : LaneData) (r : QpRun) : Option Iterate :=
  r.best.map fun b => { b.1 with obj := qpObjective d b.1.x }

/-- Divides of a run: each check divides once per constraint. -/
def qpIssues (p : Problem) (q : QpFixed) (r : QpRun) : Nat := q.issues + p.m * r.checks

/-- R360, R361: the whole problem. -/
def quadratic (p : Problem) (d : LaneData) : LaneEnd :=
  let (q, r) := qpRun p d p.maxit true
  ⟨r.stop.getD 2, q.f.pivots, r.iters, qpWritten d r, qpIssues p q r⟩

/-- A problem that runs to its end. -/
def solveWhole (p : Problem) (d : LaneData) : LaneEnd := if p.qp then quadratic p d else leastSquares p d

/-- R366: a problem cut short after `iters` iterations, the check of the last made or not; none when it ended
before. -/
def solveCut (p : Problem) (d : LaneData) (iters : Nat) (checked : Bool) : Option LaneEnd :=
  if p.qp then
    let (q, r) := qpRun p d (min iters p.maxit) checked
    if r.stop.isSome || r.iters != iters || (checked && iters == p.maxit) then none
    else some ⟨3, q.f.pivots, iters, qpWritten d r, qpIssues p q r⟩
  else if 1 < iters then none
  else
    let r := leastSquares p d
    if checked && iters == 1 then some { r with code := 3 }
    else some ⟨3, r.pivots, iters, none, 2 * p.n⟩

/-! ### Rejected inputs (R364) -/

/-- A datum that must be finite. -/
def allFinite (v : List Num) : Bool := v.all numIsFin

def boundsOk (l u : Num) : Bool :=
  (numIsFin l || l == .inf true) && (numIsFin u || u == .inf false) && !numLt u l

/-- R364. -/
def rejected (p : Problem) (d : LaneData) : Bool :=
  p.bad || d.poison || !(d.a.all allFinite && allFinite d.b) ||
    (if p.qp then
       !(d.p.all allFinite && (!p.warm || allFinite d.x) && (!p.dwarm || allFinite d.y))
         || !((d.w.zip d.u).all fun e => boundsOk e.1 e.2)
     else !(d.w.all fun w => numIsFin w && !numLt w fZero))

/-! ### Context memory, as a lane reaches it (R365, Table 10.4) -/

/-- Why a lane cannot go on. -/
inductive LaneStop where
  | wait (w : WaitOn)
  | hold
  | fail (code : Nat)
  deriving DecidableEq, Repr

/-- First and last-plus-one address of the governor window (Table 20.1). -/
def govBase : Nat := 0xF100000000
def govSize : Nat := 0x10000

/-- Where a line of a problem leads. -/
inductive LaneXl where
  | dev (pa wp : Nat)
  | host (fn iova : Nat) (gran : Option (Nat × Nat))
  | window (off : Nat)
  | stop (why : LaneStop)
  deriving DecidableEq, Repr

/-- The lookaside of a problem's cluster; the front end uses that of cluster 0 (DESIGN CHOICE, log 22). -/
def laneLook (p : Problem) : Nat := (p.lane.map (·.1)).getD 0

/-- Who asks the Points processor: the lane, or the front end for a command whose problem has none. -/
def laneWho (p : Problem) : PxWho :=
  match p.lane, p.tag with
  | none, some t => .frontEnd t
  | _, _ => .lane p.id

/-- R443, R444: a page that grants no access. -/
def lanePage (s : State) (fn : Nat) (x : Option Nat) (a : Nat) : LaneXl × State :=
  if !priUp s fn then (.stop (.fail codeSegFault), s)
  else if !pageRoom s fn x a then (.stop .hold, s)
  else (.stop (.wait (.page fn x (a / 4096))), requestPage s fn x a)

/-- Translate a line address for a problem; a miss holds it at the Points processor (R415). -/
def laneXlate (s : State) (p : Problem) (va : Nat) (w : Bool) : LaneXl × State :=
  if p.tag.isNone then
    (if govBase ≤ va && va + 128 ≤ govBase + govSize then .window (va - govBase) else .stop (.fail codeSegFault), s)
  else
    match unitXlate s (laneWho p) (laneLook p) p.ctx va (if w then .write else .read) p.express with
    | (.dev pa wp, s) => (if ownCheck s (some p.ctx) pa = .failed then .stop (.fail codeGranuleFailed) else .dev pa wp, s)
    | (.host iova g, s) =>
      (match hostLine s p.ctx iova g w with
       | .host fn a g => (.host fn a g, s)
       | .ats fn x a => (.stop .hold, askAts s fn x a)
       | .page fn x a => lanePage s fn x a
       | _ => (.stop (.fail codeSegFault), s))
    | (.miss, s) => (.stop .hold, s)
    | (.absent seg k, s) =>
      if faultRoom s p.ctx seg k then
        (.stop (.wait (.granule p.ctx seg k)), faultRecord s p.ctx seg k va w p.express true)
      else (.stop .hold, s)
    | (_, s) => (.stop (.fail codeSegFault), s)

/-- Outcome of an access: a value, or why there is none; with what is left of the host's answers. -/
abbrev LaneIo (α : Type) := (LaneStop ⊕ α) × List HostReply × State

/-- R436: count a line request to a HOST granule. -/
def laneCounts (s : State) (p : Problem) (va : Nat) : Option (Nat × Nat) → State
  | some (seg, k) => countHost s p.ctx seg k va
  | none => s

/-- The lines that an access of `n` bytes touches. -/
def laneLines (a n : Nat) : List Nat :=
  if n = 0 then [] else (List.range ((a + n + 127) / 128 - a / 128)).map fun i => 128 * (a / 128 + i)

/-- Every line can be reached: how many of them lie in host memory. -/
def laneReach (p : Problem) (w : Bool) : List Nat → State → (LaneStop ⊕ Nat) × State
  | [], s => (.inr 0, s)
  | l :: ls, s =>
    match laneXlate s p l w with
    | (.stop why, s) => (.inl why, s)
    | (x, s) =>
      let h := match x with
        | .host .. => 1
        | _ => 0
      match laneReach p w ls s with
      | (.inl why, s) => (.inl why, s)
      | (.inr n, s) => (.inr (h + n), s)

/-- Read one line. -/
def laneLine (s : State) (p : Problem) (va : Nat) (hs : List HostReply) : LaneIo (List Byte × List Bool) :=
  match laneXlate s p va false with
  | (.stop why, s) => (.inl why, hs, s)
  | (.window o, s) => (.inr (memRead s.govWin o 128, []), hs, s)
  | (.dev pa wp, s) =>
    let (c, _, s) := memLine s ⟨some p.ctx, 4, wp⟩ (pa / 128)
    (.inr (c.data, c.poison), hs, s)
  | (.host fn a g, s) =>
    let s := emit (laneCounts s p va g) fn (.read fn a 128 (hostAttr s p.ctx true))
    match hs with
    | .data bs bad :: hs =>
      let s := if bad then aerReport s fn .poisonedTlp else s
      (.inr (padTo 128 (bs.take 128), List.replicate 8 bad), hs, s)
    | _ :: hs => (.inl (.fail codeSegFault), hs, post s .hostAbort 7 fn (some p.ctx) 0 a)
    | [] => (.inl .hold, [], s)

/-- Read bytes `a .. e - 1`, from line `l` on. -/
def laneRead (p : Problem) (a e : Nat) : Nat → Nat → List Byte × Bool → List HostReply → State →
    LaneIo (List Byte × Bool)
  | 0, _, r, hs, s => (.inr r, hs, s)
  | n + 1, l, r, hs, s =>
    match laneLine s p (128 * l) hs with
    | (.inl why, hs, s) => (.inl why, hs, s)
    | (.inr (bs, ps), hs, s) =>
      let (x, b) := linePart ⟨l, false, bs, ps⟩ (a - 128 * l) (min 128 (e - 128 * l))
      laneRead p a e n (l + 1) (r.1 ++ x, r.2 || b) hs s

/-- Read `n` bytes of a problem's context. -/
def problemBytes (s : State) (p : Problem) (a n : Nat) (hs : List HostReply) : LaneIo (List Byte × Bool) :=
  if n = 0 then (.inr ([], false), hs, s)
  else laneRead p a (a + n) ((a + n + 127) / 128 - a / 128) (a / 128) ([], false) hs s

/-- Bytes of an element. -/
def laneSize (p : Problem) : Nat := fmtBits p.fmt / 8

/-- The exact values of packed elements (R355). -/
def laneNums (p : Problem) (bs : List Byte) : List Num :=
  (chunks (laneSize p) (bs.length + 1) bs).map fun c =>
    decodeFloat (if p.fmt = .fp64 then specFp64 else specFp32) (leNat c)

/-- Read `n` elements. -/
def laneVec (s : State) (p : Problem) (a n : Nat) (hs : List HostReply) : LaneIo (List Num × Bool) :=
  match problemBytes s p a (n * laneSize p) hs with
  | (.inl why, hs, s) => (.inl why, hs, s)
  | (.inr (bs, bad), hs, s) => (.inr (laneNums p bs, bad), hs, s)

/-- Read several vectors, in order. -/
def laneVecs (p : Problem) : List (Nat × Nat) → List HostReply → State → LaneIo (List (List Num) × Bool)
  | [], hs, s => (.inr ([], false), hs, s)
  | (a, n) :: vs, hs, s =>
    match laneVec s p a n hs with
    | (.inl why, hs, s) => (.inl why, hs, s)
    | (.inr (x, b), hs, s) =>
      match laneVecs p vs hs s with
      | (.inl why, hs, s) => (.inl why, hs, s)
      | (.inr (xs, c), hs, s) => (.inr (x :: xs, b || c), hs, s)

/-- R353: rows of the upper triangle of P, as lower rows of the symmetric matrix. -/
def lowerOf (rows : List (List Num)) : List (List Num) :=
  (List.range rows.length).map fun j => (List.range (j + 1)).map fun k => fAt (rows.getD k []) (j - k)

/-- The vectors a problem reads, in order: the rows of A, b or q, the weights or lower bounds, the upper bounds, X, Y
and the upper rows of P. -/
def laneArrays (p : Problem) : List (Nat × Nat) :=
  let e := laneSize p
  let rows := (List.range p.m).map fun i => (p.addrA + i * p.n * e, p.n)
  if p.qp then
    rows ++ [(p.addrB, p.n), (p.addrL, p.m), (p.addrU, p.m), (p.addrX, if p.warm then p.n else 0),
             (p.addrY, if p.dwarm && p.addrY != 0 then p.m else 0)]
      ++ (List.range p.n).map fun i => (p.addrP + (i * p.n + i) * e, p.n - i)
  else rows ++ [(p.addrB, p.m), (p.addrP, if p.addrP = 0 then 0 else p.m)]

/-- Free FP64 values. -/
def drawWords : Nat → State → List W64 × State
  | 0, s => ([], s)
  | n + 1, s =>
    let (w, s) := drawWord s
    let (ws, s) := drawWords n s
    (w :: ws, s)

/-- The vectors of a problem, read once all their lines can be reached and the host's answers are at hand. -/
def laneFetch (s : State) (p : Problem) (hs : List HostReply) : LaneIo (List (List Num) × Bool) :=
  match laneReach p false ((laneArrays p).flatMap fun v => laneLines v.1 (v.2 * laneSize p)) s with
  | (.inl why, s) => (.inl why, hs, s)
  | (.inr n, s) => if hs.length < n then (.inl .hold, hs, s) else laneVecs p (laneArrays p) hs s

/-- The data of a problem. With DWARM set and no Y the spec gives no starting dual: it is free. -/
def laneData (s : State) (p : Problem) (hs : List HostReply) : LaneIo LaneData :=
  match laneFetch s p hs with
  | (.inl why, hs, s) => (.inl why, hs, s)
  | (.inr (vs, bad), hs, s) =>
    let a := vs.take p.m
    let r := vs.drop p.m
    let at_ (i : Nat) : List Num := r.getD i []
    if p.qp then
      let (ws, s) := drawWords (if p.dwarm && p.addrY = 0 then p.m else 0) s
      (.inr ⟨a, at_ 0, at_ 1, at_ 2, lowerOf (r.drop 5), at_ 3, if p.addrY = 0 then ws.map fOf else at_ 4, bad⟩, hs, s)
    else
      (.inr ⟨a, at_ 0, if p.addrP = 0 then List.replicate p.m fOne else at_ 1, [], [], [], [], bad⟩, hs, s)

/-! ### Writing back (R357, R361, R366, R367) -/

/-- Write the part of a line; R447: whether its unit belongs to another context. -/
def laneWriteLine (s : State) (p : Problem) (a : Nat) (bs : List Byte) (l : Nat) : Bool × State :=
  let en := lineEn a (bs.map some) (l / 128)
  match laneXlate s p l true with
  | (.dev pa wp, s) =>
    let (o, s) := memLineWrite s ⟨some p.ctx, 4, wp⟩ (pa / 128) en (List.replicate 8 false)
    (o == .mismatch, s)
  | (.window o, s) => (false, { s with govWin := memWriteEn s.govWin o en })
  | (.host fn x g, s) =>
    (false, emitAt (postRank p.express) (laneCounts s p l g) fn (.write fn (x + (a - l)) (en.filterMap id) false (hostAttr s p.ctx true)))
  | (.stop _, s) => (false, s)

def laneWrite (s : State) (p : Problem) (a : Nat) (bs : List Byte) : Bool × State :=
  (laneLines a bs.length).foldl (fun r l =>
    let (b, s) := laneWriteLine r.2 p a bs l
    (r.1 || b, s)) (false, s)

/-- R357: elements rounded into FMT, nearest-even, SAT = 0, and the flags of the rounding (R67). -/
def laneEncode (p : Problem) (v : List Num) : List Byte × Flags :=
  v.foldl (fun r x =>
    let (b, f) := encodeFloat (if p.fmt = .fp64 then specFp64 else specFp32) .nearest false 0 x
    (r.1 ++ leBytes (laneSize p) b, r.2 ||| f)) ([], 0#8)

/-- Table 9.2: the status block of an end. -/
def statusBlock (s : State) (r : LaneEnd) (poison : Bool) : List Byte :=
  let num (x : Option Num) : List Byte := leBytes 8 (fBits (x.getD (.inf false))).toNat
  [BitVec.ofNat 8 r.code, BitVec.ofNat 8 ((if 0 < r.pivots then 1 else 0) + 2 * poison.toNat)]
    ++ leBytes 2 (min r.pivots 65535) ++ leBytes 4 r.iters
    ++ leBytes 4 ((r.best.map (·.n)).getD 0xFFFFFFFF) ++ leBytes 4 0
    ++ num (r.best.map (·.rpri)) ++ num (r.best.map (·.rdua)) ++ num (r.best.map (·.obj))
    ++ leBytes 8 (nowOp s) ++ List.replicate 16 0#8

/-- An end that writes only its status block (R367). -/
def bareEnd (code iters pivots : Nat) : LaneEnd := ⟨code, pivots, iters, none, 0⟩

/-- The arrays that an end writes, and the flags of their rounding. -/
def writtenArrays (p : Problem) (r : LaneEnd) : List (Nat × List Byte) × Flags :=
  match r.best with
  | none => ([], 0#8)
  | some b =>
    let x := laneEncode p b.x
    if p.qp && p.addrY != 0 then
      let y := laneEncode p b.y
      ([(p.addrX, x.1), (p.addrY, y.1)], x.2 ||| y.2)
    else ([(p.addrX, x.1)], x.2)

/-- A problem leaves its lane. -/
def dropProblem (s : State) (p : Problem) : State :=
  { s with problems := s.problems.filter fun x => x.id != p.id }

/-- What an end leaves for the status of its SOLVE besides its code: poison, and the flags of R67. -/
structure LaneMark where
  poison : Bool
  flags : Flags
  deriving DecidableEq, Repr

/-- R211: the SOLVE counts the end of one problem, and retires at the last. -/
def countEnd (s : State) (p : Problem) (r : LaneEnd) (m : LaneMark) : State :=
  match p.tag with
  | none =>
    setFld (setFld s .govLstat 0 0 0 0 1 0) .govLstat 0 0 0 1 1 1
  | some t =>
    let s := modCmd s t fun c =>
      { c with code := max c.code r.code, pivot := c.pivot || 0 < r.pivots, poison := c.poison || m.poison,
               flags := c.flags ||| m.flags, detail := c.detail + (if r.code = 1 then 0 else 1),
               waiting := c.waiting - 1 }
    match tagCmd s t with
    | some c => if c.waiting = 0 then retire s t else s
    | none => s

/-- The counters of the cluster on which a problem ended. -/
def laneCounters (s : State) (p : Problem) (r : LaneEnd) : State :=
  match p.lane with
  | none => s
  | some (k, _) =>
    let s := if 1 ≤ r.code && r.code ≤ 5 then bump s .slvEnd k (r.code - 1) 0 1 else s
    bump (bump s .slvPivots k 0 0 r.pivots) .slvDsissue k 0 0 r.issues

/-- Write the status block and end the problem; `poison` goes into the block, a mismatched write only into the status of
the SOLVE (R447). -/
def laneFinish (s : State) (p : Problem) (r : LaneEnd) (poison : Bool) (m : LaneMark) : State :=
  let (b, s) := laneWrite s p (p.addr + 128) (statusBlock s r poison)
  countEnd (laneCounters (dropProblem s p) p r) p r { m with poison := m.poison || b }

/-- A lane that waits. -/
def laneWaits (s : State) (p : Problem) (why : LaneStop) : State :=
  match why with
  | .wait w => { s with problems := s.problems.map fun x => if x.id = p.id then { x with wait := some w } else x }
  | _ => s

/-- Write several arrays, in order. -/
def laneWrites (p : Problem) : List (Nat × List Byte) → Bool → State → Bool × State
  | [], b, s => (b, s)
  | a :: as_, b, s =>
    let (c, s) := laneWrite s p a.1 a.2
    laneWrites p as_ (b || c) s

/-- R367: X and Y, then the status block. -/
def laneEnds (s : State) (p : Problem) (r : LaneEnd) (poison : Bool) : State :=
  let (as_, fl) := writtenArrays p r
  match laneReach p true (laneLines (p.addr + 128) 64) s with
  | (.inl (.fail _), s) => countEnd (laneCounters (dropProblem s p) p r) p r ⟨poison, 0#8⟩
  | (.inl why, s) => laneWaits s p why
  | (.inr _, s) =>
    match laneReach p true (as_.flatMap fun a => laneLines a.1 a.2.length) s with
    | (.inl (.fail code), s) => laneFinish s p (bareEnd code r.iters r.pivots) poison ⟨poison, 0#8⟩
    | (.inl why, s) => laneWaits s p why
    | (.inr _, s) =>
      let (b, s) := laneWrites p as_ false s
      laneFinish s p r poison ⟨poison || b, fl⟩

/-! ### The front end (R346 to R348) -/

/-- A field of a descriptor. -/
def descNat (b : List Byte) (o n : Nat) : Nat := leNat ((b.drop o).take n)

/-- The fields of Table 9.1 that hold for both kinds. -/
def descCommon (b : List Byte) : Bool :=
  let f (o : Nat) : Num := decodeFloat specFp64 (descNat b o 8)
  let addr (o : Nat) : Bool := descNat b o 8 < 2 ^ 48 && descNat b o 8 % 8 == 0
  let finNonneg (x : Num) : Bool := numIsFin x && !numLt x fZero
  bitsOf (descNat b 0 1) 1 3 == 0 && bitsOf (descNat b 0 1) 4 4 ≤ 1 && bitsOf (descNat b 1 1) 2 6 == 0
    && 1 ≤ descNat b 2 2 && descNat b 2 2 ≤ 64 && timeOk (descNat b 8 8)
    && [16, 24, 32, 40, 48, 56, 64].all addr
    && finNonneg (f 96) && finNonneg (f 104)
    && (numIsZero (f 112) || (numIsFin (f 112) && numLt fZero (f 112) && numLt (f 112) fOne))
    && descNat b 122 6 == 0

/-- Table 9.1: the rules of least squares, and of quadratic programs. -/
def descKind (b : List Byte) : Bool :=
  let f (o : Nat) : Num := decodeFloat specFp64 (descNat b o 8)
  let pos (x : Num) : Bool := numIsFin x && numLt fZero x
  let m := descNat b 4 2
  if (descNat b 0 1).testBit 0 then
    m ≤ 128 && 1 ≤ descNat b 6 2 && descNat b 6 2 ≤ 4096
      && (m != 0 || (descNat b 16 8 == 0 && descNat b 48 8 == 0 && descNat b 56 8 == 0))
      && pos (f 72) && pos (f 80) && pos (f 88) && numLt (f 88) (.fin false 2 0)
      && 1 ≤ descNat b 120 2 && descNat b 120 2 ≤ 256
  else
    descNat b 1 1 == 0 && 1 ≤ m && m ≤ 1024 && descNat b 6 2 == 0 && descNat b 48 8 == 0 && descNat b 56 8 == 0
      && descNat b 64 8 == 0 && numIsFin (f 72) && !numLt (f 72) fZero && descNat b 80 8 == 0
      && descNat b 88 8 == 0 && descNat b 120 2 == 0

/-- Table 9.1: the problem a descriptor describes. -/
def problemOf (b : List Byte) (id : Nat) (tag : Option Nat) (idx ctx : Nat) (express bad : Bool) (addr mask : Nat) :
    Problem where
  id := id
  tag := tag
  idx := idx
  ctx := ctx
  express := express
  addr := addr
  qp := (descNat b 0 1).testBit 0
  fmt := fmtOfCode (descNat b 0 1 / 16)
  warm := (descNat b 1 1).testBit 0
  dwarm := (descNat b 1 1).testBit 1
  n := descNat b 2 2
  m := descNat b 4 2
  maxit := descNat b 6 2
  deadline := descNat b 8 8
  addrA := descNat b 16 8
  addrB := descNat b 24 8
  addrX := descNat b 32 8
  addrP := descNat b 40 8
  addrL := descNat b 48 8
  addrU := descNat b 56 8
  addrY := descNat b 64 8
  lam := BitVec.ofNat 64 (descNat b 72 8)
  prox := BitVec.ofNat 64 (descNat b 80 8)
  relax := BitVec.ofNat 64 (descNat b 88 8)
  epsAbs := BitVec.ofNat 64 (descNat b 96 8)
  epsRel := BitVec.ofNat 64 (descNat b 104 8)
  pivtol := BitVec.ofNat 64 (descNat b 112 8)
  check := descNat b 120 2
  mask := mask
  lane := none
  restart := false
  bad := bad
  expired := false
  wait := none

/-- Who the front end reads for: a problem that carries the command's context. -/
def frontReader (c : Cmd) (t : Nat) : Problem :=
  problemOf [] 0 (some t) 0 c.ctx (isExpress c.slot) false c.blk.w1 0

/-- R348: the check of one descriptor. -/
def descCheck (c : Cmd) (b : List Byte) : Option Nat :=
  if descNat b 0 1 % 2 != c.blk.w2 % 2 || descNat b 0 1 / 16 != fmtCode c.blk.fmtIn then some codeDescMismatch
  else if descCommon b && descKind b then none
  else some codeBadDescriptor

/-- R348: read and check `n` descriptors from index `i` on. -/
def readDescs (c : Cmd) (t : Nat) : Nat → Nat → List HostReply → State → LaneIo (List Problem)
  | 0, _, hs, s => (.inr [], hs, s)
  | n + 1, i, hs, s =>
    let a := c.blk.w1 + 192 * i
    match problemBytes s (frontReader c t) a 128 hs with
    | (.inl why, hs, s) => (.inl why, hs, s)
    | (.inr (b, bad), hs, s) =>
      match laneReach (frontReader c t) true (laneLines (a + 128) 64) s with
      | (.inl why, s) => (.inl why, hs, s)
      | (.inr _, s) =>
        match descCheck c b with
        | some code => (.inl (.fail code), hs, s)
        | none =>
          match readDescs c t n (i + 1) hs s with
          | (.inl why, hs, s) => (.inl why, hs, s)
          | (.inr ps, hs, s) =>
            (.inr (problemOf b (s.nextProblem + i) (some t) i c.ctx (isExpress c.slot) bad a
              (bitsOf c.blk.w2 4 4) :: ps), hs, s)

/-- Reach the descriptors from index `i` on, up to the first that fails: a stop to wait for, or the host lines read. -/
def descReach (c : Cmd) (t : Nat) : Nat → Nat → State → (LaneStop ⊕ Nat) × State
  | 0, _, s => (.inr 0, s)
  | n + 1, i, s =>
    let a := c.blk.w1 + 192 * i
    match laneReach (frontReader c t) false (laneLines a 128) s with
    | (.inl (.fail _), s) => (.inr 0, s)
    | (.inl why, s) => (.inl why, s)
    | (.inr h, s) =>
      match laneReach (frontReader c t) true (laneLines (a + 128) 64) s with
      | (.inl (.fail _), s) => (.inr h, s)
      | (.inl why, s) => (.inl why, s)
      | (.inr _, s) =>
        match descReach c t n (i + 1) s with
        | (.inl why, s) => (.inl why, s)
        | (.inr k, s) => (.inr (h + k), s)

/-- Read the descriptors once they can all be reached and the host's answers are at hand. -/
def frontReads (s : State) (t : Nat) (c : Cmd) (hs : List HostReply) : LaneIo (List Problem) :=
  match descReach c t c.blk.count 0 s with
  | (.inl why, s) => (.inl why, hs, s)
  | (.inr n, s) => if hs.length < n then (.inl .hold, hs, s) else readDescs c t c.blk.count 0 hs s

/-- A command leaves the queue of the front end. -/
def leaveFront (s : State) (t : Nat) : State := { s with solveNet := s.solveNet.filter fun e => e.1 != t }

/-- R348: the front end takes a SOLVE. -/
def frontEnd (s : State) (t : Nat) (c : Cmd) (hs : List HostReply) : State :=
  match frontReads s t c hs with
  | (.inl (.fail code), _, s) => fail (leaveFront s t) t code
  | (.inl (.wait w), _, s) =>
    { s with solveNet := s.solveNet.map fun e => if e.1 = t then (t, some w) else e }
  | (.inl .hold, _, s) => s
  | (.inr ps, _, s) =>
    let s := leaveFront s t
    modCmd { s with problems := s.problems ++ ps, nextProblem := s.nextProblem + ps.length } t
      fun c => { c with ready := true, waiting := ps.length }

/-- The SOLVE is at the front end, and its words are ready to be read (R190). -/
def frontDue (s : State) (t : Nat) (c : Cmd) : Bool :=
  planeUp s && directReady s c &&
    s.solveNet.any fun e => e.1 == t && (e.2.map (waitOver s)).getD true

/-- `host`: what the host returns for descriptors that lie in its memory. -/
def execSolveFrontEnd (tag : Fin 4096) (host : List HostReply) (s : State) : Res :=
  match tagCmd s tag.val with
  | none => .next s
  | some c => whenDue (frontDue s tag.val c) s (.next (frontEnd s tag.val c host))

/-! ### Lanes (R349, R350, R369, R370) -/

def slvFailed (s : State) (k : Nat) : Bool := regBit s .sbSlvfail 0 0 0 k

/-- The governor is enabled (R369, R575). -/
def govEnabled (s : State) : Bool := s.sm.govOn

def laneKey (k l : Nat) : Nat := 32 * k + l

def laneBusy (s : State) (k l : Nat) : Bool := s.problems.any fun p => p.lane == some (k, l)

/-- R369, R370: lane 31 of cluster 0 is reserved. -/
def laneReserved (s : State) : Bool :=
  govEnabled s && !slvFailed s 0 && !spGet false (laneKey 0 31) s.laneOff
    && !(s.problems.any fun p => p.lane == some (0, 31) && p.tag.isSome)

/-- The lane can take a problem of the data plane. -/
def laneFree (s : State) (k l : Nat) : Bool :=
  !laneBusy s k l && !spGet false (laneKey k l) s.laneOff && !(k == 0 && l == 31 && govEnabled s && !slvFailed s 0)

def freeLanes (s : State) (k : Nat) : List Nat := (List.range 32).filter (laneFree s k)

/-- R349, R351: the clusters a problem may use. -/
def eligible (s : State) (p : Problem) : List Nat :=
  let working := (List.range 4).filter fun k => !slvFailed s k
  let named := working.filter fun k => p.mask == 0 || p.mask.testBit k
  if named.isEmpty then working else named

/-- R349: the lane a problem takes. -/
def pickLane (s : State) (p : Problem) : Option (Nat × Nat) :=
  let best := (eligible s p).foldl (fun (b : Option (Nat × List Nat)) k =>
    let f := freeLanes s k
    match b with
    | none => if f.isEmpty then none else some (k, f)
    | some (_, g) => if g.length < f.length then some (k, f) else b) none
  best.bind fun b => b.2.head?.map fun l => (b.1, l)

/-- The arrival of a problem's command at the front end, which follows its commit at once. -/
def arrivalOf (s : State) (p : Problem) : Nat := ((p.tag.bind (tagCmd s)).map (·.seq)).getD 0

/-- R350, R351: `a` goes before `b`. -/
def laneBefore (s : State) (a b : Problem) : Bool :=
  if a.restart != b.restart then a.restart
  else if a.express != b.express then a.express
  else if arrivalOf s a != arrivalOf s b then arrivalOf s a < arrivalOf s b
  else a.idx < b.idx

def findProblem (s : State) (id : Nat) : Option Problem := s.problems.find? fun p => p.id == id

/-- R366: the deadline of a problem has been reached. -/
def deadlineHit (s : State) (p : Problem) : Bool := p.deadline != 0 && (reached s p.deadline || p.expired)

def assignDue (s : State) (p : Problem) : Bool :=
  planeUp s && p.lane.isNone && !deadlineHit s p
    && !(s.problems.any fun q => q.lane.isNone && laneBefore s q p && (pickLane s q).isSome && !deadlineHit s q)

def execProblemAssign (problem : Nat) (s : State) : Res :=
  match findProblem s problem with
  | none => .next s
  | some p =>
    match pickLane s p with
    | none => .next s
    | some l =>
      whenDue (assignDue s p) s
        (.next { s with problems := s.problems.map fun x => if x.id = p.id then { x with lane := some l } else x })

/-! ### Ends (R363 to R367) -/

/-- The problem runs, and waits for nothing. -/
def laneRuns (s : State) (p : Problem) : Bool :=
  (planeUp s || p.tag.isNone) && p.lane.isSome && (p.wait.map (waitOver s)).getD true

/-- The end of a problem whose data have been read. -/
def endOf (p : Problem) (d : LaneData) : LaneEnd :=
  if rejected p d then bareEnd 5 0 0 else solveWhole p d

def problemEnds (s : State) (p : Problem) (hs : List HostReply) : State :=
  match laneData s p hs with
  | (.inl (.fail code), _, s) => laneEnds s p (bareEnd code 0 0) false
  | (.inl why, _, s) => laneWaits s p why
  | (.inr d, _, s) => laneEnds s p (endOf p d) (p.bad || d.poison)

/-- `host`: what the host returns for arrays that lie in its memory, in the order of `laneArrays`. -/
def execProblemEnd (problem : Nat) (host : List HostReply) (s : State) : Res :=
  match findProblem s problem with
  | none => .next s
  | some p => whenDue (laneRuns s p) s (.next (problemEnds s p host))

/-- Divides and square roots of a factorization cut short, which R371 leaves open: at most those of the whole. -/
def cutIssues (s : State) (r : LaneEnd) : LaneEnd × State :=
  let (u, s) := drawWord s
  ({ r with issues := u.toNat % (r.issues + 1) }, s)

/-- R366: a problem is stopped by its deadline; none when it would have ended before. -/
def deadlineEnds (s : State) (p : Problem) (iters pivots : Nat) (checked : Bool) (hs : List HostReply) :
    Option State :=
  if iters = 0 && pivots = 0 && !checked then some (laneEnds s p (bareEnd 3 0 0) p.bad)
  else if p.lane.isNone then none
  else
    match laneData s p hs with
    | (.inr d, _, s) =>
      if rejected p d then none
      else
        (solveCut p d iters checked).bind fun r =>
          let begun := 0 < iters || checked
          if (begun && pivots = r.pivots) || (!begun && pivots ≤ r.pivots) then
            let (r, s) := if begun then (r, s) else cutIssues s { r with pivots := pivots }
            some (laneEnds s p r false)
          else none
    | _ => none

/-- `iters`: iterations performed; `checked`: the residual check of that iteration has been made; `pivots`: pivots
regularized so far; `host` as for the end of a problem. -/
def execDeadlineCheck (problem iters pivots : Nat) (checked : Bool) (host : List HostReply) (s : State) : Res :=
  match findProblem s problem with
  | none => .next s
  | some p =>
    match deadlineEnds s p iters pivots checked host with
    | none => .next s
    | some s' => whenDue (deadlineHit s p && (planeUp s || p.tag.isNone)) s (.next s')

/-! ### Failures (R351, Table 16.3) -/

/-- R370: a governor problem ends with no result when its cluster is marked failed: the governor falls back. -/
def dropGovernor (s : State) (k : Nat) : State :=
  let hit (p : Problem) : Bool := p.tag.isNone && (p.lane.map (·.1 == k)).getD false
  if s.problems.any hit then
    setFld { s with problems := s.problems.filter fun p => !hit p } .govLstat 0 0 0 0 1 0
  else s

/-- The problems on some lanes restart ahead of every waiting problem. -/
def restartOn (s : State) (on : Nat × Nat → Bool) : State :=
  let hit (p : Problem) : Bool := (p.lane.map on).getD false
  let s := (s.problems.filter hit).foldl (fun s p =>
    match p.lane with
    | some (k, _) => bump s .slvRestart k 0 0 1
    | none => s) s
  { s with problems := s.problems.map fun p =>
      if hit p then { p with lane := none, restart := true, wait := none } else p }

/-- A Solver Cluster is marked failed. -/
def failCluster (s : State) (k : Nat) : State :=
  govRefresh (restartOn (dropGovernor (setFld s .sbSlvfail 0 0 0 k 1 1) k) fun l => l.1 == k)

/-- Lanes of a cluster that are disabled. -/
def lanesOff (s : State) (k : Nat) : Nat := (List.range 32).countP fun l => spGet false (laneKey k l) s.laneOff

/-- The problem of the lane restarts elsewhere, and the lane is disabled until the next cold reset. -/
def laneError (s : State) (k l : Nat) : State :=
  let s := restartOn { s with laneOff := spSet false (laneKey k l) true s.laneOff } (· == (k, l))
  if 8 < lanesOff s k && !slvFailed s k then post (failCluster s k) .unitFenced 3 k none 0 0 else s

def execSolverLaneStoreError (cluster : Fin 4) (lane : Fin 32) (s : State) : Res :=
  whenDue (laneBusy s cluster.val lane.val) s (.next (laneError s cluster.val lane.val))

/-! ### Page responses (R444) -/

/-- The page of a request is translated again. -/
def dropPage (s : State) (q : PageReq) : State :=
  { s with dtcH := s.dtcH.filter fun h =>
      !(h.fn == q.fn && h.pasid == q.pasid && overlaps h.va h.size (4096 * q.page) 4096) }

def pageWait (q : PageReq) : WaitOn := .page q.fn q.pasid q.page

/-- The tags of streams halted on a page. -/
def pageWaiters (s : State) (q : PageReq) : List Nat :=
  s.tags.filterMap fun e =>
    match (e.2.cmd.bind (·.stream)).bind (·.halted) with
    | some (_, w) => if w == pageWait q then some e.1 else none
    | none => none

/-- SOLVEs at the front end, and problems on lanes, that wait on a page. -/
def failSolves (s : State) (q : PageReq) : State :=
  let s := (s.solveNet.filter fun e => e.2 == some (pageWait q)).foldl (fun s e =>
    fail (leaveFront s e.1) e.1 codeSegFault) s
  (s.problems.filter fun p => p.wait == some (pageWait q)).foldl (fun s p =>
    laneEnds s { p with wait := none } (bareEnd codeSegFault 0 0) false) s

/-- R444: accesses that wait on a page end with SEG_FAULT. -/
def failWaiters (s : State) (q : PageReq) : State :=
  let s := (pageWaiters s q).foldl (fun s t => failStream s t codeSegFault) s
  let s := (s.layers.filter fun l => l.halted == some (pageWait q)).foldl (fun s l => failLayer s l codeSegFault) s
  let s := (s.host.cmds.filter fun d => d.wait == some (pageWait q)).foldl (fun s d =>
    completeCmd (freeTransferTag s d) d codeSegFault d.moved 0) s
  failSolves s q

def prgResponse (s : State) (q : PageReq) (code : PrgCode) : State :=
  let s := { s with priOut := s.priOut.filter (· != q) }
  match code with
  | .success => dropPage s q
  | .invalid => failWaiters s q
  | .failure =>
    let s := { s with host := { s.host with priFailed := spSet false q.fn true s.host.priFailed } }
    failWaiters (post s .priFailed 7 q.fn none q.fn 0) q

/-- `group`: the Page Request Group Index of the answered request. -/
def execPrgResponse (fn : Fin 64) (group : Nat) (code : PrgCode) (s : State) : Res :=
  match s.priOut.find? fun q => q.fn == fn.val && q.group == group with
  | none => .next s
  | some q => .next (prgResponse s q code)

end Sys2Proof.Machine
end

