-- ==== Sys2Proof/Machine/Stationmaster.lean ====
section
/-! DEFINITION. The Stationmaster and the Sage governor: management commands, firmware update, telemetry and thermal limits,
the governor cycle, its results and its fallback (spec/15). -/

namespace Sys2Proof.Machine

def setSm (s : State) (x : SmSt) : State := { s with sm := x }

/-! ### Interfaces (R570 to R576) -/

/-- The two interfaces. -/
inductive Iface where
  | smb | mbox
  deriving DecidableEq, Repr

/-- What a management command answers: its result, the bytes after it, and its effect. -/
abbrev MgmtRes := Nat × List Byte × State

/-- Table 15.5. -/
def resOk : Nat := 0
def resBadCmd : Nat := 1
def resBadArg : Nat := 2
def resBusy : Nat := 3
def resVerifyFail : Nat := 4
def resRollback : Nat := 5
def resNotStaged : Nat := 6
def resDenied : Nat := 7
def resBadPec : Nat := 8

/-- The management plane is powered and out of reset. -/
def mgmtAlive (s : State) : Bool := !s.power.por

/-- Table 15.1: is a command served in the present state? -/
def served (s : State) (code : Nat) : Bool :=
  match s.sm.st with
  | 2 | 3 => true
  | 5 => code == 1 || code == 2 || (0x20 ≤ code && code ≤ 0x24)
  | _ => code == 1 || code == 2

/-- The bytes that the mailbox holds (SM_MBOXCMD). -/
def mboxBytes (s : State) : List Byte :=
  (List.range 64).flatMap fun i => leBytes 4 (regFld s .smMboxcmd 0 i 0 0 32)

/-- Write bytes to SM_MBOXRSP, from word `i` on; `n` words at most. -/
def mboxAnswer (bs : List Byte) : Nat → Nat → State → State
  | 0, _, s => s
  | n + 1, i, s =>
    if bs.length ≤ 4 * i then s
    else mboxAnswer bs n (i + 1) (setReg s .smMboxrsp 0 i 0 (BitVec.ofNat 64 (leNat ((bs.drop (4 * i)).take 4))))

/-- R572, R576: the response is written to its interface. -/
def respond (w : Iface) (r : MgmtRes) : State :=
  let (res, bs, s) := r
  let bytes := BitVec.ofNat 8 res :: (if res = resOk then bs else [])
  match w with
  | .smb => setSm s { s.sm with rsp := bytes }
  | .mbox =>
    let s := mboxAnswer bytes 64 0 (setSm s { s.sm with mbox := false })
    let s := setFld (setFld s .smMboxstat 0 0 0 1 1 1) .smMboxstat 0 0 0 8 8 res
    let v := regFld s .smMboxvec 0 0 0 0 5
    if v = 0 then s else sendVector s v

/-- A command with its request bytes at an interface, in its turn. -/
def runMgmt (w : Iface) (code len : Nat) (body : Iface → List Byte → State → MgmtRes) (req : List Byte) (s : State) :
    State :=
  respond w
    (if !served s code then (resBadCmd, [], s)
     else if len != 0 && req.length != len then (resBadArg, [], s)
     else body w req s)

/-! ### The commands of Table 15.4 -/

/-- Table 0.1: the variant's board power limit in W. -/
def boardLimit : Variant → Nat
  | .og4H1 => 420 | .og4H2 => 450 | .og6H2 => 540 | .og8H4 => 720

def mgmtIdent (_ : Iface) (_ : List Byte) (s : State) : MgmtRes :=
  (resOk, leBytes 1 (stackCount s.variant) ++ leBytes 1 (ioDies s.variant) ++ leBytes 1 0x21
    ++ leBytes 1 (0x60 + regFld s .smStraps 0 0 0 0 3) ++ leBytes 8 s.nv.serial ++ leBytes 4 s.sm.version
    ++ leBytes 2 (boardLimit s.variant), s)

/-- R629: the records ahead of an interface's cursor: those of earlier boots, and those of this one. -/
def unreadOld (s : State) (w : Iface) : List LogRec :=
  s.log.old.drop (match w with
    | .smb => s.log.oldSmbus
    | .mbox => s.log.oldMbox)

def unreadNew (s : State) (w : Iface) : List LogRec :=
  let cur := match w with
    | .smb => s.log.curSmbus
    | .mbox => s.log.curMbox
  (s.log.spill ++ s.log.central).filter fun r => cur ≤ r.seq

def oldestOf : List LogRec → Option LogRec
  | [] => none
  | r :: rs =>
    match oldestOf rs with
    | some x => some (if x.seq < r.seq then x else r)
    | none => some r

/-- SM_STATUS[7:0]: STATE. -/
def mgmtStatus (_ : Iface) (_ : List Byte) (s : State) : MgmtRes :=
  (resOk, leBytes 1 s.sm.st ++ leBytes 1 (regFld s .govStatus 0 0 0 0 2) ++ leBytes 1 (regFld s .ttStatus 0 0 0 0 8)
    ++ leBytes 1 ((unreadOld s .smb ++ unreadNew s .smb).any fun r => 3 ≤ r.sev).toNat, s)

def govClk (s : State) (q : Nat) : Nat := regFld s .govQclk 0 q 0 0 11

/-- Board power in mW. -/
def boardPower (s : State) : Nat := s.sm.coreMw.sum + s.sm.railMw

def mgmtTelemetry (_ : Iface) (_ : List Byte) (s : State) : MgmtRes :=
  (resOk, (s.sm.temps.flatMap fun t => leBytes 2 (unsignedOf 16 t)) ++ leBytes 2 (unsignedOf 16 s.sm.hbmTemp)
    ++ leBytes 4 (boardPower s) ++ (List.range 4).flatMap fun q => leBytes 2 (govClk s q), s)

/-- Table 16.6a: the bytes of a record. -/
def recBytes (r : LogRec) : List Byte :=
  leBytes 2 r.code ++ leBytes 1 (r.sev + 8 * r.plane + (if r.ctx.isSome then 32 else 0)) ++ leBytes 1 (r.ctx.getD 0)
    ++ leBytes 4 r.seq ++ leBytes 8 r.time ++ leBytes 2 r.unit ++ leBytes 2 r.count ++ leBytes 4 r.arg
    ++ leBytes 8 r.addr

def markRead (q : Nat) (l : LogSt) : LogSt :=
  { l with central := l.central.map fun r => if r.seq = q then { r with read := true } else r }

/-- A cursor passes a record of an earlier boot, or of this one. -/
def passOld (l : LogSt) : Iface → LogSt
  | .smb => { l with oldSmbus := l.oldSmbus + 1 }
  | .mbox => { l with oldMbox := l.oldMbox + 1 }

def passNew (l : LogSt) (q : Nat) : Iface → LogSt
  | .smb => { markRead q l with curSmbus := q + 1 }
  | .mbox => { markRead q l with curMbox := q + 1 }

/-- R629. -/
def mgmtReadLog (w : Iface) (_ : List Byte) (s : State) : MgmtRes :=
  match unreadOld s w with
  | r :: _ => (resOk, recBytes r, { s with log := passOld s.log w })
  | [] =>
    match oldestOf (unreadNew s w) with
    | none => (resOk, [], s)
    | some r => (resOk, recBytes r, { s with log := passNew s.log r.seq w })

def mgmtSetTod (_ : Iface) (req : List Byte) (s : State) : MgmtRes := (resOk, [], takeTod s (leNat req))

/-- R574. -/
def mgmtSetCap (w : Iface) (req : List Byte) (s : State) : MgmtRes :=
  let c := leNat req
  if 1 ≤ c && c ≤ 199 then (resBadArg, [], s)
  else (resOk, [], setSm s (match w with
    | .smb => { s.sm with capBoard := c }
    | .mbox => { s.sm with capHost := c }))

/-- R575: at the next cycle boundary. -/
def mgmtGovCtl (_ : Iface) (req : List Byte) (s : State) : MgmtRes :=
  match leNat req with
  | 0 => (resOk, [], setSm s { s.sm with govWant := false })
  | 1 => (resOk, [], setSm s { s.sm with govWant := true })
  | _ => (resBadArg, [], s)

def mgmtGovTarget (_ : Iface) (req : List Byte) (s : State) : MgmtRes :=
  (resOk, [], setSm s { s.sm with targetWant := leNat req })

/-! ### Firmware update (R596 to R600, R693) -/

/-- The slot that is not active. -/
def stagingSlot (s : State) : Nat := 1 - s.nv.active

/-- Bytes enter the inactive slot; the update is STAGING. -/
def stageBytes (s : State) (o : Nat) (bs : List Byte) : State :=
  let k := stagingSlot s
  let nv := setSlotImage s.nv k (memWrite (slotImage s.nv k) o bs)
  setSm { s with nv := nv } { s.sm with upd := 1, st := if s.sm.st = 2 then 3 else s.sm.st }

/-- SMBus names an offset in the slot; the mailbox names an image in device memory, which goes to the start of the slot. -/
def mgmtFwStage (w : Iface) (req : List Byte) (s : State) : MgmtRes :=
  if s.sm.upd = 3 then (resBadCmd, [], s)
  else
    match w with
    | .smb =>
      let o := leNat (req.take 4)
      if req.length < 5 || 32 < req.length || 4 * 2 ^ 20 < o + (req.length - 4) then (resBadArg, [], s)
      else (resOk, [], stageBytes s o (req.drop 4))
    | .mbox =>
      let a := leNat (req.take 8)
      let n := leNat ((req.drop 8).take 4)
      if 4 * 2 ^ 20 < n then (resBadArg, [], s)
      else if installed s.variant < a + n then (resDenied, [], s)
      else
        let (bs, s) := privRead s a n
        (resOk, [], stageBytes s 0 bs)

/-- An update state, with READY or UPDATING as Table 15.1 has it. -/
def setUpd (s : State) (u : Nat) : State :=
  setSm s { s.sm with upd := u, st := if smWorks s then (if u = 1 then 3 else 2) else s.sm.st }

/-- R597. -/
def mgmtFwVerify (c : ImgChk) (_ : Iface) (_ : List Byte) (s : State) : MgmtRes :=
  if s.sm.upd != 1 && s.sm.upd != 2 then (resNotStaged, [], s)
  else
    let m := slotImage s.nv (stagingSlot s)
    match imageRule s.nv m c with
    | 0 => (resOk, leBytes 4 (imgVersion m), let t := setUpd s 2; setSm t { t.sm with staged := imgVersion m })
    | 4 => (resRollback, [], setUpd s 0)
    | _ => (resVerifyFail, [], setUpd s 0)

/-- R578: the setpoint for a clock. -/
def setVolt (s : State) (q mhz : Nat) : State := setFld s .govQvolt 0 q 0 0 11 (Config.vfTable q mhz).toNat

def setClk (s : State) (q mhz : Nat) : State := setFld s .govQclk 0 q 0 0 11 mhz

def fbClk (s : State) : Nat := regFld s .govCfg 0 0 0 0 11

def setAllot (s : State) (q mw : Nat) : State := setFld s .govAllot 0 q 0 0 20 mw

/-- R579: a clock that falls, then its voltage and allotment. -/
def lowerTo (s : State) (q mhz mw : Nat) : State :=
  if mhz < govClk s q then setAllot (setVolt (setClk s q mhz) q mhz) q mw else s

/-- R598, step 1. -/
def clocksToFallback (s : State) (allot : List Nat) : State :=
  (List.range 4).foldl (fun s q => lowerTo s q (fbClk s) (allot.getD q 0)) s

/-- R598. In RECOVERY the image boots as after a cold reset (R694), unless the other planes run, which it does not stop
(R31). `allot`: power of each quadrant at its clock. -/
def mgmtFwActivate (allot : List Nat) (_ : Iface) (_ : List Byte) (s : State) : MgmtRes :=
  if s.sm.upd != 2 then (resNotStaged, [], s)
  else if s.sm.st = 5 && !firmwareReady s then
    (resOk, [], let t := bootStart (setDir s (stagingSlot s) 1); setSm t { t.sm with upd := 0 })
  else
    let s := setDir (clocksToFallback s allot) (stagingSlot s) 1
    (resOk, [], setSm s { s.sm with st := 4, restart := .activation, solving := false })

/-- R693. -/
def mgmtFwConfirm (_ : Iface) (_ : List Byte) (s : State) : MgmtRes :=
  if s.sm.upd != 3 then (resBadCmd, [], s)
  else
    let n := max s.nv.arb (imgSvn (slotImage s.nv s.sm.image))
    let s := setDir s s.nv.active 0
    (resOk, leBytes 4 n, setUpd { s with nv := { s.nv with arb := n } } 0)

def mgmtFwStatus (_ : Iface) (_ : List Byte) (s : State) : MgmtRes :=
  (resOk, leBytes 1 s.sm.upd ++ leBytes 4 s.sm.version ++ leBytes 4 s.sm.staged, s)

/-! ### Arrival (R571, R572, R575) -/

/-- The command of a code, with the length of its request (0 for those that check their own or have none). FW_VERIFY and
FW_ACTIVATE act on what only their own rows name, and so never wait here. -/
def mgmtByCode (code : Nat) : Option (Nat × (Iface → List Byte → State → MgmtRes)) :=
  match code with
  | 0x01 => some (0, mgmtIdent)
  | 0x02 => some (0, mgmtStatus)
  | 0x03 => some (0, mgmtTelemetry)
  | 0x04 => some (0, mgmtReadLog)
  | 0x10 => some (6, mgmtSetTod)
  | 0x11 => some (2, mgmtSetCap)
  | 0x12 => some (1, mgmtGovCtl)
  | 0x13 => some (4, mgmtGovTarget)
  | 0x20 => some (0, mgmtFwStage)
  | 0x23 => some (0, mgmtFwConfirm)
  | 0x24 => some (0, mgmtFwStatus)
  | _ => none

/-- After a mailbox command, the SMBus command that waited for it (R575). -/
def runWaiting (s : State) : State :=
  match s.sm.smbusPend with
  | none => s
  | some (code, req) =>
    let s := setSm s { s.sm with smbusPend := none }
    match mgmtByCode code with
    | some (len, body) => runMgmt .smb code len body req s
    | none => respond .smb (resBadCmd, [], s)

/-- A Block Write. In RESTARTING the target does not acknowledge (R576); a wrong PEC discards the command, and one without
PEC is accepted for 0x01 to 0x04 only (R571). -/
def smbusWrite (s : State) (code len : Nat) (body : Iface → List Byte → State → MgmtRes) (pec : Pec) (req : List Byte) :
    State :=
  if s.sm.st = 4 then s
  else if pec = .bad then setSm s { s.sm with rsp := [BitVec.ofNat 8 resBadPec] }
  else if pec = .absent && 4 < code then s
  else if s.sm.smbusPend.isSome then s
  else if s.sm.mbox then setSm s { s.sm with smbusPend := some (code, req) }
  else runMgmt .smb code len body req s

/-- A mailbox command that has been started is the one in byte 0, and runs. -/
def mboxDue (s : State) (code : Nat) : Bool :=
  s.sm.mbox && s.sm.st != 4 && leNat ((mboxBytes s).take 1) == code

/-- A management command at either interface; the mailbox takes `len` request bytes after byte 0, or 12 for FW_STAGE. -/
def mgmt (s : State) (via : Via) (code len : Nat) (body : Iface → List Byte → State → MgmtRes) : Res :=
  match via with
  | .smbus pec req => whenDue (mgmtAlive s) s (.next (smbusWrite s code len body pec req))
  | .mailbox =>
    let n := if code = 0x20 then 12 else len
    whenDue (mgmtAlive s && mboxDue s code) s
      (.next (runWaiting (runMgmt .mbox code len body (((mboxBytes s).drop 1).take n) s)))

def execIdent (via : Via) (s : State) : Res := mgmt s via 0x01 0 mgmtIdent
def execStatus (via : Via) (s : State) : Res := mgmt s via 0x02 0 mgmtStatus
def execTelemetry (via : Via) (s : State) : Res := mgmt s via 0x03 0 mgmtTelemetry
def execReadLog (via : Via) (s : State) : Res := mgmt s via 0x04 0 mgmtReadLog
def execSetTod (via : Via) (s : State) : Res := mgmt s via 0x10 6 mgmtSetTod
def execSetCap (via : Via) (s : State) : Res := mgmt s via 0x11 2 mgmtSetCap
def execGovCtl (via : Via) (s : State) : Res := mgmt s via 0x12 1 mgmtGovCtl
def execGovTarget (via : Via) (s : State) : Res := mgmt s via 0x13 4 mgmtGovTarget
def execFwStage (via : Via) (s : State) : Res := mgmt s via 0x20 0 mgmtFwStage

/-- A command that cannot wait behind the mailbox. -/
def notBehind (s : State) (via : Via) : Bool :=
  match via with
  | .smbus _ _ => !s.sm.mbox
  | .mailbox => true

def execFwVerify (via : Via) (chk : ImgChk) (s : State) : Res :=
  whenDue (notBehind s via) s (mgmt s via 0x21 0 (mgmtFwVerify chk))

/-- Step 2 of R598: the reserved lane's problem has ended. -/
def execFwActivate (via : Via) (allot : List Nat) (s : State) : Res :=
  whenDue (notBehind s via && !regBit s .govLstat 0 0 0 0) s (mgmt s via 0x22 0 (mgmtFwActivate allot))

def execFwConfirm (via : Via) (s : State) : Res := mgmt s via 0x23 0 mgmtFwConfirm
def execFwStatus (via : Via) (s : State) : Res := mgmt s via 0x24 0 mgmtFwStatus

/-- What the SMBus target returns. -/
def smbusReturn (s : State) (bs : List Byte) : State :=
  if s.sm.st = 4 then s else setSm s { s.sm with out := s.sm.out ++ [bs] }

/-- R703. -/
def execBootStatusRead (s : State) : Res :=
  whenDue (mgmtAlive s) s (.next (smbusReturn s (leBytes 4 (bootWord s))))

/-- R572. -/
def execResponseRead (s : State) : Res :=
  whenDue (mgmtAlive s) s
    (.next (smbusReturn s (if s.sm.smbusPend.isSome then [BitVec.ofNat 8 resBusy] else s.sm.rsp)))

/-- Codes that Table 15.4 has. -/
def mgmtKnown (code : Nat) : Bool := (mgmtByCode code).isSome || code == 0x21 || code == 0x22

/-- R576: GO. A GO while the mailbox command runs, and in RESTARTING, is discarded. -/
def mailboxGo (s : State) : State :=
  if s.sm.st = 4 || s.sm.mbox then s
  else if mgmtKnown (leNat ((mboxBytes s).take 1)) then setSm s { s.sm with mbox := true }
  else respond .mbox (resBadCmd, [], s)

def execSmMboxdb (go : Bool) (s : State) : Res := .next (if hostHere s && go then mailboxGo s else s)

/-! ### Restarts (R566, R599, R600) -/

/-- Every unread record that waits to be spilled moves, now that the Stationmaster works again (R599, R627). -/
def spillDown : Nat → LogSt → LogSt
  | 0, l => l
  | n + 1, l => spillDown n (logSpill true l)

/-- The Stationmaster restarts. -/
def smRestart (s : State) (why : Restart) : State :=
  setSm s { s.sm with st := 4, restart := why, mbox := false, smbusPend := none, solving := false }

/-- The watchdog expires: READY and UPDATING restart with the current image, and the other planes run on (R31, R566); a boot
that is not firmware-ready runs the ROM again, and a confirmed image starts from phase 0; in RESTARTING the ROM that had
started its image runs once more (R600). -/
def watchdog (s : State) (a b : ImgChk) : State :=
  let s := post s .smWatchdog 10 0 none 0 0
  if s.sm.st = 4 then
    let s := bootRom s a b
    if romStarted s then setSm s { s.sm with st := 4, restart := .watchdog } else s
  else if firmwareReady s then smRestart s .watchdog
  else bootStart s

/-- `a` and `b`: what R691 finds of the images in the two slots. -/
def execWatchdogExpiry (a b : ImgChk) (s : State) : Res :=
  whenDue (mgmtAlive s && (smWorks s || s.sm.st == 1 || s.sm.st == 4)) s (.next (watchdog s a b))

/-- The ROM has run and its image is READY: a trial starts, or the requests that waited are served. -/
def smReady (s : State) (a b : ImgChk) : State :=
  let s := bootRom s a b
  if !romStarted s then s
  else
    let s := setSm s { s.sm with st := 2, restart := .none }
    let s := setUpd s (if s.nv.dirPending = 2 then 3 else s.sm.upd)
    govRefresh { s with log := spillDown s.log.central.length s.log }

def execStationmasterReady (a b : ImgChk) (s : State) : Res :=
  whenDue (mgmtAlive s && s.sm.st == 4) s (.next (smReady s a b))

/-! ### Caps and the budget (R574, *The model*) -/

/-- The lowest of the caps that are present. -/
def effectiveCap (s : State) : Nat :=
  let f (c m : Nat) : Nat := if c = 0 then m else min c m
  f s.sm.capBoard (f s.sm.capHost (boardLimit s.variant))

/-- The quadrant budget B, in mW. -/
def budget (s : State) : Nat :=
  let derate := if s.sm.hbmHot then regFld s .govLimits 0 0 0 0 8 * 1000 else 0
  effectiveCap s * 1000 - s.sm.railMw - derate

/-! ### AVSBus (R577 to R579) -/

def stuck (s : State) (q : Nat) : Bool := regBit s .govStatus 0 0 0 (16 + q)

/-- A transaction to a quadrant's rail: two failures in a row mark it stuck, and a success clears the mark. -/
def avsResult (s : State) (q : Nat) (ok : Bool) : State :=
  let n := if ok then 0 else s.sm.avsFails.getD q 0 + 1
  let s := setSm s { s.sm with avsFails := s.sm.avsFails.set q n }
  if ok then setFld s .govStatus 0 0 0 (16 + q) 1 0
  else if n = 2 then post (setFld s .govStatus 0 0 0 (16 + q) 1 1) .vregFault 10 0 none q 0
  else s

/-- A transaction with one repetition when it fails. -/
def avsTry (s : State) (q : Nat) (ok : Bool) : State :=
  if ok then avsResult s q true else avsResult (avsResult s q false) q false

/-! ### Submitting on the reserved lane (R594, R595) -/

/-- R595, R688: a write to GOV_LSUBMIT is refused. -/
def lsubmitRefused (s : State) : Bool :=
  regBit s .govLstat 0 0 0 0 || !laneReserved s || s.power.warm || s.power.dataPlane

/-- END is written at once for a descriptor that breaks Table 9.1: REJECTED (0x05), since no SOLVE is there to return
BAD_DESCRIPTOR and the spec names no end code (DESIGN CHOICE, log 28). -/
def govSubmit (s : State) (o : Nat) : State :=
  if lsubmitRefused s then
    setFld s .govLstat 0 0 0 2 1 1
  else
    let b := memRead s.govWin o 128
    let p := { problemOf b s.nextProblem none 0 0 true false (govBase + o) 0 with lane := some (0, 31) }
    let s := setFld (setFld s .govLsubmit 0 0 0 0 16 o) .govLstat 0 0 0 0 1 1
    let s := { s with problems := s.problems ++ [p], nextProblem := s.nextProblem + 1 }
    if govSize < o + 192 then laneEnds s p (bareEnd codeSegFault 0 0) false
    else if descCommon b && descKind b then s
    else laneEnds s p (bareEnd 5 0 0) false

/-- The Stationmaster writes GOV_LSUBMIT; its offset is a multiple of 64 (Table 15.11, R15). -/
def execGovLsubmit (offset : BitVec 16) (s : State) : Res :=
  whenDue (smWorks s) s
    (.next (if lsubmitRefused s || offset.toNat % 64 = 0 then govSubmit s offset.toNat
      else post s .rangeRefused 10 0 none 0 (regAddr .govLsubmit 0 0 0)))

/-! ### The cycle (R582, R583, R586) -/

def nsOf (x : Snap) : Nat := x.sec * 1000000000 + x.ns

/-- A count of ns of global time as a time operand. -/
def opOfNs (n : Nat) : Nat := n / 1000000000 % 2 ^ 34 * 2 ^ 30 + n % 1000000000

/-- The last cycle boundary. -/
def boundary (s : State) : Nat := nsOf s.now / 250000 * 250000

/-- The Dispatcher posts RATE_TALLY and starts a new count. -/
def rateTally (s : State) : State :=
  let t (q : Nat) : Nat := s.sm.tally.getD q 0 % 65536
  let s := if planeUp s then post s .rateTally 8 0 none (t 0 + 65536 * t 1) (t 2 + 65536 * t 3) else s
  setSm s { s.sm with tally := [0, 0, 0, 0] }

/-- R586: the bytes of the descriptor. -/
def govDescriptor (g : GovWrite) (deadline : Nat) : List Byte :=
  let a (o : BitVec 16) : List Byte := leBytes 8 (govBase + o.toNat)
  let f (n : Num) : List Byte := leBytes 8 (fBits n).toNat
  leBytes 1 (1 + 16 * fmtCode .fp64) ++ leBytes 1 3 ++ leBytes 2 30 ++ leBytes 2 90 ++ leBytes 2 100 ++ leBytes 8 deadline
    ++ a g.addrA ++ a g.addrQ ++ a g.addrX ++ a g.addrP ++ a g.addrL ++ a g.addrU ++ a g.addrY
    ++ f (.fin false 1 (-1)) ++ f (.fin false 1 (-16)) ++ f (.fin false 3 (-1)) ++ f (.fin false 1 (-12))
    ++ f (.fin false 1 (-8)) ++ f fZero ++ leBytes 2 10 ++ leBytes 6 0

/-! ### The program (R585) -/

def natNum (n : Nat) : Num := .fin false n 0
def intNum (n : Int) : Num := .fin (decide (n < 0)) n.natAbs 0

/-- The model at a cycle's start (*The model*): clocks in GHz, measured powers in W, slopes of the power, temperatures in
°C now and at the last boundary, and the constants. -/
structure GovFit where
  f : List Num
  b : List Num
  c : List Num
  alpha : List Num
  /-- Rows of R. -/
  r : List (List Num)
  power : List Num
  slope : List Num
  temp : List Num
  theta : List Num
  g : List Num
  ws : Num
  wd : Num
  deriving DecidableEq, Repr

/-- The quadrants' values of a function. -/
def quads (f : Nat → Num) : List Num := (List.range 4).map f

/-- The sum of four terms, in ascending quadrant. -/
def quadSum (f : Nat → Num) : Num := (List.range 4).foldl (fun s q => fAdd s (f q)) fZero

/-- Degrees from a count of 1/16 °C. -/
def degrees (n : Int) : Num := fDiv (intNum n) (natNum 16)

/-- The re-fit of g: 4 times the tally, per GHz; kept when nothing completed. -/
def govWork (s : State) (tally : List Nat) : List W64 :=
  (List.range 4).map fun q =>
    let n := tally.getD q 0
    if n = 0 then s.sm.govG.getD q 0#64
    else fBits (fDiv (natNum (4 * n)) (fDiv (natNum (govClk s q)) (natNum 1000)))

/-- θ, so that one step from the last boundary's temperature with the measured powers gives the measured temperature
(DESIGN CHOICE, log 28). -/
def govTheta (alpha now before load : Num) : Num :=
  fSub (fDiv (fSub now (fMul alpha before)) (fSub fOne alpha)) load

/-- The snapshot and the fitted model. -/
def govFit (s : State) (m : GovModel) : GovFit :=
  let at_ (v : List W64) (q : Nat) : Num := fOf (v.getD q 0#64)
  let f := quads fun q => fDiv (natNum (govClk s q)) (natNum 1000)
  let power := quads fun q => fDiv (natNum (s.sm.coreMw.getD q 0)) (natNum 1000)
  let r := (List.range 4).map fun q => quads fun p => at_ m.r (4 * q + p)
  let temp := quads fun q => degrees (s.sm.temps.getD q 0)
  { f := f, b := quads (at_ m.b), c := quads (at_ m.c), alpha := quads (at_ m.alpha), r := r, power := power,
    slope := quads fun q => fAdd (at_ m.b q) (fMul (fMul (natNum 2) (at_ m.c q)) (fAt f q)),
    temp := temp,
    theta := quads fun q =>
      govTheta (at_ m.alpha q) (fAt temp q) (degrees (s.sm.govT.getD q (s.sm.temps.getD q 0)))
        (quadSum fun p => fMul (fAt (r.getD q []) p) (fAt power p)),
    g := quads (at_ s.sm.govG), ws := fOf m.ws, wd := fOf m.wd }

/-- Places of f of quadrant `q` at step `k + 1`, and of s at that step, in x. -/
def fVar (q k : Nat) : Nat := 4 * k + q
def sVar (k : Nat) : Nat := 24 + k

/-- A row with the given entries. -/
def govRow (es : List (Nat × Num)) : List Num := es.foldl (fun r e => r.set e.1 e.2) (List.replicate 30 fZero)

/-- A row of the constraints with its bounds. -/
abbrev GovRow := List Num × Num × Num

/-- Each quadrant at each step, step by step. -/
def quadSteps : List (Nat × Nat) := (List.range 6).flatMap fun k => (List.range 4).map fun q => (q, k)

/-- 600 MHz under throttle, the present clock of a stuck rail, else 1,800 MHz: F of a quadrant. -/
def clkLimit (s : State) (q : Nat) : Nat :=
  if s.sm.throttle.getLsbD q then 600 else if stuck s q then govClk s q else 1800

def ghz (mhz : Nat) : Num := fDiv (natNum mhz) (natNum 1000)

def clockRows (s : State) : List GovRow :=
  quadSteps.map fun e => (govRow [(fVar e.1 e.2, fOne)], ghz 600, ghz (clkLimit s e.1))

def slewRows (x : GovFit) : List GovRow :=
  quadSteps.map fun (q, k) =>
    let w := ghz 200
    if k = 0 then (govRow [(fVar q 0, fOne)], fSub (fAt x.f q) w, fAdd (fAt x.f q) w)
    else (govRow [(fVar q k, fOne), (fVar q (k - 1), numNeg fOne)], numNeg w, w)

/-- The constant part of the linearized power of a quadrant. -/
def powerRest (x : GovFit) (q : Nat) : Num := fSub (fAt x.power q) (fMul (fAt x.slope q) (fAt x.f q))

def powerRows (s : State) (x : GovFit) : List GovRow :=
  (List.range 6).map fun k =>
    (govRow ((List.range 4).map fun q => (fVar q k, fAt x.slope q)), .inf true,
     fSub (fDiv (natNum (budget s)) (natNum 1000)) (quadSum (powerRest x)))

/-- The power of a value, by repeated products. -/
def numPow (a : Num) (n : Nat) : Num := (List.range n).foldl (fun p _ => fMul p a) fOne

/-- The weight in T at step `k + 1` of what enters at step `j + 1`. -/
def heatWeight (x : GovFit) (q k j : Nat) : Num :=
  fMul (fSub fOne (fAt x.alpha q)) (numPow (fAt x.alpha q) (k - j))

/-- The temperature rows: T at a step is affine in the clocks up to it. -/
def heatRows (s : State) (x : GovFit) : List GovRow :=
  quadSteps.map fun (q, k) =>
    let r := x.r.getD q []
    let rest := fAdd (fAt x.theta q) (quadSum fun p => fMul (fAt r p) (powerRest x p))
    let base := (List.range (k + 1)).foldl (fun t j => fAdd t (fMul (heatWeight x q k j) rest))
      (fMul (numPow (fAt x.alpha q) (k + 1)) (fAt x.temp q))
    (govRow ((List.range (k + 1)).flatMap fun j => (List.range 4).map fun p =>
      (fVar p j, fMul (heatWeight x q k j) (fMul (fAt r p) (fAt x.slope p)))),
     .inf true, fSub (natNum (regFld s .govCfg 0 0 0 24 8)) base)

def rateRows (s : State) (x : GovFit) : List GovRow :=
  (List.range 6).map fun k =>
    (govRow ((sVar k, fOne) :: (List.range 4).map fun q => (fVar q k, fAt x.g q)),
     if s.sm.target = 0 then .inf true else fDiv (natNum s.sm.target) (natNum 1000), .inf false)

def shortRows : List GovRow := (List.range 6).map fun k => (govRow [(sVar k, fOne)], fZero, .inf false)

/-- Table 15.8: the 90 rows, part by part (DESIGN CHOICE, log 28). -/
def govRows (s : State) (x : GovFit) : List GovRow :=
  clockRows s ++ slewRows x ++ powerRows s x ++ heatRows s x ++ rateRows s x ++ shortRows

/-- Δt in seconds. -/
def govStep : Num := fDiv (natNum 1) (natNum 4000)

/-- The rows of P: twice the squares of the objective. -/
def govP (x : GovFit) : List (List Num) :=
  let wd2 := fMul (natNum 2) x.wd
  quadSteps.map (fun (q, k) =>
      let d := fAdd (fMul (fMul (natNum 2) govStep) (fAt x.c q)) (if k < 5 then fMul (natNum 2) wd2 else wd2)
      govRow ((fVar q k, d) :: (if 0 < k then [(fVar q (k - 1), numNeg wd2)] else [])
        ++ (if k < 5 then [(fVar q (k + 1), numNeg wd2)] else [])))
    ++ (List.range 6).map fun k => govRow [(sVar k, fMul (natNum 2) x.ws)]

/-- The linear part of the objective. -/
def govQ (x : GovFit) : List Num :=
  govRow (quadSteps.map fun (q, k) =>
    let e := fMul govStep (fAt x.b q)
    (fVar q k, if k = 0 then fSub e (fMul (fMul (natNum 2) x.wd) (fAt x.f q)) else e))

/-- A part of a vector with `w` entries for each of six steps, shifted by one step; the last repeats (DESIGN CHOICE, log
28). -/
def shiftPart (w : Nat) (v : List W64) : List W64 := v.drop w ++ v.drop (5 * w)

/-- The parts of y follow those of the rows. -/
def shiftX (v : List W64) : List W64 := shiftPart 4 (v.take 24) ++ shiftPart 1 (v.drop 24)
def shiftY (v : List W64) : List W64 :=
  shiftPart 4 (v.take 24) ++ shiftPart 4 ((v.drop 24).take 24) ++ shiftPart 1 ((v.drop 48).take 6)
    ++ shiftPart 4 ((v.drop 54).take 24) ++ shiftPart 1 ((v.drop 78).take 6) ++ shiftPart 1 (v.drop 84)

def wordBytes (v : List W64) : List Byte := v.flatMap fun w => leBytes 8 w.toNat
def numBytes (v : List Num) : List Byte := wordBytes (v.map fBits)

/-- The arrays of the window, with their offsets. -/
def govArrays (s : State) (g : GovWrite) : List (Nat × List Byte) :=
  let x := govFit s g.model
  let rows := govRows s x
  [(g.addrA.toNat, numBytes (rows.flatMap (·.1))), (g.addrQ.toNat, numBytes (govQ x)),
   (g.addrX.toNat, wordBytes (shiftX s.sm.govX)), (g.addrP.toNat, numBytes (govP x).flatten),
   (g.addrL.toNat, numBytes (rows.map (·.2.1))), (g.addrU.toNat, numBytes (rows.map (·.2.2))),
   (g.addrY.toNat, wordBytes (shiftY s.sm.govY))]

/-- The arrays and the descriptor are written into the window. -/
def govWindow (s : State) (g : GovWrite) (deadline : Nat) : State :=
  let m := (govArrays s g).foldl (fun m e => memWrite m e.1 e.2) s.govWin
  { s with govWin := memWrite m g.offset.toNat (govDescriptor g deadline) }

/-- The descriptor and the arrays, as places in the window. -/
def govPlaces (g : GovWrite) : List (Nat × Nat) :=
  [(g.offset.toNat, 192), (g.addrA.toNat, 21600), (g.addrQ.toNat, 240), (g.addrX.toNat, 240), (g.addrP.toNat, 7200),
   (g.addrL.toNat, 720), (g.addrU.toNat, 720), (g.addrY.toNat, 720)]

/-- Every place lies in the window, apart from the others. -/
def govWindowOk (g : GovWrite) : Bool :=
  g.offset.toNat % 64 == 0 && (govPlaces g).zipIdx.all fun e =>
    e.1.1 % 8 == 0 && e.1.1 + e.1.2 ≤ govSize
      && ((govPlaces g).drop (e.2 + 1)).all fun f => !overlaps e.1.1 e.1.2 f.1 f.2

/-- A cycle of an enabled governor: the model is fitted and the program is submitted, unless the lane still runs a
data-plane problem (R370). -/
def govCycle (s : State) (b : Nat) (g : GovWrite) (tally : List Nat) : State :=
  let s := bump s .govCycles 0 0 0 1
  let s := setSm s { s.sm with solving := true, govG := govWork s tally }
  let s := setFld (setFld s .govLstat 0 0 0 1 1 0) .govLstat 0 0 0 2 1 0
  let s := govWindow s g (opOfNs (b + 200000))
  if s.problems.any fun p => p.lane == some (0, 31) && p.tag.isSome then s else govSubmit s g.offset.toNat

/-- The Stationmaster's part of a boundary: GOV_CTL and GOV_TARGET take effect, VDD_CORE is read, and a cycle runs, or is
skipped after a step (R583). `avs`: the quadrants whose AVSBus reads fail. -/
def govBoundary (s : State) (b : Nat) (g : GovWrite) (coreMw : List Nat) (avs : BitVec 4) (tally : List Nat) : State :=
  let keep (s : State) : State := setSm s { s.sm with govT := s.sm.temps }
  let s := setSm s { s.sm with govOn := s.sm.govWant, target := s.sm.targetWant, coreMw := coreMw, solving := false }
  let s := govRefresh ((List.range 4).foldl (fun s q => avsTry s q (!avs.getLsbD q)) s)
  let now := counterNs s.time
  let soon := (s.sm.cycleLocal.map fun e => decide (now < e + 200000)).getD false
  keep
    (if !s.sm.govOn || s.power.phase != 7 then s
     else if soon then bump s .govSkipped 0 0 0 1
     else
       let s := setSm s { s.sm with cycleLocal := some now }
       if regBit s .sbSlvfail 0 0 0 0 then s else govCycle s b g tally)

/-- `g`: the model region's constants, and where the Stationmaster lays out the program in the window; `coreMw`: the power of
each VDD_CORE rail. -/
def execGovernorCycleStart (g : GovWrite) (coreMw : List Nat) (avs : BitVec 4) (s : State) : Res :=
  let b := boundary s
  whenDue (mgmtAlive s && s.sm.cycleAt != some b && govWindowOk g && coreMw.length == 4) s
    (.next (let tally := s.sm.tally
      let s := rateTally (setSm s { s.sm with cycleAt := some b })
      if smWorks s then govBoundary s b g coreMw avs tally else s))

/-! ### The result (R587 to R590) -/

/-- What the governor finds in the status block: END, whether the result is usable, and f for the four quadrants. -/
def govResult (s : State) : Nat × Bool × List Num :=
  let o := regFld s .govLsubmit 0 0 0 0 16
  let code := leNat (memRead s.govWin (o + 128) 1)
  let best := leNat (memRead s.govWin (o + 136) 4)
  let rpri := fOf (BitVec.ofNat 64 (leNat (memRead s.govWin (o + 144) 8)))
  let tol := decodeFloat specFp16 (regFld s .govLimits 0 0 0 16 16)
  let near := fLess rpri tol || rpri == tol || (numIsZero rpri && numIsZero tol)
  let x := leNat (memRead s.govWin (o + 32) 8) - govBase
  let f := (List.range 4).map fun q => fOf (BitVec.ofNat 64 (leNat (memRead s.govWin (x + 8 * q) 8)))
  (code, code == 1 || ((code == 2 || code == 3) && best != 0xFFFFFFFF && near), f)

/-- Multiples of 25 MHz in a clock given in GHz, rounded down. -/
def steps25 : Num → Nat
  | .fin false m e => if 0 ≤ e then m * 40 * 2 ^ e.toNat else m * 40 / 2 ^ (-e).toNat
  | .inf false => 72
  | _ => 0

/-- R587. -/
def clkTarget (s : State) (q : Nat) (f : Num) : Nat := max 600 (min (steps25 f * 25) (clkLimit s q))

/-- R588, first pass: a clock falls, then its voltage. -/
def passDown (s : State) (q t mw : Nat) (ok : Bool) : State :=
  if t < govClk s q then
    let s := avsTry (setAllot (setClk s q t) q mw) q ok
    if ok then setVolt s q t else s
  else s

/-- R588, second pass: a voltage rises, then its clock, unless the rail does not answer. -/
def passUp (s : State) (q t mw : Nat) (ok : Bool) : State :=
  if govClk s q < t then
    let s := avsTry (setAllot s q mw) q ok
    if ok then setClk (setVolt s q t) q t else s
  else s

/-- A usable result. -/
def govApply (s : State) (f : List Num) (allot : List Nat) (avs : BitVec 4) : State :=
  let ts := (List.range 4).map fun q => clkTarget s q (f.getD q .nan)
  let mw (q : Nat) : Nat := allot.getD q 0
  let s := (List.range 4).foldl (fun s q => passDown s q (ts.getD q 600) (mw q) (!avs.getLsbD q)) s
  let s := (List.range 4).foldl (fun s q => passUp s q (ts.getD q 600) (mw q) (!avs.getLsbD q)) s
  let s := (List.range 4).foldl (fun s q => setAllot s q (mw q)) s
  setFld s .govStatus 0 0 0 4 4 0

/-- R590. -/
def govUnusable (s : State) : State :=
  setFld s .govStatus 0 0 0 4 4 (min 15 (regFld s .govStatus 0 0 0 4 4 + 1))

/-- R586: the kept x and y of the ended problem, for the next cycle. -/
def govKeep (s : State) : State :=
  let o := regFld s .govLsubmit 0 0 0 0 16
  let words (a n : Nat) : List W64 := (List.range n).map fun i =>
    BitVec.ofNat 64 (leNat (memRead s.govWin (leNat (memRead s.govWin (o + a) 8) - govBase + 8 * i) 8))
  if leNat (memRead s.govWin (o + 136) 4) = 0xFFFFFFFF then s
  else setSm s { s.sm with govX := words 32 30, govY := words 64 90 }

/-- The problem's end, or the last moment at which a result is applied (R582). -/
def govEnds (s : State) (late : Bool) (allot : List Nat) (avs : BitVec 4) : State :=
  let s := setSm s { s.sm with solving := false }
  let done := regBit s .govLstat 0 0 0 1
  let (code, usable, f) := govResult s
  let s := if done then govKeep (setFld s .govStatus 0 0 0 8 8 code) else s
  govRefresh (if done && usable && !late then govApply s f allot avs else govUnusable s)

/-- `allot`: the power of each quadrant at its applied clock, within the budget (R589); `avs`: the quadrants whose AVSBus
transactions fail. -/
def execGovernorProblemEnd (allot : List Nat) (avs : BitVec 4) (s : State) : Res :=
  let late := decide ((s.sm.cycleAt.getD 0) + 240000 < nsOf s.now)
  let ended := regBit s .govLstat 0 0 0 1 || regBit s .govLstat 0 0 0 2 || late
  whenDue (smWorks s && s.sm.solving && ended && allot.length == 4 && allot.sum ≤ budget s) s
    (.next (govEnds s late allot avs))

/-! ### The fallback rule (R591) -/

/-- One quadrant, when the part is above its cap (`down`) or well below it. -/
def fallbackStep (s : State) (down : Bool) (q mw : Nat) (ok : Bool) : State :=
  let c := govClk s q
  if s.sm.throttle.getLsbD q then s
  else if down then passDown s q (max 600 (c - 25)) mw ok
  else passUp s q (if stuck s q then c else min (c + 25) (fbClk s)) mw ok

def fallback (s : State) (allot : List Nat) (avs : BitVec 4) : State :=
  let cap := effectiveCap s * 1000
  let p := boardPower s
  if cap < p then (List.range 4).foldl (fun s q => fallbackStep s true q (allot.getD q 0) (!avs.getLsbD q)) s
  else if 100 * p < 95 * cap then
    (List.range 4).foldl (fun s q => fallbackStep s false q (allot.getD q 0) (!avs.getLsbD q)) s
  else s

/-- The rule acts while the governor is off or in FALLBACK. `allot`, `avs` as for a result. -/
def execFallbackTick (allot : List Nat) (avs : BitVec 4) (s : State) : Res :=
  whenDue (smWorks s && govState s != 1 && s.power.rails == .on && allot.length == 4) s
    (.next (fallback s allot avs))

/-! ### Thermal limits (R580, R581, Table 15.7) -/

/-- Degrees in 1/16 °C. -/
def celsius (n : Int) : Int := 16 * n

/-- TJ_THROTTLE of one quadrant; `mw` is its power at 600 MHz. -/
def throttleQ (s : State) (q mw : Nat) : State :=
  let t := s.sm.temps.getD q 0
  let on := s.sm.throttle.getLsbD q
  let bit : BitVec 4 := 1#4 <<< q
  if !on && celsius 105 ≤ t then
    let s := setAllot (setClk (setSm s { s.sm with throttle := s.sm.throttle ||| bit }) q 600) q mw
    post s .thermalThrottle 10 0 none q 0
  else if on && t < celsius 100 then setSm s { s.sm with throttle := s.sm.throttle &&& ~~~bit }
  else s

/-- HBM_HOT holds while a stack is at 95 °C or above. -/
def hbmLimit (s : State) : State :=
  let hot := decide (celsius 95 ≤ s.sm.hbmTemp)
  let s' := setSm s { s.sm with hbmHot := hot }
  if hot && !s.sm.hbmHot then post s' .hbmHot 10 0 none 0 0 else s'

/-- `temps`: the hottest sensor of each quadrant; `hbm`: of the stacks; `die`: of every die; `allot`: the power of each
quadrant at 600 MHz. -/
def execThermalSample (temps : List Int) (hbm die : Int) (allot : List Nat) (s : State) : Res :=
  whenDue (mgmtAlive s && temps.length == 4 && temps.all fun t => t ≤ die) s
    (.next (let s := setSm s { s.sm with temps := temps, hbmTemp := hbm, trip := s.sm.trip || decide (celsius 115 ≤ die) }
      hbmLimit ((List.range 4).foldl (fun s q => throttleQ s q (allot.getD q 0)) s)))

/-- `railMw`: power of every rail but VDD_CORE; `fault`: a rail's STATUS_WORD that reports a fault. -/
def execRailTelemetryPoll (railMw : Nat) (fault : Option (BitVec 16)) (s : State) : Res :=
  whenDue (smWorks s) s
    (.next (let s := setSm s { s.sm with railMw := railMw }
      match fault with
      | some w => post s .vregFault 10 0 none w.toNat 0
      | none => s))

end Sys2Proof.Machine
end

