-- ==== Sys2Proof/Machine/Reset.lean ====
section
/-! DEFINITION. What each kind of reset ends, clears and keeps: context, function, data-plane and warm reset (spec/12, R483
to R485; spec/19, R682 to R688), and a fatal record (spec/16, R630). -/

namespace Sys2Proof.Machine

/-! ### Ending work (R267, R368, R483) -/

/-- A tag goes back to its pool, with whatever it carried (*When it fails* of spec/05); a command that it carried completes
with ABORTED (R267, R368, R684). -/
def freeTag (s : State) (t : Nat) : State :=
  let x := getTag s t
  let w := match x.cmd with
    | some c => cmdStatus { c with code := codeAborted }
    | none => x.status
  let s := match x.cmd with
    | some c => dropFromSlot s t c
    | none => s
  let s := match x.owner with
    | some (n, _) => modCore s n fun c => { c with reports := c.reports.filter fun e => e.1 != t }
    | none => s
  let s := { s with solveNet := s.solveNet.filter fun e => e.1 != t,
                    problems := s.problems.filter fun p => p.tag != some t }
  setTag s t { getTag s t with st := .free, cmd := none, status := w }

def freeTags : List Nat → State → State
  | [], s => s
  | t :: ts, s => freeTags ts (freeTag s t)

/-- The tags that a slot holds. -/
def tagsOf (s : State) (n : Nat) (i : SlotId) : List Nat :=
  (s.tags.filter fun e => e.2.st != .free && e.2.owner == some (n, i)).map (·.1)

/-- A slot's program and its commands end. -/
def endSlot (s : State) (n : Nat) (i : SlotId) : State :=
  if (getSlot s n i).phase = .idle then s
  else
    let s := freeTags (tagsOf s n i) s
    let s := modCore s n fun c =>
      { c with fetchMiss := match c.fetchMiss with
                 | some (j, m) => if j = i then none else some (j, m)
                 | none => none }
    let s := modSlot s n i fun x => { x with cop := [], timeUp := false }
    let m := spGet muReset (n / 8) s.mus
    let s := { s with mus := spSet muReset (n / 8) { m with sent := m.sent.filter (· != (n, i)) } s.mus }
    slotIdle (tallyRun s n i) n i

/-- Every slot that runs a program of the contexts. -/
def busySlots (s : State) (hit : Nat → Bool) : List (Nat × SlotId) :=
  s.cores.flatMap fun e =>
    ([SlotId.bulk, SlotId.express].filter fun i =>
      (coreSlot e.2 i).phase != .idle && hit (coreSlot e.2 i).ctx).map fun i => (e.1, i)

def endSlots : List (Nat × SlotId) → State → State
  | [], s => s
  | (n, i) :: l, s => endSlots l (endSlot s n i)

/-- A taken command ends: its tag goes free, and its completion entry is ABORTED, or none is written. -/
def endTaken (report : Bool) (s : State) (d : DCmd) : State :=
  let s := match d.tag with
    | some t => freeTag s t
    | none => s
  let s := { s with ctrl := s.ctrl.filter fun c => c.cmd != d.id, epochs := s.epochs.filter fun e => e.cmd != d.id }
  if report then completeCmd s d codeAborted 0 0
  else { s with host := { s.host with cmds := s.host.cmds.filter fun e => e.id != d.id } }

/-- What the Row Merge Units hold of the contexts is cleared (R295, Table 19.2). -/
def clearRmu (hit : Nat → Bool) (r : Rmu) : Rmu where
  buffer := r.buffer.filter fun x => !hit x.ctx
  held := r.held.filter fun x => !hit x.ctx
  windows := r.windows.filter fun w => !hit w.ctx
  runs := r.runs.filter fun x => !hit x.ctx
  lastClose := r.lastClose.filter fun e => !hit e.1
  applied := r.applied.filter fun e => !hit e.1

/-- R483: the work of the contexts ends, pending faults and merge windows among it (Table 19.2). -/
def endContexts (hit : Nat → Bool) (report : Bool) (s : State) : State :=
  let taken := s.host.cmds.filter fun d => hit d.ctx
  let s := endSlots (busySlots s hit) s
  let s := taken.foldl (endTaken report) s
  let s := dtcDrop s fun e => hit e.ctx
  let mine (h : HostTr) : Bool :=
    (List.range 64).any fun c => hit c && ctxValid s c && h.fn == fnOf s c && h.pasid == pasidOf s c
  { s with
    layers := s.layers.filter fun l => !hit l.ctx,
    barriers := s.barriers.filter fun b => !hit b.ctx,
    hints := s.hints.filter fun h => !hit h.ctx,
    mergeNet := s.mergeNet.filter fun x => !hit x.ctx,
    rmus := spMap rmuReset (fun _ r => clearRmu hit r) s.rmus,
    dtcH := s.dtcH.filter fun h => !mine h,
    px := s.px.filter fun m => !hit m.ctx,
    pxNone := s.pxNone.filter fun m => !hit m.ctx,
    pend := s.pend.filter fun p => !hit p.ctx,
    batchOpen := s.batchOpen.filter fun r => !hit r.ctx }

/-! ### Context reset (R483) -/

/-- A host write to a DSP register through HW0 of the physical function acts only while the function is there and no warm or
data-plane reset is in progress (*When things collide* of spec/19). -/
def resetTakes (s : State) : Bool :=
  hostHere s && !s.power.dataPlane && !spGet false 0 s.host.d3 && !spGet false 0 s.host.resetting

def setHost (s : State) (h : HostSt) : State := { s with host := h }

/-- A GO while BUSY is discarded. -/
def ctxReset (s : State) (ctx : Nat) : State :=
  if s.host.ctxResetBusy.isSome then s
  else
    let s := endContexts (fun c => c == ctx) true s
    setHost s { s.host with ctxResetBusy := some ctx }

def execDspCtxreset (ctx : Fin 64) (go : Bool) (s : State) : Res :=
  .next (if go && resetTakes s then ctxReset s ctx.val else s)

/-! ### Function reset and FLR (R484) -/

/-- The queue no longer waits for the reads of commands in flight. -/
def staleReads (s : State) (ctx q : Nat) : State :=
  setHost s { s.host with cmdReads := s.host.cmdReads.map fun r =>
    (if r.key == qKey ctx q then { r with count := 0 } else r) }

/-- A queue is disabled, with nothing of it left. -/
def clearQueue (s : State) (ctx q : Nat) : State :=
  let s := setFld s .dspQctl 0 ctx q 0 1 0
  let s := setQueue (staleReads s ctx q) ctx q queueReset
  setHost s { s.host with service := s.host.service.filter (· != qKey ctx q) }

def clearQueues (s : State) (ctx : Nat) : State :=
  let s := (List.range 8).foldl (fun s q => clearQueue s ctx q) s
  setRing (setFld s .dspPringcfg 0 ctx 0 15 1 0) ctx pringReset

/-- The contexts bound to a function. -/
def ctxsOf (s : State) (fn : Nat) : List Nat := (List.range 64).filter fun c => ctxValid s c && fnOf s c == fn

def fnReset (s : State) (fn : Nat) : State :=
  let cs := ctxsOf s fn
  let s := endContexts (fun c => cs.contains c) false s
  let s := cs.foldl clearQueues s
  let s := { s with priOut := s.priOut.filter fun e => e.fn != fn }
  setHost s { s.host with resetting := spSet false fn true s.host.resetting }

/-- An FLR returns the function's configuration space to its reset values; its held output and its snapshot go with it
(R544). PRI and PASID stand with the physical function (Table 11.8). -/
def configReset (s : State) (fn : Nat) : State :=
  let h := s.host
  let keep {α : Type} (m : Sp α) : Sp α := m.filter fun e => e.1 != fn
  let vec (m : Sp Bool) : Sp Bool := m.filter fun e => e.1 / 32 != fn
  let s := setTime s { s.time with snaps := keep s.time.snaps }
  setHost s { h with d3 := keep h.d3, ats := keep h.ats, priFailed := keep h.priFailed, cfg := keep h.cfg,
                     pri := fn != 0 && h.pri, pasid := fn != 0 && h.pasid,
                     masked := vec h.masked, vecPending := vec h.vecPending,
                     heldPosts := h.heldPosts.filter fun e => e.1 != fn, atsOut := h.atsOut.filter fun e => e.1 != fn,
                     atsInv := h.atsInv.filter fun e => e.1 != fn }

/-- Function 0 is ignored (Table 12.9). -/
def execDspFnreset (fn : Fin 64) (go : Bool) (s : State) : Res :=
  .next (if go && fn.val != 0 && resetTakes s && s.host.fnResetBusy.isNone then
      let s := fnReset s fn.val
      setHost s { s.host with fnResetBusy := some fn.val }
    else s)

def execFlrVf (fn : Fin 64) (s : State) : Res :=
  whenDue (fn.val != 0 && hostHere s && !s.power.dataPlane && s.host.vfEnable) s
    (.next (configReset (fnReset s fn.val) fn.val))

/-! ### Data-plane reset (R684, R686) -/

/-- The registers of some blocks return to their values after cold reset. -/
def clearRegs (s : State) (hit : Nat → Bool) : State := { s with regs := s.regs.filter fun e => !hit e.1 }

/-- The XL, DSP and RMU blocks, and the quotas (Table 19.2). -/
def planeReg (a : Nat) : Bool :=
  (blkBase .rmu 0 ≤ a && a < blkBase .mc 0) || (blkBase .xl 0 ≤ a && a < blkBase .px 0)
    || (regAddr .seqTagquota 0 0 0 ≤ a && a < regAddr .seqTagpool 0 0 0)

/-- R686, step 3: a way that neither a fence nor FAULT_UE keeps as it is. -/
def clearedWay (c : Slice) (w : Nat) : Bool := !(c.fenced.getLsbD w || c.faultUe.getLsbD w)

/-- R686, step 3: every dirty line of an ACTIVE or CLEANING way is written to memory, and the ways become INACTIVE. -/
def sweepSlice (s : State) (i : Nat) : State :=
  let c := getSlice s i
  let s := (List.range 16).foldl (fun s w => sweepLines w c.lines s) s
  let s := c.misses.foldl (fun s m => match m.victim with
    | some x => hbmPut s x
    | none => s) s
  let all := BitVec.ofNat 16 ((List.range 16).foldl (fun a w => if clearedWay c w then a + 2 ^ w else a) 0)
  setSlice s i
    { c with way := spMap 1 (fun w st => if clearedWay c w || st = 2 || st = 3 then 1 else st) c.way,
             inv := c.inv &&& ~~~all, lines := [], misses := [], toOff := 0, swept := [], cause := [] }

/-- Requests of other devices in service are answered with HOME_UNREACHABLE. -/
def answerAll (s : State) : State :=
  s.inbound.foldl (fun s e => if isRequest e.pkt then refuseInbound s e codeHomeUnreachable else endInbound s e) s

/-- A core after a data-plane reset: debug halt and SEQ_EXPRESS stay, and a written EN takes effect (R126). -/
def clearCore (c : Core) : Core :=
  { coreReset with halted := c.halted, injPoint := c.injPoint, expressEn := c.expressPend.getD c.expressEn }

/-- The Dispatcher and the endpoint's functions after the reset. -/
def clearHost (h : HostSt) : HostSt :=
  { hostReset with nextCmd := h.nextCmd, out := h.out, sent := h.sent, unqueued := h.unqueued, linkUp := h.linkUp,
                   resetting := [(0, true)] }

/-- R686, steps 1 to 4. -/
def planeClear (s : State) : State :=
  let s := answerAll s
  let s := (List.range 20).foldl sweepSlice s
  let s := dtcDrop s fun _ => true
  let s := if s.problems.any fun p => p.tag.isNone then setFld s .govLstat 0 0 0 0 1 0 else s
  let s := setTime s { s.time with snaps := s.time.snaps.filter fun e => 64 ≤ e.1 }
  let s := clearRegs s planeReg
  let s := (List.range 64).foldl (fun s c => setReg s .dspLdev 0 c 0 (BitVec.ofNat 64 (selfId s))) s
  { s with
    cores := spMap coreReset (fun _ c => clearCore c) s.cores,
    tags := [], reqs := [], hints := [], layers := [], mus := [], barriers := [], mergeNet := [], rmus := [],
    problems := [], solveNet := [], wayCmd := none, own := [], looks := [], dtcG := [], dtcH := [], pend := [],
    batchOpen := [], batchHeld := [], hostSeq := 0, px := [], pxNone := [], winOld := [], ctrl := [], epochs := [], epoch := 0, priOut := [],
    remotes := [], inject := s.inject.filter fun p => p.src != selfId s || !isRequest p,
    sm := { s.sm with tally := [0, 0, 0, 0] },
    host := clearHost s.host }

/-- A data-plane reset, unless its steps have been done already. -/
def dataPlaneReset (s : State) : State :=
  if s.power.dataPlane then s
  else
    let s := planeClear s
    { s with power := { s.power with dataPlane := true } }

/-- R485: VF Enable clears, every function is reset, and the data plane enters reset. -/
def flrPf (s : State) : State :=
  let s := (List.range 64).foldl (fun s f => configReset (fnReset s f) f) s
  dataPlaneReset (setHost s { s.host with vfEnable := false })

def execFlrPf (s : State) : Res :=
  .next (if hostHere s && !s.power.dataPlane then flrPf s else s)

/-! ### Warm reset (R687) -/

/-- A port goes OFF. -/
def portOff (s : State) (p : Nat) : State :=
  if portUp s p then linkFails s p 0 3 else modPort s p fun x => quietPort x 0

def portsOff (s : State) : State := (List.range (ports s.variant)).foldl portOff s

def warmReset (s : State) : State :=
  let s := { s with power := { s.power with warm := true } }
  let s := dataPlaneReset (portsOff s)
  setHost s { s.host with linkUp := false, out := s.host.out.take s.host.sent, unqueued := [] }

/-- PERST_N low: in the phases before firmware ready only the PCIe PHY is reset. -/
def perstFall (s : State) : State :=
  let s := { s with power := { s.power with perst := true } }
  if firmwareReady s then warmReset s else setHost s { s.host with linkUp := false }

def execPerstNFall (s : State) : Res :=
  whenDue (!s.power.por && !s.power.perst) s (.next (perstFall s))

/-- R665, R694, R699: the endpoint trains once PERST_N is high, in every phase but ROM, RECOVERY and a stopped boot. -/
def trainPcie (s : State) : State :=
  let ok := !s.power.por && !s.power.perst && s.power.rails == .on && 1 ≤ s.power.phase && s.power.phase ≤ 7
    && !s.power.lost.contains .pe && !s.power.drive
  setHost s { s.host with linkUp := ok }

/-- A mapped port that no fence holds enters TRAIN. -/
def portTrain (s : State) (p : Nat) : State :=
  if mapped s p && hasPort s p && !regBit s .sbPortfence 0 0 0 p && (getPort s p).st = 0 then
    modPort s p fun x => quietPort x 1
  else s

def portsTrain (s : State) : State :=
  if s.fab.committed then (List.range (ports s.variant)).foldl portTrain s else s

/-- PERST_N high: the link trains, and after a warm reset the ports train as well. -/
def perstRelease (s : State) : State :=
  let s := trainPcie { s with power := { s.power with perst := false } }
  if s.power.warm then portsTrain s else s

def execPerstNRelease (s : State) : Res :=
  whenDue (!s.power.por && s.power.perst) s (.next (perstRelease s))

/-! ### Completion (R682, R686) -/

def notResetting (s : State) (fn : Nat) : State :=
  setHost s { s.host with resetting := spSet false fn false s.host.resetting }

def execResetComplete (what : ResetKind) (s : State) : Res :=
  match what with
  | .context =>
    whenDue s.host.ctxResetBusy.isSome s (.next (setHost s { s.host with ctxResetBusy := none }))
  | .function fn =>
    whenDue (spGet false fn.val s.host.resetting && !s.power.dataPlane) s
      (.next (let s := notResetting s fn.val
        if s.host.fnResetBusy = some fn.val then setHost s { s.host with fnResetBusy := none } else s))
  | .dataPlane =>
    whenDue (s.power.dataPlane && !s.power.warm) s
      (.next (let s := notResetting s 0
        { s with power := { s.power with dataPlane := false }, log := { s.log with dpHalted := false } }))
  | .warm =>
    whenDue (s.power.warm && !s.power.perst) s
      (.next (let s := notResetting s 0
        { s with power := { s.power with dataPlane := false, warm := false } }))

/-! ### Fatal records (R630) -/

/-- A record of SEV 4: every command that the Dispatcher has taken completes with ABORTED. -/
def fatalHalt (s : State) : State := s.host.cmds.foldl (fun s d => completeCmd s d codeAborted 0 0) s

/-- INTERNAL_FATAL. -/
def internalFatal (s : State) (kind idx arg : Nat) : State := fatalHalt (post s .internalFatal kind idx none arg 0)

end Sys2Proof.Machine
end

