-- ==== Sys2Proof/Machine/Repair.lean ====
section
/-! DEFINITION. The Signal Box, fences, remaps and replay; scrub, audits, port fences and the host log ring (spec/16). -/

namespace Sys2Proof.Machine

/-! ### Who runs where (R618, R619) -/

/-- A core hosts a guest: a logical core other than its own. -/
def guestOf (s : State) (p : Nat) : Option Nat := (servedBy s p).find? fun n => n != p

def fenced (s : State) (p : Nat) : Bool := fenceMode s p != 0

/-- R618: the first core after `p` in its station whose sequencer is not fenced and which has no guest. -/
def newHost (s : State) (p : Nat) : Option Nat :=
  (([1, 2, 3, 4, 5, 6, 7] : List Nat).map fun j => p / 8 * 8 + (p % 8 + j) % 8).find?
    fun h => !fenced s h && (guestOf s h).isNone

/-! ### Slots at a fence (R613, R615, R617) -/

/-- The status words that a replay has not handed out again stay in the record. -/
def keepLog (x : Slot) : Replay :=
  match x.replaying with
  | some r => { x.replay with log := x.replay.log ++ r.statuses.map (fun w => (4096, some w)),
                              scadds := x.replay.scadds + r.scadds }
  | none => x.replay

/-- R613, R615: a running slot drains and waits for its replay, or its program ends because the replay point is spent. -/
def divergeSlot (s : State) (n : Nat) (i : SlotId) : State :=
  let x := getSlot s n i
  let x := { x with held := none, cop := [], timeUp := false }
  if x.phase != .running then setSlot s n i x
  else if x.replay.valid && !x.replay.spent then
    setSlot s n i { x with phase := .diverged, replay := keepLog x, replaying := none }
  else
    let s := setSlot s n i { x with phase := .faulting 0 x.replay.pc, replaying := none }
    finishSlot (post s .replayLost 1 (physOf s n) (some x.ctx) n 0) n i

/-- The core leaves debug halt (*When things collide* of spec/20), and its sequencer's lookaside is cleared (R685). -/
def divergeCore (s : State) (n : Nat) : State :=
  let s := modCore s n fun c => { c with halted := false, stepping := none, skipBp := [], fetchMiss := none, look := lookReset }
  divergeSlot (divergeSlot s n .bulk) n .express

/-- R605, R610: the hardware fences a sequencer. -/
def fenceSeq (s : State) (p : Nat) : State :=
  let ns := servedBy s p
  let s := post (setFld s .sbCfence 0 p 0 0 2 1) .unitFenced 1 p none 0 0
  ns.foldl divergeCore s

/-- R685: what a FULL fence leaves of the core's logical ID: the LFSRs and the replay records. -/
def zeroCore (c : Core) : Core :=
  let slot (x : Slot) : Slot := { slotReset with lfsr := x.lfsr, replay := x.replay, prevCtx := x.prevCtx }
  { coreReset with bulk := slot c.bulk, express := slot c.express, expressEn := c.expressPend.getD c.expressEn,
                   injPoint := c.injPoint }

/-- The program of a slot ends with ABORTED, and its commands with it (R617). -/
def abortSlot (s : State) (n : Nat) (i : SlotId) : State :=
  let x := getSlot s n i
  if x.phase = .idle then s
  else completeId (endSlot s n i) x.cmd codeAborted 0 0

def unmap (s : State) (n : Nat) : State :=
  let s := abortSlot (abortSlot s n .bulk) n .express
  setFld s .sbLmap 0 n 0 8 1 1

/-- R617: a FULL fence. -/
def fenceFull (s : State) (p : Nat) : State :=
  let ns := servedBy s p
  let s := post (setFld s .sbCfence 0 p 0 0 2 2) .unitFenced 1 p none 0 0
  let s := (if ns.contains p then ns else ns ++ [p]).foldl unmap s
  modCore s p zeroCore

/-! ### Divergence and self-test (R605 to R610) -/

/-- The Signal Box of a core compares (R610, R617). -/
def compares (s : State) (p : Nat) : Bool :=
  !fenced s p && !regBit s .sbCstat 0 p 0 2 && firmwareReady s && mainClocked s

/-- R605: the differing word does not leave the core: its instruction, which has not committed, is dropped. A row that commits
an instruction stands for a word that compares equal two cycles later (R90; DEDUCED, log 32). `kind`: which output differs,
in the order of R604. -/
def diverge (s : State) (p n kind : Nat) : State :=
  let s := bump s .sbDiverge 0 0 0 1
  fenceSeq (post s .divergence 1 p none (n + 65536 * (Config.causeCode (16 + kind)).toNat) 0) p

def execDivergence (core logical : Fin 160) (kind : Fin 5) (s : State) : Res :=
  whenDue (compares s core.val && hostOf s logical.val == some core.val && !(getCore s logical.val).halted) s
    (.next (diverge s core.val logical.val kind.val))

/-- R610: a checker fault, and what the core's policy makes of it. -/
def checkerFault (s : State) (p : Nat) : State :=
  let s := post (bump s .sbChecker 0 0 0 1) .checkerFault 1 p none 0 0
  if regBit s .sbCkpolicy 0 (p / 32) 0 (p % 32) then setFld s .sbCstat 0 p 0 2 1 1 else fenceSeq s p

/-- R606: the next of the 1,024 injection points. -/
def nextPoint (s : State) (p : Nat) : State := modCore s p fun c => { c with injPoint := (c.injPoint + 1) % 1024 }

def selfTested (s : State) (p : Nat) (r : SelfTest) : State :=
  match r with
  | .caught => bump (nextPoint s p) .sbSelftest 0 0 0 1
  | .missed => checkerFault (nextPoint s p) p
  | .parity => checkerFault s p

/-- R606, R607, R721: a halted core's test waits. -/
def execSelfTest (core : Fin 160) (result : SelfTest) (s : State) : Res :=
  whenDue (compares s core.val && !((servedBy s core.val).any fun n => (getCore s n).halted)) s
    (.next (selfTested s core.val result))

/-! ### Remap (R618) -/

def remap (s : State) (n p : Nat) : State :=
  match newHost s p with
  | some h =>
    post (setFld s .sbLmap 0 n 0 0 8 h) .coreRemap 1 h none (n + 65536 * p) 0
  | none => setFld s .sbLmap 0 n 0 8 1 1

/-- Logical cores of a station whose hosts are fenced are remapped in ascending order of their fenced cores. -/
def remapDue (s : State) (n p : Nat) : Bool :=
  fenceMode s p == 1 && !((List.range 8).any fun c =>
    let q := p / 8 * 8 + c
    q < p && fenceMode s q == 1 && !(servedBy s q).isEmpty)
    && !((servedBy s p).any fun m => m < n)

def execRemap (logical : Fin 160) (s : State) : Res :=
  match hostOf s logical.val with
  | some p => whenDue (smWorks s && remapDue s logical.val p) s (.next (remap s logical.val p))
  | none => .next s

/-! ### Replay (R614) -/

/-- The tags of a slot whose streams or instances stay halted. -/
def haltedTags (s : State) (n : Nat) (i : SlotId) : List Nat := (tagsOf s n i).filter (haltedTag s)

/-- R613: everything else that the slot committed has retired. -/
def drained (s : State) (n : Nat) (i : SlotId) : Bool :=
  (tagsOf s n i).all fun t => (getTag s t).st == .retiring || haltedTag s t

/-- The new sequencer observes the held reports of the slot. -/
def observeHeld (s : State) (n : Nat) (i : SlotId) : State :=
  let mine (e : Nat × W64) : Bool := (getTag s e.1).owner == some (n, i)
  let es := (getCore s n).reports.filter mine
  let s := modCore s n fun c => { c with reports := c.reports.filter fun e => !mine e }
  es.foldl (fun s e => setTag s e.1 { getTag s e.1 with st := .free, status := e.2 }) s

/-- The commands to adopt, by their number since the replay point. -/
def adoptions (s : State) (n : Nat) (i : SlotId) : List (Nat × Nat) :=
  (haltedTags s n i).filterMap fun t => (tagCmd s t).map fun c => (c.ord, t)

/-- The slot's tiles return to the record's. -/
def replayTiles (c : Core) (i : SlotId) (ts : Sp (Option Tile)) : Sp (Option Tile) :=
  let own := ts.filter fun e => ownsTile c i e.1
  let other := c.tiles.filter fun e => !ownsTile c i e.1
  match i with
  | .bulk => own ++ other
  | .express => other ++ own

/-- The slot runs again from its replay point. -/
def replaySlot (x : Slot) (adopt : List (Nat × Nat)) : Slot :=
  let r := x.replay
  { x with phase := .running, pc := r.pc, g := r.g, f := r.f, fflags := r.fflags, frm := r.frm, statsum := r.statsum,
           lfsr := r.lfsr, snap := r.snap, cop := [], held := none,
           replaying := some ⟨r.log.filterMap (·.2), r.scadds, adopt⟩,
           replay := { r with cmds := 0, scadds := 0, log := [] } }

def replayStart (s : State) (n : Nat) (i : SlotId) : State :=
  let adopt := adoptions s n i
  let s := observeHeld s n i
  let s := modCore s n fun c => { c with tiles := replayTiles c i (coreSlot c i).replay.tiles }
  modSlot s n i fun x => replaySlot x adopt

def execReplayStart (a : At) (s : State) : Res :=
  let n := a.core.val
  whenDue ((getSlot s n a.slot).phase == .diverged && seqWorks s n && drained s n a.slot && planeUp s) s
    (.next (replayStart s n a.slot))

/-! ### Fences of the other units (R616, R621, Table 16.3) -/

/-- A row-cache way is fenced: it passes to INACTIVE through CLEANING if it is ACTIVE (R397). -/
def fenceWay (s : State) (i w : Nat) : State :=
  if (getSlice s i).fenced.getLsbD w then s
  else
    let s := setFld s .sbWayfence 0 i 0 w 1 1
    let s := modSlice s i fun c =>
      let c := { c with fenced := setBit16 c.fenced w }
      if wayState c w = 2 then startClean c w 0 else c
    post s .unitFenced 4 i none w 0

def fenceMatrix (s : State) (n : Nat) : State :=
  if muFailed s n then s else post (setFld s .sbMufail 0 0 0 n 1 1) .unitFenced 2 n none 0 0

def fenceCluster (s : State) (k : Nat) : State :=
  if slvFailed s k then s else post (failCluster s k) .unitFenced 3 k none 0 0

/-- R621: MODE reads FAILED from the register (`ownByte`). -/
def fenceChannel (s : State) (k : Nat) : State :=
  if channelFailed s k || channels s.variant ≤ k then s
  else post (setFld s .sbChfail 0 (k / 32) 0 (k % 32) 1 1) .unitFenced 5 k none 0 0

def fenceUnit (s : State) : FenceUnit → State
  | .sequencer p => if fenced s p.val then s else fenceSeq s p.val
  | .core p => if fenceMode s p.val = 2 then s else fenceFull s p.val
  | .matrix n => fenceMatrix s n.val
  | .cluster k => fenceCluster s k.val
  | .ways i m => (List.range 16).foldl (fun s w => if m.getLsbD w then fenceWay s i.val w else s) s
  | .channel k => fenceChannel s k.val
  | .port p => if regBit s .sbPortfence 0 0 0 p.val || ports s.variant ≤ p.val then s else fencePort s p.val

/-- R620, R730: a port fence is released: its test ends, and the port enters TRAIN. -/
def releasePort (s : State) (p : Nat) : State :=
  let s := post (setFld s .sbPortfence 0 0 0 p 1 0) .unitReleased 6 p none 0 0
  let s := modPort s p fun x => { x with fencedAt := none }
  let s := if s.test.portTest = some p then { s with test := { s.test with portTest := none } } else s
  portTrain s p

def execPortFenceRelease (port : Fin 32) (s : State) : Res :=
  let at_ := (getPort s port.val).fencedAt
  whenDue (smWorks s && regBit s .sbPortfence 0 0 0 port.val
      && (at_.map fun t => decide (t + 600000000000 ≤ opNs (nowOp s))).getD false) s
    (.next (releasePort s port.val))

/-! ### Writing the SB block (R616) -/

/-- Bits of `new` that are not set in `old`. -/
def newBits (old new n : Nat) : List Nat := (List.range n).filter fun b => new.testBit b && !old.testBit b

/-- A Stationmaster write: fences are set and never cleared, but for port fences (R620). -/
def sbWrite (s : State) (r : RegName) (i v : Nat) : State :=
  let old := (regVal s r 0 i 0).toNat
  match r with
  | .sbCfence =>
    if v % 4 = 0 || v % 4 ≤ fenceMode s i then s
    else if v % 4 = 1 then fenceSeq s i
    else fenceFull s i
  | .sbLmap =>
    if 160 ≤ v % 256 then post s .rangeRefused 10 0 none 0 (regAddr r 0 i 0)
    else
      let s := setReg s r 0 i 0 (BitVec.ofNat 64 (v % 512))
      if v.testBit 8 then s else post s .coreRemap 1 (v % 256) none (i + 65536 * (old % 256)) 0
  | .sbMufail => (newBits old v 20).foldl fenceMatrix s
  | .sbSlvfail => (newBits old v 4).foldl fenceCluster s
  | .sbChfail => (newBits old v 32).foldl (fun s b => fenceChannel s (32 * i + b)) s
  | .sbPortfence =>
    let s := (newBits old v (ports s.variant)).foldl fencePort s
    (newBits v old (ports s.variant)).foldl releasePort s
  | .sbWayfence => (newBits old v 16).foldl (fun s w => fenceWay s i w) s
  | .sbCkpolicy => setReg s r 0 i 0 (BitVec.ofNat 64 v)
  | _ => s

/-- A 4-byte write to the SB block at an offset: by the host through HW0 (refused), or by the Stationmaster. -/
def execSbRegisterWrite (host : Bool) (offset : BitVec 12) (value : W32) (s : State) : Res :=
  if host then
    .next (if hostHere s then post s .sbDenied 10 0 none 0 0 else s)
  else
    whenDue (smWorks s) s
      (.next (match regFind (blkBase .sb 0 + offset.toNat) with
        | some (r, _, i, _, _) => sbWrite s r i value.toNat
        | none => s))

/-! ### Errors in arrays and on links (R602, Tables 16.1 and 16.3) -/

/-- Table 16.3: the unit of a kind is fenced. -/
def fenceFor (s : State) (kind idx : Nat) : State :=
  match kind with
  | 1 => if fenceMode s idx = 2 then s else fenceFull s idx
  | 2 => fenceMatrix s idx
  | 5 => fenceChannel s idx
  | _ => s

/-- Table 16.3: the third ARRAY_UE record of a unit within 1 s fences it. -/
def ueCounted (s : State) (kind idx : Nat) : State :=
  let now := counterNs s.time
  let ts := (spGet [] (unitOf kind idx) s.ueTimes).filter (fun t => now < t + 1000000000) ++ [now]
  let s := { s with ueTimes := spSet [] (unitOf kind idx) ts s.ueTimes }
  if 3 ≤ ts.length then fenceFor s kind idx else s

/-- An ARRAY_UE record of a unit that Table 16.3 counts. -/
def arrayUe (s : State) (kind idx addr : Nat) : State := ueCounted (post s .arrayUe kind idx none 0 addr) kind idx

/-- The number of a link among those that carry a CRC-32 per transfer, and the UNIT of its records. -/
def linkIndex : CrcLink → Nat
  | .loopLine => 0
  | .parcelPath => 1
  | .die k => 2 + k.val

def linkUnit : CrcLink → Nat × Nat
  | .loopLine => (0, 0)
  | .parcelPath => (0, 1)
  | .die k => (12, k.val)

/-- A transfer is retried; the 16th consecutive retry on one link is fatal. -/
def linkRetried (s : State) (l : CrcLink) (again : Bool) : State :=
  let n := if again then spGet 0 (linkIndex l) s.linkRetry + 1 else 1
  let s := { s with linkRetry := spSet 0 (linkIndex l) n s.linkRetry }
  let s := post s .d2dRetry (linkUnit l).1 (linkUnit l).2 none 0 0
  if n = 16 then internalFatal s (linkUnit l).1 (linkUnit l).2 2 else s

/-- Table 16.1, the column of corrected errors. -/
def correctedAt (s : State) (again : Bool) : CorrectedAt → State
  | .way i w => correctedError s i.val w.val
  | .core p => post s .arrayCe 1 p.val none 0 0
  | .tag => post s .arrayCe 0 0 none 0 0
  | .channel k => post s .arrayCe 5 k.val none 0 0
  | .matrix n => post s .arrayCe 2 n.val none 0 0
  | .cluster k => post s .arrayCe 3 k.val none 0 0
  | .sram => post s .arrayCe 10 0 none 0 0
  | .replay p => post s .arrayCe 1 p.val none 0 0
  | .link l => linkRetried s l again

/-- The place exists and is in service. -/
def correctedDue (s : State) : CorrectedAt → Bool
  | .way i w => wayOn s i.val w.val
  | .channel k => firmwareReady s && k.val < channels s.variant
  | .sram => mgmtAlive s
  | .link _ => s.power.rails == .on
  | _ => firmwareReady s

/-- `again`: a retry that comes directly after another on the same link. -/
def execCorrectedError (place : CorrectedAt) (again : Bool) (s : State) : Res :=
  whenDue (correctedDue s place) s (.next (correctedAt s again place))

/-- The window of a context and step at a Row Merge Unit. -/
def hasWindow (s : State) (k ctx step : Nat) : Bool :=
  (spGet rmuReset k s.rmus).windows.any fun w => w.ctx == ctx && w.step == step

/-- Reason 2 of the close check (R304). -/
def windowUpset (s : State) (k ctx step : Nat) : State :=
  let r := spGet rmuReset k s.rmus
  let ws := r.windows.map fun w => if w.ctx == ctx && w.step == step then { w with upset := true } else w
  { s with rmus := spSet rmuReset k { r with windows := ws } s.rmus }

/-- An error in a Matrix Unit's store for a layer instance (R342). -/
def layerUpset (s : State) (ctx layer n : Nat) (f : Layer → Layer) : State :=
  match findLayer s ctx layer with
  | some l => arrayUe (modLayer s l f) 2 n 0
  | none => s

/-- A copy of a replay record is lost; the loss of both spends the replay point. -/
def replayLost (s : State) (n : Nat) (i : SlotId) (both : Bool) : State :=
  if both then modSlot s n i fun x => { x with replay := { x.replay with spent := true } } else s

/-- Table 16.1, the column of uncorrectable errors. -/
def uncorrectableAt (s : State) (both : Bool) (a b : ImgChk) : UncorrectableAt → State
  | .line i w x u => dataError s i.val w.val x.val u.val
  | .localStore p w =>
    arrayUe (modCore s p.val fun c => { c with lsPoison := spSet false w.val true c.lsPoison }) 1 p.val 0
  | .accumulator p e => arrayUe (modCore s p.val fun c => { c with accBad := spSet false e.val true c.accBad }) 1 p.val 0
  | .instructionCache p => post s .arrayCe 1 p.val none 0 0
  | .queues p => fenceFor (arrayUe s 1 p.val 0) 1 p.val
  | .tag => internalFatal s 0 0 3
  | .merge k ctx step => post (windowUpset s k.val ctx.val step) .arrayUe 5 k.val (some ctx.val) 0 0
  | .panel ctx l n c => layerUpset s ctx.val l.toNat n.val fun x => panelUpset x n.val c.val
  | .lane ctx l n p r c => layerUpset s ctx.val l.toNat n.val fun x => laneUpset x n.val p.val r.val c.val
  | .holdBuffer ctx l n p r => layerUpset s ctx.val l.toNat n.val fun x => holdUpset x n.val p.val r.val
  | .hbm l u =>
    arrayUe { s with hbmPoison := spSet false (4 * l + u.val) true s.hbmPoison } 5 (channelOf s.variant (128 * l))
      (128 * l + 32 * u.val)
  | .sram => watchdog s a b
  | .replay p i => replayLost s p.val i both

/-- The place exists and is in service. -/
def uncorrectableDue (s : State) : UncorrectableAt → Bool
  | .line i w x _ => (heldLine s i.val w.val x.val).isSome
  | .localStore p _ | .accumulator p _ | .instructionCache p | .queues p => firmwareReady s && fenceMode s p.val != 2
  | .tag => firmwareReady s
  | .merge k ctx step => hasWindow s k.val ctx.val step
  | .panel ctx l n _ | .lane ctx l n _ _ _ | .holdBuffer ctx l n _ _ =>
    planeUp s && !muFailed s n.val && (findLayer s ctx.val l.toNat).isSome
  | .hbm l _ =>
    firmwareReady s && 128 * l < installed s.variant && !channelFailed s (channelOf s.variant (128 * l))
  | .sram => mgmtAlive s && smWorks s
  | .replay p i => (getSlot s p.val i).replay.valid

/-- `both`: the other copy of a replay record is lost too; `a`, `b`: what a restart of the Stationmaster finds of the
images. -/
def execUncorrectableDataError (place : UncorrectableAt) (both : Bool) (a b : ImgChk) (s : State) : Res :=
  whenDue (uncorrectableDue s place) s (.next (uncorrectableAt s both a b place))

/-! ### Scrub (R603) -/

/-- The memory controllers run. -/
def memoryOn (s : State) : Bool := firmwareReady s && mainClocked s

/-- A 32-byte unit of a line is read; a corrected word is written back. -/
def scrubbed (s : State) (l u : Nat) (r : Scrubbed) : State :=
  let k := channelOf s.variant (128 * l)
  match r with
  | .clean => s
  | .corrected => post s .arrayCe 5 k none 0 (128 * l + 32 * u)
  | .uncorrectable =>
    post { s with hbmPoison := spSet false (4 * l + u) true s.hbmPoison } .arrayUe 5 k none 0 (128 * l + 32 * u)

def execScrub (l : Nat) (unit : Fin 4) (result : Scrubbed) (s : State) : Res :=
  whenDue (memoryOn s && 128 * l < installed s.variant && !channelFailed s (channelOf s.variant (128 * l))) s
    (.next (scrubbed s l unit.val result))

/-! ### Audits (R623, Table 16.5) -/

/-- CONSERVE_BREAK with the quantity and the unit. -/
def conserveBreak (s : State) (sev kind idx quantity : Nat) : State :=
  postRec s .conserveBreak sev kind idx none (Config.causeCode (32 + quantity)).toNat 0

/-- Every tag of the pool is free or in flight (Table 16.5). -/
def poolSettled (s : State) (p : Pool) : Bool := countTags s p (fun x => x.st == .retiring) == 0

def auditPool (s : State) : State := internalFatal (conserveBreak s 4 0 0 1) 0 0 1

/-- The books may be audited now. -/
def auditDue (s : State) : Quantity → Bool
  | .credits p c => portUp s p.val && spGet 0 c.val (getPort s p.val).owed == 0
  | .tagsQuota => poolSettled s .quota
  | .tagsExpress => poolSettled s .express
  | .tagsFabric => poolSettled s .fabric
  | .tagsParcel => poolSettled s .parcel
  | .tokens p | .queues p => fenceMode s p.val != 2
  | .allotments => smWorks s

def allotted (s : State) : Nat := ((List.range 4).map fun q => regFld s .govAllot 0 q 0 0 20).sum

/-- What follows an imbalance. Allotments that exceed the budget force the fallback rule (R591). -/
def imbalance (s : State) : Quantity → State
  | .credits p _ => linkDown (conserveBreak s 2 6 p.val 0) p.val 4
  | .tagsQuota | .tagsExpress | .tagsFabric | .tagsParcel => auditPool s
  | .tokens p => fenceFull (conserveBreak s 3 1 p.val 2) p.val
  | .queues p => fenceFull (conserveBreak s 3 1 p.val 3) p.val
  | .allotments =>
    let s := conserveBreak s 2 10 0 5
    govRefresh (setFld s .govStatus 0 0 0 4 4 (max 4 (regFld s .govStatus 0 0 0 4 4)))

/-- `upset`: the hardware finds its books out of balance. The model's own books always balance, but for the allotments,
whose sum the audit takes. -/
def execConservationAudit (what : Quantity) (upset : Bool) (s : State) : Res :=
  let out := upset || (what == .allotments && decide (budget s < allotted s))
  whenDue (auditDue s what && firmwareReady s) s (.next (if out then imbalance s what else s))

/-! ### The host log ring (R628) -/

/-- The first record of the central log, in SEQ order, that the ring has yet to take. -/
def ringNext (s : State) : Option LogRec :=
  oldestOf (s.log.central.filter fun r => !r.toHost && regFld s .logRcfg 0 0 0 8 3 ≤ r.sev)

def ringFull (s : State) : Bool :=
  (regFld s .logRtail 0 0 0 0 16 + 1) % 2 ^ regFld s .logRcfg 0 0 0 0 5 == regFld s .logRhead 0 0 0 0 16

def ringWrite (s : State) (r : LogRec) : State :=
  let t := regFld s .logRtail 0 0 0 0 16
  let base := regFld s .logRbase 0 0 0 12 52 * 4096
  let s := emitEntry 2 s 0 (base + 32 * t) (recBytes r)
  let s := { s with log := { s.log with
    central := s.log.central.map fun x => if x.seq = r.seq then { x with toHost := true } else x } }
  let s := setFld s .logRtail 0 0 0 0 16 ((t + 1) % 2 ^ regFld s .logRcfg 0 0 0 0 5)
  if regFld s .logRcfg 0 0 0 12 3 ≤ r.sev then sendVector s (regFld s .logRcfg 0 0 0 16 5) else s

def execHostLogRingWrite (s : State) : Res :=
  match ringNext s with
  | none => .next s
  | some r => whenDue (hostHere s && regBit s .logRcfg 0 0 0 31 && !ringFull s) s (.next (ringWrite s r))

end Sys2Proof.Machine
end

