-- ==== Sys2Proof/Machine/Power.lean ====
section
/-! DEFINITION. Rails, references and bring-up: cold reset, the power sequences, the phases of bring-up, HBM training (spec/18,
spec/19). -/

namespace Sys2Proof.Machine

def setPower (s : State) (p : PowerSt) : State := { s with power := p }

/-! ### Cold reset (R682, R684) -/

/-- What outlives cold reset: flash, OTP, the log spill ring, the test access port, the pins, what has been sent, and the
commands that wait. -/
def coldReset (s : State) : State :=
  { State.reset with
    variant := s.variant, pending := s.pending, nv := s.nv, free := s.free,
    test := { s.test with portTest := none, accDone := false, entered := false, locked := false },
    log := { logReset with old := s.log.old ++ s.log.spill },
    host := { hostReset with out := s.host.out.take s.host.sent, sent := s.host.sent },
    fab := { fabricReset with wire := s.fab.wire },
    sm := { smReset with out := s.sm.out },
    power := { powerReset with perst := s.power.perst, pwrdn := s.power.pwrdn, pwrdnDone := s.power.pwrdnDone,
                               drive := s.power.drive } }

/-- POR_N low, or VDD_MGMT lost. -/
def execPorNFall (s : State) : Res := whenDue (!s.power.por) s (.next (coldReset s))

/-- The fence registers that take their values from OTP (R620). -/
def otpFence : RegName → Bool
  | .sbCfence | .sbMufail | .sbSlvfail | .sbWayfence | .sbChfail | .sbPortfence => true
  | _ => false

/-- R6: the bits of a fence register that have a unit. -/
def fenceBits (s : State) (r : RegName) (i : Nat) (v : W64) : W64 :=
  match r with
  | .sbPortfence => BitVec.ofNat 64 (v.toNat % 2 ^ ports s.variant)
  | .sbChfail => BitVec.ofNat 64 (v.toNat % 2 ^ (min 32 (channels s.variant - 32 * i)))
  | _ => v

/-- One repair record. -/
def repairOne (s : State) (e : Nat × W64) : State :=
  match regFind e.1 with
  | some (r, _, i, _, _) =>
    if !otpFence r then s
    else
      let s := setReg s r 0 i 0 (fenceBits s r i e.2)
      if r = .sbWayfence then modSlice s i fun c => { c with fenced := e.2.setWidth 16 } else s
  | none => s

/-- POR_N high: straps sampled (R567), fences from OTP (R620), the boot ROM and the power-up steps start (R663). -/
def porRelease (s : State) (straps : BitVec 6) : State :=
  let s := setPower s { s.power with por := false, pwrdn := false, pwrdnDone := false, rails := .rising 1 }
  let s := setReg s .smStraps 0 0 0 (straps.setWidth 64)
  let s := setFld s .dbgCtl 0 0 0 31 1 s.nv.dbgLock.toNat
  if s.nv.otpOk then s.nv.repair.foldl repairOne s else s

def execPorNRelease (straps : BitVec 6) (s : State) : Res :=
  whenDue s.power.por s (.next (porRelease s straps))

/-! ### Rails (R663, R667) -/

/-- Table 18.6: a step's power-good; a VDD_CORE rail rises at its setpoint for 1,200 MHz. -/
def stepGood (s : State) (k : Nat) : State :=
  let s := if 5 ≤ k then setVolt s (k - 5) 1200 else s
  setPower s { s.power with rails := if k < 8 then .rising (k + 1) else .on }

def execPowerUpStep (s : State) : Res :=
  match s.power.rails with
  | .rising k => whenDue (!s.power.por) s (.next (stepGood s k))
  | _ => .next s

/-- *When it fails* of Sequencing: RAIL_FAIL with the step, and VREG_FAULT with the rail. -/
def execPowerGoodTimeout (s : State) : Res :=
  match s.power.rails with
  | .rising k =>
    whenDue (!s.power.por) s (.next (bootStop (post s .vregFault 10 0 none k 0) 1 k 15 0))
  | _ => .next s

/-- Every unread record moves to the flash spill ring (R667, step 2). -/
def spillUnread : Nat → LogSt → LogSt
  | 0, l => l
  | n + 1, l => spillUnread n (spillOne l)

/-- R667. -/
def powerDown (s : State) : State :=
  let s := fatalHalt s
  let s := if smWorks s then { s with log := spillUnread s.log.central.length s.log } else s
  let s := railsOff s .down
  setPower s { s.power with pwrdn := true, pwrdnDone := true }

def execPwrdnN (s : State) : Res := whenDue (!s.power.por && !s.power.pwrdn) s (.next (powerDown s))

/-! ### Reference clocks (R673, Table 18.9) -/

/-- The ports of an I/O die. -/
def portsOfDie (s : State) (d : Nat) : List Nat := ((List.range 8).map fun j => 8 * d + j).filter fun p => p < ports s.variant

/-- A port stops with its reference. -/
def portStops (s : State) (p : Nat) : State :=
  if portUp s p then linkDown s p 5
  else if (getPort s p).st = 0 then s
  else modPort s p fun x => quietPort x 1

def lostRef : RefPin → RefClk
  | .pe => .pe
  | .ser d => .ser d.val
  | .mclk => .mclk

/-- Without MCLK25 the Stationmaster restarts as R566 does: a boot in progress starts again, as at a watchdog expiry. -/
def loseRef (s : State) (r : RefPin) : State :=
  let s' := setPower s { s.power with lost := s.power.lost ++ [lostRef r] }
  match r with
  | .pe => setHost s' { s'.host with linkUp := false }
  | .ser d =>
    let t := (portsOfDie s' d.val).foldl portStops s'
    if d.val = 0 then internalFatal t 0 0 0 else t
  | .mclk =>
    if smWorks s then smRestart (post s' .smWatchdog 10 0 none 0 0) .watchdog
    else if s.sm.st = 1 then bootStart (post s' .smWatchdog 10 0 none 0 0)
    else s'

def execReferenceLoss (ref : RefPin) (s : State) : Res :=
  whenDue (!s.power.por && !s.power.lost.contains (lostRef ref)) s (.next (loseRef s ref))

/-- Only cold reset restarts the part after the loss of SERCLK[0]. -/
def returnRef (s : State) (r : RefPin) : State :=
  let s' := setPower s { s.power with lost := s.power.lost.filter (· != lostRef r) }
  match r with
  | .pe => trainPcie s'
  | .ser d => if d.val = 0 then s else s'
  | .mclk => s'

def execReferenceReturn (ref : RefPin) (s : State) : Res :=
  whenDue (!s.power.por && s.power.lost.contains (lostRef ref)) s (.next (returnRef s ref))

/-! ### The topology descriptor (R509 to R512) -/

/-- A field of the descriptor. -/
def topoNat (b : List Byte) (o n : Nat) : Nat := leNat ((b.drop o).take n)

def topoSize (b : List Byte) (d : Nat) : Nat := topoNat b (17 + d) 1

/-- A device ID inside the dimensions. -/
def topoInside (b : List Byte) (id : Nat) : Bool := [0, 1, 2].all fun d => coordOf id d < topoSize b d

def topoDir (b : List Byte) (p : Nat) : Nat := topoNat b (28 + p) 1 % 8
def topoLane (b : List Byte) (p : Nat) : Nat := topoNat b (28 + p) 1 / 8 % 4

/-- R510: the sizes of each shape. -/
def topoShape (b : List Byte) : Bool :=
  let x := topoSize b 0
  let y := topoSize b 1
  let z := topoSize b 2
  1 ≤ x && x ≤ 16 && 1 ≤ y && y ≤ 16 && 1 ≤ z && z ≤ 4 &&
    (match topoNat b 16 1 with
     | 0 => x == 1 && y == 1 && z == 1
     | 1 => 2 ≤ x && y == 1 && z == 1
     | 2 => 2 ≤ x && 2 ≤ y && z == 1
     | 3 => 2 ≤ x && 2 ≤ y && 2 ≤ z
     | _ => false)

/-- R510: the ports of each direction. -/
def topoPorts (v : Variant) (b : List Byte) : Bool :=
  let n := topoNat b 22 1
  (List.range 32).all (fun p => topoNat b (28 + p) 1 < 32 && topoDir b p ≤ 6 && (p < ports v || topoDir b p == 0)) &&
    ([1, 2, 3, 4, 5, 6] : List Nat).all fun d =>
      let ps := (List.range 32).filter fun p => topoDir b p == d
      if 2 ≤ topoSize b (dirDim d) then
        ps.length == n && (List.range n).all fun l => ps.any fun p => topoLane b p == l
      else ps.isEmpty

/-- R510. -/
def topoOk (v : Variant) (b : List Byte) : Bool :=
  topoNat b 0 4 == 0x4B545044 && topoNat b 4 2 == 1 && topoNat b 6 2 == 0 && crc32 (b.take 60) == topoNat b 60 4
    && topoShape b && topoNat b 20 2 < 1024 && topoInside b (topoNat b 20 2)
    && 1 ≤ topoNat b 22 1 && topoNat b 22 1 ≤ 4 && topoNat b 23 1 == 0
    && topoNat b 24 2 < 1024 && topoInside b (topoNat b 24 2) && topoNat b 26 2 == 0 && topoPorts v b

/-- The descriptor is written to the Junction and committed; logical device IDs start as the device's own. -/
def topoCommit (s : State) (b : List Byte) : State :=
  let s := setReg s .jnSelf 0 0 0 (BitVec.ofNat 64 (topoNat b 20 2))
  let s := setReg s .jnDims 0 0 0 (BitVec.ofNat 64
    (topoNat b 16 1 + (topoSize b 0 - 1) * 2 ^ 4 + (topoSize b 1 - 1) * 2 ^ 8 + (topoSize b 2 - 1) * 2 ^ 12
      + (topoNat b 22 1 - 1) * 2 ^ 16))
  let s := setReg s .jnDescid 0 0 0 (BitVec.ofNat 64 (topoNat b 12 4))
  let s := setReg s .jnFabid 0 0 0 (BitVec.ofNat 64 (topoNat b 8 4))
  let s := (List.range (ports s.variant)).foldl (fun s p =>
    setReg s .jnPortmap 0 p 0 (BitVec.ofNat 64 (topoNat b (28 + p) 1))) s
  let s := setFld s .jnCfg 0 0 0 0 1 1
  let s := (List.range 64).foldl (fun s c => setReg s .dspLdev 0 c 0 (BitVec.ofNat 64 (selfId s))) s
  let s := { s with fab := { s.fab with committed := true, locked := true, timeMaster := topoNat b 24 2 } }
  portsTrain (setTtBit s 3 (topoNat b 24 2 == topoNat b 20 2))

/-- R511. -/
def topoBad (s : State) : State :=
  bootWarn (post (setFld s .jnStatus 0 0 0 1 1 1) .descInvalid 13 0 none 0 0) 14 0

/-- R516: discovery has ended. -/
def discovered (s : State) : Bool :=
  regBit s .jnStatus 0 0 0 1 ||
    (s.fab.committed && (List.range (ports s.variant)).all fun p =>
      !mapped s p || (getPort s p).ended || (getPort s p).st == 0)

/-! ### Phases (R695 to R697) -/

def enterPhase (s : State) (k : Nat) : State := setPower s { s.power with phase := k }

/-- Phase 1: the link to I/O die 0 must work; the ports of another die whose link fails stay OFF. -/
def linksEnd (s : State) (failed : BitVec 4) : State :=
  if failed.getLsbD 0 then bootStop s 8 0 15 s.sm.st
  else
    let dead := ([1, 2, 3] : List Nat).filter fun d => failed.getLsbD d && d < ioDies s.variant
    let s := setPower s { s.power with deadDies := dead }
    let s := if dead.isEmpty then s else bootWarn s 9 ((dead.map fun d => 2 ^ d).sum)
    let b := memRead s.nv.desc 0 64
    enterPhase (if topoOk s.variant b then topoCommit s b else topoBad s) 2

/-- R620: the logical IDs of every fenced core find their hosts. -/
def remapAll (s : State) : State :=
  (List.range 160).foldl (fun s p =>
    match fenceMode s p with
    | 0 => s
    | 1 => (servedBy s p).foldl (fun s n => remap s n p) s
    | _ => (servedBy s p).foldl (fun s n => setFld s .sbLmap 0 n 0 8 1 1) s) s

/-- Phase 2: arrays are zero, failed units are fenced, and the fences of OTP and of the self-test take effect. -/
def arraysEnd (s : State) (fatal : Option (Fin 32)) (units : List FenceUnit) : State :=
  match fatal with
  | some k => bootStop s 10 k.val 15 s.sm.st
  | none =>
    let s := { s with cores := [] }
    let s := units.foldl fenceUnit s
    let s := if units.isEmpty then s else bootWarn s 11 units.length
    enterPhase (remapAll s) 3

/-- Channels of this variant. -/
def allChannels (s : State) : List Nat := List.range (channels s.variant)

def hbmEnd (s : State) : State :=
  if (allChannels s).any fun k => spGet false k s.power.trained then enterPhase s 4
  else bootStop s 12 0 15 s.sm.st

/-- Phase 4: every trained channel holds zero. -/
def hbmInitEnd (s : State) : State := enterPhase { s with hbm := [], hbmPoison := [], own := [] } 5

/-- Phase 5: firmware ready. -/
def controlEnd (s : State) : State :=
  enterPhase (setFld (setSm s { s.sm with st := 2, upd := if s.nv.dirPending = 2 then 3 else s.sm.upd }) .pxStatus 0 0 0 0 1 1) 6

/-- Phase 6: bring-up complete; the governor is enabled unless STRAP_GOVDIS (R593). -/
def fabricEnd (s : State) : State :=
  let on := !regBit s .smStraps 0 0 0 4
  let s := setSm s { s.sm with govWant := on, govOn := on }
  let s := enterPhase s 7
  let s := setPower s { s.power with drive := (s.power.drive && s.test.entered) || s.test.pins != .core }
  govRefresh (if s.host.linkUp then s else trainPcie s)

/-- The ROM has chosen an image, and hands over to it once the rails are on; or it has found none. -/
def romEnd (s : State) (a b : ImgChk) : Res :=
  let t := bootRom s a b
  if t.power.booted then whenDue (s.power.rails == .on) s (.next (trainPcie (enterPhase t 1))) else .next t

/-- A phase ends: the one in progress. -/
def execBringupPhaseEnd (what : PhaseEnd) (s : State) : Res :=
  let ph (k : Nat) : Bool := !s.power.por && s.power.phase == k && (k == 0 || s.power.rails == .on)
  match what with
  | .rom a b => whenDue (ph 0) s (romEnd s a b)
  | .links f => whenDue (ph 1) s (.next (linksEnd s f))
  | .arrays f us => whenDue (ph 2) s (.next (arraysEnd s f us))
  | .hbm =>
    whenDue (ph 3 && (allChannels s).all fun k => spGet false k s.power.trained || channelFailed s k) s (.next (hbmEnd s))
  | .hbmInit => whenDue (ph 4) s (.next (hbmInitEnd s))
  | .control => whenDue (ph 5) s (.next (controlEnd s))
  | .fabric => whenDue (ph 6 && discovered s) s (.next (fabricEnd s))

/-! ### HBM training (R696) -/

/-- Channels that training has fenced. -/
def trainedOut (s : State) : Nat := (allChannels s).countP fun k => spGet 0 k s.power.tries == 3

def trainingAttempt (s : State) (k : Nat) (ok : Bool) : State :=
  if ok then setPower s { s.power with trained := spSet false k true s.power.trained }
  else
    let n := spGet 0 k s.power.tries + 1
    let s := setPower s { s.power with tries := spSet 0 k n s.power.tries }
    if n = 3 then bootWarn (fenceChannel s k) 13 (trainedOut s) else s

def execHbmTrainingAttempt (channel : Fin 128) (ok : Bool) (s : State) : Res :=
  let k := channel.val
  whenDue (!s.power.por && s.power.phase == 3 && k < channels s.variant && !spGet false k s.power.trained
      && !channelFailed s k) s
    (.next (trainingAttempt s k ok))

end Sys2Proof.Machine
end

