-- ==== Sys2Proof/Machine/Debug.lean ====
section
/-! DEFINITION. Debug mode, halt and step, accumulator tiles, the trace buffer's commands, port tests (spec/20, R718 to R734). -/

namespace Sys2Proof.Machine

/-! ### Sequencers and logical cores -/

/-- The logical core that the registers of a sequencer show: its own, or else one that it hosts. -/
def seqOf (s : State) (p : Nat) : Option Nat := if hostOf s p = some p then some p else (servedBy s p).head?

/-- The sequencer pair of a physical core is in debug halt. -/
def haltedAt (s : State) (p : Nat) : Bool := (servedBy s p).any fun n => (getCore s n).halted

/-! ### Halt, resume, step (R718 to R720) -/

/-- R719: HALT. -/
def haltCore (s : State) (p : Nat) : State :=
  if debugMode s && !haltedAt s p && !(servedBy s p).isEmpty then
    traceHaltTrigger (haltServed s p)
  else s

/-- The slots of a core whose next instruction commits even at a breakpoint. -/
def runningSlots (c : Core) : List SlotId :=
  [SlotId.bulk, SlotId.express].filter fun i => (coreSlot c i).phase == .running

def unhalt (c : Core) : Core := { c with halted := false, stepping := none, skipBp := runningSlots c }

/-- R720: RESUME. -/
def resumeCore (s : State) (p : Nat) : State :=
  if haltedAt s p then (servedBy s p).foldl (fun s n => modCore s n unhalt) s else s

/-- R720: STEP. -/
def stepCore (s : State) (p : Nat) (i : SlotId) : State :=
  match seqOf s p with
  | some n => if (getCore s n).halted then modCore s n fun c => { c with stepping := some i } else s
  | none => s

/-- R718: debug mode ends. -/
def debugOff (s : State) : State :=
  let s := { s with cores := spMap coreReset (fun _ c => if c.halted then unhalt c else c) s.cores }
  (List.range 160).foldl (fun s p => if regVal s .dbgBpctl p 0 0 = 0 then s else setReg s .dbgBpctl p 0 0 0) s

/-- R718, R12: a write to DBG_CTL of EN and LOCK; `refuse` posts LOCKED_WRITE. -/
def debugCtl (s : State) (en lock : Bool) (refuse : State → State) : State :=
  let s :=
    if s.test.locked then refuse s
    else
      let on := en && !regBit s .dbgCtl 0 0 0 31
      let was := debugMode s
      let s := setFld s .dbgCtl 0 0 0 0 1 on.toNat
      if was && !on then debugOff s else s
  let s := setFld s .dbgCtl 0 0 0 1 1 lock.toNat
  if lock then { s with test := { s.test with locked := true } } else s

/-! ### Registers and local store of a halted core (R722) -/

/-- The logical core whose registers the debug registers of a physical core show now. -/
def debugged (s : State) (p : Nat) : Option Nat :=
  match seqOf s p with
  | some n => if (getCore s n).halted then some n else none
  | none => none

def slotAt (k : Nat) : SlotId := if k = 0 then .bulk else .express

/-- Replace the bytes of `old` that `mask` covers. -/
def maskIn (old new mask : W64) : W64 := (old &&& ~~~mask) ||| (new &&& mask)

def debugPc (s : State) (p k : Nat) (new mask : W64) : State :=
  match debugged s p with
  | some n => modSlot s n (slotAt k) fun x =>
      { x with pc := (maskIn (x.pc.setWidth 64) new mask).setWidth 48, held := none, timeUp := false }
  | none => s

def debugG (s : State) (p k i : Nat) (new mask : W64) : State :=
  match debugged s p with
  | some n => modSlot s n (slotAt k) fun x =>
      setG x (BitVec.ofNat 5 i) (maskIn (getG x (BitVec.ofNat 5 i)) new mask)
  | none => s

def debugF (s : State) (p k i : Nat) (new mask : W64) : State :=
  match debugged s p with
  | some n => modSlot s n (slotAt k) fun x =>
      setF x (BitVec.ofNat 5 i) (maskIn (getF x (BitVec.ofNat 5 i)) new mask)
  | none => s

/-- The local-store byte address of DBG_LSADDR. -/
def lsCursor (s : State) (p : Nat) : Nat := 8 * regFld s .dbgLsaddr p 0 0 3 16

def lsAdvance (s : State) (p : Nat) : State :=
  setFld s .dbgLsaddr p 0 0 3 16 ((lsCursor s p / 8 + 1) % 65536)

/-- DBG_LSDATA: a read of stored bits, whatever their poison. -/
def lsDataRead (s : State) (p : Nat) : Nat × State :=
  match debugged s p with
  | some _ => (lsNat (getCore s p) (lsCursor s p) 8, lsAdvance s p)
  | none => (0, s)

/-- DBG_LSDATA: a write of bytes `b .. b + bs.length - 1` of the word. -/
def lsDataWrite (s : State) (p b : Nat) (bs : List Byte) : State :=
  match debugged s p with
  | some _ => lsAdvance (modCore s p fun c => lsWrite c (lsCursor s p + b) bs false) p
  | none => s

/-! ### Accumulator tiles (R723, R724) -/

/-- Everything that a read of an element needs but for the scoreboard. -/
def accOpen (s : State) (p : Nat) : Bool := debugMode s && haltedAt s p && fenceMode s p != 2

/-- A read of element (row, column) of a tile, and ACCBUSY when a pending operation is why it returns zero. -/
def accRead (s : State) (p tile row col : Nat) : Nat × State :=
  let c := getCore s p
  if !accOpen s p then (0, s)
  else if (spGet [] tile c.score).isEmpty then ((spGet 0#64 (tile * 512 + row * 32 + col) c.acc).toNat, s)
  else (0, setFld s .dbgStatus p 0 0 4 1 1)

/-! ### The trace buffer (R725 to R727) -/

/-- ARM: WPTR and TRIGGERED clear, and capture starts. -/
def traceArm (s : State) : State :=
  { s with trace := { s.trace with armed := true, triggered := false, left := 0, wptr := 0 } }

def traceStop (s : State) : State := { s with trace := { s.trace with armed := false } }

/-- DBG_TRCMD with both bits: ARM, then STOP. -/
def traceCmd (s : State) (arm stop : Bool) : State :=
  let s := if arm then traceArm s else s
  if stop then traceStop s else s

/-- R725: the bytes of an entry; one that has not been written reads as zero. -/
def traceBytes (s : State) (e : Nat) : List Byte :=
  match spGet none e s.trace.ent with
  | some x => leBytes 8 x.time ++ leBytes 2 x.unit ++ leBytes 1 x.kind ++ leBytes 1 0 ++ leBytes 4 x.data
  | none => List.replicate 16 0#8

/-! ### Port tests (R730, R734) -/

def portTestOk (s : State) (p mode : Nat) : Bool :=
  hasPort s p && regBit s .sbPortfence 0 0 0 p && (getPort s p).st == 0 && (mode == 1 || mode == 2)

/-- A write to DBG_PORTTEST. -/
def portTestWrite (s : State) (p mode : Nat) (go : Bool) : State :=
  let s := setFld (setFld s .dbgPorttest 0 0 0 0 5 p) .dbgPorttest 0 0 0 5 2 mode
  if !go then s
  else if portTestOk s p mode then
    let s := setFld (setReg s .dbgPorterr 0 0 0 0) .dbgPorttest 0 0 0 30 1 0
    { s with test := { s.test with portTest := some p } }
  else setFld s .dbgPorttest 0 0 0 30 1 1

end Sys2Proof.Machine
end

