-- ==== Sys2Proof/Machine/Registers.lean ====
section
/-! DEFINITION. Control and status space: what a register reads as and what a write to it does, for every register of the
tables and every requester (R6, R10 to R17, R456, R457, R601, R616, R631, R711 to R713, R733), and the rows that are register
accesses. -/

namespace Sys2Proof.Machine

/-! ### Values that are computed when they are read -/

/-- A flag at a bit. -/
def bitAt (b : Bool) (k : Nat) : Nat := b.toNat * 2 ^ k

/-- The set of the numbers below `n` that satisfy a predicate, as a word. -/
def numSet (n : Nat) (p : Nat → Bool) : Nat := ((List.range n).map fun i => bitAt (p i) i).sum

/-- Numbers of `w` bits, the first lowest. -/
def packed (w : Nat) : List Nat → Nat
  | [] => 0
  | x :: xs => x % 2 ^ w + 2 ^ w * packed w xs

/-- Table 3.3. -/
def stallCode : Stall → Nat
  | .none => 0 | .icache => 1 | .dep => 2 | .cop => 3 | .tag => 4 | .fq => 5 | .xq => 6 | .score => 7
  | .sync => 8 | .trap => 9 | .switch => 10

/-- The stall cause of the slot that holds the gate. -/
def stallNow (c : Core) (i : SlotId) : Nat :=
  match c.fetchMiss, (coreSlot c i).held with
  | some _, _ => 9
  | none, some h => stallCode h.why
  | none, none => 0

/-- SEQ_STATUS (Table 3.9). CTX reads zero while no slot runs (DESIGN CHOICE, log 51: the table gives only the context of
the running slot). -/
def seqStatusWord (s : State) (p : Nat) : Nat :=
  let c := ((seqOf s p).map (getCore s)).getD coreReset
  let b := slotBusy c.bulk
  let x := slotBusy c.express
  let i := if x then SlotId.express else .bulk
  bitAt b 0 + bitAt x 1 + bitAt (haltedAt s p) 2 + bitAt (fenceMode s p != 0) 3 + stallNow c i * 2 ^ 4
    + (if b || x then (coreSlot c i).ctx else 0) * 2 ^ 8

def seqTagheldWord (s : State) (p : Nat) : Nat :=
  match seqOf s p with
  | some n => coreHolds s .quota n + coreHolds s .express n * 2 ^ 16 + coreHolds s .parcel n * 2 ^ 24
  | none => 0

/-- R16: an S field reads zero before bring-up has passed phase 2, which loads the fence map. -/
def seqLogcoreWord (s : State) (p : Nat) : Nat :=
  if s.power.phase < 3 then 0 else (seqOf s p).getD (Config.unboundCore p).toNat

/-- The fetch engine's work of a core: commands of its fetch queues, a write stream's once a tile is staged, and register
reads and writes of other devices that have not left. -/
def fetchWork (s : State) (n : Nat) : List (Nat × Cmd) :=
  s.tags.filterMap fun e =>
    match tagCmd s e.1 with
    | some c =>
      let queued := (getSlot s n c.slot).fq.contains e.1
      let waits := isWrite c && c.outbox.isEmpty && c.ready && (c.stream.map fun st => decide (c.unit ≤ st.tile)).getD false
      if c.core = n && ((queued && !waits) || windowWaits c) then some (e.1, c) else none
    | none => none

def workHalted (e : Nat × Cmd) : Bool := (e.2.stream.bind (·.halted)).isSome

/-- The context address of the next line of a command. -/
def workVa (c : Cmd) : Option Nat :=
  match c.op, c.stream with
  | .block .cmaint, _ => if 128 * c.unit < c.blk.w2 then some (maintVa c) else none
  | _, some st => (nextLine st).map (128 * ·)
  | _, none => none

/-- R415, R431: it waits for a lookaside fill or a translation, or for room in the fault table. -/
def workXlate (s : State) (e : Nat × Cmd) : Bool :=
  ((e.2.stream.map (·.xlate)).getD false) || (s.px.any fun m => m.who == .stream e.1)
    || (readTurn s e.2 e.1 && match workVa e.2 with
        | some a => !blockReady s e.2 (lineXl s e.2.core e.2.slot e.2.ctx a (isWrite e.2))
        | none => false)

/-- It lacks a token for its next tile. -/
def workToken (s : State) (e : Nat × Cmd) : Bool :=
  match e.2.stream with
  | some st => (nextLine st).isSome && !st.fetchTiles.contains st.tile && (getSlot s e.2.core e.2.slot).tokFree == 0
  | none => false

/-- It waits for earlier commands of its slot (R233, R189). -/
def workOrder (s : State) (e : Nat × Cmd) : Bool :=
  !readTurn s e.2 e.1 || match e.2.stream with
    | some st => !st.fetchTiles.contains st.tile && !tokenTurn s e.2
    | none => false

/-- R241, Table 6.3: the fetch engine's cause. A request that nothing holds counts as issued, and a wait that the table
does not list as no work (DESIGN CHOICE, log 3). -/
def feCause (s : State) (n : Nat) : Nat :=
  let l := fetchWork s n
  let live := l.filter fun e => !workHalted e
  if l.isEmpty then 7
  else if enginesRun s n && live.any (fun e => requestReady s e.1 e.2 false || requestReady s e.1 e.2 true) then 0
  else if live.isEmpty then 1
  else if live.any (workXlate s) then 2
  else if live.any fun e => !isWrite e.2 && !readRoom s n e.2.slot then 3
  else if live.any fun e => isWrite e.2 && !writeRoom s n e.2.slot then 4
  else if live.any (workToken s) then 5
  else if live.any (workOrder s) then 6
  else 7

/-- The slot whose work the execute engine runs. -/
def xeSlotNow (s : State) (n : Nat) : SlotId :=
  if (getSlot s n .express).xq.isEmpty || (!(getSlot s n .bulk).xq.isEmpty && slotTurn s n .bulk) then .bulk else .express

/-- What a command at the head of an execute queue waits for. -/
def unitWait (s : State) (c : Cmd) : Nat :=
  if isWrite c && (c.ready && ((getSlot s c.core c.slot).tokFree == 0 || !tokenTurn s c)) then 4
  else if !isWrite c && c.stream.isSome then 3
  else if !isWrite c && !c.ready then 3
  else 7

/-- R241, Table 6.3: the execute engine's cause. A unit that can run counts as run; commands of one slot execute in
order (R188), so that no unit waits on a scoreboard; a wait that the table does not list counts as no work (DESIGN CHOICE,
log 3). -/
def xeCause (s : State) (n : Nat) : Nat :=
  let i := xeSlotNow s n
  if (getCore s n).xeTurned then 1
  else if unitDue s n i then 0
  else
    let k := (((xqHead s n i).bind (tagCmd s)).map (unitWait s)).getD 7
    if k = 7 && isExpress i && !(getSlot s n .bulk).xq.isEmpty then 5 else k

def slotHalted (s : State) (n : Nat) (i : SlotId) : Bool :=
  s.tags.any fun e => ((tagCmd s e.1).map fun c => c.core == n && c.slot == i && workHalted (e.1, c)).getD false

/-- FE_STATUS (Table 6.4). -/
def feStatusWord (s : State) (n : Nat) : Nat :=
  readsOf s n (fun _ => true) % 256 + writesOf s n (fun _ => true) % 128 * 2 ^ 8
    + (getSlot s n .bulk).tokFree % 8 * 2 ^ 16 + (getSlot s n .express).tokFree % 8 * 2 ^ 20
    + feCause s n * 2 ^ 24 + bitAt (slotHalted s n .bulk) 28 + bitAt (slotHalted s n .express) 29

def xeStatusWord (s : State) (n : Nat) : Nat := xeCause s n + bitAt (isExpress (getCore s n).xeSlot) 4

/-- RMU_LASTCLOSE and R306: the lowest value of the device's Row Merge Units. -/
def lowestAt (s : State) (f : Rmu → Sp Nat) (ctx : Nat) : Nat :=
  match (List.range (channels s.variant)).map fun k => spGet 0 ctx (f (getRmu s k)) with
  | [] => 0
  | x :: xs => xs.foldl min x

/-- The stations whose arrivals a Matrix Unit serves (R325). -/
def servedStations (s : State) (m : Nat) : List Nat := (List.range 20).filter fun n => muServer s n == some m

/-- Instances that a Matrix Unit works on. -/
def layersAt (s : State) (m : Nat) : List Layer :=
  s.layers.filter fun l => l.complete && (servedStations s m).any fun n => l.mask.testBit n

/-- A failed station of an active instance that a Matrix Unit serves. -/
def servingFor (s : State) (m : Nat) : Option Nat :=
  (servedStations s m).find? fun n => n != m && (layersAt s m).any fun l => l.mask.testBit n

/-- R325: the stations that a Matrix Unit serves, for each instance. -/
def muWork (s : State) (m : Nat) : List (Layer × Nat) :=
  (layersAt s m).flatMap fun l => (muOrder s m l).map fun n => (l, n)

/-- R344, Table 8.5. A step that nothing holds counts as retired; of a sparse instance it may wait for position-bus beats
or a code block's turn, whose cycles the model does not count: which of the three is free (log 2, 3). A wait that the table
does not list counts as no instance (DESIGN CHOICE, log 3). -/
def muCause (s : State) (m : Nat) : Nat :=
  let l := layersAt s m
  let w := muWork s m
  if l.isEmpty then 6
  else if (spGet muReset m s.mus).turned then 5
  else match w.find? fun e => consumeDue s e.1 e.2 with
    | some e =>
      if !e.1.sp then 0
      else match (Config.freeWord (s.free + m)).toNat % 3 with
        | 0 => 0
        | 1 => 2
        | _ => 3
    | none =>
      if l.all fun x => landedAt s m x == 0 then 1
      else if w.any fun e => !(getStation e.1 e.2).landed.isEmpty && !storeRoom s m e.1 (getStation e.1 e.2) then 4
      else 6

/-- MU_STATUS (Table 8.6). -/
def muStatusWord (s : State) (m : Nat) : Nat :=
  let l := layersAt s m
  let partner := if muFailed s m then (muServer s m).getD 0 else (servingFor s m).getD 0
  bitAt (l.any fun x => !x.express) 0 + bitAt (l.any fun x => x.express) 1 + bitAt (muFailed s m) 2
    + bitAt (servingFor s m).isSome 3 + partner * 2 ^ 8 + muCause s m * 2 ^ 16

/-- SLV_STATUS, SLV_LANEBUSY, SLV_LANEOFF (Table 9.7). -/
def lanesBusy (s : State) (k : Nat) : Nat := numSet 32 (laneBusy s k)
def lanesOffSet (s : State) (k : Nat) : Nat := numSet 32 fun l => spGet false (laneKey k l) s.laneOff

def slvStatusWord (s : State) (k : Nat) : Nat :=
  (List.range 32).countP (laneBusy s k) + bitAt (slvFailed s k) 8 + bitAt (k == 0 && laneReserved s) 9
    + (List.range 32).countP (fun l => spGet false (laneKey k l) s.laneOff) * 2 ^ 16

def problemsWaiting (s : State) : Nat := s.problems.countP fun p => p.lane.isNone

/-- RC_WAYSTATE, RC_CECNT (Table 10.10). -/
def wayStateWord (s : State) (i : Nat) : Nat := packed 2 ((List.range 16).map fun w => wayState (getSlice s i) w)
def ceWord (s : State) (i j : Nat) : Nat := packed 8 ((List.range 4).map fun w => spGet 0 (4 * j + w) (getSlice s i).ce)

/-- MC_OWN (Table 11.12); R6: a granule beyond installed memory reads as zero. -/
def ownWord (s : State) (j : Nat) : Nat :=
  packed 8 ((List.range 4).map fun i => if (4 * j + i) * 2 ^ 21 < installed s.variant then ownByte s (4 * j + i) else 0)

/-- The queue block (Table 12.9). -/
def qCtlWord (s : State) (v ctx q : Nat) : Nat :=
  let e := (getQueue s ctx q).err
  v + bitAt (e != 0) 2 + e % 16 * 2 ^ 4

/-- KL_STATUS (Table 13.10). -/
def klStatusWord (s : State) (p : Nat) : Nat :=
  let x := getPort s p
  x.st + x.width * 2 ^ 3 + portDir s p * 2 ^ 5 + portLane s p * 2 ^ 8 + x.misreason % 16 * 2 ^ 10 + x.peer % 1024 * 2 ^ 14
    + x.peerport % 32 * 2 ^ 24

/-- JN_STATUS and JN_BUNDLE (Table 13.11). -/
def jnStatusWord (s : State) (v : Nat) : Nat :=
  v % 4 / 2 * 2 + bitAt (discovered s) 0 + (List.range 32).countP (portUp s) * 2 ^ 8

def jnBundleWord (s : State) : Nat := packed 3 (([1, 2, 3, 4, 5, 6] : List Nat).map fun d => (bundleUp s d).length)

/-- TT_NSFRAC: the reader's snapshot (R544). -/
def nsFracWord (s : State) (key : Nat) : Nat :=
  let x := spGet snapZero key s.time.snaps
  x.frac + x.ns * 2 ^ 16

/-- SB_CSTAT (Table 16.6). -/
def cstatWord (s : State) (v p : Nat) : Nat :=
  fenceMode s p + v % 8 / 4 * 4 + bitAt (guestOf s p).isSome 3 + (guestOf s p).getD 0 * 2 ^ 8

def logStatusWord (s : State) : Nat :=
  bitAt s.log.fatal 0 + bitAt s.log.lostHi 1 + s.log.central.length * 2 ^ 16

def pxStatusWord (s : State) (v : Nat) : Nat :=
  match s.ctrl with
  | c :: _ => v % 2 + 2 + c.code % 256 * 2 ^ 8
  | [] => v % 2

/-- DBG_STATUS (Table 20.6): HALTED and STEPPING beside the stored bits. -/
def dbgStatusWord (s : State) (v p : Nat) : Nat :=
  v / 4 * 4 + bitAt (haltedAt s p) 0 + bitAt ((servedBy s p).any fun n => (getCore s n).stepping.isSome) 1

def dbgSlotWord (s : State) (p k : Nat) (f : Slot → Nat) : Nat :=
  match debugged s p with
  | some n => f (getSlot s n (slotAt k))
  | none => 0

/-- The value of a register element of a block of the part, whatever the access; `key` is the reader's snapshot. -/
def regNow (s : State) (key : Nat) (r : RegName) (u i j : Nat) : Nat :=
  let v := (regVal s r u i j).toNat
  match r with
  | .coreId => u + u / 8 * 2 ^ 8 + u % 8 * 2 ^ 13 + u / 40 * 2 ^ 16
  | .seqStatus => seqStatusWord s u
  | .seqExpress => ((getCore s u).expressPend.getD (getCore s u).expressEn).toNat
  | .seqTagheld => seqTagheldWord s u
  | .seqLogcore => seqLogcoreWord s u
  | .seqTagpool => poolFree s .express + poolFree s .fabric * 2 ^ 8 + poolFree s .parcel * 2 ^ 16
  | .seqQuotasum => ((List.range 160).map fun n => regFld s .seqTagquota 0 n 0 0 6).sum
  | .feStatus => feStatusWord s u
  | .xeStatus => xeStatusWord s u
  | .rmuLastclose => lowestAt s (·.lastClose) i
  | .rmuApplied => lowestAt s (·.applied) i
  | .muStatus => muStatusWord s u
  | .slvStatus => slvStatusWord s u
  | .slvLanebusy => lanesBusy s u
  | .slvLaneoff => lanesOffSet s u
  | .slvPending => if u = 0 then problemsWaiting s else 0
  | .rcStatus => bitAt (cacheEnabled s) 0 + bitAt s.wayCmd.isSome 1
  | .rcWaystate => wayStateWord s u
  | .rcWayinv => (getSlice s u).inv.toNat + (getSlice s u).fenced.toNat * 2 ^ 16
  | .rcWayfault => (getSlice s u).faultCe.toNat + (getSlice s u).faultUe.toNat * 2 ^ 16
  | .rcSalt => (getSlice s u).salt
  | .rcLfsr => (getSlice s u).lfsr.toNat
  | .rcMissuse => (getSlice s u).misses.length
  | .rcCecnt => ceWord s u i
  | .xlEpoch => s.epoch % 2 ^ 32
  | .xlPending => s.pend.length
  | .xlPriout => s.priOut.length
  | .mcOwn => ownWord s i
  | .dspCtxreset => bitAt s.host.ctxResetBusy.isSome 30
  | .dspFnreset => bitAt s.host.fnResetBusy.isSome 30
  | .dspQctl => qCtlWord s v i j
  | .dspQhead => (getQueue s i j).sqHead + (getQueue s i j).cqTail * 2 ^ 16
  | .dspQtails => (getQueue s i j).sqTail + (getQueue s i j).cqHead * 2 ^ 16
  | .dspQout =>
    (getQueue s i j).out + (if qEnabled s i j || (getQueue s i j).out != 0 then qCredits s i j else 0) * 2 ^ 16
  | .klStatus => klStatusWord s u
  | .klCredit => spGet 0 i (getPort s u).credits % 256
  | .jnStatus => jnStatusWord s v
  | .jnBundle => jnBundleWord s
  | .ttSec => (spGet snapZero key s.time.snaps).sec
  | .ttNsfrac => nsFracWord s key
  | .ttArmed => armed s % 65536
  | .ttHoldsec => holdSeconds s
  | .smStatus => s.sm.st + s.sm.image * 2 ^ 8 + s.sm.upd * 2 ^ 9
  | .smFwver => s.sm.version
  | .smMboxstat => v / 2 * 2 + bitAt (s.sm.mbox || s.sm.st == 4) 0
  | .smBoot => bootWord s
  | .govStatus => v / 4 * 4 + govState s
  | .sbCstat => cstatWord s v u
  | .logStatus => logStatusWord s
  | .pxStatus => pxStatusWord s v
  | .dbgStatus => dbgStatusWord s v u
  | .dbgPc => dbgSlotWord s u i fun x => x.pc.toNat
  | .dbgG => dbgSlotWord s u i fun x => (getG x (BitVec.ofNat 5 j)).toNat
  | .dbgF => dbgSlotWord s u i fun x => (getF x (BitVec.ofNat 5 j)).toNat
  | .dbgTrstat => bitAt s.trace.armed 0 + bitAt s.trace.triggered 1 + s.trace.wptr * 2 ^ 16
  | _ => v

/-! ### Reading (R11, R17) -/

/-- R6: the block and port exist on this variant. -/
def regHere (s : State) (r : RegName) (u i : Nat) : Bool :=
  ((regInfo r).blk != .kl || u < ports s.variant) && (r != .jnPortmap || i < ports s.variant)

/-- The bits of the fields of one access type. -/
def fieldMask (r : RegName) (p : Acc → Bool) : W64 :=
  BitVec.ofNat 64 (((regInfo r).fields.map fun f => if p f.acc then (2 ^ f.width - 1) * 2 ^ f.lsb else 0).sum)

/-- R17: the RC fields of a register that is read become zero, covered or not. -/
def clearRc (s : State) (r : RegName) (u i j : Nat) : State :=
  let m := fieldMask r (· == .rc)
  if m = 0#64 || regVal s r u i j &&& m = 0#64 then s else setReg s r u i j (regVal s r u i j &&& ~~~m)

/-- Read a register element, with what the read does. -/
def readReg (s : State) (key : Nat) (r : RegName) (u i j : Nat) : Nat × State :=
  if !regHere s r u i then (0, s)
  else match r with
    | .ttSec => let t := captureTt s key; (regNow t key r u i j, t)
    | .dbgLsdata => lsDataRead s u
    | _ => (regNow s key r u i j, clearRc s r u i j)

/-- What lies at an address of control space. -/
inductive Place where
  | reg (r : RegName) (u i j b : Nat)
  /-- R723: byte `b` of element (row, col) of an accumulator tile of a physical core. -/
  | acc (p tile row col b : Nat)
  | trace (e b : Nat)
  | nothing
  deriving DecidableEq, Repr

/-- R710, R723, R725. -/
def placeOf (a : Nat) : Place :=
  if 0xF000000000 ≤ a && a < 0xF000000000 + 160 * 0x20000 && 0x10000 ≤ a % 0x20000 then
    let o := a % 0x20000 - 0x10000
    .acc ((a - 0xF000000000) / 0x20000) (o / 4096) (o / 256 % 16) (o / 8 % 32) (o % 8)
  else if blkBase .dbg 0 + 0x10000 ≤ a && a < blkBase .dbg 0 + 0x20000 then
    .trace ((a - (blkBase .dbg 0 + 0x10000)) / 16) (a % 16)
  else match regFind a with
    | some (r, u, i, j, b) => .reg r u i j b
    | none => .nothing

/-- Does an aligned 8-byte access at a place meet one 8-byte unit? -/
def placeWide : Place → Bool
  | .reg r _ _ _ _ => (regInfo r).wide
  | .acc .. | .trace .. => true
  | .nothing => true

/-- Read `n` bytes (4, or 8 of a unit of 8) at a place. Accumulator elements are read by 8-byte reads only (R723). -/
def readPlace (s : State) (key n : Nat) : Place → List Byte × State
  | .reg r u i j b =>
    let (v, s) := readReg s key r u i j
    (leBytes n (v / 2 ^ (8 * b)), s)
  | .acc p t row col _ =>
    if n = 8 then
      let (v, s) := accRead s p t row col
      (leBytes 8 v, s)
    else (leBytes n 0, s)
  | .trace e b => (((traceBytes s e).drop b).take n, s)
  | .nothing => (leBytes n 0, s)

/-- R711: an aligned read of 4 or 8 bytes. -/
def readBus (s : State) (key a n : Nat) : List Byte × State :=
  if n = 8 && !placeWide (placeOf a) then
    let (x, s) := readPlace s key 4 (placeOf a)
    let (y, s) := readPlace s key 4 (placeOf (a + 4))
    (x ++ y, s)
  else readPlace s key n (placeOf a)

/-! ### Refusing (R13, R15, R407, R564, R601, R616, R631) -/

/-- The function on whose behalf a requester acts; DBGACC is held to the rules of the physical function (R733). -/
def fnOfWho : Requester → Nat
  | .hw0 fn => fn.val
  | .dbgacc | .stationmaster => 0

def isSm : Requester → Bool
  | .stationmaster => true
  | _ => false

/-- The unit of a block, for records (Table 16.6a). -/
def blkUnit : Blk → Nat
  | .core | .seq | .fe | .xe | .dbgc => 1
  | .mu => 2
  | .slv => 3
  | .rcs => 4
  | .kl => 6
  | .dsp => 8
  | .xl | .px => 9
  | .sm | .gov | .sb | .log => 10
  | .tt => 11
  | .jn => 13
  | .tag | .rmu | .rc | .mc | .dbg => 0

/-- A record of a refused write that names no item. -/
def refuseReg (s : State) (code : LogCode) (r : RegName) (u : Nat) (ctx : Option Nat) : State :=
  post s code (blkUnit (regInfo r).blk) u ctx 0 0

/-- A record that names the register address and the requesting function. -/
def refuseAt (s : State) (code : LogCode) (who : Requester) (r : RegName) (u i j : Nat) : State :=
  post s code (blkUnit (regInfo r).blk) u none (fnOfWho who) (regAddr r u i j)

/-- The host may write this register of the SM, GOV, LOG and TT blocks. -/
def hostWrites : RegName → Bool
  | .smMboxcmd | .smMboxdb | .smMboxstat | .smMboxvec | .logRbase | .logRcfg | .logRhead => true
  | _ => false

/-- Why a host write of this register is turned away, if it is: the record and whether it names the register. -/
def hostDenied (r : RegName) : Option (LogCode × Bool) :=
  if hostWrites r then none
  else match (regInfo r).blk with
    | .sb => some (.sbDenied, false)
    | .sm | .gov => some (.smDenied, false)
    | .log => some (.logDenied, true)
    | .tt => if r = .ttCfg then some (.ttDenied, false) else none
    | _ => none

/-! ### Values in range (R15) -/

/-- A value that the register's own table and statements allow. -/
def rangeOk (s : State) (r : RegName) (new : W64) : Bool :=
  match r with
  | .rmuMtreg => fGet new 0 7 ≤ 64
  | .xlFrcfg => 6 ≤ fGet new 0 5 && fGet new 0 5 ≤ 16
  | .dspPringcfg => 4 ≤ fGet new 0 4 && fGet new 0 4 ≤ 12
  | .dspQctl => 4 ≤ fGet new 8 5 && fGet new 8 5 ≤ 16
  | .logRcfg => 6 ≤ fGet new 0 5 && fGet new 0 5 ≤ 16
  | .dspA4base => fGet new 30 10 % 2 ^ (s.host.hw4Log - 30) == 0
  | .ttCfg => 1 ≤ fGet new 0 16
  | .govCfg => 600 ≤ fGet new 0 11 && fGet new 0 11 ≤ 1800 && 60 ≤ fGet new 24 8 && fGet new 24 8 ≤ 100
  | .govLsubmit => fGet new 0 16 % 64 == 0
  | .dbgTrig => fGet new 0 3 ≤ 5
  | .jnPortmap => fGet new 0 3 ≤ 6
  | .dbgTrtime => timeOk new.toNat
  | _ => true

/-! ### Writes that do more than store -/

/-- R112: SEQ_TAGQUOTA. -/
def quotaWrite (s : State) (n q : Nat) : State :=
  let sum := ((List.range 160).map fun m => if m = n then 0 else regFld s .seqTagquota 0 m 0 0 6).sum
  if 1 ≤ q && q ≤ 48 && sum + q ≤ 3840 then setReg s .seqTagquota 0 n 0 (BitVec.ofNat 64 q)
  else refuseReg s .quotaRefused .seqTagquota 0 none

/-- R126: SEQ_EXPRESS. The register of physical core p is that of the logical core of the same number, also where that core
is served as a guest (DESIGN CHOICE, log 52: the spec does not say whose EN governs a guest). -/
def expressWrite (s : State) (p : Nat) (en : Bool) : State :=
  applyExpress (modCore s p fun c => { c with expressPend := some en }) p

/-- R314: a context has an open window. -/
def windowOpen (s : State) (ctx : Nat) : Bool := s.rmus.any fun e => e.2.windows.any fun w => w.ctx == ctx

/-- R374: RC_SALT. -/
def saltWrite (s : State) (i v : Nat) : State :=
  if (List.range 16).any fun w => let st := wayState (getSlice s i) w; st == 2 || st == 3 then
    refuseReg s .saltRefused .rcSalt i none
  else modSlice s i fun c => { c with salt := v }

/-- R383: RC_LFSR. -/
def lfsrWrite (s : State) (i : Nat) (v : BitVec 16) : State :=
  modSlice s i fun c => { c with lfsr := if v = 0#16 then 1#16 else v }

/-- R406: a context has work. -/
def ctxWorks (s : State) (ctx : Nat) : Bool :=
  (s.host.cmds.any fun d => d.ctx == ctx)
    || ((List.range 8).any fun q => qEnabled s ctx q && (getQueue s ctx q).sqTail != (getQueue s ctx q).sqHead)
    || (s.cores.any fun e => (slotBusy e.2.bulk && e.2.bulk.ctx == ctx) || (slotBusy e.2.express && e.2.express.ctx == ctx))
    || (s.tags.any fun e => e.2.st != .free && e.2.ctx == ctx)
    || windowOpen s ctx || (s.problems.any fun p => p.tag.isSome && p.ctx == ctx)

/-- R418: XL_SEGTBASE and XL_MIRROR while any context is valid. -/
def anyValid (s : State) : Bool := (List.range 64).any (ctxValid s)

/-- R418: the table at the base lies in installed memory, on a multiple of 32 KiB. -/
def segtOk (s : State) (written new : W64) : Bool :=
  fGet written 0 15 == 0 && fGet new 15 25 * 2 ^ 15 + 2 ^ 15 ≤ installed s.variant

def xlBaseWrite (s : State) (who : Requester) (r : RegName) (written new : W64) : State :=
  if anyValid s then refuseReg s .xlBusy r 0 none
  else if r = .xlSegtbase && !segtOk s written new then refuseAt s .rangeRefused who r 0 0 0
  else setReg s r 0 0 0 new

/-- R460: EN becomes 1. -/
def queueStart (s : State) (ctx q : Nat) : State :=
  setHost (setQueue s ctx q queueReset) { (setQueue s ctx q queueReset).host with
    service := s.host.service.filter (· != qKey ctx q) }

/-- R460: DSP_QCTL. -/
def qctlWrite (s : State) (ctx q : Nat) (new : W64) : State :=
  let old := regVal s .dspQctl 0 ctx q
  let was := fGet old 0 1 == 1
  let en := fGet new 0 1 == 1
  if was && (fGet old 1 1 != fGet new 1 1 || fGet old 8 5 != fGet new 8 5) then
    refuseReg s .qcfgRefused .dspQctl 0 (some ctx)
  else if !was && en && !ctxValid s ctx then
    refuseReg (setReg s .dspQctl 0 ctx q (fSet new 0 1 0)) .qcfgRefused .dspQctl 0 (some ctx)
  else
    let s := setReg s .dspQctl 0 ctx q new
    if !was && en then queueStart (staleReads s ctx q) ctx q
    else if was && !en then
      let s := staleReads s ctx q
      setHost s { s.host with service := s.host.service.filter (· != qKey ctx q) }
    else s

/-- R460: the addresses of a queue pair. -/
def qbaseWrite (s : State) (r : RegName) (ctx q : Nat) (new : W64) : State :=
  if qEnabled s ctx q then refuseReg s .qcfgRefused r 0 (some ctx) else setReg s r 0 ctx q new

/-- R478: a VECTOR field must name a vector of the function bound to the context. -/
def vectorWrite (s : State) (r : RegName) (ctx q lsb : Nat) (new : W64) (act : W64 → State → State) : State :=
  if fGet new lsb 11 / 32 = fnOf s ctx then act new s
  else
    let keep := fSet new lsb 11 (regFld s r 0 ctx q lsb 11)
    refuseReg (act keep s) .qcfgRefused r 0 (some ctx)

/-- R477: the parcel ring's configuration word. -/
def pringWrite (ctx : Nat) (new : W64) (s : State) : State :=
  let was := regBit s .dspPringcfg 0 ctx 0 15
  let s := setReg s .dspPringcfg 0 ctx 0 new
  if !was && fGet new 15 1 == 1 then setRing s ctx pringReset else s

/-- R735, R628: LOG_RCFG. -/
def rcfgWrite (s : State) (who : Requester) (new : W64) : State :=
  let old := regVal s .logRcfg 0 0 0
  let was := fGet old 31 1 == 1
  if was && fGet old 0 5 != fGet new 0 5 then refuseAt s .rangeRefused who .logRcfg 0 0 0
  else
    let s := setReg s .logRcfg 0 0 0 new
    if !was && fGet new 31 1 == 1 then setReg (setReg s .logRhead 0 0 0 0) .logRtail 0 0 0 0 else s

/-- R735: LOG_RHEAD. -/
def rheadWrite (s : State) (who : Requester) (v : Nat) : State :=
  let n := 2 ^ regFld s .logRcfg 0 0 0 0 5
  let h := regFld s .logRhead 0 0 0 0 16
  let t := regFld s .logRtail 0 0 0 0 16
  if !regBit s .logRcfg 0 0 0 31 || (v < n && (v + n - h) % n ≤ (t + n - h) % n) then
    setReg s .logRhead 0 0 0 (BitVec.ofNat 64 v)
  else refuseAt s .rangeRefused who .logRhead 0 0 0

/-- R735: LOG_RBASE. -/
def rbaseWrite (s : State) (who : Requester) (new : W64) : State :=
  if regBit s .logRcfg 0 0 0 31 then refuseAt s .rangeRefused who .logRbase 0 0 0 else setReg s .logRbase 0 0 0 new

/-- R512: JN_CFG. COMMIT locks every RWL field of the block. -/
def jnCfgWrite (s : State) (commit : Bool) : State :=
  let s := setFld s .jnCfg 0 0 0 0 1 commit.toNat
  if commit then { s with fab := { s.fab with locked := true } } else s

/-- R13: an RWL field of the Junction. -/
def jnWrite (s : State) (who : Requester) (r : RegName) (i : Nat) (new : W64) : State :=
  if s.fab.locked then refuseAt s .lockedWrite who r 0 i 0 else setReg s r 0 i 0 new

/-- A write to DSP_CTXRESET or DSP_FNRESET (*When things collide* of spec/19). -/
def ctxResetWrite (s : State) (ctx : Nat) (go : Bool) : State :=
  if go && !s.power.dataPlane && !s.power.warm then ctxReset s ctx else s

def fnResetWrite (s : State) (fn : Nat) (go : Bool) : State :=
  if go && fn != 0 && !s.power.dataPlane && !s.power.warm && s.host.fnResetBusy.isNone then
    setHost (fnReset s fn) { (fnReset s fn).host with fnResetBusy := some fn }
  else s

/-- DBG_CMD. -/
def dbgCmdWrite (s : State) (p op slot : Nat) : State :=
  match op with
  | 1 => haltCore s p
  | 2 => resumeCore s p
  | 3 => stepCore s p (slotAt slot)
  | _ => s

/-! ### Writing (R11 to R15) -/

/-- R450, R452: a write of a window register applies to requests that arrive 64 or more cycles after it. -/
def windowWrite (s : State) (r : RegName) (ctx w : Nat) (new : W64) : State :=
  let s := { s with winOld := s.winOld ++ [(regAddr r 0 ctx w, regVal s r 0 ctx w, 64)] }
  setReg s r 0 ctx w new

/-- A write to a register that only stores: RW fields take the written bits, W1C bits clear. -/
def plainWrite (s : State) (r : RegName) (u i j : Nat) (new written mask : W64) : State :=
  let w1c := fieldMask r (· == .w1c) &&& mask &&& written
  setReg s r u i j (new &&& ~~~w1c)

/-- The effect of a write that is not turned away. `written` holds the bits written, within `mask`; `new` is the register
with its RW and RWL fields as the write would leave them. -/
def applyWrite (s : State) (who : Requester) (r : RegName) (u i j : Nat) (written mask new : W64) : State :=
  match r with
  | .seqExpress => expressWrite s u (fGet new 0 1 == 1)
  | .seqTagquota => quotaWrite s i (fGet new 0 6)
  | .rmuMtreg => if windowOpen s i then refuseReg s .mtregBusy r 0 (some i) else setReg s r u i j new
  | .rcCmd => if isSm who then s else wayCommand (fGet written 0 4) (written.extractLsb' 16 16) s
  | .xlIwctl | .xlIwlen | .xlIwbase | .xlIwbox => windowWrite s r i j new
  | .rcSalt => saltWrite s u (fGet new 0 13)
  | .rcLfsr => lfsrWrite s u (new.setWidth 16)
  | .xlCtxbind => if ctxWorks s i then refuseReg s .xlBusy r 0 (some i) else setReg s r u i j new
  | .xlSegtbase | .xlMirror => xlBaseWrite s who r written new
  | .xlFrbase | .xlFrhead => frService (setReg s r u i j new)
  | .dspCtxreset => ctxResetWrite s (fGet written 0 6) (fGet written 31 1 == 1)
  | .dspFnreset => fnResetWrite s (fGet written 0 6) (fGet written 31 1 == 1)
  | .dspPringcfg => vectorWrite s r i 0 16 new (pringWrite i)
  | .dspQctl => qctlWrite s i j new
  | .dspQsqbase | .dspQcqbase | .dspQtaken => qbaseWrite s r i j new
  | .dspQirq => vectorWrite s r i j 0 new fun v s => setReg s .dspQirq 0 i j v
  | .jnSelf | .jnDims | .jnDescid | .jnFabid | .jnPortmap => jnWrite s who r i new
  | .jnCfg => jnCfgWrite s (fGet new 0 1 == 1)
  | .ttTod => takeTod s (fGet new 0 48)
  | .smMboxdb => if fGet written 31 1 == 1 then mailboxGo s else s
  | .govLsubmit => govSubmit s (fGet new 0 16)
  | .sbCfence | .sbLmap | .sbMufail | .sbSlvfail | .sbPortfence | .sbChfail | .sbWayfence | .sbCkpolicy =>
    sbWrite s r i new.toNat
  | .logRbase => rbaseWrite s who new
  | .logRcfg => rcfgWrite s who new
  | .logRhead => rheadWrite s who (fGet new 0 16)
  | .dbgCtl => debugCtl s (fGet new 0 1 == 1) (fGet new 1 1 == 1) fun s => refuseAt s .lockedWrite who r u i j
  | .dbgCmd => dbgCmdWrite s u (fGet written 0 2) (fGet written 8 1)
  | .dbgPc => debugPc s u i written mask
  | .dbgG => debugG s u i j written mask
  | .dbgF => debugF s u i j written mask
  | .dbgTrcmd => traceCmd s (fGet written 0 1 == 1) (fGet written 1 1 == 1)
  | .dbgPorttest => portTestWrite s (fGet new 0 5) (fGet new 5 2) (fGet written 31 1 == 1)
  | _ => plainWrite s r u i j new written mask

/-- The register has a field that a write can act on. -/
def writable (r : RegName) : Bool :=
  (regInfo r).fields.any fun f => f.acc == .rw || f.acc == .rwl || f.acc == .w1c || f.acc == .wo

/-- R15: another rule decides the outcome of this write: R314, R460, R595, R13. -/
def ownRule (s : State) (r : RegName) (i j : Nat) (new : W64) : Bool :=
  let old := regVal s r 0 i j
  match r with
  | .rmuMtreg => windowOpen s i
  | .dspQctl => fGet old 0 1 == 1 && (fGet old 1 1 != fGet new 1 1 || fGet old 8 5 != fGet new 8 5)
  | .govLsubmit => lsubmitRefused s
  | .jnPortmap => s.fab.locked
  | _ => false

/-- A value out of range is refused whole, unless another rule decides (R15). -/
def regWrite (s : State) (who : Requester) (r : RegName) (u i j : Nat) (written mask : W64) : State :=
  let w := written &&& mask
  let new := maskIn (regVal s r u i j) w (fieldMask r (fun a => a == .rw || a == .rwl) &&& mask)
  if ownRule s r i j new || rangeOk s r new then applyWrite s who r u i j w mask new
  else refuseAt s .rangeRefused who r u i j

/-- A write of `bs` at byte `b` of a register element, by a requester that reaches it. -/
def writeReg (s : State) (who : Requester) (r : RegName) (u i j b : Nat) (bs : List Byte) : State :=
  let mask : W64 := BitVec.ofNat 64 ((2 ^ (8 * bs.length) - 1) * 2 ^ (8 * b))
  let written : W64 := BitVec.ofNat 64 (leNat bs * 2 ^ (8 * b))
  if !regHere s r u i then s
  else match (if isSm who then none else hostDenied r) with
    | some (code, true) => refuseAt s code who r u i j
    | some (code, false) => refuseReg s code r u none
    | none =>
      if r = .dbgLsdata then lsDataWrite s u b bs
      else if writable r then regWrite s who r u i j written mask
      else s

def writePlace (s : State) (who : Requester) (bs : List Byte) : Place → State
  | .reg r u i j b => writeReg s who r u i j b bs
  | _ => s

/-- R711: an aligned write of 4 or 8 bytes. -/
def writeBus (s : State) (who : Requester) (a : Nat) (bs : List Byte) : State :=
  if bs.length = 8 && !placeWide (placeOf a) then
    writePlace (writePlace s who (bs.take 4) (placeOf a)) who (bs.drop 4) (placeOf (a + 4))
  else writePlace s who bs (placeOf a)

/-! ### Who reaches what (R456, R457, R707, R712, R713) -/

def alignedOk (a n : Nat) : Bool := (n == 4 && a % 4 == 0) || (n == 8 && a % 8 == 0)

/-- The blocks that run from VDD_MGMT, on I/O die 0. -/
def mgmtBlock (a : Nat) : Bool := blkBase .tt 0 ≤ a && a < blkBase .dbg 0

/-- A requester's access to an address of control space can reach its block. -/
def reaches (s : State) (who : Requester) (a : Nat) : Bool :=
  match who with
  | .hw0 fn =>
    hostHere s && !spGet false fn.val s.host.d3 && !spGet false fn.val s.host.resetting && (fn.val == 0 || s.host.vfEnable)
  | .dbgacc => !s.power.por && (mgmtBlock a || s.power.rails == .on)
  | .stationmaster => smWorks s

/-- The snapshot a reader of TT_SEC uses (R544). -/
def snapKey : Requester → Nat
  | .hw0 fn => fn.val
  | .stationmaster => 64
  | .dbgacc => 65

/-- Table 12.2, R712, R713: the address that an offset of a function's HW0 names, with the context it belongs to. -/
def hw0Place (fn o : Nat) : Option (Nat × Option Nat) :=
  if fn = 0 then some (0xF000000000 + o, none)
  else if o < 0x8000 then some (blkBase .dsp 0 + 0x10000 + o, some (o / 512))
  else if o < 0x8400 then some (blkBase .dsp 0 + 0x1000 + (o - 0x8000), some ((o - 0x8000) / 16))
  else none

/-- The address that a requester's offset names. -/
def whoPlace (who : Requester) (o : Nat) : Option (Nat × Option Nat) :=
  match who with
  | .hw0 fn => hw0Place fn.val o
  | .dbgacc | .stationmaster => some (0xF000000000 + o, none)

/-- R456: the function reaches registers of this context. -/
def ownsCtx (s : State) (who : Requester) : Option Nat → Bool
  | none => true
  | some c => fnOfWho who == 0 || (ctxValid s c && fnOf s c == fnOfWho who)

/-- What the requester receives. -/
def answerRead (s : State) (who : Requester) (bs : List Byte) : State :=
  match who with
  | .hw0 fn => emit s fn.val (.readDone bs false)
  | .dbgacc => { s with test := { s.test with accData := leNat (bs.take 4), accDone := true } }
  | .stationmaster => s

/-- R457: the answer to a host read of a size or alignment that HW0 does not take. -/
def badRead (s : State) (who : Requester) : State :=
  match who with
  | .hw0 fn => aerReport (emit s fn.val .readAbort) fn.val .completerAbort
  | .dbgacc | .stationmaster => s

/-- A read of `n` bytes at an offset. -/
def controlRead (s : State) (who : Requester) (o n : Nat) : State :=
  match whoPlace who o with
  | none => if !reaches s who 0 then s else if alignedOk o n then answerRead s who (leBytes n 0) else badRead s who
  | some (a, ctx) =>
    if !reaches s who a then s
    else if !alignedOk o n then badRead s who
    else if !ownsCtx s who ctx then answerRead s who (leBytes n 0)
    else
      let (bs, s) := readBus s (snapKey who) a n
      answerRead s who bs

/-- R457: a write of a size or alignment that HW0 does not take. -/
def badWrite (s : State) (who : Requester) : State := post s .hwSize 7 (fnOfWho who) none 0 0

/-- A write of bytes at an offset. -/
def controlWrite (s : State) (who : Requester) (o : Nat) (bs : List Byte) : State :=
  match whoPlace who o with
  | none => if !reaches s who 0 then s else if alignedOk o bs.length then s else badWrite s who
  | some (a, ctx) =>
    if !reaches s who a then s
    else if !alignedOk o bs.length then badWrite s who
    else if !ownsCtx s who ctx then denied s (fnOfWho who) (ctx.getD 0)
    else writeBus s who a bs

/-- The registers of a context that a virtual function reaches through its HW0 (R713). -/
def ctxReg : RegName → Bool
  | .dspQctl | .dspQsqbase | .dspQcqbase | .dspQtaken | .dspQirq | .dspQhead | .dspQtails | .dspQout | .dspPring
  | .dspPringcfg => true
  | _ => false

/-- A whole write of one register element by a requester. R407: a virtual function's write to the XL block is discarded
with a record; R456, R713: it reaches only the queue blocks and parcel rings of its own contexts. -/
def writeWhole (s : State) (who : Requester) (r : RegName) (u i j : Nat) (v : W64) : State :=
  let bs := leBytes (if (regInfo r).wide then 8 else 4) v.toNat
  if !reaches s who (regAddr r u i j) then s
  else if fnOfWho who = 0 then writeReg s who r u i j 0 bs
  else if (regInfo r).blk = .xl then post s .xlDenied 9 0 none (fnOfWho who) 0
  else if !ctxReg r then s
  else if ownsCtx s who (some i) then writeReg s who r u i j 0 bs
  else denied s (fnOfWho who) i

/-! ### The rows of the opcode table -/

def execSeqTagquota (who : Requester) (logical : Fin 160) (value : W32) (s : State) : Res :=
  .next (writeWhole s who .seqTagquota 0 logical.val 0 (value.setWidth 64))

def execSeqExpress (who : Requester) (core : Fin 160) (value : W32) (s : State) : Res :=
  .next (writeWhole s who .seqExpress core.val 0 0 (value.setWidth 64))

def execRcSalt (who : Requester) (slice : Fin 20) (value : W32) (s : State) : Res :=
  .next (writeWhole s who .rcSalt slice.val 0 0 (value.setWidth 64))

def execRcLfsr (who : Requester) (slice : Fin 20) (value : W32) (s : State) : Res :=
  .next (writeWhole s who .rcLfsr slice.val 0 0 (value.setWidth 64))

/-- R382: RC_CLASSMASK of a class, or RC_RESERVE. -/
def execRcClassmask (who : Requester) (cls : Option (Fin 8)) (value : W32) (s : State) : Res :=
  .next (match cls with
    | some k => writeWhole s who .rcClassmask 0 k.val 0 (value.setWidth 64)
    | none => writeWhole s who .rcReserve 0 0 0 (value.setWidth 64))

def execRmuMtreg (who : Requester) (ctx : Fin 64) (value : W64) (s : State) : Res :=
  .next (writeWhole s who .rmuMtreg 0 ctx.val 0 value)

def execDspLdev (who : Requester) (ctx : Fin 64) (value : W32) (s : State) : Res :=
  .next (writeWhole s who .dspLdev 0 ctx.val 0 (value.setWidth 64))

def execXlCtxbind (who : Requester) (ctx : Fin 64) (value : W64) (s : State) : Res :=
  .next (writeWhole s who .xlCtxbind 0 ctx.val 0 value)

/-- R418: XL_SEGTBASE, or XL_MIRROR. -/
def execXlSegtbase (who : Requester) (mirror : Bool) (value : W64) (s : State) : Res :=
  .next (writeWhole s who (if mirror then .xlMirror else .xlSegtbase) 0 0 0 value)

def winReg : WinReg → RegName
  | .ctl => .xlIwctl | .len => .xlIwlen | .base => .xlIwbase | .box => .xlIwbox

def execXlIwin (who : Requester) (ctx : Fin 64) (window : Fin 16) (reg : WinReg) (value : W64) (s : State) : Res :=
  .next (writeWhole s who (winReg reg) 0 ctx.val window.val value)

def execXlFrhead (who : Requester) (value : W32) (s : State) : Res :=
  .next (writeWhole s who .xlFrhead 0 0 0 (value.setWidth 64))

def execXlFrbase (who : Requester) (value : W64) (s : State) : Res :=
  .next (writeWhole s who .xlFrbase 0 0 0 value)

def queueReg : QueueReg → RegName
  | .ctl => .dspQctl | .sqBase => .dspQsqbase | .cqBase => .dspQcqbase | .taken => .dspQtaken | .irq => .dspQirq

def execDspQctl (who : Requester) (ctx : Fin 64) (q : Fin 8) (reg : QueueReg) (value : W64) (s : State) : Res :=
  .next (writeWhole s who (queueReg reg) 0 ctx.val q.val value)

/-- R477: the base of a parcel ring, or its configuration word. -/
def execDspPring (who : Requester) (ctx : Fin 64) (cfg : Bool) (value : W64) (s : State) : Res :=
  .next (writeWhole s who (if cfg then .dspPringcfg else .dspPring) 0 ctx.val 0 value)

def execJnCfg (who : Requester) (value : W32) (s : State) : Res :=
  .next (writeWhole s who .jnCfg 0 0 0 (value.setWidth 64))

def execLogRcfg (who : Requester) (value : W32) (s : State) : Res :=
  .next (writeWhole s who .logRcfg 0 0 0 (value.setWidth 64))

def execLogRhead (who : Requester) (value : W32) (s : State) : Res :=
  .next (writeWhole s who .logRhead 0 0 0 (value.setWidth 64))

/-! ### HW2 reads (R456, R475) -/

/-- A byte of a function's HW2: PSTAT of the parcel ports, zero elsewhere and where the context is not bound. -/
def hw2Byte (s : State) (fn o : Nat) : Byte :=
  let p := o % 4096
  if 0x800 ≤ p && p < 0xC00 && p % 128 = 72 && o / 4096 < 64 && pageOf s fn (o / 4096) == .ok then
    BitVec.ofNat 8 (spGet 0 (8 * (o / 4096) + (p - 0x800) / 128) s.host.pstat)
  else 0#8

/-- A read of HW2 reaches its window (Table 12.2, R484, R486). -/
def hw2Reaches (s : State) (fn o n : Nat) : Bool :=
  pageOf s fn 0 != .gone && o + n ≤ (if fn = 0 then 2 ^ 24 else 2 ^ 18)

def hw2Read (s : State) (fn o n : Nat) : State :=
  if hw2Reaches s fn o n then emit s fn (.readDone ((List.range n).map fun k => hw2Byte s fn (o + k)) false) else s

/-! ### Configuration space (Tables 11.8, 12.1, 12.2, 12.8, R2, R444, R479, R480, R485) -/

/-- Table 12.2: the size of a host window of a function in bytes. -/
def windowBytes (s : State) (fn : Nat) (w : Fin 3) : Nat :=
  match w with
  | 0 => if fn = 0 then 2 ^ 26 else 2 ^ 16
  | 1 => if fn = 0 then 2 ^ 24 else 2 ^ 18
  | 2 => if fn = 0 then 2 ^ s.host.hw4Log else 0

/-- A value that stands in the physical function alone. -/
def pfOnly (fn v : Nat) : Nat := if fn = 0 then v else 0

/-- What a configuration read answers. A virtual function shows Device ID 0x0C61 as its own; the serial number and the
SR-IOV, Resizable BAR, PASID and PRI capabilities stand in the physical function (DEDUCED, log 24). -/
def configValue (s : State) (fn : Nat) : CfgItem → Nat
  | .vendorId => Config.vendorId.toNat
  | .deviceId => if fn = 0 then 0x0C60 else 0x0C61
  | .revisionId => 0x21
  | .classCode => 0x120000
  | .serialNumber => pfOnly fn s.nv.serial
  | .linkSpeed => 5
  | .linkWidth => 16
  | .payloadSupported => 2
  | .maxPayload => (getCfg s fn).maxPayload
  | .maxRead => (getCfg s fn).maxRead
  | .tags10 | .tags8 => 1
  | .relaxedOrdering => (getCfg s fn).relaxed.toNat
  | .msixVectors => 32
  | .ecrcGenSupported | .ecrcCheckSupported => 1
  | .ecrcGenerate => (getCfg s fn).ecrcGen.toNat
  | .ecrcCheck => (getCfg s fn).ecrcCheck.toNat
  | .totalVfs => pfOnly fn 63
  | .vfDeviceId => pfOnly fn 0x0C61
  | .firstVfOffset | .vfStride => pfOnly fn 1
  | .vfEnable => pfOnly fn s.host.vfEnable.toNat
  | .ari | .flr => 1
  | .powerState => if spGet false fn s.host.d3 then 3 else 0
  | .aspmL1 => 1
  | .aspmL0s => 0
  | .hw4Sizes => pfOnly fn 0x1FF
  | .hw4Size => pfOnly fn (s.host.hw4Log - 30)
  | .windowSize w => windowBytes s fn w
  | .windowPrefetch w => (w == 2 && fn == 0).toNat
  | .timeoutRanges => 7
  | .timeoutOffSupported => 1
  | .timeoutRange => (getCfg s fn).toRange
  | .timeoutOff => (getCfg s fn).toOff.toNat
  | .atsQueueDepth => 0
  | .atsPageAligned | .atsGlobalInvalidate => 1
  | .atsEnable => (spGet false fn s.host.ats).toNat
  | .pasidWidth => pfOnly fn 20
  | .pasidExecute | .pasidPrivileged => 0
  | .pasidEnable => pfOnly fn s.host.pasid.toNat
  | .priCapacity => pfOnly fn 1024
  | .priPasidRequired => pfOnly fn 1
  | .priEnable => pfOnly fn s.host.pri.toNat
  | .aerStatus => (getCfg s fn).aerStatus.toNat
  | .aerMask => (getCfg s fn).aerMask.toNat
  | .aerSeverity => (getCfg s fn).aerSev.toNat
  | .vectorMask e => (spGet true (32 * fn + e.val) s.host.masked).toNat
  | .vectorPending e => (spGet false (32 * fn + e.val) s.host.vecPending).toNat
  | .absent => 0

def configWrite (s : State) (fn : Nat) : CfgWrite → State
  | .ats on => setHost s { s.host with ats := spSet false fn on s.host.ats }
  | .pri on => if fn = 0 then setHost s { s.host with pri := on } else s
  | .pasid on => if fn = 0 then setHost s { s.host with pasid := on } else s
  | .vfEnable on => if fn = 0 then setHost s { s.host with vfEnable := on } else s
  | .hw4Size k => if fn = 0 then setHost s { s.host with hw4Log := 30 + k.val } else s
  | .mask e => setHost s { s.host with masked := spSet true (32 * fn + e.val) true s.host.masked }
  | .maxPayload k => setCfg s fn { getCfg s fn with maxPayload := k.val }
  | .maxRead k => setCfg s fn { getCfg s fn with maxRead := k.val }
  | .relaxedOrdering on => setCfg s fn { getCfg s fn with relaxed := on }
  | .timeoutRange k => setCfg s fn { getCfg s fn with toRange := k.val }
  | .timeoutOff on => setCfg s fn { getCfg s fn with toOff := on }
  | .ecrc g c => setCfg s fn { getCfg s fn with ecrcGen := g, ecrcCheck := c }
  | .aerClear b => setCfg s fn { getCfg s fn with aerStatus := (getCfg s fn).aerStatus &&& ~~~b }
  | .aerMask b => setCfg s fn { getCfg s fn with aerMask := b }
  | .aerSeverity b => setCfg s fn { getCfg s fn with aerSev := b }

/-- The endpoint has a function: a virtual function while VF Enable is set (R485, R487). -/
def configHere (s : State) (fn : Nat) : Bool := s.host.linkUp && (fn == 0 || s.host.vfEnable)

/-- R45, R484, R487: it answers with retry status until firmware is ready and while the function is in reset. -/
def configRetries (s : State) (fn : Nat) : Bool := !hostHere s || spGet false fn s.host.resetting

/-- A configuration request: retry status, or what `act` does. An answer in D3hot is not held. -/
def configRequest (s : State) (fn : Nat) (act : State → State) : State :=
  if !configHere s fn then s else if configRetries s fn then enqueue s 2 (.cfgRetry fn) else act s

/-- A register read: of control space, of HW2, or of configuration space. -/
def execReadClearAccess (target : ReadTarget) (offset : BitVec 26) (len : Nat) (s : State) : Res :=
  .next (match target with
    | .control who => controlRead s who offset.toNat len
    | .hw2 fn => hw2Read s fn.val offset.toNat len
    | .config fn what => configRequest s fn.val fun s => enqueue s 2 (.cfgDone fn.val (configValue s fn.val what)))

def execRegisterWrite (target : WriteTarget) (s : State) : Res :=
  .next (match target with
    | .control who offset data => controlWrite s who offset.toNat data
    | .config fn what => configRequest s fn.val fun s => configWrite s fn.val what)

end Sys2Proof.Machine
end

