-- ==== Sys2Proof/Machine/Cycle.lean ====
section
/-! DEFINITION. The cycle that passes while no command waits (R172, R241, R344). -/

namespace Sys2Proof.Machine

/-- CYCLE of a running program rises; in debug halt it does not (R721). -/
def slotCycle (x : Slot) : Slot := if x.phase = .running then { x with cycle := x.cycle + 1#64 } else x

def coreCycle (c : Core) : Core :=
  if c.halted then c else { c with bulk := slotCycle c.bulk, express := slotCycle c.express }

/-- R241: each engine of a core counts the cycle under one cause, and a change of slot is counted once. -/
def engineCycle (s t : State) (n : Nat) : State :=
  let t := bump (bump t .feStall n (feCause s n) 0 1) .xeStall n (xeCause s n) 0 1
  if (getCore t n).xeTurned then modCore t n fun c => { c with xeTurned := false } else t

/-- R344: a Matrix Unit counts the cycle under one cause, and a change of class or station is counted once. -/
def muCycle (s t : State) (m : Nat) : State :=
  let t := bump t .muCyc m (muCause s m) 0 1
  if (spGet muReset m t.mus).turned then { t with mus := spSet muReset m { spGet muReset m t.mus with turned := false } t.mus }
  else t

/-- R452: the cycles for which a window register's earlier value still applies. -/
def windowCycle (l : List (Nat × W64 × Nat)) : List (Nat × W64 × Nat) :=
  (l.map fun e => (e.1, e.2.1, e.2.2 - 1)).filter fun e => 0 < e.2.2

/-- What goes on in the planes of its own accord: layers whose lists can now be read join, sweeps visit their next sets,
and the Dispatcher sends the reads it can. -/
def plainCycle (s : State) : State :=
  let s := serveReads (sweepCycle (joinLayers s))
  { s with winOld := windowCycle s.winOld, free := s.free + 20 }

/-- One core cycle of a part whose planes run; in every other state nothing counts. The link takes the oldest output
(R473). -/
def idleCycle (s : State) : State :=
  let s := transmit s
  if planeUp s then
    let t := { s with cores := spMap coreReset (fun _ c => coreCycle c) s.cores }
    let t := (List.range 160).foldl (engineCycle s) t
    plainCycle ((List.range 20).foldl (muCycle s) t)
  else s

end Sys2Proof.Machine
end

