-- ==== Sys2Proof/Machine/Jtag.lean ====
section
/-! DEFINITION. JTAG and boundary scan, DBGACC, and the rows of the debug registers (spec/20). -/

namespace Sys2Proof.Machine

/-! ### The test access port (R715, R716) -/

/-- An instruction is selected: its opcode, what its data register captures, and what the pins follow from Update-IR on. -/
def tapSelect (s : State) (ir dr : Nat) (pins : PinDrive) : State :=
  { s with test := { s.test with ir := ir, dr := dr, pins := pins } }

/-- Table 20.5: the identification register. -/
def idcodeWord : Nat := 2 * 2 ^ 28 + 0x0C60 * 2 ^ 12 + Config.jedecCode.toNat * 2 + 1

def execIdcode (s : State) : Res := .next (tapSelect s 0x01 idcodeWord .core)

/-- `cells`: what is shifted into the boundary register, in the order of the part's BSDL description. -/
def execSamplePreload (cells : List Bool) (s : State) : Res :=
  let t := tapSelect s 0x02 0 .core
  .next { t with test := { t.test with boundary := cells } }

def execBypass (opcode : BitVec 8) (s : State) : Res :=
  need (!([0x01, 0x02, 0x03, 0x04, 0x05, 0x06, 0x07, 0x10, 0x11] : List Nat).contains opcode.toNat) .wrongRow
    (.next (tapSelect s 0xFF 0 .core))

/-- BOOTSTAT captures SM_BOOT (R703). -/
def execBootstat (s : State) : Res := .next (tapSelect s 0x10 (bootWord s) .core)

/-! ### Boundary drive (R728, R729) -/

/-- The PCIe link and every port go down, and the data plane enters data-plane reset; only a cold reset ends it. -/
def boundaryDrive (s : State) (ir : Nat) (pins : PinDrive) : State :=
  let s := tapSelect s ir 0 pins
  let s := { s with power := { s.power with drive := true }, test := { s.test with entered := true } }
  if s.power.por then s
  else
    let s := dataPlaneReset (portsOff s)
    setHost s { s.host with linkUp := false }

def execExtest (s : State) : Res := .next (boundaryDrive s 0x03 .boundary)
def execClamp (s : State) : Res := .next (boundaryDrive s 0x04 .held)
def execHighz (s : State) : Res := .next (boundaryDrive s 0x05 .floating)
def execExtestPulse (s : State) : Res := .next (boundaryDrive s 0x06 .boundary)
def execExtestTrain (s : State) : Res := .next (boundaryDrive s 0x07 .boundary)

/-! ### DBGACC (R717, R733) -/

/-- OTP DBGLOCK. -/
def dbgLocked (s : State) : Bool := s.nv.dbgLock

/-- An address lies in control space (Table 20.1). -/
def inControl (a : Nat) : Bool := 0xF000000000 ≤ a && a < 0xF004000000

/-- The access at Update-DR. A read of a block without power returns a free value. -/
def dbgAccess (s : State) (write : Bool) (a : Nat) (data : W32) : State :=
  let finish (s : State) : State := { s with test := { s.test with accDone := true } }
  if write then finish (if inControl a then controlWrite s .dbgacc (a - 0xF000000000) (leBytes 4 data.toNat) else s)
  else if !inControl a then finish { s with test := { s.test with accData := 0 } }
  else if reaches s .dbgacc a then finish (controlRead s .dbgacc (a - 0xF000000000) 4)
  else
    let (w, s) := drawWord s
    finish { s with test := { s.test with accData := w.toNat % 2 ^ 32 } }

/-- What the DBGACC register captures. -/
def dbgCapture (s : State) : Nat := s.test.accDone.toNat + s.test.accData * 2 ^ 41

/-- `word`: the address in units of 4 bytes. -/
def execDbgacc (write : Bool) (word : BitVec 38) (data : W32) (s : State) : Res :=
  .next (if dbgLocked s then tapSelect s 0x11 0 .core
    else
      let s := dbgAccess s write (4 * word.toNat) data
      tapSelect s 0x11 (dbgCapture s) .core)

/-! ### Debug mode (R718 to R724) -/

def execHalt (who : Requester) (core : Fin 160) (s : State) : Res :=
  .next (writeWhole s who .dbgCmd core.val 0 0 1#64)

def execResume (who : Requester) (core : Fin 160) (s : State) : Res :=
  .next (writeWhole s who .dbgCmd core.val 0 0 2#64)

def execStep (who : Requester) (core : Fin 160) (slot : SlotId) (s : State) : Res :=
  .next (writeWhole s who .dbgCmd core.val 0 0 (BitVec.ofNat 64 (3 + 256 * slotNum slot)))

def execDbgCtl (who : Requester) (value : W32) (s : State) : Res :=
  .next (writeWhole s who .dbgCtl 0 0 0 (value.setWidth 64))

/-- The element of a debug register of a core. -/
def dbgElem : DbgReg → RegName × Nat × Nat
  | .pc i => (.dbgPc, slotNum i, 0)
  | .g i r => (.dbgG, slotNum i, r.toNat)
  | .f i r => (.dbgF, slotNum i, r.toNat)
  | .lsData => (.dbgLsdata, 0, 0)

/-- A whole 8-byte read of a debug register. -/
def debugRead (s : State) (who : Requester) (p : Nat) (r : DbgReg) : State :=
  let (name, i, j) := dbgElem r
  if reaches s who (regAddr name p i j) && fnOfWho who == 0 then
    let (v, s) := readReg s (snapKey who) name p i j
    answerRead s who (leBytes 8 v)
  else s

def execDebugRegisterAccess (who : Requester) (core : Fin 160) (reg : DbgReg) (write : Option W64) (s : State) : Res :=
  .next (match write with
    | some v => writeWhole s who (dbgElem reg).1 core.val (dbgElem reg).2.1 (dbgElem reg).2.2 v
    | none => debugRead s who core.val reg)

def execAccumulatorViewRead (who : Requester) (core : Fin 160) (tile row : Fin 16) (col : Fin 32) (s : State) : Res :=
  .next (if reaches s who (blkBase .core core.val) && fnOfWho who == 0 then
      let (v, s) := accRead s core.val tile.val row.val col.val
      answerRead s who (leBytes 8 v)
    else s)

/-! ### The trace buffer and port tests (R727, R730) -/

def execArm (who : Requester) (s : State) : Res := .next (writeWhole s who .dbgTrcmd 0 0 0 1#64)

def execStop (who : Requester) (s : State) : Res := .next (writeWhole s who .dbgTrcmd 0 0 0 2#64)

def execDbgPorttest (who : Requester) (value : W32) (s : State) : Res :=
  .next (writeWhole s who .dbgPorttest 0 0 0 (value.setWidth 64))

end Sys2Proof.Machine
end

