-- ==== Sys2Proof/Machine/Dispatch.lean ====
section
/-! DEFINITION. One arm for each command, in the order of the opcode table; each arm is one call of its meaning. -/

namespace Sys2Proof.Machine

/-- The effect of a command on everything but the queue. -/
def exec (i : Instr) (s : State) : Host.Outcome State Fault Refusal :=
  match i with
  | .integerRegisterOperation a op rd ra rb => Sys2Proof.Machine.execIntegerRegisterOperation a op rd ra rb s
  | .integerImmediateOperation a op rd ra v => Sys2Proof.Machine.execIntegerImmediateOperation a op rd ra v s
  | .seth a rd hw v => Sys2Proof.Machine.execSeth a rd hw v s
  | .puth a rd hw v => Sys2Proof.Machine.execPuth a rd hw v s
  | .conditionalBranch a c ra rb h off younger => Sys2Proof.Machine.execConditionalBranch a c ra rb h off younger s
  | .jal a rd off => Sys2Proof.Machine.execJal a rd off s
  | .jalr a rd ra v younger => Sys2Proof.Machine.execJalr a rd ra v younger s
  | .localStoreLoad a op rd ra v => Sys2Proof.Machine.execLocalStoreLoad a op rd ra v s
  | .localStoreStore a op rs ra v => Sys2Proof.Machine.execLocalStoreStore a op rs ra v s
  | .mfsr a rd sr => Sys2Proof.Machine.execMfsr a rd sr s
  | .mtsr a ra sr => Sys2Proof.Machine.execMtsr a ra sr s
  | .floatingPointOperation a op double rd ra rb => Sys2Proof.Machine.execFloatingPointOperation a op double rd ra rb s
  | .fma a double rd ra rb rc => Sys2Proof.Machine.execFma a double rd ra rb rc s
  | .divd a rd ra rb wrongPath => Sys2Proof.Machine.execDivd a rd ra rb wrongPath s
  | .sqrtd a rd ra wrongPath => Sys2Proof.Machine.execSqrtd a rd ra wrongPath s
  | .coprocessorResult a k => Sys2Proof.Machine.execCoprocessorResult a k s
  | .fcvtx a rd ra f rm sat => Sys2Proof.Machine.execFcvtx a rd ra f rm sat s
  | .fcvtf a rd ra f => Sys2Proof.Machine.execFcvtf a rd ra f s
  | .fcvtLD a rd ra rm sat => Sys2Proof.Machine.execFcvtLD a rd ra rm sat s
  | .fcvtDL a rd ra rm => Sys2Proof.Machine.execFcvtDL a rd ra rm s
  | .fcvtSD a rd ra rm sat => Sys2Proof.Machine.execFcvtSD a rd ra rm sat s
  | .fcvtDS a rd ra => Sys2Proof.Machine.execFcvtDS a rd ra s
  | .trap a v => Sys2Proof.Machine.execTrap a v s
  | .break_ a => Sys2Proof.Machine.execBreak a s
  | .end_ a => Sys2Proof.Machine.execEnd a s
  | .endComplete a => Sys2Proof.Machine.execEndComplete a s
  | .commitAfterStall a tag younger => Sys2Proof.Machine.execCommitAfterStall a tag younger s
  | .retirementReport core => Sys2Proof.Machine.execRetirementReport core s
  | .tdef a ra x => Sys2Proof.Machine.execTdef a ra x s
  | .seed a ra => Sys2Proof.Machine.execSeed a ra s
  | .azero a rd k tag => Sys2Proof.Machine.execAzero a rd k tag s
  | .accwb a rd ra tag => Sys2Proof.Machine.execAccwb a rd ra tag s
  | .sload a rd ra tag => Sys2Proof.Machine.execSload a rd ra tag s
  | .sstore a rd ra tag => Sys2Proof.Machine.execSstore a rd ra tag s
  | .gpool a rd ra tag => Sys2Proof.Machine.execGpool a rd ra tag s
  | .xopCvt a rd ra tag => Sys2Proof.Machine.execXopCvt a rd ra tag s
  | .xopAdd a rd ra tag => Sys2Proof.Machine.execXopAdd a rd ra tag s
  | .xopSub a rd ra tag => Sys2Proof.Machine.execXopSub a rd ra tag s
  | .xopMul a rd ra tag => Sys2Proof.Machine.execXopMul a rd ra tag s
  | .xopFma a rd ra tag => Sys2Proof.Machine.execXopFma a rd ra tag s
  | .xopMax a rd ra tag => Sys2Proof.Machine.execXopMax a rd ra tag s
  | .xopMin a rd ra tag => Sys2Proof.Machine.execXopMin a rd ra tag s
  | .xopScale a rd ra tag => Sys2Proof.Machine.execXopScale a rd ra tag s
  | .xopRelu a rd ra tag => Sys2Proof.Machine.execXopRelu a rd ra tag s
  | .xopAcc a rd ra tag => Sys2Proof.Machine.execXopAcc a rd ra tag s
  | .xopAccs a rd ra tag => Sys2Proof.Machine.execXopAccs a rd ra tag s
  | .xopHamm a rd ra tag => Sys2Proof.Machine.execXopHamm a rd ra tag s
  | .cmpr a rd ra tag => Sys2Proof.Machine.execCmpr a rd ra tag s
  | .scadd a rd ra tag => Sys2Proof.Machine.execScadd a rd ra tag s
  | .mlayer a rd ra tag => Sys2Proof.Machine.execMlayer a rd ra tag s
  | .lend a => Sys2Proof.Machine.execLend a s
  | .solve a rd ra tag => Sys2Proof.Machine.execSolve a rd ra tag s
  | .pfetch a ra rb => Sys2Proof.Machine.execPfetch a ra rb s
  | .cmaintClean a rd ra tag => Sys2Proof.Machine.execCmaintClean a rd ra tag s
  | .cmaintInvalidate a rd ra tag => Sys2Proof.Machine.execCmaintInvalidate a rd ra tag s
  | .cmaintCleanInvalidate a rd ra tag => Sys2Proof.Machine.execCmaintCleanInvalidate a rd ra tag s
  | .cmaintFill a rd ra tag => Sys2Proof.Machine.execCmaintFill a rd ra tag s
  | .rread a rd ra tag => Sys2Proof.Machine.execRread a rd ra tag s
  | .wwrite a rd ra tag => Sys2Proof.Machine.execWwrite a rd ra tag s
  | .psend a rd ra rb x tag => Sys2Proof.Machine.execPsend a rd ra rb x tag s
  | .precv a rd ra tag => Sys2Proof.Machine.execPrecv a rd ra tag s
  | .barr a rd ra tag => Sys2Proof.Machine.execBarr a rd ra tag s
  | .barrRelease ctx id => Sys2Proof.Machine.execBarrRelease ctx id s
  | .twait a ra => Sys2Proof.Machine.execTwait a ra s
  | .twaitReached a => Sys2Proof.Machine.execTwaitReached a s
  | .wait a rd ra => Sys2Proof.Machine.execWait a rd ra s
  | .stat a rd ra => Sys2Proof.Machine.execStat a rd ra s
  | .waitall a => Sys2Proof.Machine.execWaitall a s
  | .lineRequestIssue tag remote => Sys2Proof.Machine.execLineRequestIssue tag remote s
  | .lineArrival id host => Sys2Proof.Machine.execLineArrival id host s
  | .executeUnitEnd a => Sys2Proof.Machine.execExecuteUnitEnd a s
  | .streamResume tag => Sys2Proof.Machine.execStreamResume tag s
  | .injectorFirstRead ctx layer => Sys2Proof.Machine.execInjectorFirstRead ctx layer s
  | .panelInject ctx layer host => Sys2Proof.Machine.execPanelInject ctx layer host s
  | .panelConsumed ctx layer station => Sys2Proof.Machine.execPanelConsumed ctx layer station s
  | .layerEndMarker a => Sys2Proof.Machine.execLayerEndMarker a s
  | .outputCompressorWrite ctx layer station => Sys2Proof.Machine.execOutputCompressorWrite ctx layer station s
  | .parcelDelivery what => Sys2Proof.Machine.execParcelDelivery what s
  | .contributionArrival k => Sys2Proof.Machine.execContributionArrival k s
  | .heldContributionAccept k j => Sys2Proof.Machine.execHeldContributionAccept k j s
  | .drainEnd k ctx step => Sys2Proof.Machine.execDrainEnd k ctx step s
  | .applyEnd k => Sys2Proof.Machine.execApplyEnd k s
  | .solveFrontEnd tag host => Sys2Proof.Machine.execSolveFrontEnd tag host s
  | .problemAssign problem => Sys2Proof.Machine.execProblemAssign problem s
  | .problemEnd problem host => Sys2Proof.Machine.execProblemEnd problem host s
  | .deadlineCheck problem iters pivots checked host => Sys2Proof.Machine.execDeadlineCheck problem iters pivots checked host s
  | .solverLaneStoreError cluster lane => Sys2Proof.Machine.execSolverLaneStoreError cluster lane s
  | .lineRequestAtSlice id => Sys2Proof.Machine.execLineRequestAtSlice id s
  | .missFillArrival slice l => Sys2Proof.Machine.execMissFillArrival slice l s
  | .victimWriteAccept slice l => Sys2Proof.Machine.execVictimWriteAccept slice l s
  | .prefetchLine slice k => Sys2Proof.Machine.execPrefetchLine slice k s
  | .wayInvalidate ways => Sys2Proof.Machine.execWayInvalidate ways s
  | .wayInvalidateComplete => Sys2Proof.Machine.execWayInvalidateComplete s
  | .enable ways => Sys2Proof.Machine.execEnable ways s
  | .disable ways => Sys2Proof.Machine.execDisable ways s
  | .powerDown ways => Sys2Proof.Machine.execPowerDown ways s
  | .powerUp ways => Sys2Proof.Machine.execPowerUp ways s
  | .sweepComplete slice way => Sys2Proof.Machine.execSweepComplete slice way s
  | .correctedError place again => Sys2Proof.Machine.execCorrectedError place again s
  | .leakTick => Sys2Proof.Machine.execLeakTick s
  | .uncorrectableDataError place both a b => Sys2Proof.Machine.execUncorrectableDataError place both a b s
  | .tagLost slice way set known => Sys2Proof.Machine.execTagLost slice way set known s
  | .lookasideMiss who => Sys2Proof.Machine.execLookasideMiss who s
  | .lookasideMissServed => Sys2Proof.Machine.execLookasideMissServed s
  | .segSync mirror => Sys2Proof.Machine.execSegSync mirror s
  | .invalidate => Sys2Proof.Machine.execInvalidate s
  | .granuleSet => Sys2Proof.Machine.execGranuleSet s
  | .ownSet => Sys2Proof.Machine.execOwnSet s
  | .epochDrained => Sys2Proof.Machine.execEpochDrained s
  | .faultBatchClose => Sys2Proof.Machine.execFaultBatchClose s
  | .atsTranslationCompletion fn pasid iova sizeLog2 pa r w => Sys2Proof.Machine.execAtsTranslationCompletion fn pasid iova sizeLog2 pa r w s
  | .prgResponse fn group code => Sys2Proof.Machine.execPrgResponse fn group code s
  | .atsInvalidateRequest fn pasid global va len itag => Sys2Proof.Machine.execAtsInvalidateRequest fn pasid global va len itag s
  | .commandQueueTailDoorbell fn ctx q skew data => Sys2Proof.Machine.execCommandQueueTailDoorbell fn ctx q skew data s
  | .completionQueueHeadDoorbell fn ctx q skew data => Sys2Proof.Machine.execCompletionQueueHeadDoorbell fn ctx q skew data s
  | .parcelRingHeadDoorbell fn ctx skew data => Sys2Proof.Machine.execParcelRingHeadDoorbell fn ctx skew data s
  | .commandReadCompletion ctx q reply => Sys2Proof.Machine.execCommandReadCompletion ctx q reply s
  | .run cmd => Sys2Proof.Machine.execRun cmd s
  | .runStart cmd => Sys2Proof.Machine.execRunStart cmd s
  | .runExpired cmd => Sys2Proof.Machine.execRunExpired cmd s
  | .load cmd tag host => Sys2Proof.Machine.execLoad cmd tag host s
  | .copy cmd tag host => Sys2Proof.Machine.execCopy cmd tag host s
  | .nop cmd => Sys2Proof.Machine.execNop cmd s
  | .interruptTimeTrigger ctx q => Sys2Proof.Machine.execInterruptTimeTrigger ctx q s
  | .parcelPortSend fn ctx port data send tag => Sys2Proof.Machine.execParcelPortSend fn ctx port data send tag s
  | .hw4Access offset len write => Sys2Proof.Machine.execHw4Access offset len write s
  | .dspCtxreset ctx go => Sys2Proof.Machine.execDspCtxreset ctx go s
  | .dspFnreset fn go => Sys2Proof.Machine.execDspFnreset fn go s
  | .flrVf fn => Sys2Proof.Machine.execFlrVf fn s
  | .flrPf => Sys2Proof.Machine.execFlrPf s
  | .d3hotEntry fn => Sys2Proof.Machine.execD3hotEntry fn s
  | .idleFlit port good head sym unc => Sys2Proof.Machine.execIdleFlit port good head sym unc s
  | .dataFlit port good head vc dl sop eop sym unc => Sys2Proof.Machine.execDataFlit port good head vc dl sop eop sym unc s
  | .retryTimerExpiry port => Sys2Proof.Machine.execRetryTimerExpiry port s
  | .lockLossTimeout port => Sys2Proof.Machine.execLockLossTimeout port s
  | .trainingAttemptEnd port markers => Sys2Proof.Machine.execTrainingAttemptEnd port markers s
  | .portRetryTimer port => Sys2Proof.Machine.execPortRetryTimer port s
  | .helloTimer port => Sys2Proof.Machine.execHelloTimer port s
  | .hello port good head hello => Sys2Proof.Machine.execHello port good head hello s
  | .failover port good head link answer => Sys2Proof.Machine.execFailover port good head link answer s
  | .failoverResendTimer port => Sys2Proof.Machine.execFailoverResendTimer port s
  | .failoverTimeout port => Sys2Proof.Machine.execFailoverTimeout port s
  | .lsa pkt => Sys2Proof.Machine.execLsa pkt s
  | .packetForward pkt tag combine => Sys2Proof.Machine.execPacketForward pkt tag combine s
  | .remoteRead id => Sys2Proof.Machine.execRemoteRead id s
  | .windowWrite id => Sys2Proof.Machine.execWindowWrite id s
  | .poolAtHome id => Sys2Proof.Machine.execPoolAtHome id s
  | .parcel id => Sys2Proof.Machine.execParcel id s
  | .time pkt => Sys2Proof.Machine.execTime pkt s
  | .error id => Sys2Proof.Machine.execError id s
  | .remoteResponse id => Sys2Proof.Machine.execRemoteResponse id s
  | .remoteTimeout k => Sys2Proof.Machine.execRemoteTimeout k s
  | .timeClockTick => Sys2Proof.Machine.execTimeClockTick s
  | .timeCopyUpdate skew => Sys2Proof.Machine.execTimeCopyUpdate skew s
  | .ppsInEdge jitter incr => Sys2Proof.Machine.execPpsInEdge jitter incr s
  | .ppsTimeout => Sys2Proof.Machine.execPpsTimeout s
  | .syncExchangeTimer port jitter => Sys2Proof.Machine.execSyncExchangeTimer port jitter s
  | .sync port good head tsync jitter => Sys2Proof.Machine.execSync port good head tsync jitter s
  | .followUp port good head tsync jitter => Sys2Proof.Machine.execFollowUp port good head tsync jitter s
  | .delayReq port good head tsync jitter => Sys2Proof.Machine.execDelayReq port good head tsync jitter s
  | .delayResp port good head tsync incr => Sys2Proof.Machine.execDelayResp port good head tsync incr s
  | .timeAnnounceTimer => Sys2Proof.Machine.execTimeAnnounceTimer s
  | .holdoverTimeout => Sys2Proof.Machine.execHoldoverTimeout s
  | .holdoverLimit => Sys2Proof.Machine.execHoldoverLimit s
  | .stepApply => Sys2Proof.Machine.execStepApply s
  | .ttTod sec => Sys2Proof.Machine.execTtTod sec s
  | .ttSecRead who => Sys2Proof.Machine.execTtSecRead who s
  | .ident via => Sys2Proof.Machine.execIdent via s
  | .status via => Sys2Proof.Machine.execStatus via s
  | .telemetry via => Sys2Proof.Machine.execTelemetry via s
  | .readLog via => Sys2Proof.Machine.execReadLog via s
  | .setTod via => Sys2Proof.Machine.execSetTod via s
  | .setCap via => Sys2Proof.Machine.execSetCap via s
  | .govCtl via => Sys2Proof.Machine.execGovCtl via s
  | .govTarget via => Sys2Proof.Machine.execGovTarget via s
  | .fwStage via => Sys2Proof.Machine.execFwStage via s
  | .fwVerify via chk => Sys2Proof.Machine.execFwVerify via chk s
  | .fwActivate via allot => Sys2Proof.Machine.execFwActivate via allot s
  | .fwConfirm via => Sys2Proof.Machine.execFwConfirm via s
  | .fwStatus via => Sys2Proof.Machine.execFwStatus via s
  | .bootStatusRead => Sys2Proof.Machine.execBootStatusRead s
  | .responseRead => Sys2Proof.Machine.execResponseRead s
  | .watchdogExpiry a b => Sys2Proof.Machine.execWatchdogExpiry a b s
  | .governorCycleStart g coreMw avs => Sys2Proof.Machine.execGovernorCycleStart g coreMw avs s
  | .governorProblemEnd allot avs => Sys2Proof.Machine.execGovernorProblemEnd allot avs s
  | .fallbackTick allot avs => Sys2Proof.Machine.execFallbackTick allot avs s
  | .thermalSample temps hbm die allot => Sys2Proof.Machine.execThermalSample temps hbm die allot s
  | .railTelemetryPoll railMw fault => Sys2Proof.Machine.execRailTelemetryPoll railMw fault s
  | .govLsubmit offset => Sys2Proof.Machine.execGovLsubmit offset s
  | .divergence core logical kind => Sys2Proof.Machine.execDivergence core logical kind s
  | .selfTest core result => Sys2Proof.Machine.execSelfTest core result s
  | .remap logical => Sys2Proof.Machine.execRemap logical s
  | .replayStart a => Sys2Proof.Machine.execReplayStart a s
  | .scrub l unit result => Sys2Proof.Machine.execScrub l unit result s
  | .conservationAudit what upset => Sys2Proof.Machine.execConservationAudit what upset s
  | .portFenceRelease port => Sys2Proof.Machine.execPortFenceRelease port s
  | .hostLogRingWrite => Sys2Proof.Machine.execHostLogRingWrite s
  | .porNFall => Sys2Proof.Machine.execPorNFall s
  | .porNRelease straps => Sys2Proof.Machine.execPorNRelease straps s
  | .powerUpStep => Sys2Proof.Machine.execPowerUpStep s
  | .pwrdnN => Sys2Proof.Machine.execPwrdnN s
  | .referenceLoss ref => Sys2Proof.Machine.execReferenceLoss ref s
  | .referenceReturn ref => Sys2Proof.Machine.execReferenceReturn ref s
  | .perstNFall => Sys2Proof.Machine.execPerstNFall s
  | .perstNRelease => Sys2Proof.Machine.execPerstNRelease s
  | .bringupPhaseEnd what => Sys2Proof.Machine.execBringupPhaseEnd what s
  | .hbmTrainingAttempt channel ok => Sys2Proof.Machine.execHbmTrainingAttempt channel ok s
  | .idcode => Sys2Proof.Machine.execIdcode s
  | .samplePreload cells => Sys2Proof.Machine.execSamplePreload cells s
  | .extest => Sys2Proof.Machine.execExtest s
  | .clamp => Sys2Proof.Machine.execClamp s
  | .highz => Sys2Proof.Machine.execHighz s
  | .extestPulse => Sys2Proof.Machine.execExtestPulse s
  | .extestTrain => Sys2Proof.Machine.execExtestTrain s
  | .bootstat => Sys2Proof.Machine.execBootstat s
  | .dbgacc write word data => Sys2Proof.Machine.execDbgacc write word data s
  | .bypass opcode => Sys2Proof.Machine.execBypass opcode s
  | .halt who core => Sys2Proof.Machine.execHalt who core s
  | .resume who core => Sys2Proof.Machine.execResume who core s
  | .step who core slot => Sys2Proof.Machine.execStep who core slot s
  | .dbgCtl who value => Sys2Proof.Machine.execDbgCtl who value s
  | .debugRegisterAccess who core reg write => Sys2Proof.Machine.execDebugRegisterAccess who core reg write s
  | .accumulatorViewRead who core tile row col => Sys2Proof.Machine.execAccumulatorViewRead who core tile row col s
  | .arm who => Sys2Proof.Machine.execArm who s
  | .stop who => Sys2Proof.Machine.execStop who s
  | .dbgPorttest who value => Sys2Proof.Machine.execDbgPorttest who value s
  | .seqTagquota who logical value => Sys2Proof.Machine.execSeqTagquota who logical value s
  | .seqExpress who core value => Sys2Proof.Machine.execSeqExpress who core value s
  | .rcSalt who slice value => Sys2Proof.Machine.execRcSalt who slice value s
  | .rcLfsr who slice value => Sys2Proof.Machine.execRcLfsr who slice value s
  | .rcClassmask who cls value => Sys2Proof.Machine.execRcClassmask who cls value s
  | .rmuMtreg who ctx value => Sys2Proof.Machine.execRmuMtreg who ctx value s
  | .dspLdev who ctx value => Sys2Proof.Machine.execDspLdev who ctx value s
  | .xlCtxbind who ctx value => Sys2Proof.Machine.execXlCtxbind who ctx value s
  | .xlSegtbase who mirror value => Sys2Proof.Machine.execXlSegtbase who mirror value s
  | .xlIwin who ctx window reg value => Sys2Proof.Machine.execXlIwin who ctx window reg value s
  | .xlFrhead who value => Sys2Proof.Machine.execXlFrhead who value s
  | .dspQctl who ctx q reg value => Sys2Proof.Machine.execDspQctl who ctx q reg value s
  | .dspPring who ctx cfg value => Sys2Proof.Machine.execDspPring who ctx cfg value s
  | .jnCfg who value => Sys2Proof.Machine.execJnCfg who value s
  | .sbRegisterWrite host offset value => Sys2Proof.Machine.execSbRegisterWrite host offset value s
  | .smMboxdb go => Sys2Proof.Machine.execSmMboxdb go s
  | .logRcfg who value => Sys2Proof.Machine.execLogRcfg who value s
  | .logRhead who value => Sys2Proof.Machine.execLogRhead who value s
  | .readClearAccess target offset len => Sys2Proof.Machine.execReadClearAccess target offset len s
  | .registerWrite target => Sys2Proof.Machine.execRegisterWrite target s
  | .illegalInstr a word => Sys2Proof.Machine.execIllegalInstr a word s
  | .lineWriteAccepted id => Sys2Proof.Machine.execLineWriteAccepted id s
  | .translationCacheMissServed k => Sys2Proof.Machine.execTranslationCacheMissServed k s
  | .completionTimeout what => Sys2Proof.Machine.execCompletionTimeout what s
  | .returnToD0 fn => Sys2Proof.Machine.execReturnToD0 fn s
  | .msixUnmask vector => Sys2Proof.Machine.execMsixUnmask vector s
  | .powerGoodTimeout => Sys2Proof.Machine.execPowerGoodTimeout s
  | .stationmasterReady a b => Sys2Proof.Machine.execStationmasterReady a b s
  | .xlFrbase who value => Sys2Proof.Machine.execXlFrbase who value s
  | .resetComplete what => Sys2Proof.Machine.execResetComplete what s

end Sys2Proof.Machine
end

