-- ==== Sys2Proof/Safety.lean ====
section
/-! DEFINITION. What the statements speak of: completion of a command, an instruction that passes the commit gate, what a
command leaves alone, a trap taken. -/

namespace Sys2Proof.Machine

/-! ### Completion -/

/-- The command answers a next state, of which `P` holds. -/
def Completes (i : Instr) (s : State) (P : State → Prop) : Prop := ∃ t, exec i s = .next t ∧ P t

/-! ### The commit gate -/

/-- The slot a command names. -/
def theSlot (s : State) (a : At) : Slot := getSlot s a.core.val a.slot

/-- The physical core that serves the core of a command. -/
def servingCore (s : State) (a : At) : Nat := physOf s a.core.val

/-- The commit gate is open to a slot (R101, R102): the slot runs and holds no waiting instruction, its fetch hit an executable
segment (R412), and no breakpoint stands at its PC (R719). -/
def GateOpen (a : At) (s : State) : Prop :=
  canCommit s a.core.val a.slot = true
    ∧ (∃ g, fetchSeg s a.core.val a.slot = some g ∧ g.x = true)
    ∧ atBreakpoint s a.core.val a.slot = false

/-- Instruction `w` of a slot passes the commit gate, so far as the gate itself goes: the gate is open, and no coprocessor
operation owes a register that `w` names (R163). -/
def AtGate (a : At) (w : Wew) (s : State) : Prop := GateOpen a s ∧ copWait (theSlot s a) w = none

/-! ### Frames -/

/-- The only core that changes is core `n`. -/
def OnlyCore (n : Nat) (s t : State) : Prop := t = { s with cores := t.cores } ∧ ∀ m, m ≠ n → getCore t m = getCore s m

/-- The core of a command is as before, but for its slot and the books of a debug step (R720). -/
def SameCoreButSlot (a : At) (s t : State) : Prop :=
  getCore t a.core.val
    = { setCoreSlot (getCore s a.core.val) a.slot (theSlot t a) with
        stepping := (getCore t a.core.val).stepping, skipBp := (getCore t a.core.val).skipBp }

/-- Nothing changes but the slot a command names, and the books of a debug step. -/
def OnlySlot (a : At) (s t : State) : Prop := OnlyCore a.core.val s t ∧ SameCoreButSlot a s t

/-- No control register changes but those at the addresses listed. -/
def SameRegsBut (l : List Nat) (s t : State) : Prop := ∀ k, k ∉ l → spGet none k t.regs = spGet none k s.regs

/-- Nothing changes but the slot, the control registers listed, and the trace buffer when it is armed (R725). -/
def OnlySlotAndRegs (a : At) (l : List Nat) (s t : State) : Prop :=
  OnlySlot a s { t with regs := s.regs, trace := s.trace } ∧ SameRegsBut l s t
    ∧ (s.trace.armed = false → t.trace = s.trace)

/-- Nothing changes but the control registers listed. -/
def OnlyRegs (l : List Nat) (s t : State) : Prop := t = { s with regs := t.regs } ∧ SameRegsBut l s t

/-- What no event of the data plane touches: the queue of waiting commands, which part this is, flash and OTP, power and resets,
the test access port, the Timetable counter. -/
def PlatformKept (s t : State) : Prop :=
  t.pending = s.pending ∧ t.variant = s.variant ∧ t.nv = s.nv ∧ t.power = s.power ∧ t.test = s.test ∧ t.time = s.time

/-! ### Traps -/

/-- A trap that is a program fault has been taken (R119, R738): SEQ_TRAPCAUSE, SEQ_TRAPPC and SEQ_TRAPVAL of the serving core
hold it, the program runs no more, and the slot's g and f registers are as they were. -/
def TrapTaken (a : At) (c : Trap) (v : W64) (s t : State) : Prop :=
  regVal t .seqTrapcause (servingCore s a) 0 0 = BitVec.ofNat 64 (trapCode c + 256 * slotNum a.slot + 2 ^ 31)
    ∧ regVal t .seqTrappc (servingCore s a) 0 0 = (theSlot s a).pc.setWidth 64
    ∧ regVal t .seqTrapval (servingCore s a) 0 0 = v
    ∧ (theSlot t a).phase ≠ .running
    ∧ (theSlot t a).g = (theSlot s a).g ∧ (theSlot t a).f = (theSlot s a).f

/-! ### Engine commands at the gate -/

/-- The operand block at ga. -/
def gaBlock (s : State) (a : At) (ra : Reg) : Block := readBlock (getCore s a.core.val) (getG (theSlot s a) ra).toNat

/-- `i` is a row of a block instruction: of XOP the row of the block's FUNC, or any row where FUNC is undefined; of CMAINT the row
of its OPN. -/
def BlockRow (a : At) (rd ra : Reg) (tag : Fin 4096) (s : State) (op : BlockOp) (i : Instr) : Prop :=
  let w := (gaBlock s a ra).w3
  (op, i) ∈ [(BlockOp.accwb, Instr.accwb a rd ra tag), (.sload, .sload a rd ra tag), (.sstore, .sstore a rd ra tag),
      (.gpool, .gpool a rd ra tag), (.cmpr, .cmpr a rd ra tag), (.scadd, .scadd a rd ra tag), (.mlayer, .mlayer a rd ra tag),
      (.solve, .solve a rd ra tag), (.rread, .rread a rd ra tag), (.wwrite, .wwrite a rd ra tag), (.barr, .barr a rd ra tag)]
    ∨ (op = .xop ∧ ∃ f, (w % 256 = f ∨ 11 < w % 256) ∧
        (f, i) ∈ [(0x00, Instr.xopCvt a rd ra tag), (0x01, .xopAdd a rd ra tag), (0x02, .xopSub a rd ra tag),
          (0x03, .xopMul a rd ra tag), (0x04, .xopFma a rd ra tag), (0x05, .xopMax a rd ra tag), (0x06, .xopMin a rd ra tag),
          (0x07, .xopScale a rd ra tag), (0x08, .xopRelu a rd ra tag), (0x09, .xopAcc a rd ra tag),
          (0x0A, .xopAccs a rd ra tag), (0x0B, .xopHamm a rd ra tag)])
    ∨ (op = .cmaint ∧ (w % 4, i) ∈ [(0, Instr.cmaintClean a rd ra tag), (1, .cmaintInvalidate a rd ra tag),
          (2, .cmaintCleanInvalidate a rd ra tag), (3, .cmaintFill a rd ra tag)])

/-- No replay hands the slot a logged status (R614), every resource of the claim is free (R107, R116, R181), and the tag is a
free one of the pool the command draws from (R105). -/
def Issues (a : At) (q : Claim) (tag : Fin 4096) (s : State) : Prop :=
  (theSlot s a).replaying = none ∧ stallOf s a.core.val a.slot q = none
    ∧ tagFits s a.core.val a.slot q.parcel tag.val = true

/-- The operand block at ga passes the checks of its instruction (R175 to R177); `p` is what it claims. -/
def BlockPlan (a : At) (op : BlockOp) (ra : Reg) (s : State) (p : Plan) : Prop :=
  let c := getCore s a.core.val
  let addr := (getG (theSlot s a) ra).toNat
  blockCheck c a.slot addr = none ∧ blockFields op c addr (readBlock c addr) = true
    ∧ planBlock op c a.core.val a.slot (readBlock c addr) = some p

def BlockLegal (a : At) (op : BlockOp) (ra : Reg) (s : State) : Prop := ∃ p, BlockPlan a op ra s p

/-- The operand block passes its checks, and its command can issue. -/
def BlockIssues (a : At) (op : BlockOp) (ra : Reg) (tag : Fin 4096) (s : State) : Prop :=
  ∃ p, BlockPlan a op ra s p ∧ Issues a p.claim tag s

/-- A command has issued: the tag is no longer free, is one generation further and belongs to the slot; gd holds the handle; the
slot goes on to the next word (R105, R106, R180). -/
def CommandIssued (a : At) (rd : Reg) (tag : Fin 4096) (s t : State) : Prop :=
  (getTag t tag.val).st ≠ .free ∧ (getTag t tag.val).gen = (getTag s tag.val).gen + 1
    ∧ (getTag t tag.val).owner = some (a.core.val, a.slot)
    ∧ (rd ≠ 0#5 → (getG (theSlot t a) rd).toNat = tag.val + 4096 * ((getTag s tag.val).gen + 1).toNat)
    ∧ (∀ r, r ≠ rd → getG (theSlot t a) r = getG (theSlot s a) r) ∧ (theSlot t a).f = (theSlot s a).f
    ∧ (theSlot t a).pc = (theSlot s a).pc + 4#48 ∧ t.seq = s.seq + 1

/-! ### Commands of the host -/

/-- The completion entry of a taken command has been posted, or is held for a function in D3hot, with a code in byte 6 (R465,
R486), and the Dispatcher has the command no more. -/
def EntryWritten (s t : State) (d : DCmd) (code : Nat) : Prop :=
  (∃ bs, Post.write (fnOf s d.ctx) ((regVal s .dspQcqbase 0 d.ctx d.q).toNat + 32 * (getQueue s d.ctx d.q).cqTail) bs false
        plainAttr ∈ posted t ++ t.host.heldPosts.map (·.2.2)
      ∧ bs.length = 32 ∧ bs.take 4 = leBytes 4 d.cmdid ∧ bs.getD 6 0#8 = BitVec.ofNat 8 code)
    ∧ ∀ e ∈ t.host.cmds, e.id ≠ d.id

end Sys2Proof.Machine
end

