-- ==== Sys2Proof/WellFormed.lean ====
section
/-! DEFINITION. Well-formed terms: the relations between the operands of a command, and between the fields of what it carries,
that the types do not already impose. -/

namespace Sys2Proof

/-- An instruction word exists for it: a source that Table 4.5 or 4.10 does not name is zero, and a shift amount fits (R130). -/
def wfWew : Wew → Bool
  | .int op _ _ rb => !intOpUnary op || rb == 0#5
  | .imm op _ _ v => !immOpShift op || v.extractLsb' 6 10 == 0#10
  | .fp op _ _ _ rb => !fpOpUnary op || rb == 0#5
  | .seth .. | .puth .. | .branch .. | .jal .. | .jalr .. | .load .. | .store .. | .mfsr .. | .mtsr .. | .trap .. | .brk
  | .stop | .divd .. | .sqrtd .. | .fma .. | .fcvtx .. | .fcvtf .. | .fcvtLD .. | .fcvtDL .. | .fcvtSD .. | .fcvtDS ..
  | .tdef .. | .seed .. | .azero .. | .block .. | .lend | .pfetch .. | .psend .. | .precv .. | .twait .. | .wait ..
  | .stat .. | .waitall => true

/-- Table 13.7: every header field fits, and LEN is at most 16,384 (R524). -/
def wfPacket (p : Packet) : Bool :=
  p.op < 256 && p.rev < 8 && p.dst < 1024 && p.src < 1024 && p.dir < 8 && p.ctx < 64 && p.handle < 65536
    && p.core < 256 && p.slot < 2 && p.key < 65536 && p.data.length ≤ 16384

def wfSop : Option Packet → Bool
  | some p => wfPacket p
  | none => true

/-- Table 14.1: nanoseconds are below one second. -/
def wfTsync (x : Tsync) : Bool := x.ns.toNat < 1000000000

/-- R589: four allotments of 20 bits. -/
def wfAllot (l : List Nat) : Bool := l.length == 4 && l.all fun x => decide (x < 2 ^ 20)

/-- One temperature for each quadrant. -/
def wfTemps (l : List Int) : Bool := l.length == 4

/-- One power reading for each VDD_CORE rail. -/
def wfPowers (l : List Nat) : Bool := l.length == 4

/-- R585: one constant for each quadrant, and for each pair of quadrants. -/
def wfGovModel (m : GovModel) : Bool :=
  m.b.length == 4 && m.c.length == 4 && m.alpha.length == 4 && m.r.length == 16

/-- R594: the governor's descriptor lies on a multiple of 64. -/
def wfGovWrite (g : GovWrite) : Bool := g.offset.toNat % 64 == 0 && wfGovModel g.model

/-- A host access moves 1 to 4,096 bytes. -/
def wfSize (n : Nat) : Bool := 1 ≤ n && n ≤ 4096

def wfTransfer (n : Nat) : Option (List Byte × Bool) → Bool
  | some (bs, _) => wfSize bs.length
  | none => wfSize n

/-- The writes to a parcel port. -/
def wfPortData (ws : List (Nat × List Byte)) : Bool := ws.all fun w => wfSize w.2.length

def wfRead (n : Nat) : ReadTarget → Bool
  | .control _ | .hw2 _ => wfSize n
  | .config .. => true

def wfTarget : WriteTarget → Bool
  | .control _ _ bs => wfSize bs.length
  | .config .. => true

/-- A line number of the 40-bit device physical space (R372). -/
def wfLine (l : Nat) : Bool := l < 2 ^ 33

/-- Each word of HBM that an error names lies in the device physical space. -/
def wfPlace : UncorrectableAt → Bool
  | .hbm l _ => wfLine l
  | _ => true

/-- A host read returns the bytes asked for. -/
def wfReply (n : Nat) : HostReply → Bool
  | .data bs _ => bs.length == n
  | .unsupported | .aborted => true


/-- A command whose operands the hardware, or its surroundings, can produce. -/
def wfInstr : Instr → Bool
  | .integerRegisterOperation _ op rd ra rb => wfWew (.int op rd ra rb)
  | .integerImmediateOperation _ op rd ra v => wfWew (.imm op rd ra v)
  | .floatingPointOperation _ op p rd ra rb => wfWew (.fp op p rd ra rb)
  | .lineArrival _ host => wfReply 128 host
  | .missFillArrival _ l => wfLine l
  | .victimWriteAccept _ l => wfLine l
  | .uncorrectableDataError place _ _ _ => wfPlace place
  | .commandQueueTailDoorbell _ _ _ _ data => wfSize data.length
  | .completionQueueHeadDoorbell _ _ _ _ data => wfSize data.length
  | .parcelRingHeadDoorbell _ _ _ data => wfSize data.length
  | .parcelPortSend _ _ _ data _ _ => wfPortData data
  | .hw4Access _ len write => wfTransfer len write
  | .dataFlit _ _ _ _ _ sop _ _ _ => wfSop sop
  | .sync _ _ _ x _ => wfTsync x
  | .followUp _ _ _ x _ => wfTsync x
  | .delayReq _ _ _ x _ => wfTsync x
  | .delayResp _ _ _ x _ => wfTsync x
  | .fwActivate _ allot => wfAllot allot
  | .governorCycleStart g coreMw _ => wfGovWrite g && wfPowers coreMw
  | .governorProblemEnd allot _ => wfAllot allot
  | .fallbackTick allot _ => wfAllot allot
  | .thermalSample temps _ _ allot => wfTemps temps && wfAllot allot
  | .scrub l _ _ => wfLine l
  | .readClearAccess target _ len => wfRead len target
  | .registerWrite target => wfTarget target
  | .seth .. | .puth .. | .conditionalBranch .. | .jal .. | .jalr .. | .localStoreLoad .. | .localStoreStore ..
  | .mfsr .. | .mtsr .. | .fma .. | .divd .. | .sqrtd .. | .coprocessorResult .. | .fcvtx .. | .fcvtf ..
  | .fcvtLD .. | .fcvtDL .. | .fcvtSD .. | .fcvtDS .. | .trap .. | .break_ .. | .end_ .. | .endComplete ..
  | .commitAfterStall .. | .retirementReport .. | .tdef .. | .seed .. | .azero .. | .accwb .. | .sload ..
  | .sstore .. | .gpool .. | .xopCvt .. | .xopAdd .. | .xopSub .. | .xopMul .. | .xopFma .. | .xopMax ..
  | .xopMin .. | .xopScale .. | .xopRelu .. | .xopAcc .. | .xopAccs .. | .xopHamm .. | .cmpr .. | .scadd ..
  | .mlayer .. | .lend .. | .solve .. | .pfetch .. | .cmaintClean .. | .cmaintInvalidate ..
  | .cmaintCleanInvalidate .. | .cmaintFill .. | .rread .. | .wwrite .. | .psend .. | .precv .. | .barr ..
  | .barrRelease .. | .twait .. | .twaitReached .. | .wait .. | .stat .. | .waitall .. | .lineRequestIssue ..
  | .executeUnitEnd .. | .streamResume .. | .injectorFirstRead .. | .panelInject .. | .panelConsumed ..
  | .layerEndMarker .. | .outputCompressorWrite .. | .parcelDelivery .. | .contributionArrival ..
  | .heldContributionAccept .. | .drainEnd .. | .applyEnd .. | .solveFrontEnd .. | .problemAssign ..
  | .problemEnd .. | .deadlineCheck .. | .solverLaneStoreError .. | .lineRequestAtSlice .. | .prefetchLine ..
  | .wayInvalidate .. | .wayInvalidateComplete | .enable .. | .disable .. | .powerDown .. | .powerUp ..
  | .sweepComplete .. | .correctedError .. | .leakTick | .tagLost .. | .lookasideMiss .. | .lookasideMissServed
  | .segSync .. | .invalidate | .granuleSet | .ownSet | .epochDrained | .faultBatchClose
  | .atsTranslationCompletion .. | .prgResponse .. | .atsInvalidateRequest .. | .commandReadCompletion .. | .run ..
  | .runStart .. | .runExpired .. | .load .. | .copy .. | .nop .. | .interruptTimeTrigger .. | .dspCtxreset ..
  | .dspFnreset .. | .flrVf .. | .flrPf | .d3hotEntry .. | .idleFlit .. | .retryTimerExpiry ..
  | .lockLossTimeout .. | .trainingAttemptEnd .. | .portRetryTimer .. | .helloTimer .. | .hello .. | .failover ..
  | .failoverResendTimer .. | .failoverTimeout .. | .lsa .. | .packetForward .. | .remoteRead .. | .windowWrite ..
  | .poolAtHome .. | .parcel .. | .time .. | .error .. | .remoteResponse .. | .remoteTimeout .. | .timeClockTick
  | .timeCopyUpdate .. | .ppsInEdge .. | .ppsTimeout | .syncExchangeTimer .. | .timeAnnounceTimer
  | .holdoverTimeout | .holdoverLimit | .stepApply | .ttTod .. | .ttSecRead .. | .ident .. | .status ..
  | .telemetry .. | .readLog .. | .setTod .. | .setCap .. | .govCtl .. | .govTarget .. | .fwStage .. | .fwVerify ..
  | .fwConfirm .. | .fwStatus .. | .bootStatusRead | .responseRead | .watchdogExpiry .. | .railTelemetryPoll ..
  | .govLsubmit .. | .divergence .. | .selfTest .. | .remap .. | .replayStart .. | .conservationAudit ..
  | .portFenceRelease .. | .hostLogRingWrite | .porNFall | .porNRelease .. | .powerUpStep | .pwrdnN
  | .referenceLoss .. | .referenceReturn .. | .perstNFall | .perstNRelease | .bringupPhaseEnd ..
  | .hbmTrainingAttempt .. | .idcode | .samplePreload .. | .extest | .clamp | .highz | .extestPulse | .extestTrain
  | .bootstat | .dbgacc .. | .bypass .. | .halt .. | .resume .. | .step .. | .dbgCtl .. | .debugRegisterAccess ..
  | .accumulatorViewRead .. | .arm .. | .stop .. | .dbgPorttest .. | .seqTagquota .. | .seqExpress .. | .rcSalt ..
  | .rcLfsr .. | .rcClassmask .. | .rmuMtreg .. | .dspLdev .. | .xlCtxbind .. | .xlSegtbase .. | .xlIwin ..
  | .xlFrhead .. | .dspQctl .. | .dspPring .. | .jnCfg .. | .sbRegisterWrite .. | .smMboxdb .. | .logRcfg ..
  | .logRhead .. | .illegalInstr .. | .lineWriteAccepted .. | .translationCacheMissServed ..
  | .completionTimeout .. | .returnToD0 .. | .msixUnmask .. | .powerGoodTimeout | .stationmasterReady ..
  | .xlFrbase .. | .resetComplete .. => true

end Sys2Proof
end

