-- ==== Sys2Proof/Certificates/Slice0/Obligations.lean ====
section
/-! DEFINITION. The statements for the provers. -/

open Sys2Proof Sys2Proof.Machine

/-! ### The queue (spec/95) -/

/-- A step takes the command at the front of the queue and runs it with the rest of the queue. With no command waiting it lets
a cycle pass (the model's choice, log entry 3): the link takes the oldest output (R473), and while the data plane works CYCLE of
each running slot of a core that is not halted rises by one (R172, R721). -/
def Obligations.StepRunsFrontCommand : Prop :=
  (∀ (s : State) (c : Instr), Machine.step { s with pending := c :: s.pending } = Machine.exec c s)
    ∧ ∀ (s : State), s.pending = [] → ∃ t, Machine.step s = .next t
      ∧ PlatformKept s t
      ∧ (planeUp s = false → t = transmit s)
      ∧ (planeUp s = true → ∀ (n : Nat) (i : SlotId), spWf coreReset s.cores = true →
          (getSlot t n i).cycle
            = if (getCore s n).halted = false ∧ (getSlot s n i).phase = .running then (getSlot s n i).cycle + 1#64
              else (getSlot s n i).cycle)

/-! ### Instruction words (spec/04, spec/05) -/

/-- Every instruction has a word, and the decoder reads it back with every operand (Tables 4.2 to 4.11, 5.1, 5.2); and a word
decodes only to the instruction whose encoding it is: no bit of a word is dropped, and a word with a one in a field marked zero
decodes to nothing (R131). -/
def Obligations.WewEncodingRoundTrip : Prop :=
  (∀ w : Wew, wfWew w = true → decodeWew (encodeWew w) = .ok w)
    ∧ ∀ (x : W32) (w : Wew), decodeWew x = .ok w → wfWew w = true ∧ encodeWew w = x

/-! ### Register files (spec/03) -/

/-- R91: g0 reads as zero and discards writes; every other g register holds what is written to it, and the write leaves the
rest. -/
def Obligations.GeneralRegisterZero : Prop :=
  ∀ (x : Slot) (r q : Reg) (v : W64),
    getG x 0#5 = 0#64 ∧ setG x 0#5 v = x ∧ (r ≠ 0#5 → getG (setG x r v) r = v)
      ∧ (q ≠ r → getG (setG x r v) q = getG x q) ∧ getF (setG x r v) q = getF x q

/-- R92: an FP32 operation reads bits [31:0] of its sources and leaves bits [63:32] of its result zero: the operations of Table 4.10,
the fused multiply-adds, and the conversions to and from FP32. An FP64 value is read with all its bits. -/
def Obligations.SinglePrecisionUsesLowHalf : Prop :=
  ∀ (op : FpOp) (rm : Rm) (sat : Bool) (r : Threshold) (a b c a' b' c' : W64),
    a.setWidth 32 = a'.setWidth 32 → b.setWidth 32 = b'.setWidth 32 → c.setWidth 32 = c'.setWidth 32 →
    fpResult op false rm r a b = fpResult op false rm r a' b'
      ∧ (fpResult op false rm r a b).1.extractLsb' 32 32 = 0#32
      ∧ fmaResult false rm r a b c = fmaResult false rm r a' b' c'
      ∧ (fmaResult false rm r a b c).1.extractLsb' 32 32 = 0#32
      ∧ fcvtDSResult a = fcvtDSResult a' ∧ (fcvtSDResult rm sat r a).1.extractLsb' 32 32 = 0#32
      ∧ fpResult .fmov true rm r a b = (a, 0#8)

/-! ### Integer results (Table 4.5, Table 4.6) -/

/-- Table 4.5 in integers: what each operation of major 0x01 makes of its two sources. -/
def Obligations.IntegerOperationValues : Prop :=
  ∀ a b : W64,
    (intResult .add a b).toNat = (a.toNat + b.toNat) % 2 ^ 64
      ∧ (intResult .sub a b).toNat = (2 ^ 64 + a.toNat - b.toNat) % 2 ^ 64
      ∧ (intResult .sll a b).toNat = a.toNat * 2 ^ (b.toNat % 64) % 2 ^ 64
      ∧ (intResult .srl a b).toNat = a.toNat / 2 ^ (b.toNat % 64)
      ∧ (intResult .sra a b).toInt = a.toInt / 2 ^ (b.toNat % 64)
      ∧ (∀ k, k < 64 → (intResult .ror a b).getLsbD k = a.getLsbD ((k + b.toNat) % 64))
      ∧ (∀ k, (intResult .andn a b).getLsbD k = (a.getLsbD k && !b.getLsbD k))
      ∧ (intResult .slt a b).toNat = (if a.toInt < b.toInt then 1 else 0)
      ∧ (intResult .sltu a b).toNat = (if a.toNat < b.toNat then 1 else 0)
      ∧ (intResult .seq a b).toNat = (if a = b then 1 else 0)
      ∧ (intResult .min a b).toInt = min a.toInt b.toInt ∧ (intResult .max a b).toInt = max a.toInt b.toInt
      ∧ (intResult .minu a b).toNat = min a.toNat b.toNat ∧ (intResult .maxu a b).toNat = max a.toNat b.toNat
      ∧ (intResult .mul a b).toNat = a.toNat * b.toNat % 2 ^ 64
      ∧ (intResult .mulh a b).toInt = a.toInt * b.toInt / 2 ^ 64
      ∧ (intResult .mulhu a b).toNat = a.toNat * b.toNat / 2 ^ 64
      ∧ (a ≠ 0 → a.toNat < 2 ^ (64 - (intResult .clz a b).toNat) ∧ 2 ^ (63 - (intResult .clz a b).toNat) ≤ a.toNat)
      ∧ intResult .clz 0 b = 64#64 ∧ intResult .ctz 0 b = 64#64
      ∧ (a ≠ 0 → a.getLsbD (intResult .ctz a b).toNat = true
          ∧ ∀ k, k < (intResult .ctz a b).toNat → a.getLsbD k = false)
      ∧ (intResult .popc a b).toNat = (List.range 64).countP fun k => a.getLsbD k

/-- Integer register and immediate operations, SETH and PUTH commit with their result in gd and the next sequential PC, and
change nothing else (R135, R136, R138, R144).
Model choices it rests on: log entry 1. -/
def Obligations.IntegerInstructionsCommit : Prop :=
  ∀ (a : At) (rd ra rb : Reg) (v : BitVec 16) (hw : BitVec 2) (s : State),
    let x := theSlot s a
    (∀ op, AtGate a (.int op rd ra rb) s → Completes (.integerRegisterOperation a op rd ra rb) s fun t =>
      theSlot t a = { setG x rd (intResult op (getG x ra) (getG x rb)) with pc := x.pc + 4#48 } ∧ OnlySlot a s t)
    ∧ (∀ op, AtGate a (.imm op rd ra v) s → Completes (.integerImmediateOperation a op rd ra v) s fun t =>
      theSlot t a = { setG x rd (immResult op (getG x ra) v) with pc := x.pc + 4#48 } ∧ OnlySlot a s t)
    ∧ (AtGate a (.seth rd hw v) s → Completes (.seth a rd hw v) s fun t =>
      theSlot t a = { setG x rd (v.setWidth 64 <<< (16 * hw.toNat)) with pc := x.pc + 4#48 } ∧ OnlySlot a s t)
    ∧ (AtGate a (.puth rd hw v) s → Completes (.puth a rd hw v) s fun t => OnlySlot a s t
      ∧ ∃ y, theSlot t a = { setG x rd y with pc := x.pc + 4#48 }
        ∧ ∀ k, k < 64 → y.getLsbD k =
            if k / 16 = hw.toNat then v.getLsbD (k % 16) else (getG x rd).getLsbD k)

/-! ### Branches and jumps -/

/-- A branch goes to pc + 4·offset when its condition holds, to the next word otherwise; JAL and JALR write the address of the
next word to gd and go to their target (R97 to R99, R140 to R144). Beside the slot, only SEQ_SQUASHED and an armed trace
change. The conditions are those of Table 4.8, in integers.
Model choices it rests on: log entries 1 and 4. -/
def Obligations.BranchesAndJumpsCommit : Prop :=
  ∀ (a : At) (c : Cond) (rd ra rb : Reg) (h : Bool) (off : BitVec 15) (far : BitVec 21) (v : BitVec 16)
    (younger : Fin 5) (s : State),
    let x := theSlot s a
    let sq := regVal s .seqSquashed (servingCore s a) 0 0
    let sqAt := regAddr .seqSquashed (servingCore s a) 0 0
    let target := x.pc + (off.signExtend 48 <<< 2)
    let taken := condHolds c (getG x ra) (getG x rb)
    (AtGate a (.branch c ra rb h off) s → Completes (.conditionalBranch a c ra rb h off younger) s fun t =>
      theSlot t a = { x with pc := if taken = true then target else x.pc + 4#48 }
        ∧ regVal t .seqSquashed (servingCore s a) 0 0
            = (if taken = (target.ult x.pc != h) then sq else sq + BitVec.ofNat 64 younger.val)
        ∧ OnlySlotAndRegs a [sqAt] s t)
    ∧ (AtGate a (.jal rd far) s → Completes (.jal a rd far) s fun t =>
      theSlot t a = { setG x rd ((x.pc + 4#48).setWidth 64) with pc := x.pc + (far.signExtend 48 <<< 2) }
        ∧ OnlySlotAndRegs a [] s t)
    ∧ (AtGate a (.jalr rd ra v) s → Completes (.jalr a rd ra v younger) s fun t =>
      (∃ p, theSlot t a = { setG x rd ((x.pc + 4#48).setWidth 64) with pc := p }
        ∧ p.toNat = (getG x ra + v.signExtend 64).toNat / 4 * 4 % 2 ^ 48)
        ∧ regVal t .seqSquashed (servingCore s a) 0 0 = sq + BitVec.ofNat 64 younger.val
        ∧ OnlySlotAndRegs a [sqAt] s t)
    ∧ ∀ y z : W64,
      (condHolds .beq y z = true ↔ y.toNat = z.toNat) ∧ (condHolds .bne y z = true ↔ y.toNat ≠ z.toNat)
        ∧ (condHolds .blt y z = true ↔ y.toInt < z.toInt) ∧ (condHolds .bge y z = true ↔ z.toInt ≤ y.toInt)
        ∧ (condHolds .bltu y z = true ↔ y.toNat < z.toNat) ∧ (condHolds .bgeu y z = true ↔ z.toNat ≤ y.toNat)
/-! ### Local store (spec/04, spec/06) -/

/-- An aligned load inside the slot's range commits: gd, or fd, takes the bytes at ga + sext(IMM16), the lowest first (R145),
extended as Table 4.9 says, and nothing else changes but the PC.
Model choices it rests on: log entry 1. -/
def Obligations.LoadsCommit : Prop :=
  (∀ n : Nat,
    (n < 2 ^ 8 → (loadValue .ldb n).toInt = (if n < 2 ^ 7 then (n : Int) else n - 2 ^ 8))
      ∧ (n < 2 ^ 16 → (loadValue .ldh n).toInt = (if n < 2 ^ 15 then (n : Int) else n - 2 ^ 16))
      ∧ (n < 2 ^ 32 → (loadValue .ldw n).toInt = (if n < 2 ^ 31 then (n : Int) else n - 2 ^ 32))
      ∧ (n < 2 ^ 64 → ∀ op ∈ [LoadOp.ldbu, .ldhu, .ldwu, .ldd, .fldw, .fldd], (loadValue op n).toNat = n))
  ∧ ∀ (a : At) (op : LoadOp) (rd ra : Reg) (v : BitVec 16) (s : State),
    let x := theSlot s a
    let c := getCore s a.core.val
    let addr := (getG x ra + v.signExtend 64).toNat
    let bytes := (List.range (loadSize op)).map fun i => memGet c.ls (addr + i)
    let y := loadValue op (bytes.foldr (fun b n => b.toNat + 256 * n) 0)
    AtGate a (.load op rd ra v) s → addr % loadSize op = 0 → (lsRange c a.slot).1 ≤ addr →
    addr + loadSize op ≤ (lsRange c a.slot).2 →
    Completes (.localStoreLoad a op rd ra v) s fun t =>
      theSlot t a = { (if op = .fldw ∨ op = .fldd then setF x rd y else setG x rd y) with pc := x.pc + 4#48 }
        ∧ OnlySlot a s t

/-- An aligned store inside the slot's range commits: the low bytes of its source go to ga + sext(IMM16), the lowest first
(R145). Every other byte of local store, every poison bit (R263) and everything else but the PC is as before.
Model choices it rests on: log entry 1. -/
def Obligations.StoresCommit : Prop :=
  ∀ (a : At) (op : StoreOp) (rs ra : Reg) (v : BitVec 16) (s : State),
    let x := theSlot s a
    let c := getCore s a.core.val
    let addr := (getG x ra + v.signExtend 64).toNat
    let y := if op = .fstw ∨ op = .fstd then getF x rs else getG x rs
    AtGate a (.store op rs ra v) s → addr % storeSize op = 0 → (lsRange c a.slot).1 ≤ addr →
    addr + storeSize op ≤ (lsRange c a.slot).2 →
    Completes (.localStoreStore a op rs ra v) s fun t =>
      let c' := getCore t a.core.val
      theSlot t a = { x with pc := x.pc + 4#48 }
        ∧ (∀ i, i < storeSize op → memGet c'.ls (addr + i) = BitVec.ofNat 8 (y.toNat / 256 ^ i))
        ∧ (∀ k, k < addr ∨ addr + storeSize op ≤ k → memGet c'.ls k = memGet c.ls k)
        ∧ c' = { setCoreSlot c a.slot (theSlot t a) with ls := c'.ls, stepping := c'.stepping, skipBp := c'.skipBp }
        ∧ OnlyCore a.core.val s t

/-- R146: a load or store at an address that is no multiple of its size takes LS_ALIGN, and an aligned one outside the slot's
range takes LS_RANGE, with the address in SEQ_TRAPVAL (R738). A load to g0 is checked so, and its data are discarded.
Model choices it rests on: log entry 1. -/
def Obligations.BadLocalStoreAccessTraps : Prop :=
  ∀ (a : At) (rd ra : Reg) (v : BitVec 16) (s : State),
    let c := getCore s a.core.val
    let addr := getG (theSlot s a) ra + v.signExtend 64
    let outside (size : Nat) : Prop := addr.toNat < (lsRange c a.slot).1 ∨ (lsRange c a.slot).2 < addr.toNat + size
    (∀ op : LoadOp, AtGate a (.load op rd ra v) s →
      (addr.toNat % loadSize op ≠ 0 → Completes (.localStoreLoad a op rd ra v) s (TrapTaken a .lsAlign addr s))
      ∧ (addr.toNat % loadSize op = 0 → outside (loadSize op) →
          Completes (.localStoreLoad a op rd ra v) s (TrapTaken a .lsRange addr s)))
    ∧ (∀ op : StoreOp, AtGate a (.store op rd ra v) s →
      (addr.toNat % storeSize op ≠ 0 → Completes (.localStoreStore a op rd ra v) s (TrapTaken a .lsAlign addr s))
      ∧ (addr.toNat % storeSize op = 0 → outside (storeSize op) →
          Completes (.localStoreStore a op rd ra v) s (TrapTaken a .lsRange addr s)))
    ∧ (∀ op : LoadOp, op ≠ .fldw → op ≠ .fldd → AtGate a (.load op 0#5 ra v) s → addr.toNat % loadSize op = 0 →
        ¬outside (loadSize op) → Completes (.localStoreLoad a op 0#5 ra v) s fun t =>
          theSlot t a = { theSlot s a with pc := (theSlot s a).pc + 4#48 } ∧ OnlySlot a s t)

/-! ### Special registers (Table 3.2, Table 4.10a) -/

/-- MFSR writes the value of a special register of Table 3.2 to gd; a read of GTIME_HI also takes the snapshot that GTIME_LO
reads (R543). MTSR clears bits of STATSUM, writes FFLAGS, or writes FRM (R152, R153). Nothing else changes but the PC.
Model choices it rests on: log entries 1 and 10. -/
def Obligations.SpecialRegisterMoves : Prop :=
  ∀ (a : At) (rd ra : Reg) (sr : BitVec 8) (s : State),
    let x := theSlot s a
    let v := getG x ra
    let owed := x.cop.any fun o => !o.discard
    (∀ y : W64, (sr.toNat, y) ∈
        [(0x00, BitVec.ofNat 64 a.core.val), (0x01, BitVec.ofNat 64 x.ctx),
         (0x02, if a.slot = .express then 1#64 else 0#64), (0x03, if a.slot = .express then 0x70000#64 else 0#64),
         (0x04, x.cycle), (0x05, BitVec.ofNat 64 (s.now.sec % 2 ^ 48)),
         (0x06, BitVec.ofNat 64 (x.snap.ns % 2 ^ 32 * 2 ^ 16 + x.snap.frac % 2 ^ 16)), (0x07, x.statsum.setWidth 64),
         (0x08, x.fflags.setWidth 64), (0x09, x.frm.setWidth 64),
         (0x0A, BitVec.ofNat 64 (tagsFree s a.core.val a.slot))] →
      AtGate a (.mfsr rd sr) s → (sr.toNat = 0x08 → owed = false) →
      Completes (.mfsr a rd sr) s fun t =>
        theSlot t a = { setG x rd y with pc := x.pc + 4#48, snap := if sr.toNat = 0x05 then s.now else x.snap }
          ∧ OnlySlot a s t)
    ∧ (AtGate a (.mtsr ra sr) s →
      (sr = 0x07#8 → Completes (.mtsr a ra sr) s fun t =>
        theSlot t a = { x with statsum := x.statsum &&& ~~~(v.setWidth 8), pc := x.pc + 4#48 } ∧ OnlySlot a s t)
      ∧ (sr = 0x08#8 → owed = false → Completes (.mtsr a ra sr) s fun t =>
        theSlot t a = { x with fflags := v.setWidth 8 &&& 0x1F#8, pc := x.pc + 4#48 } ∧ OnlySlot a s t)
      ∧ (sr = 0x09#8 → v.setWidth 2 ≠ 3#2 → Completes (.mtsr a ra sr) s fun t =>
        theSlot t a = { x with frm := v.setWidth 2, pc := x.pc + 4#48 } ∧ OnlySlot a s t))

/-- R96: a number outside Table 3.2, a write to a read-only special register, and a write of 0b11 to FRM raise ILLEGAL_OPERAND,
and every special register that the slot holds is as before.
Model choices it rests on: log entry 1. -/
def Obligations.BadSpecialRegisterTraps : Prop :=
  ∀ (a : At) (rd ra : Reg) (sr : BitVec 8) (s : State),
    let x := theSlot s a
    let kept (t : State) : Prop := TrapTaken a .illegalOperand 0#64 s t ∧ (theSlot t a).statsum = x.statsum
      ∧ (theSlot t a).fflags = x.fflags ∧ (theSlot t a).frm = x.frm ∧ (theSlot t a).ctx = x.ctx
      ∧ (theSlot t a).cycle = x.cycle ∧ (theSlot t a).snap = x.snap ∧ t.now = s.now
    (AtGate a (.mfsr rd sr) s → 0x0B ≤ sr.toNat → Completes (.mfsr a rd sr) s kept)
    ∧ (AtGate a (.mtsr ra sr) s →
        (sr.toNat < 0x07 ∨ 0x0A ≤ sr.toNat ∨ (sr = 0x09#8 ∧ (getG x ra).setWidth 2 = 3#2)) →
        Completes (.mtsr a ra sr) s kept)

/-! ### Floating point (Tables 4.10, 4.11) -/

/-- Scalar floating-point operations, fused multiply-add and conversions commit: their result is rounded as they say (R154, R160,
R164), their flags are OR-ed into FFLAGS (R155), and a stochastic rounding steps the slot's LFSR once. Nothing else changes but
the PC.
Model choices it rests on: log entry 1. -/
def Obligations.FloatingPointCommits : Prop :=
  ∀ (a : At) (p : Bool) (rd ra rb rc : Reg) (f : BitVec 4) (k : BitVec 2) (sat : Bool) (s : State),
    let x := theSlot s a
    let frm := if x.frm = 1#2 then Rm.zero else if x.frm = 2#2 then Rm.stochastic else Rm.nearest
    let commits (i : Instr) (m : Rm) (r : Threshold → W64 × Flags) (put : Slot → W64 → Slot) : Prop :=
      let y := if m = .stochastic then { x with lfsr := lfsrStep x.lfsr } else x
      let z := r (if m = .stochastic then lfsrThreshold (lfsrStep x.lfsr) else 0)
      Completes i s fun t =>
        theSlot t a = { put y z.1 with fflags := x.fflags ||| z.2, pc := x.pc + 4#48 } ∧ OnlySlot a s t
    let g (y : Slot) (v : W64) : Slot := setG y rd v
    let h (y : Slot) (v : W64) : Slot := setF y rd v
    (∀ op, AtGate a (.fp op p rd ra rb) s →
      commits (.floatingPointOperation a op p rd ra rb)
        (if op = .fadd ∨ op = .fsub ∨ op = .fmul then frm else .nearest)
        (fun r => fpResult op p (if op = .fadd ∨ op = .fsub ∨ op = .fmul then frm else .nearest) r
          (if op = .fmvf then getG x ra else getF x ra) (getF x rb))
        (if op = .feq ∨ op = .flt ∨ op = .fle ∨ op = .fmvg then g else h))
    ∧ (AtGate a (.fma p rd ra rb rc) s →
      commits (.fma a p rd ra rb rc) frm (fun r => fmaResult p frm r (getF x ra) (getF x rb) (getF x rc)) h)
    ∧ (∀ t m, scalarFmt f = some t → rmOfCode k.toNat = some m → AtGate a (.fcvtx rd ra f k sat) s →
      commits (.fcvtx a rd ra f k sat) m (fun r => fcvtxResult t m sat r (getF x ra)) g)
    ∧ (∀ t, scalarFmt f = some t → AtGate a (.fcvtf rd ra f) s →
      commits (.fcvtf a rd ra f) .nearest (fun _ => fcvtfResult t (getG x ra)) h)
    ∧ (∀ m, rmOfCode k.toNat = some m →
      (AtGate a (.fcvtLD rd ra k sat) s →
        commits (.fcvtLD a rd ra k sat) m (fun r => fcvtLDResult m sat r (getF x ra)) g)
      ∧ (AtGate a (.fcvtDL rd ra k) s → commits (.fcvtDL a rd ra k) m (fun r => fcvtDLResult m r (getG x ra)) h)
      ∧ (AtGate a (.fcvtSD rd ra k sat) s →
        commits (.fcvtSD a rd ra k sat) m (fun r => fcvtSDResult m sat r (getF x ra)) h))
    ∧ (AtGate a (.fcvtDS rd ra) s → commits (.fcvtDS a rd ra) .nearest (fun _ => fcvtDSResult (getF x ra)) h)

/-- R132, R165: a conversion with RM = 0b11, or with a FMT that Table 4.11 does not take, raises ILLEGAL_OPERAND.
Model choices it rests on: log entry 1. -/
def Obligations.BadConversionTraps : Prop :=
  ∀ (a : At) (rd ra : Reg) (f : BitVec 4) (k : BitVec 2) (sat : Bool) (s : State),
    (AtGate a (.fcvtx rd ra f k sat) s → 0xC ≤ f.toNat ∨ k = 3#2 →
      Completes (.fcvtx a rd ra f k sat) s (TrapTaken a .illegalOperand 0#64 s))
    ∧ (AtGate a (.fcvtf rd ra f) s → 0xC ≤ f.toNat →
      Completes (.fcvtf a rd ra f) s (TrapTaken a .illegalOperand 0#64 s))
    ∧ (k = 3#2 → AtGate a (.fcvtLD rd ra k sat) s →
      Completes (.fcvtLD a rd ra k sat) s (TrapTaken a .illegalOperand 0#64 s))
    ∧ (k = 3#2 → AtGate a (.fcvtDL rd ra k) s →
      Completes (.fcvtDL a rd ra k) s (TrapTaken a .illegalOperand 0#64 s))
    ∧ (k = 3#2 → AtGate a (.fcvtSD rd ra k sat) s →
      Completes (.fcvtSD a rd ra k sat) s (TrapTaken a .illegalOperand 0#64 s))

/-- A divide or square root that commits enters the coprocessor with its result and flags (R161, R162), and SEQ_COPBUSY counts its
14 or 16 cycles; on a wrong path it only keeps the coprocessor busy (R100, R104). Its result is written, and its flags are OR-ed,
when it is the oldest of its kind, unless it is discarded (R103).
Model choices it rests on: log entries 1 and 3. -/
def Obligations.CoprocessorOperations : Prop :=
  ∀ (a : At) (rd ra rb : Reg) (s : State),
    let x := theSlot s a
    let m := frmMode x.frm
    let th := (slotThreshold x m).1
    let y := (slotThreshold x m).2
    let busy := regVal s .seqCopbusy (servingCore s a) 0 0
    let busyAt := regAddr .seqCopbusy (servingCore s a) 0 0
    let starts (i : Instr) (y : Slot) (o : CopOp) (pc : Pc) (n : Nat) : Prop :=
      Completes i s fun t =>
        theSlot t a = { y with cop := x.cop ++ [o], pc := pc }
          ∧ regVal t .seqCopbusy (servingCore s a) 0 0 = busy + BitVec.ofNat 64 n
          ∧ OnlySlotAndRegs a [busyAt] s t
    let q := divResult m th (getF x ra) (getF x rb)
    let r := sqrtResult m th (getF x ra)
    (AtGate a (.divd rd ra rb) s → starts (.divd a rd ra rb false) y ⟨rd, false, false, q.1, q.2⟩ (x.pc + 4#48) 14)
    ∧ (AtGate a (.sqrtd rd ra) s → starts (.sqrtd a rd ra false) y ⟨rd, true, false, r.1, r.2⟩ (x.pc + 4#48) 16)
    ∧ (slotRuns s a.core.val a.slot = true →
        starts (.divd a rd ra rb true) x ⟨rd, false, true, 0#64, 0#8⟩ x.pc 14
        ∧ starts (.sqrtd a rd ra true) x ⟨rd, true, true, 0#64, 0#8⟩ x.pc 16)
    ∧ (∀ k o, x.cop[k]? = some o → (∀ e ∈ x.cop.take k, e.sqrt ≠ o.sqrt) →
        Completes (.coprocessorResult a k) s fun t =>
          theSlot t a = (if o.discard = true then { x with cop := x.cop.eraseIdx k }
              else { setF x o.rd o.result with fflags := x.fflags ||| o.flags, cop := x.cop.eraseIdx k })
            ∧ OnlySlot a s t)

/-! ### Traps and ends of programs (spec/03) -/

/-- TRAP raises SWTRAP with zext(IMM16) in SEQ_TRAPVAL (R168), BREAK raises BREAK (R169), and a word that decodes to no
instruction raises ILLEGAL_INSTR with the word (R131, R738): the program of the slot ends.
Model choices it rests on: log entries 1 and 50. -/
def Obligations.TrapBreakAndIllegalWordTrap : Prop :=
  ∀ (a : At) (v : BitVec 16) (word : W32) (s : State),
    (AtGate a (.trap v) s → Completes (.trap a v) s (TrapTaken a .swtrap (v.setWidth 64) s))
    ∧ (AtGate a .brk s → debugMode s = false → Completes (.break_ a) s (TrapTaken a .brk 0#64 s))
    ∧ (AtGate a .brk s → debugMode s = true → Completes (.break_ a) s fun t =>
        (getCore t a.core.val).halted = true ∧ theSlot t a = theSlot s a
          ∧ regVal t .seqTrapcause (servingCore s a) 0 0 = BitVec.ofNat 64 (8 + 256 * slotNum a.slot + 2 ^ 31)
          ∧ regBit t .dbgStatus (servingCore s a) 0 0 3 = true)
    ∧ (∀ why, decodeWew word = .bad why → GateOpen a s →
        Completes (.illegalInstr a word) s (TrapTaken a .illegalInstr (word.setWidth 64) s))

/-- R124, R170: END ends the program of a slot that holds no tag, and its command completes with code 0 (R465); in a slot that holds
a tag it waits with stall cause SYNC, and ends the program once every tag has been observed.
Model choices it rests on: log entry 1. -/
def Obligations.EndWaitsThenEndsProgram : Prop :=
  ∀ (a : At) (s : State),
    let x := theSlot s a
    let n := a.core.val
    let ends (t : State) : Prop := (theSlot t a).phase = .idle ∧ (theSlot t a).prevCtx = some x.ctx
      ∧ ∀ d, findCmd s x.cmd = some d → EntryWritten s t d 0
    (AtGate a .stop s → slotHolds s n a.slot = false → Completes (.end_ a) s ends)
    ∧ (AtGate a .stop s → slotHolds s n a.slot = true → Completes (.end_ a) s fun t =>
      theSlot t a = { x with held := some ⟨.sync, .stop, none⟩, timeUp := false } ∧ OnlySlot a s t)
    ∧ (slotRuns s n a.slot = true → x.held = some ⟨.sync, .stop, none⟩ →
      (slotHolds s n a.slot = true → Completes (.endComplete a) s (· = s))
      ∧ (slotHolds s n a.slot = false → Completes (.endComplete a) s ends))

/-- The sequencer observes the report at the head of its order: the tag is free with its status word, and the word's error bits
are OR-ed into STATSUM of the slot that took it (R109, R111, R186).
Model choices it rests on: log entry 8. -/
def Obligations.RetirementReportObserved : Prop :=
  ∀ (core : Fin 160) (tag : Nat) (w : W64) (rest : List (Nat × W64)) (s : State),
    (getCore s core.val).reports = (tag, w) :: rest → observes s core.val = true →
    Completes (.retirementReport core) s fun t =>
      (getTag t tag).st = .free ∧ (getTag t tag).status = w ∧ (getTag t tag).gen = (getTag s tag).gen
        ∧ (getCore t core.val).reports = rest
        ∧ ∀ i, (getTag s tag).owner = some (core.val, i) →
            (getSlot t core.val i).statsum = (getSlot s core.val i).statsum ||| w.extractLsb' 16 8

/-- R102: an instruction that waits at the gate commits with the effect it would have had, or traps, once its cause has cleared;
one that another cause meets then waits for that one (R107, R116, R181), with the operand block it has read (R176).
Model choices it rests on: log entries 1 and 4. -/
def Obligations.WaitingInstructionCommits : Prop :=
  ∀ (a : At) (tag : Fin 4096) (younger : Fin 5) (h : Held) (s : State),
    let n := a.core.val
    let free := modSlot s n a.slot fun x => { x with held := none }
    let effect := gate h.word { tag := tag.val, younger := younger.val, blk := h.blk } n a.slot free
    slotRuns s n a.slot = true → (theSlot s a).held = some h → h.word ≠ .stop → (∀ ra, h.word ≠ .twait ra) →
    (∀ s', effect = .done s' → Completes (.commitAfterStall a tag younger) s (· = afterCommit h.word n a.slot s'))
    ∧ (∀ c v, effect = .trap c v → Completes (.commitAfterStall a tag younger) s fun t =>
        TrapTaken a c v s t)
    ∧ ∀ why, effect = .hold why → Completes (.commitAfterStall a tag younger) s fun t =>
        (∃ b, theSlot t a = { theSlot s a with held := some ⟨why, h.word, b⟩ } ∧ (h.blk.isSome = true → b = h.blk))
          ∧ OnlySlot a s t

/-! ### Core instructions, waits and hints (spec/05) -/

/-- TDEF sets a tile table entry from its block (R194), SEED the slot's LFSR (R195), LEND the slot's replay point with a marker
to the Matrix Unit (R209, R258, R611), and PFETCH gives the row cache a hint for each line of its range, when all of them lie in
device memory that the core's lookaside holds (R212); each goes on to the next word.
Model choices it rests on: log entries 1, 14 and 16. -/
def Obligations.CoreEngineInstructionsCommit : Prop :=
  ∀ (a : At) (ra rb : Reg) (k : BitVec 6) (s : State),
    let n := a.core.val
    let c := getCore s n
    let x := theSlot s a
    let addr := (getG x ra).toNat
    let b := readBlock c addr
    let first := addr / 128
    let len := min (getG x rb).toNat 65536
    (AtGate a (.tdef ra k) s → blockCheck c a.slot addr = none → b.rm ≠ 3 → blockZero c addr = true →
      headOk { fmtOut := true, count := true } b = true → b.w1 < 2 ^ 19 → b.w2 < 2 ^ 16 → b.w3 = 0 →
      ownsTile c a.slot k.toNat = true → 1 ≤ b.count → b.count ≤ 4096 → b.w1 % 16 = 0 → rowOk b.fmtOut b.w2 = true →
      (lsRange c a.slot).1 ≤ b.w1 → b.w1 + b.count * rowBytes b.fmtOut b.w2 ≤ (lsRange c a.slot).2 →
      Completes (.tdef a ra k) s fun t =>
        spGet none k.toNat (getCore t n).tiles = some ⟨b.w1, b.count, b.w2, b.fmtOut⟩
          ∧ (∀ j, j ≠ k.toNat → spGet none j (getCore t n).tiles = spGet none j c.tiles)
          ∧ theSlot t a = { x with pc := x.pc + 4#48 })
    ∧ (AtGate a (.seed ra) s → Completes (.seed a ra) s fun t =>
        theSlot t a = { x with
            lfsr := if (getG x ra).setWidth 32 = 0#32 then 1#32 else (getG x ra).setWidth 32, pc := x.pc + 4#48 }
          ∧ OnlySlot a s t)
    ∧ (AtGate a .lend s → slotHolds s n a.slot = false → layerOpen s n a.slot = false → Completes (.lend a) s fun t =>
        (theSlot t a).pc = x.pc + 4#48 ∧ (theSlot t a).replay = replayPoint c x (x.pc + 4#48)
          ∧ (spGet muReset (n / 8) t.mus).sent = (spGet muReset (n / 8) s.mus).sent ++ [(n, a.slot)])
    ∧ (AtGate a (.pfetch ra rb) s → Completes (.pfetch a ra rb) s fun t =>
        theSlot t a = { x with pc := x.pc + 4#48 } ∧ t.tags = s.tags ∧ t.hbm = s.hbm ∧ t.reqs = s.reqs
          ∧ (len = 0 → t.hints = s.hints) ∧ (regFld s .rcClassmask 0 7 0 0 16 = 0 → t.hints = s.hints)
          ∧ ∀ hs : List Hint, len ≠ 0 → regFld s .rcClassmask 0 7 0 0 16 ≠ 0 → hs.length = (addr + len - 1) / 128 + 1 - first →
            (∀ j h, hs[j]? = some h → h.ctx = x.ctx ∧ ∃ g, lookFind c.look (coreShare c a.slot) x.ctx (128 * (first + j)) = some g
              ∧ segTarget s g x.ctx (128 * (first + j)) .read = .dev h.pa h.wp) → t.hints = s.hints ++ hs)

/-- R222 to R224, R111: TWAIT commits when its time has come and waits at the gate otherwise; WAIT and STAT of a stale handle
read STALE_TAG, of an observed tag its status word, and STAT of any other tag reads 0xFF; WAITALL commits when the slot holds no
tag.
Model choices it rests on: log entries 1 and 8. -/
def Obligations.WaitsAndStatusReads : Prop :=
  ∀ (a : At) (rd ra : Reg) (s : State),
    let n := a.core.val
    let x := theSlot s a
    let v := getG x ra
    let tag := getTag s (v.toNat % 4096)
    let stale := tag.gen.toNat ≠ v.toNat / 4096 % 16 ∨ tag.owner ≠ some (n, a.slot)
    let writes (y : W64) (t : State) : Prop := theSlot t a = { setG x rd y with pc := x.pc + 4#48 } ∧ OnlySlot a s t
    let holds (w : Wew) (t : State) : Prop := theSlot t a = { x with held := some ⟨.sync, w, none⟩, timeUp := false } ∧ OnlySlot a s t
    (AtGate a (.twait ra) s → v.toNat % 2 ^ 30 < 1000000000 →
      Completes (.twait a ra) s fun t =>
        if v.toNat ≤ nowOp s then theSlot t a = { x with pc := x.pc + 4#48 } ∧ OnlySlot a s t else holds (.twait ra) t)
    ∧ (slotRuns s n a.slot = true → (∃ why b, x.held = some ⟨why, .twait ra, b⟩) → (x.timeUp = true ∨ v.toNat ≤ nowOp s) →
      Completes (.twaitReached a) s fun t =>
        theSlot t a = { x with held := none, pc := x.pc + 4#48 } ∧ OnlySlot a s t)
    ∧ (AtGate a (.wait rd ra) s →
      (stale → Completes (.wait a rd ra) s (writes 0x100020#64))
      ∧ (¬stale → tag.st = .free → Completes (.wait a rd ra) s (writes tag.status))
      ∧ (¬stale → tag.st ≠ .free → Completes (.wait a rd ra) s (holds (.wait rd ra))))
    ∧ (AtGate a (.stat rd ra) s →
      (stale → Completes (.stat a rd ra) s (writes 0x100020#64))
      ∧ (¬stale → Completes (.stat a rd ra) s (writes (if tag.st = .free then tag.status else 0xFF#64))))
    ∧ (AtGate a .waitall s → Completes (.waitall a) s fun t =>
        if slotHolds s n a.slot = true then holds .waitall t
        else theSlot t a = { x with pc := x.pc + 4#48 } ∧ OnlySlot a s t)

/-! ### Engine commands at the gate (spec/03, spec/05) -/

/-- An engine command of a slot that passes its checks and finds its resources takes the tag, in its next generation, and writes
the handle to gd (R105, R106, R180): ACCWB, SLOAD, SSTORE, GPOOL, CMPR, SCADD, MLAYER, SOLVE, RREAD, WWRITE, BARR, each function
of XOP and CMAINT by its own row, AZERO, PSEND and PRECV.
Model choices it rests on: log entries 4, 12 and 13. -/
def Obligations.EngineCommandsIssue : Prop :=
  ∀ (a : At) (rd ra rb : Reg) (tag : Fin 4096) (s : State),
    (∀ op i, BlockRow a rd ra tag s op i → AtGate a (.block op rd ra) s → BlockIssues a op ra tag s →
        Completes i s (CommandIssued a rd tag s))
    ∧ (∀ k : BitVec 4, AtGate a (.azero rd k) s → ownsAcc (getCore s a.core.val) a.slot k.toNat = true →
        Issues a { xq := true, score := [(k.toNat, .write)] } tag s →
        Completes (.azero a rd k tag) s (CommandIssued a rd tag s))
    ∧ (∀ k : BitVec 6, AtGate a (.psend rd ra rb k) s →
        lsCheck (getCore s a.core.val) a.slot (getG (theSlot s a) ra).toNat (k.toNat + 1) 64 = none →
        ((getG (theSlot s a) rb).getLsbD 63 = true → (getG (theSlot s a) rb).toNat % 2 ^ 19 = 0) →
        Issues a { parcel := true } tag s → Completes (.psend a rd ra rb k tag) s (CommandIssued a rd tag s))
    ∧ (AtGate a (.precv rd ra) s →
        lsCheck (getCore s a.core.val) a.slot (getG (theSlot s a) ra).toNat 64 1 = none →
        Issues a {} tag s → Completes (.precv a rd ra tag) s (CommandIssued a rd tag s))

/-- R107: an engine command that finds its quota and its permitted pool both empty waits at the gate with stall cause TAG, with the
operand block that it has read (R176).
Model choices it rests on: log entries 4 and 12. -/
def Obligations.NoTagHoldsCommand : Prop :=
  ∀ (a : At) (rd ra rb : Reg) (tag : Fin 4096) (s : State),
    let n := a.core.val
    let x := theSlot s a
    let waits (w : Wew) (b : Option Block) (t : State) : Prop :=
      theSlot t a = { x with held := some ⟨.tag, w, b⟩, timeUp := false } ∧ OnlySlot a s t
    let out (parcel : Bool) : Prop := x.replaying = none ∧ nextPool s n a.slot parcel = none
    (∀ op i, BlockRow a rd ra tag s op i →
      AtGate a (.block op rd ra) s → BlockLegal a op ra s → out false → Completes i s (waits (.block op rd ra) (some (gaBlock s a ra))))
    ∧ (∀ k : BitVec 4, AtGate a (.azero rd k) s → ownsAcc (getCore s n) a.slot k.toNat = true → out false →
        Completes (.azero a rd k tag) s (waits (.azero rd k) none))
    ∧ (∀ k : BitVec 6, AtGate a (.psend rd ra rb k) s →
        lsCheck (getCore s n) a.slot (getG x ra).toNat (k.toNat + 1) 64 = none →
        ((getG x rb).getLsbD 63 = true → (getG x rb).toNat % 2 ^ 19 = 0) → out true →
        Completes (.psend a rd ra rb k tag) s (waits (.psend rd ra rb k) none))
    ∧ (AtGate a (.precv rd ra) s → lsCheck (getCore s n) a.slot (getG x ra).toNat 64 1 = none → out false →
        Completes (.precv a rd ra tag) s (waits (.precv rd ra) none))

/-- R93, R132, R176, R177: an operand block that breaks a rule of its instruction, a tile or accumulator outside the slot's share
among them, raises ILLEGAL_OPERAND, and no tag is taken for it.
Model choices it rests on: log entries 12 and 13. -/
def Obligations.BadOperandBlockTraps : Prop :=
  ∀ (a : At) (rd ra : Reg) (op : BlockOp) (tag : Fin 4096) (s : State),
    let c := getCore s a.core.val
    let addr := (getG (theSlot s a) ra).toNat
    let b := readBlock c addr
    ∀ i, BlockRow a rd ra tag s op i →
      AtGate a (.block op rd ra) s → blockCheck c a.slot addr = none →
      (blockFields op c addr b = false ∨ planBlock op c a.core.val a.slot b = none) →
      Completes i s (TrapTaken a .illegalOperand 0#64 s)

/-! ### Streams (spec/06) -/

/-- The fetch engine issues the next line of a read stream, one request for each line (R229, R235, R236); a line that arrives, and
a write that is accepted, is in flight no more (R232); a halted stream whose granule or page is there goes on (R266, R268).
None of them writes memory.
Model choices it rests on: log entries 4, 5 and 18. -/
def Obligations.StreamEventsComplete : Prop :=
  ∀ (tag : Fin 4096) (remote : Bool) (id : Nat) (host : HostReply) (s : State),
    (requestDue s tag.val remote = true → Completes (.lineRequestIssue tag remote) s fun t =>
      t.hbm = s.hbm ∧ PlatformKept s t
        ∧ ∀ c, tagCmd s tag.val = some c → ∀ st, c.stream = some st → c.ready = true → remote = false →
            (c.op = .block .sload ∨ c.op = .block .gpool) → ∀ l, nextLine st = some l →
            blocker s c (needLines c st l) = none → ∀ pa wp, lineXl s c.core c.slot c.ctx (128 * l) false = .dev pa wp →
            ∃ r, t.reqs = s.reqs ++ [r] ∧ r.id = s.nextReq ∧ t.nextReq = s.nextReq + 1 ∧ r.tag = tag.val ∧ r.va = 128 * l
              ∧ r.kind = .read ∧ r.stage = .issued ∧ r.target = .dev pa)
    ∧ (∀ r, findReq s id = some r → arrivalDue r = true → Completes (.lineArrival id host) s fun t =>
        t.hbm = s.hbm ∧ PlatformKept s t
          ∧ ((r.stage = .ready ∨ ∃ bs bad, host = .data bs bad) → ∀ q ∈ t.reqs, q.id ≠ id))
    ∧ (∀ r, findReq s id = some r → acceptDue s r = true → Completes (.lineWriteAccepted id) s fun t =>
        t.hbm = s.hbm ∧ PlatformKept s t ∧ ∀ q ∈ t.reqs, q.id ≠ id)
    ∧ (streamResumeDue s tag.val = true → Completes (.streamResume tag) s fun t =>
        t.hbm = s.hbm ∧ PlatformKept s t ∧ ∀ c, tagCmd s tag.val = some c → ∀ st, c.stream = some st →
          haltedLayer s tag.val = none → (tagCmd t tag.val).bind (·.stream) = some { st with halted := none })

/-- The execute engine does a unit of the oldest command of a slot (R238, R239). An AZERO clears its accumulator tile and retires
(R196); an ACCWB and a CMPR do the rows of the unit, and retire after the last; an SLOAD does its oldest tile, whose token goes
free, and retires after the last; an SSTORE stages its next tile, which takes a token (R232). No unit writes device memory.
Model choices it rests on: log entries 5 and 20. -/
def Obligations.ExecuteUnitEnds : Prop :=
  ∀ (a : At) (s : State), unitDue s a.core.val a.slot = true → Completes (.executeUnitEnd a) s fun t =>
    t.hbm = s.hbm ∧ PlatformKept s t
      ∧ ∀ tag, xqHead s a.core.val a.slot = some tag → ∀ c, tagCmd s tag = some c → c.core = a.core.val → c.slot = a.slot →
          let x := theSlot s a
          let y := theSlot t a
          let rows (total n : Nat) : Prop :=
            let k := (unitRange c total n).length
            (total ≤ c.unit + k → (getTag t tag).st = .retiring)
              ∧ (c.unit + k < total → (tagCmd t tag).map (·.unit) = some (c.unit + k))
          (c.op = .azero → (getTag t tag).st = .retiring
              ∧ ∀ k, k / 512 = c.blk.acc → spGet 0#64 k (getCore t a.core.val).acc = 0#64)
            ∧ (c.op = .block .accwb → rows c.blk.w2 (rowBytes c.tile.fmt c.tile.n))
            ∧ (c.op = .block .cmpr → rows c.ta.rows (rowBytes c.tile.fmt c.tile.n + c.tb.n))
            ∧ (∀ st, c.stream = some st → c.op = .block .sload →
                (streamTiles st ≤ st.done + 1 → (getTag t tag).st = .retiring)
                ∧ (st.done + 1 < streamTiles st → unjoined s = [] → y.tokFree = x.tokFree + 1 ∧ y.tokExec = x.tokExec - 1
                  ∧ ((tagCmd t tag).bind (·.stream)).map (·.execTiles) = some (st.execTiles.drop 1)))
            ∧ (∀ st, c.stream = some st → c.op = .block .sstore → unjoined s = [] →
                y.tokFree = x.tokFree - 1 ∧ y.tokFetch = x.tokFetch + 1
                  ∧ (tagCmd t tag).map (·.unit) = some (c.unit + 1))

/-! ### Matrix layers (spec/08) -/

/-- The injector starts an instance with the rows of its block list (R244, R320) and sends its panels, which land at every station of
the mask (R246); a Matrix Unit consumes them, and counts a panel in MU_PANELS with the last station that it serves (R246, R325);
the Output Compressor writes the rows of an m-block, and after the last the station's participants retire (R335, R343); a
layer-end marker comes off the books of its Matrix Unit, and a buffer that waits for no other goes free (R258).
Model choices it rests on: log entries 5 and 21. -/
def Obligations.MatrixEventsComplete : Prop :=
  ∀ (ctx : Fin 64) (layer : BitVec 16) (station : Fin 20) (host : List HostReply) (a : At) (s : State),
    (∀ l, findLayer s ctx.val layer.toNat = some l →
      (firstReadDue s l = true → Completes (.injectorFirstRead ctx layer) s fun t =>
        t.hbm = s.hbm ∧ PlatformKept s t ∧ ∀ c, (l.arrivals.head?).bind (tagCmd s) = some c →
          (l.sp = true ∨ rowOk l.fmtIn l.k = true) →
          ∀ st, listStream (getCore s c.core) c.slot c.blk.w1 l.fmtIn (weightBytes l.fmtIn l.sp l.k) l.m = .inr st →
          findLayer t ctx.val layer.toNat = some { l with started := true, rows := st.rows })
      ∧ (injectDue s l = true → Completes (.panelInject ctx layer host) s fun t => PlatformKept s t
          ∧ ∀ xs u, injScan l (panelLines l l.sent) s = (.inl xs, u) → hostLines xs ≤ host.length →
            ∀ ls v, injFetch l xs host u = (.inl ls, v) → (findLayer t ctx.val layer.toNat).map (·.sent) = some (l.sent + 1)
              ∧ ∀ n ∈ maskStations l.mask, (findLayer t ctx.val layer.toNat).map (fun x => (getStation x n).landed)
                  = some ((getStation l n).landed ++ [panelOf l l.sent ls]))
      ∧ (∀ m, muServer s station.val = some m → consumeDue s l station.val = true →
          Completes (.panelConsumed ctx layer station) s fun t =>
            regVal t .muPanels m 0 0
                = (if (muOrder s m l).getLast? = some station.val then regVal s .muPanels m 0 0 + 1#64
                   else regVal s .muPanels m 0 0)
              ∧ (∀ y, findLayer t ctx.val layer.toNat = some y → y.seq = l.seq →
                  (getStation y station.val).consumed = (getStation l station.val).consumed + 1
                    ∧ (getStation y station.val).landed = (getStation l station.val).landed.drop 1)
              ∧ t.hbm = s.hbm ∧ t.cores = s.cores ∧ t.tags = s.tags ∧ PlatformKept s t)
      ∧ (compressDue s l station.val = true → Completes (.outputCompressorWrite ctx layer station) s fun t =>
          let j := (getStation l station.val).written
          t.hbm = s.hbm ∧ PlatformKept s t
            ∧ (j + 1 ≠ mBlocks l → (findLayer t ctx.val layer.toNat).map (fun y => (getStation y station.val).written) = some (j + 1)
                ∧ t.tags = s.tags)
            ∧ (j + 1 = mBlocks l → ∀ e ∈ participants s l station.val, (getTag t e.1).st = .retiring)))
    ∧ ((spGet muReset (a.core.val / 8) s.mus).sent.contains (a.core.val, a.slot) = true →
        Completes (.layerEndMarker a) s fun t =>
          let m := spGet muReset (a.core.val / 8) s.mus
          let m' := spGet muReset (a.core.val / 8) t.mus
          let w : Nat × SlotId := (a.core.val, a.slot)
          m'.sent = m.sent.erase w ∧ t = { s with mus := t.mus }
            ∧ (∀ h ∈ m'.holds, w ∉ h.waits ∧ h.waits ≠ [])
            ∧ ∀ h ∈ m.holds, ∀ o ∈ h.waits, o ≠ w → ∃ h' ∈ m'.holds, h'.seq = h.seq ∧ o ∈ h'.waits)

/-! ### Barriers and the merge (spec/05, spec/07) -/

/-- A barrier whose arrivals are all in, and whose time has come, releases: without MG every command that arrived retires (R219).
A held contribution that LASTCLOSE has overtaken is refused and counted in RMU_REFUSED (R295). A window that drained with
OVERFLOW, or with its books out of balance, fails its close check: RMU_FAIL and RMU_FAILSTEP say which, and why (R303, R304).
Model choices it rests on: log entries 5, 14 and 19. -/
def Obligations.BarrierAndMergeEventsComplete : Prop :=
  ∀ (ctx : Fin 64) (bar : Fin 256) (k : Fin 128) (i step : Nat) (s : State), planeUp s = true →
    (∀ b, s.barriers.find? (isBarrier ctx.val bar.val false) = some b → b.arrivals.length = b.count →
      (b.time = 0 ∨ b.time ≤ nowOp s) → Completes (.barrRelease ctx bar) s fun t =>
        let retired : Prop := ∀ tag ∈ b.arrivals, (getTag s tag).cmd.isSome = true → (getTag t tag).st = .retiring
        PlatformKept s t ∧ b ∉ t.barriers ∧ (b.mg = false → retired)
          ∧ (b.mg = true → { b with closing := true } ∈ t.barriers ∨ retired))
    ∧ (∀ x, s.mergeNet[i]? = some x → Completes (.contributionArrival i) s fun t =>
        PlatformKept s t ∧ t.mergeNet = s.mergeNet.eraseIdx i
          ∧ ∀ n u, homeUnit { s with mergeNet := s.mergeNet.eraseIdx i } x = (.inl n, u) →
              (verdict u n x = .take → bufferFits u n x = true → x ∈ (getRmu t n).buffer
                ∧ regVal t .rmuIn 0 0 0 = regVal u .rmuIn 0 0 0 + 1#64)
              ∧ (verdict u n x = .hold → x ∈ (getRmu t n).held)
              ∧ ∀ code, verdict u n x = .refuse code →
                  regVal t .rmuRefused 0 0 0 = regVal u .rmuRefused 0 0 0 + 1#64)
    ∧ (∀ x, (getRmu s k.val).held[i]? = some x → x.step ≤ spGet 0 x.ctx (getRmu s k.val).lastClose + 2 →
        Completes (.heldContributionAccept k i) s fun t =>
          PlatformKept s t ∧ (x.step ≤ spGet 0 x.ctx (getRmu s k.val).lastClose →
            regVal t .rmuRefused 0 0 0 = regVal s .rmuRefused 0 0 0 + 1#64))
    ∧ (∀ w, draining s k.val ctx.val step = some w → Completes (.drainEnd k ctx step) s fun t =>
        PlatformKept s t ∧ (w.overflow = true ∨ w.inn ≠ w.buf + w.spilled ∨ w.upset = true →
          regVal t .rmuFail 0 0 0 = BitVec.ofNat 64 (w.ctx % 64 + 256 * (if w.overflow = true then 1 else 2) + 2 ^ 31)
            ∧ regVal t .rmuFailstep 0 0 0 = BitVec.ofNat 64 w.step))
    ∧ (∀ w, firstApplying (getRmu s k.val) = some w → Completes (.applyEnd k) s fun t =>
        PlatformKept s t ∧ w.step ≤ spGet 0 w.ctx (getRmu t k.val).applied
          ∧ ∀ x ∈ (getRmu t k.val).windows, ¬(x.ctx = w.ctx ∧ x.step = w.step))

/-! ### Parcels (spec/05, spec/06, spec/12) -/

/-- A parcel on its way is delivered or refused, and its sender retires, or its port's PSTAT reads 2 or 3 and its tag is free (R250,
R475). A write to a parcel port, or to the head doorbell of a ring, reaches it only from the function of its context (R456); a port
that is free then sends with a tag of the pool, or waits for one (R475), and a head within what the ring holds, written whole
(R469), is taken (R477).
Model choices it rests on: log entries 4, 5, 9 and 24. -/
def Obligations.ParcelEventsComplete : Prop :=
  ∀ (tag : Fin 4096) (fn ctx : Fin 64) (port skew : Fin 8) (data : List (Nat × List Byte)) (send : BitVec 64) (bell : List Byte)
    (s : State),
    let key := 8 * ctx.val + port.val
    let good : Prop := skew.val = 0 ∧ (bell.length = 4 ∨ bell.length = 8)
    let v := leNat (bell.take 2)
    let n := ringSize s ctx.val
    let r := getRing s ctx.val
    (psendDue s tag.val = true → Completes (.parcelDelivery (.psend tag)) s fun t =>
      PlatformKept s t ∧ (getTag t tag.val).st = .retiring ∧ t.hbm = s.hbm)
    ∧ (∀ x, portSend s key = some x → ∀ u, portTag s x = some u → planeUp s = true →
        Completes (.parcelDelivery (.port ctx port)) s fun t =>
        PlatformKept s t ∧ (getTag t u).st = .free ∧ spGet 0 x.port t.host.pstat
          = if inboxTakes s x.core (slotNum x.slot) ctx.val = true then 2 else 3)
    ∧ (((getTag s tag.val).st = .free ∧ poolOf tag.val = .parcel) ∨ poolFree s .parcel = 0 ∨ spGet 0 key s.host.pstat = 1 →
      Completes (.parcelPortSend fn ctx port data send tag) s (fun t =>
        PlatformKept s t ∧ (pageOf s fn.val ctx.val = .gone → t = s)
          ∧ (pageOf s fn.val ctx.val = .denied → t.host = s.host)
          ∧ (pageOf s fn.val ctx.val = .ok → spGet 0 key t.host.pstat = 1
              ∧ (spGet 0 key s.host.pstat = 1 → t.host.portSends = s.host.portSends)
              ∧ (spGet 0 key s.host.pstat ≠ 1 → ∃ x, t.host.portSends = s.host.portSends ++ [x] ∧ x.port = key
                  ∧ x.core = send.toNat / 256 % 256 ∧ x.bytes.length = send.toNat % 64 + 1
                  ∧ x.tag = if poolFree s .parcel = 0 then none else some tag.val))))
    ∧ Completes (.parcelRingHeadDoorbell fn ctx skew bell) s (fun t =>
        PlatformKept s t ∧ (pageOf s fn.val ctx.val = .gone → t = s)
          ∧ (pageOf s fn.val ctx.val = .denied → t.host = s.host)
          ∧ (pageOf s fn.val ctx.val = .ok → getRing t ctx.val
              = if good ∧ v < n ∧ (v + n - r.head) % n ≤ (r.tail + n - r.head) % n then { r with head := v } else r))

/-! ### Solver Clusters (spec/09) -/

/-- The front end takes a SOLVE and hands out its problems, or ends it (R348); a problem is assigned to a lane (R349, R350), ends and
is counted for its SOLVE, which retires with the last (R211, R363, R367), or is stopped at its deadline (R366); a lane whose store fails is disabled until the next cold reset and its problem restarts (R351).
Model choices it rests on: log entries 4, 5 and 22. -/
def Obligations.SolverEventsComplete : Prop :=
  ∀ (tag : Fin 4096) (id iters pivots : Nat) (checked : Bool) (cluster : Fin 4) (lane : Fin 32) (host : List HostReply)
    (s : State),
    (∀ c, tagCmd s tag.val = some c → frontDue s tag.val c = true → Completes (.solveFrontEnd tag host) s fun t =>
      PlatformKept s t
        ∧ (∀ ps hs u, frontReads s tag.val c host = (.inr ps, hs, u) → t.problems = s.problems ++ ps
            ∧ (∀ p ∈ ps, p.tag = some tag.val ∧ p.lane = none) ∧ (∀ e ∈ t.solveNet, e.1 ≠ tag.val)
            ∧ (tagCmd t tag.val).map (·.waiting) = some c.blk.count)
        ∧ ∀ code hs u, frontReads s tag.val c host = (.inl (.fail code), hs, u) → t.problems = s.problems
            ∧ (∀ e ∈ t.solveNet, e.1 ≠ tag.val) ∧ (getTag t tag.val).st = .retiring)
    ∧ (∀ p, findProblem s id = some p →
      (∀ l, pickLane s p = some l → assignDue s p = true → Completes (.problemAssign id) s fun t =>
        findProblem t id = some { p with lane := some l } ∧ t = { s with problems := t.problems }
          ∧ ∀ j, j ≠ id → findProblem t j = findProblem s j)
      ∧ (laneRuns s p = true → Completes (.problemEnd id host) s fun t => PlatformKept s t
          ∧ ∀ d hs u, laneData s p host = (.inr d, hs, u) →
              ∀ m v, laneReach p true (laneLines (p.addr + 128) 64) u = (.inr m, v) →
              ∀ k w, laneReach p true ((writtenArrays p (endOf p d)).1.flatMap fun a => laneLines a.1 a.2.length) v = (.inr k, w) →
              findProblem t id = none ∧ (∀ j, j ≠ id → findProblem t j = findProblem s j)
                ∧ (p.tag = none → regBit t .govLstat 0 0 0 1 = true ∧ regBit t .govLstat 0 0 0 0 = false)
                ∧ ∀ g c, p.tag = some g → tagCmd s g = some c →
                    (c.waiting = 1 → (getTag t g).st = .retiring)
                      ∧ (1 < c.waiting → (tagCmd t g).map (·.waiting) = some (c.waiting - 1)))
      ∧ (∀ s', deadlineHit s p = true → (planeUp s = true ∨ p.tag = none) →
          deadlineEnds s p iters pivots checked host = some s' →
          Completes (.deadlineCheck id iters pivots checked host) s fun t => t = s' ∧ PlatformKept s t))
    ∧ (laneBusy s cluster.val lane.val = true → Completes (.solverLaneStoreError cluster lane) s fun t =>
        PlatformKept s t ∧ spGet false (laneKey cluster.val lane.val) t.laneOff = true
          ∧ laneBusy t cluster.val lane.val = false
          ∧ ∀ j, j ≠ laneKey cluster.val lane.val → spGet false j t.laneOff = spGet false j s.laneOff)

/-! ### The row cache and memory (spec/10) -/

/-- A fill serves the reads that wait on it with the line (R388); the miss entry goes when the fill is there and memory has
accepted the victim, which it then holds (R386), and a fill no one waits for is installed in the way chosen. A prefetch hint is
gone when it is served, and counts a discard or a miss (R389). A line request that finds a full slice, or others before it, waits
at the ingress (R385). With the cache disabled, one whose ownership check passes is served by memory (R377): a read gets the 128
bytes of its line, and a write changes exactly the bytes it enables. A read that hits gets the cached line (R380).
Model choices it rests on: log entries 5, 6 and 17. -/
def Obligations.LineRequestServed : Prop :=
  (∀ (slice : Fin 20) (l k : Nat) (s : State),
    let i := slice.val
    let c := getSlice s i
    (∀ m, openMissOf c l = some m →
      (m.fill = none → Completes (.missFillArrival slice l) s fun t => PlatformKept s t
        ∧ (m.victim.isSome = true → ∃ x, openMissOf (getSlice t i) l = some x ∧ x.fill.isSome = true ∧ x.waiters = []
            ∧ x.victim = m.victim)
        ∧ (m.victim = none → openMissOf (getSlice t i) l = none)
        ∧ ((∀ j ∈ m.waiters, ∀ r, findReq s j = some r → r.kind = .read) →
            (∀ j ∈ m.waiters, ∀ r, findReq s j = some r →
              findReq t j = some { r with stage := .ready, data := (hbmLine s l).data.map some, poison := (hbmLine s l).poison })
            ∧ ∀ p, m.victim = none → m.keep = true → m.place = some p → 2 ≤ wayState c (p / 8192) →
                spGet none p (getSlice t i).lines = some (hbmLine s l)))
      ∧ (∀ v, m.victim = some v → Completes (.victimWriteAccept slice l) s fun t => PlatformKept s t
          ∧ (m.fill.isSome = true → openMissOf (getSlice t i) l = none)
          ∧ (m.fill = none → openMissOf (getSlice t i) l = some { m with victim := none }
              ∧ ∀ j, j < v.data.length → v.data.length ≤ 128 → memGet t.hbm (128 * v.l + j) = v.data.getD j 0#8)))
    ∧ (∀ h, (hintsAt s i)[k]? = some h → planeUp s = true → prefetchWaits s h = false →
        Completes (.prefetchLine slice k) s fun t =>
          PlatformKept s t ∧ t.hints = s.hints.erase h ∧ t.tags = s.tags ∧ t.cores = s.cores
            ∧ (cacheEnabled s = true → ownCheck s (some h.ctx) h.pa = .pass →
                (prefetchDrops s h = true → t.slices = s.slices ∧ regVal t .rcPfdrop i 0 0 = regVal s .rcPfdrop i 0 0 + 1#64)
                ∧ (prefetchDrops s h = false → regVal t .rcMisses i 7 0 = regVal s .rcMisses i 7 0 + 1#64))))
  ∧ ∀ (id pa : Nat) (r : LineReq) (s : State),
    let c := getSlice s (sliceOf (pa / 128))
    let waits := behind s c r || noEntry s r (pa / 128)
    findReq s id = some r → r.target = .dev pa → sliceDue s r = true → Completes (.lineRequestAtSlice id) s fun t =>
      PlatformKept s t
        ∧ (waits = true → id ∈ (getSlice t (sliceOf (pa / 128))).ingress ∧ t.reqs = s.reqs ∧ t.hbm = s.hbm)
        ∧ (waits = false → ownCheck s (some r.ctx) pa = .pass →
          (cacheEnabled s = false → r.kind = .read →
            findReq t id = some { r with stage := .ready, data := (memRead s.hbm (128 * (pa / 128)) 128).map some,
                                         poison := (hbmLine s (pa / 128)).poison } ∧ t.hbm = s.hbm)
          ∧ (cacheEnabled s = false → r.kind = .write → r.data.length ≤ 128 →
            findReq t id = some { r with stage := .ready }
              ∧ ∀ a, memGet t.hbm a = (match (if 128 * (pa / 128) ≤ a then r.data[a - 128 * (pa / 128)]? else none) with
                  | some (some b) => b
                  | _ => memGet s.hbm a))
          ∧ (∀ w x, cacheEnabled s = true → r.kind = .read → openMissOf (getSlice s (sliceOf (pa / 128))) (pa / 128) = none →
            lookup (getSlice s (sliceOf (pa / 128))) (pa / 128) = some (w, x) →
            findReq t id = some { r with stage := .ready, data := x.data.map some, poison := x.poison } ∧ t.hbm = s.hbm))

/-- Table 10.7: a way command that no selected way refuses makes its transition on every selected way of every selected slice, and
on no other.
Model choices it rests on: log entry 17. -/
def Obligations.WayCommandTransitions : Prop :=
  ∀ (ways : BitVec 16) (s : State),
    let slices := regFld s .rcCmdslice 0 0 0 0 20
    let rows := [(1, Instr.wayInvalidate ways), (2, .enable ways), (3, .disable ways), (4, .powerDown ways), (5, .powerUp ways)]
    ∀ op i, (op, i) ∈ rows →
      s.wayCmd = none → ways ≠ 0#16 → slices ≠ 0 → firstRefusal s op ways slices = none → Completes i s fun t =>
        ∀ (n : Nat) (w : Nat), n < 20 → w < 16 →
          let was := wayState (getSlice s n) w
          let picked := slices.testBit n = true ∧ ways.getLsbD w = true
          wayState (getSlice t n) w
              = (if picked then
                  (if op = 1 then was else if op = 2 then 2 else if op = 3 then 3 else if op = 4 then (if was = 2 then 3 else 0)
                   else 1)
                 else was)
            ∧ (picked → op = 1 → (getSlice t n).inv.getLsbD w = true ∧ ∀ x, x < 8192 → lineAt (getSlice t n) w x = none)
            ∧ (picked → op = 2 → (getSlice t n).inv.getLsbD w = false)

/-- R396: a way command that some way refuses changes no way and reports the first refusal in RC_CMDSTAT; one that comes while
another is under way changes nothing but the log and its counters. A WAY_INVALIDATE is done when its hardware says so.
Model choices it rests on: log entry 17. -/
def Obligations.WayCommandRefusals : Prop :=
  ∀ (ways : BitVec 16) (s : State),
    let slices := regFld s .rcCmdslice 0 0 0 0 20
    let rows := [(1, Instr.wayInvalidate ways), (2, .enable ways), (3, .disable ways), (4, .powerDown ways), (5, .powerUp ways)]
    let stat (code slice way : Nat) (t : State) : Prop :=
      regVal t .rcCmdstat 0 0 0 = BitVec.ofNat 64 (code + 16 * slice + 4096 * way + 2 ^ 31)
        ∧ OnlyRegs [regAddr .rcCmdstat 0 0 0] s t
    (∀ op i, (op, i) ∈ rows →
      (s.wayCmd.isSome = true → Completes i s fun t => t.slices = s.slices ∧ t.wayCmd = s.wayCmd
        ∧ t.hbm = s.hbm ∧ PlatformKept s t)
      ∧ (s.wayCmd = none → (ways = 0#16 ∨ slices = 0) → Completes i s (stat 5 0 0))
      ∧ (∀ e n w, s.wayCmd = none → ways ≠ 0#16 → slices ≠ 0 → firstRefusal s op ways slices = some (e, n, w) →
          Completes i s (stat e n w)))
    ∧ (∀ c, s.wayCmd = some c → c.op = 1 → Completes .wayInvalidateComplete s fun t =>
        t.wayCmd = none ∧ regVal t .rcCmdstat 0 0 0 = BitVec.ofNat 64 (2 ^ 31) ∧ t.slices = s.slices)

/-- Sweeps and errors of the cache (R394, R397 to R400): a swept way holds no line and goes OFF or INACTIVE; a corrected error is
counted, and one that reaches the threshold takes an ACTIVE way out of service; the leak tick takes one off every count; an
uncorrectable error, or a lost tag, drops its line and takes the way out of service.
Model choices it rests on: log entries 5, 17 and 44. -/
def Obligations.CacheSweepsAndErrors : Prop :=
  ∀ (slice : Fin 20) (way : Fin 16) (set : Fin 8192) (word : Fin 8) (known again both : Bool) (x1 x2 : ImgChk)
      (s : State),
    let c := getSlice s slice.val
    let w := way.val
    (sweepReady s slice.val w = true → Completes (.sweepComplete slice way) s fun t =>
      let c' := getSlice t slice.val
      wayState c' w = (if c.toOff.getLsbD w = true then 0 else 1)
        ∧ (∀ x, x < 8192 → lineAt c' w x = none) ∧ (∀ v, v ≠ w → wayState c' v = wayState c v))
    ∧ (wayState c w ≠ 0 → Completes (.correctedError (.way slice way) again) s fun t =>
        let c' := getSlice t slice.val
        let n := min 255 (spGet 0 w c.ce + 1)
        spGet 0 w c'.ce = n ∧ regVal t .rcCorrected slice.val 0 0 = regVal s .rcCorrected slice.val 0 0 + 1#64
          ∧ wayState c' w = (if max 1 (regFld s .rcEcccfg 0 0 0 0 8) ≤ n ∧ wayState c w = 2 then 3 else wayState c w)
          ∧ t = { s with regs := t.regs, slices := t.slices })
    ∧ Completes .leakTick s (fun t => t = { s with slices := t.slices } ∧ ∀ i, i < 20 →
        getSlice t i = { getSlice s i with ce := spMap 0 (fun _ n => n - 1) (getSlice s i).ce })
    ∧ (∀ y, lineAt c w set.val = some y → 2 ≤ wayState c w →
        Completes (.uncorrectableDataError (.line slice way set word) both x1 x2) s fun t =>
        let c' := getSlice t slice.val
        lineAt c' w set.val = none ∧ c'.faultUe.getLsbD w = true ∧ wayState c' w = 3
          ∧ (y.dirty = false → t = { s with slices := t.slices })
          ∧ (y.dirty = true → ∀ i, i < y.data.length → y.data.length ≤ 128 →
              memGet t.hbm (128 * y.l + i) = y.data.getD i 0#8))
    ∧ (wayState c w ≠ 0 → Completes (.tagLost slice way set known) s fun t =>
        let c' := getSlice t slice.val
        lineAt c' w set.val = none ∧ c'.faultUe.getLsbD w = true
          ∧ wayState c' w = (if wayState c w = 2 then 3 else wayState c w) ∧ t.hbm = s.hbm)


/-! ### Translation (spec/11) -/

/-- A lookaside miss waits in line at the Points processor (R415, R416), which serves one miss after another: it installs the
segment that holds the address, and a fetch that no segment holds takes SEG_FAULT (R412, R417). A translation cache miss fills
the granule entry (R440). A fault batch closes (R434); a translation that the host returns is held, as at most 1 GiB around the
address asked for (R441); the answer to a page request ends it, and after a failed one the function asks no more (R444); an
invalidation drops every matching host translation, and is answered at once when no line request is in flight (R445).
Model choices it rests on: log entries 4, 5 and 23. -/
def Obligations.TranslationEventsComplete : Prop :=
  (∀ (pasid : Option (BitVec 20)) (log : Fin 64) (iova pa va : BitVec 64) (r w global : Bool) (fn : Fin 64)
    (group : Nat) (code : PrgCode) (len : Nat) (itag : Fin 32) (s : State),
    (s.batchOpen ≠ [] → Completes .faultBatchClose s fun t =>
      t.batchOpen = [] ∧ PlatformKept s t ∧ t.pend = s.pend
        ∧ (frBase s = 0 → t.batchHeld = s.batchHeld ++ [s.batchOpen] ∧ t.host = s.host))
    ∧ (let q := (fn.val, pasid.map (·.toNat), iova.toNat)
       s.host.atsOut.contains q = true → 12 ≤ log.val →
        Completes (.atsTranslationCompletion fn pasid iova log pa r w) s fun t =>
          PlatformKept s t ∧ t.host.atsOut = s.host.atsOut.erase q ∧ ∃ h ∈ t.dtcH,
            h.fn = fn.val ∧ h.pasid = pasid.map (·.toNat) ∧ h.size = min (2 ^ log.val) (2 ^ 30) ∧ h.r = r ∧ h.w = w
              ∧ h.va ≤ iova.toNat ∧ iova.toNat < h.va + h.size)
    ∧ (∀ q, s.priOut.find? (fun q => q.fn == fn.val && q.group == group) = some q → Completes (.prgResponse fn group code) s fun t =>
        PlatformKept s t ∧ t.priOut = s.priOut.filter (· != q)
          ∧ (code = .failure → spGet false fn.val t.host.priFailed = true)
          ∧ (code = .success → t.host = s.host ∧ t.tags = s.tags ∧ ∀ h ∈ t.dtcH, h ∈ s.dtcH))
    ∧ Completes (.atsInvalidateRequest fn pasid global va len itag) s (fun t =>
        t = { s with dtcH := t.dtcH, host := t.host }
          ∧ t.dtcH = s.dtcH.filter (fun h => !invMatches fn.val (pasid.map (·.toNat)) global va.toNat len h)
          ∧ (s.reqs = [] → s.host.orphans = [] →
            Post.invalidateDone fn.val itag.val ∈ posted t ++ t.host.heldPosts.map (·.2.2))))
  ∧ ∀ (a : At) (tag : Fin 4096) (k : Nat) (s : State),
    let n := a.core.val
    let x := theSlot s a
    (canCommit s n a.slot = true → fetchSeg s n a.slot = none → Completes (.lookasideMiss (.fetch a)) s fun t =>
      t.px = s.px ++ [⟨.fetch n a.slot, x.ctx, x.pc.toNat, isExpress a.slot, false⟩]
        ∧ getCore t n = { getCore s n with fetchMiss := some (a.slot, x.pc.toNat) }
        ∧ OnlyCore n s { t with px := s.px })
    ∧ (∀ c va, commandMiss s tag.val = some (c, va) → Completes (.lookasideMiss (.command tag)) s fun t =>
        t.px = s.px ++ [⟨.stream tag.val, c.ctx, va, isExpress c.slot, false⟩]
          ∧ t = { s with px := t.px, tags := t.tags } ∧ ∀ k, k ≠ tag.val → getTag t k = getTag s k)
    ∧ (∀ m, nextMiss s = some m → planeUp s = true →
        (m.dtc = false → Completes .lookasideMissServed s fun t =>
          t.px = s.px.erase m ∧ PlatformKept s t
            ∧ (∀ e, m.who = .stream e → ∀ g, (pointsFind s m.ctx m.va).1 = some g →
                ∀ c, tagCmd s e = some c → getCore t c.core = { getCore s c.core with
                  look := lookInstall (getCore s c.core).look (coreShare (getCore s c.core) c.slot) m.ctx g })
            ∧ (m.who = .fetch n a.slot →
              (∀ g, (pointsFind s m.ctx m.va).1 = some g → getCore t n = { getCore s n with
                  fetchMiss := none, look := lookInstall (getCore s n).look (coreShare (getCore s n) a.slot) m.ctx g })
              ∧ ((pointsFind s m.ctx m.va).1 = none → TrapTaken a .segFault (x.pc.setWidth 64) s t)))
        ∧ (m.dtc = true → s.px[k]? = some m → Completes (.translationCacheMissServed k) s fun t =>
          PlatformKept s t ∧ t.cores = s.cores ∧ ∀ e, m.who = .stream e → t.px = s.px.erase m
            ∧ ∀ g, (pointsFind s m.ctx m.va).1 = some g → g.mig = true →
                (dtcFind t m.ctx g.idx ((m.va - g.vbase) / 2 ^ 21)).isSome = true))

/-- Control commands (R420 to R425, R430, R448). One that did not come through the physical function ends with code 0x40 and no
other effect. OWN_SET writes the ownership of its granules, INVALIDATE of a whole context and SEG_SYNC drop what lookasides hold,
GRANULE_SET releases the pending faults of its granules, and each starts an epoch; an epoch that has drained completes its
command.
Model choices it rests on: log entries 5 and 23. -/
def Obligations.ControlCommands : Prop :=
  ∀ (mirror : List HostReply) (s : State),
    let rows := [(0x40, Instr.segSync mirror), (0x41, .invalidate), (0x42, .granuleSet), (0x43, .ownSet)]
    let starts (c : CtrlCmd) (t : State) : Prop :=
      PlatformKept s t ∧ (∃ e, t.epochs = [e] ∧ e.cmd = c.cmd)
        ∧ t.epoch = s.epoch + 1
    (∀ code i c, (code, i) ∈ rows → nextControl s code = some c →
      Completes i s (PlatformKept s)
        ∧ ∀ d, findCmd s c.cmd = some d → c.pf = false → Completes i s fun t =>
            EntryWritten s t d 0x40 ∧ (∀ e ∈ t.ctrl, e.cmd ≠ c.cmd) ∧ t.hbm = s.hbm ∧ t.own = s.own ∧ t.cores = s.cores)
    ∧ (∀ c, nextControl s 0x43 = some c → c.pf = true →
        let b := c.body
        let start := fieldAt b 8 8
        let k := fieldAt b 16 4
        start % 2 ^ 21 = 0 → k ≠ 0 → fieldAt b 20 1 ≤ 1 → fieldAt b 21 1 < 64 → zeroBytes b 22 64 = true →
        start + k * 2 ^ 21 ≤ installed s.variant →
        (∀ j, j < min k (channels s.variant / 4) → granuleLost s (start / 2 ^ 21 + j) = false) →
        Completes .ownSet s fun t => starts c t ∧ ∀ g, spGet 0#8 g t.own =
          (if start / 2 ^ 21 ≤ g ∧ g < start / 2 ^ 21 + k then BitVec.ofNat 8 (fieldAt b 21 1 + 64 * fieldAt b 20 1)
           else spGet 0#8 g s.own))
    ∧ (∀ c, nextControl s 0x41 = some c → c.pf = true →
        let ctx := fieldAt c.body 8 1
        ctx < 64 → fieldAt c.body 9 1 = 0 → zeroBytes c.body 12 16 = true → zeroBytes c.body 32 64 = true →
        ctxValid s ctx = true →
        Completes .invalidate s fun t => starts c t
          ∧ (∀ n, ∀ e ∈ (getCore t n).look.ent, ∀ k g, e.2 = some (k, g) → k ≠ ctx)
          ∧ (∀ e ∈ t.dtcG, e.ctx ≠ ctx))
    ∧ (∀ c, nextControl s 0x42 = some c → c.pf = true →
        let b := c.body
        let ctx := fieldAt b 8 1
        let seg := fieldAt b 9 1
        let first := fieldAt b 12 4
        let k := fieldAt b 16 4
        ctx < 64 → seg < 16 → (fieldAt b 10 1 = 1 ∨ fieldAt b 10 1 = 2) → zeroBytes b 11 12 = true → k ≠ 0 →
        zeroBytes b 20 24 = true → fieldAt b 24 8 % 2 ^ 21 = 0 → zeroBytes b 32 64 = true → ctxValid s ctx = true →
        ∀ g, (segRead s ctx seg).1 = some g → g.mig = true → first + k ≤ g.len / 2 ^ 21 →
        Completes .granuleSet s fun t => PlatformKept s t
          ∧ (t.pend = s.pend.filter fun p => !(p.ctx == ctx && p.seg == seg && first ≤ p.k && p.k < first + k))
          ∧ t.epoch = s.epoch + 1
          ∧ ∀ j, first ≤ j → j < first + k → dtcFind t ctx g.idx j = none)
    ∧ (∀ c, nextControl s 0x40 = some c → c.pf = true →
        let b := c.body
        let ctx := fieldAt b 8 1
        let mask := fieldAt b 10 2
        let es := mirrorEntries (maskSegs mask) mirror
        ctx < 64 → zeroBytes b 9 10 = true → zeroBytes b 12 64 = true → ctxValid s ctx = true →
        (∀ e ∈ es, mirrorReason s e.1 e.2 (segsAfter (segTable ctx 16 0 s).1 es) = 0) →
        Completes (.segSync mirror) s fun t => starts c t
          ∧ ∀ n, ∀ e ∈ (getCore t n).look.ent, ∀ g, e.2 = some (ctx, g) → mask.testBit g.idx = false)
    ∧ (∀ e es, s.epochs = e :: es → epochOver s e = true → Completes .epochDrained s fun t =>
        t.epochs = es ∧ PlatformKept s t ∧ (∀ c ∈ t.ctrl, c.cmd ≠ e.cmd)
          ∧ ∀ d, findCmd s e.cmd = some d → EntryWritten s t d 0)

/-! ### The host interface (spec/12) -/

/-- Doorbells of a queue pair and the reading of its commands. A doorbell reaches the queue only from the function of its context
(R456), whole (R469) and while the queue is enabled; a tail or head out of range puts the queue in ERROR, and the first error
stands (R470, R471). The Dispatcher takes as many of the commands returned as it may, and a failed read puts the queue in ERROR
(R468, R470); it reads what it may, at most 16 reads in flight (R472).
Model choices it rests on: log entries 4, 5, 9 and 24. -/
def Obligations.QueueDoorbellsAndReads : Prop :=
  ∀ (fn ctx : Fin 64) (q skew : Fin 8) (data : List Byte) (reply : HostReply) (s : State),
    let x := getQueue s ctx.val q.val
    let good : Prop := skew.val = 0 ∧ (data.length = 4 ∨ data.length = 8)
    let v := leNat (data.take 2)
    let n := qSize s ctx.val q.val
    let failed (code : Nat) : Queue := if x.err = 0 then { x with err := code } else x
    let rings (i : Instr) (y : Queue) : Prop := Completes i s fun t =>
      PlatformKept s t ∧ t.cores = s.cores ∧ t.tags = s.tags ∧ t.hbm = s.hbm
        ∧ (pageOf s fn.val ctx.val = .gone → t = s)
        ∧ (pageOf s fn.val ctx.val = .denied ∨ ¬good → t.host = s.host)
        ∧ (s.host.cmdReads.length ≤ 16 → t.host.cmdReads.length ≤ 16)
        ∧ (pageOf s fn.val ctx.val = .ok → good → qEnabled s ctx.val q.val = false → getQueue t ctx.val q.val = x)
        ∧ (pageOf s fn.val ctx.val = .ok → good → qEnabled s ctx.val q.val = true →
            getQueue t ctx.val q.val = y ∧ t = { s with host := t.host } ∧ t.host.cmds = s.host.cmds
              ∧ ∀ p ∈ posted t, p ∈ posted s ∨ ∃ f a k, p = .read f a k plainAttr)
    rings (.commandQueueTailDoorbell fn ctx q skew data)
        (if n ≤ v then failed 1 else { x with sqTail := v, bells := x.bells ++ [(v, nowOp s)] })
      ∧ rings (.completionQueueHeadDoorbell fn ctx q skew data)
        (if n ≤ v ∨ qWritten s ctx.val q.val < (v + n - x.cqHead) % n then failed 2 else { x with cqHead := v })
      ∧ (∀ r, readOf s ctx.val q.val = some r → readLive s r = true →
          Completes (.commandReadCompletion ctx q reply) s fun t =>
            PlatformKept s t ∧ t.cores = s.cores ∧ t.hbm = s.hbm
              ∧ (∀ bs, reply = .data bs false → 64 ≤ bs.length →
                  let k := min (min (takable s ctx.val q.val) r.count) (bs.length / 64)
                  k ≠ 0 → (getQueue t ctx.val q.val).sqHead = (x.sqHead + k) % n
                    ∧ (getQueue t ctx.val q.val).taken = (x.taken + k) % 2 ^ 32
                    ∧ t.host.nextCmd = s.host.nextCmd + k)
              ∧ ((∀ bs, reply ≠ .data bs false) → (getQueue t ctx.val q.val).err = 3 ∧ t.host.cmds = s.host.cmds))

/-- R463: a RUN is assigned to the core it names, or to one that ANY picks, and completes with NO_CORE when no candidate is there.
R467: one whose DEADLINE has passed before it starts completes with EXPIRED. R461: a NOP completes with DONE. R462: a LOAD or COPY
takes a tag at its first event,
moves what it can, and completes when all is moved or an access fails.
Model choices it rests on: log entries 5 and 24. -/
def Obligations.DispatcherCommands : Prop :=
  ∀ (cmd : Nat) (tag : Fin 4096) (host : HostReply) (s : State), ∀ d, findCmd s cmd = some d →
    let t16 := fieldAt d.bytes 24 2
    let any : Prop := t16.testBit 15 = true
    let assigned (n : Nat) (t : State) : Prop :=
      findCmd t cmd = some { d with st := .assigned n } ∧ t = { s with host := { s.host with cmds := t.host.cmds } }
    (d.op = 1 → d.st = .waiting → queueTurn s d = true → runExpired s d = false → planeUp s = true →
      (¬any → candidate s d.ctx d.express (t16 % 256) = true → Completes (.run cmd) s (assigned (t16 % 256)))
      ∧ (∀ n, pickCore s d.ctx d.express = some n → any → Completes (.run cmd) s (assigned n))
      ∧ ((¬any ∧ candidate s d.ctx d.express (t16 % 256) = false
            ∨ any ∧ ∀ n, n < 160 → candidate s d.ctx d.express n = false) →
          Completes (.run cmd) s fun t => EntryWritten s t d 0x33 ∧ t.cores = s.cores))
    ∧ (d.op = 1 → d.st ≠ .running → runExpired s d = true → Completes (.runExpired cmd) s fun t =>
        EntryWritten s t d 0x31 ∧ t.cores = s.cores ∧ PlatformKept s t)
    ∧ (d.op = 4 → startable s d = true → startTurn s d = true → planeUp s = true → Completes (.nop cmd) s fun t =>
        EntryWritten s t d 0 ∧ t.cores = s.cores ∧ t.tags = s.tags ∧ t.hbm = s.hbm ∧ PlatformKept s t)
    ∧ (∀ i op, (i, op) ∈ [(Instr.load cmd tag host, 2), (.copy cmd tag host, 3)] → transferDue s d op tag.val = true →
        Completes i s fun t => PlatformKept s t ∧ t.cores = s.cores
          ∧ (let e := { d with tag := some (d.tag.getD tag.val), st := .running, wait := none }
             let s' := if d.tag.isSome = true then s else takeTag (tookTurn s d) tag.val none d.ctx none
             let dir := if op = 2 then 0 else fieldAt d.bytes 28 1
             let len := fieldAt d.bytes 24 4
             let r := (transferGo dir (fieldAt d.bytes 8 8) (fieldAt d.bytes 16 8) len (len / 16 + 2) e (hostData host) s').1
             let e' := { e with moved := r.2 }
             (r.1 = .going → findCmd t cmd = some e') ∧ (∀ w, r.1 = .halt w → findCmd t cmd = some { e' with wait := some w })
               ∧ (r.1 = .done → EntryWritten s t d 0) ∧ ∀ code va, r.1 = .fail code va → EntryWritten s t d code)
          ∧ (d.tag = none → (getTag t tag.val).gen = (getTag s tag.val).gen + 1)
          ∧ ∀ k, k ≠ tag.val → d.tag ≠ some k → getTag t k = getTag s k)

/-- R121, Table 3.8: a program starts in its slot with its registers as the table gives them, no Timetable
snapshot (R152), and its command in the mailbox.
Model choices it rests on: log entry 15. -/
def Obligations.ProgramStarts : Prop :=
  ∀ (cmd n : Nat) (s : State), ∀ d, findCmd s cmd = some d → d.st = .assigned n → startable s d = true →
    startTurn s d = true → planeUp s = true → Completes (.runStart cmd) s fun t =>
      let i : SlotId := if d.express then .express else .bulk
      let x := getSlot t n i
      x.phase = .running ∧ x.ctx = d.ctx ∧ x.cmd = cmd ∧ x.pc = BitVec.ofNat 48 (fieldAt d.bytes 8 8)
        ∧ getG x 1#5 = BitVec.ofNat 64 (mailbox i) ∧ getG x 2#5 = BitVec.ofNat 64 n
        ∧ getG x 3#5 = BitVec.ofNat 64 (d.q + 256 * d.express.toNat)
        ∧ (∀ r : Reg, r ≠ 1#5 → r ≠ 2#5 → r ≠ 3#5 → getG x r = 0#64) ∧ (∀ r : Reg, getF x r = 0#64)
        ∧ x.fflags = 0#8 ∧ x.frm = 0#2 ∧ x.statsum = 0#8 ∧ x.cycle = 0#64 ∧ x.snap = snapZero ∧ x.held = none
        ∧ x.lfsr = (if (getSlot s n i).prevCtx = some d.ctx then (getSlot s n i).lfsr else 1#32)
        ∧ (∀ k, k < d.bytes.length → memGet (getCore t n).ls (mailbox i + k) = d.bytes.getD k 0#8)
        ∧ (getCore t n).halted = (getCore s n).halted ∧ PlatformKept s t
        ∧ ∀ m, m ≠ n → getCore t m = getCore s m

/-- Interrupts (R479), HW4 (R458), power states of functions (R486) and host reads that time out (R480).
Model choices it rests on: log entries 4, 5, 9 and 24. -/
def Obligations.HostInterfaceEvents : Prop :=
  ∀ (ctx fn : Fin 64) (q : Fin 8) (vector : Fin 2048) (offset : BitVec 38) (len id : Nat) (bytes : List Byte) (ep : Bool)
    (seg : Fin 16) (layer : BitVec 16) (s : State),
    let vec := regFld s .dspQirq 0 ctx.val q.val 0 11
    let sent (x : Post) (t : State) : Prop := x ∈ posted t ++ t.host.heldPosts.map (·.2.2)
    let pa := hw4Addr s offset.toNat
    let open4 : Prop := hostHere s = true ∧ spGet false 0 s.host.d3 = false ∧ spGet false 0 s.host.resetting = false
      ∧ offset.toNat < 2 ^ s.host.hw4Log
    (regBit s .dspQirq 0 ctx.val q.val 15 = true → regFld s .dspQirq 0 ctx.val q.val 24 8 ≠ 0 →
      (getQueue s ctx.val q.val).unsig ≠ 0 → Completes (.interruptTimeTrigger ctx q) s fun t =>
        getQueue t ctx.val q.val = { getQueue s ctx.val q.val with unsig := 0 } ∧ t = { s with host := t.host }
          ∧ (if spGet true vec s.host.masked = true then spGet false vec t.host.vecPending = true else sent (.msix vec) t))
    ∧ Completes (.msixUnmask vector) s (fun t =>
        (hostHere s = false → t = s)
          ∧ (hostHere s = true → spGet true vector.val t.host.masked = false
              ∧ spGet false vector.val t.host.vecPending = false ∧ t = { s with host := t.host }
              ∧ (spGet false vector.val s.host.vecPending = true → sent (.msix vector.val) t)))
    ∧ Completes (.hw4Access offset len none) s (fun t =>
        (¬open4 → t = s) ∧ (open4 → installed s.variant < pa + len → ∃ l, posted t = posted s ++ Post.readAbort :: l)
          ∧ (open4 → pa + len ≤ installed s.variant → ∃ l bs bad, bs.length = len ∧ posted t = posted s ++ l ++ [.readDone bs bad]))
    ∧ Completes (.hw4Access offset len (some (bytes, ep))) s (fun t =>
        (¬open4 → t = s) ∧ (ep = false → t.host = s.host) ∧ t.cores = s.cores ∧ t.tags = s.tags
          ∧ (open4 → pa + bytes.length ≤ installed s.variant → cacheEnabled s = false → (∀ k, channelFailed s k = false) →
              ∀ i, i < bytes.length → memGet t.hbm (pa + i) = bytes.getD i 0#8)
          ∧ (installed s.variant < pa + bytes.length → t.hbm = s.hbm ∧ t.slices = s.slices))
    ∧ Completes (.d3hotEntry fn) s (fun t => t = { s with host := t.host }
        ∧ (hostHere s = true → spGet false fn.val t.host.d3 = true ∧ posted t = posted s))
    ∧ Completes (.returnToD0 fn) s (fun t => t = { s with host := t.host }
        ∧ (hostHere s = true → spGet false fn.val t.host.d3 = false
            ∧ (∀ p ∈ s.host.heldPosts, p.1 = fn.val → p.2.2 ∈ posted t) ∧ (∀ p ∈ posted s, p ∈ posted t)
            ∧ ∀ p ∈ t.host.heldPosts, p.1 ≠ fn.val))
    ∧ (∀ r, findReq s id = some r → lineWaitsHost r = true → Completes (.completionTimeout (.line id)) s fun t =>
        PlatformKept s t ∧ t.log.seq ≠ s.log.seq ∧ ((getTag s r.tag).cmd.isSome = true → (getTag t r.tag).st = .retiring))
    ∧ (∀ r, readOf s ctx.val q.val = some r → readLive s r = true → Completes (.completionTimeout (.queue ctx q)) s fun t =>
        (getQueue t ctx.val q.val).err = 3 ∧ t.host.cmds = s.host.cmds ∧ PlatformKept s t)
    ∧ (∀ d, findCmd s id = some d → (d.op = 2 ∨ d.op = 3) → d.st = .running → d.wait = none →
        missWaits s (.transfer d.id) = false →
        Completes (.completionTimeout (.transfer id)) s fun t =>
          EntryWritten s t d codeSegFault ∧ PlatformKept s t)
    ∧ (∀ c, nextControl s 0x40 = some c → (fieldAt c.body 10 2).testBit seg.val = true →
        Completes (.completionTimeout (.mirror seg)) s fun t =>
          (∀ d, findCmd s c.cmd = some d → c.pf = true → segSyncOk c.body = true →
            ctxValid s (fieldAt c.body 8 1) = true → EntryWritten s t d 0x42) ∧ (∀ e ∈ t.ctrl, e.cmd ≠ c.cmd) ∧ t.cores = s.cores)
    ∧ (∀ l, findLayer s ctx.val layer.toNat = some l → l.started = true → l.sent < panelCount l →
        Completes (.completionTimeout (.weights ctx layer)) s fun t => PlatformKept s t ∧ l ∉ t.layers
          ∧ ∀ tag ∈ l.arrivals, (getTag s tag).cmd.isSome = true → (getTag t tag).st = .retiring)

/-- Context, function and physical-function resets (R483 to R485, R688): no program and no command of the contexts goes on; a
function's queues are disabled; FLR of the physical function resets the data plane. A GO that comes while one is in progress, or while the
function is not there, is discarded.
Model choices it rests on: log entries 9, 30 and 31. -/
def Obligations.HostResets : Prop :=
  ∀ (ctx fn : Fin 64) (go : Bool) (s : State),
    let ended (hit : Nat → Prop) (t : State) : Prop :=
      (∀ n i, hit (getSlot t n i).ctx → (getSlot t n i).phase = .idle) ∧ (∀ d ∈ t.host.cmds, ¬hit d.ctx)
        ∧ (∀ p ∈ t.pend, ¬hit p.ctx) ∧ (∀ l ∈ t.layers, ¬hit l.ctx) ∧ (∀ b ∈ t.barriers, ¬hit b.ctx)
    let off (t : State) : Prop := (∀ c, c ∈ ctxsOf s fn.val → ∀ q, q < 8 → qEnabled t c q = false)
        ∧ spGet false fn.val t.host.resetting = true ∧ ∀ e ∈ t.priOut, e.fn ≠ fn.val
    Completes (.dspCtxreset ctx go) s (fun t =>
      (¬(go = true ∧ resetTakes s = true ∧ s.host.ctxResetBusy = none) → t = s)
        ∧ (go = true → resetTakes s = true → s.host.ctxResetBusy = none →
            t.host.ctxResetBusy = some ctx.val ∧ ended (· = ctx.val) t ∧ t.variant = s.variant ∧ t.nv = s.nv))
      ∧ Completes (.dspFnreset fn go) s (fun t =>
        (¬(go = true ∧ fn.val ≠ 0 ∧ resetTakes s = true ∧ s.host.fnResetBusy = none) → t = s)
          ∧ (go = true → fn.val ≠ 0 → resetTakes s = true → s.host.fnResetBusy = none →
              t.host.fnResetBusy = some fn.val ∧ off t ∧ ended (· ∈ ctxsOf s fn.val) t))
      ∧ (fn.val ≠ 0 → Completes (.flrVf fn) s fun t =>
        (¬(hostHere s = true ∧ s.power.dataPlane = false ∧ s.host.vfEnable = true) → t = s)
          ∧ (hostHere s = true → s.power.dataPlane = false → s.host.vfEnable = true →
              off t ∧ spGet false fn.val t.host.d3 = false ∧ ended (· ∈ ctxsOf s fn.val) t))
      ∧ Completes .flrPf s (fun t =>
        (¬(hostHere s = true ∧ s.power.dataPlane = false) → t = s)
          ∧ (hostHere s = true → s.power.dataPlane = false →
              t.host.vfEnable = false ∧ t.power = { s.power with dataPlane := true } ∧ t.tags = [] ∧ t.problems = []
                ∧ (∀ n, (getCore t n).bulk.phase = .idle ∧ (getCore t n).express.phase = .idle) ∧ t.host.cmds = []))

/-! ### The fabric (spec/13) -/

/-- Flits at a port, and its retry timer (R491 to R496, R499). A flit whose CRC fails counts in KL_CRCERR; the head of a good one
acknowledges; a DATA flit in sequence enters the buffer of its class, one out of sequence is discarded and answered with a NAK; a
retry sends every unacknowledged flit again, and the 8th in a row takes the link down.
Model choices it rests on: log entries 4 and 25. -/
def Obligations.FlitsAndRetry : Prop :=
  ∀ (port : Fin 32) (good : Bool) (head : FlitHead) (vc : Fin 4) (dl eop : Bool) (sop : Option Packet) (sym unc : Nat)
    (s : State),
    let p := port.val
    let x := getPort s p
    let cls := 2 * vc.val + dl.toNat
    let kept (t : State) : Prop := PlatformKept s t ∧ t.cores = s.cores ∧ t.tags = s.tags ∧ t.hbm = s.hbm
    let acks (t : State) : Prop := ∀ a, head.ack = some a → portUp s p = true → head.nak = false →
      ∀ es, afterAck a.toNat x.replay = some es → (getPort t p).replay = es ∧ (getPort t p).retries = 0
    (hasPort s p = true → Completes (.idleFlit port good head sym unc) s fun t => kept t
      ∧ regVal t .klFeccorr p 0 0 = regVal s .klFeccorr p 0 0 + BitVec.ofNat 64 sym
      ∧ (good = false → regVal t .klCrcerr p 0 0 = regVal s .klCrcerr p 0 0 + 1#64
          ∧ (getPort t p).replay = x.replay ∧ (getPort t p).credits = x.credits)
      ∧ (good = true → acks t))
    ∧ (hasPort s p = true → rxRoom s p cls = true →
        Completes (.dataFlit port good head vc dl sop eop sym unc) s fun t => kept t
          ∧ (portUp s p = false → (getPort t p).rx = x.rx ∧ (getPort t p).rxSeq = x.rxSeq ∧ t.fab.wire = s.fab.wire)
          ∧ (portUp s p = true → good = false ∨ (head.nak = false ∧ head.seq.toNat ≠ x.rxSeq) →
              (getPort t p).rx = x.rx ∧ (getPort t p).rxSeq = x.rxSeq ∧ (getPort t p).nakked = true)
          ∧ (portUp s p = true → good = true → head.nak = false → head.seq.toNat = x.rxSeq →
              acks t ∧ (getPort t p).rxSeq = (x.rxSeq + 1) % 65536 ∧ (getPort t p).nakked = false
                ∧ regVal t .klRxflits p 0 0 = regVal s .klRxflits p 0 0 + 1#64
                ∧ ∀ k, sop = some k → eop = true → (getRx x cls).part = none → packetOk k = true → flitCount k = 1 →
                    vcOf k = vc.val → (getRx (getPort t p) cls).whole = (getRx x cls).whole ++ [k]))
    ∧ (portUp s p = true → x.replay ≠ [] → Completes (.retryTimerExpiry port) s fun t => kept t
        ∧ regVal t .klRetries p 0 0 = regVal s .klRetries p 0 0 + 1#64
        ∧ (let n := if x.wentBack then x.retries + 1 else x.retries
           (n < 8 → (getPort t p).replay = x.replay ∧ (getPort t p).retries = n ∧ portUp t p = true
              ∧ (t.fab.wire.drop s.fab.wire.length).map (·.body) = x.replay.map fun e => WireBody.data e.cls e.pkt e.part)
           ∧ (8 ≤ n → portUp t p = false ∧ (getPort t p).replay = [])))

/-- States of a link (R498, R503, R504, R513 to R515). Failover (R505, R506): the neighbour is told the last whole packet accepted
on the failed lane; what it had not accepted goes to the surviving links; without an answer those packets are lost and counted.
Model choices it rests on: log entries 4, 5 and 25. -/
def Obligations.LinkStatesAndFailover : Prop :=
  (∀ (port : Fin 32) (good : Bool) (head : FlitHead) (link : Fin 4) (answer : Option (BitVec 16)) (s : State),
    let p := port.val
    let held := (getPort s p).failover
    (portUp s p = true → Completes (.failover port good head link answer) s fun t => PlatformKept s t ∧ t.cores = s.cores
      ∧ (good = false → t.fab = s.fab ∧ regVal t .klCrcerr p 0 0 = regVal s .klCrcerr p 0 0 + 1#64)
      ∧ (good = true → head.nak = false → ∀ q, laneOf s (portDir s p) link.val = some q →
          (answer = none → ∃ f, t.fab.wire = s.fab.wire
              ++ [⟨p, f, .failover link.val (some (getPort s q).lastEop)⟩])
          ∧ (∀ v, answer = some v → ∀ es, (getPort s q).failover = some es → (getPort t q).failover = none
              ∧ t.fab.resend = s.fab.resend ++ (notDelivered v.toNat es).map fun e => (e.pkt, portDir s q, e.cls))))
    ∧ (held.isSome = true →
        Completes (.failoverResendTimer port) s (fun t => t = { s with fab := t.fab }
          ∧ ∀ q rest, bundleUp s (portDir s p) = q :: rest → ∃ f, t.fab.wire = s.fab.wire
              ++ [⟨q, f, .failover (portLane s p) none⟩])
        ∧ Completes (.failoverTimeout port) s fun t => (getPort t p).failover = none ∧ PlatformKept s t
          ∧ regVal t .jnLost 0 0 0 = regVal s .jnLost 0 0 0 + BitVec.ofNat 64 (packetsIn (held.getD []))))
  ∧ ∀ (port : Fin 32) (good : Bool) (head : FlitHead) (h : Hello) (markers : List (List (BitVec 20)))
      (s : State),
    let p := port.val
    let x := getPort s p
    (x.st = 2 ∨ x.st = 3 → Completes (.lockLossTimeout port) s fun t =>
      (getPort t p).st ≠ 2 ∧ (getPort t p).st ≠ 3 ∧ (getPort t p).replay = [] ∧ PlatformKept s t)
    ∧ (x.st = 1 → hasPort s p = true →
        (attemptWidth s p markers = 0 → x.fails < 3 → Completes (.trainingAttemptEnd port markers) s fun t =>
          getPort t p = { x with fails := x.fails + 1 } ∧ t = { s with fab := t.fab })
        ∧ (attemptWidth s p markers = 0 → 3 ≤ x.fails → Completes (.trainingAttemptEnd port markers) s fun t =>
          ((getPort t p).st = 5 ∨ (getPort t p).st = 0) ∧ PlatformKept s t)
        ∧ (lanesLock [0, 1, 2, 3] markers = true → Completes (.trainingAttemptEnd port markers) s fun t =>
          getPort t p = { x with st := 2, width := 2, fails := 0, heard := false } ∧ t = { s with fab := t.fab })
        ∧ (attemptWidth s p markers = 1 → Completes (.trainingAttemptEnd port markers) s fun t =>
          getPort t p = { x with st := 2, width := 1, fails := 0, heard := false } ∧ regBit s .klCfg p 0 0 0 = true))
    ∧ (x.st = 4 ∨ x.st = 5 → Completes (.portRetryTimer port) s fun t =>
        (getPort t p).st = 1 ∧ t = { s with fab := t.fab } ∧ ∀ q, q ≠ p → getPort t q = getPort s q)
    ∧ (x.st = 2 ∨ x.st = 3 → Completes (.helloTimer port) s fun t =>
        (∃ f, t.fab.wire = s.fab.wire ++ [⟨p, f, .hello (helloOf s p)⟩]) ∧ t = { s with fab := t.fab })
    ∧ (hasPort s p = true → Completes (.hello port good head h) s fun t => PlatformKept s t
        ∧ (good = false → t.fab = s.fab ∧ regVal t .klCrcerr p 0 0 = regVal s .klCrcerr p 0 0 + 1#64)
        ∧ (good = true → x.st = 2 →
            (helloFault s p h ≠ 0 → (getPort t p).st = 4 ∧ (getPort t p).misreason = helloFault s p h)
            ∧ (helloFault s p h = 0 → h.matched = false → (getPort t p).st = 2 ∧ (getPort t p).heard = true)
            ∧ (helloFault s p h = 0 → h.matched = true → portUp t p = true ∧ (getPort t p).rxSeq = head.seq.toNat)))

/-- Routing (R521, R522, R533): a link-state announcement of another device sets the detour bit of its link; a packet for this
part enters service; an answer that cannot be routed counts in JN_UNREACH.
Model choices it rests on: log entries 5 and 25. -/
def Obligations.JunctionForwards : Prop :=
  ∀ (pkt : PktRef) (tag : Fin 4096) (combine : Option PktRef) (s : State), ∀ p by_, pktAt s pkt = some (p, by_) →
    turnOf s pkt p = true →
    (p.op = 7 → (lsaStops s p by_ = true ∨ outReady s (lsaDir p) (lsaClass s p by_) p = true) →
      Completes (.lsa pkt) s fun t => PlatformKept s t ∧ t.cores = s.cores ∧ t.tags = s.tags
        ∧ (by_.isSome = true → p.src ≠ selfId s → p.args.dim < 3 → p.args.link < 16 →
            detourBit t p.args.dim p.args.link = decide (p.args.state ≠ 0)))
    ∧ (p.op ≠ 7 → (p.op = 6 → by_ = none) → resendFirst s pkt p = true → combine ≠ some pkt →
      (orphan s pkt p = true ∨ ((isLazy pkt p = true → dataReady s p = true) ∧ hopReady s pkt p by_ tag.val = true
        ∧ combineReady s p by_ combine = true)) →
      Completes (.packetForward pkt tag combine) s fun t => PlatformKept s t ∧ t.hbm = s.hbm
        ∧ (isRequest p = false → resendOf s pkt = none → combine = none →
            (route s p by_ = .here → t.inbound = s.inbound ++ [⟨s.nextInbound, none, p, winWords s p⟩]
                ∧ t.nextInbound = s.nextInbound + 1)
            ∧ (route s p by_ = .stuck → p.op ≠ 6 →
                regVal t .jnUnreach 0 0 0 = regVal s .jnUnreach 0 0 0 + 1#64 ∧ t.inbound = s.inbound)))

/-- Requests of other devices (R449 to R451, R525 to R528): each is answered to the device and under the handle that sent it, and is
in service no more; one whose key or window does not admit it is refused and touches no memory.
Model choices it rests on: log entries 5 and 25. -/
def Obligations.RemoteRequestsAnswered : Prop :=
  ∀ (id : Nat) (s : State), planeUp s = true →
    let answers (e : Inbound) (ops : List Nat) (t : State) : Prop := PlatformKept s t
      ∧ (∀ x ∈ t.inbound, x.id ≠ id)
      ∧ ∃ k, t.inject = s.inject ++ [k] ∧ k.op ∈ ops ∧ k.dst = e.pkt.src ∧ k.src = selfId s ∧ k.handle = e.pkt.handle
    (∀ e, inboundOf s id 1 = some e → Completes (.remoteRead id) s fun t => answers e [0x81, 0x8F] t
      ∧ (keyOk s e.pkt = false ∨ windowOk e false e.pkt.args.count = false →
          t.hbm = s.hbm ∧ t.inject = s.inject ++ [{ answerPacket s e.pkt 0x8F codeWindowRefused with data := [], poison := [] }]))
    ∧ (∀ e, inboundOf s id 2 = some e → Completes (.windowWrite id) s fun t => answers e [0x82, 0x8F] t
      ∧ (keyOk s e.pkt = false ∨ windowOk e true e.pkt.data.length = false →
          t.hbm = s.hbm ∧ t.inject = s.inject ++ [{ answerPacket s e.pkt 0x8F codeWindowRefused with data := [], poison := [] }]))
    ∧ (∀ e, inboundOf s id 5 = some e → Completes (.parcel id) s fun t => answers e [0x85] t
      ∧ (keyOk s e.pkt = false → t.cores = s.cores
          ∧ t.inject = s.inject ++ [{ answerPacket s e.pkt 0x85 codeParcelRefused with data := [], poison := [] }]))
    ∧ (∀ e, inboundOf s id 3 = some e → poolReady s (piecesOf s e.pkt) e.pkt = true →
        (e.pkt.x = true ∨ expressPool s = false) → Completes (.poolAtHome id) s fun t => PlatformKept s t
          ∧ (∀ y ∈ piecesOf s e.pkt, ∀ x ∈ t.inbound, x.id ≠ y.id)
          ∧ (∃ ks, t.inject = s.inject ++ ks
              ∧ ∀ k ∈ ks, (k.op = 0x83 ∨ k.op = 0x8F) ∧ k.dst = e.pkt.src ∧ k.handle = e.pkt.handle)
          ∧ (keyOk s e.pkt = false → t.hbm = s.hbm ∧ t.inject = s.inject ++ [answerPacket s e.pkt 0x8F codeWindowRefused]))

/-- Answers at the requester (R215, R531 to R533): the answer of an RREAD or WWRITE retires it; one that nothing awaits counts in
JN_LATE; a request whose bound has passed counts in JN_TIMEOUT.
Model choices it rests on: log entries 5 and 25. -/
def Obligations.RemoteAnswersArrive : Prop :=
  ∀ (id k : Nat) (s : State),
    let counted (r : RegName) (t : State) : Prop := regVal t r 0 0 0 = regVal s r 0 0 0 + 1#64
    (∀ e, inboundOf s id 0x8F = some e → Completes (.error id) s fun t => PlatformKept s t
      ∧ (∀ x ∈ t.inbound, x.id ≠ id)
      ∧ (cmdOfHandle (endInbound s e) e.pkt.handle = none → counted .jnLate t)
      ∧ (∀ tag c, cmdOfHandle (endInbound s e) e.pkt.handle = some (tag, c) →
          ∀ r, s.remotes.find? (remoteOf e.pkt (opOfCmd c)) = some r → r.op = 1 ∨ r.op = 2 ∨ r.op = 5 →
          (getTag t tag).st = .retiring))
    ∧ (∀ e, answerIn s id = some e → Completes (.remoteResponse id) s fun t => PlatformKept s t
      ∧ (∀ x ∈ t.inbound, x.id ≠ id)
      ∧ (cmdOfHandle (endInbound s e) e.pkt.handle = none → counted .jnLate t)
      ∧ (∀ tag c, cmdOfHandle (endInbound s e) e.pkt.handle = some (tag, c) →
          ∀ r, s.remotes.find? (awaited e.pkt) = some r → (e.pkt.op = 0x81 ∨ e.pkt.op = 0x82) →
          (getTag t tag).st = .retiring))
    ∧ (∀ r, s.remotes[k]? = some r → r.left = true → Completes (.remoteTimeout k) s fun t =>
        PlatformKept s t ∧ counted .jnTimeout t
          ∧ (r.op = 1 ∨ r.op = 2 ∨ r.op = 5 → (getTag s r.tag).cmd.isSome = true → (getTag t r.tag).st = .retiring))

/-! ### The Timetable counter (spec/14) -/

/-- The counter (R538, R542, R557): a tick adds INCR and carries into the seconds; the main-die copy follows it; a correction left
over is stepped when nothing is armed, at the nominal rate from then on (R558).
Model choices it rests on: log entries 4 and 26. -/
def Obligations.TimeCounterAdvances : Prop :=
  ∀ (skew : Int) (s : State),
    (timeClocked s = true → Completes .timeClockTick s fun t =>
      let n := s.time.sub + curIncr s
      t.time.sec = (if sec32 ≤ n then (s.time.sec + 1) % 2 ^ 48 else s.time.sec)
        ∧ t.time.sub = (if sec32 ≤ n then n - sec32 else n) ∧ t.now = snapOf (copy16 t.time)
        ∧ t.cores = s.cores ∧ t.tags = s.tags ∧ t.host = s.host ∧ t.hbm = s.hbm ∧ t.fab = s.fab)
    ∧ (timeClocked s = true → skew.natAbs ≤ skewBound → copy16 s.time ≤ copy16 { s.time with skew := skew } →
        Completes (.timeCopyUpdate skew) s fun t =>
          t.time = { s.time with skew := skew } ∧ t.now = snapOf (copy16 t.time)
            ∧ t = { s with time := t.time, now := t.now, trace := t.trace })
    ∧ (stepPending s = true → armed s = 0 → Completes .stepApply s fun t =>
        let n := (((s.time.sec * sec32 + s.time.sub : Nat) : Int) + s.time.corr).toNat
        t.time.sec = n / sec32 % 2 ^ 48 ∧ t.time.sub = n % sec32 ∧ t.time.corr = 0 ∧ stepPending t = false
          ∧ curIncr t = 0x200000000 ∧ regVal t .ttSteps 0 0 0 = regVal s .ttSteps 0 0 0 + 1#64
          ∧ t.cores = s.cores ∧ t.host = s.host)

/-- The master and holdover (R544, R546, R548, R559 to R562): a PPS edge that is not where one may be counts in TT_PPSBAD, any other
measures the offset; time of day is taken only between the 10th and the 990th millisecond after an edge; without edges or exchanges
the device enters HOLDOVER (the event stands for the loss of a follower's exchanges, route or master); past its limit it raises a time fault.
Model choices it rests on: log entries 4, 5 and 26. -/
def Obligations.TimeMasterAndHoldover : Prop :=
  ∀ (jitter : Int) (incr : BitVec 40) (sec : BitVec 48) (who : TtReader) (s : State),
    let ts := stamped (counter16 s.time) jitter
    let e : Int := (ts : Int) - (edgeSecond s ts * sec16 : Nat)
    let offset : Int := max (-2147483648) (min 2147483647 (e / 65536))
    let inside : Prop := ∃ x, s.time.lastEdge = some x ∧ x + ms16 10 ≤ counter16 s.time ∧ counter16 s.time ≤ x + ms16 990
    let holds (t : State) : Prop := ttState t = 3 ∧ t.time.heldSince = counterNs s.time ∧ t.time.good = 0
      ∧ t.time.sec = s.time.sec ∧ t.time.sub = s.time.sub ∧ stepPending t = false
    let m := regFld s .ttCfg 0 0 0 20 12
    (timeClocked s = true → jitterOk jitter = true → incrOk incr.toNat = true → Completes (.ppsInEdge jitter incr) s fun t =>
      (edgeCounts s = false → t = s)
        ∧ (edgeCounts s = true → badEdge s ts = true → t.time.lastEdge = s.time.lastEdge
            ∧ regVal t .ttPpsbad 0 0 0 = BitVec.ofNat 64 ((regFld s .ttPpsbad 0 0 0 0 32 + 1) % 2 ^ 32))
        ∧ (edgeCounts s = true → badEdge s ts = false → t.time.named = none
            ∧ (ttState s ≠ 3 → regVal t .ttOffset 0 0 0 = BitVec.ofNat 64 (unsignedOf 32 offset))
            ∧ (ttState s = 3 → t.time.lastEdge = some ts)))
    ∧ Completes (.ttTod sec) s (fun t =>
        (hostHere s = false → t = s)
          ∧ (hostHere s = true → inside → t.time.named = some sec.toNat ∧ regBit t .ttStatus 0 0 0 5 = false
              ∧ regVal t .ttTod 0 0 0 = sec.setWidth 64)
          ∧ (hostHere s = true → ¬inside → t.time = s.time ∧ regBit t .ttStatus 0 0 0 5 = true))
    ∧ (isMaster s = true → smWorks s = true → (ttState s = 1 ∨ ttState s = 2) → ppsMissing s = true →
        Completes .ppsTimeout s holds)
    ∧ (isMaster s = false → smWorks s = true → (ttState s = 1 ∨ ttState s = 2) → Completes .holdoverTimeout s holds)
    ∧ (ttState s = 3 → m ≠ 0 → m ≤ holdSeconds s →
        ¬(regBit s .ttStatus 0 0 0 7 = true ∧ regFld s .ttStatus 0 0 0 8 2 = 1) →
        Completes .holdoverLimit s fun t => regBit t .ttStatus 0 0 0 7 = true ∧ regFld t .ttStatus 0 0 0 8 2 = 1
          ∧ t.time = s.time ∧ (regBit s .ttCfg 0 0 0 16 = false → t.cores = s.cores ∧ t.problems = s.problems)
          ∧ (regBit s .ttCfg 0 0 0 16 = true → ∀ n i, heldTwait (getSlot s n i) = true → (getSlot t n i).timeUp = true))
    ∧ Completes (.ttSecRead who) s (fun t =>
        (who = .host → hostHere s = false → t = s)
          ∧ (who = .host → hostHere s = true → spGet snapZero 0 t.time.snaps = snapOf (counter16 s.time))
          ∧ (who = .stationmaster → t = { s with time := t.time } ∧ spGet snapZero 64 t.time.snaps = snapOf (counter16 s.time))
          ∧ (who = .dbgacc → t.test.accDone = true ∧ spGet snapZero 65 t.time.snaps = snapOf (counter16 s.time)))

/-- Two-step exchanges and announcements (R550 to R553): an upstream sends Sync and Follow_Up; a follower keeps t2, takes t1, asks
at t3, and the answer's t4 completes the exchange and gives the offset; time packets bring the master's state.
Model choices it rests on: log entries 4, 5 and 26. -/
def Obligations.TimeExchanges : Prop :=
  ∀ (port : Fin 32) (good : Bool) (head : FlitHead) (m : Tsync) (jitter : Int) (incr : BitVec 40) (pkt : PktRef) (s : State),
    let p := port.val
    let hears (i : Instr) (P : State → Prop) : Prop := Completes i s fun t =>
      (portUp s p = false → t = s)
        ∧ (portUp s p = true → good = false → regVal t .klCrcerr p 0 0 = regVal s .klCrcerr p 0 0 + 1#64 ∧ t.fab = s.fab)
        ∧ (portUp s p = true → good = true → head.nak = false → fromUpstream s p = true → P t)
    (portUp s p = true → servesTime s = true → jitterOk jitter = true → Completes (.syncExchangeTimer port jitter) s fun t =>
      (t.fab.wire.drop s.fab.wire.length).length = 2
        ∧ spGet 0 p t.time.seqOut = (spGet 0 p s.time.seqOut + 1) % 65536 ∧ t = { s with fab := t.fab, time := t.time })
    ∧ (hasPort s p = true → jitterOk jitter = true →
        hears (.sync port good head m jitter)
          (fun t => t.time.exchange = some ⟨m.seqid.toNat, none, stamped (copy16 s.time) jitter, none⟩)
        ∧ hears (.followUp port good head m jitter) (fun t =>
            ∀ x, s.time.exchange = some x → x.seqid = m.seqid.toNat → x.t1 = none →
              t.time.exchange = some { x with t1 := some (snap16 (tsyncSnap m)),
                                              t3 := some (stamped (copy16 s.time) jitter) })
        ∧ Completes (.delayReq port good head m jitter) s (fun t =>
            (portUp s p = false → t = s)
              ∧ (portUp s p = true → good = true → head.nak = false → servesTime s = true → ∃ w ∈ t.fab.wire, ∃ y,
                  w.port = p ∧ w.body = .tsync y ∧ y.msg = 3 ∧ y.seqid = m.seqid
                    ∧ y.sec.toNat = (snapOf (stamped (copy16 s.time) jitter)).sec)))
    ∧ (hasPort s p = true → incrOk incr.toNat = true → hears (.delayResp port good head m incr) fun t =>
        ∀ t1 t2 t3, s.time.exchange = some ⟨m.seqid.toNat, some t1, t2, some t3⟩ → t.time.exchange = none
          ∧ regVal t .ttOffset 0 0 0 = BitVec.ofNat 64 (unsignedOf 32 (max (-2147483648) (min 2147483647
              (offsetOf t1 t2 t3 (snap16 (tsyncSnap m)) / 65536)))))
    ∧ (servesTime s = true → Completes .timeAnnounceTimer s fun t =>
        t.inject = s.inject ++ (announceDirs s).map (announcePkt s) ∧ t = { s with inject := t.inject, time := t.time }
          ∧ t.time.announce = (s.time.announce + 1) % 2 ^ 32)
    ∧ (∀ k q c, pktAt s pkt = some (k, some (q, c)) → k.op = 6 → turnOf s pkt k = true → Completes (.time pkt) s fun t =>
        (fromUpstream s q = false → t.time = s.time ∧ t.regs = s.regs)
          ∧ (fromUpstream s q = true → k.args.master = s.fab.timeMaster →
              t.time.mstate = k.args.state ∧ regBit t .ttStatus 0 0 0 6 = decide (k.args.state = 3))
          ∧ (fromUpstream s q = true → k.args.master ≠ s.fab.timeMaster →
              regBit t .ttStatus 0 0 0 7 = true ∧ regFld t .ttStatus 0 0 0 8 2 = 3))

/-! ### The Stationmaster (spec/15) -/

/-- Management commands (R570 to R576, Tables 15.4, 15.5). Over SMBus a Block Write with a wrong PEC answers BAD_PEC, one without a
PEC is discarded beyond READ_LOG, one that the Stationmaster does not serve in its state answers BAD_CMD, and RESTARTING does not
acknowledge; otherwise the answer is the command's. A mailbox command ends with DONE in SM_MBOXSTAT.
Model choices it rests on: log entry 27. -/
def Obligations.ManagementCommands : Prop :=
  ∀ (allot : List Nat) (chk : ImgChk) (pec : Pec) (req : List Byte) (go : Bool) (s : State),
    let rows (v : Via) : List (Instr × Nat) :=
      [(.ident v, 0x01), (.status v, 0x02), (.telemetry v, 0x03), (.readLog v, 0x04), (.setTod v, 0x10), (.setCap v, 0x11),
       (.govCtl v, 0x12), (.govTarget v, 0x13), (.fwStage v, 0x20), (.fwVerify v chk, 0x21), (.fwActivate v allot, 0x22),
       (.fwConfirm v, 0x23), (.fwStatus v, 0x24)]
    let answers (bs : List Byte) (x : SmSt) : State := { s with sm := { x with rsp := bs } }
    let laneFree : Prop := regBit s .govLstat 0 0 0 0 = false
    let out (i : Instr) (bs : List Byte) : Prop := (s.sm.st = 4 → Completes i s (· = s))
      ∧ (s.sm.st ≠ 4 → Completes i s (· = { s with sm := { s.sm with out := s.sm.out ++ [bs] } }))
    mgmtAlive s = true →
    (∀ i code, (i, code) ∈ rows (.smbus pec req) → s.sm.mbox = false → (code = 0x22 → laneFree) →
      (s.sm.st = 4 → Completes i s (· = s))
      ∧ (s.sm.st ≠ 4 → pec = .bad → Completes i s (· = answers [8#8] s.sm))
      ∧ (s.sm.st ≠ 4 → pec = .absent → 4 < code → Completes i s (· = s))
      ∧ (s.sm.st ≠ 4 → pec = .good → s.sm.smbusPend = none → served s code = false → Completes i s (· = answers [1#8] s.sm)))
    ∧ (s.sm.mbox = false → s.sm.st = 2 → s.sm.smbusPend = none →
        let v : Via := .smbus .good req
        let n := leNat req
        Completes (.ident v) s (· = answers (0#8 :: leBytes 1 (stackCount s.variant) ++ leBytes 1 (ioDies s.variant) ++ leBytes 1 0x21
            ++ leBytes 1 (0x60 + regFld s .smStraps 0 0 0 0 3) ++ leBytes 8 s.nv.serial ++ leBytes 4 s.sm.version
            ++ leBytes 2 (boardLimit s.variant)) s.sm)
        ∧ Completes (.status v) s (· = answers (0#8 :: leBytes 1 2 ++ leBytes 1 (regFld s .govStatus 0 0 0 0 2)
            ++ leBytes 1 (regFld s .ttStatus 0 0 0 0 8)
            ++ leBytes 1 (if (unreadOld s .smb ++ unreadNew s .smb).any fun r => 3 ≤ r.sev then 1 else 0)) s.sm)
        ∧ Completes (.telemetry v) s (fun t => t = answers t.sm.rsp s.sm ∧ t.sm.rsp.head? = some 0#8)
        ∧ Completes (.readLog v) s (fun t => t.regs = s.regs
            ∧ (unreadOld s .smb = [] → unreadNew s .smb = [] → t = answers [0#8] s.sm)
            ∧ ∀ r, oldestOf (unreadNew s .smb) = some r → unreadOld s .smb = [] →
                t.sm.rsp = 0#8 :: recBytes r ∧ t.log.curSmbus = r.seq + 1)
        ∧ Completes (.setTod v) s (fun t => t.sm.rsp = (if req.length = 6 then [0#8] else [2#8])
            ∧ (req.length = 6 → t.time = (takeTod s n).time ∧ t.regs = (takeTod s n).regs)
            ∧ (req.length ≠ 6 → t.time = s.time ∧ t.regs = s.regs))
        ∧ Completes (.setCap v) s (· = if req.length = 2 ∧ ¬(1 ≤ n ∧ n ≤ 199) then answers [0#8] { s.sm with capBoard := n }
            else answers [2#8] s.sm)
        ∧ Completes (.govCtl v) s (· = if req.length = 1 ∧ n ≤ 1 then answers [0#8] { s.sm with govWant := decide (n = 1) }
            else answers [2#8] s.sm)
        ∧ Completes (.govTarget v) s (· = if req.length = 4 then answers [0#8] { s.sm with targetWant := n }
            else answers [2#8] s.sm)
        ∧ Completes (.fwStatus v) s (· = answers (0#8 :: leBytes 1 s.sm.upd ++ leBytes 4 s.sm.version ++ leBytes 4 s.sm.staged) s.sm))
    ∧ (∀ i code, (i, code) ∈ rows .mailbox → mboxDue s code = true → (code = 0x22 → laneFree) →
        Completes i s fun t => t.sm.mbox = false ∧ regBit t .smMboxstat 0 0 0 1 = true)
    ∧ out .bootStatusRead (leBytes 4 (bootWord s))
    ∧ out .responseRead (if s.sm.smbusPend.isSome then [3#8] else s.sm.rsp)
    ∧ Completes (.smMboxdb go) s (fun t =>
        (hostHere s = false ∨ go = false ∨ s.sm.st = 4 ∨ s.sm.mbox = true → t = s)
          ∧ (hostHere s = true → go = true → s.sm.st ≠ 4 → s.sm.mbox = false →
              let known := mgmtKnown (leNat ((mboxBytes s).take 1))
              (known = true → t = { s with sm := { s.sm with mbox := true } })
                ∧ (known = false → t.sm.mbox = false ∧ regFld t .smMboxstat 0 0 0 8 8 = 1)))

/-- Firmware update and restarts (R566, R596 to R600, R691 to R693): bytes staged, an image verified, activated and confirmed; the
watchdog restarts the Stationmaster, or, before firmware is ready, the boot; the image that runs again is READY unless the ROM
finds none, and the other planes run on.
Model choices it rests on: log entries 27 and 29. -/
def Obligations.FirmwareUpdate : Prop :=
  ∀ (req : List Byte) (chk a b : ImgChk) (allot : List Nat) (s : State),
    let v : Via := .smbus .good req
    let k := stagingSlot s
    let o := leNat (req.take 4)
    let rule := imageRule s.nv (slotImage s.nv k) chk
    (mgmtAlive s = true → s.sm.mbox = false → smWorks s = true → s.sm.smbusPend = none →
      (s.sm.upd ≠ 3 → 5 ≤ req.length → req.length ≤ 32 → o + (req.length - 4) ≤ 4 * 2 ^ 20 → Completes (.fwStage v) s fun t =>
        t.sm.rsp = [0#8] ∧ t.sm.upd = 1 ∧ t.sm.st = 3 ∧ t.nv = setSlotImage s.nv k (memWrite (slotImage s.nv k) o (req.drop 4)))
      ∧ (s.sm.upd = 1 ∨ s.sm.upd = 2 → Completes (.fwVerify v chk) s fun t => t.nv = s.nv
          ∧ (rule = 0 → t.sm.rsp = 0#8 :: leBytes 4 (imgVersion (slotImage s.nv k)) ∧ t.sm.upd = 2)
          ∧ (rule = 4 → t.sm.rsp = [5#8] ∧ t.sm.upd = 0) ∧ (rule ≠ 0 → rule ≠ 4 → t.sm.rsp = [4#8] ∧ t.sm.upd = 0))
      ∧ (s.sm.upd ≠ 1 → s.sm.upd ≠ 2 → Completes (.fwVerify v chk) s fun t => t.sm.rsp = [6#8] ∧ t.nv = s.nv)
      ∧ (regBit s .govLstat 0 0 0 0 = false → s.sm.upd = 2 → Completes (.fwActivate v allot) s fun t =>
          t.sm.rsp = [0#8] ∧ t.sm.st = 4 ∧ t.sm.restart = .activation ∧ t.nv.active = k ∧ t.nv.dirPending = 1
            ∧ t.nv.arb = s.nv.arb)
      ∧ (regBit s .govLstat 0 0 0 0 = false → s.sm.upd ≠ 2 → Completes (.fwActivate v allot) s fun t =>
          t.sm.rsp = [6#8] ∧ t.nv = s.nv)
      ∧ (s.sm.upd = 3 → Completes (.fwConfirm v) s fun t =>
          let n := max s.nv.arb (imgSvn (slotImage s.nv s.sm.image))
          t.sm.rsp = 0#8 :: leBytes 4 n ∧ t.nv.arb = n ∧ t.nv.dirPending = 0 ∧ t.nv.active = s.nv.active ∧ t.sm.upd = 0)
      ∧ (s.sm.upd ≠ 3 → Completes (.fwConfirm v) s fun t => t.sm.rsp = [1#8] ∧ t.nv = s.nv))
    ∧ (mgmtAlive s = true → smWorks s = true ∨ s.sm.st = 1 → Completes (.watchdogExpiry a b) s fun t =>
        t.nv = s.nv ∧ t.log.seq = s.log.seq + 1
          ∧ (firmwareReady s = false → t.power.phase = 0 ∧ t.sm.st = 0)
          ∧ (firmwareReady s = true → t.sm.st = 4 ∧ t.sm.restart = .watchdog ∧ t.power = s.power))
    ∧ (mgmtAlive s = true → s.sm.st = 4 →
        Completes (.watchdogExpiry a b) s (fun t =>
          (t.sm.st = 4 ∧ t.sm.restart = .watchdog ∨ t.sm.st = 0 ∨ t.sm.st = 5)
            ∧ (firmwareReady s = true → t.power.phase = s.power.phase ∧ t.power.rails = s.power.rails))
        ∧ Completes (.stationmasterReady a b) s (fun t =>
          (romStarted (bootRom s a b) = true → (t.sm.st = 2 ∨ t.sm.st = 3) ∧ t.sm.restart = .none)
            ∧ (romStarted (bootRom s a b) = false → (t.sm.st = 0 ∨ t.sm.st = 5)
                ∧ (firmwareReady s = true → t.power.phase = s.power.phase ∧ t.power.rails = s.power.rails))))

/-- The Sage governor and the thermal limits (R574, R577 to R595): a cycle starts at its boundary with the commanded enable and
target; a usable result sets every clock, an unusable one counts; the fallback rule moves the clocks; temperatures throttle and
release; GOV_LSUBMIT refuses while the lane is busy.
Model choices it rests on: log entries 4, 5 and 28. -/
def Obligations.GovernorEvents : Prop :=
  ∀ (g : GovWrite) (mw allot : List Nat) (temps : List Int) (hbm die : Int) (rail : Nat) (fault : Option (BitVec 16))
    (offset : BitVec 16) (s : State),
    (mgmtAlive s = true → s.sm.cycleAt ≠ some (boundary s) → govWindowOk g = true → mw.length = 4 → ∀ avs,
      Completes (.governorCycleStart g mw avs) s fun t => PlatformKept s t ∧ t.sm.cycleAt = some (boundary s)
        ∧ t.sm.tally = [0, 0, 0, 0]
        ∧ (smWorks s = true → t.sm.govOn = s.sm.govWant ∧ t.sm.target = s.sm.targetWant ∧ t.sm.coreMw = mw)
        ∧ (smWorks s = true → s.sm.govWant = true → s.power.phase = 7 → s.sm.cycleLocal = none →
            regBit s .sbSlvfail 0 0 0 0 = false → regVal t .govCycles 0 0 0 = regVal s .govCycles 0 0 0 + 1#64)
        ∧ (smWorks s = false → t.sm.govOn = s.sm.govOn ∧ t.problems = s.problems))
    ∧ (let late : Prop := (s.sm.cycleAt.getD 0) + 240000 < nsOf s.now
       let done := regBit s .govLstat 0 0 0 1
       let r := govResult s
       smWorks s = true → s.sm.solving = true → (done = true ∨ regBit s .govLstat 0 0 0 2 = true ∨ late) →
       allot.length = 4 → allot.sum ≤ budget s → ∀ avs,
        Completes (.governorProblemEnd allot avs) s fun t => PlatformKept s t ∧ t.sm.solving = false
          ∧ (done = true → r.2.1 = true → ¬late → avs = 0#4 → regFld t .govStatus 0 0 0 4 4 = 0
              ∧ ∀ q, q < 4 → govClk t q = clkTarget s q (r.2.2.getD q .nan))
          ∧ (¬(done = true ∧ r.2.1 = true ∧ ¬late) →
              regFld t .govStatus 0 0 0 4 4 = min 15 (regFld s .govStatus 0 0 0 4 4 + 1)
                ∧ ∀ q, q < 4 → govClk t q = govClk s q))
    ∧ (smWorks s = true → govState s ≠ 1 → s.power.rails = .on → allot.length = 4 →
        Completes (.fallbackTick allot 0#4) s fun t => PlatformKept s t ∧ t.problems = s.problems
          ∧ (effectiveCap s * 1000 < boardPower s → ∀ q, q < 4 → govClk t q =
              (if s.sm.throttle.getLsbD q = true then govClk s q else min (govClk s q) (max 600 (govClk s q - 25)))))
    ∧ (mgmtAlive s = true → temps.length = 4 → (∀ x ∈ temps, x ≤ die) → Completes (.thermalSample temps hbm die allot) s fun t =>
        t.sm.temps = temps ∧ t.sm.hbmTemp = hbm ∧ t.sm.hbmHot = decide (celsius 95 ≤ hbm)
          ∧ t.sm.trip = (s.sm.trip || decide (celsius 115 ≤ die)) ∧ PlatformKept s t
          ∧ ∀ q, q < 4 →
              let x := temps.getD q 0
              t.sm.throttle.getLsbD q = (decide (celsius 105 ≤ x) || s.sm.throttle.getLsbD q && decide (celsius 100 ≤ x))
                ∧ govClk t q = (if s.sm.throttle.getLsbD q = false ∧ celsius 105 ≤ x then 600 else govClk s q))
    ∧ (smWorks s = true → Completes (.railTelemetryPoll rail fault) s fun t => t.sm = { s.sm with railMw := rail }
        ∧ (fault = none → t = { s with sm := t.sm }) ∧ (fault.isSome = true → t.log.seq = s.log.seq + 1))
    ∧ (smWorks s = true → Completes (.govLsubmit offset) s fun t => PlatformKept s t
        ∧ (lsubmitRefused s = true → t.problems = s.problems ∧ regBit t .govLstat 0 0 0 2 = true)
        ∧ (lsubmitRefused s = false → offset.toNat % 64 ≠ 0 → t.problems = s.problems ∧ t.log.seq = s.log.seq + 1)
        ∧ (regBit s .govLstat 0 0 0 0 = true → lsubmitRefused s = true)
        ∧ (offset.toNat % 64 = 0 → regBit s .govLstat 0 0 0 0 = false → laneReserved s = true → s.power.warm = false →
            s.power.dataPlane = false → regFld t .govLsubmit 0 0 0 0 16 = offset.toNat
              ∧ t.nextProblem = s.nextProblem + 1))

/-! ### The Signal Box, fences and repair (spec/16) -/

/-- Divergences fence a sequencer and stop what it runs (R605, R610, R613); self-tests are counted or taken as checker faults
(R606); a fenced core's logical cores move to another host of the station, or are unmapped (R618); a replay starts from its record
(R614). Scrub marks what it cannot correct (R603); an audit that finds its books in balance changes nothing, and otherwise fences,
halts or forces the fallback (R623, Table 16.5); errors that ECC corrects, or cannot, do what Table 16.1 says (R602); a port fence is released after its time (R620); the host log ring takes the next record
(R628); the host cannot write the SB block, and no write of the Stationmaster clears a core fence (R616).
Model choices it rests on: log entries 5, 32, 33, 43, 44 and 45. -/
def Obligations.RepairEvents : Prop :=
  ∀ (core logical : Fin 160) (kind : Fin 5) (r : SelfTest) (a : At) (l : Nat) (unit : Fin 4) (x : Scrubbed) (what : Quantity)
    (upset : Bool) (port : Fin 32) (offset : BitVec 12) (value : W32) (ce : CorrectedAt)
    (ue : UncorrectableAt) (again both : Bool) (chkA chkB : ImgChk) (s : State),
    let p := core.val
    let quiet : Prop := ∀ n ∈ servedBy s p, (getCore s n).halted = false
    let faulted (t : State) : Prop := regVal t .sbChecker 0 0 0 = regVal s .sbChecker 0 0 0 + 1#64
      ∧ (regBit s .sbCkpolicy 0 (p / 32) 0 (p % 32) = true → regBit t .sbCstat 0 p 0 2 = true)
      ∧ (regBit s .sbCkpolicy 0 (p / 32) 0 (p % 32) = false → fenceMode t p = 1)
    (compares s p = true → hostOf s logical.val = some p → (getCore s logical.val).halted = false →
      Completes (.divergence core logical kind) s fun t => fenceMode t p = 1
        ∧ regVal t .sbDiverge 0 0 0 = regVal s .sbDiverge 0 0 0 + 1#64
        ∧ ∀ n ∈ servedBy s p, ∀ i, (getSlot t n i).phase ≠ .running)
    ∧ (compares s p = true → quiet → Completes (.selfTest core r) s fun t =>
        (r = .caught → regVal t .sbSelftest 0 0 0 = regVal s .sbSelftest 0 0 0 + 1#64
            ∧ getCore t p = { getCore s p with injPoint := ((getCore s p).injPoint + 1) % 1024 }
            ∧ ∀ n, n ≠ p → getCore t n = getCore s n)
          ∧ (r = .missed ∨ r = .parity → faulted t))
    ∧ (∀ q, hostOf s logical.val = some q → smWorks s = true → remapDue s logical.val q = true →
        Completes (.remap logical) s fun t => hostOf t logical.val = newHost s q
          ∧ (∀ n, n < 160 → n ≠ logical.val → hostOf t n = hostOf s n) ∧ t.cores = s.cores)
    ∧ ((theSlot s a).phase = .diverged → seqWorks s a.core.val = true → drained s a.core.val a.slot = true →
        planeUp s = true → Completes (.replayStart a) s fun t =>
          let y := theSlot s a
          let z := theSlot t a
          z.phase = .running ∧ z.pc = y.replay.pc ∧ z.g = y.replay.g ∧ z.f = y.replay.f ∧ z.fflags = y.replay.fflags
            ∧ z.frm = y.replay.frm ∧ z.statsum = y.replay.statsum ∧ z.lfsr = y.replay.lfsr ∧ z.replaying.isSome = true
            ∧ PlatformKept s t ∧ ∀ n, n ≠ a.core.val → getCore t n = getCore s n)
    ∧ (memoryOn s = true → 128 * l < installed s.variant → channelFailed s (channelOf s.variant (128 * l)) = false →
        Completes (.scrub l unit x) s fun t => t.hbm = s.hbm ∧ (x = .clean → t = s) ∧ (x = .corrected → t.hbmPoison = s.hbmPoison)
          ∧ (x = .uncorrectable → spGet false (4 * l + unit.val) t.hbmPoison = true ∧ t.log.seq = s.log.seq + 1
              ∧ ∀ k, k ≠ 4 * l + unit.val → spGet false k t.hbmPoison = spGet false k s.hbmPoison))
    ∧ (correctedDue s ce = true → Completes (.correctedError ce again) s fun t =>
        t.hbm = s.hbm ∧ t.cores = s.cores ∧ t.tags = s.tags
          ∧ ((∀ i w, ce ≠ .way i w) → t.slices = s.slices)
          ∧ ∀ k, ce = .link k → let n := if again = true then spGet 0 (linkIndex k) s.linkRetry + 1 else 1
              spGet 0 (linkIndex k) t.linkRetry = n ∧ (n = 16 → t.log.fatal = true ∧ t.host.cmds = []))
    ∧ (uncorrectableDue s ue = true → Completes (.uncorrectableDataError ue both chkA chkB) s fun t =>
        (∀ i w x u, ue = .line i w x u → lineAt (getSlice t i.val) w.val x.val = none ∧ (getSlice t i.val).faultUe.getLsbD w.val = true)
          ∧ (∀ q w, ue = .localStore q w → fenceMode t q.val = 2 ∨ spGet false w.val (getCore t q.val).lsPoison = true)
          ∧ (∀ q e, ue = .accumulator q e → fenceMode t q.val = 2 ∨ spGet false e.val (getCore t q.val).accBad = true)
          ∧ (∀ q, ue = .instructionCache q → t.cores = s.cores ∧ t.tags = s.tags ∧ t.hbm = s.hbm)
          ∧ (∀ q, ue = .queues q → fenceMode t q.val = 2)
          ∧ (ue = .tag → t.log.fatal = true ∧ t.host.cmds = [])
          ∧ (∀ k ctx step, ue = .merge k ctx step →
              ∀ y ∈ (getRmu t k.val).windows, y.ctx = ctx.val → y.step = step → y.upset = true)
          ∧ (∀ ctx y n c, ue = .panel ctx y n c → findLayer t ctx.val y.toNat
              = (findLayer s ctx.val y.toNat).map fun z => panelUpset z n.val c.val)
          ∧ (∀ ctx y n j k c, ue = .lane ctx y n j k c → findLayer t ctx.val y.toNat
              = (findLayer s ctx.val y.toNat).map fun z => laneUpset z n.val j.val k.val c.val)
          ∧ (∀ ctx y n j k, ue = .holdBuffer ctx y n j k → findLayer t ctx.val y.toNat
              = (findLayer s ctx.val y.toNat).map fun z => holdUpset z n.val j.val k.val)
          ∧ (∀ k u, ue = .hbm k u → spGet false (4 * k + u.val) t.hbmPoison = true)
          ∧ (ue = .sram → firmwareReady s = true → s.sm.st ≠ 4 → t.sm.st = 4 ∧ t.sm.restart = .watchdog)
          ∧ ∀ q i, ue = .replay q i → (getSlot t q.val i).replay.spent = (both || (getSlot s q.val i).replay.spent))
    ∧ (auditDue s what = true → firmwareReady s = true → Completes (.conservationAudit what upset) s fun t =>
        let out : Prop := upset = true ∨ what = .allotments ∧ budget s < allotted s
        (¬out → t = s)
          ∧ (out → (∀ q c, what = .credits q c → portUp t q.val = false)
              ∧ (what = .tagsQuota ∨ what = .tagsExpress ∨ what = .tagsFabric ∨ what = .tagsParcel →
                  t.log.fatal = true ∧ t.log.dpHalted = true)
              ∧ (∀ q, what = .tokens q ∨ what = .queues q → fenceMode t q.val = 2)
              ∧ (what = .allotments → 4 ≤ regFld t .govStatus 0 0 0 4 4)))
    ∧ (smWorks s = true → regBit s .sbPortfence 0 0 0 port.val = true →
        (∀ at_, (getPort s port.val).fencedAt = some at_ → at_ + 600000000000 ≤ opNs (nowOp s)) →
        (getPort s port.val).fencedAt ≠ none → Completes (.portFenceRelease port) s fun t =>
          regBit t .sbPortfence 0 0 0 port.val = false ∧ (getPort t port.val).fencedAt = none
            ∧ ∀ q, q < 32 → q ≠ port.val → regBit t .sbPortfence 0 0 0 q = regBit s .sbPortfence 0 0 0 q)
    ∧ (∀ y, ringNext s = some y → hostHere s = true → regBit s .logRcfg 0 0 0 31 = true → ringFull s = false →
        regFld s .logRcfg 0 0 0 0 5 ≤ 16 → Completes .hostLogRingWrite s fun t =>
          Post.write 0 (regFld s .logRbase 0 0 0 12 52 * 4096 + 32 * regFld s .logRtail 0 0 0 0 16) (recBytes y) false
              plainAttr ∈ posted t ++ t.host.heldPosts.map (·.2.2)
            ∧ regFld t .logRtail 0 0 0 0 16 = (regFld s .logRtail 0 0 0 0 16 + 1) % 2 ^ regFld s .logRcfg 0 0 0 0 5
            ∧ ∀ z ∈ t.log.central, z.seq = y.seq → z.toHost = true)
    ∧ Completes (.sbRegisterWrite true offset value) s (fun t => (hostHere s = false → t = s)
        ∧ SameRegsBut [regAddr .logLost 0 0 0] s t ∧ t.cores = s.cores ∧ t.slices = s.slices ∧ t.fab = s.fab)
    ∧ (smWorks s = true → Completes (.sbRegisterWrite false offset value) s fun t =>
        (∀ n, n < 160 → fenceMode s n ≤ fenceMode t n) ∧ t.variant = s.variant ∧ t.nv = s.nv)

/-! ### Power, resets and bring-up (spec/18, spec/19) -/

/-- Cold reset leaves flash and OTP, samples the straps when it ends, and raises the rails step by step (R663, R682, R684); a
power-good that does not come stops the boot; PWRDN_N ends every command and takes the rails down (R667); references come and go
(R673); PERST_N starts and ends a warm reset (R687); each phase of bring-up hands over to the next, or stops the boot (R695 to
R697); a channel that fails its third training is fenced (R696); resets complete (R682, R686).
Model choices it rests on: log entries 5, 29, 30, 31 and 34. -/
def Obligations.PowerAndBringUp : Prop :=
  ∀ (straps : BitVec 6) (ref : RefPin) (chkA chkB : ImgChk) (links : BitVec 4) (fatal : Option (Fin 32))
    (units : List FenceUnit) (channel : Fin 128) (ok : Bool) (fn : Fin 64) (k : Nat) (s : State),
    let p := s.power
    let phase (n : Nat) : Prop := p.por = false ∧ p.phase = n ∧ p.rails = .on
    let stops (t : State) : Prop := t.power.phase = 15 ∧ t.power.bootFatal = true ∧ t.power.rails = .failed
    (p.por = false → Completes .porNFall s fun t =>
      t.power.por = true ∧ t.power.phase = 0 ∧ t.regs = [] ∧ t.cores = [] ∧ t.tags = [] ∧ t.hbm = [] ∧ t.slices = []
        ∧ t.nv = s.nv ∧ t.pending = s.pending ∧ t.variant = s.variant ∧ t.host.cmds = [] ∧ t.log.central = [])
    ∧ (p.por = true → Completes (.porNRelease straps) s fun t =>
        t.power.por = false ∧ t.power.rails = .rising 1 ∧ regVal t .smStraps 0 0 0 = straps.setWidth 64 ∧ t.nv = s.nv
          ∧ t.cores = s.cores ∧ regBit t .dbgCtl 0 0 0 31 = s.nv.dbgLock)
    ∧ (p.por = false → p.rails = .rising k →
        Completes .powerUpStep s (fun t => t.power = { p with rails := if k < 8 then .rising (k + 1) else .on }
          ∧ t = { s with power := t.power, regs := t.regs })
        ∧ Completes .powerGoodTimeout s (fun t => stops t ∧ (p.bootFatal = false → t.power.code = 1 ∧ t.power.arg = k % 256)))
    ∧ (p.por = false → p.pwrdn = false → Completes .pwrdnN s fun t =>
        t.power.rails = .down ∧ t.power.pwrdnDone = true ∧ t.host.cmds = [] ∧ t.host.linkUp = false ∧ t.nv = s.nv)
    ∧ (p.por = false → p.lost.contains (lostRef ref) = false → Completes (.referenceLoss ref) s fun t =>
        t.power.lost.contains (lostRef ref) = true ∧ (ref = .pe → t.host.linkUp = false)
          ∧ (∀ d, ref = .ser d → ∀ q ∈ portsOfDie s d.val, portUp t q = false) ∧ (ref = .ser 0 → t.log.fatal = true)
          ∧ (ref = .mclk → smWorks s = true → t.sm.st = 4))
    ∧ (p.por = false → p.lost.contains (lostRef ref) = true → Completes (.referenceReturn ref) s fun t =>
        (ref = .ser 0 → t = s) ∧ (ref ≠ .ser 0 → t.power.lost.contains (lostRef ref) = false))
    ∧ (p.por = false → p.perst = false → Completes .perstNFall s fun t =>
        t.power.perst = true ∧ t.host.linkUp = false
          ∧ (firmwareReady s = true → t.power.warm = true ∧ t.power.dataPlane = true ∧ (p.dataPlane = false → t.tags = [])))
    ∧ (p.por = false → p.perst = true → Completes .perstNRelease s fun t =>
        t.power = { p with perst := false } ∧ t.tags = s.tags ∧ t.hbm = s.hbm ∧ t.regs = s.regs)
    ∧ (phase 0 → p.booted = false → Completes (.bringupPhaseEnd (.rom chkA chkB)) s fun t =>
        t.power.phase = 1 ∧ t.power.booted = true ∨ t.power.phase = 14 ∨ t.power.phase = 15)
    ∧ (phase 1 → Completes (.bringupPhaseEnd (.links links)) s fun t =>
        (links.getLsbD 0 = true → stops t) ∧ (links.getLsbD 0 = false → t.power.phase = 2))
    ∧ (phase 2 → Completes (.bringupPhaseEnd (.arrays fatal units)) s fun t =>
        (fatal.isSome = true → stops t) ∧ (fatal = none → t.power.phase = 3))
    ∧ (phase 3 → (∀ c, c < channels s.variant → spGet false c p.trained = true ∨ channelFailed s c = true) →
        Completes (.bringupPhaseEnd .hbm) s fun t =>
          ((∃ c, c < channels s.variant ∧ spGet false c p.trained = true) → t.power.phase = 4)
            ∧ ((∀ c, c < channels s.variant → spGet false c p.trained = false) → stops t))
    ∧ (phase 4 → Completes (.bringupPhaseEnd .hbmInit) s fun t => t.power.phase = 5 ∧ t.hbm = [] ∧ t.own = [])
    ∧ (phase 5 → Completes (.bringupPhaseEnd .control) s fun t => t.power.phase = 6 ∧ t.sm.st = 2 ∧ firmwareReady t = true)
    ∧ (phase 6 → discovered s = true → Completes (.bringupPhaseEnd .fabric) s fun t =>
        t.power.phase = 7 ∧ t.sm.govOn = !regBit s .smStraps 0 0 0 4)
    ∧ (p.por = false → p.phase = 3 → channel.val < channels s.variant → spGet false channel.val p.trained = false →
        channelFailed s channel.val = false → Completes (.hbmTrainingAttempt channel ok) s fun t =>
          (ok = true → spGet false channel.val t.power.trained = true ∧ t.regs = s.regs)
            ∧ (ok = false → spGet 0 channel.val t.power.tries = spGet 0 channel.val p.tries + 1
                ∧ channelFailed t channel.val = decide (spGet 0 channel.val p.tries = 2)))
    ∧ (s.host.ctxResetBusy.isSome = true → Completes (.resetComplete .context) s fun t =>
        t = { s with host := { s.host with ctxResetBusy := none } })
    ∧ (spGet false fn.val s.host.resetting = true → p.dataPlane = false → Completes (.resetComplete (.function fn)) s fun t =>
        spGet false fn.val t.host.resetting = false ∧ t = { s with host := t.host }
          ∧ (s.host.fnResetBusy = some fn.val → t.host.fnResetBusy = none))
    ∧ (p.dataPlane = true → p.warm = false → Completes (.resetComplete .dataPlane) s fun t =>
        t.power = { p with dataPlane := false } ∧ t.log.dpHalted = false ∧ spGet false 0 t.host.resetting = false
          ∧ t.cores = s.cores)
    ∧ (p.warm = true → p.perst = false → Completes (.resetComplete .warm) s fun t =>
        t.power = { p with dataPlane := false, warm := false } ∧ t.log = s.log ∧ t.cores = s.cores)

/-! ### The test access port and debug (spec/20) -/

/-- JTAG (R715 to R717, R728, R729): what each instruction captures and what the pins follow; the boundary-drive instructions take the
part out of service; DBGACC is dead while OTP locks debug. Debug mode (R718 to R724): HALT, RESUME and STEP of a sequencer pair,
the registers of a halted core, the accumulator view. Trace and port tests (R727, R730, R734).
Model choices it rests on: log entries 5, 9, 39, 40 and 41. -/
def Obligations.DebugAndTest : Prop :=
  ∀ (cells : List Bool) (opcode : BitVec 8) (write : Bool) (word : BitVec 38) (data value : W32) (who : Requester)
    (core : Fin 160) (slot : SlotId) (r : Reg) (v : W64) (tile row : Fin 16) (col : Fin 32) (s : State),
    let p := core.val
    let tap (i : Instr) (ir dr : Nat) (pins : PinDrive) : Prop :=
      Completes i s (· = { s with test := { s.test with ir := ir, dr := dr, pins := pins } })
    let at_ (x : RegName) (i j : Nat) : Prop := reaches s who (regAddr x p i j) = true ∧ fnOfWho who = 0
    let acts : Prop := reaches s who (regAddr .dbgCmd p 0 0) = true ∧ fnOfWho who = 0
    let idle (t : State) : Prop := t.cores = s.cores
    (∃ d, tap .idcode 0x01 d .core ∧ d % 2 = 1 ∧ d / 2 ^ 12 % 2 ^ 16 = 0x0C60 ∧ d / 2 ^ 28 = 2)
    ∧ Completes (.samplePreload cells) s (fun t => t.test.boundary = cells ∧ t.test.ir = 2 ∧ t = { s with test := t.test })
    ∧ (([0x01, 0x02, 0x03, 0x04, 0x05, 0x06, 0x07, 0x10, 0x11] : List Nat).contains opcode.toNat = false →
        tap (.bypass opcode) 0xFF 0 .core)
    ∧ tap .bootstat 0x10 (bootWord s) .core
    ∧ (∀ i ir pins, (i, ir, pins) ∈ [(Instr.extest, 3, PinDrive.boundary), (.clamp, 4, .held), (.highz, 5, .floating),
          (.extestPulse, 6, .boundary), (.extestTrain, 7, .boundary)] →
        Completes i s fun t => t.test.ir = ir ∧ t.test.pins = pins ∧ t.power.drive = true ∧ planeUp t = false
          ∧ (s.power.por = false → t.power.dataPlane = true ∧ t.host.linkUp = false ∧ ∀ q, q < ports s.variant → portUp t q = false))
    ∧ Completes (.dbgacc write word data) s (fun t => t.test.ir = 0x11
        ∧ (dbgLocked s = true → t = { s with test := t.test } ∧ t.test.accData = s.test.accData)
        ∧ (dbgLocked s = false → t.test.accDone = true
            ∧ (inControl (4 * word.toNat) = false → t = { s with test := t.test } ∧ (write = false → t.test.accData = 0))))
    ∧ Completes (.halt who core) s (fun t => (debugMode s = false → idle t)
        ∧ (acts → debugMode s = true → haltedAt s p = false → ∀ n ∈ servedBy s p, (getCore t n).halted = true))
    ∧ Completes (.resume who core) s (fun t => (haltedAt s p = false → idle t)
        ∧ (acts → haltedAt s p = true → ∀ n ∈ servedBy s p,
            (getCore t n).halted = false ∧ (getCore t n).skipBp = runningSlots (getCore s n)))
    ∧ Completes (.step who core slot) s (fun t => ∀ n, seqOf s p = some n →
        ((getCore s n).halted = false → idle t)
          ∧ (acts → (getCore s n).halted = true → (getCore t n).stepping = some slot))
    ∧ Completes (.dbgCtl who value) s (fun t =>
        (s.test.locked = true → debugMode t = debugMode s)
          ∧ (reaches s who (regAddr .dbgCtl 0 0 0) = true → fnOfWho who = 0 →
              (s.test.locked = false → regBit s .dbgCtl 0 0 0 31 = false → debugMode t = value.getLsbD 0)
              ∧ (s.test.locked = false → regBit s .dbgCtl 0 0 0 31 = true → debugMode t = false)
              ∧ (value.getLsbD 1 = true → t.test.locked = true)))
    ∧ (∀ n, seqOf s p = some n → (getCore s n).halted = true →
        Completes (.debugRegisterAccess who core (.g slot r) (some v)) s (fun t =>
          at_ .dbgG (slotNum slot) r.toNat → r ≠ 0#5 → getG (getSlot t n slot) r = v)
        ∧ Completes (.debugRegisterAccess who core (.f slot r) (some v)) s (fun t =>
          at_ .dbgF (slotNum slot) r.toNat → getF (getSlot t n slot) r = v)
        ∧ Completes (.debugRegisterAccess who core (.pc slot) (some v)) s (fun t =>
          at_ .dbgPc (slotNum slot) 0 → (getSlot t n slot).pc = v.setWidth 48)
        ∧ Completes (.debugRegisterAccess who core (.g slot r) none) s (fun t =>
          who = .hw0 0 → at_ .dbgG (slotNum slot) r.toNat →
            posted t = posted s ++ [.readDone (leBytes 8 (getG (getSlot s n slot) r).toNat) false]))
    ∧ ((∀ n, seqOf s p = some n → (getCore s n).halted = false) → ∀ x w,
        Completes (.debugRegisterAccess who core x w) s idle)
    ∧ Completes (.accumulatorViewRead who core tile row col) s (fun t => idle t
        ∧ (who = .hw0 0 → reaches s who (blkBase .core p) = true → posted t = posted s ++ [.readDone (leBytes 8
            (if accOpen s p = true ∧ spGet [] tile.val (getCore s p).score = []
             then (spGet 0#64 (tile.val * 512 + row.val * 32 + col.val) (getCore s p).acc).toNat else 0)) false]))
    ∧ Completes (.arm who) s (fun t => reaches s who (regAddr .dbgTrcmd 0 0 0) = true → fnOfWho who = 0 →
        t.trace = { s.trace with armed := true, triggered := false, left := 0, wptr := 0 })
    ∧ Completes (.stop who) s (fun t => reaches s who (regAddr .dbgTrcmd 0 0 0) = true → fnOfWho who = 0 →
        t = { s with trace := { s.trace with armed := false } })
    ∧ Completes (.dbgPorttest who value) s (fun t => reaches s who (regAddr .dbgPorttest 0 0 0) = true → fnOfWho who = 0 →
        let q := value.toNat % 32
        let good := portTestOk s q (value.toNat / 32 % 4)
        (value.getLsbD 31 = true → (good = true → t.test.portTest = some q ∧ regBit t .dbgPorttest 0 0 0 30 = false)
            ∧ (good = false → t.test = s.test ∧ regBit t .dbgPorttest 0 0 0 30 = true))
          ∧ (value.getLsbD 31 = false → t.test = s.test))

/-! ### Control registers (spec/00, spec/07, spec/10 to spec/13, spec/16) -/

/-- R112: a write to SEQ_TAGQUOTA takes effect only when the quota lies in 1 to 48 and all quotas together do not exceed the pool's 3840
tags; otherwise the quota stays and QUOTA_REFUSED is posted.
Model choices it rests on: log entries 35 and 44. -/
def Obligations.QuotaWrites : Prop :=
  ∀ (who : Requester) (logical : Fin 160) (value : W32) (s : State),
    let q := value.toNat % 64
    let others := ((List.range 160).map fun m => if m = logical.val then 0 else regFld s .seqTagquota 0 m 0 0 6).sum
    let fits : Prop := 1 ≤ q ∧ q ≤ 48 ∧ others + q ≤ 3840
    reaches s who (regAddr .seqTagquota 0 logical.val 0) = true → fnOfWho who = 0 →
    Completes (.seqTagquota who logical value) s fun t =>
      (fits → regFld t .seqTagquota 0 logical.val 0 0 6 = q ∧ OnlyRegs [regAddr .seqTagquota 0 logical.val 0] s t)
        ∧ (¬fits → (∀ m, m < 160 → regVal t .seqTagquota 0 m 0 = regVal s .seqTagquota 0 m 0)
            ∧ t = post s .quotaRefused 0 0 none 0 0)

/-- Writes to the registers that act, or refuse, when they are written, by the host's physical function, DBGACC or the
Stationmaster; a requester that does not reach the register changes nothing: SEQ_EXPRESS (R126), RC_SALT
(R374), RC_LFSR (R383), RC_CLASSMASK and RC_RESERVE (R382), RMU_MTREG (R314), DSP_LDEV (R317), XL_CTXBIND (R406), XL_SEGTBASE and
XL_MIRROR (R418), the windows (R450, R452), the fault ring (R435).
Model choices it rests on: log entries 9, 35, 36 and 37. -/
def Obligations.RegisterRows : Prop :=
  ∀ (who : Requester) (core : Fin 160) (slice : Fin 20) (ctx : Fin 64) (k : Fin 8) (w : Fin 16) (value : W32) (wide : W64)
      (s : State),
    let wrote (r : RegName) (u i j : Nat) (P : State → Prop) (t : State) : Prop :=
      (reaches s who (regAddr r u i j) = false → t = s)
        ∧ (reaches s who (regAddr r u i j) = true → fnOfWho who = 0 → P t)
    let n := core.val
    let c := ctx.val
    let low (m : Nat) : Nat := value.toNat % 2 ^ m
    let same (r : RegName) (i : Nat) (t : State) : Prop := regVal t r 0 i 0 = regVal s r 0 i 0 ∧ t.log.seq = s.log.seq + 1
    let window (r : RegName) (t : State) : Prop := OnlyRegs [regAddr r 0 c w.val] s { t with winOld := s.winOld }
      ∧ t.winOld = s.winOld ++ [(regAddr r 0 c w.val, regVal s r 0 c w.val, 64)]
    let held := (List.range 16).any fun x => wayState (getSlice s slice.val) x == 2 || wayState (getSlice s slice.val) x == 3
    Completes (.seqExpress who core value) s (wrote .seqExpress n 0 0 fun t => ∀ m, m ≠ n → getCore t m = getCore s m)
    ∧ Completes (.seqExpress who core value) s (wrote .seqExpress n 0 0 fun t =>
        (slotBusy (getCore s n).bulk = true ∨ slotBusy (getCore s n).express = true →
          getCore t n = { getCore s n with expressPend := some (value.getLsbD 0) })
        ∧ (slotBusy (getCore s n).bulk = false → slotBusy (getCore s n).express = false →
          (getCore t n).expressEn = value.getLsbD 0 ∧ (getCore t n).expressPend = none))
    ∧ Completes (.rcSalt who slice value) s (wrote .rcSalt slice.val 0 0 fun t =>
        (held = false → getSlice t slice.val = { getSlice s slice.val with salt := low 13 } ∧ t = { s with slices := t.slices })
          ∧ (held = true → t.slices = s.slices ∧ t.log.seq = s.log.seq + 1))
    ∧ Completes (.rcLfsr who slice value) s (wrote .rcLfsr slice.val 0 0 fun t => getSlice t slice.val = { getSlice s slice.val with
        lfsr := if value.setWidth 16 = 0#16 then 1#16 else value.setWidth 16 } ∧ t = { s with slices := t.slices })
    ∧ Completes (.rcClassmask who (some k) value) s (wrote .rcClassmask 0 k.val 0 fun t => regFld t .rcClassmask 0 k.val 0 0 16 = low 16
        ∧ OnlyRegs [regAddr .rcClassmask 0 k.val 0] s t)
    ∧ Completes (.rcClassmask who none value) s (wrote .rcReserve 0 0 0 fun t => regFld t .rcReserve 0 0 0 0 16 = low 16
        ∧ OnlyRegs [regAddr .rcReserve 0 0 0] s t)
    ∧ Completes (.rmuMtreg who ctx wide) s (wrote .rmuMtreg 0 c 0 fun t =>
        (64 < wide.toNat % 128 ∨ windowOpen s c = true → same .rmuMtreg c t)
          ∧ (wide.toNat % 128 ≤ 64 → windowOpen s c = false → regFld t .rmuMtreg 0 c 0 0 7 = wide.toNat % 128
              ∧ regFld t .rmuMtreg 0 c 0 12 28 = wide.toNat / 2 ^ 12 % 2 ^ 28 ∧ OnlyRegs [regAddr .rmuMtreg 0 c 0] s t))
    ∧ Completes (.dspLdev who ctx value) s (wrote .dspLdev 0 c 0 fun t => regFld t .dspLdev 0 c 0 0 10 = low 10
        ∧ OnlyRegs [regAddr .dspLdev 0 c 0] s t)
    ∧ Completes (.xlCtxbind who ctx wide) s (wrote .xlCtxbind 0 c 0 fun t => (ctxWorks s c = true → same .xlCtxbind c t)
        ∧ (ctxWorks s c = false → ctxValid t c = wide.getLsbD 0 ∧ fnOf t c = wide.toNat / 2 % 64
            ∧ OnlyRegs [regAddr .xlCtxbind 0 c 0] s t))
    ∧ (∀ mirror, Completes (.xlSegtbase who mirror wide) s (wrote (if mirror = true then .xlMirror else .xlSegtbase) 0 0 0 fun t =>
        let r : RegName := if mirror then .xlMirror else .xlSegtbase
        let base := wide.toNat / 2 ^ 15 % 2 ^ 25
        let bad : Prop := anyValid s = true
          ∨ mirror = false ∧ (wide.toNat % 2 ^ 15 ≠ 0 ∨ installed s.variant < base * 2 ^ 15 + 2 ^ 15)
        (bad → same r 0 t) ∧ (¬bad → OnlyRegs [regAddr r 0 0 0] s t
          ∧ (if mirror = true then regFld t r 0 0 0 15 49 = wide.toNat / 2 ^ 15 else regFld t r 0 0 0 15 25 = base))))
    ∧ Completes (.xlIwin who ctx w .ctl wide) s (wrote .xlIwctl 0 c w.val fun t => regFld t .xlIwctl 0 c w.val 0 5 = wide.toNat % 32
        ∧ window .xlIwctl t)
    ∧ Completes (.xlIwin who ctx w .len wide) s (wrote .xlIwlen 0 c w.val fun t => regFld t .xlIwlen 0 c w.val 0 32 = wide.toNat % 2 ^ 32
        ∧ window .xlIwlen t)
    ∧ Completes (.xlIwin who ctx w .base wide) s (wrote .xlIwbase 0 c w.val fun t => regFld t .xlIwbase 0 c w.val 16 24 = wide.toNat / 2 ^ 16 % 2 ^ 24
        ∧ window .xlIwbase t)
    ∧ Completes (.xlIwin who ctx w .box wide) s (wrote .xlIwbox 0 c w.val fun t => regFld t .xlIwbox 0 c w.val 0 48 = wide.toNat % 2 ^ 48
        ∧ window .xlIwbox t)
    ∧ Completes (.xlFrhead who value) s (wrote .xlFrhead 0 0 0 fun t => regFld t .xlFrhead 0 0 0 0 16 = low 16 ∧ PlatformKept s t
        ∧ (s.batchHeld = [] → OnlyRegs [regAddr .xlFrhead 0 0 0] s t))
    ∧ Completes (.xlFrbase who wide) s (wrote .xlFrbase 0 0 0 fun t => regFld t .xlFrbase 0 0 0 12 52 = wide.toNat / 2 ^ 12 ∧ PlatformKept s t
        ∧ (s.batchHeld = [] → OnlyRegs [regAddr .xlFrbase 0 0 0] s t))

/-- Queue pairs, rings, the Junction's lock and the host log ring (R460, R477, R478, R512, R735); reads that clear (R17); and what any
register write meets: another size or alignment than HW0 takes is discarded with a record (R457), a function that cannot be reached
changes nothing (R456, R486), the configuration space answers (R454), takes its bits, or asks for a retry (R45, R444, R479).
Model choices it rests on: log entries 9, 35, 36, 37 and 38. -/
def Obligations.HostRegisterAccess : Prop :=
  ∀ (ctx fn : Fin 64) (q : Fin 8) (value : W32) (wide : W64) (offset : BitVec 26) (data : List Byte) (on : Bool) (e : Fin 32)
    (log : Fin 9) (what : CfgItem) (len : Nat) (who : Requester) (s : State),
    let me : Requester := .hw0 0
    let c := ctx.val
    let wrote (r : RegName) (i j : Nat) (P : State → Prop) (t : State) : Prop :=
      (reaches s who (regAddr r 0 i j) = false → t = s)
        ∧ (reaches s who (regAddr r 0 i j) = true → fnOfWho who = 0 ∨ ctxReg r = true ∧ ownsCtx s who (some i) = true → P t)
        ∧ (reaches s who (regAddr r 0 i j) = true → fnOfWho who ≠ 0 → ctxReg r = true → ownsCtx s who (some i) = false →
            t = denied s (fnOfWho who) i)
    let was := regVal s .dspQctl 0 c q.val
    let sized : Prop := fGet was 8 5 = wide.toNat / 2 ^ 8 % 32 ∧ fGet was 1 1 = wide.toNat / 2 % 2
    let range : Prop := 4 ≤ wide.toNat / 2 ^ 8 % 32 ∧ wide.toNat / 2 ^ 8 % 32 ≤ 16
    let open_ : Prop := hostHere s = true ∧ spGet false 0 s.host.d3 = false ∧ spGet false 0 s.host.resetting = false
    Completes (.dspQctl who ctx q .ctl wide) s (wrote .dspQctl c q.val fun t =>
        (range → qEnabled s c q.val = false → ctxValid s c = true → wide.getLsbD 0 = true →
          qEnabled t c q.val = true ∧ getQueue t c q.val = queueReset ∧ qSize t c q.val = 2 ^ (wide.toNat / 2 ^ 8 % 32))
        ∧ (range → qEnabled s c q.val = false → ctxValid s c = false → wide.getLsbD 0 = true →
          qEnabled t c q.val = false ∧ t.log.seq = s.log.seq + 1)
        ∧ (range → qEnabled s c q.val = true → ¬sized →
          regVal t .dspQctl 0 c q.val = was ∧ t.host = s.host ∧ t.log.seq = s.log.seq + 1)
        ∧ (range → qEnabled s c q.val = true → sized → wide.getLsbD 0 = false →
          qEnabled t c q.val = false ∧ getQueue t c q.val = getQueue s c q.val)
        ∧ (¬range → regVal t .dspQctl 0 c q.val = was ∧ t.log.seq = s.log.seq + 1))
    ∧ (∀ r x, (r, x) ∈ [(QueueReg.sqBase, RegName.dspQsqbase), (.cqBase, .dspQcqbase), (.taken, .dspQtaken)] →
        Completes (.dspQctl who ctx q r wide) s (wrote x c q.val fun t =>
          (qEnabled s c q.val = true → regVal t x 0 c q.val = regVal s x 0 c q.val ∧ t.log.seq = s.log.seq + 1)
            ∧ (qEnabled s c q.val = false → regFld t x 0 c q.val 12 52 = wide.toNat / 2 ^ 12
                ∧ OnlyRegs [regAddr x 0 c q.val] s t)))
    ∧ Completes (.dspQctl who ctx q .irq wide) s (wrote .dspQirq c q.val fun t =>
        regFld t .dspQirq 0 c q.val 15 17 % 2 = wide.toNat / 2 ^ 15 % 2
          ∧ (if wide.toNat % 2048 / 32 = fnOf s c then regFld t .dspQirq 0 c q.val 0 11 = wide.toNat % 2048
             else regFld t .dspQirq 0 c q.val 0 11 = regFld s .dspQirq 0 c q.val 0 11 ∧ t.log.seq = s.log.seq + 1))
    ∧ Completes (.dspPring who ctx false wide) s (wrote .dspPring c 0 fun t => regFld t .dspPring 0 c 0 12 52 = wide.toNat / 2 ^ 12
        ∧ OnlyRegs [regAddr .dspPring 0 c 0] s t)
    ∧ Completes (.dspPring who ctx true wide) s (wrote .dspPringcfg c 0 fun t =>
        let size := wide.toNat % 16
        (size < 4 ∨ 12 < size → regVal t .dspPringcfg 0 c 0 = regVal s .dspPringcfg 0 c 0 ∧ t.log.seq = s.log.seq + 1)
          ∧ (4 ≤ size → size ≤ 12 → ringSize t c = 2 ^ size ∧ regBit t .dspPringcfg 0 c 0 15 = wide.getLsbD 15
              ∧ (regBit s .dspPringcfg 0 c 0 15 = false → wide.getLsbD 15 = true → getRing t c = pringReset)))
    ∧ Completes (.jnCfg who value) s (wrote .jnCfg 0 0 fun t => regBit t .jnCfg 0 0 0 0 = value.getLsbD 0
        ∧ t.fab = { s.fab with locked := s.fab.locked || value.getLsbD 0 } ∧ OnlyRegs [regAddr .jnCfg 0 0 0] s { t with fab := s.fab })
    ∧ Completes (.logRcfg who value) s (wrote .logRcfg 0 0 fun t =>
        let en := regBit s .logRcfg 0 0 0 31
        let size := value.toNat % 32
        (size < 6 ∨ 16 < size ∨ en = true ∧ size ≠ regFld s .logRcfg 0 0 0 0 5 →
          regVal t .logRcfg 0 0 0 = regVal s .logRcfg 0 0 0 ∧ t.log.seq = s.log.seq + 1)
        ∧ (6 ≤ size → size ≤ 16 → en = false → regFld t .logRcfg 0 0 0 0 5 = size
            ∧ regBit t .logRcfg 0 0 0 31 = value.getLsbD 31
            ∧ (value.getLsbD 31 = true → regVal t .logRhead 0 0 0 = 0#64 ∧ regVal t .logRtail 0 0 0 = 0#64)))
    ∧ Completes (.logRhead who value) s (wrote .logRhead 0 0 fun t =>
        regBit s .logRcfg 0 0 0 31 = false → regFld t .logRhead 0 0 0 0 16 = value.toNat % 2 ^ 16
          ∧ OnlyRegs [regAddr .logRhead 0 0 0] s t)
    ∧ (∀ r u i j, placeOf (0xF000000000 + offset.toNat) = .reg r u i j 0 → regHere s r u i = true → r ≠ .ttSec →
        r ≠ .dbgLsdata → offset.toNat % 4 = 0 → open_ → Completes (.readClearAccess (.control me) offset 4) s fun t =>
          regVal t r u i j = regVal s r u i j &&& ~~~fieldMask r (· == .rc)
            ∧ posted t = posted s ++ [.readDone (leBytes 4 (regNow s 0 r u i j)) false]
            ∧ (fieldMask r (· == .rc) = 0#64 → t.regs = s.regs))
    ∧ Completes (.readClearAccess (.control me) offset 2) s (fun t => (¬open_ → t = s)
        ∧ (open_ → (∃ l, posted t = posted s ++ Post.readAbort :: l)
            ∧ SameRegsBut [regAddr .logLost 0 0 0, regAddr .logCoalesced 0 0 0] s t))
    ∧ Completes (.readClearAccess (.hw2 fn) offset len) s (fun t =>
        (hw2Reaches s fn.val offset.toNat len = false → t = s)
          ∧ (hw2Reaches s fn.val offset.toNat len = true →
              posted t = posted s ++ [.readDone ((List.range len).map fun k => hw2Byte s fn.val (offset.toNat + k)) false]
                ∧ t = { s with host := t.host }))
    ∧ Completes (.readClearAccess (.config fn what) offset len) s (fun t =>
        (configHere s fn.val = false → t = s)
          ∧ (configHere s fn.val = true → t = { s with host := t.host } ∧ posted t = posted s
              ++ [if configRetries s fn.val = true then .cfgRetry fn.val else .cfgDone fn.val (configValue s fn.val what)]))
    ∧ (open_ → data.length ≠ 4 → data.length ≠ 8 → Completes (.registerWrite (.control me offset data)) s fun t =>
        t.log.seq = s.log.seq + 1 ∧ SameRegsBut [regAddr .logLost 0 0 0] s t ∧ t.cores = s.cores ∧ t.host = s.host)
    ∧ (reaches s who (0xF000000000 + offset.toNat) = false → fnOfWho who = 0 →
        Completes (.registerWrite (.control who offset data)) s (· = s))
    ∧ (∀ x, Completes (.registerWrite (.config fn x)) s fun t =>
        (configHere s fn.val = false → t = s)
          ∧ (configHere s fn.val = true → configRetries s fn.val = true →
              posted t = posted s ++ [.cfgRetry fn.val] ∧ t = { s with host := t.host }))
    ∧ (configHere s fn.val = true → configRetries s fn.val = false →
        let pf (new old : Bool) : Bool := if fn.val = 0 then new else old
        Completes (.registerWrite (.config fn (.ats on))) s (fun t => spGet false fn.val t.host.ats = on ∧ t = { s with host := t.host })
        ∧ Completes (.registerWrite (.config fn (.pri on))) s (fun t => t.host.pri = pf on s.host.pri)
        ∧ Completes (.registerWrite (.config fn (.pasid on))) s (fun t => t.host.pasid = pf on s.host.pasid)
        ∧ Completes (.registerWrite (.config fn (.mask e))) s (fun t => spGet true (32 * fn.val + e.val) t.host.masked = true)
        ∧ Completes (.registerWrite (.config fn (.vfEnable on))) s (fun t => t.host.vfEnable = pf on s.host.vfEnable)
        ∧ Completes (.registerWrite (.config fn (.hw4Size log))) s (fun t =>
            t.host.hw4Log = if fn.val = 0 then 30 + log.val else s.host.hw4Log)
        ∧ (∀ x, Completes (.registerWrite (.config fn (.aerClear x))) s fun t =>
            (getCfg t fn.val).aerStatus = (getCfg s fn.val).aerStatus &&& ~~~x)
        ∧ (∀ x, Completes (.registerWrite (.config fn (.aerMask x))) s fun t => (getCfg t fn.val).aerMask = x)
        ∧ (∀ x, Completes (.registerWrite (.config fn (.aerSeverity x))) s fun t => (getCfg t fn.val).aerSev = x)
        ∧ (∀ k, Completes (.registerWrite (.config fn (.maxPayload k))) s fun t => (getCfg t fn.val).maxPayload = k.val)
        ∧ (∀ k, Completes (.registerWrite (.config fn (.maxRead k))) s fun t => (getCfg t fn.val).maxRead = k.val)
        ∧ Completes (.registerWrite (.config fn (.relaxedOrdering on))) s (fun t => (getCfg t fn.val).relaxed = on)
        ∧ (∀ k, Completes (.registerWrite (.config fn (.timeoutRange k))) s fun t => (getCfg t fn.val).toRange = k.val)
        ∧ Completes (.registerWrite (.config fn (.timeoutOff on))) s (fun t => (getCfg t fn.val).toOff = on)
        ∧ ∀ g x, Completes (.registerWrite (.config fn (.ecrc g x))) s fun t =>
            (getCfg t fn.val).ecrcGen = g ∧ (getCfg t fn.val).ecrcCheck = x)

/-! ### Cold reset, and what every step keeps (spec/00, spec/19) -/

/-- The machine that State.reset gives: the values of the register tables after cold reset (R16), and the blocks as Tables 19.2 and
19.7 leave them (R684, R701). The contents of device memory before its initialisation are the model's choice (log entry 6).
Model choices it rests on: log entry 7. -/
def Obligations.ResetValues : Prop :=
  let s := Sys2Proof.Machine.State.reset
  s.pending = [] ∧ memWf s.hbm = true ∧ s.power.por = true ∧ planeUp s = false ∧ bootWord s = 0
    ∧ (∀ n i, n < 160 →
        slotBusy (getSlot s n i) = false ∧ (getCore s n).expressEn = false ∧ (∀ a, memGet (getCore s n).ls a = 0#8)
          ∧ (∀ k, spGet 0#64 k (getCore s n).acc = 0#64) ∧ physOf s n = some n
          ∧ regFld s .seqTagquota 0 n 0 0 6 = 24 ∧ regFld s .sbLmap 0 n 0 0 8 = n
          ∧ regNow s 0 .coreId n 0 0 = n + 256 * (n / 8) + 8192 * (n % 8) + 65536 * (n / 40))
    ∧ regNow s 0 .seqQuotasum 0 0 0 = 3840 ∧ (∀ k, (getTag s k).st = .free ∧ (getTag s k).cmd = none)
    ∧ (∀ i w, i < 20 → w < 16 → wayState (getSlice s i) w = 1 ∧ (getSlice s i).inv.getLsbD w = false
        ∧ (getSlice s i).salt = i * 0x19D3 % 0x2000 ∧ (getSlice s i).lfsr = BitVec.ofNat 16 (0x1000 + i))
    ∧ (∀ k, k < 8 → regFld s .rcClassmask 0 k 0 0 16 = 0xFFFF)
    ∧ (∀ c, c < 64 → ctxValid s c = false)
    ∧ (∀ c q, c < 64 → q < 8 → qEnabled s c q = false ∧ getQueue s c q = queueReset ∧ qSize s c q = 16)
    ∧ (∀ k c, (getRmu s k).windows = [] ∧ spGet 0 c (getRmu s k).lastClose = 0 ∧ spGet 0 c (getRmu s k).applied = 0)
    ∧ (∀ p, portUp s p = false ∧ (getPort s p).st = 0) ∧ s.fab.locked = false ∧ cacheEnabled s = false
    ∧ s.time.sec = 0 ∧ s.time.sub = 0 ∧ s.host.vfEnable = false ∧ debugMode s = false ∧ s.log.central = [] ∧ s.log.seq = 0
    ∧ govState s = 2 ∧ s.test.ir = 1

/-- What every step keeps: device memory stays in its canonical form (addresses strictly rising, no entry that holds what an
unlisted address reads as: the model's own data, log entry 6); the waiting commands are those that waited, less the one taken; and
which part this is (R4), its serial number and its debug fuse in OTP do not change. -/
def Obligations.StepKeepsPartQueueAndMemory : Prop :=
  ∀ s t : State, Sys2Proof.Machine.step s = .next t →
    (memWf s.hbm = true → memWf t.hbm = true) ∧ t.pending = s.pending.tail ∧ t.variant = s.variant
      ∧ t.nv.serial = s.nv.serial ∧ t.nv.dbgLock = s.nv.dbgLock
end

