-- ==== Sys2Proof/Laws/Sparse.lean ====
section
/-! SUPPORT. The laws of sparse maps and byte memories: a read after a write, writes that leave the
rest alone, and every operation keeps the canonical form. -/

namespace Sys2Proof.Machine

theorem spSorted_mono {α : Type} {m : Sp α} {a b : Nat} (h : a ≤ b) (hs : spSorted b m = true) :
    spSorted a m = true := by
  cases m with
  | nil => rfl
  | cons e m => simp [spSorted] at *; exact ⟨by omega, hs.2⟩

theorem spGet_of_lt {α : Type} (d : α) {k lo : Nat} {m : Sp α} (hs : spSorted lo m = true)
    (hk : k < lo) : spGet d k m = d := by
  induction m generalizing lo with
  | nil => rfl
  | cons e m ih =>
    obtain ⟨a, v⟩ := e
    simp [spSorted] at hs
    have hne : a ≠ k := by omega
    simp only [spGet, hne, if_false]
    exact ih hs.2 (by omega)

theorem spGet_put {α : Type} (d : α) (k : Nat) (v : α) (m : Sp α) :
    spGet d k (spPut k v m) = v := by
  induction m with
  | nil => simp [spPut, spGet]
  | cons e m ih =>
    obtain ⟨a, w⟩ := e
    unfold spPut
    split
    · simp [spGet]
    · split
      · simp [spGet]
      · simp [spGet, *]

theorem spGet_put_ne {α : Type} (d : α) {k j : Nat} (v : α) (m : Sp α) (h : j ≠ k) :
    spGet d j (spPut k v m) = spGet d j m := by
  induction m with
  | nil => simp [spPut, spGet, Ne.symm h]
  | cons e m ih =>
    obtain ⟨a, w⟩ := e
    unfold spPut
    split
    · rename_i hk
      subst hk
      simp [spGet, Ne.symm h]
    · split
      · simp [spGet, Ne.symm h]
      · simp [spGet, ih]

theorem spGet_del_ne {α : Type} (d : α) {k j : Nat} (m : Sp α) (h : j ≠ k) :
    spGet d j (spDel k m) = spGet d j m := by
  induction m with
  | nil => rfl
  | cons e m ih =>
    obtain ⟨a, w⟩ := e
    unfold spDel at *
    rw [List.filter_cons]
    by_cases hk : a = k
    · subst hk
      simpa [spGet, Ne.symm h] using ih
    · simp only [bne_iff_ne, ne_eq, hk, not_false_eq_true, if_true, spGet, ih]

theorem spGet_del {α : Type} (d : α) (k : Nat) (m : Sp α) : spGet d k (spDel k m) = d := by
  induction m with
  | nil => rfl
  | cons e m ih =>
    obtain ⟨a, w⟩ := e
    unfold spDel at *
    rw [List.filter_cons]
    by_cases hk : a = k
    · simpa [hk] using ih
    · simp only [bne_iff_ne, ne_eq, hk, not_false_eq_true, if_true, spGet, if_false, ih]

theorem spGet_set_ne {α : Type} [DecidableEq α] (d : α) {k j : Nat} (v : α) (m : Sp α)
    (h : j ≠ k) : spGet d j (spSet d k v m) = spGet d j m := by
  unfold spSet
  split
  · exact spGet_del_ne d m h
  · exact spGet_put_ne d v m h

theorem spGet_set {α : Type} [DecidableEq α] (d : α) (k : Nat) (v : α) (m : Sp α) :
    spGet d k (spSet d k v m) = v := by
  unfold spSet
  split
  · rename_i hv
    rw [hv]
    exact spGet_del d k m
  · exact spGet_put d k v m

theorem spSorted_filter {α : Type} (p : Nat × α → Bool) (lo : Nat) (m : Sp α)
    (hs : spSorted lo m = true) : spSorted lo (m.filter p) = true := by
  induction m generalizing lo with
  | nil => rfl
  | cons e m ih =>
    obtain ⟨a, w⟩ := e
    simp [spSorted] at hs
    rw [List.filter_cons]
    split
    · simp [spSorted, hs.1, ih _ hs.2]
    · exact spSorted_mono (by omega) (ih _ hs.2)

theorem spSorted_del {α : Type} (k lo : Nat) (m : Sp α) (hs : spSorted lo m = true) :
    spSorted lo (spDel k m) = true := spSorted_filter _ lo m hs

theorem spSorted_put {α : Type} (k lo : Nat) (v : α) (m : Sp α) (hk : lo ≤ k)
    (hs : spSorted lo m = true) : spSorted lo (spPut k v m) = true := by
  induction m generalizing lo with
  | nil => simp [spPut, spSorted, hk]
  | cons e m ih =>
    obtain ⟨a, w⟩ := e
    simp [spSorted] at hs
    unfold spPut
    split
    · rename_i h
      subst h
      simp [spSorted, hs]
    · split
      · rename_i h1 h2
        simp [spSorted, hk, hs.2]
        omega
      · rename_i h1 h2
        simp only [spSorted, hs.1, decide_true, Bool.true_and]
        exact ih _ (by omega) hs.2

theorem spDel_all {α : Type} (p : Nat × α → Bool) (k : Nat) (m : Sp α) (h : m.all p = true) :
    (spDel k m).all p = true := by
  unfold spDel
  rw [List.all_eq_true] at *
  intro e he
  exact h e (List.mem_filter.mp he).1

theorem spPut_all {α : Type} (p : Nat × α → Bool) (k : Nat) (v : α) (m : Sp α)
    (hv : p (k, v) = true) (h : m.all p = true) : (spPut k v m).all p = true := by
  induction m with
  | nil => simp [spPut, hv]
  | cons e m ih =>
    obtain ⟨a, w⟩ := e
    simp only [List.all_cons, Bool.and_eq_true] at h
    unfold spPut
    split
    · simp [hv, h.2]
    · split
      · simp [hv, h.1, h.2]
      · simp [h.1, ih h.2]

/-- Every write keeps the canonical form. -/
theorem spWf_set {α : Type} [DecidableEq α] (d : α) (k : Nat) (v : α) (m : Sp α)
    (h : spWf d m = true) : spWf d (spSet d k v m) = true := by
  simp only [spWf, Bool.and_eq_true] at *
  unfold spSet
  split
  · exact ⟨spSorted_del k 0 m h.1, spDel_all _ k m h.2⟩
  · rename_i hv
    exact ⟨spSorted_put k 0 v m (by omega) h.1, spPut_all _ k v m (by simpa using hv) h.2⟩

theorem spWf_sorted {α : Type} [DecidableEq α] {d : α} {m : Sp α} (h : spWf d m = true) :
    spSorted 0 m = true := by
  simp only [spWf, Bool.and_eq_true] at h
  exact h.1

/-- Dropping entries keeps the canonical form. -/
theorem spWf_filter {α : Type} [DecidableEq α] (d : α) (p : Nat × α → Bool) (m : Sp α)
    (h : spWf d m = true) : spWf d (m.filter p) = true := by
  simp only [spWf, Bool.and_eq_true] at *
  refine ⟨spSorted_filter p 0 m h.1, ?_⟩
  rw [List.all_eq_true] at *
  intro e he
  exact h.2 e (List.mem_filter.mp he).1

/-! ### Byte memories -/

theorem memGet_set (m : Mem) (a : Nat) (b : Byte) : memGet (memSet m a b) a = b := spGet_set 0#8 a b m

theorem memGet_set_ne (m : Mem) {a c : Nat} (b : Byte) (h : c ≠ a) :
    memGet (memSet m a b) c = memGet m c := spGet_set_ne 0#8 b m h

theorem memWf_set (m : Mem) (a : Nat) (b : Byte) (h : memWf m = true) :
    memWf (memSet m a b) = true := spWf_set 0#8 a b m h

/-- A write of a byte list keeps the canonical form. -/
theorem memWf_write (m : Mem) (a : Nat) (bs : List Byte) (h : memWf m = true) :
    memWf (memWrite m a bs) = true := by
  induction bs generalizing m a with
  | nil => exact h
  | cons b bs ih => exact ih _ _ (memWf_set m a b h)

theorem memWf_writeEn (m : Mem) (a : Nat) (bs : List (Option Byte)) (h : memWf m = true) :
    memWf (memWriteEn m a bs) = true := by
  induction bs generalizing m a with
  | nil => exact h
  | cons b bs ih =>
    cases b with
    | none => exact ih _ _ h
    | some b => exact ih _ _ (memWf_set m a b h)

theorem memWf_clear (m : Mem) (a n : Nat) (h : memWf m = true) : memWf (memClear m a n) = true :=
  spWf_filter 0#8 _ m h

/-- A write of a byte list leaves every byte outside its range. -/
theorem memGet_write_outside (m : Mem) (a c : Nat) (bs : List Byte)
    (h : c < a ∨ a + bs.length ≤ c) : memGet (memWrite m a bs) c = memGet m c := by
  induction bs generalizing m a with
  | nil => rfl
  | cons b bs ih =>
    simp only [List.length_cons] at h
    rw [memWrite, ih _ _ (by omega), memGet_set_ne _ _ (by omega)]

/-- A write of a byte list puts byte `i` at `a + i`. -/
theorem memGet_write_inside (m : Mem) (a i : Nat) (bs : List Byte) (hi : i < bs.length) : memGet (memWrite m a bs) (a + i) = bs[i] := by
  induction bs generalizing m a i with
  | nil => simp at hi
  | cons b bs ih =>
    cases i with
    | zero =>
      rw [memWrite, memGet_write_outside _ _ _ _ (by omega)]
      simpa using memGet_set m a b
    | succ i =>
      have := ih (memSet m a b) (a + 1) i (by simpa using hi)
      rw [memWrite, ← Nat.add_assoc, Nat.add_right_comm]
      simpa using this

end Sys2Proof.Machine
end

