-- ==== Sys2Proof/Laws/State.lean ====
section
/-! SUPPORT. One lemma for each field of the state and each named update: what the update leaves alone. Generated from the
list of fields; every one holds by definition. -/

namespace Sys2Proof.Machine

variable (s : State)

/-! ### setReg -/

@[simp] theorem setReg_variant (r : RegName) (u i j : Nat) (v : W64) : (setReg s r u i j v).variant = s.variant := rfl
@[simp] theorem setReg_pending (r : RegName) (u i j : Nat) (v : W64) : (setReg s r u i j v).pending = s.pending := rfl
@[simp] theorem setReg_cores (r : RegName) (u i j : Nat) (v : W64) : (setReg s r u i j v).cores = s.cores := rfl
@[simp] theorem setReg_tags (r : RegName) (u i j : Nat) (v : W64) : (setReg s r u i j v).tags = s.tags := rfl
@[simp] theorem setReg_seq (r : RegName) (u i j : Nat) (v : W64) : (setReg s r u i j v).seq = s.seq := rfl
@[simp] theorem setReg_reqs (r : RegName) (u i j : Nat) (v : W64) : (setReg s r u i j v).reqs = s.reqs := rfl
@[simp] theorem setReg_nextReq (r : RegName) (u i j : Nat) (v : W64) : (setReg s r u i j v).nextReq = s.nextReq := rfl
@[simp] theorem setReg_hints (r : RegName) (u i j : Nat) (v : W64) : (setReg s r u i j v).hints = s.hints := rfl
@[simp] theorem setReg_layers (r : RegName) (u i j : Nat) (v : W64) : (setReg s r u i j v).layers = s.layers := rfl
@[simp] theorem setReg_mus (r : RegName) (u i j : Nat) (v : W64) : (setReg s r u i j v).mus = s.mus := rfl
@[simp] theorem setReg_barriers (r : RegName) (u i j : Nat) (v : W64) : (setReg s r u i j v).barriers = s.barriers := rfl
@[simp] theorem setReg_mergeNet (r : RegName) (u i j : Nat) (v : W64) : (setReg s r u i j v).mergeNet = s.mergeNet := rfl
@[simp] theorem setReg_rmus (r : RegName) (u i j : Nat) (v : W64) : (setReg s r u i j v).rmus = s.rmus := rfl
@[simp] theorem setReg_problems (r : RegName) (u i j : Nat) (v : W64) : (setReg s r u i j v).problems = s.problems := rfl
@[simp] theorem setReg_nextProblem (r : RegName) (u i j : Nat) (v : W64) : (setReg s r u i j v).nextProblem = s.nextProblem := rfl
@[simp] theorem setReg_solveNet (r : RegName) (u i j : Nat) (v : W64) : (setReg s r u i j v).solveNet = s.solveNet := rfl
@[simp] theorem setReg_laneOff (r : RegName) (u i j : Nat) (v : W64) : (setReg s r u i j v).laneOff = s.laneOff := rfl
@[simp] theorem setReg_govWin (r : RegName) (u i j : Nat) (v : W64) : (setReg s r u i j v).govWin = s.govWin := rfl
@[simp] theorem setReg_slices (r : RegName) (u i j : Nat) (v : W64) : (setReg s r u i j v).slices = s.slices := rfl
@[simp] theorem setReg_wayCmd (r : RegName) (u i j : Nat) (v : W64) : (setReg s r u i j v).wayCmd = s.wayCmd := rfl
@[simp] theorem setReg_hbm (r : RegName) (u i j : Nat) (v : W64) : (setReg s r u i j v).hbm = s.hbm := rfl
@[simp] theorem setReg_hbmPoison (r : RegName) (u i j : Nat) (v : W64) : (setReg s r u i j v).hbmPoison = s.hbmPoison := rfl
@[simp] theorem setReg_own (r : RegName) (u i j : Nat) (v : W64) : (setReg s r u i j v).own = s.own := rfl
@[simp] theorem setReg_looks (r : RegName) (u i j : Nat) (v : W64) : (setReg s r u i j v).looks = s.looks := rfl
@[simp] theorem setReg_dtcG (r : RegName) (u i j : Nat) (v : W64) : (setReg s r u i j v).dtcG = s.dtcG := rfl
@[simp] theorem setReg_dtcH (r : RegName) (u i j : Nat) (v : W64) : (setReg s r u i j v).dtcH = s.dtcH := rfl
@[simp] theorem setReg_dtcFills (r : RegName) (u i j : Nat) (v : W64) : (setReg s r u i j v).dtcFills = s.dtcFills := rfl
@[simp] theorem setReg_pend (r : RegName) (u i j : Nat) (v : W64) : (setReg s r u i j v).pend = s.pend := rfl
@[simp] theorem setReg_batchOpen (r : RegName) (u i j : Nat) (v : W64) : (setReg s r u i j v).batchOpen = s.batchOpen := rfl
@[simp] theorem setReg_batchHeld (r : RegName) (u i j : Nat) (v : W64) : (setReg s r u i j v).batchHeld = s.batchHeld := rfl
@[simp] theorem setReg_hostSeq (r : RegName) (u i j : Nat) (v : W64) : (setReg s r u i j v).hostSeq = s.hostSeq := rfl
@[simp] theorem setReg_px (r : RegName) (u i j : Nat) (v : W64) : (setReg s r u i j v).px = s.px := rfl
@[simp] theorem setReg_pxNone (r : RegName) (u i j : Nat) (v : W64) : (setReg s r u i j v).pxNone = s.pxNone := rfl
@[simp] theorem setReg_ctrl (r : RegName) (u i j : Nat) (v : W64) : (setReg s r u i j v).ctrl = s.ctrl := rfl
@[simp] theorem setReg_epochs (r : RegName) (u i j : Nat) (v : W64) : (setReg s r u i j v).epochs = s.epochs := rfl
@[simp] theorem setReg_epoch (r : RegName) (u i j : Nat) (v : W64) : (setReg s r u i j v).epoch = s.epoch := rfl
@[simp] theorem setReg_priOut (r : RegName) (u i j : Nat) (v : W64) : (setReg s r u i j v).priOut = s.priOut := rfl
@[simp] theorem setReg_remotes (r : RegName) (u i j : Nat) (v : W64) : (setReg s r u i j v).remotes = s.remotes := rfl
@[simp] theorem setReg_inject (r : RegName) (u i j : Nat) (v : W64) : (setReg s r u i j v).inject = s.inject := rfl
@[simp] theorem setReg_inbound (r : RegName) (u i j : Nat) (v : W64) : (setReg s r u i j v).inbound = s.inbound := rfl
@[simp] theorem setReg_nextInbound (r : RegName) (u i j : Nat) (v : W64) : (setReg s r u i j v).nextInbound = s.nextInbound := rfl
@[simp] theorem setReg_winOld (r : RegName) (u i j : Nat) (v : W64) : (setReg s r u i j v).winOld = s.winOld := rfl
@[simp] theorem setReg_fab (r : RegName) (u i j : Nat) (v : W64) : (setReg s r u i j v).fab = s.fab := rfl
@[simp] theorem setReg_time (r : RegName) (u i j : Nat) (v : W64) : (setReg s r u i j v).time = s.time := rfl
@[simp] theorem setReg_nv (r : RegName) (u i j : Nat) (v : W64) : (setReg s r u i j v).nv = s.nv := rfl
@[simp] theorem setReg_sm (r : RegName) (u i j : Nat) (v : W64) : (setReg s r u i j v).sm = s.sm := rfl
@[simp] theorem setReg_power (r : RegName) (u i j : Nat) (v : W64) : (setReg s r u i j v).power = s.power := rfl
@[simp] theorem setReg_test (r : RegName) (u i j : Nat) (v : W64) : (setReg s r u i j v).test = s.test := rfl
@[simp] theorem setReg_host (r : RegName) (u i j : Nat) (v : W64) : (setReg s r u i j v).host = s.host := rfl
@[simp] theorem setReg_log (r : RegName) (u i j : Nat) (v : W64) : (setReg s r u i j v).log = s.log := rfl
@[simp] theorem setReg_trace (r : RegName) (u i j : Nat) (v : W64) : (setReg s r u i j v).trace = s.trace := rfl
@[simp] theorem setReg_linkRetry (r : RegName) (u i j : Nat) (v : W64) : (setReg s r u i j v).linkRetry = s.linkRetry := rfl
@[simp] theorem setReg_ueTimes (r : RegName) (u i j : Nat) (v : W64) : (setReg s r u i j v).ueTimes = s.ueTimes := rfl
@[simp] theorem setReg_now (r : RegName) (u i j : Nat) (v : W64) : (setReg s r u i j v).now = s.now := rfl
@[simp] theorem setReg_free (r : RegName) (u i j : Nat) (v : W64) : (setReg s r u i j v).free = s.free := rfl

/-! ### setCore -/

@[simp] theorem setCore_variant (n : Nat) (c : Core) : (setCore s n c).variant = s.variant := rfl
@[simp] theorem setCore_pending (n : Nat) (c : Core) : (setCore s n c).pending = s.pending := rfl
@[simp] theorem setCore_regs (n : Nat) (c : Core) : (setCore s n c).regs = s.regs := rfl
@[simp] theorem setCore_tags (n : Nat) (c : Core) : (setCore s n c).tags = s.tags := rfl
@[simp] theorem setCore_seq (n : Nat) (c : Core) : (setCore s n c).seq = s.seq := rfl
@[simp] theorem setCore_reqs (n : Nat) (c : Core) : (setCore s n c).reqs = s.reqs := rfl
@[simp] theorem setCore_nextReq (n : Nat) (c : Core) : (setCore s n c).nextReq = s.nextReq := rfl
@[simp] theorem setCore_hints (n : Nat) (c : Core) : (setCore s n c).hints = s.hints := rfl
@[simp] theorem setCore_layers (n : Nat) (c : Core) : (setCore s n c).layers = s.layers := rfl
@[simp] theorem setCore_mus (n : Nat) (c : Core) : (setCore s n c).mus = s.mus := rfl
@[simp] theorem setCore_barriers (n : Nat) (c : Core) : (setCore s n c).barriers = s.barriers := rfl
@[simp] theorem setCore_mergeNet (n : Nat) (c : Core) : (setCore s n c).mergeNet = s.mergeNet := rfl
@[simp] theorem setCore_rmus (n : Nat) (c : Core) : (setCore s n c).rmus = s.rmus := rfl
@[simp] theorem setCore_problems (n : Nat) (c : Core) : (setCore s n c).problems = s.problems := rfl
@[simp] theorem setCore_nextProblem (n : Nat) (c : Core) : (setCore s n c).nextProblem = s.nextProblem := rfl
@[simp] theorem setCore_solveNet (n : Nat) (c : Core) : (setCore s n c).solveNet = s.solveNet := rfl
@[simp] theorem setCore_laneOff (n : Nat) (c : Core) : (setCore s n c).laneOff = s.laneOff := rfl
@[simp] theorem setCore_govWin (n : Nat) (c : Core) : (setCore s n c).govWin = s.govWin := rfl
@[simp] theorem setCore_slices (n : Nat) (c : Core) : (setCore s n c).slices = s.slices := rfl
@[simp] theorem setCore_wayCmd (n : Nat) (c : Core) : (setCore s n c).wayCmd = s.wayCmd := rfl
@[simp] theorem setCore_hbm (n : Nat) (c : Core) : (setCore s n c).hbm = s.hbm := rfl
@[simp] theorem setCore_hbmPoison (n : Nat) (c : Core) : (setCore s n c).hbmPoison = s.hbmPoison := rfl
@[simp] theorem setCore_own (n : Nat) (c : Core) : (setCore s n c).own = s.own := rfl
@[simp] theorem setCore_looks (n : Nat) (c : Core) : (setCore s n c).looks = s.looks := rfl
@[simp] theorem setCore_dtcG (n : Nat) (c : Core) : (setCore s n c).dtcG = s.dtcG := rfl
@[simp] theorem setCore_dtcH (n : Nat) (c : Core) : (setCore s n c).dtcH = s.dtcH := rfl
@[simp] theorem setCore_dtcFills (n : Nat) (c : Core) : (setCore s n c).dtcFills = s.dtcFills := rfl
@[simp] theorem setCore_pend (n : Nat) (c : Core) : (setCore s n c).pend = s.pend := rfl
@[simp] theorem setCore_batchOpen (n : Nat) (c : Core) : (setCore s n c).batchOpen = s.batchOpen := rfl
@[simp] theorem setCore_batchHeld (n : Nat) (c : Core) : (setCore s n c).batchHeld = s.batchHeld := rfl
@[simp] theorem setCore_hostSeq (n : Nat) (c : Core) : (setCore s n c).hostSeq = s.hostSeq := rfl
@[simp] theorem setCore_px (n : Nat) (c : Core) : (setCore s n c).px = s.px := rfl
@[simp] theorem setCore_pxNone (n : Nat) (c : Core) : (setCore s n c).pxNone = s.pxNone := rfl
@[simp] theorem setCore_ctrl (n : Nat) (c : Core) : (setCore s n c).ctrl = s.ctrl := rfl
@[simp] theorem setCore_epochs (n : Nat) (c : Core) : (setCore s n c).epochs = s.epochs := rfl
@[simp] theorem setCore_epoch (n : Nat) (c : Core) : (setCore s n c).epoch = s.epoch := rfl
@[simp] theorem setCore_priOut (n : Nat) (c : Core) : (setCore s n c).priOut = s.priOut := rfl
@[simp] theorem setCore_remotes (n : Nat) (c : Core) : (setCore s n c).remotes = s.remotes := rfl
@[simp] theorem setCore_inject (n : Nat) (c : Core) : (setCore s n c).inject = s.inject := rfl
@[simp] theorem setCore_inbound (n : Nat) (c : Core) : (setCore s n c).inbound = s.inbound := rfl
@[simp] theorem setCore_nextInbound (n : Nat) (c : Core) : (setCore s n c).nextInbound = s.nextInbound := rfl
@[simp] theorem setCore_winOld (n : Nat) (c : Core) : (setCore s n c).winOld = s.winOld := rfl
@[simp] theorem setCore_fab (n : Nat) (c : Core) : (setCore s n c).fab = s.fab := rfl
@[simp] theorem setCore_time (n : Nat) (c : Core) : (setCore s n c).time = s.time := rfl
@[simp] theorem setCore_nv (n : Nat) (c : Core) : (setCore s n c).nv = s.nv := rfl
@[simp] theorem setCore_sm (n : Nat) (c : Core) : (setCore s n c).sm = s.sm := rfl
@[simp] theorem setCore_power (n : Nat) (c : Core) : (setCore s n c).power = s.power := rfl
@[simp] theorem setCore_test (n : Nat) (c : Core) : (setCore s n c).test = s.test := rfl
@[simp] theorem setCore_host (n : Nat) (c : Core) : (setCore s n c).host = s.host := rfl
@[simp] theorem setCore_log (n : Nat) (c : Core) : (setCore s n c).log = s.log := rfl
@[simp] theorem setCore_trace (n : Nat) (c : Core) : (setCore s n c).trace = s.trace := rfl
@[simp] theorem setCore_linkRetry (n : Nat) (c : Core) : (setCore s n c).linkRetry = s.linkRetry := rfl
@[simp] theorem setCore_ueTimes (n : Nat) (c : Core) : (setCore s n c).ueTimes = s.ueTimes := rfl
@[simp] theorem setCore_now (n : Nat) (c : Core) : (setCore s n c).now = s.now := rfl
@[simp] theorem setCore_free (n : Nat) (c : Core) : (setCore s n c).free = s.free := rfl

/-! ### setTag -/

@[simp] theorem setTag_variant (t : Nat) (x : Tag) : (setTag s t x).variant = s.variant := rfl
@[simp] theorem setTag_pending (t : Nat) (x : Tag) : (setTag s t x).pending = s.pending := rfl
@[simp] theorem setTag_regs (t : Nat) (x : Tag) : (setTag s t x).regs = s.regs := rfl
@[simp] theorem setTag_cores (t : Nat) (x : Tag) : (setTag s t x).cores = s.cores := rfl
@[simp] theorem setTag_seq (t : Nat) (x : Tag) : (setTag s t x).seq = s.seq := rfl
@[simp] theorem setTag_reqs (t : Nat) (x : Tag) : (setTag s t x).reqs = s.reqs := rfl
@[simp] theorem setTag_nextReq (t : Nat) (x : Tag) : (setTag s t x).nextReq = s.nextReq := rfl
@[simp] theorem setTag_hints (t : Nat) (x : Tag) : (setTag s t x).hints = s.hints := rfl
@[simp] theorem setTag_layers (t : Nat) (x : Tag) : (setTag s t x).layers = s.layers := rfl
@[simp] theorem setTag_mus (t : Nat) (x : Tag) : (setTag s t x).mus = s.mus := rfl
@[simp] theorem setTag_barriers (t : Nat) (x : Tag) : (setTag s t x).barriers = s.barriers := rfl
@[simp] theorem setTag_mergeNet (t : Nat) (x : Tag) : (setTag s t x).mergeNet = s.mergeNet := rfl
@[simp] theorem setTag_rmus (t : Nat) (x : Tag) : (setTag s t x).rmus = s.rmus := rfl
@[simp] theorem setTag_problems (t : Nat) (x : Tag) : (setTag s t x).problems = s.problems := rfl
@[simp] theorem setTag_nextProblem (t : Nat) (x : Tag) : (setTag s t x).nextProblem = s.nextProblem := rfl
@[simp] theorem setTag_solveNet (t : Nat) (x : Tag) : (setTag s t x).solveNet = s.solveNet := rfl
@[simp] theorem setTag_laneOff (t : Nat) (x : Tag) : (setTag s t x).laneOff = s.laneOff := rfl
@[simp] theorem setTag_govWin (t : Nat) (x : Tag) : (setTag s t x).govWin = s.govWin := rfl
@[simp] theorem setTag_slices (t : Nat) (x : Tag) : (setTag s t x).slices = s.slices := rfl
@[simp] theorem setTag_wayCmd (t : Nat) (x : Tag) : (setTag s t x).wayCmd = s.wayCmd := rfl
@[simp] theorem setTag_hbm (t : Nat) (x : Tag) : (setTag s t x).hbm = s.hbm := rfl
@[simp] theorem setTag_hbmPoison (t : Nat) (x : Tag) : (setTag s t x).hbmPoison = s.hbmPoison := rfl
@[simp] theorem setTag_own (t : Nat) (x : Tag) : (setTag s t x).own = s.own := rfl
@[simp] theorem setTag_looks (t : Nat) (x : Tag) : (setTag s t x).looks = s.looks := rfl
@[simp] theorem setTag_dtcG (t : Nat) (x : Tag) : (setTag s t x).dtcG = s.dtcG := rfl
@[simp] theorem setTag_dtcH (t : Nat) (x : Tag) : (setTag s t x).dtcH = s.dtcH := rfl
@[simp] theorem setTag_dtcFills (t : Nat) (x : Tag) : (setTag s t x).dtcFills = s.dtcFills := rfl
@[simp] theorem setTag_pend (t : Nat) (x : Tag) : (setTag s t x).pend = s.pend := rfl
@[simp] theorem setTag_batchOpen (t : Nat) (x : Tag) : (setTag s t x).batchOpen = s.batchOpen := rfl
@[simp] theorem setTag_batchHeld (t : Nat) (x : Tag) : (setTag s t x).batchHeld = s.batchHeld := rfl
@[simp] theorem setTag_hostSeq (t : Nat) (x : Tag) : (setTag s t x).hostSeq = s.hostSeq := rfl
@[simp] theorem setTag_px (t : Nat) (x : Tag) : (setTag s t x).px = s.px := rfl
@[simp] theorem setTag_pxNone (t : Nat) (x : Tag) : (setTag s t x).pxNone = s.pxNone := rfl
@[simp] theorem setTag_ctrl (t : Nat) (x : Tag) : (setTag s t x).ctrl = s.ctrl := rfl
@[simp] theorem setTag_epochs (t : Nat) (x : Tag) : (setTag s t x).epochs = s.epochs := rfl
@[simp] theorem setTag_epoch (t : Nat) (x : Tag) : (setTag s t x).epoch = s.epoch := rfl
@[simp] theorem setTag_priOut (t : Nat) (x : Tag) : (setTag s t x).priOut = s.priOut := rfl
@[simp] theorem setTag_remotes (t : Nat) (x : Tag) : (setTag s t x).remotes = s.remotes := rfl
@[simp] theorem setTag_inject (t : Nat) (x : Tag) : (setTag s t x).inject = s.inject := rfl
@[simp] theorem setTag_inbound (t : Nat) (x : Tag) : (setTag s t x).inbound = s.inbound := rfl
@[simp] theorem setTag_nextInbound (t : Nat) (x : Tag) : (setTag s t x).nextInbound = s.nextInbound := rfl
@[simp] theorem setTag_winOld (t : Nat) (x : Tag) : (setTag s t x).winOld = s.winOld := rfl
@[simp] theorem setTag_fab (t : Nat) (x : Tag) : (setTag s t x).fab = s.fab := rfl
@[simp] theorem setTag_time (t : Nat) (x : Tag) : (setTag s t x).time = s.time := rfl
@[simp] theorem setTag_nv (t : Nat) (x : Tag) : (setTag s t x).nv = s.nv := rfl
@[simp] theorem setTag_sm (t : Nat) (x : Tag) : (setTag s t x).sm = s.sm := rfl
@[simp] theorem setTag_power (t : Nat) (x : Tag) : (setTag s t x).power = s.power := rfl
@[simp] theorem setTag_test (t : Nat) (x : Tag) : (setTag s t x).test = s.test := rfl
@[simp] theorem setTag_host (t : Nat) (x : Tag) : (setTag s t x).host = s.host := rfl
@[simp] theorem setTag_log (t : Nat) (x : Tag) : (setTag s t x).log = s.log := rfl
@[simp] theorem setTag_trace (t : Nat) (x : Tag) : (setTag s t x).trace = s.trace := rfl
@[simp] theorem setTag_linkRetry (t : Nat) (x : Tag) : (setTag s t x).linkRetry = s.linkRetry := rfl
@[simp] theorem setTag_ueTimes (t : Nat) (x : Tag) : (setTag s t x).ueTimes = s.ueTimes := rfl
@[simp] theorem setTag_now (t : Nat) (x : Tag) : (setTag s t x).now = s.now := rfl
@[simp] theorem setTag_free (t : Nat) (x : Tag) : (setTag s t x).free = s.free := rfl

/-! ### setQueue -/

@[simp] theorem setQueue_variant (ctx q : Nat) (x : Queue) : (setQueue s ctx q x).variant = s.variant := rfl
@[simp] theorem setQueue_pending (ctx q : Nat) (x : Queue) : (setQueue s ctx q x).pending = s.pending := rfl
@[simp] theorem setQueue_regs (ctx q : Nat) (x : Queue) : (setQueue s ctx q x).regs = s.regs := rfl
@[simp] theorem setQueue_cores (ctx q : Nat) (x : Queue) : (setQueue s ctx q x).cores = s.cores := rfl
@[simp] theorem setQueue_tags (ctx q : Nat) (x : Queue) : (setQueue s ctx q x).tags = s.tags := rfl
@[simp] theorem setQueue_seq (ctx q : Nat) (x : Queue) : (setQueue s ctx q x).seq = s.seq := rfl
@[simp] theorem setQueue_reqs (ctx q : Nat) (x : Queue) : (setQueue s ctx q x).reqs = s.reqs := rfl
@[simp] theorem setQueue_nextReq (ctx q : Nat) (x : Queue) : (setQueue s ctx q x).nextReq = s.nextReq := rfl
@[simp] theorem setQueue_hints (ctx q : Nat) (x : Queue) : (setQueue s ctx q x).hints = s.hints := rfl
@[simp] theorem setQueue_layers (ctx q : Nat) (x : Queue) : (setQueue s ctx q x).layers = s.layers := rfl
@[simp] theorem setQueue_mus (ctx q : Nat) (x : Queue) : (setQueue s ctx q x).mus = s.mus := rfl
@[simp] theorem setQueue_barriers (ctx q : Nat) (x : Queue) : (setQueue s ctx q x).barriers = s.barriers := rfl
@[simp] theorem setQueue_mergeNet (ctx q : Nat) (x : Queue) : (setQueue s ctx q x).mergeNet = s.mergeNet := rfl
@[simp] theorem setQueue_rmus (ctx q : Nat) (x : Queue) : (setQueue s ctx q x).rmus = s.rmus := rfl
@[simp] theorem setQueue_problems (ctx q : Nat) (x : Queue) : (setQueue s ctx q x).problems = s.problems := rfl
@[simp] theorem setQueue_nextProblem (ctx q : Nat) (x : Queue) : (setQueue s ctx q x).nextProblem = s.nextProblem := rfl
@[simp] theorem setQueue_solveNet (ctx q : Nat) (x : Queue) : (setQueue s ctx q x).solveNet = s.solveNet := rfl
@[simp] theorem setQueue_laneOff (ctx q : Nat) (x : Queue) : (setQueue s ctx q x).laneOff = s.laneOff := rfl
@[simp] theorem setQueue_govWin (ctx q : Nat) (x : Queue) : (setQueue s ctx q x).govWin = s.govWin := rfl
@[simp] theorem setQueue_slices (ctx q : Nat) (x : Queue) : (setQueue s ctx q x).slices = s.slices := rfl
@[simp] theorem setQueue_wayCmd (ctx q : Nat) (x : Queue) : (setQueue s ctx q x).wayCmd = s.wayCmd := rfl
@[simp] theorem setQueue_hbm (ctx q : Nat) (x : Queue) : (setQueue s ctx q x).hbm = s.hbm := rfl
@[simp] theorem setQueue_hbmPoison (ctx q : Nat) (x : Queue) : (setQueue s ctx q x).hbmPoison = s.hbmPoison := rfl
@[simp] theorem setQueue_own (ctx q : Nat) (x : Queue) : (setQueue s ctx q x).own = s.own := rfl
@[simp] theorem setQueue_looks (ctx q : Nat) (x : Queue) : (setQueue s ctx q x).looks = s.looks := rfl
@[simp] theorem setQueue_dtcG (ctx q : Nat) (x : Queue) : (setQueue s ctx q x).dtcG = s.dtcG := rfl
@[simp] theorem setQueue_dtcH (ctx q : Nat) (x : Queue) : (setQueue s ctx q x).dtcH = s.dtcH := rfl
@[simp] theorem setQueue_dtcFills (ctx q : Nat) (x : Queue) : (setQueue s ctx q x).dtcFills = s.dtcFills := rfl
@[simp] theorem setQueue_pend (ctx q : Nat) (x : Queue) : (setQueue s ctx q x).pend = s.pend := rfl
@[simp] theorem setQueue_batchOpen (ctx q : Nat) (x : Queue) : (setQueue s ctx q x).batchOpen = s.batchOpen := rfl
@[simp] theorem setQueue_batchHeld (ctx q : Nat) (x : Queue) : (setQueue s ctx q x).batchHeld = s.batchHeld := rfl
@[simp] theorem setQueue_hostSeq (ctx q : Nat) (x : Queue) : (setQueue s ctx q x).hostSeq = s.hostSeq := rfl
@[simp] theorem setQueue_px (ctx q : Nat) (x : Queue) : (setQueue s ctx q x).px = s.px := rfl
@[simp] theorem setQueue_pxNone (ctx q : Nat) (x : Queue) : (setQueue s ctx q x).pxNone = s.pxNone := rfl
@[simp] theorem setQueue_ctrl (ctx q : Nat) (x : Queue) : (setQueue s ctx q x).ctrl = s.ctrl := rfl
@[simp] theorem setQueue_epochs (ctx q : Nat) (x : Queue) : (setQueue s ctx q x).epochs = s.epochs := rfl
@[simp] theorem setQueue_epoch (ctx q : Nat) (x : Queue) : (setQueue s ctx q x).epoch = s.epoch := rfl
@[simp] theorem setQueue_priOut (ctx q : Nat) (x : Queue) : (setQueue s ctx q x).priOut = s.priOut := rfl
@[simp] theorem setQueue_remotes (ctx q : Nat) (x : Queue) : (setQueue s ctx q x).remotes = s.remotes := rfl
@[simp] theorem setQueue_inject (ctx q : Nat) (x : Queue) : (setQueue s ctx q x).inject = s.inject := rfl
@[simp] theorem setQueue_inbound (ctx q : Nat) (x : Queue) : (setQueue s ctx q x).inbound = s.inbound := rfl
@[simp] theorem setQueue_nextInbound (ctx q : Nat) (x : Queue) : (setQueue s ctx q x).nextInbound = s.nextInbound := rfl
@[simp] theorem setQueue_winOld (ctx q : Nat) (x : Queue) : (setQueue s ctx q x).winOld = s.winOld := rfl
@[simp] theorem setQueue_fab (ctx q : Nat) (x : Queue) : (setQueue s ctx q x).fab = s.fab := rfl
@[simp] theorem setQueue_time (ctx q : Nat) (x : Queue) : (setQueue s ctx q x).time = s.time := rfl
@[simp] theorem setQueue_nv (ctx q : Nat) (x : Queue) : (setQueue s ctx q x).nv = s.nv := rfl
@[simp] theorem setQueue_sm (ctx q : Nat) (x : Queue) : (setQueue s ctx q x).sm = s.sm := rfl
@[simp] theorem setQueue_power (ctx q : Nat) (x : Queue) : (setQueue s ctx q x).power = s.power := rfl
@[simp] theorem setQueue_test (ctx q : Nat) (x : Queue) : (setQueue s ctx q x).test = s.test := rfl
@[simp] theorem setQueue_log (ctx q : Nat) (x : Queue) : (setQueue s ctx q x).log = s.log := rfl
@[simp] theorem setQueue_trace (ctx q : Nat) (x : Queue) : (setQueue s ctx q x).trace = s.trace := rfl
@[simp] theorem setQueue_linkRetry (ctx q : Nat) (x : Queue) : (setQueue s ctx q x).linkRetry = s.linkRetry := rfl
@[simp] theorem setQueue_ueTimes (ctx q : Nat) (x : Queue) : (setQueue s ctx q x).ueTimes = s.ueTimes := rfl
@[simp] theorem setQueue_now (ctx q : Nat) (x : Queue) : (setQueue s ctx q x).now = s.now := rfl
@[simp] theorem setQueue_free (ctx q : Nat) (x : Queue) : (setQueue s ctx q x).free = s.free := rfl

/-! ### bump -/

@[simp] theorem bump_variant (r : RegName) (u i j n : Nat) : (bump s r u i j n).variant = s.variant := rfl
@[simp] theorem bump_pending (r : RegName) (u i j n : Nat) : (bump s r u i j n).pending = s.pending := rfl
@[simp] theorem bump_cores (r : RegName) (u i j n : Nat) : (bump s r u i j n).cores = s.cores := rfl
@[simp] theorem bump_tags (r : RegName) (u i j n : Nat) : (bump s r u i j n).tags = s.tags := rfl
@[simp] theorem bump_seq (r : RegName) (u i j n : Nat) : (bump s r u i j n).seq = s.seq := rfl
@[simp] theorem bump_reqs (r : RegName) (u i j n : Nat) : (bump s r u i j n).reqs = s.reqs := rfl
@[simp] theorem bump_nextReq (r : RegName) (u i j n : Nat) : (bump s r u i j n).nextReq = s.nextReq := rfl
@[simp] theorem bump_hints (r : RegName) (u i j n : Nat) : (bump s r u i j n).hints = s.hints := rfl
@[simp] theorem bump_layers (r : RegName) (u i j n : Nat) : (bump s r u i j n).layers = s.layers := rfl
@[simp] theorem bump_mus (r : RegName) (u i j n : Nat) : (bump s r u i j n).mus = s.mus := rfl
@[simp] theorem bump_barriers (r : RegName) (u i j n : Nat) : (bump s r u i j n).barriers = s.barriers := rfl
@[simp] theorem bump_mergeNet (r : RegName) (u i j n : Nat) : (bump s r u i j n).mergeNet = s.mergeNet := rfl
@[simp] theorem bump_rmus (r : RegName) (u i j n : Nat) : (bump s r u i j n).rmus = s.rmus := rfl
@[simp] theorem bump_problems (r : RegName) (u i j n : Nat) : (bump s r u i j n).problems = s.problems := rfl
@[simp] theorem bump_nextProblem (r : RegName) (u i j n : Nat) : (bump s r u i j n).nextProblem = s.nextProblem := rfl
@[simp] theorem bump_solveNet (r : RegName) (u i j n : Nat) : (bump s r u i j n).solveNet = s.solveNet := rfl
@[simp] theorem bump_laneOff (r : RegName) (u i j n : Nat) : (bump s r u i j n).laneOff = s.laneOff := rfl
@[simp] theorem bump_govWin (r : RegName) (u i j n : Nat) : (bump s r u i j n).govWin = s.govWin := rfl
@[simp] theorem bump_slices (r : RegName) (u i j n : Nat) : (bump s r u i j n).slices = s.slices := rfl
@[simp] theorem bump_wayCmd (r : RegName) (u i j n : Nat) : (bump s r u i j n).wayCmd = s.wayCmd := rfl
@[simp] theorem bump_hbm (r : RegName) (u i j n : Nat) : (bump s r u i j n).hbm = s.hbm := rfl
@[simp] theorem bump_hbmPoison (r : RegName) (u i j n : Nat) : (bump s r u i j n).hbmPoison = s.hbmPoison := rfl
@[simp] theorem bump_own (r : RegName) (u i j n : Nat) : (bump s r u i j n).own = s.own := rfl
@[simp] theorem bump_looks (r : RegName) (u i j n : Nat) : (bump s r u i j n).looks = s.looks := rfl
@[simp] theorem bump_dtcG (r : RegName) (u i j n : Nat) : (bump s r u i j n).dtcG = s.dtcG := rfl
@[simp] theorem bump_dtcH (r : RegName) (u i j n : Nat) : (bump s r u i j n).dtcH = s.dtcH := rfl
@[simp] theorem bump_dtcFills (r : RegName) (u i j n : Nat) : (bump s r u i j n).dtcFills = s.dtcFills := rfl
@[simp] theorem bump_pend (r : RegName) (u i j n : Nat) : (bump s r u i j n).pend = s.pend := rfl
@[simp] theorem bump_batchOpen (r : RegName) (u i j n : Nat) : (bump s r u i j n).batchOpen = s.batchOpen := rfl
@[simp] theorem bump_batchHeld (r : RegName) (u i j n : Nat) : (bump s r u i j n).batchHeld = s.batchHeld := rfl
@[simp] theorem bump_hostSeq (r : RegName) (u i j n : Nat) : (bump s r u i j n).hostSeq = s.hostSeq := rfl
@[simp] theorem bump_px (r : RegName) (u i j n : Nat) : (bump s r u i j n).px = s.px := rfl
@[simp] theorem bump_pxNone (r : RegName) (u i j n : Nat) : (bump s r u i j n).pxNone = s.pxNone := rfl
@[simp] theorem bump_ctrl (r : RegName) (u i j n : Nat) : (bump s r u i j n).ctrl = s.ctrl := rfl
@[simp] theorem bump_epochs (r : RegName) (u i j n : Nat) : (bump s r u i j n).epochs = s.epochs := rfl
@[simp] theorem bump_epoch (r : RegName) (u i j n : Nat) : (bump s r u i j n).epoch = s.epoch := rfl
@[simp] theorem bump_priOut (r : RegName) (u i j n : Nat) : (bump s r u i j n).priOut = s.priOut := rfl
@[simp] theorem bump_remotes (r : RegName) (u i j n : Nat) : (bump s r u i j n).remotes = s.remotes := rfl
@[simp] theorem bump_inject (r : RegName) (u i j n : Nat) : (bump s r u i j n).inject = s.inject := rfl
@[simp] theorem bump_inbound (r : RegName) (u i j n : Nat) : (bump s r u i j n).inbound = s.inbound := rfl
@[simp] theorem bump_nextInbound (r : RegName) (u i j n : Nat) : (bump s r u i j n).nextInbound = s.nextInbound := rfl
@[simp] theorem bump_winOld (r : RegName) (u i j n : Nat) : (bump s r u i j n).winOld = s.winOld := rfl
@[simp] theorem bump_fab (r : RegName) (u i j n : Nat) : (bump s r u i j n).fab = s.fab := rfl
@[simp] theorem bump_time (r : RegName) (u i j n : Nat) : (bump s r u i j n).time = s.time := rfl
@[simp] theorem bump_nv (r : RegName) (u i j n : Nat) : (bump s r u i j n).nv = s.nv := rfl
@[simp] theorem bump_sm (r : RegName) (u i j n : Nat) : (bump s r u i j n).sm = s.sm := rfl
@[simp] theorem bump_power (r : RegName) (u i j n : Nat) : (bump s r u i j n).power = s.power := rfl
@[simp] theorem bump_test (r : RegName) (u i j n : Nat) : (bump s r u i j n).test = s.test := rfl
@[simp] theorem bump_host (r : RegName) (u i j n : Nat) : (bump s r u i j n).host = s.host := rfl
@[simp] theorem bump_log (r : RegName) (u i j n : Nat) : (bump s r u i j n).log = s.log := rfl
@[simp] theorem bump_trace (r : RegName) (u i j n : Nat) : (bump s r u i j n).trace = s.trace := rfl
@[simp] theorem bump_linkRetry (r : RegName) (u i j n : Nat) : (bump s r u i j n).linkRetry = s.linkRetry := rfl
@[simp] theorem bump_ueTimes (r : RegName) (u i j n : Nat) : (bump s r u i j n).ueTimes = s.ueTimes := rfl
@[simp] theorem bump_now (r : RegName) (u i j n : Nat) : (bump s r u i j n).now = s.now := rfl
@[simp] theorem bump_free (r : RegName) (u i j n : Nat) : (bump s r u i j n).free = s.free := rfl

/-! ### setFld -/

@[simp] theorem setFld_variant (r : RegName) (u i j lsb w x : Nat) : (setFld s r u i j lsb w x).variant = s.variant := rfl
@[simp] theorem setFld_pending (r : RegName) (u i j lsb w x : Nat) : (setFld s r u i j lsb w x).pending = s.pending := rfl
@[simp] theorem setFld_cores (r : RegName) (u i j lsb w x : Nat) : (setFld s r u i j lsb w x).cores = s.cores := rfl
@[simp] theorem setFld_tags (r : RegName) (u i j lsb w x : Nat) : (setFld s r u i j lsb w x).tags = s.tags := rfl
@[simp] theorem setFld_seq (r : RegName) (u i j lsb w x : Nat) : (setFld s r u i j lsb w x).seq = s.seq := rfl
@[simp] theorem setFld_reqs (r : RegName) (u i j lsb w x : Nat) : (setFld s r u i j lsb w x).reqs = s.reqs := rfl
@[simp] theorem setFld_nextReq (r : RegName) (u i j lsb w x : Nat) : (setFld s r u i j lsb w x).nextReq = s.nextReq := rfl
@[simp] theorem setFld_hints (r : RegName) (u i j lsb w x : Nat) : (setFld s r u i j lsb w x).hints = s.hints := rfl
@[simp] theorem setFld_layers (r : RegName) (u i j lsb w x : Nat) : (setFld s r u i j lsb w x).layers = s.layers := rfl
@[simp] theorem setFld_mus (r : RegName) (u i j lsb w x : Nat) : (setFld s r u i j lsb w x).mus = s.mus := rfl
@[simp] theorem setFld_barriers (r : RegName) (u i j lsb w x : Nat) : (setFld s r u i j lsb w x).barriers = s.barriers := rfl
@[simp] theorem setFld_mergeNet (r : RegName) (u i j lsb w x : Nat) : (setFld s r u i j lsb w x).mergeNet = s.mergeNet := rfl
@[simp] theorem setFld_rmus (r : RegName) (u i j lsb w x : Nat) : (setFld s r u i j lsb w x).rmus = s.rmus := rfl
@[simp] theorem setFld_problems (r : RegName) (u i j lsb w x : Nat) : (setFld s r u i j lsb w x).problems = s.problems := rfl
@[simp] theorem setFld_nextProblem (r : RegName) (u i j lsb w x : Nat) : (setFld s r u i j lsb w x).nextProblem = s.nextProblem := rfl
@[simp] theorem setFld_solveNet (r : RegName) (u i j lsb w x : Nat) : (setFld s r u i j lsb w x).solveNet = s.solveNet := rfl
@[simp] theorem setFld_laneOff (r : RegName) (u i j lsb w x : Nat) : (setFld s r u i j lsb w x).laneOff = s.laneOff := rfl
@[simp] theorem setFld_govWin (r : RegName) (u i j lsb w x : Nat) : (setFld s r u i j lsb w x).govWin = s.govWin := rfl
@[simp] theorem setFld_slices (r : RegName) (u i j lsb w x : Nat) : (setFld s r u i j lsb w x).slices = s.slices := rfl
@[simp] theorem setFld_wayCmd (r : RegName) (u i j lsb w x : Nat) : (setFld s r u i j lsb w x).wayCmd = s.wayCmd := rfl
@[simp] theorem setFld_hbm (r : RegName) (u i j lsb w x : Nat) : (setFld s r u i j lsb w x).hbm = s.hbm := rfl
@[simp] theorem setFld_hbmPoison (r : RegName) (u i j lsb w x : Nat) : (setFld s r u i j lsb w x).hbmPoison = s.hbmPoison := rfl
@[simp] theorem setFld_own (r : RegName) (u i j lsb w x : Nat) : (setFld s r u i j lsb w x).own = s.own := rfl
@[simp] theorem setFld_looks (r : RegName) (u i j lsb w x : Nat) : (setFld s r u i j lsb w x).looks = s.looks := rfl
@[simp] theorem setFld_dtcG (r : RegName) (u i j lsb w x : Nat) : (setFld s r u i j lsb w x).dtcG = s.dtcG := rfl
@[simp] theorem setFld_dtcH (r : RegName) (u i j lsb w x : Nat) : (setFld s r u i j lsb w x).dtcH = s.dtcH := rfl
@[simp] theorem setFld_dtcFills (r : RegName) (u i j lsb w x : Nat) : (setFld s r u i j lsb w x).dtcFills = s.dtcFills := rfl
@[simp] theorem setFld_pend (r : RegName) (u i j lsb w x : Nat) : (setFld s r u i j lsb w x).pend = s.pend := rfl
@[simp] theorem setFld_batchOpen (r : RegName) (u i j lsb w x : Nat) : (setFld s r u i j lsb w x).batchOpen = s.batchOpen := rfl
@[simp] theorem setFld_batchHeld (r : RegName) (u i j lsb w x : Nat) : (setFld s r u i j lsb w x).batchHeld = s.batchHeld := rfl
@[simp] theorem setFld_hostSeq (r : RegName) (u i j lsb w x : Nat) : (setFld s r u i j lsb w x).hostSeq = s.hostSeq := rfl
@[simp] theorem setFld_px (r : RegName) (u i j lsb w x : Nat) : (setFld s r u i j lsb w x).px = s.px := rfl
@[simp] theorem setFld_pxNone (r : RegName) (u i j lsb w x : Nat) : (setFld s r u i j lsb w x).pxNone = s.pxNone := rfl
@[simp] theorem setFld_ctrl (r : RegName) (u i j lsb w x : Nat) : (setFld s r u i j lsb w x).ctrl = s.ctrl := rfl
@[simp] theorem setFld_epochs (r : RegName) (u i j lsb w x : Nat) : (setFld s r u i j lsb w x).epochs = s.epochs := rfl
@[simp] theorem setFld_epoch (r : RegName) (u i j lsb w x : Nat) : (setFld s r u i j lsb w x).epoch = s.epoch := rfl
@[simp] theorem setFld_priOut (r : RegName) (u i j lsb w x : Nat) : (setFld s r u i j lsb w x).priOut = s.priOut := rfl
@[simp] theorem setFld_remotes (r : RegName) (u i j lsb w x : Nat) : (setFld s r u i j lsb w x).remotes = s.remotes := rfl
@[simp] theorem setFld_inject (r : RegName) (u i j lsb w x : Nat) : (setFld s r u i j lsb w x).inject = s.inject := rfl
@[simp] theorem setFld_inbound (r : RegName) (u i j lsb w x : Nat) : (setFld s r u i j lsb w x).inbound = s.inbound := rfl
@[simp] theorem setFld_nextInbound (r : RegName) (u i j lsb w x : Nat) : (setFld s r u i j lsb w x).nextInbound = s.nextInbound := rfl
@[simp] theorem setFld_winOld (r : RegName) (u i j lsb w x : Nat) : (setFld s r u i j lsb w x).winOld = s.winOld := rfl
@[simp] theorem setFld_fab (r : RegName) (u i j lsb w x : Nat) : (setFld s r u i j lsb w x).fab = s.fab := rfl
@[simp] theorem setFld_time (r : RegName) (u i j lsb w x : Nat) : (setFld s r u i j lsb w x).time = s.time := rfl
@[simp] theorem setFld_nv (r : RegName) (u i j lsb w x : Nat) : (setFld s r u i j lsb w x).nv = s.nv := rfl
@[simp] theorem setFld_sm (r : RegName) (u i j lsb w x : Nat) : (setFld s r u i j lsb w x).sm = s.sm := rfl
@[simp] theorem setFld_power (r : RegName) (u i j lsb w x : Nat) : (setFld s r u i j lsb w x).power = s.power := rfl
@[simp] theorem setFld_test (r : RegName) (u i j lsb w x : Nat) : (setFld s r u i j lsb w x).test = s.test := rfl
@[simp] theorem setFld_host (r : RegName) (u i j lsb w x : Nat) : (setFld s r u i j lsb w x).host = s.host := rfl
@[simp] theorem setFld_log (r : RegName) (u i j lsb w x : Nat) : (setFld s r u i j lsb w x).log = s.log := rfl
@[simp] theorem setFld_trace (r : RegName) (u i j lsb w x : Nat) : (setFld s r u i j lsb w x).trace = s.trace := rfl
@[simp] theorem setFld_linkRetry (r : RegName) (u i j lsb w x : Nat) : (setFld s r u i j lsb w x).linkRetry = s.linkRetry := rfl
@[simp] theorem setFld_ueTimes (r : RegName) (u i j lsb w x : Nat) : (setFld s r u i j lsb w x).ueTimes = s.ueTimes := rfl
@[simp] theorem setFld_now (r : RegName) (u i j lsb w x : Nat) : (setFld s r u i j lsb w x).now = s.now := rfl
@[simp] theorem setFld_free (r : RegName) (u i j lsb w x : Nat) : (setFld s r u i j lsb w x).free = s.free := rfl

/-! ### modCore -/

@[simp] theorem modCore_variant (n : Nat) (f : Core → Core) : (modCore s n f).variant = s.variant := rfl
@[simp] theorem modCore_pending (n : Nat) (f : Core → Core) : (modCore s n f).pending = s.pending := rfl
@[simp] theorem modCore_regs (n : Nat) (f : Core → Core) : (modCore s n f).regs = s.regs := rfl
@[simp] theorem modCore_tags (n : Nat) (f : Core → Core) : (modCore s n f).tags = s.tags := rfl
@[simp] theorem modCore_seq (n : Nat) (f : Core → Core) : (modCore s n f).seq = s.seq := rfl
@[simp] theorem modCore_reqs (n : Nat) (f : Core → Core) : (modCore s n f).reqs = s.reqs := rfl
@[simp] theorem modCore_nextReq (n : Nat) (f : Core → Core) : (modCore s n f).nextReq = s.nextReq := rfl
@[simp] theorem modCore_hints (n : Nat) (f : Core → Core) : (modCore s n f).hints = s.hints := rfl
@[simp] theorem modCore_layers (n : Nat) (f : Core → Core) : (modCore s n f).layers = s.layers := rfl
@[simp] theorem modCore_mus (n : Nat) (f : Core → Core) : (modCore s n f).mus = s.mus := rfl
@[simp] theorem modCore_barriers (n : Nat) (f : Core → Core) : (modCore s n f).barriers = s.barriers := rfl
@[simp] theorem modCore_mergeNet (n : Nat) (f : Core → Core) : (modCore s n f).mergeNet = s.mergeNet := rfl
@[simp] theorem modCore_rmus (n : Nat) (f : Core → Core) : (modCore s n f).rmus = s.rmus := rfl
@[simp] theorem modCore_problems (n : Nat) (f : Core → Core) : (modCore s n f).problems = s.problems := rfl
@[simp] theorem modCore_nextProblem (n : Nat) (f : Core → Core) : (modCore s n f).nextProblem = s.nextProblem := rfl
@[simp] theorem modCore_solveNet (n : Nat) (f : Core → Core) : (modCore s n f).solveNet = s.solveNet := rfl
@[simp] theorem modCore_laneOff (n : Nat) (f : Core → Core) : (modCore s n f).laneOff = s.laneOff := rfl
@[simp] theorem modCore_govWin (n : Nat) (f : Core → Core) : (modCore s n f).govWin = s.govWin := rfl
@[simp] theorem modCore_slices (n : Nat) (f : Core → Core) : (modCore s n f).slices = s.slices := rfl
@[simp] theorem modCore_wayCmd (n : Nat) (f : Core → Core) : (modCore s n f).wayCmd = s.wayCmd := rfl
@[simp] theorem modCore_hbm (n : Nat) (f : Core → Core) : (modCore s n f).hbm = s.hbm := rfl
@[simp] theorem modCore_hbmPoison (n : Nat) (f : Core → Core) : (modCore s n f).hbmPoison = s.hbmPoison := rfl
@[simp] theorem modCore_own (n : Nat) (f : Core → Core) : (modCore s n f).own = s.own := rfl
@[simp] theorem modCore_looks (n : Nat) (f : Core → Core) : (modCore s n f).looks = s.looks := rfl
@[simp] theorem modCore_dtcG (n : Nat) (f : Core → Core) : (modCore s n f).dtcG = s.dtcG := rfl
@[simp] theorem modCore_dtcH (n : Nat) (f : Core → Core) : (modCore s n f).dtcH = s.dtcH := rfl
@[simp] theorem modCore_dtcFills (n : Nat) (f : Core → Core) : (modCore s n f).dtcFills = s.dtcFills := rfl
@[simp] theorem modCore_pend (n : Nat) (f : Core → Core) : (modCore s n f).pend = s.pend := rfl
@[simp] theorem modCore_batchOpen (n : Nat) (f : Core → Core) : (modCore s n f).batchOpen = s.batchOpen := rfl
@[simp] theorem modCore_batchHeld (n : Nat) (f : Core → Core) : (modCore s n f).batchHeld = s.batchHeld := rfl
@[simp] theorem modCore_hostSeq (n : Nat) (f : Core → Core) : (modCore s n f).hostSeq = s.hostSeq := rfl
@[simp] theorem modCore_px (n : Nat) (f : Core → Core) : (modCore s n f).px = s.px := rfl
@[simp] theorem modCore_pxNone (n : Nat) (f : Core → Core) : (modCore s n f).pxNone = s.pxNone := rfl
@[simp] theorem modCore_ctrl (n : Nat) (f : Core → Core) : (modCore s n f).ctrl = s.ctrl := rfl
@[simp] theorem modCore_epochs (n : Nat) (f : Core → Core) : (modCore s n f).epochs = s.epochs := rfl
@[simp] theorem modCore_epoch (n : Nat) (f : Core → Core) : (modCore s n f).epoch = s.epoch := rfl
@[simp] theorem modCore_priOut (n : Nat) (f : Core → Core) : (modCore s n f).priOut = s.priOut := rfl
@[simp] theorem modCore_remotes (n : Nat) (f : Core → Core) : (modCore s n f).remotes = s.remotes := rfl
@[simp] theorem modCore_inject (n : Nat) (f : Core → Core) : (modCore s n f).inject = s.inject := rfl
@[simp] theorem modCore_inbound (n : Nat) (f : Core → Core) : (modCore s n f).inbound = s.inbound := rfl
@[simp] theorem modCore_nextInbound (n : Nat) (f : Core → Core) : (modCore s n f).nextInbound = s.nextInbound := rfl
@[simp] theorem modCore_winOld (n : Nat) (f : Core → Core) : (modCore s n f).winOld = s.winOld := rfl
@[simp] theorem modCore_fab (n : Nat) (f : Core → Core) : (modCore s n f).fab = s.fab := rfl
@[simp] theorem modCore_time (n : Nat) (f : Core → Core) : (modCore s n f).time = s.time := rfl
@[simp] theorem modCore_nv (n : Nat) (f : Core → Core) : (modCore s n f).nv = s.nv := rfl
@[simp] theorem modCore_sm (n : Nat) (f : Core → Core) : (modCore s n f).sm = s.sm := rfl
@[simp] theorem modCore_power (n : Nat) (f : Core → Core) : (modCore s n f).power = s.power := rfl
@[simp] theorem modCore_test (n : Nat) (f : Core → Core) : (modCore s n f).test = s.test := rfl
@[simp] theorem modCore_host (n : Nat) (f : Core → Core) : (modCore s n f).host = s.host := rfl
@[simp] theorem modCore_log (n : Nat) (f : Core → Core) : (modCore s n f).log = s.log := rfl
@[simp] theorem modCore_trace (n : Nat) (f : Core → Core) : (modCore s n f).trace = s.trace := rfl
@[simp] theorem modCore_linkRetry (n : Nat) (f : Core → Core) : (modCore s n f).linkRetry = s.linkRetry := rfl
@[simp] theorem modCore_ueTimes (n : Nat) (f : Core → Core) : (modCore s n f).ueTimes = s.ueTimes := rfl
@[simp] theorem modCore_now (n : Nat) (f : Core → Core) : (modCore s n f).now = s.now := rfl
@[simp] theorem modCore_free (n : Nat) (f : Core → Core) : (modCore s n f).free = s.free := rfl

/-! ### setSlot -/

@[simp] theorem setSlot_variant (n : Nat) (i : SlotId) (x : Slot) : (setSlot s n i x).variant = s.variant := rfl
@[simp] theorem setSlot_pending (n : Nat) (i : SlotId) (x : Slot) : (setSlot s n i x).pending = s.pending := rfl
@[simp] theorem setSlot_regs (n : Nat) (i : SlotId) (x : Slot) : (setSlot s n i x).regs = s.regs := rfl
@[simp] theorem setSlot_tags (n : Nat) (i : SlotId) (x : Slot) : (setSlot s n i x).tags = s.tags := rfl
@[simp] theorem setSlot_seq (n : Nat) (i : SlotId) (x : Slot) : (setSlot s n i x).seq = s.seq := rfl
@[simp] theorem setSlot_reqs (n : Nat) (i : SlotId) (x : Slot) : (setSlot s n i x).reqs = s.reqs := rfl
@[simp] theorem setSlot_nextReq (n : Nat) (i : SlotId) (x : Slot) : (setSlot s n i x).nextReq = s.nextReq := rfl
@[simp] theorem setSlot_hints (n : Nat) (i : SlotId) (x : Slot) : (setSlot s n i x).hints = s.hints := rfl
@[simp] theorem setSlot_layers (n : Nat) (i : SlotId) (x : Slot) : (setSlot s n i x).layers = s.layers := rfl
@[simp] theorem setSlot_mus (n : Nat) (i : SlotId) (x : Slot) : (setSlot s n i x).mus = s.mus := rfl
@[simp] theorem setSlot_barriers (n : Nat) (i : SlotId) (x : Slot) : (setSlot s n i x).barriers = s.barriers := rfl
@[simp] theorem setSlot_mergeNet (n : Nat) (i : SlotId) (x : Slot) : (setSlot s n i x).mergeNet = s.mergeNet := rfl
@[simp] theorem setSlot_rmus (n : Nat) (i : SlotId) (x : Slot) : (setSlot s n i x).rmus = s.rmus := rfl
@[simp] theorem setSlot_problems (n : Nat) (i : SlotId) (x : Slot) : (setSlot s n i x).problems = s.problems := rfl
@[simp] theorem setSlot_nextProblem (n : Nat) (i : SlotId) (x : Slot) : (setSlot s n i x).nextProblem = s.nextProblem := rfl
@[simp] theorem setSlot_solveNet (n : Nat) (i : SlotId) (x : Slot) : (setSlot s n i x).solveNet = s.solveNet := rfl
@[simp] theorem setSlot_laneOff (n : Nat) (i : SlotId) (x : Slot) : (setSlot s n i x).laneOff = s.laneOff := rfl
@[simp] theorem setSlot_govWin (n : Nat) (i : SlotId) (x : Slot) : (setSlot s n i x).govWin = s.govWin := rfl
@[simp] theorem setSlot_slices (n : Nat) (i : SlotId) (x : Slot) : (setSlot s n i x).slices = s.slices := rfl
@[simp] theorem setSlot_wayCmd (n : Nat) (i : SlotId) (x : Slot) : (setSlot s n i x).wayCmd = s.wayCmd := rfl
@[simp] theorem setSlot_hbm (n : Nat) (i : SlotId) (x : Slot) : (setSlot s n i x).hbm = s.hbm := rfl
@[simp] theorem setSlot_hbmPoison (n : Nat) (i : SlotId) (x : Slot) : (setSlot s n i x).hbmPoison = s.hbmPoison := rfl
@[simp] theorem setSlot_own (n : Nat) (i : SlotId) (x : Slot) : (setSlot s n i x).own = s.own := rfl
@[simp] theorem setSlot_looks (n : Nat) (i : SlotId) (x : Slot) : (setSlot s n i x).looks = s.looks := rfl
@[simp] theorem setSlot_dtcG (n : Nat) (i : SlotId) (x : Slot) : (setSlot s n i x).dtcG = s.dtcG := rfl
@[simp] theorem setSlot_dtcH (n : Nat) (i : SlotId) (x : Slot) : (setSlot s n i x).dtcH = s.dtcH := rfl
@[simp] theorem setSlot_dtcFills (n : Nat) (i : SlotId) (x : Slot) : (setSlot s n i x).dtcFills = s.dtcFills := rfl
@[simp] theorem setSlot_pend (n : Nat) (i : SlotId) (x : Slot) : (setSlot s n i x).pend = s.pend := rfl
@[simp] theorem setSlot_batchOpen (n : Nat) (i : SlotId) (x : Slot) : (setSlot s n i x).batchOpen = s.batchOpen := rfl
@[simp] theorem setSlot_batchHeld (n : Nat) (i : SlotId) (x : Slot) : (setSlot s n i x).batchHeld = s.batchHeld := rfl
@[simp] theorem setSlot_hostSeq (n : Nat) (i : SlotId) (x : Slot) : (setSlot s n i x).hostSeq = s.hostSeq := rfl
@[simp] theorem setSlot_px (n : Nat) (i : SlotId) (x : Slot) : (setSlot s n i x).px = s.px := rfl
@[simp] theorem setSlot_pxNone (n : Nat) (i : SlotId) (x : Slot) : (setSlot s n i x).pxNone = s.pxNone := rfl
@[simp] theorem setSlot_ctrl (n : Nat) (i : SlotId) (x : Slot) : (setSlot s n i x).ctrl = s.ctrl := rfl
@[simp] theorem setSlot_epochs (n : Nat) (i : SlotId) (x : Slot) : (setSlot s n i x).epochs = s.epochs := rfl
@[simp] theorem setSlot_epoch (n : Nat) (i : SlotId) (x : Slot) : (setSlot s n i x).epoch = s.epoch := rfl
@[simp] theorem setSlot_priOut (n : Nat) (i : SlotId) (x : Slot) : (setSlot s n i x).priOut = s.priOut := rfl
@[simp] theorem setSlot_remotes (n : Nat) (i : SlotId) (x : Slot) : (setSlot s n i x).remotes = s.remotes := rfl
@[simp] theorem setSlot_inject (n : Nat) (i : SlotId) (x : Slot) : (setSlot s n i x).inject = s.inject := rfl
@[simp] theorem setSlot_inbound (n : Nat) (i : SlotId) (x : Slot) : (setSlot s n i x).inbound = s.inbound := rfl
@[simp] theorem setSlot_nextInbound (n : Nat) (i : SlotId) (x : Slot) : (setSlot s n i x).nextInbound = s.nextInbound := rfl
@[simp] theorem setSlot_winOld (n : Nat) (i : SlotId) (x : Slot) : (setSlot s n i x).winOld = s.winOld := rfl
@[simp] theorem setSlot_fab (n : Nat) (i : SlotId) (x : Slot) : (setSlot s n i x).fab = s.fab := rfl
@[simp] theorem setSlot_time (n : Nat) (i : SlotId) (x : Slot) : (setSlot s n i x).time = s.time := rfl
@[simp] theorem setSlot_nv (n : Nat) (i : SlotId) (x : Slot) : (setSlot s n i x).nv = s.nv := rfl
@[simp] theorem setSlot_sm (n : Nat) (i : SlotId) (x : Slot) : (setSlot s n i x).sm = s.sm := rfl
@[simp] theorem setSlot_power (n : Nat) (i : SlotId) (x : Slot) : (setSlot s n i x).power = s.power := rfl
@[simp] theorem setSlot_test (n : Nat) (i : SlotId) (x : Slot) : (setSlot s n i x).test = s.test := rfl
@[simp] theorem setSlot_host (n : Nat) (i : SlotId) (x : Slot) : (setSlot s n i x).host = s.host := rfl
@[simp] theorem setSlot_log (n : Nat) (i : SlotId) (x : Slot) : (setSlot s n i x).log = s.log := rfl
@[simp] theorem setSlot_trace (n : Nat) (i : SlotId) (x : Slot) : (setSlot s n i x).trace = s.trace := rfl
@[simp] theorem setSlot_linkRetry (n : Nat) (i : SlotId) (x : Slot) : (setSlot s n i x).linkRetry = s.linkRetry := rfl
@[simp] theorem setSlot_ueTimes (n : Nat) (i : SlotId) (x : Slot) : (setSlot s n i x).ueTimes = s.ueTimes := rfl
@[simp] theorem setSlot_now (n : Nat) (i : SlotId) (x : Slot) : (setSlot s n i x).now = s.now := rfl
@[simp] theorem setSlot_free (n : Nat) (i : SlotId) (x : Slot) : (setSlot s n i x).free = s.free := rfl

/-! ### modSlot -/

@[simp] theorem modSlot_variant (n : Nat) (i : SlotId) (f : Slot → Slot) : (modSlot s n i f).variant = s.variant := rfl
@[simp] theorem modSlot_pending (n : Nat) (i : SlotId) (f : Slot → Slot) : (modSlot s n i f).pending = s.pending := rfl
@[simp] theorem modSlot_regs (n : Nat) (i : SlotId) (f : Slot → Slot) : (modSlot s n i f).regs = s.regs := rfl
@[simp] theorem modSlot_tags (n : Nat) (i : SlotId) (f : Slot → Slot) : (modSlot s n i f).tags = s.tags := rfl
@[simp] theorem modSlot_seq (n : Nat) (i : SlotId) (f : Slot → Slot) : (modSlot s n i f).seq = s.seq := rfl
@[simp] theorem modSlot_reqs (n : Nat) (i : SlotId) (f : Slot → Slot) : (modSlot s n i f).reqs = s.reqs := rfl
@[simp] theorem modSlot_nextReq (n : Nat) (i : SlotId) (f : Slot → Slot) : (modSlot s n i f).nextReq = s.nextReq := rfl
@[simp] theorem modSlot_hints (n : Nat) (i : SlotId) (f : Slot → Slot) : (modSlot s n i f).hints = s.hints := rfl
@[simp] theorem modSlot_layers (n : Nat) (i : SlotId) (f : Slot → Slot) : (modSlot s n i f).layers = s.layers := rfl
@[simp] theorem modSlot_mus (n : Nat) (i : SlotId) (f : Slot → Slot) : (modSlot s n i f).mus = s.mus := rfl
@[simp] theorem modSlot_barriers (n : Nat) (i : SlotId) (f : Slot → Slot) : (modSlot s n i f).barriers = s.barriers := rfl
@[simp] theorem modSlot_mergeNet (n : Nat) (i : SlotId) (f : Slot → Slot) : (modSlot s n i f).mergeNet = s.mergeNet := rfl
@[simp] theorem modSlot_rmus (n : Nat) (i : SlotId) (f : Slot → Slot) : (modSlot s n i f).rmus = s.rmus := rfl
@[simp] theorem modSlot_problems (n : Nat) (i : SlotId) (f : Slot → Slot) : (modSlot s n i f).problems = s.problems := rfl
@[simp] theorem modSlot_nextProblem (n : Nat) (i : SlotId) (f : Slot → Slot) : (modSlot s n i f).nextProblem = s.nextProblem := rfl
@[simp] theorem modSlot_solveNet (n : Nat) (i : SlotId) (f : Slot → Slot) : (modSlot s n i f).solveNet = s.solveNet := rfl
@[simp] theorem modSlot_laneOff (n : Nat) (i : SlotId) (f : Slot → Slot) : (modSlot s n i f).laneOff = s.laneOff := rfl
@[simp] theorem modSlot_govWin (n : Nat) (i : SlotId) (f : Slot → Slot) : (modSlot s n i f).govWin = s.govWin := rfl
@[simp] theorem modSlot_slices (n : Nat) (i : SlotId) (f : Slot → Slot) : (modSlot s n i f).slices = s.slices := rfl
@[simp] theorem modSlot_wayCmd (n : Nat) (i : SlotId) (f : Slot → Slot) : (modSlot s n i f).wayCmd = s.wayCmd := rfl
@[simp] theorem modSlot_hbm (n : Nat) (i : SlotId) (f : Slot → Slot) : (modSlot s n i f).hbm = s.hbm := rfl
@[simp] theorem modSlot_hbmPoison (n : Nat) (i : SlotId) (f : Slot → Slot) : (modSlot s n i f).hbmPoison = s.hbmPoison := rfl
@[simp] theorem modSlot_own (n : Nat) (i : SlotId) (f : Slot → Slot) : (modSlot s n i f).own = s.own := rfl
@[simp] theorem modSlot_looks (n : Nat) (i : SlotId) (f : Slot → Slot) : (modSlot s n i f).looks = s.looks := rfl
@[simp] theorem modSlot_dtcG (n : Nat) (i : SlotId) (f : Slot → Slot) : (modSlot s n i f).dtcG = s.dtcG := rfl
@[simp] theorem modSlot_dtcH (n : Nat) (i : SlotId) (f : Slot → Slot) : (modSlot s n i f).dtcH = s.dtcH := rfl
@[simp] theorem modSlot_dtcFills (n : Nat) (i : SlotId) (f : Slot → Slot) : (modSlot s n i f).dtcFills = s.dtcFills := rfl
@[simp] theorem modSlot_pend (n : Nat) (i : SlotId) (f : Slot → Slot) : (modSlot s n i f).pend = s.pend := rfl
@[simp] theorem modSlot_batchOpen (n : Nat) (i : SlotId) (f : Slot → Slot) : (modSlot s n i f).batchOpen = s.batchOpen := rfl
@[simp] theorem modSlot_batchHeld (n : Nat) (i : SlotId) (f : Slot → Slot) : (modSlot s n i f).batchHeld = s.batchHeld := rfl
@[simp] theorem modSlot_hostSeq (n : Nat) (i : SlotId) (f : Slot → Slot) : (modSlot s n i f).hostSeq = s.hostSeq := rfl
@[simp] theorem modSlot_px (n : Nat) (i : SlotId) (f : Slot → Slot) : (modSlot s n i f).px = s.px := rfl
@[simp] theorem modSlot_pxNone (n : Nat) (i : SlotId) (f : Slot → Slot) : (modSlot s n i f).pxNone = s.pxNone := rfl
@[simp] theorem modSlot_ctrl (n : Nat) (i : SlotId) (f : Slot → Slot) : (modSlot s n i f).ctrl = s.ctrl := rfl
@[simp] theorem modSlot_epochs (n : Nat) (i : SlotId) (f : Slot → Slot) : (modSlot s n i f).epochs = s.epochs := rfl
@[simp] theorem modSlot_epoch (n : Nat) (i : SlotId) (f : Slot → Slot) : (modSlot s n i f).epoch = s.epoch := rfl
@[simp] theorem modSlot_priOut (n : Nat) (i : SlotId) (f : Slot → Slot) : (modSlot s n i f).priOut = s.priOut := rfl
@[simp] theorem modSlot_remotes (n : Nat) (i : SlotId) (f : Slot → Slot) : (modSlot s n i f).remotes = s.remotes := rfl
@[simp] theorem modSlot_inject (n : Nat) (i : SlotId) (f : Slot → Slot) : (modSlot s n i f).inject = s.inject := rfl
@[simp] theorem modSlot_inbound (n : Nat) (i : SlotId) (f : Slot → Slot) : (modSlot s n i f).inbound = s.inbound := rfl
@[simp] theorem modSlot_nextInbound (n : Nat) (i : SlotId) (f : Slot → Slot) : (modSlot s n i f).nextInbound = s.nextInbound := rfl
@[simp] theorem modSlot_winOld (n : Nat) (i : SlotId) (f : Slot → Slot) : (modSlot s n i f).winOld = s.winOld := rfl
@[simp] theorem modSlot_fab (n : Nat) (i : SlotId) (f : Slot → Slot) : (modSlot s n i f).fab = s.fab := rfl
@[simp] theorem modSlot_time (n : Nat) (i : SlotId) (f : Slot → Slot) : (modSlot s n i f).time = s.time := rfl
@[simp] theorem modSlot_nv (n : Nat) (i : SlotId) (f : Slot → Slot) : (modSlot s n i f).nv = s.nv := rfl
@[simp] theorem modSlot_sm (n : Nat) (i : SlotId) (f : Slot → Slot) : (modSlot s n i f).sm = s.sm := rfl
@[simp] theorem modSlot_power (n : Nat) (i : SlotId) (f : Slot → Slot) : (modSlot s n i f).power = s.power := rfl
@[simp] theorem modSlot_test (n : Nat) (i : SlotId) (f : Slot → Slot) : (modSlot s n i f).test = s.test := rfl
@[simp] theorem modSlot_host (n : Nat) (i : SlotId) (f : Slot → Slot) : (modSlot s n i f).host = s.host := rfl
@[simp] theorem modSlot_log (n : Nat) (i : SlotId) (f : Slot → Slot) : (modSlot s n i f).log = s.log := rfl
@[simp] theorem modSlot_trace (n : Nat) (i : SlotId) (f : Slot → Slot) : (modSlot s n i f).trace = s.trace := rfl
@[simp] theorem modSlot_linkRetry (n : Nat) (i : SlotId) (f : Slot → Slot) : (modSlot s n i f).linkRetry = s.linkRetry := rfl
@[simp] theorem modSlot_ueTimes (n : Nat) (i : SlotId) (f : Slot → Slot) : (modSlot s n i f).ueTimes = s.ueTimes := rfl
@[simp] theorem modSlot_now (n : Nat) (i : SlotId) (f : Slot → Slot) : (modSlot s n i f).now = s.now := rfl
@[simp] theorem modSlot_free (n : Nat) (i : SlotId) (f : Slot → Slot) : (modSlot s n i f).free = s.free := rfl

/-! ### modCmd -/

@[simp] theorem modCmd_variant (t : Nat) (f : Cmd → Cmd) : (modCmd s t f).variant = s.variant := rfl
@[simp] theorem modCmd_pending (t : Nat) (f : Cmd → Cmd) : (modCmd s t f).pending = s.pending := rfl
@[simp] theorem modCmd_regs (t : Nat) (f : Cmd → Cmd) : (modCmd s t f).regs = s.regs := rfl
@[simp] theorem modCmd_cores (t : Nat) (f : Cmd → Cmd) : (modCmd s t f).cores = s.cores := rfl
@[simp] theorem modCmd_seq (t : Nat) (f : Cmd → Cmd) : (modCmd s t f).seq = s.seq := rfl
@[simp] theorem modCmd_reqs (t : Nat) (f : Cmd → Cmd) : (modCmd s t f).reqs = s.reqs := rfl
@[simp] theorem modCmd_nextReq (t : Nat) (f : Cmd → Cmd) : (modCmd s t f).nextReq = s.nextReq := rfl
@[simp] theorem modCmd_hints (t : Nat) (f : Cmd → Cmd) : (modCmd s t f).hints = s.hints := rfl
@[simp] theorem modCmd_layers (t : Nat) (f : Cmd → Cmd) : (modCmd s t f).layers = s.layers := rfl
@[simp] theorem modCmd_mus (t : Nat) (f : Cmd → Cmd) : (modCmd s t f).mus = s.mus := rfl
@[simp] theorem modCmd_barriers (t : Nat) (f : Cmd → Cmd) : (modCmd s t f).barriers = s.barriers := rfl
@[simp] theorem modCmd_mergeNet (t : Nat) (f : Cmd → Cmd) : (modCmd s t f).mergeNet = s.mergeNet := rfl
@[simp] theorem modCmd_rmus (t : Nat) (f : Cmd → Cmd) : (modCmd s t f).rmus = s.rmus := rfl
@[simp] theorem modCmd_problems (t : Nat) (f : Cmd → Cmd) : (modCmd s t f).problems = s.problems := rfl
@[simp] theorem modCmd_nextProblem (t : Nat) (f : Cmd → Cmd) : (modCmd s t f).nextProblem = s.nextProblem := rfl
@[simp] theorem modCmd_solveNet (t : Nat) (f : Cmd → Cmd) : (modCmd s t f).solveNet = s.solveNet := rfl
@[simp] theorem modCmd_laneOff (t : Nat) (f : Cmd → Cmd) : (modCmd s t f).laneOff = s.laneOff := rfl
@[simp] theorem modCmd_govWin (t : Nat) (f : Cmd → Cmd) : (modCmd s t f).govWin = s.govWin := rfl
@[simp] theorem modCmd_slices (t : Nat) (f : Cmd → Cmd) : (modCmd s t f).slices = s.slices := rfl
@[simp] theorem modCmd_wayCmd (t : Nat) (f : Cmd → Cmd) : (modCmd s t f).wayCmd = s.wayCmd := rfl
@[simp] theorem modCmd_hbm (t : Nat) (f : Cmd → Cmd) : (modCmd s t f).hbm = s.hbm := rfl
@[simp] theorem modCmd_hbmPoison (t : Nat) (f : Cmd → Cmd) : (modCmd s t f).hbmPoison = s.hbmPoison := rfl
@[simp] theorem modCmd_own (t : Nat) (f : Cmd → Cmd) : (modCmd s t f).own = s.own := rfl
@[simp] theorem modCmd_looks (t : Nat) (f : Cmd → Cmd) : (modCmd s t f).looks = s.looks := rfl
@[simp] theorem modCmd_dtcG (t : Nat) (f : Cmd → Cmd) : (modCmd s t f).dtcG = s.dtcG := rfl
@[simp] theorem modCmd_dtcH (t : Nat) (f : Cmd → Cmd) : (modCmd s t f).dtcH = s.dtcH := rfl
@[simp] theorem modCmd_dtcFills (t : Nat) (f : Cmd → Cmd) : (modCmd s t f).dtcFills = s.dtcFills := rfl
@[simp] theorem modCmd_pend (t : Nat) (f : Cmd → Cmd) : (modCmd s t f).pend = s.pend := rfl
@[simp] theorem modCmd_batchOpen (t : Nat) (f : Cmd → Cmd) : (modCmd s t f).batchOpen = s.batchOpen := rfl
@[simp] theorem modCmd_batchHeld (t : Nat) (f : Cmd → Cmd) : (modCmd s t f).batchHeld = s.batchHeld := rfl
@[simp] theorem modCmd_hostSeq (t : Nat) (f : Cmd → Cmd) : (modCmd s t f).hostSeq = s.hostSeq := rfl
@[simp] theorem modCmd_px (t : Nat) (f : Cmd → Cmd) : (modCmd s t f).px = s.px := rfl
@[simp] theorem modCmd_pxNone (t : Nat) (f : Cmd → Cmd) : (modCmd s t f).pxNone = s.pxNone := rfl
@[simp] theorem modCmd_ctrl (t : Nat) (f : Cmd → Cmd) : (modCmd s t f).ctrl = s.ctrl := rfl
@[simp] theorem modCmd_epochs (t : Nat) (f : Cmd → Cmd) : (modCmd s t f).epochs = s.epochs := rfl
@[simp] theorem modCmd_epoch (t : Nat) (f : Cmd → Cmd) : (modCmd s t f).epoch = s.epoch := rfl
@[simp] theorem modCmd_priOut (t : Nat) (f : Cmd → Cmd) : (modCmd s t f).priOut = s.priOut := rfl
@[simp] theorem modCmd_remotes (t : Nat) (f : Cmd → Cmd) : (modCmd s t f).remotes = s.remotes := rfl
@[simp] theorem modCmd_inject (t : Nat) (f : Cmd → Cmd) : (modCmd s t f).inject = s.inject := rfl
@[simp] theorem modCmd_inbound (t : Nat) (f : Cmd → Cmd) : (modCmd s t f).inbound = s.inbound := rfl
@[simp] theorem modCmd_nextInbound (t : Nat) (f : Cmd → Cmd) : (modCmd s t f).nextInbound = s.nextInbound := rfl
@[simp] theorem modCmd_winOld (t : Nat) (f : Cmd → Cmd) : (modCmd s t f).winOld = s.winOld := rfl
@[simp] theorem modCmd_fab (t : Nat) (f : Cmd → Cmd) : (modCmd s t f).fab = s.fab := rfl
@[simp] theorem modCmd_time (t : Nat) (f : Cmd → Cmd) : (modCmd s t f).time = s.time := rfl
@[simp] theorem modCmd_nv (t : Nat) (f : Cmd → Cmd) : (modCmd s t f).nv = s.nv := rfl
@[simp] theorem modCmd_sm (t : Nat) (f : Cmd → Cmd) : (modCmd s t f).sm = s.sm := rfl
@[simp] theorem modCmd_power (t : Nat) (f : Cmd → Cmd) : (modCmd s t f).power = s.power := rfl
@[simp] theorem modCmd_test (t : Nat) (f : Cmd → Cmd) : (modCmd s t f).test = s.test := rfl
@[simp] theorem modCmd_host (t : Nat) (f : Cmd → Cmd) : (modCmd s t f).host = s.host := rfl
@[simp] theorem modCmd_log (t : Nat) (f : Cmd → Cmd) : (modCmd s t f).log = s.log := rfl
@[simp] theorem modCmd_trace (t : Nat) (f : Cmd → Cmd) : (modCmd s t f).trace = s.trace := rfl
@[simp] theorem modCmd_linkRetry (t : Nat) (f : Cmd → Cmd) : (modCmd s t f).linkRetry = s.linkRetry := rfl
@[simp] theorem modCmd_ueTimes (t : Nat) (f : Cmd → Cmd) : (modCmd s t f).ueTimes = s.ueTimes := rfl
@[simp] theorem modCmd_now (t : Nat) (f : Cmd → Cmd) : (modCmd s t f).now = s.now := rfl
@[simp] theorem modCmd_free (t : Nat) (f : Cmd → Cmd) : (modCmd s t f).free = s.free := rfl

/-! ### takeTag -/

@[simp] theorem takeTag_variant (t : Nat) (o : Option (Nat × SlotId)) (x : Nat) (c : Option Cmd) : (takeTag s t o x c).variant = s.variant := rfl
@[simp] theorem takeTag_pending (t : Nat) (o : Option (Nat × SlotId)) (x : Nat) (c : Option Cmd) : (takeTag s t o x c).pending = s.pending := rfl
@[simp] theorem takeTag_regs (t : Nat) (o : Option (Nat × SlotId)) (x : Nat) (c : Option Cmd) : (takeTag s t o x c).regs = s.regs := rfl
@[simp] theorem takeTag_cores (t : Nat) (o : Option (Nat × SlotId)) (x : Nat) (c : Option Cmd) : (takeTag s t o x c).cores = s.cores := rfl
@[simp] theorem takeTag_seq (t : Nat) (o : Option (Nat × SlotId)) (x : Nat) (c : Option Cmd) : (takeTag s t o x c).seq = s.seq := rfl
@[simp] theorem takeTag_reqs (t : Nat) (o : Option (Nat × SlotId)) (x : Nat) (c : Option Cmd) : (takeTag s t o x c).reqs = s.reqs := rfl
@[simp] theorem takeTag_nextReq (t : Nat) (o : Option (Nat × SlotId)) (x : Nat) (c : Option Cmd) : (takeTag s t o x c).nextReq = s.nextReq := rfl
@[simp] theorem takeTag_hints (t : Nat) (o : Option (Nat × SlotId)) (x : Nat) (c : Option Cmd) : (takeTag s t o x c).hints = s.hints := rfl
@[simp] theorem takeTag_layers (t : Nat) (o : Option (Nat × SlotId)) (x : Nat) (c : Option Cmd) : (takeTag s t o x c).layers = s.layers := rfl
@[simp] theorem takeTag_mus (t : Nat) (o : Option (Nat × SlotId)) (x : Nat) (c : Option Cmd) : (takeTag s t o x c).mus = s.mus := rfl
@[simp] theorem takeTag_barriers (t : Nat) (o : Option (Nat × SlotId)) (x : Nat) (c : Option Cmd) : (takeTag s t o x c).barriers = s.barriers := rfl
@[simp] theorem takeTag_mergeNet (t : Nat) (o : Option (Nat × SlotId)) (x : Nat) (c : Option Cmd) : (takeTag s t o x c).mergeNet = s.mergeNet := rfl
@[simp] theorem takeTag_rmus (t : Nat) (o : Option (Nat × SlotId)) (x : Nat) (c : Option Cmd) : (takeTag s t o x c).rmus = s.rmus := rfl
@[simp] theorem takeTag_problems (t : Nat) (o : Option (Nat × SlotId)) (x : Nat) (c : Option Cmd) : (takeTag s t o x c).problems = s.problems := rfl
@[simp] theorem takeTag_nextProblem (t : Nat) (o : Option (Nat × SlotId)) (x : Nat) (c : Option Cmd) : (takeTag s t o x c).nextProblem = s.nextProblem := rfl
@[simp] theorem takeTag_solveNet (t : Nat) (o : Option (Nat × SlotId)) (x : Nat) (c : Option Cmd) : (takeTag s t o x c).solveNet = s.solveNet := rfl
@[simp] theorem takeTag_laneOff (t : Nat) (o : Option (Nat × SlotId)) (x : Nat) (c : Option Cmd) : (takeTag s t o x c).laneOff = s.laneOff := rfl
@[simp] theorem takeTag_govWin (t : Nat) (o : Option (Nat × SlotId)) (x : Nat) (c : Option Cmd) : (takeTag s t o x c).govWin = s.govWin := rfl
@[simp] theorem takeTag_slices (t : Nat) (o : Option (Nat × SlotId)) (x : Nat) (c : Option Cmd) : (takeTag s t o x c).slices = s.slices := rfl
@[simp] theorem takeTag_wayCmd (t : Nat) (o : Option (Nat × SlotId)) (x : Nat) (c : Option Cmd) : (takeTag s t o x c).wayCmd = s.wayCmd := rfl
@[simp] theorem takeTag_hbm (t : Nat) (o : Option (Nat × SlotId)) (x : Nat) (c : Option Cmd) : (takeTag s t o x c).hbm = s.hbm := rfl
@[simp] theorem takeTag_hbmPoison (t : Nat) (o : Option (Nat × SlotId)) (x : Nat) (c : Option Cmd) : (takeTag s t o x c).hbmPoison = s.hbmPoison := rfl
@[simp] theorem takeTag_own (t : Nat) (o : Option (Nat × SlotId)) (x : Nat) (c : Option Cmd) : (takeTag s t o x c).own = s.own := rfl
@[simp] theorem takeTag_looks (t : Nat) (o : Option (Nat × SlotId)) (x : Nat) (c : Option Cmd) : (takeTag s t o x c).looks = s.looks := rfl
@[simp] theorem takeTag_dtcG (t : Nat) (o : Option (Nat × SlotId)) (x : Nat) (c : Option Cmd) : (takeTag s t o x c).dtcG = s.dtcG := rfl
@[simp] theorem takeTag_dtcH (t : Nat) (o : Option (Nat × SlotId)) (x : Nat) (c : Option Cmd) : (takeTag s t o x c).dtcH = s.dtcH := rfl
@[simp] theorem takeTag_dtcFills (t : Nat) (o : Option (Nat × SlotId)) (x : Nat) (c : Option Cmd) : (takeTag s t o x c).dtcFills = s.dtcFills := rfl
@[simp] theorem takeTag_pend (t : Nat) (o : Option (Nat × SlotId)) (x : Nat) (c : Option Cmd) : (takeTag s t o x c).pend = s.pend := rfl
@[simp] theorem takeTag_batchOpen (t : Nat) (o : Option (Nat × SlotId)) (x : Nat) (c : Option Cmd) : (takeTag s t o x c).batchOpen = s.batchOpen := rfl
@[simp] theorem takeTag_batchHeld (t : Nat) (o : Option (Nat × SlotId)) (x : Nat) (c : Option Cmd) : (takeTag s t o x c).batchHeld = s.batchHeld := rfl
@[simp] theorem takeTag_hostSeq (t : Nat) (o : Option (Nat × SlotId)) (x : Nat) (c : Option Cmd) : (takeTag s t o x c).hostSeq = s.hostSeq := rfl
@[simp] theorem takeTag_px (t : Nat) (o : Option (Nat × SlotId)) (x : Nat) (c : Option Cmd) : (takeTag s t o x c).px = s.px := rfl
@[simp] theorem takeTag_pxNone (t : Nat) (o : Option (Nat × SlotId)) (x : Nat) (c : Option Cmd) : (takeTag s t o x c).pxNone = s.pxNone := rfl
@[simp] theorem takeTag_ctrl (t : Nat) (o : Option (Nat × SlotId)) (x : Nat) (c : Option Cmd) : (takeTag s t o x c).ctrl = s.ctrl := rfl
@[simp] theorem takeTag_epochs (t : Nat) (o : Option (Nat × SlotId)) (x : Nat) (c : Option Cmd) : (takeTag s t o x c).epochs = s.epochs := rfl
@[simp] theorem takeTag_epoch (t : Nat) (o : Option (Nat × SlotId)) (x : Nat) (c : Option Cmd) : (takeTag s t o x c).epoch = s.epoch := rfl
@[simp] theorem takeTag_priOut (t : Nat) (o : Option (Nat × SlotId)) (x : Nat) (c : Option Cmd) : (takeTag s t o x c).priOut = s.priOut := rfl
@[simp] theorem takeTag_remotes (t : Nat) (o : Option (Nat × SlotId)) (x : Nat) (c : Option Cmd) : (takeTag s t o x c).remotes = s.remotes := rfl
@[simp] theorem takeTag_inject (t : Nat) (o : Option (Nat × SlotId)) (x : Nat) (c : Option Cmd) : (takeTag s t o x c).inject = s.inject := rfl
@[simp] theorem takeTag_inbound (t : Nat) (o : Option (Nat × SlotId)) (x : Nat) (c : Option Cmd) : (takeTag s t o x c).inbound = s.inbound := rfl
@[simp] theorem takeTag_nextInbound (t : Nat) (o : Option (Nat × SlotId)) (x : Nat) (c : Option Cmd) : (takeTag s t o x c).nextInbound = s.nextInbound := rfl
@[simp] theorem takeTag_winOld (t : Nat) (o : Option (Nat × SlotId)) (x : Nat) (c : Option Cmd) : (takeTag s t o x c).winOld = s.winOld := rfl
@[simp] theorem takeTag_fab (t : Nat) (o : Option (Nat × SlotId)) (x : Nat) (c : Option Cmd) : (takeTag s t o x c).fab = s.fab := rfl
@[simp] theorem takeTag_time (t : Nat) (o : Option (Nat × SlotId)) (x : Nat) (c : Option Cmd) : (takeTag s t o x c).time = s.time := rfl
@[simp] theorem takeTag_nv (t : Nat) (o : Option (Nat × SlotId)) (x : Nat) (c : Option Cmd) : (takeTag s t o x c).nv = s.nv := rfl
@[simp] theorem takeTag_sm (t : Nat) (o : Option (Nat × SlotId)) (x : Nat) (c : Option Cmd) : (takeTag s t o x c).sm = s.sm := rfl
@[simp] theorem takeTag_power (t : Nat) (o : Option (Nat × SlotId)) (x : Nat) (c : Option Cmd) : (takeTag s t o x c).power = s.power := rfl
@[simp] theorem takeTag_test (t : Nat) (o : Option (Nat × SlotId)) (x : Nat) (c : Option Cmd) : (takeTag s t o x c).test = s.test := rfl
@[simp] theorem takeTag_host (t : Nat) (o : Option (Nat × SlotId)) (x : Nat) (c : Option Cmd) : (takeTag s t o x c).host = s.host := rfl
@[simp] theorem takeTag_log (t : Nat) (o : Option (Nat × SlotId)) (x : Nat) (c : Option Cmd) : (takeTag s t o x c).log = s.log := rfl
@[simp] theorem takeTag_trace (t : Nat) (o : Option (Nat × SlotId)) (x : Nat) (c : Option Cmd) : (takeTag s t o x c).trace = s.trace := rfl
@[simp] theorem takeTag_linkRetry (t : Nat) (o : Option (Nat × SlotId)) (x : Nat) (c : Option Cmd) : (takeTag s t o x c).linkRetry = s.linkRetry := rfl
@[simp] theorem takeTag_ueTimes (t : Nat) (o : Option (Nat × SlotId)) (x : Nat) (c : Option Cmd) : (takeTag s t o x c).ueTimes = s.ueTimes := rfl
@[simp] theorem takeTag_now (t : Nat) (o : Option (Nat × SlotId)) (x : Nat) (c : Option Cmd) : (takeTag s t o x c).now = s.now := rfl
@[simp] theorem takeTag_free (t : Nat) (o : Option (Nat × SlotId)) (x : Nat) (c : Option Cmd) : (takeTag s t o x c).free = s.free := rfl

/-! ### stepDone -/

@[simp] theorem stepDone_variant (n : Nat) (i : SlotId) : (stepDone s n i).variant = s.variant := rfl
@[simp] theorem stepDone_pending (n : Nat) (i : SlotId) : (stepDone s n i).pending = s.pending := rfl
@[simp] theorem stepDone_regs (n : Nat) (i : SlotId) : (stepDone s n i).regs = s.regs := rfl
@[simp] theorem stepDone_tags (n : Nat) (i : SlotId) : (stepDone s n i).tags = s.tags := rfl
@[simp] theorem stepDone_seq (n : Nat) (i : SlotId) : (stepDone s n i).seq = s.seq := rfl
@[simp] theorem stepDone_reqs (n : Nat) (i : SlotId) : (stepDone s n i).reqs = s.reqs := rfl
@[simp] theorem stepDone_nextReq (n : Nat) (i : SlotId) : (stepDone s n i).nextReq = s.nextReq := rfl
@[simp] theorem stepDone_hints (n : Nat) (i : SlotId) : (stepDone s n i).hints = s.hints := rfl
@[simp] theorem stepDone_layers (n : Nat) (i : SlotId) : (stepDone s n i).layers = s.layers := rfl
@[simp] theorem stepDone_mus (n : Nat) (i : SlotId) : (stepDone s n i).mus = s.mus := rfl
@[simp] theorem stepDone_barriers (n : Nat) (i : SlotId) : (stepDone s n i).barriers = s.barriers := rfl
@[simp] theorem stepDone_mergeNet (n : Nat) (i : SlotId) : (stepDone s n i).mergeNet = s.mergeNet := rfl
@[simp] theorem stepDone_rmus (n : Nat) (i : SlotId) : (stepDone s n i).rmus = s.rmus := rfl
@[simp] theorem stepDone_problems (n : Nat) (i : SlotId) : (stepDone s n i).problems = s.problems := rfl
@[simp] theorem stepDone_nextProblem (n : Nat) (i : SlotId) : (stepDone s n i).nextProblem = s.nextProblem := rfl
@[simp] theorem stepDone_solveNet (n : Nat) (i : SlotId) : (stepDone s n i).solveNet = s.solveNet := rfl
@[simp] theorem stepDone_laneOff (n : Nat) (i : SlotId) : (stepDone s n i).laneOff = s.laneOff := rfl
@[simp] theorem stepDone_govWin (n : Nat) (i : SlotId) : (stepDone s n i).govWin = s.govWin := rfl
@[simp] theorem stepDone_slices (n : Nat) (i : SlotId) : (stepDone s n i).slices = s.slices := rfl
@[simp] theorem stepDone_wayCmd (n : Nat) (i : SlotId) : (stepDone s n i).wayCmd = s.wayCmd := rfl
@[simp] theorem stepDone_hbm (n : Nat) (i : SlotId) : (stepDone s n i).hbm = s.hbm := rfl
@[simp] theorem stepDone_hbmPoison (n : Nat) (i : SlotId) : (stepDone s n i).hbmPoison = s.hbmPoison := rfl
@[simp] theorem stepDone_own (n : Nat) (i : SlotId) : (stepDone s n i).own = s.own := rfl
@[simp] theorem stepDone_looks (n : Nat) (i : SlotId) : (stepDone s n i).looks = s.looks := rfl
@[simp] theorem stepDone_dtcG (n : Nat) (i : SlotId) : (stepDone s n i).dtcG = s.dtcG := rfl
@[simp] theorem stepDone_dtcH (n : Nat) (i : SlotId) : (stepDone s n i).dtcH = s.dtcH := rfl
@[simp] theorem stepDone_dtcFills (n : Nat) (i : SlotId) : (stepDone s n i).dtcFills = s.dtcFills := rfl
@[simp] theorem stepDone_pend (n : Nat) (i : SlotId) : (stepDone s n i).pend = s.pend := rfl
@[simp] theorem stepDone_batchOpen (n : Nat) (i : SlotId) : (stepDone s n i).batchOpen = s.batchOpen := rfl
@[simp] theorem stepDone_batchHeld (n : Nat) (i : SlotId) : (stepDone s n i).batchHeld = s.batchHeld := rfl
@[simp] theorem stepDone_hostSeq (n : Nat) (i : SlotId) : (stepDone s n i).hostSeq = s.hostSeq := rfl
@[simp] theorem stepDone_px (n : Nat) (i : SlotId) : (stepDone s n i).px = s.px := rfl
@[simp] theorem stepDone_pxNone (n : Nat) (i : SlotId) : (stepDone s n i).pxNone = s.pxNone := rfl
@[simp] theorem stepDone_ctrl (n : Nat) (i : SlotId) : (stepDone s n i).ctrl = s.ctrl := rfl
@[simp] theorem stepDone_epochs (n : Nat) (i : SlotId) : (stepDone s n i).epochs = s.epochs := rfl
@[simp] theorem stepDone_epoch (n : Nat) (i : SlotId) : (stepDone s n i).epoch = s.epoch := rfl
@[simp] theorem stepDone_priOut (n : Nat) (i : SlotId) : (stepDone s n i).priOut = s.priOut := rfl
@[simp] theorem stepDone_remotes (n : Nat) (i : SlotId) : (stepDone s n i).remotes = s.remotes := rfl
@[simp] theorem stepDone_inject (n : Nat) (i : SlotId) : (stepDone s n i).inject = s.inject := rfl
@[simp] theorem stepDone_inbound (n : Nat) (i : SlotId) : (stepDone s n i).inbound = s.inbound := rfl
@[simp] theorem stepDone_nextInbound (n : Nat) (i : SlotId) : (stepDone s n i).nextInbound = s.nextInbound := rfl
@[simp] theorem stepDone_winOld (n : Nat) (i : SlotId) : (stepDone s n i).winOld = s.winOld := rfl
@[simp] theorem stepDone_fab (n : Nat) (i : SlotId) : (stepDone s n i).fab = s.fab := rfl
@[simp] theorem stepDone_time (n : Nat) (i : SlotId) : (stepDone s n i).time = s.time := rfl
@[simp] theorem stepDone_nv (n : Nat) (i : SlotId) : (stepDone s n i).nv = s.nv := rfl
@[simp] theorem stepDone_sm (n : Nat) (i : SlotId) : (stepDone s n i).sm = s.sm := rfl
@[simp] theorem stepDone_power (n : Nat) (i : SlotId) : (stepDone s n i).power = s.power := rfl
@[simp] theorem stepDone_test (n : Nat) (i : SlotId) : (stepDone s n i).test = s.test := rfl
@[simp] theorem stepDone_host (n : Nat) (i : SlotId) : (stepDone s n i).host = s.host := rfl
@[simp] theorem stepDone_log (n : Nat) (i : SlotId) : (stepDone s n i).log = s.log := rfl
@[simp] theorem stepDone_trace (n : Nat) (i : SlotId) : (stepDone s n i).trace = s.trace := rfl
@[simp] theorem stepDone_linkRetry (n : Nat) (i : SlotId) : (stepDone s n i).linkRetry = s.linkRetry := rfl
@[simp] theorem stepDone_ueTimes (n : Nat) (i : SlotId) : (stepDone s n i).ueTimes = s.ueTimes := rfl
@[simp] theorem stepDone_now (n : Nat) (i : SlotId) : (stepDone s n i).now = s.now := rfl
@[simp] theorem stepDone_free (n : Nat) (i : SlotId) : (stepDone s n i).free = s.free := rfl

end Sys2Proof.Machine
end

