-- ==== Sys2Proof/Laws/Ops.lean ====
section
/-! SUPPORT. What the shared operations do, once each: guards, registers of the register file, cores and slots, tags, queues,
the register files of a slot, local store. -/

namespace Sys2Proof.Machine

/-! ### Guards -/

@[simp] theorem need_true (why : Fault) (t : Res) : need true why t = t := rfl

@[simp] theorem need_false (why : Fault) (t : Res) : need false why t = .fault why := rfl

theorem need_pos {b : Bool} (h : b = true) (why : Fault) (t : Res) : need b why t = t := by rw [h]; rfl

/-- A guarded meaning answers a next state only when its guard holds. -/
theorem need_next {b : Bool} {why : Fault} {t : Res} {s : State} (h : need b why t = .next s) : b = true ∧ t = .next s := by
  cases b with
  | true => exact ⟨rfl, h⟩
  | false => cases h

@[simp] theorem whenDue_true (s : State) (t : Res) : whenDue true s t = t := rfl

@[simp] theorem whenDue_false (s : State) (t : Res) : whenDue false s t = .next s := rfl

theorem whenDue_pos {b : Bool} (h : b = true) (s : State) (t : Res) : whenDue b s t = t := by rw [h]; rfl

/-- Everything an event can do: it occurs, or the state stays as it is. -/
theorem whenDue_cases {b : Bool} {s : State} {t r : Res} (h : whenDue b s t = r) :
    b = true ∧ r = t ∨ b = false ∧ r = .next s := by
  cases b with
  | true => exact .inl ⟨rfl, h.symm⟩
  | false => exact .inr ⟨rfl, h.symm⟩

/-! ### Control registers -/

theorem regVal_setReg (s : State) (r : RegName) (u i j : Nat) (v : W64) : regVal (setReg s r u i j v) r u i j = v := by
  simp [regVal, setReg, spGet_put]

theorem regVal_setReg_ne (s : State) {r q : RegName} {u i j u' i' j' : Nat} (v : W64)
    (h : regAddr q u' i' j' ≠ regAddr r u i j) : regVal (setReg s r u i j v) q u' i' j' = regVal s q u' i' j' := by
  simp [regVal, setReg, spGet_put_ne _ _ _ h]

theorem regVal_congr {s t : State} (h : t.regs = s.regs) (r : RegName) (u i j : Nat) : regVal t r u i j = regVal s r u i j := by
  simp [regVal, h]

theorem regVal_bump (s : State) (r : RegName) (u i j n : Nat) :
    regVal (bump s r u i j n) r u i j = regVal s r u i j + BitVec.ofNat 64 n := regVal_setReg _ _ _ _ _ _

theorem regVal_bump_ne (s : State) {r q : RegName} {u i j u' i' j' : Nat} (n : Nat)
    (h : regAddr q u' i' j' ≠ regAddr r u i j) : regVal (bump s r u i j n) q u' i' j' = regVal s q u' i' j' :=
  regVal_setReg_ne _ _ h

/-- A register at another address keeps its listed value. -/
theorem spGet_regs_setReg_ne (s : State) (r : RegName) (u i j : Nat) (v : W64) {a : Nat} (h : a ≠ regAddr r u i j) :
    spGet none a (setReg s r u i j v).regs = spGet none a s.regs := spGet_put_ne _ _ _ h

/-! ### Cores and slots -/

@[simp] theorem getCore_setCore (s : State) (n : Nat) (c : Core) : getCore (setCore s n c) n = c := by
  simp [getCore, setCore, spGet_set]

theorem getCore_setCore_ne (s : State) {n m : Nat} (c : Core) (h : m ≠ n) : getCore (setCore s n c) m = getCore s m := by
  simp [getCore, setCore, spGet_set_ne _ _ _ h]

@[simp] theorem getCore_modCore (s : State) (n : Nat) (f : Core → Core) : getCore (modCore s n f) n = f (getCore s n) := by
  simp [modCore]

theorem getCore_modCore_ne (s : State) {n m : Nat} (f : Core → Core) (h : m ≠ n) :
    getCore (modCore s n f) m = getCore s m := getCore_setCore_ne s _ h

theorem getCore_congr {s t : State} (h : t.cores = s.cores) (n : Nat) : getCore t n = getCore s n := by simp [getCore, h]

@[simp] theorem coreSlot_setCoreSlot (c : Core) (i : SlotId) (x : Slot) : coreSlot (setCoreSlot c i x) i = x := by
  cases i <;> rfl

theorem coreSlot_setCoreSlot_ne (c : Core) {i j : SlotId} (x : Slot) (h : j ≠ i) :
    coreSlot (setCoreSlot c i x) j = coreSlot c j := by
  cases i <;> cases j <;> first | rfl | exact absurd rfl h

@[simp] theorem setCoreSlot_setCoreSlot (c : Core) (i : SlotId) (x y : Slot) :
    setCoreSlot (setCoreSlot c i x) i y = setCoreSlot c i y := by cases i <;> rfl

@[simp] theorem setCoreSlot_coreSlot (c : Core) (i : SlotId) : setCoreSlot c i (coreSlot c i) = c := by cases i <;> rfl

@[simp] theorem getCore_setSlot (s : State) (n : Nat) (i : SlotId) (x : Slot) :
    getCore (setSlot s n i x) n = setCoreSlot (getCore s n) i x := by simp [setSlot]

theorem getCore_setSlot_ne (s : State) {n m : Nat} (i : SlotId) (x : Slot) (h : m ≠ n) :
    getCore (setSlot s n i x) m = getCore s m := getCore_setCore_ne s _ h

@[simp] theorem getSlot_setSlot (s : State) (n : Nat) (i : SlotId) (x : Slot) : getSlot (setSlot s n i x) n i = x := by
  simp [getSlot]

@[simp] theorem getCore_modSlot (s : State) (n : Nat) (i : SlotId) (f : Slot → Slot) :
    getCore (modSlot s n i f) n = setCoreSlot (getCore s n) i (f (getSlot s n i)) := by simp [modSlot]

theorem getCore_modSlot_ne (s : State) {n m : Nat} (i : SlotId) (f : Slot → Slot) (h : m ≠ n) :
    getCore (modSlot s n i f) m = getCore s m := getCore_setCore_ne s _ h

@[simp] theorem getSlot_modSlot (s : State) (n : Nat) (i : SlotId) (f : Slot → Slot) :
    getSlot (modSlot s n i f) n i = f (getSlot s n i) := by simp [getSlot]

@[simp] theorem getCore_setReg (s : State) (r : RegName) (u i j n : Nat) (v : W64) :
    getCore (setReg s r u i j v) n = getCore s n := rfl

@[simp] theorem getCore_bump (s : State) (r : RegName) (u i j k n : Nat) : getCore (bump s r u i j k) n = getCore s n := rfl

@[simp] theorem getCore_setTag (s : State) (t n : Nat) (x : Tag) : getCore (setTag s t x) n = getCore s n := rfl

@[simp] theorem getSlot_setReg (s : State) (r : RegName) (u i j n : Nat) (k : SlotId) (v : W64) :
    getSlot (setReg s r u i j v) n k = getSlot s n k := rfl

@[simp] theorem getSlot_bump (s : State) (r : RegName) (u i j m n : Nat) (k : SlotId) :
    getSlot (bump s r u i j m) n k = getSlot s n k := rfl

/-! ### Tags and queues -/

@[simp] theorem getTag_setTag (s : State) (t : Nat) (x : Tag) : getTag (setTag s t x) t = x := by
  simp [getTag, setTag, spGet_set]

theorem getTag_setTag_ne (s : State) {t u : Nat} (x : Tag) (h : u ≠ t) : getTag (setTag s t x) u = getTag s u := by
  simp [getTag, setTag, spGet_set_ne _ _ _ h]

@[simp] theorem getQueue_setQueue (s : State) (ctx q : Nat) (x : Queue) : getQueue (setQueue s ctx q x) ctx q = x := by
  simp [getQueue, setQueue, spGet_set]

theorem getQueue_setQueue_ne (s : State) {ctx q ctx' q' : Nat} (x : Queue) (h : qKey ctx' q' ≠ qKey ctx q) :
    getQueue (setQueue s ctx q x) ctx' q' = getQueue s ctx' q' := by
  simp [getQueue, setQueue, spGet_set_ne _ _ _ h]

/-! ### The register files of a slot (R91, R92) -/

@[simp] theorem getG_zero (x : Slot) : getG x 0#5 = 0#64 := rfl

@[simp] theorem setG_zero (x : Slot) (v : W64) : setG x 0#5 v = x := rfl

theorem getG_setG (x : Slot) {r : Reg} (v : W64) (h : r ≠ 0#5) : getG (setG x r v) r = v := by
  simp [getG, setG, h, spGet_set]

theorem getG_setG_ne (x : Slot) {r q : Reg} (v : W64) (h : q ≠ r) : getG (setG x r v) q = getG x q := by
  by_cases hr : r = 0#5
  · simp [setG, hr]
  · by_cases hq : q = 0#5
    · simp [getG, hq]
    · have hn : q.toNat ≠ r.toNat := fun e => h (BitVec.eq_of_toNat_eq e)
      simp [getG, setG, hr, hq, spGet_set_ne _ _ _ hn]

@[simp] theorem getF_setF (x : Slot) (r : Reg) (v : W64) : getF (setF x r v) r = v := by simp [getF, setF, spGet_set]

theorem getF_setF_ne (x : Slot) {r q : Reg} (v : W64) (h : q ≠ r) : getF (setF x r v) q = getF x q := by
  have hn : q.toNat ≠ r.toNat := fun e => h (BitVec.eq_of_toNat_eq e)
  simp [getF, setF, spGet_set_ne _ _ _ hn]

@[simp] theorem getF_setG (x : Slot) (r q : Reg) (v : W64) : getF (setG x r v) q = getF x q := by
  unfold setG; split <;> rfl

@[simp] theorem getG_setF (x : Slot) (r q : Reg) (v : W64) : getG (setF x r v) q = getG x q := rfl

@[simp] theorem setG_pc (x : Slot) (r : Reg) (v : W64) : (setG x r v).pc = x.pc := by unfold setG; split <;> rfl

@[simp] theorem setF_pc (x : Slot) (r : Reg) (v : W64) : (setF x r v).pc = x.pc := rfl

/-! ### Local store -/

theorem lsMark_ls (a n : Nat) (bad : Bool) (fuel w : Nat) (c : Core) : (lsMark a n bad fuel w c).ls = c.ls := by
  induction fuel generalizing w c with
  | zero => rfl
  | succ k ih => rw [lsMark, ih]

/-- Poison bookkeeping changes the poison bits and nothing else. -/
theorem lsMark_only (a n : Nat) (bad : Bool) (fuel w : Nat) (c : Core) :
    lsMark a n bad fuel w c = { c with lsPoison := (lsMark a n bad fuel w c).lsPoison } := by
  induction fuel generalizing w c with
  | zero => rfl
  | succ k ih => rw [lsMark, ih]

@[simp] theorem lsWrite_ls (c : Core) (a : Nat) (bs : List Byte) (bad : Bool) :
    (lsWrite c a bs bad).ls = memWrite c.ls a bs := lsMark_ls ..

/-- A write to local store keeps its canonical form. -/
theorem lsWrite_wf (c : Core) (a : Nat) (bs : List Byte) (bad : Bool) (h : memWf c.ls = true) :
    memWf (lsWrite c a bs bad).ls = true := by
  rw [lsWrite_ls]; exact memWf_write _ _ _ h

theorem lsWrite_only (c : Core) (a : Nat) (bs : List Byte) (bad : Bool) :
    lsWrite c a bs bad
      = { c with ls := (lsWrite c a bs bad).ls, lsPoison := (lsWrite c a bs bad).lsPoison } := by
  unfold lsWrite
  rw [lsMark_only]

end Sys2Proof.Machine
end

