-- ==== Sys2Proof/Laws/Gate.lean ====
section
/-! SUPPORT. What the commit gate does, once: an instruction that passes it commits, traps or waits, and what that leaves
alone. -/

namespace Sys2Proof.Machine

theorem commit_done {w : Wew} {ch : Choice} {a : At} {s s' : State} (h : AtGate a w s)
    (he : wewEffect w ch a.core.val a.slot s = .done s') :
    commit w ch a s = .next (afterCommit w a.core.val a.slot s') := by
  obtain ⟨⟨h1, ⟨g, h2, h3⟩, h4⟩, h5⟩ := h
  unfold theSlot at h5
  simp [commit, h1, h2, h3, h4, gate, h5, he, applyEff]

/-- Only an engine command of the express slot does more after its commit than end a debug step (R239, R720). -/
theorem afterCommit_plain {w : Wew} (h : engineWork w = false) (n : Nat) (i : SlotId) (s : State) :
    afterCommit w n i s = stepDone s n i := by simp [afterCommit, h]

theorem getCore_stepDone (s : State) (n : Nat) (i : SlotId) :
    getCore (stepDone s n i) n = { getCore s n with stepping := (getCore (stepDone s n i) n).stepping, skipBp := (getCore (stepDone s n i) n).skipBp } := by
  simp [stepDone]

theorem getCore_stepDone_ne (s : State) (n m : Nat) (i : SlotId) (h : m ≠ n) :
    getCore (stepDone s n i) m = getCore s m := by
  simp [stepDone, getCore_modCore_ne _ _ h]

theorem theSlot_stepDone (s : State) (a : At) : theSlot (stepDone s a.core.val a.slot) a = theSlot s a := by
  unfold theSlot getSlot
  rw [getCore_stepDone]
  cases a.slot <;> rfl

theorem onlySlot_setSlot (s : State) (a : At) (x : Slot) :
    OnlySlot a s (stepDone (setSlot s a.core.val a.slot x) a.core.val a.slot) := by
  refine ⟨⟨by rfl, ?_⟩, ?_⟩
  · intro m hm
    rw [getCore_stepDone_ne _ _ _ _ hm, getCore_setSlot_ne _ _ _ hm]
  · unfold SameCoreButSlot
    rw [theSlot_stepDone]
    rw [getCore_stepDone]
    simp [theSlot]

/-- An instruction that passes the gate and waits becomes the held instruction of its slot (R102), with the operand block it has
read (R176). -/
theorem commit_hold {w : Wew} {ch : Choice} {a : At} {s : State} {why : Stall} (h : AtGate a w s)
    (he : wewEffect w ch a.core.val a.slot s = .hold why) :
    commit w ch a s
      = .next (holdAt w why none a.core.val a.slot (modSlot s a.core.val a.slot fun x => { x with timeUp := false })) := by
  obtain ⟨⟨h1, ⟨g, h2, h3⟩, h4⟩, h5⟩ := h
  unfold theSlot at h5
  simp [commit, h1, h2, h3, h4, gate, h5, he, applyEff]

/-- An instruction that passes the gate and traps takes its fault (R117, R119). -/
theorem commit_trap {w : Wew} {ch : Choice} {a : At} {s : State} {c : Trap} {v : W64} (h : AtGate a w s)
    (he : wewEffect w ch a.core.val a.slot s = .trap c v) :
    commit w ch a s = .next (takeFault (stepDone s a.core.val a.slot) a.core.val a.slot c v) := by
  obtain ⟨⟨h1, ⟨g, h2, h3⟩, h4⟩, h5⟩ := h
  unfold theSlot at h5
  simp [commit, h1, h2, h3, h4, gate, h5, he, applyEff]

end Sys2Proof.Machine
end

