-- ==== Sys2Proof/Tests/Slice0.lean ====
section
/-! SUPPORT. Small tests: ill-formed commands are refused, words written out from the format tables decode, single steps; and for
every statement with hypotheses a witness, a state and operands that meet them. -/

namespace Sys2Proof.Tests

open Sys2Proof Sys2Proof.Machine

set_option Elab.async false

/-! ### States -/

/-- A part that has come up and has a host. -/
def up0 : State :=
  setFld { State.reset with
    power := { powerReset with por := false, perst := false, rails := .on, phase := 7, booted := true }
    sm := { smReset with st := 2 }
    host := { hostReset with linkUp := true }
    fab := { fabricReset with committed := true, locked := true }
    time := { timeReset with running := true, sub := 500000000 * 2 ^ 32 } } .jnCfg 0 0 0 0 1 1

def up : State := { up0 with now := snapOf (copy16 up0.time) }

/-- Virtual addresses 0 to 0xFFFFF of context 1 are device memory that may be executed. -/
def seg0 : Seg := ⟨0, true, true, true, 0, false, false, 0, 0x100000, 0, 0⟩

/-- The bulk slot of core 0. -/
def a0 : At := ⟨0, .bulk⟩

def slot0 : Slot := { slotReset with phase := .running, ctx := 1, pc := 0x1000#48 }

def core0 : Core := { coreReset with bulk := slot0, look := lookInstall coreReset.look (coreShare coreReset .bulk) 1 seg0 }

/-- Core 0 runs a program of context 1. -/
def run : State := setCore up 0 core0

/-- The same with g1 and g2 given. -/
def runG (x y : W64) : State := setCore up 0 { core0 with bulk := setG (setG slot0 1#5 x) 2#5 y }

/-- The gate of a slot, as a Bool. -/
def gateB (a : At) (w : Wew) (s : State) : Bool :=
  canCommit s a.core.val a.slot && ((fetchSeg s a.core.val a.slot).map (·.x) == some true)
    && !atBreakpoint s a.core.val a.slot && (copWait (theSlot s a) w).isNone

theorem atGate {a : At} {w : Wew} {s : State} (h : gateB a w s = true) : AtGate a w s := by
  simp only [gateB, Bool.and_eq_true, beq_iff_eq, Option.map_eq_some_iff, Bool.not_eq_true',
    Option.isNone_iff_eq_none] at h
  obtain ⟨⟨⟨h1, g, h2, h3⟩, h4⟩, h5⟩ := h
  exact ⟨⟨h1, ⟨g, h2, h3⟩, h4⟩, h5⟩

theorem gateOpen {a : At} {s : State} (h : gateB a .brk s = true) : GateOpen a s := (atGate h).1

/-- What the governor writes: a descriptor at offset 0. -/
def govw : GovWrite :=
  ⟨0, 192, 21792, 22032, 22272, 29472, 30192, 30912,
    ⟨List.replicate 4 0#64, List.replicate 4 0#64, List.replicate 4 0#64, List.replicate 16 0#64, 0#64, 0#64⟩⟩

/-- A flit header that acknowledges nothing. -/
def head0 : FlitHead := ⟨0#16, none, false, 0#32⟩

/-! ### Well-formedness -/

/-- A term for each check of WellFormed that the check refuses. -/
theorem test_ill_formed_refused :
    ([.integerRegisterOperation a0 .clz 1#5 2#5 1#5, .integerImmediateOperation a0 .slli 1#5 2#5 64#16,
      .floatingPointOperation a0 .fabs true 1#5 2#5 1#5, .lineArrival 0 (.data [0#8] false),
      .missFillArrival 0 (2 ^ 33), .victimWriteAccept 0 (2 ^ 33), .scrub (2 ^ 33) 0 .clean,
      .uncorrectableDataError (.hbm (2 ^ 33) 0) false ⟨true, true⟩ ⟨true, true⟩, .parcelPortSend 0 0 0 [(0, [])] 0#64 0,
      .commandQueueTailDoorbell 0 0 0 0 [], .completionQueueHeadDoorbell 0 0 0 0 [], .parcelRingHeadDoorbell 0 0 0 [],
      .hw4Access 0#38 0 none, .hw4Access 0#38 1 (some ([], false)), .hw4Access 0#38 4097 none,
      .readClearAccess (.control (.hw0 0)) 0#26 0, .registerWrite (.control (.hw0 0) 0#26 []),
      .fwActivate .mailbox [0, 0, 0], .fallbackTick [0, 0, 0, 2 ^ 20] 0#4, .governorProblemEnd [] 0#4,
      .governorCycleStart { govw with offset := 1#16 } [0, 0, 0, 0] 0#4, .governorCycleStart govw [0] 0#4,
      .governorCycleStart { govw with model := { govw.model with b := [] } } [0, 0, 0, 0] 0#4,
      .sync 0 true head0 ⟨0, 0#16, 0#48, 1000000000#32, 0#16, 0#10, 0#5⟩ 0,
      .thermalSample [0] 0 0 [0, 0, 0, 0], .thermalSample [0, 0, 0, 0] 0 0 [0]] : List Instr).any wfInstr = false := by
  decide +kernel

/-- A packet for each header field that does not fit, and one longer than the link takes. -/
theorem test_ill_formed_packet_refused :
    ([{ op := 256 }, { op := 1, rev := 8 }, { op := 1, dst := 1024 }, { op := 1, src := 1024 }, { op := 1, dir := 8 },
      { op := 1, ctx := 64 }, { op := 1, handle := 65536 }, { op := 1, core := 256 }, { op := 1, slot := 2 },
      { op := 1, key := 65536 }] : List Packet).any (fun p => wfInstr (.dataFlit 0 true head0 0 false (some p) true 0 0)) = false
      ∧ (wfInstr (.dataFlit 0 true head0 0 false (some { op := 1 }) true 0 0) = true) := by
  decide +kernel

/-! ### Decoding -/

/-- Words written out bit by bit from the format tables (Tables 4.2, 5.1), one of each format. -/
theorem test_words_decode :
    decodeWew 0b000001_00011_00001_00010_00000000000#32 = .ok (.int .add 3#5 1#5 2#5)
      ∧ decodeWew 0b000010_00101_00100_1111111111111111#32 = .ok (.imm .addi 5#5 4#5 0xFFFF#16)
      ∧ decodeWew 0b100000_00001_00010_1_000000000000011#32 = .ok (.branch .beq 1#5 2#5 true 3#15)
      ∧ decodeWew 0b110000_00001_00010_00011_10000000000#32 = .ok (.fp .fadd true 1#5 2#5 3#5)
      ∧ decodeWew 0b110011_00001_00010_0010_01_1_000_000000#32 = .ok (.fcvtx 1#5 2#5 2#4 1#2 true)
      ∧ decodeWew 0b111001_00001_00010_00000_00010_000000#32 = .ok (.block .gpool 1#5 2#5)
      ∧ decodeWew 0b111110_00001_00010_00011_00010_111111#32 = .ok (.psend 1#5 2#5 3#5 63#6)
      ∧ decodeWew 0b111111_00000_00000_00000_00100_000000#32 = .ok .waitall := by
  decide +kernel

/-- Words that stand for nothing: a major opcode outside the tables, a one in a field marked zero (R131). -/
theorem test_bad_words :
    [0x00000000#32, 0xFFFFFFFF#32, 0b000001_00011_00001_00010_00000100000#32].any
      (fun w => match decodeWew w with | .ok _ => true | .bad _ => false) = false := by
  decide +kernel

/-! ### Witnesses: scalar instructions -/

theorem witness_StepRunsFrontCommand :
    up.pending = [] ∧ State.reset.pending = [] ∧ planeUp State.reset = false ∧ planeUp up = true
      ∧ spWf coreReset run.cores = true ∧ (getSlot run 0 .bulk).phase = .running := by decide +kernel

theorem witness_WewEncodingRoundTrip :
    wfWew (.psend 31#5 31#5 31#5 63#6) = true ∧ decodeWew 0b111001_00001_00010_00000_00010_000000#32 = .ok (.block .gpool 1#5 2#5) := by
  decide +kernel

theorem witness_SinglePrecisionUsesLowHalf :
    (0xFFFFFFFF3F800000#64).setWidth 32 = (0x3F800000#64).setWidth 32 := by decide +kernel

/-- Local store of core 0 holding `bs` at 0x100, and g1 = 0x100. -/
def blockCore (bs : List Byte) : Core :=
  { core0 with ls := memWrite [] 0x100 bs, bulk := setG slot0 1#5 0x100#64 }

def runBlock (bs : List Byte) : State := setCore up 0 (blockCore bs)

theorem witness_IntegerInstructionsCommit :
    AtGate a0 (.int .sra 31#5 1#5 2#5) run ∧ AtGate a0 (.imm .rori 0#5 1#5 63#16) run
      ∧ AtGate a0 (.seth 1#5 3#2 0xFFFF#16) run ∧ AtGate a0 (.puth 1#5 0#2 0x8000#16) run :=
  ⟨atGate (by decide +kernel), atGate (by decide +kernel), atGate (by decide +kernel), atGate (by decide +kernel)⟩

theorem witness_BranchesAndJumpsCommit :
    AtGate a0 (.branch .blt 1#5 2#5 true 0x4000#15) run ∧ AtGate a0 (.jal 1#5 0x100000#21) run
      ∧ AtGate a0 (.jalr 0#5 1#5 0xFFFF#16) run :=
  ⟨atGate (by decide +kernel), atGate (by decide +kernel), atGate (by decide +kernel)⟩

/-- Both ends of the local store of a core without express partition. -/
theorem witness_LoadsCommit :
    (AtGate a0 (.load .fldd 3#5 1#5 0#16) (runG 0x7FFF8#64 0#64) ∧ 0x7FFF8 % loadSize .fldd = 0
        ∧ (lsRange core0 .bulk).1 ≤ 0 ∧ 0x7FFF8 + loadSize .fldd ≤ (lsRange core0 .bulk).2)
      ∧ (AtGate a0 (.load .ldb 3#5 1#5 0#16) (runG 0#64 0#64) ∧ 0 + loadSize .ldb ≤ (lsRange core0 .bulk).2)
      ∧ (2 ^ 8 - 1 < 2 ^ 8 ∧ 2 ^ 64 - 1 < 2 ^ 64) :=
  ⟨⟨atGate (by decide +kernel), by decide +kernel⟩, ⟨atGate (by decide +kernel), by decide +kernel⟩, by decide⟩

theorem witness_StoresCommit :
    (AtGate a0 (.store .std 2#5 1#5 0xFFF8#16) (runG 0x80000#64 9#64)
        ∧ (getG (theSlot (runG 0x80000#64 9#64) a0) 1#5 + (0xFFF8#16).signExtend 64).toNat = 0x7FFF8
        ∧ 0x7FFF8 % storeSize .std = 0 ∧ 0x7FFF8 + storeSize .std ≤ (lsRange core0 .bulk).2)
      ∧ (AtGate a0 (.store .fstw 2#5 1#5 0#16) (runG 0#64 9#64) ∧ 0 + storeSize .fstw ≤ (lsRange core0 .bulk).2) :=
  ⟨⟨atGate (by decide +kernel), by decide +kernel⟩, ⟨atGate (by decide +kernel), by decide +kernel⟩⟩

theorem witness_BadLocalStoreAccessTraps :
    (AtGate a0 (.load .ldh 3#5 1#5 0#16) (runG 1#64 0#64) ∧ 1 % loadSize .ldh ≠ 0)
      ∧ (AtGate a0 (.load .ldb 0#5 1#5 0#16) (runG 0x80000#64 0#64) ∧ (lsRange core0 .bulk).2 < 0x80000 + loadSize .ldb)
      ∧ (AtGate a0 (.store .std 3#5 1#5 0#16) (runG 4#64 0#64) ∧ 4 % storeSize .std ≠ 0)
      ∧ (AtGate a0 (.store .std 3#5 1#5 0#16) (runG 0x80000#64 0#64) ∧ 0x80000 % storeSize .std = 0
        ∧ (lsRange core0 .bulk).2 < 0x80000 + storeSize .std)
      ∧ (AtGate a0 (.load .ldd 0#5 1#5 0#16) (runG 0x7FFF8#64 0#64) ∧ ¬(lsRange core0 .bulk).2 < 0x7FFF8 + loadSize .ldd) :=
  ⟨⟨atGate (by decide +kernel), by decide⟩, ⟨atGate (by decide +kernel), by decide +kernel⟩,
    ⟨atGate (by decide +kernel), by decide⟩, ⟨atGate (by decide +kernel), by decide +kernel⟩,
    ⟨atGate (by decide +kernel), by decide +kernel⟩⟩

theorem witness_SpecialRegisterMoves :
    AtGate a0 (.mfsr 3#5 0#8) run ∧ AtGate a0 (.mfsr 3#5 0x0A#8) run
      ∧ (AtGate a0 (.mfsr 3#5 0x08#8) run ∧ ((theSlot run a0).cop.any fun o => !o.discard) = false)
      ∧ (AtGate a0 (.mtsr 1#5 0x07#8) run ∧ AtGate a0 (.mtsr 1#5 0x08#8) run)
      ∧ (AtGate a0 (.mtsr 1#5 0x09#8) (runG 2#64 0#64) ∧ (2#64).setWidth 2 ≠ 3#2) :=
  ⟨atGate (by decide +kernel), atGate (by decide +kernel), ⟨atGate (by decide +kernel), by decide +kernel⟩,
    ⟨atGate (by decide +kernel), atGate (by decide +kernel)⟩, ⟨atGate (by decide +kernel), by decide⟩⟩

/-- The first number beyond Table 3.2, the numbers on both sides of the writable ones, and RM 0b11. -/
theorem witness_BadSpecialRegisterTraps :
    AtGate a0 (.mfsr 3#5 0x0B#8) run ∧ AtGate a0 (.mtsr 1#5 0x06#8) run ∧ AtGate a0 (.mtsr 1#5 0x0A#8) run
      ∧ (AtGate a0 (.mtsr 1#5 0x09#8) (runG 3#64 0#64) ∧ (getG (theSlot (runG 3#64 0#64) a0) 1#5).setWidth 2 = 3#2) :=
  ⟨atGate (by decide +kernel), atGate (by decide +kernel), atGate (by decide +kernel),
    ⟨atGate (by decide +kernel), by decide +kernel⟩⟩

theorem witness_FloatingPointCommits :
    AtGate a0 (.fp .fmvg true 1#5 2#5 0#5) run ∧ AtGate a0 (.fma false 1#5 2#5 3#5 4#5) run
      ∧ (AtGate a0 (.fcvtx 1#5 2#5 11#4 2#2 true) run ∧ (scalarFmt 11#4).isSome ∧ rmOfCode 2 = some .stochastic)
      ∧ (AtGate a0 (.fcvtf 1#5 2#5 0#4) run ∧ (scalarFmt 0#4).isSome)
      ∧ AtGate a0 (.fcvtLD 1#5 2#5 0#2 true) run ∧ AtGate a0 (.fcvtDL 1#5 2#5 1#2) run
      ∧ AtGate a0 (.fcvtSD 1#5 2#5 2#2 false) run ∧ AtGate a0 (.fcvtDS 1#5 2#5) run :=
  ⟨atGate (by decide +kernel), atGate (by decide +kernel), ⟨atGate (by decide +kernel), by decide +kernel⟩,
    ⟨atGate (by decide +kernel), by decide +kernel⟩, atGate (by decide +kernel), atGate (by decide +kernel),
    atGate (by decide +kernel), atGate (by decide +kernel)⟩

theorem witness_BadConversionTraps :
    AtGate a0 (.fcvtx 1#5 2#5 0xC#4 0#2 true) run ∧ AtGate a0 (.fcvtx 1#5 2#5 0#4 3#2 true) run
      ∧ AtGate a0 (.fcvtf 1#5 2#5 0xF#4) run ∧ AtGate a0 (.fcvtLD 1#5 2#5 3#2 true) run
      ∧ AtGate a0 (.fcvtDL 1#5 2#5 3#2) run ∧ AtGate a0 (.fcvtSD 1#5 2#5 3#2 true) run :=
  ⟨atGate (by decide +kernel), atGate (by decide +kernel), atGate (by decide +kernel), atGate (by decide +kernel),
    atGate (by decide +kernel), atGate (by decide +kernel)⟩

/-- Core 0 with a divide and a square root in its coprocessor. -/
def runCop : State :=
  setCore up 0 { core0 with bulk := { slot0 with cop := [⟨1#5, false, true, 0#64, 0#8⟩, ⟨2#5, true, false, 4#64, 1#8⟩] } }

theorem witness_CoprocessorOperations :
    AtGate a0 (.divd 1#5 2#5 3#5) run ∧ AtGate a0 (.sqrtd 1#5 2#5) run ∧ slotRuns run 0 .bulk = true
      ∧ ((theSlot runCop a0).cop[1]? = some ⟨2#5, true, false, 4#64, 1#8⟩
        ∧ ∀ e ∈ (theSlot runCop a0).cop.take 1, e.sqrt ≠ true)
      ∧ ((theSlot runCop a0).cop[0]? = some ⟨1#5, false, true, 0#64, 0#8⟩
        ∧ ∀ e ∈ (theSlot runCop a0).cop.take 0, e.sqrt ≠ false) :=
  ⟨atGate (by decide +kernel), atGate (by decide +kernel), by decide +kernel⟩

theorem witness_TrapBreakAndIllegalWordTrap :
    AtGate a0 (.trap 0xFFFF#16) run ∧ (AtGate a0 .brk run ∧ debugMode run = false)
      ∧ (AtGate a0 .brk (setFld run .dbgCtl 0 0 0 0 1 1) ∧ debugMode (setFld run .dbgCtl 0 0 0 0 1 1) = true)
      ∧ (GateOpen a0 run ∧ ∃ why, decodeWew 0#32 = .bad why) :=
  ⟨atGate (by decide +kernel), ⟨atGate (by decide +kernel), by decide +kernel⟩,
    ⟨atGate (by decide +kernel), by decide +kernel⟩, gateOpen (by decide +kernel), _, rfl⟩

/-- Core 0 with an instruction held at its gate, the RUN under way, and tag 0 in flight for the slot or not. -/
def runHeld (why : Stall) (w : Wew) : State :=
  setCore up 0 { core0 with bulk := { slot0 with held := some ⟨why, w, none⟩ } }

def dcmd : DCmd := ⟨0, 1, 0, false, false, false, 0, 7, 1, List.replicate 64 0#8, .running, none, 0, none, false⟩

/-- Tag 5 is in flight for the bulk slot of core 0. -/
def holding (s : State) : State := setTag s 5 ⟨.inFlight, 1#4, some (0, .bulk), 1, 0#64, none, false⟩

theorem witness_EndWaitsThenEndsProgram :
    (AtGate a0 .stop run ∧ slotHolds run 0 .bulk = false)
      ∧ (AtGate a0 .stop (holding run) ∧ slotHolds (holding run) 0 .bulk = true)
      ∧ (let s := runHeld .sync .stop
         slotRuns s 0 .bulk = true ∧ (theSlot s a0).held = some ⟨.sync, .stop, none⟩ ∧ slotHolds s 0 .bulk = false)
      ∧ (let s := holding (runHeld .sync .stop)
         slotRuns s 0 .bulk = true ∧ (theSlot s a0).held = some ⟨.sync, .stop, none⟩ ∧ slotHolds s 0 .bulk = true) :=
  ⟨⟨atGate (by decide +kernel), by decide +kernel⟩, ⟨atGate (by decide +kernel), by decide +kernel⟩, by decide +kernel⟩

/-- Tag 5 of core 0 has retired, and its report waits. -/
def runReport : State :=
  setTag (setCore up 0 { core0 with reports := [(5, 0x100013#64)] }) 5 ⟨.retiring, 1#4, some (0, .bulk), 1, 0#64, none, false⟩

theorem witness_RetirementReportObserved :
    (getCore runReport 0).reports = (5, 0x100013#64) :: [] ∧ observes runReport 0 = true
      ∧ (getTag runReport 5).owner = some (0, .bulk) := by decide +kernel

/-- A WAITALL that can go on, one that still waits, and a load from a bad address that traps. -/
theorem witness_WaitingInstructionCommits :
    let free (s : State) : State := modSlot s 0 .bulk fun x => { x with held := none }
    let op : Choice := { tag := 0, younger := 0, blk := none }
    let held (w : Wew) (s : State) : Prop := slotRuns s 0 .bulk = true ∧ (theSlot s a0).held = some ⟨.sync, w, none⟩
    (held .waitall (runHeld .sync .waitall)
        ∧ ∃ s', gate .waitall op 0 .bulk (free (runHeld .sync .waitall)) = .done s')
      ∧ (held .waitall (holding (runHeld .sync .waitall))
        ∧ gate .waitall op 0 .bulk (free (holding (runHeld .sync .waitall))) = .hold .sync)
      ∧ (held (.mfsr 1#5 0x0B#8) (runHeld .sync (.mfsr 1#5 0x0B#8))
        ∧ ∃ c v, gate (.mfsr 1#5 0x0B#8) op 0 .bulk (free (runHeld .sync (.mfsr 1#5 0x0B#8))) = .trap c v) :=
  ⟨⟨by decide +kernel, _, rfl⟩, ⟨by decide +kernel, rfl⟩, ⟨by decide +kernel, _, _, rfl⟩⟩

/-! ### Witnesses: engine commands -/

/-- A tile table block: FP32, one row of 16 elements at 0x1000. -/
def tdefBlock : List Byte := leBytes 8 0x100000000 ++ leBytes 8 0x1000 ++ leBytes 8 0x10 ++ leBytes 8 0

theorem witness_CoreEngineInstructionsCommit :
    (AtGate a0 (.tdef 1#5 63#6) (runBlock tdefBlock) ∧
        (let s := runBlock tdefBlock
         let c := getCore s 0
         let b := readBlock c 0x100
         blockCheck c .bulk 0x100 = none ∧ b.rm ≠ 3 ∧ blockZero c 0x100 = true
          ∧ headOk { fmtOut := true, count := true } b = true ∧ b.w1 < 2 ^ 19 ∧ b.w2 < 2 ^ 16 ∧ b.w3 = 0
          ∧ ownsTile c .bulk 63 = true ∧ 1 ≤ b.count ∧ b.count ≤ 4096 ∧ b.w1 % 16 = 0 ∧ rowOk b.fmtOut b.w2 = true
          ∧ (lsRange c .bulk).1 ≤ b.w1 ∧ b.w1 + b.count * rowBytes b.fmtOut b.w2 ≤ (lsRange c .bulk).2))
      ∧ AtGate a0 (.seed 1#5) run ∧ (AtGate a0 .lend run ∧ slotHolds run 0 .bulk = false ∧ layerOpen run 0 .bulk = false)
      ∧ (let s := runG 0xFFF80#64 0x80#64
         AtGate a0 (.pfetch 1#5 2#5) s ∧ min (getG (theSlot s a0) 2#5).toNat 65536 ≠ 0 ∧ regFld s .rcClassmask 0 7 0 0 16 ≠ 0
          ∧ lookFind (getCore s 0).look (coreShare (getCore s 0) .bulk) 1 0xFFF80 = some seg0
          ∧ segTarget s seg0 1 0xFFF80 .read = .dev 0xFFF80 0) :=
  ⟨⟨atGate (by decide +kernel), by decide +kernel⟩, atGate (by decide +kernel),
    ⟨atGate (by decide +kernel), by decide +kernel⟩, atGate (by decide +kernel), by decide +kernel⟩

/-- Tag 9 belongs to the bulk slot of core 0, in generation 2. -/
def runTag (st : TagSt) (g : W64) : State := setTag (runG g 0#64) 9 ⟨st, 2#4, some (0, .bulk), 1, 0x100013#64, none, false⟩

theorem witness_WaitsAndStatusReads :
    (AtGate a0 (.twait 1#5) (runG (BitVec.ofNat 64 (999999999 + 5 * 2 ^ 30)) 0#64) ∧ (999999999 + 5 * 2 ^ 30) % 2 ^ 30 < 1000000000)
      ∧ (slotRuns (runHeld .sync (.twait 1#5)) 0 .bulk = true
        ∧ (theSlot (runHeld .sync (.twait 1#5)) a0).held = some ⟨.sync, .twait 1#5, none⟩
        ∧ (getG (theSlot (runHeld .sync (.twait 1#5)) a0) 1#5).toNat ≤ nowOp (runHeld .sync (.twait 1#5)))
      ∧ (AtGate a0 (.wait 3#5 1#5) (runTag .free 0x1009#64) ∧ (getTag (runTag .free 0x1009#64) 9).gen.toNat ≠ 0x1009 / 4096 % 16)
      ∧ (AtGate a0 (.wait 3#5 1#5) (runTag .free 0x2009#64) ∧ (getTag (runTag .free 0x2009#64) 9).gen.toNat = 0x2009 / 4096 % 16
        ∧ (getTag (runTag .free 0x2009#64) 9).owner = some (0, .bulk) ∧ (getTag (runTag .free 0x2009#64) 9).st = .free)
      ∧ (AtGate a0 (.wait 3#5 1#5) (runTag .retiring 0x2009#64) ∧ (getTag (runTag .retiring 0x2009#64) 9).st ≠ .free)
      ∧ (AtGate a0 (.stat 3#5 1#5) (runTag .inFlight 0x2009#64) ∧ AtGate a0 (.stat 3#5 1#5) (runTag .free 0x1009#64))
      ∧ (AtGate a0 .waitall run ∧ AtGate a0 .waitall (runTag .inFlight 0#64)
        ∧ slotHolds (runTag .inFlight 0#64) 0 .bulk = true) :=
  ⟨⟨atGate (by decide +kernel), by decide⟩, by decide +kernel, ⟨atGate (by decide +kernel), by decide +kernel⟩,
    ⟨atGate (by decide +kernel), by decide +kernel⟩, ⟨atGate (by decide +kernel), by decide +kernel⟩,
    ⟨atGate (by decide +kernel), atGate (by decide +kernel)⟩,
    ⟨atGate (by decide +kernel), atGate (by decide +kernel), by decide +kernel⟩⟩

/-- A BARR block: two arrivals, barrier 5, no time, no merge. -/
def barrBlock : List Byte := leBytes 8 0x200000000 ++ leBytes 8 5 ++ leBytes 8 0 ++ leBytes 8 0

/-- An XOP ADD block of tiles 0, 1 and 2, and a CMAINT FILL block. -/
def xopBlock : List Byte := leBytes 8 0x20000 ++ leBytes 8 0x100 ++ leBytes 8 0 ++ leBytes 8 1

def fillBlock : List Byte := leBytes 8 0 ++ leBytes 8 0x1000 ++ leBytes 8 0x100 ++ leBytes 8 3

/-- A SLOAD block of tile 0 with its block list: two rows of 64 bytes at 0x2000 and 0x2080, staged at 0x4000. -/
def sloadBlock : List Byte :=
  leBytes 8 0x200000000 ++ leBytes 8 0x140 ++ leBytes 8 0 ++ leBytes 8 0 ++ List.replicate 32 0#8
    ++ leBytes 8 0x4000000001 ++ leBytes 8 0x100004000 ++ List.replicate 48 0#8 ++ leBytes 8 0x2000 ++ leBytes 8 0x200000080

/-- Core 0 with `bs` at 0x100, g1 = 0x100, g2 a device address, and tiles 0 to 2 of two FP32 rows. -/
def runTiles (bs : List Byte) : State :=
  setCore up 0 { blockCore bs with tiles := [(0, some ⟨0x1000, 2, 16, .fp32⟩), (1, some ⟨0x1100, 2, 16, .fp32⟩),
    (2, some ⟨0x1200, 2, 16, .fp32⟩)] }

/-- A block instruction that passes its checks and issues, as a Bool. -/
def issuesB (a : At) (op : BlockOp) (ra : Reg) (tag : Fin 4096) (s : State) : Bool :=
  let c := getCore s a.core.val
  let addr := (getG (theSlot s a) ra).toNat
  (blockCheck c a.slot addr).isNone && blockFields op c addr (readBlock c addr)
    && match planBlock op c a.core.val a.slot (readBlock c addr) with
       | some p => (theSlot s a).replaying.isNone && (stallOf s a.core.val a.slot p.claim).isNone
          && tagFits s a.core.val a.slot p.claim.parcel tag.val
       | none => false

theorem issues {a : At} {op : BlockOp} {ra : Reg} {tag : Fin 4096} {s : State} (h : issuesB a op ra tag s = true) :
    BlockIssues a op ra tag s := by
  simp only [issuesB, Bool.and_eq_true, Option.isNone_iff_eq_none] at h
  obtain ⟨⟨h1, h2⟩, h3⟩ := h
  cases hp : planBlock op (getCore s a.core.val) a.core.val a.slot
      (readBlock (getCore s a.core.val) (getG (theSlot s a) ra).toNat) with
  | none => simp [hp] at h3
  | some p =>
    simp only [hp, Bool.and_eq_true, Option.isNone_iff_eq_none] at h3
    exact ⟨p, ⟨h1, h2, hp⟩, h3.1.1, h3.1.2, h3.2⟩

theorem witness_EngineCommandsIssue :
    (BlockRow a0 10#5 1#5 3 (runTiles barrBlock) .barr (.barr a0 10#5 1#5 3) ∧ AtGate a0 (.block .barr 10#5 1#5) (runTiles barrBlock)
        ∧ BlockIssues a0 .barr 1#5 3 (runTiles barrBlock))
      ∧ (BlockRow a0 10#5 1#5 3839 (runTiles xopBlock) .xop (.xopAdd a0 10#5 1#5 3839)
        ∧ AtGate a0 (.block .xop 10#5 1#5) (runTiles xopBlock) ∧ BlockIssues a0 .xop 1#5 3839 (runTiles xopBlock))
      ∧ (BlockRow a0 10#5 1#5 3 (runTiles fillBlock) .cmaint (.cmaintFill a0 10#5 1#5 3)
        ∧ AtGate a0 (.block .cmaint 10#5 1#5) (runTiles fillBlock) ∧ BlockIssues a0 .cmaint 1#5 3 (runTiles fillBlock))
      ∧ (AtGate a0 (.azero 3#5 15#4) run ∧ ownsAcc (getCore run 0) .bulk 15 = true
        ∧ Issues a0 { xq := true, score := [(15, .write)] } 0 run)
      ∧ (AtGate a0 (.psend 3#5 1#5 2#5 63#6) (runG 0x1000#64 (BitVec.ofNat 64 (2 ^ 63 + 2 ^ 19)))
        ∧ lsCheck (getCore run 0) .bulk 0x1000 64 64 = none ∧ (2 ^ 63 + 2 ^ 19) % 2 ^ 19 = 0
        ∧ Issues a0 { parcel := true } 4095 (runG 0x1000#64 (BitVec.ofNat 64 (2 ^ 63 + 2 ^ 19))))
      ∧ (AtGate a0 (.precv 3#5 1#5) (runG 0x7FFC0#64 0#64) ∧ lsCheck (getCore run 0) .bulk 0x7FFC0 64 1 = none
        ∧ Issues a0 {} 0 (runG 0x7FFC0#64 0#64)) :=
  ⟨⟨.inl (by decide +kernel), atGate (by decide +kernel), issues (by decide +kernel)⟩,
    ⟨.inr (.inl ⟨rfl, 1, .inl (by decide +kernel), by decide +kernel⟩), atGate (by decide +kernel), issues (by decide +kernel)⟩,
    ⟨.inr (.inr ⟨rfl, by decide +kernel⟩), atGate (by decide +kernel), issues (by decide +kernel)⟩,
    ⟨atGate (by decide +kernel), by decide +kernel, by decide +kernel, by decide +kernel, by decide +kernel⟩,
    ⟨atGate (by decide +kernel), by decide +kernel, by decide, by decide +kernel, by decide +kernel, by decide +kernel⟩,
    ⟨atGate (by decide +kernel), by decide +kernel, by decide +kernel, by decide +kernel, by decide +kernel⟩⟩

/-- The quota of core 0 and the parcel pool are used up. -/
def noTags (s : State) : State :=
  let used (k : Nat) (o : Option (Nat × SlotId)) : Nat × Tag := (k, ⟨.inFlight, 1#4, o, 1, 0#64, none, false⟩)
  { s with tags := (List.range 24).map (fun k => used k (some (0, .bulk)))
      ++ (List.range 64).map (fun k => used (4032 + k) (some (1, .bulk))) }

theorem witness_NoTagHoldsCommand :
    (BlockRow a0 10#5 1#5 24 (noTags (runTiles barrBlock)) .barr (.barr a0 10#5 1#5 24)
        ∧ AtGate a0 (.block .barr 10#5 1#5) (noTags (runTiles barrBlock)) ∧ BlockLegal a0 .barr 1#5 (noTags (runTiles barrBlock)))
      ∧ (theSlot (noTags run) a0).replaying = none ∧ nextPool (noTags run) 0 .bulk false = none
      ∧ nextPool (noTags run) 0 .bulk true = none ∧ AtGate a0 (.azero 3#5 0#4) (noTags run)
      ∧ AtGate a0 (.psend 3#5 1#5 2#5 0#6) (noTags run) ∧ AtGate a0 (.precv 3#5 1#5) (noTags run) :=
  ⟨⟨.inl (by decide +kernel), atGate (by decide +kernel), (issues (s := runTiles barrBlock) (tag := 3) (by decide +kernel)).imp
      fun _ h => h.1⟩,
    by decide +kernel, by decide +kernel, by decide +kernel, atGate (by decide +kernel), atGate (by decide +kernel),
    atGate (by decide +kernel)⟩

/-- A bit in a field that BARR does not name, and a tile that is not defined. -/
theorem witness_BadOperandBlockTraps :
    (BlockRow a0 10#5 1#5 3 (runTiles (leBytes 8 0x200000040)) .barr (.barr a0 10#5 1#5 3)
        ∧ AtGate a0 (.block .barr 10#5 1#5) (runTiles (leBytes 8 0x200000040))
        ∧ (let c := getCore (runTiles (leBytes 8 0x200000040)) 0
           blockCheck c .bulk 0x100 = none ∧ blockFields .barr c 0x100 (readBlock c 0x100) = false))
      ∧ (BlockRow a0 10#5 1#5 3 (runBlock xopBlock) .xop (.xopAdd a0 10#5 1#5 3)
        ∧ AtGate a0 (.block .xop 10#5 1#5) (runBlock xopBlock)
        ∧ (let c := getCore (runBlock xopBlock) 0
           blockCheck c .bulk 0x100 = none ∧ planBlock .xop c 0 .bulk (readBlock c 0x100) = none)) :=
  ⟨⟨.inl (by decide +kernel), atGate (by decide +kernel), by decide +kernel⟩,
    ⟨.inr (.inl ⟨rfl, 1, .inl (by decide +kernel), by decide +kernel⟩), atGate (by decide +kernel), by decide +kernel⟩⟩

/-! ### Witnesses: streams, layers, barriers, merge, parcels, solver -/

/-- Run a few commands; one that does not complete is passed over. -/
def steps (l : List Instr) (s : State) : State :=
  l.foldl (fun s i => match exec i s with
    | .next t => t
    | _ => s) s

/-- Granule 0 belongs to context 1. -/
def owned (s : State) : State := { s with own := [(0, 0x41#8)] }

/-- A command of the bulk slot of core 0, with nothing in it. -/
def cmd0 : Cmd :=
  { op := .azero, core := 0, slot := .bulk, ctx := 1,
    blk := ⟨.fp32, 0, false, false, .fp32, false, false, false, false, 0, 0, 0, 0, 0, 0, 0⟩,
    tile := noTile, ta := noTile, tb := noTile, tc := noTile, ga := 0, gb := 0, addr := 0x100, lfsr := 1#32, ldev := 0,
    seq := 1, ord := 0, ready := true, table := none, stream := none, bags := [], partials := [], remoteQ := [], outbox := [],
    waiting := 0, unit := 0, doneN := 0, flags := 0#8, drops := 0, poison := false, late := false, pivot := false, code := 0,
    detail := 0, replay := false }

/-- Tag 3 carries a command. -/
def withCmd (c : Cmd) (s : State) : State := setTag s 3 ⟨.inFlight, 1#4, some (0, .bulk), 1, 0#64, some c, false⟩

/-- An SLOAD that has read its list and requested its first line, and that line back from memory. -/
def loading : State := steps [.sload a0 10#5 1#5 3, .lineRequestIssue 3 false] (owned (runTiles sloadBlock))
def answered : State := steps [.lineRequestAtSlice 0] loading

/-- A line write accepted at memory, and a halted stream whose granule is there. -/
def writeReq : LineReq :=
  ⟨7, 3, 0, .bulk, 1, .write, 0, 0, 1, 3, .dev 0, [some 1#8], [true], .ready, 0⟩

def accepting : State := { run with reqs := [writeReq] }

def stream0 : Stream := ⟨[0x2000], [], 64, 0, 1, 0x140, 0, 0, [], [], 0, 0, [], some (0, .granule 1 0 0), 1, false⟩

theorem witness_StreamEventsComplete :
    requestDue loading 3 false = true
      ∧ (match tagCmd loading 3 with
         | some c => c.op == .block .sload && c.ready && (match c.stream with
            | some st => nextLine st == some 65 && (blocker loading c (needLines c st 65)).isNone
                && lineXl loading c.core c.slot c.ctx 0x2080 false == .dev 0x2080 0
            | none => false)
         | none => false) = true
      ∧ ((findReq answered 0).map arrivalDue) = some true
      ∧ (findReq accepting 7 = some writeReq ∧ acceptDue accepting writeReq = true)
      ∧ (streamResumeDue (withCmd { cmd0 with op := .block .sload, stream := some stream0 } run) 3 = true
        ∧ haltedLayer (withCmd { cmd0 with op := .block .sload, stream := some stream0 } run) 3 = none) := by
  decide +kernel

/-- AZERO of tile 15 has issued under tag 3. -/
def zeroing : State := steps [.azero a0 3#5 15#4 3] run

theorem witness_ExecuteUnitEnds :
    unitDue zeroing 0 .bulk = true ∧ xqHead zeroing 0 .bulk = some 3
      ∧ (tagCmd zeroing 3).map (·.op) = some .azero ∧ (tagCmd zeroing 3).map (·.core) = some 0 := by decide +kernel

/-- A layer of one BF16 column block, joined by the command of tag 3, whose block list stands at 0x140. -/
def layer0 : Layer :=
  ⟨1, 2, [], 1, .bf16, .fp32, false, 0, 1, false, false, 16, 1, [3], [(0, .bulk)], true, 1, false, [], 0, [], none, 0, false⟩

def layerState (l : Layer) : State :=
  { withCmd { cmd0 with op := .block .mlayer, blk := { cmd0.blk with w1 := 0x140, count := 1 } }
      (owned (runTiles (sloadBlock.take 64 ++ leBytes 8 0x100000002001 ++ leBytes 8 0x100004000 ++ List.replicate 48 0#8
        ++ leBytes 8 0x2000 ++ leBytes 8 0x100000020))) with layers := [l] }

def panel0 : Panel := ⟨0, 0, 16, [([], false)]⟩

theorem witness_MatrixEventsComplete :
    (findLayer (layerState layer0) 1 2 = some layer0 ∧ firstReadDue (layerState layer0) layer0 = true
        ∧ ((layer0.arrivals.head?).bind (tagCmd (layerState layer0))).isSome = true)
      ∧ (let l := { layer0 with started := true, rows := [0x2000] }
         injectDue (layerState l) l = true)
      ∧ (let l := { layer0 with started := true, rows := [0x2000], sent := 1, stations := [(0, { stationReset with landed := [panel0] })] }
         muServer (layerState l) 0 = some 0 ∧ consumeDue (layerState l) l 0 = true)
      ∧ (let l := { layer0 with started := true, rows := [0x2000], sent := 1, stations := [(0, { stationReset with consumed := 1 })] }
         compressDue (layerState l) l 0 = true)
      ∧ (spGet muReset 0 (steps [.lend a0] run).mus).sent.contains (0, .bulk) = true := by
  decide +kernel

def bar0 (mg : Bool) (time : Nat) : Barrier := ⟨1, 5, 1, time, mg, 1, [3], false, 0, false⟩

def con0 (step : Nat) : Contribution :=
  ⟨step, 0, 0, 0, 0, 1, 1, 0, 0, [], false, false, none, 0, 0, false, [], none⟩

def window0 : Window := ⟨1, 3, 2, 0, 1, 0, 0, 0, false, true, false, false, 0#8, false, []⟩

theorem witness_BarrierAndMergeEventsComplete :
    planeUp up = true
      ∧ (let s := { withCmd { cmd0 with op := .block .barr } run with barriers := [bar0 false (nowOp up)] }
         s.barriers.find? (isBarrier 1 5 false) = some (bar0 false (nowOp up)) ∧ (bar0 false (nowOp up)).time ≤ nowOp s
          ∧ (bar0 false 0).arrivals.length = (bar0 false 0).count ∧ (getTag s 3).cmd.isSome = true)
      ∧ ({ run with mergeNet := [con0 1] }).mergeNet[0]? = some (con0 1)
      ∧ (let s := { run with rmus := [(127, { rmuReset with held := [con0 2, con0 0] })] }
         (getRmu s 127).held[0]? = some (con0 2) ∧ (con0 2).step ≤ spGet 0 1 (getRmu s 127).lastClose + 2
          ∧ (getRmu s 127).held[1]? = some (con0 0) ∧ (con0 0).step ≤ spGet 0 1 (getRmu s 127).lastClose)
      ∧ (let s := { run with rmus := [(0, { rmuReset with windows := [window0] })] }
         draining s 0 1 3 = some window0 ∧ window0.inn ≠ window0.buf + window0.spilled)
      ∧ (let w := { window0 with passed := true, applying := true, inn := 1 }
         firstApplying (getRmu { run with rmus := [(0, { rmuReset with windows := [w] })] } 0) = some w) := by
  decide +kernel

/-- PSEND to slot 0 of core 0 of this device. -/
def sending : State := withCmd { cmd0 with op := .psend, gb := 0 } up

def port0 : PortSend := ⟨8, none, 0, .bulk, [1#8]⟩

theorem witness_ParcelEventsComplete :
    psendDue sending 3 = true
      ∧ (let s := { up with host := { up.host with portSends := [port0] } }
         portSend s (8 * 1 + 0) = some port0 ∧ portTag s port0 = some 4032 ∧ planeUp s = true)
      ∧ ((getTag up 4095).st = .free ∧ poolOf 4095 = .parcel ∧ poolFree (noTags up) .parcel = 0)
      ∧ inboxTakes up 0 0 1 = true ∧ inboxTakes up 160 0 1 = false
      ∧ (pageOf up 0 1 = .ok ∧ spGet 0 8 up.host.pstat ≠ 1) ∧ pageOf { up with host := { up.host with vfEnable := true } } 1 1 = .denied ∧ pageOf State.reset 0 1 = .gone
      ∧ (1 < ringSize up 1
        ∧ (let s := { up with host := { up.host with rings := [(1, { pringReset with tail := 1 })] } }
           (1 + ringSize s 1 - (getRing s 1).head) % ringSize s 1 ≤ ((getRing s 1).tail + ringSize s 1 - (getRing s 1).head) % ringSize s 1)) := by decide +kernel

def prob0 : Problem :=
  ⟨0, some 3, 0, 1, false, 0, false, .fp32, false, false, 4, 4, 10, 0, 0, 0, 0, 0, 0, 0, 0, 0, 0, 0, 0, 0, 0, 1, 0, none, false,
    false, false, none⟩

/-- The lookasides of all Solver Clusters hold the segment of context 1. -/
def looked (s : State) : State := { s with looks := (List.range 4).map fun k => (k, lookInstall lookReset (0, 16) 1 seg0) }

def solving (p : Problem) : State :=
  { looked (withCmd { cmd0 with op := .block .solve } run) with problems := [p], solveNet := [(3, none)] }

/-- A SOLVE of one problem, whose descriptor at address 0 is all zero. -/
def descState : State :=
  { withCmd { cmd0 with op := .block .solve, blk := { cmd0.blk with count := 1 } } (looked (owned run)) with solveNet := [(3, none)] }

theorem witness_SolverEventsComplete :
    ((tagCmd (solving prob0) 3).map (frontDue (solving prob0) 3)) = some true
      ∧ (match tagCmd (solving prob0) 3 with
         | some c => match (frontReads (solving prob0) 3 c []).1 with
            | .inr ps => ps.length == c.blk.count
            | .inl _ => false
         | none => false) = true
      ∧ (match tagCmd descState 3 with
         | some c => match (frontReads descState 3 c []).1 with
            | .inl (.fail code) => code == codeBadDescriptor || code == codeDescMismatch
            | _ => false
         | none => false) = true
      ∧ (let p := { prob0 with lane := some (3, 31) }
         let s := owned (solving p)
         match laneData s p [] with
         | (.inr d, _, u) => match laneReach p true (laneLines (p.addr + 128) 64) u with
            | (.inr _, v) => match laneReach p true ((writtenArrays p (endOf p d)).1.flatMap fun (a : Nat × List Byte) => laneLines a.1 a.2.length) v with
               | (.inr _, _) => ((tagCmd s 3).map fun c => decide (c.waiting ≤ 1)) == some true
               | _ => false
            | _ => false
         | _ => false) = true
      ∧ findProblem (solving prob0) 0 = some prob0 ∧ pickLane (solving prob0) prob0 = some (0, 0)
      ∧ assignDue (solving prob0) prob0 = true
      ∧ laneRuns (solving { prob0 with lane := some (3, 31) }) { prob0 with lane := some (3, 31) } = true
      ∧ (deadlineHit (solving { prob0 with deadline := 1 }) { prob0 with deadline := 1 } = true
        ∧ (deadlineEnds (solving { prob0 with deadline := 1 }) { prob0 with deadline := 1 } 0 0 false []).isSome = true)
      ∧ laneBusy (solving { prob0 with lane := some (3, 31) }) 3 31 = true := by decide +kernel

/-! ### Witnesses: the row cache and memory, translation, control commands -/

def line0 : CLine := ⟨0, true, List.replicate 128 7#8, List.replicate 8 false⟩

/-- Slice 0, whose way 15 is ACTIVE and holds line 0. -/
def slice0 : Slice :=
  { sliceReset 0 with way := [(15, 2)], lines := [(15 * 8192, some line0)], misses := [⟨64, some 5, some { line0 with l := 9 }, none, true, []⟩] }

def cached : State := setSlice (owned run) 0 slice0

def readReq : LineReq := ⟨7, 3, 0, .bulk, 1, .read, 0, 0, 1, 0, .dev 0, [], [], .issued, 0⟩

theorem witness_LineRequestServed :
    (openMissOf (getSlice cached 0) 64).isSome = true
      ∧ ((openMissOf (getSlice cached 0) 64).map fun m => m.fill.isNone && m.victim.isSome) = some true
      ∧ (let s := { cached with hints := [⟨1, 128 * 64, 0⟩, ⟨1, 0, 0⟩] }
         (hintsAt s (sliceOf 0))[0]? = some ⟨1, 0, 0⟩ ∧ prefetchWaits s ⟨1, 0, 0⟩ = false ∧ prefetchDrops s ⟨1, 0, 0⟩ = true
          ∧ cacheEnabled s = true ∧ ownCheck s (some 1) 0 = .pass ∧ planeUp s = true)
      ∧ (let s := { cached with hints := [⟨1, 256, 0⟩] }
         (hintsAt s (sliceOf 2))[0]? = some ⟨1, 256, 0⟩ ∧ prefetchWaits s ⟨1, 256, 0⟩ = false ∧ prefetchDrops s ⟨1, 256, 0⟩ = false)
      ∧ (let s := { owned run with reqs := [readReq] }
         findReq s 7 = some readReq ∧ sliceDue s readReq = true ∧ ownCheck s (some 1) 0 = .pass ∧ cacheEnabled s = false
          ∧ (behind s (getSlice s (sliceOf 0)) readReq || noEntry s readReq 0) = false)
      ∧ (let s := setSlice { cached with reqs := [readReq, { readReq with id := 8 }] } (sliceOf 0) { slice0 with ingress := [8], lines := [] }
         findReq s 7 = some readReq ∧ sliceDue s readReq = true ∧ behind s (getSlice s (sliceOf 0)) readReq = true)
      ∧ (let r := { readReq with kind := .write, wp := 3, data := List.replicate 128 (some 1#8) }
         let s := { owned run with reqs := [r] }
         findReq s 7 = some r ∧ sliceDue s r = true ∧ ownCheck s (some 1) 0 = .pass ∧ r.data.length ≤ 128)
      ∧ (let s := { cached with reqs := [readReq] }
         findReq s 7 = some readReq ∧ sliceDue s readReq = true ∧ cacheEnabled s = true ∧ openMissOf (getSlice s (sliceOf 0)) 0 = none
          ∧ lookup (getSlice s (sliceOf 0)) 0 = some (15, line0)) := by
  decide +kernel

/-- RC_CMDSLICE names slices 0 and 19. -/
def ends (s : State) : State := setFld s .rcCmdslice 0 0 0 0 20 0x80001

/-- The same, with a way of each in a state. -/
def endWays (f : Slice → Slice) : State := setSlice (setSlice (ends up) 0 (f (sliceReset 0))) 19 (f (sliceReset 19))

theorem witness_WayCommandTransitions :
    (ends up).wayCmd = none ∧ regFld (ends up) .rcCmdslice 0 0 0 0 20 ≠ 0
      ∧ firstRefusal (ends up) 1 0x8001#16 0x80001 = none
      ∧ firstRefusal (endWays fun c => { c with inv := 0x8001#16 }) 2 0x8001#16 0x80001 = none
      ∧ firstRefusal (endWays fun c => { c with way := [(0, 2), (15, 2)] }) 3 0x8001#16 0x80001 = none
      ∧ firstRefusal (endWays fun c => { c with way := [(0, 2)] }) 4 0x8001#16 0x80001 = none
      ∧ firstRefusal (endWays fun c => { c with way := [(0, 0), (15, 0)] }) 5 0x8001#16 0x80001 = none := by
  decide +kernel

theorem witness_WayCommandRefusals :
    ({ ends up with wayCmd := some ⟨1, 1#16, 1⟩ }).wayCmd.isSome = true
      ∧ regFld up .rcCmdslice 0 0 0 0 20 = 0
      ∧ firstRefusal (endWays fun c => { c with way := [(15, 2)] }) 1 0x8001#16 0x80001 = some (2, 0, 15)
      ∧ firstRefusal (ends up) 2 0x8001#16 0x80001 = some (1, 0, 0) := by
  decide +kernel

theorem witness_CacheSweepsAndErrors :
    sweepReady (setSlice up 0 { sliceReset 0 with way := [(15, 3)] }) 0 15 = true
      ∧ wayState (getSlice up 19) 15 ≠ 0
      ∧ (2 ≤ wayState (getSlice cached 0) 15 ∧ lineAt (getSlice cached 0) 15 0 = some line0 ∧ line0.dirty = true
        ∧ line0.data.length ≤ 128)
      ∧ lineAt (getSlice (setSlice up 0 { slice0 with lines := [(15 * 8192, some { line0 with dirty := false })] }) 0) 15 0
          = some { line0 with dirty := false } := by
  decide +kernel

/-- Context 1 is bound to the physical function and has one migrating segment of 2 MiB, whose granule 0 is absent. -/
def bound : State :=
  { setFld run .xlCtxbind 0 1 0 0 1 1 with
    hbm := memWrite [] 512 (leBytes 8 0x87 ++ leBytes 8 0x20 ++ leBytes 8 0x200000 ++ leBytes 8 0x100000), own := [(0, 0x41#8)] }

def segMig : Seg := ⟨0, true, true, false, 0, false, true, 0, 0x200000, 0x200000, 0x100000⟩

def miss (dtc : Bool) : PxMiss := ⟨.fetch 0 .bulk, 1, 0x1000, false, dtc⟩

def rec0 : FaultRec := ⟨1, 1, 0, false, true, 0, 0, 1, 0⟩

/-- A command of tag 3 whose line no lookaside holds. -/
def lost : State :=
  modCore (withCmd { cmd0 with op := .block .sload, stream := some { stream0 with halted := none } }
    (modSlot run 0 .bulk fun x => { x with fq := [3] })) 0 fun c => { c with look := coreReset.look }

theorem witness_TranslationEventsComplete :
    ({ up with batchOpen := [rec0] }).batchOpen ≠ [] ∧ frBase up = 0
      ∧ (({ up with host := { up.host with atsOut := [(1, some 5, 0x5000)] } }).host.atsOut.contains (1, some 5, 0x5000) = true)
      ∧ (({ up with priOut := [⟨63, none, 2 ^ 52 - 1, 511⟩] }).priOut.find? (fun (q : PageReq) => q.fn == 63 && q.group == 511)
          = some ⟨63, none, 2 ^ 52 - 1, 511⟩)
      ∧ (up.reqs = [] ∧ up.host.orphans = [])
      ∧ (canCommit lost 0 .bulk = true ∧ fetchSeg lost 0 .bulk = none)
      ∧ (commandMiss lost 3).isSome = true
      ∧ (nextMiss { bound with px := [miss false] } = some (miss false) ∧ (pointsFind bound 1 0x1000).1 = some segMig
        ∧ (pointsFind bound 1 0x200000).1 = none)
      ∧ (nextMiss { bound with px := [{ miss true with who := .stream 3 }] } = some { miss true with who := .stream 3 } ∧ segMig.mig = true) := by
  decide +kernel

/-- Queue 0 of context 1 has sent a control command. -/
def control (code : Nat) (body : List Byte) (pf : Bool) : State :=
  { bound with ctrl := [⟨0, code, body, pf⟩]
               host := { bound.host with cmds := [{ dcmd with op := code, bytes := body, st := .waiting }] } }

/-- Bytes of a command: `bs` from byte 8 on. -/
def body8 (bs : List Byte) : List Byte := padTo 64 (List.replicate 8 0#8 ++ bs)

/-- OWN_SET of every granule to context 63, INVALIDATE and SEG_SYNC of context 1, GRANULE_SET of its granule 0. -/
def ownBody : List Byte := body8 (leBytes 8 0 ++ leBytes 4 49152 ++ leBytes 1 1 ++ leBytes 1 63)
def invBody : List Byte := body8 [1#8]
def granBody : List Byte := body8 ([1#8, 0#8, 1#8, 0#8] ++ leBytes 4 0 ++ leBytes 4 1)
def syncBody : List Byte := body8 [1#8, 0#8, 0x01#8, 0x80#8]
def syncMirror : List HostReply := [.data (List.replicate 32 0#8) false, .data (List.replicate 32 0#8) false]

theorem witness_ControlCommands :
    (nextControl (control 0x43 ownBody false) 0x43 = some ⟨0, 0x43, ownBody, false⟩
        ∧ (findCmd (control 0x43 ownBody false) 0).isSome = true)
      ∧ (nextControl (control 0x43 ownBody true) 0x43 = some ⟨0, 0x43, ownBody, true⟩
        ∧ fieldAt ownBody 8 8 % 2 ^ 21 = 0 ∧ fieldAt ownBody 16 4 ≠ 0 ∧ fieldAt ownBody 20 1 ≤ 1 ∧ fieldAt ownBody 21 1 < 64
        ∧ zeroBytes ownBody 22 64 = true ∧ fieldAt ownBody 8 8 + fieldAt ownBody 16 4 * 2 ^ 21 ≤ installed up.variant)
      ∧ (nextControl (control 0x41 invBody true) 0x41 = some ⟨0, 0x41, invBody, true⟩ ∧ fieldAt invBody 8 1 = 1
        ∧ fieldAt invBody 9 1 = 0 ∧ zeroBytes invBody 12 16 = true ∧ zeroBytes invBody 32 64 = true ∧ ctxValid bound 1 = true)
      ∧ (nextControl (control 0x42 granBody true) 0x42 = some ⟨0, 0x42, granBody, true⟩ ∧ fieldAt granBody 10 1 = 1
        ∧ zeroBytes granBody 11 12 = true ∧ fieldAt granBody 16 4 = 1 ∧ zeroBytes granBody 20 24 = true
        ∧ fieldAt granBody 24 8 % 2 ^ 21 = 0 ∧ zeroBytes granBody 32 64 = true
        ∧ (segRead (control 0x42 granBody true) 1 0).1 = some segMig ∧ 0 + 1 ≤ segMig.len / 2 ^ 21)
      ∧ (let s := control 0x40 syncBody true
         let es := mirrorEntries (maskSegs (fieldAt syncBody 10 2)) syncMirror
         nextControl s 0x40 = some ⟨0, 0x40, syncBody, true⟩ ∧ zeroBytes syncBody 9 10 = true ∧ zeroBytes syncBody 12 64 = true
          ∧ es.map (·.1) = [0, 15] ∧ ∀ e ∈ es, mirrorReason s e.1 e.2 (segsAfter (segTable 1 16 0 s).1 es) = 0)
      ∧ epochOver { bound with epochs := [⟨0, none, [(3, 1)], [], []⟩] } ⟨0, none, [(3, 1)], [], []⟩ = true := by
  decide +kernel

theorem witness_ControlCommands_granules :
    (List.range (channels up.variant / 4)).all (fun j => !granuleLost up j) = true := by decide +kernel

/-! ### The host interface -/

/-- Context 1 belongs to the physical function; its queue 0 is enabled and holds two commands not yet taken. -/
def queued : State :=
  setQueue (setFld (setFld bound .dspQctl 0 1 0 0 1 1) .dspQctl 0 1 0 8 5 4) 1 0
    { queueReset with sqTail := 2, bells := [(2, 0)] }

/-- One command 0 of that queue stands with the Dispatcher; core 0 is idle and takes programs of context 1. -/
def taken (d : DCmd) (s : State) : State :=
  setFld { setCore s 0 coreReset with host := { s.host with cmds := [d] } } .dspCtxcores 0 1 0 0 1 1

def runBody (target : Nat) : List Byte := padTo 64 (leBytes 8 1 ++ leBytes 8 0x1000 ++ leBytes 8 0 ++ leBytes 2 target)

/-- The read of both is in flight. -/
def reading : State := { queued with host := { queued.host with cmdReads := [⟨qKey 1 0, 0, 2⟩] } }

theorem witness_QueueDoorbellsAndReads :
    (pageOf queued 0 1 = .ok ∧ qEnabled queued 1 0 = true ∧ qSize queued 1 0 = 16 ∧ 16 ≤ 16 ∧ ¬16 ≤ 15
        ∧ (getQueue queued 1 0).err = 0)
      ∧ (pageOf { up with host := { up.host with vfEnable := true } } 5 1 = .denied ∧ pageOf State.reset 0 1 = .gone ∧ pageOf bound 0 1 = .ok ∧ qEnabled bound 1 0 = false)
      ∧ (readOf reading 1 0 = some ⟨qKey 1 0, 0, 2⟩ ∧ readLive reading ⟨qKey 1 0, 0, 2⟩ = true ∧ takable reading 1 0 = 2) := by decide +kernel

theorem witness_DispatcherCommands :
    (let d := { dcmd with st := .waiting, bytes := runBody 0 }
     let s := taken d bound
     findCmd s 0 = some d ∧ queueTurn s d = true ∧ runExpired s d = false ∧ planeUp s = true
      ∧ candidate s 1 false 0 = true ∧ candidate s 1 false 1 = false)
      ∧ (let d := { dcmd with st := .waiting, bytes := runBody 0x8000 }
         let s := taken d bound
         findCmd s 0 = some d ∧ queueTurn s d = true ∧ (fieldAt d.bytes 24 2).testBit 15 = true ∧ pickCore s 1 false = some 0)
      ∧ (let d := { dcmd with st := .waiting, bytes := runBody 0x8000, express := true }
         let s := taken d bound
         queueTurn s d = true ∧ runExpired s d = false ∧ ∀ n, n < 160 → candidate s 1 true n = false)
      ∧ (let d := { dcmd with st := .assigned 0, express := true, bytes := padTo 64 (leBytes 16 1 ++ leBytes 8 1) }
         findCmd (taken d bound) 0 = some d ∧ runExpired (taken d bound) d = true)
      ∧ (let d := { dcmd with st := .waiting, op := 4 }
         startable (taken d bound) d = true ∧ startTurn (taken d bound) d = true)
      ∧ (let d := { dcmd with st := .waiting, op := 2 }
         transferDue (taken d bound) d 2 4095 = true)
      ∧ (let d := { dcmd with st := .running, op := 3, tag := some 4095 }
         transferDue (taken d bound) d 3 0 = true) := by decide +kernel

theorem witness_ProgramStarts :
    let d := { dcmd with st := .assigned 0, bytes := runBody 0 }
    let s := taken d bound
    findCmd s 0 = some d ∧ startable s d = true ∧ startTurn s d = true ∧ planeUp s = true := by decide +kernel

theorem witness_HostInterfaceEvents :
    (let s := setQueue (setFld (setFld queued .dspQirq 0 1 0 15 1 1) .dspQirq 0 1 0 24 8 5) 1 0 { queueReset with unsig := 3 }
     regBit s .dspQirq 0 1 0 15 = true ∧ regFld s .dspQirq 0 1 0 24 8 ≠ 0 ∧ (getQueue s 1 0).unsig ≠ 0)
      ∧ (hostHere up = true ∧ hostHere State.reset = false ∧ spGet false 2047 up.host.vecPending = false)
      ∧ (spGet false 0 up.host.d3 = false ∧ spGet false 0 up.host.resetting = false ∧ hw4Addr up 0x3FFFFFF0 + 16 ≤ installed up.variant
        ∧ 0x3FFFFFF0 < 2 ^ up.host.hw4Log ∧ cacheEnabled up = false)
      ∧ (let s := { up with host := { up.host with hw4Log := 38 } }
         (0x3FFFFFFFFF : Nat) < 2 ^ s.host.hw4Log ∧ installed s.variant < hw4Addr s 0x3FFFFFFFFF + 1)
      ∧ (let r := { readReq with target := .host 0 0x1000 none }
         findReq { up with reqs := [r] } 7 = some r ∧ lineWaitsHost r = true)
      ∧ (readOf reading 1 0 = some ⟨qKey 1 0, 0, 2⟩ ∧ readLive reading ⟨qKey 1 0, 0, 2⟩ = true)
      ∧ (let d := { dcmd with op := 3 }
         findCmd (taken d bound) 0 = some d ∧ d.st = .running ∧ missWaits (taken d bound) (.transfer d.id) = false)
      ∧ (nextControl (control 0x40 syncBody true) 0x40 = some ⟨0, 0x40, syncBody, true⟩
        ∧ (fieldAt syncBody 10 2).testBit 15 = true ∧ segSyncOk syncBody = true ∧ ctxValid bound 1 = true)
      ∧ (let l := { layer0 with started := true, rows := [0x2000] }
         findLayer (layerState l) 1 2 = some l ∧ l.sent < panelCount l) := by decide +kernel

theorem witness_HostInterfaceEvents_channels : (List.range 128).all (fun k => !channelFailed up k) = true := by decide +kernel

theorem witness_HostResets :
    (resetTakes up = true ∧ up.host.ctxResetBusy = none ∧ up.host.fnResetBusy = none)
      ∧ hostHere { up with host := { up.host with vfEnable := true } } = true ∧ up.power.dataPlane = false := by
  decide +kernel

/-! ### The fabric -/

/-- Ports 0 and 1 make up the bundle of direction 1 and are UP; the part is device 0 of a ring of two. -/
def linked : State :=
  setPort (setPort (setFld (setFld (setFld (setFld up .jnDims 0 0 0 4 4 1) .jnPortmap 0 0 0 0 3 1) .jnPortmap 0 1 0 0 3 1)
    .jnPortmap 0 1 0 3 2 1) 0 { portReset with st := 3, width := 2 }) 1 { portReset with st := 3, width := 2 }

def ent0 : TxEnt := ⟨5, 0, { op := 0x81 }, 0⟩

/-- Port 0 in some other state. -/
def port0At (x : PortSt) : State := setPort linked 0 x

theorem witness_FlitsAndRetry :
    hasPort linked 0 = true ∧ portUp linked 0 = true ∧ rxRoom linked 0 7 = true ∧ portUp up 31 = false ∧ hasPort up 31 = true
      ∧ (let x := { portReset with st := 3, replay := [ent0] }
         portUp (port0At x) 0 = true ∧ x.replay ≠ [] ∧ afterAck 5 x.replay = some [])
      ∧ (let x := { portReset with st := 3, replay := [ent0], wentBack := true, retries := 7 }
         portUp (port0At x) 0 = true ∧ ¬x.retries + 1 < 8)
      ∧ (head0.seq.toNat = (getPort linked 0).rxSeq ∧ (getRx (getPort linked 0) 0).part = none
          ∧ packetOk { op := 0x81 } = true ∧ flitCount { op := 0x81 } = 1 ∧ vcOf { op := 0x81 } = 3) := by decide +kernel

/-- The markers that lane `l` receives in an attempt: eight codewords in a row whose counters rise by one. -/
def marks (l : Nat) : List (BitVec 20) := (List.range 8).map fun n => markerWord (1020 + n) l

theorem witness_LinkStatesAndFailover :
    (laneOf linked (portDir linked 0) 1 = some 1 ∧ head0.nak = false)
      ∧ (let s := setPort linked 1 { portReset with failover := some [ent0] }
         (getPort s 1).failover = some [ent0] ∧ bundleUp s (portDir s 1) = [0])
      ∧ (getPort (port0At { portReset with st := 2 }) 0).st = 2
      ∧ (let s := port0At { portReset with st := 1, fails := 3 }
         (getPort s 0).st = 1 ∧ hasPort s 0 = true ∧ 3 ≤ (getPort s 0).fails ∧ attemptWidth s 0 [] = 0)
      ∧ lanesLock [0, 1, 2, 3] ([0, 1, 2, 3].map marks) = true
      ∧ (let s := setFld (port0At { portReset with st := 1 }) .klCfg 0 0 0 0 1 1
         attemptWidth s 0 ([0, 1].map marks) = 1 ∧ (getPort s 0).fails < 3 ∧ attemptWidth s 0 [] = 0)
      ∧ (getPort (port0At { portReset with st := 5 }) 0).st = 5
      ∧ (let s := port0At { portReset with st := 2 }
         helloFault s 0 ⟨BitVec.ofNat 10 (neighbour s 1), 0#8, BitVec.ofNat 8 (opposite 1), 0#8, true, 0#32, 0#32⟩ = 0
          ∧ helloFault s 0 ⟨0#10, 0#8, 0#8, 0#8, true, 1#32, 0#32⟩ = 1) := by decide +kernel

/-- The Junction holds a link-state announcement, an answer for this part, and one for a device that is not there. -/
def lsa0 : Packet := { op := 7, src := 1, args := { dim := 2, link := 15, state := 1 } }
def junction (p : Packet) : State :=
  setPort linked 0 { portReset with st := 3, rx := [(6, ⟨none, [p]⟩)] }

theorem witness_JunctionForwards :
    (let s := junction lsa0
     pktAt s (.rx 0 6 0) = some (lsa0, some (0, 6)) ∧ turnOf s (.rx 0 6 0) lsa0 = true ∧ lsaStops s lsa0 (some (0, 6)) = true
      ∧ lsa0.src ≠ selfId s)
      ∧ (let p : Packet := { op := 0x81 }
         let s := junction p
         pktAt s (.rx 0 6 0) = some (p, some (0, 6)) ∧ turnOf s (.rx 0 6 0) p = true ∧ resendFirst s (.rx 0 6 0) p = true
          ∧ route s p (some (0, 6)) = .here ∧ hopReady s (.rx 0 6 0) p (some (0, 6)) 0 = true ∧ isRequest p = false
          ∧ resendOf s (.rx 0 6 0) = none)
      ∧ (let p : Packet := { op := 0x81, dst := 1023 }
         let s := junction p
         route s p (some (0, 6)) = .stuck ∧ hopReady s (.rx 0 6 0) p (some (0, 6)) 0 = true)
      ∧ (let p : Packet := { op := 0x81, dst := 1 }
         let s := { linked with inject := [p] }
         pktAt s (.inject 0) = some (p, none) ∧ route s p none ≠ .stuck ∧ route s p none ≠ .here) := by decide +kernel

/-- A request in service, its window as its registers stand. -/
def inService (p : Packet) : State := { linked with inbound := [⟨4, none, p, winWords linked p⟩] }

def request (p : Packet) : Inbound := ⟨4, none, p, winWords linked p⟩

theorem witness_RemoteRequestsAnswered :
    planeUp linked = true
      ∧ (inboundOf (inService { op := 1 }) 4 1 = some (request { op := 1 }) ∧ keyOk (inService { op := 1 }) { op := 1 } = false)
      ∧ (let s := setFld (setFld (inService { op := 2, ctx := 1 }) .xlCtxbind 0 1 0 0 1 1) .xlIwctl 0 1 0 0 5 0
         inboundOf s 4 2 = some (request { op := 2, ctx := 1 }) ∧ keyOk s { op := 2, ctx := 1 } = true
          ∧ windowOk (request { op := 2, ctx := 1 }) true 0 = false)
      ∧ (let s := setFld (setFld (setFld (inService { op := 1, ctx := 1 }) .xlCtxbind 0 1 0 0 1 1) .xlIwctl 0 1 0 0 5 3) .xlIwbox 0 1 0 0 48 (2 ^ 48 - 1)
         keyOk s { op := 1, ctx := 1 } = true)
      ∧ inboundOf (inService { op := 5 }) 4 5 = some (request { op := 5 })
      ∧ (let p : Packet := { op := 3, args := { pieces := 1 } }
         let s := inService p
         inboundOf s 4 3 = some (request p) ∧ poolReady s (piecesOf s p) p = true ∧ expressPool s = false
          ∧ keyOk s p = false) := by decide +kernel

def remote0 : Remote := ⟨5, 5, 1, 1, 0, .bulk, 1, 0, 0, 0, 0, true⟩

theorem witness_RemoteAnswersArrive :
    (inboundOf (inService { op := 0x8F }) 4 0x8F = some (request { op := 0x8F })
        ∧ cmdOfHandle (endInbound (inService { op := 0x8F }) (request { op := 0x8F })) 0 = none)
      ∧ (let c := { cmd0 with op := .block .rread }
         let h := (handleOf 3 1#4).toNat
         let p : Packet := { op := 0x81, handle := h }
         let s := { withCmd c (inService p) with remotes := [{ remote0 with tag := 3, handle := h, dst := 0 }] }
         answerIn s 4 = some (request p) ∧ (cmdOfHandle (endInbound s (request p)) h).map (·.1) = some 3
          ∧ (s.remotes.find? (awaited p)).isSome = true)
      ∧ (({ linked with remotes := [remote0] }).remotes[0]? = some remote0 ∧ remote0.left = true) := by decide +kernel

/-- R493: the check value of the IEEE 802.3 CRC-32 over the ASCII digits 1 to 9. -/
theorem test_crc32_check : crc32 ((List.range 9).map fun i => BitVec.ofNat 8 (0x31 + i)) = 0xCBF43926 := by decide +kernel

/-- Tables 13.2 and R513: a HELLO flit of device 0x271, port 5, direction 2, lane 1. -/
def helloFlit : List Byte :=
  flitBytes ⟨5, ⟨0x1234#16, none, false, 0#32⟩, .hello ⟨0x271#10, 5#8, 2#8, 1#8, true, 0x44434241#32, 0x34333231#32⟩⟩ []

theorem test_hello_flit_layout :
    helloFlit.take 28 = [0x02#8, 0#8, 0x34#8, 0x12#8, 0#8, 0#8, 0#8, 0#8, 0#8, 0#8, 0#8, 0#8, 0x71#8, 0x02#8, 5#8, 2#8, 1#8, 1#8, 0#8, 0#8,
      0x41#8, 0x42#8, 0x43#8, 0x44#8, 0x31#8, 0x32#8, 0x33#8, 0x34#8]
      ∧ flitGood helloFlit = true ∧ flitGood (helloFlit.set 20 0#8) = false := by decide +kernel

/-! ### The Timetable counter -/

/-- A time master in state `st`. -/
def master (st : Nat) : State := setFld (setFld up .ttStatus 0 0 0 3 1 1) .ttStatus 0 0 0 0 3 st

/-- Device 0 of the ring follows device 1 over port 0. -/
def follower (st : Nat) : State :=
  setFld { linked with fab := { linked.fab with timeMaster := 1 } } .ttStatus 0 0 0 0 3 st

theorem witness_TimeCounterAdvances :
    timeClocked up = true
      ∧ (Int.natAbs 1 ≤ skewBound ∧ copy16 up.time ≤ copy16 { up.time with skew := 1 })
      ∧ (let s := setFld { up with time := { up.time with corr := -5 } } .ttStatus 0 0 0 4 1 1
         stepPending s = true ∧ armed s = 0) := by decide +kernel

/-- An edge half a second after the last may count; one a little before may not. Second 2^31 of TT_OFFSET's range saturates. -/
theorem witness_TimeMasterAndHoldover :
    (jitterOk 131072 = true ∧ jitterOk (-131072) = true ∧ incrOk 0x200000000 = true)
      ∧ (edgeCounts (master 1) = true ∧ badEdge (master 1) 0 = false ∧ edgeCounts up = false)
      ∧ (let s := { master 1 with time := { up.time with lastEdge := some (counter16 up.time - ms16 500 + 1) } }
         badEdge s (counter16 s.time) = true)
      ∧ (let s := { master 1 with time := { up.time with lastEdge := some (counter16 up.time - ms16 500) } }
         badEdge s (counter16 s.time) = false)
      ∧ (let s := { master 2 with time := { up.time with lastEdge := some (counter16 up.time - ms16 10) } }
         hostHere s = true ∧ ∃ x, s.time.lastEdge = some x ∧ x + ms16 10 ≤ counter16 s.time ∧ counter16 s.time ≤ x + ms16 990)
      ∧ (let s := { master 2 with time := { up.time with sec := 5, lastEdge := some 0 } }
         isMaster s = true ∧ smWorks s = true ∧ ttState s = 2 ∧ ppsMissing s = true)
      ∧ (let s := follower 1
         isMaster s = false ∧ smWorks s = true ∧ ttState s = 1)
      ∧ (let s := setFld { master 3 with time := { up.time with sec := 4095 } } .ttCfg 0 0 0 20 12 4095
         ttState s = 3 ∧ holdSeconds s = 4095 ∧ regFld s .ttCfg 0 0 0 20 12 = 4095 ∧ regBit s .ttStatus 0 0 0 7 = false) := by
  refine ⟨by decide +kernel, by decide +kernel, by decide +kernel, by decide +kernel, ⟨by decide +kernel, ?_⟩,
    by decide +kernel, by decide +kernel, by decide +kernel⟩
  exact ⟨counter16 up.time - ms16 10, rfl, by decide +kernel, by decide +kernel⟩

def sync0 : Tsync := ⟨0, 7#16, 0#48, 0#32, 0#16, 0#10, 0#5⟩

theorem witness_TimeExchanges :
    (portUp linked 0 = true ∧ servesTime linked = true ∧ hasPort linked 0 = true)
      ∧ (fromUpstream (follower 1) 0 = true ∧ portUp (follower 1) 0 = true)
      ∧ (let s := { follower 1 with time := { (follower 1).time with exchange := some ⟨7, some 1, 2, some 3⟩ } }
         fromUpstream s 0 = true ∧ s.time.exchange = some ⟨sync0.seqid.toNat, some 1, 2, some 3⟩)
      ∧ (let p : Packet := { op := 6, args := { master := 1, state := 3 } }
         let s := setPort (follower 1) 0 { portReset with st := 3, rx := [(4, ⟨none, [p]⟩)] }
         pktAt s (.rx 0 4 0) = some (p, some (0, 4)) ∧ turnOf s (.rx 0 4 0) p = true ∧ fromUpstream s 0 = true
          ∧ p.args.master = s.fab.timeMaster) := by decide +kernel

/-- A record of the central log. -/
def lrec : LogRec := ⟨1, 3, 1, none, 1, 0, 0, 1, 0, 0, false, false⟩

/-! ### The Stationmaster, repair, power and debug -/

/-- The host has asked for command `code` by the mailbox. -/
def mailboxed (code : Nat) : State := { setReg up .smMboxcmd 0 0 0 (BitVec.ofNat 64 code) with sm := { up.sm with mbox := true } }

theorem witness_ManagementCommands :
    (mgmtAlive up = true ∧ up.sm.mbox = false ∧ up.sm.st = 2 ∧ up.sm.smbusPend = none ∧ regBit up .govLstat 0 0 0 0 = false)
      ∧ served { up with sm := { up.sm with st := 1 } } 0x22 = false
      ∧ mboxDue (mailboxed 0x24) 0x24 = true
      ∧ (unreadOld up .smb = [] ∧ oldestOf (unreadNew { up with log := { up.log with seq := 1, central := [lrec] } } .smb) = some lrec)
      ∧ (hostHere up = true ∧ mgmtKnown 0x24 = true ∧ mgmtKnown 0x25 = false) := by decide +kernel

/-- An update in progress, and a Stationmaster that restarts. -/
def updating (upd st : Nat) : State := { up with sm := { up.sm with upd := upd, st := st } }

theorem witness_FirmwareUpdate :
    (let s := updating 1 3
     mgmtAlive s = true ∧ s.sm.mbox = false ∧ smWorks s = true ∧ s.sm.smbusPend = none ∧ s.sm.upd = 1)
      ∧ (updating 2 2).sm.upd = 2 ∧ (updating 3 2).sm.upd = 3 ∧ smWorks (updating 3 2) = true
      ∧ 5 ≤ [0#8, 0#8, 0#8, 0#8, 1#8].length ∧ leNat ([0xFF#8, 0xFF#8, 0x3F#8, 0#8, 1#8].take 4) + 1 = 4 * 2 ^ 20
      ∧ (updating 0 4).sm.st = 4 := by decide +kernel

theorem witness_GovernorEvents :
    (up.sm.cycleAt ≠ some (boundary up) ∧ govWindowOk govw = true ∧ govWindowOk { govw with offset := 0xFF40#16 } = true)
      ∧ (let s := setFld { up with sm := { up.sm with solving := true, cycleAt := some 0 } } .govLstat 0 0 0 1 1 1
         smWorks s = true ∧ s.sm.solving = true ∧ regBit s .govLstat 0 0 0 1 = true ∧ (govResult s).2.1 = false)
      ∧ (let s := setFld { up with sm := { up.sm with solving := true, cycleAt := some 0 }, govWin := memWrite [] 128 [1#8] } .govLstat 0 0 0 1 1 1
         (govResult s).2.1 = true ∧ (s.sm.cycleAt.getD 0) + 240000 < nsOf s.now ∧ [0, 0, 0, 0].sum ≤ budget s)
      ∧ ([0, 0, 0, 0].all (fun (x : Int) => decide (x ≤ 0)) = true ∧ up.sm.cycleLocal = none ∧ regBit up .sbSlvfail 0 0 0 0 = false)
      ∧ (smWorks up = true ∧ govState up ≠ 1 ∧ up.power.rails = .on)
      ∧ effectiveCap up * 1000 < boardPower { up with sm := { up.sm with coreMw := [10 ^ 6, 10 ^ 6, 0, 0] } }
      ∧ (laneReserved { up with sm := { up.sm with govOn := true } } = true ∧ regBit up .govLstat 0 0 0 0 = false) := by
  decide +kernel

/-- A slot that waits for its replay. -/
def diverged : State := setCore up 0 { core0 with bulk := { slot0 with phase := .diverged } }

/-- A part in its bring-up. -/
def booting (k : Nat) : State :=
  { up with power := { up.power with phase := k, booted := decide (k ≠ 0) }, sm := { up.sm with st := if k ≤ 5 then 1 else 2 } }

theorem witness_RepairEvents :
    (compares up 0 = true ∧ hostOf up 0 = some 0 ∧ (getCore up 0).halted = false)
      ∧ (let s := setFld up .sbCfence 0 9 0 0 2 1
         hostOf s 9 = some 9 ∧ smWorks s = true ∧ remapDue s 9 9 = true)
      ∧ ((theSlot diverged a0).phase = .diverged ∧ seqWorks diverged 0 = true ∧ drained diverged 0 .bulk = true ∧ planeUp diverged = true)
      ∧ (memoryOn up = true ∧ 128 * (installed up.variant / 128 - 1) < installed up.variant ∧ channelFailed up 0 = false)
      ∧ (correctedDue up (.way 19 15) = true ∧ correctedDue up (.link (.die 15)) = true
        ∧ spGet 0 (linkIndex (.die 15)) ({ up with linkRetry := [(linkIndex (.die 15), 15)] }).linkRetry + 1 = 16)
      ∧ (uncorrectableDue cached (.line 0 15 0 7) = true ∧ uncorrectableDue up (.localStore 159 32767) = true
        ∧ uncorrectableDue up (.accumulator 0 8191) = true ∧ uncorrectableDue up (.instructionCache 0) = true
        ∧ uncorrectableDue up (.queues 0) = true ∧ uncorrectableDue up .tag = true ∧ uncorrectableDue up .sram = true
        ∧ uncorrectableDue (layerState layer0) (.panel 1 2#16 0 63) = true
        ∧ uncorrectableDue (layerState layer0) (.lane 1 2#16 0 0 0 0) = true
        ∧ uncorrectableDue (layerState layer0) (.holdBuffer 1 2#16 0 0 255) = true
        ∧ uncorrectableDue up (.hbm (installed up.variant / 128 - 1) 3) = true
        ∧ uncorrectableDue { run with rmus := [(0, { rmuReset with windows := [window0] })] } (.merge 0 1 3) = true
        ∧ uncorrectableDue (setCore up 0 { core0 with bulk := { slot0 with replay := { replayReset with valid := true } } })
            (.replay 0 .bulk) = true)
      ∧ (auditDue up .allotments = true ∧ auditDue up .tagsQuota = true ∧ auditDue linked (.credits 0 7) = true
        ∧ auditDue up (.tokens 159) = true ∧ firmwareReady up = true)
      ∧ (let s := setFld (setPort up 31 { portReset with fencedAt := some 0 }) .sbPortfence 0 0 0 31 1 1
         let s := { s with now := ⟨600, 0, 0⟩, time := { s.time with sec := 600, sub := 0 } }
         regBit s .sbPortfence 0 0 0 31 = true ∧ 0 + 600000000000 ≤ opNs (nowOp s) ∧ (getPort s 31).fencedAt ≠ none)
      ∧ (let s := setFld (setFld { up with log := { up.log with seq := 1, central := [lrec] } } .logRcfg 0 0 0 31 1 1) .logRcfg 0 0 0 0 5 6
         ringNext s = some lrec ∧ hostHere s = true ∧ ringFull s = false) := by decide +kernel

theorem witness_PowerAndBringUp :
    (up.power.por = false ∧ State.reset.power.por = true)
      ∧ (let s := { up with power := { up.power with rails := .rising 8 } }
         s.power.rails = .rising 8 ∧ s.power.bootFatal = false)
      ∧ (up.power.pwrdn = false ∧ up.power.perst = false)
      ∧ (up.power.lost.contains (lostRef .mclk) = false ∧ ({ up.power with lost := [.ser 3] }).lost.contains (lostRef (.ser 3)) = true)
      ∧ ({ up.power with perst := true }).perst = true
      ∧ ((booting 0).power.rails = .on ∧ (booting 0).power.booted = false ∧ (booting 5).power.phase = 5)
      ∧ (let s := { booting 3 with power := { (booting 3).power with trained := (List.range 128).map fun c => (c, true) } }
         ∀ c, c < channels s.variant → spGet false c s.power.trained = true)
      ∧ (let s := { booting 3 with regs := (List.range 4).map fun k => (regAddr .sbChfail 0 k 0, some 0xFFFFFFFF#64) }
         ∀ c, c < channels s.variant → channelFailed s c = true ∧ spGet false c s.power.trained = false)
      ∧ discovered (booting 6) = true
      ∧ (spGet false 127 (booting 3).power.trained = false ∧ channelFailed (booting 3) 127 = false)
      ∧ (({ up.host with ctxResetBusy := some 1 }).ctxResetBusy.isSome = true
        ∧ spGet false 63 ({ up.host with resetting := [(63, true)] }).resetting = true)
      ∧ (({ up.power with dataPlane := true }).warm = false ∧ ({ up.power with warm := true }).perst = false) := by
  decide +kernel

/-- Core 0 halted in debug mode. -/
def stopped : State :=
  setFld (setCore up 0 { core0 with halted := true }) .dbgCtl 0 0 0 0 1 1

theorem witness_DebugAndTest :
    ([0x01, 0x02, 0x03, 0x04, 0x05, 0x06, 0x07, 0x10, 0x11] : List Nat).contains 0xFF = false
      ∧ (dbgLocked up = false ∧ dbgLocked { up with nv := { up.nv with dbgLock := true } } = true ∧ inControl (4 * 0) = false)
      ∧ (reaches up (.hw0 0) (regAddr .dbgCmd 0 0 0) = true ∧ fnOfWho (.hw0 0) = 0 ∧ debugMode stopped = true ∧ haltedAt stopped 0 = true
        ∧ haltedAt stopped 1 = false ∧ debugMode up = false)
      ∧ (seqOf stopped 0 = some 0 ∧ (getCore stopped 0).halted = true ∧ accOpen stopped 0 = true ∧ hostHere stopped = true)
      ∧ (reaches up .dbgacc (regAddr .dbgTrcmd 0 0 0) = true ∧ portTestOk (setFld up .sbPortfence 0 0 0 31 1 1) 31 2 = true
        ∧ portTestOk linked 0 1 = false) := by decide +kernel

/-! ### Registers, and what every step keeps -/

theorem witness_QuotaWrites :
    let others := ((List.range 160).map fun m => if m = 159 then 0 else regFld up .seqTagquota 0 m 0 0 6).sum
    reaches up .stationmaster (regAddr .seqTagquota 0 159 0) = true ∧ fnOfWho .stationmaster = 0
      ∧ others = 3816 ∧ others + 24 ≤ 3840 ∧ ¬others + 25 ≤ 3840 := by decide +kernel

theorem witness_RegisterRows :
    (reaches up (.hw0 0) (regAddr .xlIwctl 0 63 15) = true ∧ reaches State.reset (.hw0 0) (regAddr .xlIwctl 0 63 15) = false)
      ∧ hostHere up = true ∧ spGet false 0 up.host.d3 = false ∧ spGet false 0 up.host.resetting = false
      ∧ (wayState (getSlice cached 0) 15 = 2 ∧ wayState (getSlice up 0) 15 ≠ 2)
      ∧ (slotBusy (getCore run 0).bulk = true ∧ slotBusy (getCore up 0).bulk = false ∧ slotBusy (getCore up 0).express = false)
      ∧ (windowOpen up 1 = false ∧ ctxWorks run 1 = true ∧ ctxWorks up 1 = false)
      ∧ (anyValid up = false ∧ anyValid bound = true ∧ up.batchHeld = []) := by decide +kernel

theorem witness_HostRegisterAccess :
    hostHere queued = true ∧ spGet false 0 queued.host.d3 = false ∧ spGet false 0 queued.host.resetting = false
      ∧ (qEnabled queued 1 0 = true ∧ qEnabled bound 1 0 = false ∧ ctxValid bound 1 = true ∧ ctxValid up 1 = false)
      ∧ ((2 ^ 12 + 1) / 2 ^ 8 % 32 = 16 ∧ 2 ^ 10 / 2 ^ 8 % 32 = 4 ∧ fnOf bound 1 = 0)
      ∧ (let o := regAddr .jnLate 0 0 0 - 0xF000000000
         placeOf (0xF000000000 + o) = .reg .jnLate 0 0 0 0 ∧ regHere queued .jnLate 0 0 = true ∧ o % 4 = 0)
      ∧ (reaches State.reset (.hw0 0) 0xF000000000 = false ∧ fnOfWho (.hw0 0) = 0)
      ∧ (configHere queued 0 = true ∧ configRetries queued 0 = false ∧ configHere queued 63 = false
        ∧ configRetries { queued with host := { queued.host with resetting := [(0, true)] } } 0 = true)
      ∧ (reaches queued .dbgacc 0xF000000000 = true ∧ reaches queued .stationmaster 0xF000000000 = true)
      ∧ (let s := { queued with host := { queued.host with vfEnable := true } }
         reaches s (.hw0 63) (regAddr .dspQctl 0 1 0) = true ∧ fnOfWho (.hw0 63) ≠ 0 ∧ ctxReg .dspQctl = true
          ∧ ownsCtx s (.hw0 63) (some 1) = false)
      ∧ (hw2Reaches queued 0 (2 ^ 24 - 8) 8 = true ∧ hw2Reaches queued 0 (2 ^ 24) 1 = false) := by decide +kernel

theorem witness_StepKeepsPartQueueAndMemory :
    (match Sys2Proof.Machine.step { up with pending := [.idcode, .bootstat] } with
     | .next t => decide (t.pending = [.bootstat] ∧ t.test.ir = 1)
     | _ => false) = true ∧ memWf up.hbm = true := by decide +kernel

/-! ### Values that the spec states -/

/-- spec/02: a BS8 row of 256 elements holds 256 value bytes and 8 scale bytes, padded to 272 bytes. -/
theorem test_bs8_row : rowBytes .bs8 256 = 272 := by decide

/-- Table 2.2: the largest F8A value is 480 and its only NaN 0x80; the largest F8B value is 57,344, and F8B has infinities. -/
theorem test_f8 :
    numEq (decodeFloat specF8a 0x7F) (.fin false 480 0) = true ∧ numIsNan (decodeFloat specF8a 0x80) = true
      ∧ numEq (decodeFloat specF8b 0x7B) (.fin false 57344 0) = true ∧ numIsInf (decodeFloat specF8b 0x7C) = true := by
  decide +kernel

/-- IEEE 754: 2^24 + 1 is a tie in binary32 and rounds to even, inexact; a sum of the largest value with itself overflows. -/
theorem test_fp32_rounding :
    encodeFloat specFp32 .nearest false 0 (.fin false (2 ^ 24 + 1) 0) = (0x4B800000, flagNX)
      ∧ encodeFloat specFp32 .nearest false 0 (.fin false (0xFFFFFF) 105) = (0x7F800000, flagOF ||| flagNX) := by
  decide +kernel

/-- spec/10: with ways 4 to 7 allowed, all valid, and r = 9, the search takes way 4. Reached from the LFSR value that steps to r = 9. -/
theorem test_victim_search :
    let c : Slice := { sliceReset 0 with
      way := (List.range 16).map fun w => (w, 2)
      lines := (List.range 16).map fun w => (w * 8192, some ⟨w * 8192, false, [], []⟩)
      lfsr := 0x8004#16 }
    let s := setFld up .rcClassmask 0 1 0 0 16 0x00F0
    (allocate s c 1 true 0).1 = some 4 ∧ (allocate s c 1 true 0).2.lfsr = 0x0009#16 := by decide +kernel

/-! ### Worked cases of the spec -/

/-- Conversions of IEEE values that the worked cases name. -/
def fin (neg : Bool) (m : Nat) (e : Int) : Machine.Num := .fin neg m e

/-- spec/02: quantising 5.0, −0.3 and 0.03 to BS8 gives scale byte 0x7B and values 0x50, 0xFB, 0x00. -/
theorem test_bs8_block :
    (encodeBlock 8 127 .nearest false
        ([fin false 5 0, decodeFloat specFp32 0xBE99999A, decodeFloat specFp32 0x3CF5C28F].map fun x => (x, 0))).1 = 0x7B
      ∧ (encodeBlock 8 127 .nearest false
        ([fin false 5 0, decodeFloat specFp32 0xBE99999A, decodeFloat specFp32 0x3CF5C28F].map fun x => (x, 0))).2.1
          = [0x50, 0xFB, 0x00] := by decide +kernel

/-- spec/02: 0x3F80C000 rounds to BF16 0x3F81 at R = 40,000 and to 0x3F80 at R = 50,000, inexact either way. -/
theorem test_stochastic_bf16 :
    encodeFloat specBf16 .stochastic false 40000 (decodeFloat specFp32 0x3F80C000) = (0x3F81, flagNX)
      ∧ encodeFloat specBf16 .stochastic false 50000 (decodeFloat specFp32 0x3F80C000) = (0x3F80, flagNX) := by
  decide +kernel

/-- spec/02: 2^24 and four ones add up to the pair (16,777,216, 4). -/
theorem test_pair_keeps_error :
    [0x4B800000#32, 0x3F800000#32, 0x3F800000#32, 0x3F800000#32, 0x3F800000#32].foldl
      (fun p x => (pairAdd p x).1) pairZero = ⟨0x4B800000#32, 0x40800000#32⟩ := by decide +kernel

/-- spec/04 and Table 5.8: the words of `divd f3, f1, f2` and of the pooled batch. -/
theorem test_worked_words :
    encodeWew (.divd 3#5 1#5 2#5) = 0xC061140D#32 ∧ encodeWew (.block .gpool 10#5 4#5) = 0xE5440080#32
      ∧ encodeWew (.block .accwb 11#5 5#5) = 0xE16500C0#32 ∧ encodeWew (.block .mlayer 12#5 6#5) = 0xED860000#32
      ∧ encodeWew .lend = 0xEC000040#32 := by decide +kernel

/-- spec/04: `fcvtx` of 1.005859375 to BF16 gives 0x3F81 and NX. -/
theorem test_fcvtx_bf16 :
    fcvtxResult (.float specBf16) .nearest false 0 0x3FF0180000000000#64 = (0x3F81#64, flagNX) := by decide +kernel

/-- spec/07: with 1,000 rows on 4 devices, what checked and fast mode read for 5, 999, 1,000 and 4,294,967,295. -/
theorem test_bag_index_modes :
    let t : TableDesc := ⟨0, .fp32, false, false, 1, 16, 1000, 0, [0, 1, 2, 3], 0, 0, 0, 1, 0, 4⟩
    ([5, 999, 1000, 4294967295].map fun g => (keepIndex t g).map (shardOf t)) = [some (1, 1), some (3, 249), none, none]
      ∧ ([5, 999, 1000, 4294967295].map fun g => (keepIndex { t with fast := true } g).map (shardOf t))
        = [some (1, 1), some (3, 249), some (0, 250), some (3, 255)] := by decide +kernel

/-- spec/08: of −2.0, 0.5, 2.0 and 2.0 positions 0 and 2 are kept, and the group counts as pruned. -/
theorem test_two_of_four :
    keepTwo false [fin true 2 0, fin false 1 (-1), fin false 2 0, fin false 2 0] = (0, 2)
      ∧ prunedGroup [fin true 2 0, fin false 1 (-1), fin false 2 0, fin false 2 0] = true := by decide +kernel

/-- spec/08: a 2:4 BF16 row of 64 elements takes 80 bytes, and code byte 2 = 0xD2 puts values 10 and 11 at 21 and 23. -/
theorem test_group_codes :
    sparseBytes .bf16 64 = 80
      ∧ (((sparseWeights .bf16 64 (List.replicate 66 0#8 ++ [0xD2#8] ++ List.replicate 13 0#8)).drop 10).take 2).map (·.1)
        = [21, 23] := by decide +kernel

/-- spec/09: the rank-deficient fit gives X = (3, 0), OBJ 14, CONVERGED after one iteration with one pivot. -/
theorem test_rank_deficient_fit :
    let w (n : Nat) := fBits (fin false n 0)
    let p : Problem := { problemOf (List.replicate 192 0#8) 0 none 0 1 false false 0 0 with
      n := 2, m := 4, epsAbs := fBits (fin false 1 (-30)) }
    let r := leastSquares p ⟨List.replicate 4 [fOne, fOne], [1, 2, 3, 6].map fun n => fOf (w n), List.replicate 4 fOne,
      [], [], [], [], false⟩
    r.code = 1 ∧ r.pivots = 1 ∧ r.iters = 1
      ∧ (r.best.map fun i => (i.x.map fBits, fBits i.obj, fBits i.rpri, fBits i.rdua))
        = some ([w 3, w 0], w 14, 0x400DEEEA11683F49#64, w 0) := by decide +kernel

/-- spec/10: PA 0x3A5C7E80 goes to slice 1, set 651. -/
theorem test_placing_one_address : sliceOf (0x3A5C7E80 / 128) = 1 ∧ Machine.setOf 0x19D3 (0x3A5C7E80 / 128) = 651 := by
  decide +kernel

/-- spec/14: the exchange of the worked case measures 22 ns. -/
theorem test_exchange_offset :
    let u : Int := 65536
    offsetOf (100 * u) (412 * u) (500000 * u) (500268 * u) = 22 * u := by decide

/-- spec/20: the line of the worked case is on channel 37 of an 8H4 and of a 6H2; RC_CLASSMASK[3] is at 0xF00160004C. -/
theorem test_locating :
    channelOf .og8H4 0x1081234580 = 37 ∧ channelOf .og6H2 0x1081234580 = 37 ∧ regAddr .rcClassmask 0 3 0 = 0xF00160004C := by
  decide +kernel

end Sys2Proof.Tests
end

/-! PROOFS. The family of spec/03: the register file, the end of a program, illegal special-register accesses. -/

namespace Sys2Proof.Machine

/-- Settles O3: the laws of the register file, one for each part of R91. -/
theorem generalRegisterZero : Obligations.GeneralRegisterZero := fun x r q v =>
  ⟨getG_zero x, setG_zero x v, getG_setG x v, getG_setG_ne x v, getF_setG x r q v⟩

/-! ### Output to the host (R465, R473, R486) -/

/-- Everything put out for the host, with what the functions in D3hot hold back. -/
def outputs (s : State) : List Post := posted s ++ s.host.heldPosts.map (·.2.2)

/-- An output enters the transmit queue, or waits somewhere among the outputs that have not entered it. -/
theorem enqueue_cases (s : State) (rank : Nat) (p : Post) :
    enqueue s rank p = { s with host := { s.host with out := s.host.out ++ [p] } }
      ∨ ∃ first rest, s.host.unqueued = first ++ rest
        ∧ enqueue s rank p = { s with host := { s.host with unqueued := first ++ (rank, p) :: rest } } := by
  by_cases h : ((s.host.unqueued.takeWhile fun e => e.1 ≤ rank).isEmpty && txFits s p) = true
  · exact .inl (if_pos h)
  · exact .inr ⟨_, _, List.prefix_append_drop (List.takeWhile_prefix _), if_neg h⟩

/-- All that an output of a function can do: it joins the outputs, and nothing else of the state changes. -/
theorem emitAt_adds (rank : Nat) (s : State) (fn : Nat) (p : Post) :
    ∃ out unqueued held,
      emitAt rank s fn p = { s with host := { s.host with out := out, unqueued := unqueued, heldPosts := held } }
        ∧ ∀ q, q ∈ out ++ unqueued.map (·.2) ++ held.map (·.2.2) ↔ q = p ∨ q ∈ outputs s := by
  unfold emitAt outputs posted
  split
  · exact ⟨_, _, _, rfl, by grind⟩
  · obtain h | ⟨first, rest, hu, h⟩ := enqueue_cases s rank p
    · exact ⟨_, _, _, h, by grind⟩
    · exact ⟨_, _, _, h, by grind⟩

theorem mem_outputs_emitAt (rank : Nat) (s : State) (fn : Nat) (p q : Post) :
    q ∈ outputs (emitAt rank s fn p) ↔ q = p ∨ q ∈ outputs s := by
  obtain ⟨out, unqueued, held, h, hmem⟩ := emitAt_adds rank s fn p
  rw [h]
  exact hmem q

@[simp] theorem emitAt_cmds (rank : Nat) (s : State) (fn : Nat) (p : Post) :
    (emitAt rank s fn p).host.cmds = s.host.cmds := by
  obtain ⟨_, _, _, h, -⟩ := emitAt_adds rank s fn p
  rw [h]

/-- A vector is sent, or its pending bit is set (R479). -/
theorem sendVector_cases (s : State) (v : Nat) :
    (∃ m, sendVector s v = { s with host := { s.host with vecPending := m } })
      ∨ sendVector s v = emitAt 2 s (v / 32) (.msix v) := by
  unfold sendVector
  split
  · exact .inl ⟨_, rfl⟩
  · exact .inr rfl

theorem outputs_sendVector (s : State) (v : Nat) {q : Post} (h : q ∈ outputs s) : q ∈ outputs (sendVector s v) := by
  obtain ⟨m, e⟩ | e := sendVector_cases s v
  · rw [e]; exact h
  · rw [e, mem_outputs_emitAt]; exact .inr h

@[simp] theorem sendVector_cmds (s : State) (v : Nat) : (sendVector s v).host.cmds = s.host.cmds := by
  obtain ⟨m, e⟩ | e := sendVector_cases s v <;> simp [e]

/-! ### What the books of ending and retiring commands leave alone -/

/-- Two slots agree in what their program sees: registers, special registers, context and PC (Tables 3.1, 3.2). -/
structure SameFile (x y : Slot) : Prop where
  g : y.g = x.g
  f : y.f = x.f
  fflags : y.fflags = x.fflags
  frm : y.frm = x.frm
  statsum : y.statsum = x.statsum
  ctx : y.ctx = x.ctx
  pc : y.pc = x.pc
  cycle : y.cycle = x.cycle
  snap : y.snap = x.snap

theorem SameFile.refl (x : Slot) : SameFile x x := by constructor <;> rfl

theorem SameFile.trans {x y z : Slot} (h : SameFile x y) (k : SameFile y z) : SameFile x z :=
  ⟨k.g.trans h.g, k.f.trans h.f, k.fflags.trans h.fflags, k.frm.trans h.frm, k.statsum.trans h.statsum,
    k.ctx.trans h.ctx, k.pc.trans h.pc, k.cycle.trans h.cycle, k.snap.trans h.snap⟩

/-- Bookkeeping: the slots keep what their programs see, none starts to run, and neither the time nor a control register of the
cores, below the Dispatcher's, changes. -/
structure Books (s t : State) : Prop where
  file : ∀ n i, SameFile (getSlot s n i) (getSlot t n i)
  stopped : ∀ n i, (getSlot s n i).phase ≠ .running → (getSlot t n i).phase ≠ .running
  now : t.now = s.now
  regs : ∀ a < blkBase .dsp 0, spGet none a t.regs = spGet none a s.regs

theorem Books.refl (s : State) : Books s s := ⟨fun _ _ => .refl _, fun _ _ h => h, rfl, fun _ _ => rfl⟩

theorem Books.trans {s t u : State} (h : Books s t) (k : Books t u) : Books s u :=
  ⟨fun n i => (h.file n i).trans (k.file n i), fun n i hs => k.stopped n i (h.stopped n i hs), k.now.trans h.now,
    fun a ha => (k.regs a ha).trans (h.regs a ha)⟩

/-- What touches neither cores nor control registers nor the time is bookkeeping. -/
theorem Books.of_eq {s t : State} (hc : t.cores = s.cores) (hn : t.now = s.now) (hr : t.regs = s.regs) : Books s t := by
  have hslot (n : Nat) (i : SlotId) : getSlot t n i = getSlot s n i := by unfold getSlot; rw [getCore_congr hc]
  exact ⟨fun n i => hslot n i ▸ .refl _, fun n i h => hslot n i ▸ h, hn, fun _ _ => by rw [hr]⟩

theorem books_setCore (s : State) (n : Nat) (c : Core) (hf : ∀ i, SameFile (getSlot s n i) (coreSlot c i))
    (hp : ∀ i, (getSlot s n i).phase ≠ .running → (coreSlot c i).phase ≠ .running) : Books s (setCore s n c) := by
  have hslot (m : Nat) (i : SlotId) : getSlot (setCore s n c) m i = if m = n then coreSlot c i else getSlot s m i := by
    unfold getSlot
    split
    · next h => rw [h, getCore_setCore]
    · next h => rw [getCore_setCore_ne s c h]
  refine ⟨fun m i => ?_, fun m i => ?_, rfl, fun _ _ => rfl⟩ <;> rw [hslot] <;> split
  · next h => exact h ▸ hf i
  · exact .refl _
  · next h => exact h ▸ hp i
  · exact id

/-- A core whose slots stay as they are. -/
theorem books_modCore (s : State) (n : Nat) (f : Core → Core) (hf : ∀ i, coreSlot (f (getCore s n)) i = getSlot s n i) :
    Books s (modCore s n f) :=
  books_setCore s n _ (fun i => hf i ▸ .refl _) fun i => hf i ▸ id

theorem books_modSlot (s : State) (n : Nat) (i : SlotId) (f : Slot → Slot)
    (hf : SameFile (getSlot s n i) (f (getSlot s n i)))
    (hp : (getSlot s n i).phase ≠ .running → (f (getSlot s n i)).phase ≠ .running) : Books s (modSlot s n i f) := by
  refine books_setCore s n _ (fun j => ?_) (fun j => ?_) <;> by_cases h : j = i
  · subst h; rw [coreSlot_setCoreSlot]; exact hf
  · rw [coreSlot_setCoreSlot_ne _ _ h]; exact .refl _
  · subst h; rw [coreSlot_setCoreSlot]; exact hp
  · rw [coreSlot_setCoreSlot_ne _ _ h]; exact id

theorem books_setReg (s : State) (r : RegName) (u i j : Nat) (v : W64) (h : blkBase .dsp 0 ≤ regAddr r u i j) :
    Books s (setReg s r u i j v) :=
  { Books.refl s with regs := fun _ ha => spGet_regs_setReg_ne s r u i j v (by omega) }

theorem books_emitAt (rank : Nat) (s : State) (fn : Nat) (p : Post) : Books s (emitAt rank s fn p) := by
  obtain ⟨_, _, _, h, -⟩ := emitAt_adds rank s fn p
  rw [h]
  exact .of_eq rfl rfl rfl

theorem books_sendVector (s : State) (v : Nat) : Books s (sendVector s v) := by
  obtain ⟨m, e⟩ | e := sendVector_cases s v <;> rw [e]
  · exact .of_eq rfl rfl rfl
  · exact books_emitAt ..

theorem Books.foldl {α : Type} {f : State → α → State} (hf : ∀ s e, Books s (f s e)) (l : List α) (s : State) :
    Books s (l.foldl f s) :=
  List.foldlRecOn l f (.refl s) fun t h e _ => h.trans (hf t e)

/-! ### Retiring commands (R109, R208, R220) -/

theorem books_atsSweep (s : State) : Books s (atsSweep s) := by
  refine .trans ?_ (.foldl (f := fun s (e : Nat × Nat × List Nat) => emit s e.1 (.invalidateDone e.1 e.2.1))
    (fun _ _ => books_emitAt ..) _ _)
  exact .of_eq rfl rfl rfl

theorem books_dropReqs (s : State) (p : LineReq → Bool) : Books s (dropReqs s p) := by
  refine .trans ?_ (books_atsSweep _)
  exact .of_eq rfl rfl rfl

theorem books_remotes (s : State) (l : List Remote) : Books s { s with remotes := l } := .of_eq rfl rfl rfl

theorem books_dropFromSlot (s : State) (t : Nat) (c : Cmd) : Books s (dropFromSlot s t c) := by
  refine ((books_modSlot _ _ _ _ ?_ ?_).trans (books_modCore _ _ _ ?_)).trans
    ((books_remotes _ _).trans (books_dropReqs ..))
  · constructor <;> rfl
  · exact id
  · exact fun i => by cases i <;> rfl

theorem books_retireWith (s : State) (t : Nat) (w : W64) : Books s (retireWith s t w) := by
  cases h : (getTag s t).cmd with
  | none => simp only [retireWith, h]; exact .refl s
  | some c =>
    simp only [retireWith, h]
    refine .trans (.trans (.trans (books_dropFromSlot s t c) (.of_eq ?_ ?_ ?_)) (books_modSlot _ _ _ _ ?_ ?_))
      (books_modCore _ _ _ ?_)
    any_goals rfl
    · constructor <;> rfl
    · exact id
    · exact fun i => by cases i <;> rfl

theorem books_retire (s : State) (t : Nat) : Books s (retire s t) := by
  unfold retire
  split
  · exact books_retireWith ..
  · exact .refl s

theorem books_fail (s : State) (t code : Nat) : Books s (fail s t code) := by
  refine .trans (.of_eq ?_ ?_ ?_) (books_retire (modCmd s t _) t)
  any_goals exact rfl

theorem books_failAll (code : Nat) (ts : List Nat) (s : State) : Books s (failAll s code ts) := by
  induction ts generalizing s with
  | nil => exact .refl s
  | cons t ts ih => exact (books_fail s t code).trans (ih _)

theorem books_breakJoins (s : State) (ctx : Nat) : Books s (breakJoins s ctx) := by
  refine .trans ?_ (books_failAll _ _ _)
  exact .of_eq rfl rfl rfl

/-! ### Completing the command of a program (R465, R479, R646) -/

/-- Measuring an express RUN changes registers of the Dispatcher alone. -/
theorem measureRun_only (s : State) (d : DCmd) : measureRun s d = { s with regs := (measureRun s d).regs } := by
  unfold measureRun
  dsimp only
  split
  · split <;> split <;> rfl
  · rfl

theorem books_measureRun (s : State) (d : DCmd) : Books s (measureRun s d) := by
  have hist (s : State) (k n : Nat) : Books s (bump s .dspXhist 0 k 0 n) :=
    books_setReg _ _ _ _ _ _ (by simp only [regAddr, regInfo]; omega)
  have count (s : State) (v : W64) : Books s (setReg s .dspXover 0 0 0 v) := books_setReg _ _ _ _ _ _ (by decide)
  have most (s : State) (v : W64) : Books s (setReg s .dspXmax 0 0 0 v) := books_setReg _ _ _ _ _ _ (by decide)
  unfold measureRun
  dsimp only
  split
  · split <;> split
    · exact ((hist ..).trans (count ..)).trans (most ..)
    · exact (hist ..).trans (count ..)
    · exact (hist ..).trans (most ..)
    · exact hist ..
  · exact .refl s

@[simp] theorem measureRun_host (s : State) (d : DCmd) : (measureRun s d).host = s.host := by rw [measureRun_only]

/-- The completion entry of a command goes out, and an express RUN is measured. -/
def entryOut (s : State) (d : DCmd) (bytes : List Byte) : State :=
  measureRun (emitEntry (postRank d.express) s (fnOf s d.ctx)
    ((regVal s .dspQcqbase 0 d.ctx d.q).toNat + 32 * (getQueue s d.ctx d.q).cqTail) bytes) d

/-- The books of the queue move, and the Dispatcher has the command no more. -/
def dropCmd (s : State) (d : DCmd) (x : Queue) : State :=
  let s := setQueue s d.ctx d.q x
  { s with host := { s.host with cmds := s.host.cmds.filter fun e => e.id != d.id } }

/-- All that completing a command does: its entry goes out, the Dispatcher drops it, and an interrupt may follow. -/
theorem completeCmd_cases (s : State) (d : DCmd) (code detail detail2 : Nat) :
    ∃ sqhead phase late tend x v,
      let s' := dropCmd (entryOut s d (completionBytes d.cmdid sqhead code phase late detail detail2 tend)) d x
      completeCmd s d code detail detail2 = s' ∨ completeCmd s d code detail detail2 = sendVector s' v := by
  have h : ∃ sqhead phase late tend x v, ∃ due : Bool,
      let s' := dropCmd (entryOut s d (completionBytes d.cmdid sqhead code phase late detail detail2 tend)) d x
      completeCmd s d code detail detail2 = if due then sendVector s' v else s' := ⟨_, _, _, _, _, _, _, rfl⟩
  obtain ⟨sqhead, phase, late, tend, x, v, due, h⟩ := h
  refine ⟨sqhead, phase, late, tend, x, v, ?_⟩
  cases due
  · exact .inl h
  · exact .inr h

theorem books_completeCmd (s : State) (d : DCmd) (code detail detail2 : Nat) :
    Books s (completeCmd s d code detail detail2) := by
  obtain ⟨_, _, _, _, x, v, h⟩ := completeCmd_cases s d code detail detail2
  have hout (bytes : List Byte) : Books s (entryOut s d bytes) := (books_emitAt ..).trans (books_measureRun ..)
  have hdrop (t : State) : Books t (dropCmd t d x) := .of_eq rfl rfl rfl
  obtain h | h := h <;> rw [h]
  · exact (hout _).trans (hdrop _)
  · exact ((hout _).trans (hdrop _)).trans (books_sendVector ..)

/-- The entry of a completed command is among the outputs, and the Dispatcher has the command no more (R465). -/
theorem completeCmd_entryWritten (s : State) (d : DCmd) (code detail detail2 : Nat) :
    EntryWritten s (completeCmd s d code detail detail2) d code := by
  obtain ⟨sqhead, phase, late, tend, x, v, h⟩ := completeCmd_cases s d code detail detail2
  set bytes := completionBytes d.cmdid sqhead code phase late detail detail2 tend
  have hout : Post.write (fnOf s d.ctx) ((regVal s .dspQcqbase 0 d.ctx d.q).toNat + 32 * (getQueue s d.ctx d.q).cqTail) bytes
      false plainAttr ∈ outputs (dropCmd (entryOut s d bytes) d x) := by
    change _ ∈ outputs (entryOut s d bytes)
    unfold entryOut outputs posted
    rw [measureRun_host]
    exact (mem_outputs_emitAt ..).2 (.inl rfl)
  have hcmds : ∀ e ∈ (dropCmd (entryOut s d bytes) d x).host.cmds, e.id ≠ d.id := fun e he => by
    simpa using (List.mem_filter.1 he).2
  have hlayout : bytes.length = 32 ∧ bytes.take 4 = leBytes 4 d.cmdid ∧ bytes.getD 6 0#8 = BitVec.ofNat 8 code :=
    ⟨rfl, rfl, rfl⟩
  obtain h | h := h <;> rw [h]
  · exact ⟨⟨bytes, hout, hlayout⟩, hcmds⟩
  · exact ⟨⟨bytes, outputs_sendVector _ v hout, hlayout⟩, by rwa [sendVector_cmds]⟩

theorem completeId_of_find {s : State} {id : Nat} {d : DCmd} (h : findCmd s id = some d) (code detail detail2 : Nat) :
    completeId s id code detail detail2 = completeCmd s d code detail detail2 := by simp only [completeId, h]

theorem books_completeId (s : State) (id code detail detail2 : Nat) : Books s (completeId s id code detail detail2) := by
  unfold completeId
  split
  · exact books_completeCmd ..
  · exact .refl s

/-- Counting a bulk RUN changes the Stationmaster's count alone. -/
theorem tallyRun_only (s : State) (n : Nat) (i : SlotId) : tallyRun s n i = { s with sm := (tallyRun s n i).sm } := by
  unfold tallyRun
  split <;> rfl

theorem books_tallyRun (s : State) (n : Nat) (i : SlotId) : Books s (tallyRun s n i) := by
  rw [tallyRun_only]
  exact .of_eq rfl rfl rfl

/-! ### A slot becomes idle (R119, R126, R258) -/

theorem releaseHolds_only (s : State) (n : Nat) (i : SlotId) :
    releaseHolds s n i = { s with mus := (releaseHolds s n i).mus } := by
  unfold releaseHolds
  dsimp only
  split <;> rfl

/-- A written EN that takes effect changes the core, but not its slots. -/
theorem applyExpress_cases (s : State) (n : Nat) :
    applyExpress s n = s ∨ ∃ c, applyExpress s n = setCore s n c ∧ ∀ i, coreSlot c i = getSlot s n i := by
  unfold applyExpress
  dsimp only
  split
  · exact .inl rfl
  · split
    · exact .inl rfl
    · split <;> exact .inr ⟨_, rfl, fun i => by cases i <;> rfl⟩

theorem books_applyExpress (s : State) (n : Nat) : Books s (applyExpress s n) := by
  obtain h | ⟨c, h, hc⟩ := applyExpress_cases s n <;> rw [h]
  · exact .refl s
  · exact books_modCore s n (fun _ => c) hc

@[simp] theorem getSlot_applyExpress (s : State) (n : Nat) (i : SlotId) : getSlot (applyExpress s n) n i = getSlot s n i := by
  obtain h | ⟨c, h, hc⟩ := applyExpress_cases s n <;> rw [h]
  rw [← hc, getSlot, getCore_setCore]

@[simp] theorem applyExpress_host (s : State) (n : Nat) : (applyExpress s n).host = s.host := by
  obtain h | ⟨c, h, -⟩ := applyExpress_cases s n <;> rw [h]
  rfl

/-- What a slot holds once its program is over. -/
def idled (x : Slot) : Slot :=
  { x with phase := .idle, prevCtx := some x.ctx, held := none, replaying := none, replay := { x.replay with valid := false } }

theorem books_slotIdle (s : State) (n : Nat) (i : SlotId) : Books s (slotIdle s n i) := by
  have hrelease : Books s (releaseHolds s n i) := by
    rw [releaseHolds_only]
    exact .of_eq rfl rfl rfl
  refine ((hrelease.trans (books_modSlot _ n i idled ?_ ?_)).trans (books_modCore _ n _ ?_)).trans (books_applyExpress ..)
  · constructor <;> rfl
  · exact fun _ => Phase.noConfusion
  · exact fun i => by cases i <;> rfl

@[simp] theorem getSlot_slotIdle (s : State) (n : Nat) (i : SlotId) : getSlot (slotIdle s n i) n i = idled (getSlot s n i) := by
  have hskip (c : Core) (l : List SlotId) : coreSlot { c with skipBp := l } i = coreSlot c i := by cases i <;> rfl
  have hrelease : getSlot (releaseHolds s n i) n i = getSlot s n i := by rw [releaseHolds_only]; rfl
  calc getSlot (slotIdle s n i) n i = getSlot (modSlot (releaseHolds s n i) n i idled) n i := by
        unfold slotIdle
        rw [getSlot_applyExpress, getSlot, getCore_modCore, hskip]
        rfl
    _ = idled (getSlot s n i) := by rw [getSlot_modSlot, hrelease]

@[simp] theorem slotIdle_host (s : State) (n : Nat) (i : SlotId) : (slotIdle s n i).host = s.host := by
  unfold slotIdle
  rw [applyExpress_host, modCore_host, modSlot_host, releaseHolds_only]

/-! ### END and END_COMPLETE (R124, R170) -/

/-- `EntryWritten` speaks of the registers and the host's books before, and of the host's books after. -/
theorem EntryWritten.of_eq {s s' t t' : State} {d : DCmd} {code : Nat} (h : EntryWritten s t d code) (hr : s'.regs = s.regs)
    (hs : s'.host = s.host) (ht : t'.host = t.host) : EntryWritten s' t' d code := by
  unfold EntryWritten at *
  simp only [fnOf, regFld, regVal, getQueue, posted, hr, hs, ht] at *
  exact h

/-- What END does to its slot and its command. -/
def ProgramEnded (a : At) (s t : State) : Prop :=
  (theSlot t a).phase = .idle ∧ (theSlot t a).prevCtx = some (theSlot s a).ctx
    ∧ ∀ d, findCmd s (theSlot s a).cmd = some d → EntryWritten s t d 0

theorem theSlot_endProgram (s : State) (a : At) :
    ∃ x, SameFile (theSlot s a) x ∧ theSlot (endProgram s a.core.val a.slot) a = idled x := by
  unfold endProgram
  rw [theSlot_stepDone]
  exact ⟨_, ((books_tallyRun ..).trans (books_completeId ..)).file _ _, getSlot_slotIdle ..⟩

theorem endProgram_entryWritten {s : State} {n : Nat} {i : SlotId} {d : DCmd} (hd : findCmd s (getSlot s n i).cmd = some d) :
    EntryWritten s (endProgram s n i) d 0 := by
  have htally : findCmd (tallyRun s n i) (getSlot s n i).cmd = some d := by rw [tallyRun_only]; exact hd
  have hdone (statsum detail : Nat) : EntryWritten (tallyRun s n i)
      (completeId (tallyRun s n i) (getSlot s n i).cmd 0 statsum detail) d 0 :=
    completeId_of_find htally .. ▸ completeCmd_entryWritten ..
  refine (hdone _ _).of_eq ?_ ?_ (slotIdle_host ..) <;> rw [tallyRun_only]

theorem endProgram_ends (s : State) (a : At) : ProgramEnded a s (endProgram s a.core.val a.slot) := by
  obtain ⟨x, hfile, hx⟩ := theSlot_endProgram s a
  rw [ProgramEnded, hx]
  exact ⟨rfl, congrArg some hfile.ctx, fun d hd => endProgram_entryWritten hd⟩

/-- The end of a debug step changes neither a slot nor the host's books. -/
theorem ProgramEnded.stepDone {a : At} {s t : State} (h : ProgramEnded a s t) :
    ProgramEnded a s (stepDone t a.core.val a.slot) := by
  obtain ⟨hphase, hctx, hentry⟩ := h
  rw [ProgramEnded, theSlot_stepDone]
  exact ⟨hphase, hctx, fun d hd => (hentry d hd).of_eq rfl rfl rfl⟩

/-- END in a slot that holds no tag ends the program. -/
theorem end_ends {a : At} {s : State} (h : AtGate a .stop s) (hfree : slotHolds s a.core.val a.slot = false) :
    Completes (.end_ a) s (ProgramEnded a s) := by
  have he : wewEffect .stop {} a.core.val a.slot s = .done (endProgram s a.core.val a.slot) := by
    simp [wewEffect, effEnd, hfree]
  refine ⟨_, commit_done h he, ?_⟩
  rw [afterCommit_plain rfl]
  exact (endProgram_ends s a).stepDone

/-- A change of the slot a command names changes nothing else. -/
theorem onlySlot_modSlot (s : State) (a : At) (f : Slot → Slot) : OnlySlot a s (modSlot s a.core.val a.slot f) := by
  refine ⟨⟨rfl, fun m hm => getCore_modSlot_ne s _ _ hm⟩, ?_⟩
  unfold SameCoreButSlot theSlot
  rw [getCore_modSlot, getSlot_modSlot]

theorem OnlySlot.trans {a : At} {s t u : State} (h : OnlySlot a s t) (k : OnlySlot a t u) : OnlySlot a s u := by
  obtain ⟨⟨hs, hother⟩, hcore⟩ := h
  obtain ⟨⟨ks, kother⟩, kcore⟩ := k
  refine ⟨⟨?_, fun m hm => (kother m hm).trans (hother m hm)⟩, kcore.trans ?_⟩
  · rw [ks, hs]
  · rw [hcore]
    cases a.slot <;> rfl

/-- END in a slot that holds a tag waits for the tags. -/
theorem end_waits {a : At} {s : State} (h : AtGate a .stop s) (hheld : slotHolds s a.core.val a.slot = true) :
    Completes (.end_ a) s fun t =>
      theSlot t a = { theSlot s a with held := some ⟨.sync, .stop, none⟩, timeUp := false } ∧ OnlySlot a s t := by
  have he : wewEffect .stop {} a.core.val a.slot s = .hold .sync := by simp [wewEffect, effEnd, hheld]
  refine ⟨_, commit_hold h he, ?_, (onlySlot_modSlot s a _).trans (onlySlot_modSlot _ a _)⟩
  unfold holdAt theSlot
  rw [getSlot_modSlot, getSlot_modSlot]
  rfl

theorem endDue_iff (s : State) (n : Nat) (i : SlotId) :
    endDue s n i = true
      ↔ slotRuns s n i = true ∧ (getSlot s n i).held = some ⟨.sync, .stop, none⟩ ∧ slotHolds s n i = false := by
  simp [endDue, and_assoc]

/-- Settles O17: END commits or waits by whether the slot holds a tag, and END_COMPLETE is due once it holds none. -/
theorem endWaitsThenEndsProgram : Obligations.EndWaitsThenEndsProgram := by
  intro a s
  refine ⟨end_ends, end_waits, fun hruns hheld => ⟨fun htag => ?_, fun htag => ?_⟩⟩
  · have hdue : endDue s a.core.val a.slot = false := by simp [endDue, htag]
    have hstays : execEndComplete a s = .next s := by rw [execEndComplete, hdue, whenDue_false]
    exact ⟨s, hstays, rfl⟩
  · have hdue : endDue s a.core.val a.slot = true := (endDue_iff ..).2 ⟨hruns, hheld, htag⟩
    exact ⟨_, whenDue_pos hdue .., endProgram_ends s a⟩

/-! ### A program fault is taken (R117, R119, R738) -/

theorem traceTrigger_only (s : State) : traceTrigger s = { s with trace := (traceTrigger s).trace } := by
  unfold traceTrigger
  dsimp only
  split <;> rfl

/-- An event of the trace buffer changes the trace buffer alone. -/
theorem traceEv_only (s : State) (kind unit : Nat) (core : Option Nat) (data : Nat) :
    traceEv s kind unit core data = { s with trace := (traceEv s kind unit core data).trace } := by
  unfold traceEv
  dsimp only
  split
  · rfl
  · split
    · split
      · exact traceTrigger_only s
      · rfl
    · split
      · rw [traceTrigger_only]
      · rfl

/-- The registers that a trap of core `p` writes. -/
theorem regAddr_trap_lt {p : Nat} (hp : p < 160) :
    regAddr .seqTrapcause p 0 0 < regAddr .seqTrappc p 0 0 ∧ regAddr .seqTrappc p 0 0 < regAddr .seqTrapval p 0 0
      ∧ regAddr .seqTrapval p 0 0 < blkBase .dsp 0 := by
  simp only [regAddr, regInfo, blkBase]
  omega

theorem recordTrap_regs (s : State) (n : Nat) (i : SlotId) (c : Trap) (pc : Pc) (v : W64) (hn : physOf s n < 160) :
    regVal (recordTrap s n i c pc v) .seqTrapcause (physOf s n) 0 0 = BitVec.ofNat 64 (trapCode c + 256 * slotNum i + 2 ^ 31)
      ∧ regVal (recordTrap s n i c pc v) .seqTrappc (physOf s n) 0 0 = pc.setWidth 64
      ∧ regVal (recordTrap s n i c pc v) .seqTrapval (physOf s n) 0 0 = v := by
  obtain ⟨hcause, hpc, -⟩ := regAddr_trap_lt hn
  have hregs (r : RegName) : regVal (recordTrap s n i c pc v) r (physOf s n) 0 0
      = regVal (setReg (setReg (setReg s .seqTrapcause (physOf s n) 0 0 _) .seqTrappc (physOf s n) 0 0 _)
          .seqTrapval (physOf s n) 0 0 _) r (physOf s n) 0 0 :=
    regVal_congr (by rw [recordTrap, traceEv_only]) ..
  refine ⟨?_, ?_, ?_⟩
  · rw [hregs, regVal_setReg_ne _ _ (by omega), regVal_setReg_ne _ _ (by omega), regVal_setReg]
  · rw [hregs, regVal_setReg_ne _ _ (by omega), regVal_setReg]
  · rw [hregs, regVal_setReg]

theorem getSlot_recordTrap (s : State) (n m : Nat) (i j : SlotId) (c : Trap) (pc : Pc) (v : W64) :
    getSlot (recordTrap s n i c pc v) m j = getSlot s m j := by
  rw [recordTrap, traceEv_only]
  rfl

/-- A program fault has stopped the slot: the trap registers hold it, and no instruction waits. -/
def faulted (s : State) (n : Nat) (i : SlotId) (c : Trap) (v : W64) : State :=
  modSlot (recordTrap s n i c (getSlot s n i).pc v) n i fun x =>
    { x with phase := .faulting (trapCode c) (getSlot s n i).pc, held := none }

/-- A slot whose last tag is observed becomes idle, with its command completed, unless its program goes on. -/
theorem finishSlot_cases (s : State) (n : Nat) (i : SlotId) :
    finishSlot s n i = s ∨ ∃ code detail detail2,
      finishSlot s n i = slotIdle (completeId (tallyRun s n i) (getSlot s n i).cmd code detail detail2) n i := by
  unfold finishSlot
  dsimp only
  split
  · exact .inl rfl
  · split
    · exact .inr ⟨_, _, _, rfl⟩
    · exact .inr ⟨_, _, _, rfl⟩
    · exact .inl rfl

theorem books_finishSlot (s : State) (n : Nat) (i : SlotId) : Books s (finishSlot s n i) := by
  obtain h | ⟨_, _, _, h⟩ := finishSlot_cases s n i <;> rw [h]
  · exact .refl s
  · exact ((books_tallyRun ..).trans (books_completeId ..)).trans (books_slotIdle ..)

/-- After the fault itself, taking it is bookkeeping: joins break, and the command completes with its last tag. -/
theorem books_takeFault (s : State) (n : Nat) (i : SlotId) (c : Trap) (v : W64) :
    Books (faulted s n i c v) (takeFault s n i c v) :=
  (books_breakJoins ..).trans (books_finishSlot ..)

/-- A logical core is served by a core that exists. -/
theorem hostOf_lt {s : State} {n p : Nat} (h : hostOf s n = some p) : p < 160 := by
  unfold hostOf at h
  dsimp only at h
  split at h
  · cases h
  · next hmap =>
    cases h
    simp only [Bool.or_eq_true, decide_eq_true_eq, not_or, not_le] at hmap
    exact hmap.2

theorem physOf_lt (s : State) {n : Nat} (hn : n < 160) : physOf s n < 160 := by
  unfold physOf
  cases h : hostOf s n with
  | none => exact hn
  | some p => exact hostOf_lt h

theorem Books.regVal_eq {s t : State} (h : Books s t) {r : RegName} {u i j : Nat} (hr : regAddr r u i j < blkBase .dsp 0) :
    regVal t r u i j = regVal s r u i j := by
  rw [regVal, h.regs _ hr, regVal]

/-- A fault that is taken leaves the trap in the trap registers, stops the program, and leaves what it sees as it was. -/
theorem takeFault_trapTaken (s : State) (a : At) (c : Trap) (v : W64) :
    let t := takeFault s a.core.val a.slot c v
    TrapTaken a c v s t ∧ SameFile (theSlot s a) (theSlot t a) ∧ t.now = s.now := by
  have hbooks := books_takeFault s a.core.val a.slot c v
  have hphys : servingCore s a < 160 := physOf_lt s a.core.isLt
  obtain ⟨hcause, hpc, hval⟩ := recordTrap_regs s a.core.val a.slot c (theSlot s a).pc v hphys
  obtain ⟨hlt, hlt', hlt''⟩ := regAddr_trap_lt hphys
  have hslot : getSlot (faulted s a.core.val a.slot c v) a.core.val a.slot
      = { theSlot s a with phase := .faulting (trapCode c) (theSlot s a).pc, held := none } := by
    rw [faulted, getSlot_modSlot, getSlot_recordTrap]
    rfl
  have hfile : SameFile (theSlot s a) (theSlot (takeFault s a.core.val a.slot c v) a) :=
    .trans (by rw [hslot]; constructor <;> rfl) (hbooks.file a.core.val a.slot)
  have hnow : (faulted s a.core.val a.slot c v).now = s.now := by
    rw [faulted, modSlot_now, recordTrap, traceEv_only]
    rfl
  refine ⟨⟨?_, ?_, ?_, ?_, hfile.g, hfile.f⟩, hfile, hbooks.now.trans hnow⟩
  · exact (hbooks.regVal_eq (by omega)).trans hcause
  · exact (hbooks.regVal_eq (by omega)).trans hpc
  · exact (hbooks.regVal_eq (by omega)).trans hval
  · exact hbooks.stopped _ _ (by rw [hslot]; exact Phase.noConfusion)

/-- An instruction at the gate that traps takes its fault and leaves what its program sees as it was. -/
theorem commit_trap_kept {w : Wew} {ch : Choice} {a : At} {s : State} {c : Trap} {v : W64} (h : AtGate a w s)
    (he : wewEffect w ch a.core.val a.slot s = .trap c v) :
    ∃ t, commit w ch a s = .next t ∧ TrapTaken a c v s t ∧ SameFile (theSlot s a) (theSlot t a) ∧ t.now = s.now := by
  have hstep := theSlot_stepDone s a
  obtain ⟨htrap, hfile, hnow⟩ := takeFault_trapTaken (stepDone s a.core.val a.slot) a c v
  unfold TrapTaken at htrap
  rw [hstep] at htrap hfile
  exact ⟨_, commit_trap h he, htrap, hfile, hnow⟩

/-! ### Illegal special-register accesses (R96) -/

/-- Table 3.2 ends at 0x0A. -/
theorem specialReg_none (s : State) (n : Nat) (i : SlotId) {sr : Nat} (h : 0x0B ≤ sr) : specialReg s n i sr = none := by
  obtain ⟨k, rfl⟩ := Nat.exists_eq_add_of_le' h
  rfl

theorem effMfsr_outside (rd : Reg) {sr : BitVec 8} (n : Nat) (i : SlotId) (s : State) (h : 0x0B ≤ sr.toNat) :
    effMfsr rd sr n i s = .trap .illegalOperand 0#64 := by
  simp only [effMfsr, specialReg_none s n i h]

/-- MTSR writes STATSUM, FFLAGS and FRM alone, and FRM takes no 0b11. -/
theorem effMtsr_illegal {ra : Reg} {sr : BitVec 8} {n : Nat} {i : SlotId} {s : State}
    (h : sr.toNat < 0x07 ∨ 0x0A ≤ sr.toNat ∨ (sr = 0x09#8 ∧ (getG (getSlot s n i) ra).setWidth 2 = 3#2)) :
    effMtsr ra sr n i s = .trap .illegalOperand 0#64 := by
  have hne : sr.toNat ≠ 0x07 ∧ sr.toNat ≠ 0x08 := by
    obtain h | h | ⟨rfl, -⟩ := h
    · omega
    · omega
    · decide
  unfold effMtsr
  dsimp only
  split
  · next hsr => exact absurd hsr hne.1
  · next hsr => exact absurd hsr hne.2
  · next hsr => exact if_pos ((h.resolve_left (by omega)).resolve_left (by omega)).2
  · rfl

/-- Settles O12: each of the accesses raises ILLEGAL_OPERAND at the gate, and a trap leaves the special registers. -/
theorem badSpecialRegisterTraps : Obligations.BadSpecialRegisterTraps := by
  intro a rd ra sr s
  refine ⟨fun h hsr => ?_, fun h hsr => ?_⟩
  · obtain ⟨t, ht, htrap, hfile, hnow⟩ := commit_trap_kept (ch := {}) h (effMfsr_outside rd _ _ s hsr)
    exact ⟨t, ht, htrap, hfile.statsum, hfile.fflags, hfile.frm, hfile.ctx, hfile.cycle, hfile.snap, hnow⟩
  · obtain ⟨t, ht, htrap, hfile, hnow⟩ := commit_trap_kept (ch := {}) h (effMtsr_illegal hsr)
    exact ⟨t, ht, htrap, hfile.statsum, hfile.fflags, hfile.frm, hfile.ctx, hfile.cycle, hfile.snap, hnow⟩

end Sys2Proof.Machine

/-! PROOFS. The family of spec/04, scalar instructions: commits that change their slot alone, branches and jumps, refused accesses
to local store. -/

namespace Sys2Proof.Machine

/-! ### A commit that changes its slot alone (R144) -/

/-- An instruction at the gate that commits by `commitSlot` leaves its slot with the next sequential PC, and nothing else changes. -/
theorem commit_slot {w : Wew} {ch : Choice} {a : At} {s : State} {x : Slot} (h : AtGate a w s) (hw : engineWork w = false)
    (he : wewEffect w ch a.core.val a.slot s = commitSlot s a.core.val a.slot x) :
    ∃ t, commit w ch a s = .next t ∧ theSlot t a = { x with pc := x.pc + 4#48 } ∧ OnlySlot a s t := by
  refine ⟨_, commit_done h he, ?_, ?_⟩ <;> rw [afterCommit_plain hw]
  · rw [theSlot_stepDone, theSlot, getSlot_setSlot]
    rfl
  · exact onlySlot_setSlot s a _

/-- An instruction at the gate that commits with a result in a g register. -/
theorem commit_result {w : Wew} {ch : Choice} {a : At} {s : State} {rd : Reg} {y : W64} (h : AtGate a w s)
    (hw : engineWork w = false) (he : wewEffect w ch a.core.val a.slot s = commitG s a.core.val a.slot rd y) :
    ∃ t, commit w ch a s = .next t ∧ theSlot t a = { setG (theSlot s a) rd y with pc := (theSlot s a).pc + 4#48 }
      ∧ OnlySlot a s t := by
  obtain ⟨t, ht, hslot, honly⟩ := commit_slot h hw he
  rw [setG_pc] at hslot
  exact ⟨t, ht, hslot, honly⟩

/-! ### Integer, immediate, SETH and PUTH instructions (R135 to R138) -/

/-- PUTH replaces halfword `hw` and keeps every other bit (R138). -/
theorem getLsbD_puthResult (old : W64) (hw : BitVec 2) (v : BitVec 16) {k : Nat} (hk : k < 64) :
    (puthResult old hw v).getLsbD k = if k / 16 = hw.toNat then v.getLsbD (k % 16) else old.getLsbD k := by
  have hmask : 0xFFFF#64 = (BitVec.allOnes 16).setWidth 64 := rfl
  simp only [puthResult, sethResult, zext16, hmask, BitVec.getLsbD_or, BitVec.getLsbD_and, BitVec.getLsbD_not,
    BitVec.getLsbD_shiftLeft, BitVec.getLsbD_setWidth, BitVec.getLsbD_allOnes, hk]
  split
  · next hin =>
    have hsub : k - 16 * hw.toNat = k % 16 := by omega
    simp [hsub, show ¬k < 16 * hw.toNat by omega, show k % 16 < 16 by omega, show k % 16 < 64 by omega]
  · next hout =>
    have hsub : k < 16 * hw.toNat ∨ 16 ≤ k - 16 * hw.toNat := by omega
    obtain hlt | hge := hsub
    · simp [hlt]
    · simp [show ¬k - 16 * hw.toNat < 16 by omega, BitVec.getLsbD_of_ge v _ hge]

/-- Settles O6: each of the four forms commits with a result in gd. -/
theorem integerInstructionsCommit : Obligations.IntegerInstructionsCommit := by
  intro a rd ra rb v hw s
  refine ⟨fun op h => commit_result h rfl rfl, fun op h => commit_result h rfl rfl, fun h => commit_result h rfl rfl,
    fun h => ?_⟩
  obtain ⟨t, ht, hslot, honly⟩ := commit_result (ch := {}) h rfl rfl
  exact ⟨t, ht, honly, _, hslot, fun k hk => getLsbD_puthResult _ hw v hk⟩

/-! ### Branches and jumps (R97 to R100, R140 to R144) -/

/-- A slot moves to `x`; beside it, the control registers listed may change, and the trace buffer when it is armed. -/
structure MovesSlot (a : At) (x : Slot) (l : List Nat) (s u : State) : Prop where
  only : u = { setSlot s a.core.val a.slot x with regs := u.regs, trace := u.trace }
  regs : SameRegsBut l s u
  trace : s.trace.armed = false → u.trace = s.trace

theorem movesSlot_setSlot (a : At) (x : Slot) (l : List Nat) (s : State) :
    MovesSlot a x l s (setSlot s a.core.val a.slot x) := ⟨rfl, fun _ _ => rfl, fun _ => rfl⟩

theorem movesSlot_squash (a : At) (x : Slot) (s : State) (k : Nat) :
    MovesSlot a x [regAddr .seqSquashed (servingCore s a) 0 0] s (squash (setSlot s a.core.val a.slot x) a.core.val k) :=
  ⟨rfl, fun _ hk => spGet_regs_setReg_ne _ _ _ _ _ _ (List.ne_of_not_mem_cons hk), fun _ => rfl⟩

/-- A trace buffer that is not armed records nothing. -/
theorem traceEv_unarmed {s : State} (h : s.trace.armed = false) (kind unit : Nat) (core : Option Nat) (data : Nat) :
    traceEv s kind unit core data = s := by
  simp [traceEv, h]

theorem traceJump_only (s : State) (n : Nat) (p : Pc) : traceJump s n p = { s with trace := (traceJump s n p).trace } :=
  traceEv_only ..

@[simp] theorem traceJump_regs (s : State) (n : Nat) (p : Pc) : (traceJump s n p).regs = s.regs := by rw [traceJump_only]

theorem MovesSlot.traceJump {a : At} {x : Slot} {l : List Nat} {s u : State} (h : MovesSlot a x l s u) (n : Nat) (p : Pc) :
    MovesSlot a x l s (traceJump u n p) := by
  refine ⟨?_, fun k hk => ?_, fun harm => ?_⟩
  · rw [traceJump_only, h.only]
  · rw [traceJump_regs]; exact h.regs k hk
  · have htrace := h.trace harm
    rw [Machine.traceJump, traceEv_unarmed (htrace ▸ harm), htrace]

theorem traceIf_regs (taken : Bool) (s : State) (n : Nat) (p : Pc) :
    (if taken then traceJump s n p else s).regs = s.regs := by
  cases taken with
  | true => exact traceJump_regs s n p
  | false => rfl

theorem MovesSlot.traceIf {a : At} {x : Slot} {l : List Nat} {s u : State} (h : MovesSlot a x l s u) (taken : Bool) (n : Nat)
    (p : Pc) : MovesSlot a x l s (if taken then Machine.traceJump u n p else u) := by
  cases taken with
  | true => exact h.traceJump n p
  | false => exact h

/-- An instruction at the gate whose commit moves its slot, with what that leaves in the control registers. -/
theorem commit_moves {w : Wew} {ch : Choice} {a : At} {x : Slot} {l : List Nat} {s u : State} (h : AtGate a w s)
    (hw : engineWork w = false) (he : wewEffect w ch a.core.val a.slot s = .done u) (hm : MovesSlot a x l s u) :
    ∃ t, commit w ch a s = .next t ∧ theSlot t a = x ∧ t.regs = u.regs ∧ OnlySlotAndRegs a l s t := by
  have hslot : theSlot u a = x := by
    rw [hm.only]
    exact getSlot_setSlot ..
  have hrest : { stepDone u a.core.val a.slot with regs := s.regs, trace := s.trace }
      = stepDone (setSlot s a.core.val a.slot x) a.core.val a.slot := by
    rw [hm.only]
    rfl
  refine ⟨_, commit_done h he, ?_⟩
  rw [afterCommit_plain hw]
  exact ⟨(theSlot_stepDone u a).trans hslot, rfl, hrest ▸ onlySlot_setSlot s a x, hm.regs, hm.trace⟩

/-- SEQ_SQUASHED counts the squashed instructions, at most four (R98, R99). -/
theorem regVal_squash (s : State) (a : At) (x : Slot) (k : Fin 5) :
    regVal (squash (setSlot s a.core.val a.slot x) a.core.val k.val) .seqSquashed (servingCore s a) 0 0
      = regVal s .seqSquashed (servingCore s a) 0 0 + BitVec.ofNat 64 k.val := by
  have hk : min 4 k.val = k.val := by omega
  exact (regVal_bump ..).trans (by rw [hk]; rfl)

/-- A slot that moves, with its younger instructions squashed when the guess was wrong (R98). -/
theorem movesSlot_guessed (a : At) (x : Slot) (s : State) (younger : Fin 5) (taken guess : Bool) :
    let sq := regVal s .seqSquashed (servingCore s a) 0 0
    let s' := setSlot s a.core.val a.slot x
    let u := if taken == guess then s' else squash s' a.core.val younger.val
    MovesSlot a x [regAddr .seqSquashed (servingCore s a) 0 0] s u
      ∧ regVal u .seqSquashed (servingCore s a) 0 0 = if taken = guess then sq else sq + BitVec.ofNat 64 younger.val := by
  intro sq s' u
  by_cases hguess : taken = guess
  · have hu : u = s' := if_pos (beq_iff_eq.2 hguess)
    rw [hu, if_pos hguess]
    exact ⟨movesSlot_setSlot .., rfl⟩
  · have hu : u = squash s' a.core.val younger.val := if_neg (mt beq_iff_eq.1 hguess)
    rw [hu, if_neg hguess]
    exact ⟨movesSlot_squash .., regVal_squash ..⟩

/-- A branch moves its slot to the target or to the next word, and counts what it squashes unless it was predicted (R97, R140). -/
theorem effBranch_moves (a : At) (c : Cond) (ra rb : Reg) (h : Bool) (off : BitVec 15) (younger : Fin 5) (s : State) :
    let x := theSlot s a
    let sq := regVal s .seqSquashed (servingCore s a) 0 0
    let taken := condHolds c (getG x ra) (getG x rb)
    let target := x.pc + (off.signExtend 48 <<< 2)
    ∃ u, effBranch c ra rb h off { younger := younger.val } a.core.val a.slot s = .done u
      ∧ MovesSlot a { x with pc := if taken = true then target else x.pc + 4#48 }
          [regAddr .seqSquashed (servingCore s a) 0 0] s u
      ∧ regVal u .seqSquashed (servingCore s a) 0 0
          = if taken = (target.ult x.pc != h) then sq else sq + BitVec.ofNat 64 younger.val := by
  intro x sq taken target
  obtain ⟨hmoves, hcount⟩ := movesSlot_guessed a { x with pc := if taken = true then target else x.pc + 4#48 } s younger taken
    (predictTaken x.pc off h)
  exact ⟨_, rfl, hmoves.traceIf .., (regVal_congr (traceIf_regs ..) ..).trans hcount⟩

/-- JALR clears bits [1:0] of its sum, and the PC keeps 48 bits of it (R142). -/
theorem jalrTarget_toNat (ga : W64) (v : BitVec 16) :
    (jalrTarget ga v).toNat = (ga + v.signExtend 64).toNat / 4 * 4 % 2 ^ 48 := by
  simp only [jalrTarget, sext16, BitVec.toNat_shiftLeft, BitVec.toNat_ushiftRight, BitVec.toNat_setWidth,
    Nat.shiftLeft_eq, Nat.shiftRight_eq_div_pow]
  omega

/-- The conditions of Table 4.8, in integers. -/
theorem condHolds_iff (y z : W64) :
    (condHolds .beq y z = true ↔ y.toNat = z.toNat) ∧ (condHolds .bne y z = true ↔ y.toNat ≠ z.toNat)
      ∧ (condHolds .blt y z = true ↔ y.toInt < z.toInt) ∧ (condHolds .bge y z = true ↔ z.toInt ≤ y.toInt)
      ∧ (condHolds .bltu y z = true ↔ y.toNat < z.toNat) ∧ (condHolds .bgeu y z = true ↔ z.toNat ≤ y.toNat) := by
  have heq : (y == z) = true ↔ y.toNat = z.toNat := beq_iff_eq.trans BitVec.toNat_inj.symm
  have hslt : y.slt z = true ↔ y.toInt < z.toInt := BitVec.slt_iff_toInt_lt
  have hult : y.ult z = true ↔ y.toNat < z.toNat := BitVec.ult_iff_lt
  simp only [condHolds, bne, Bool.not_eq_true', ← Bool.not_eq_true, heq, hslt, hult, not_lt, ne_eq, and_self]

/-- Settles O7: each of the three forms moves its slot, and a branch or JALR may count what it squashes. -/
theorem branchesAndJumpsCommit : Obligations.BranchesAndJumpsCommit := by
  intro a c rd ra rb h off far v younger s
  refine ⟨fun hgate => ?_, fun hgate => ?_, fun hgate => ?_, condHolds_iff⟩
  · obtain ⟨u, he, hmoves, hcount⟩ := effBranch_moves a c ra rb h off younger s
    obtain ⟨t, ht, hslot, hregs, honly⟩ := commit_moves hgate rfl he hmoves
    exact ⟨t, ht, hslot, (regVal_congr hregs ..).trans hcount, honly⟩
  · obtain ⟨t, ht, hslot, -, honly⟩ := commit_moves (ch := {}) hgate rfl rfl ((movesSlot_setSlot ..).traceJump ..)
    exact ⟨t, ht, hslot, honly⟩
  · obtain ⟨t, ht, hslot, hregs, honly⟩ := commit_moves (ch := { younger := younger.val }) hgate rfl rfl
      ((movesSlot_squash a _ s younger.val).traceJump ..)
    refine ⟨t, ht, ⟨_, hslot, jalrTarget_toNat ..⟩, ?_, honly⟩
    exact (regVal_congr (hregs.trans (traceJump_regs ..)) ..).trans (regVal_squash ..)

/-! ### Refused accesses to local store (R146) -/

theorem lsCheck_misaligned {c : Core} {i : SlotId} {a size align : Nat} (h : a % align ≠ 0) :
    lsCheck c i a size align = some .lsAlign := by
  simp [lsCheck, h]

theorem lsCheck_outside {c : Core} {i : SlotId} {a size align : Nat} (h : a % align = 0)
    (hout : a < (lsRange c i).1 ∨ (lsRange c i).2 < a + size) : lsCheck c i a size align = some .lsRange := by
  simp [lsCheck, h, hout]

theorem lsCheck_inside {c : Core} {i : SlotId} {a size align : Nat} (h : a % align = 0)
    (hin : ¬(a < (lsRange c i).1 ∨ (lsRange c i).2 < a + size)) : lsCheck c i a size align = none := by
  simp [lsCheck, h, hin]

theorem effLoad_trap {op : LoadOp} {ra : Reg} {v : BitVec 16} {n : Nat} {i : SlotId} {s : State} {c : Trap} (rd : Reg)
    (h : lsCheck (getCore s n) i (lsAddr (getG (getSlot s n i) ra) v).toNat (loadSize op) (loadSize op) = some c) :
    effLoad op rd ra v n i s = .trap c (lsAddr (getG (getSlot s n i) ra) v) := by
  unfold getSlot at h ⊢
  simp only [effLoad, h]

theorem effStore_trap {op : StoreOp} {ra : Reg} {v : BitVec 16} {n : Nat} {i : SlotId} {s : State} {c : Trap} (rs : Reg)
    (h : lsCheck (getCore s n) i (lsAddr (getG (getSlot s n i) ra) v).toNat (storeSize op) (storeSize op) = some c) :
    effStore op rs ra v n i s = .trap c (lsAddr (getG (getSlot s n i) ra) v) := by
  unfold getSlot at h ⊢
  simp only [effStore, h]

/-- A load of g0 that passes the checks discards its data (R91). -/
theorem effLoad_zero {op : LoadOp} {ra : Reg} {v : BitVec 16} {n : Nat} {i : SlotId} {s : State} (hfp : loadIsFp op = false)
    (h : lsCheck (getCore s n) i (lsAddr (getG (getSlot s n i) ra) v).toNat (loadSize op) (loadSize op) = none) :
    effLoad op 0#5 ra v n i s = commitSlot s n i (getSlot s n i) := by
  unfold getSlot at h ⊢
  simp [effLoad, h, hfp]

theorem loadIsFp_eq_false {op : LoadOp} (hw : op ≠ .fldw) (hd : op ≠ .fldd) : loadIsFp op = false := by
  cases op with
  | fldw => exact absurd rfl hw
  | fldd => exact absurd rfl hd
  | _ => rfl

theorem commit_trapTaken {w : Wew} {ch : Choice} {a : At} {s : State} {c : Trap} {v : W64} (h : AtGate a w s)
    (he : wewEffect w ch a.core.val a.slot s = .trap c v) : ∃ t, commit w ch a s = .next t ∧ TrapTaken a c v s t := by
  obtain ⟨t, ht, htrap, -⟩ := commit_trap_kept h he
  exact ⟨t, ht, htrap⟩

/-- Settles O10: the check of the address traps, alignment first, and a load of g0 that passes it changes the PC alone. -/
theorem badLocalStoreAccessTraps : Obligations.BadLocalStoreAccessTraps := by
  intro a rd ra v s c addr outside
  refine ⟨fun op h => ⟨fun hmis => ?_, fun hal hout => ?_⟩, fun op h => ⟨fun hmis => ?_, fun hal hout => ?_⟩,
    fun op hw hd h hal hin => ?_⟩
  · exact commit_trapTaken (ch := {}) h (effLoad_trap rd (lsCheck_misaligned hmis))
  · exact commit_trapTaken (ch := {}) h (effLoad_trap rd (lsCheck_outside hal hout))
  · exact commit_trapTaken (ch := {}) h (effStore_trap rd (lsCheck_misaligned hmis))
  · exact commit_trapTaken (ch := {}) h (effStore_trap rd (lsCheck_outside hal hout))
  · exact commit_slot (ch := {}) h rfl (effLoad_zero (loadIsFp_eq_false hw hd) (lsCheck_inside hal hin))

end Sys2Proof.Machine

/-! PROOFS. The family of spec/04 and spec/05, instruction words: the encoder and the decoder undo each other. -/

namespace Sys2Proof

/-! ### Words and their fields as numbers (Tables 4.2, 5.1) -/

theorem toNat_append_mul {m n : Nat} (x : BitVec m) (y : BitVec n) : (x ++ y).toNat = x.toNat * 2 ^ n + y.toNat := by
  rw [BitVec.toNat_append, ← Nat.shiftLeft_add_eq_or_of_lt y.isLt, Nat.shiftLeft_eq]

theorem toNat_field (x : W32) (start len : Nat) : (x.extractLsb' start len).toNat = x.toNat / 2 ^ start % 2 ^ len := by
  rw [BitVec.extractLsb'_toNat, Nat.shiftRight_eq_div_pow]

theorem field_eq_iff {x : W32} {start len : Nat} {y : BitVec len} :
    x.extractLsb' start len = y ↔ x.toNat / 2 ^ start % 2 ^ len = y.toNat := by
  rw [← BitVec.toNat_inj, toNat_field]

theorem bit_eq_iff {x : W32} {k : Nat} {b : Bool} :
    x.getLsbD k = b ↔ x.toNat / 2 ^ k % 2 = (BitVec.ofBool b).toNat := by
  rw [BitVec.getLsbD, Nat.testBit_eq_decide_div_mod_eq]
  cases b
  · simp
  · simp

section Words
variable (op : Nat) (rd ra rb : Reg) (fn sub kind : Nat) (imm : BitVec 16) (x : BitVec 6) (h sat : Bool) (hw rm : BitVec 2)
  (fmt : BitVec 4)

theorem wordR_toNat : (wordR op rd ra rb fn).toNat
    = op % 64 * 2 ^ 26 + rd.toNat * 2 ^ 21 + ra.toNat * 2 ^ 16 + rb.toNat * 2 ^ 11 + fn % 2 ^ 11 := by
  simp only [wordR, toNat_append_mul, BitVec.toNat_ofNat]
  omega

theorem wordI_toNat : (wordI op rd ra imm).toNat
    = op % 64 * 2 ^ 26 + rd.toNat * 2 ^ 21 + ra.toNat * 2 ^ 16 + imm.toNat := by
  simp only [wordI, toNat_append_mul, BitVec.toNat_ofNat]
  omega

theorem wordU_toNat : (wordU op rd hw imm).toNat
    = op % 64 * 2 ^ 26 + rd.toNat * 2 ^ 21 + hw.toNat * 2 ^ 16 + imm.toNat := by
  simp only [wordU, toNat_append_mul, BitVec.toNat_ofNat]
  omega

theorem wordB_toNat (off : BitVec 15) : (wordB op ra rb h off).toNat
    = op % 64 * 2 ^ 26 + ra.toNat * 2 ^ 21 + rb.toNat * 2 ^ 16 + (BitVec.ofBool h).toNat * 2 ^ 15 + off.toNat := by
  simp only [wordB, toNat_append_mul, BitVec.toNat_ofNat]
  omega

theorem wordJ_toNat (off : BitVec 21) : (wordJ op rd off).toNat
    = op % 64 * 2 ^ 26 + rd.toNat * 2 ^ 21 + off.toNat := by
  simp only [wordJ, toNat_append_mul, BitVec.toNat_ofNat]
  omega

theorem wordC_toNat : (wordC rd ra fmt rm sat kind).toNat
    = 0x33 * 2 ^ 26 + rd.toNat * 2 ^ 21 + ra.toNat * 2 ^ 16 + fmt.toNat * 2 ^ 12 + rm.toNat * 2 ^ 10 + (BitVec.ofBool sat).toNat * 2 ^ 9
      + kind % 8 * 2 ^ 6 := by
  simp only [wordC, toNat_append_mul, BitVec.toNat_ofNat]
  omega

theorem wordE_toNat : (wordE op rd ra rb sub x).toNat
    = op % 64 * 2 ^ 26 + rd.toNat * 2 ^ 21 + ra.toNat * 2 ^ 16 + rb.toNat * 2 ^ 11 + sub % 32 * 2 ^ 6 + x.toNat := by
  simp only [wordE, toNat_append_mul, BitVec.toNat_ofNat]
  omega

end Words

/-! ### Codes of Tables 4.5 to 4.10 and 5.2 name one operation each -/

theorem intOpOfFn_eq_some {n : Nat} {o : IntOp} : intOpOfFn n = some o ↔ n = intOpFn o := by
  constructor
  · intro h
    unfold intOpOfFn at h
    split at h <;> cases h <;> rfl
  · rintro rfl
    cases o <;> rfl

theorem immOpOfCode_eq_some {n : Nat} {o : ImmOp} : immOpOfCode n = some o ↔ n = immOpCode o := by
  constructor
  · intro h
    unfold immOpOfCode at h
    split at h <;> cases h <;> rfl
  · rintro rfl
    cases o <;> rfl

theorem condOfCode_eq_some {n : Nat} {c : Cond} : condOfCode n = some c ↔ n = condCode c := by
  constructor
  · intro h
    unfold condOfCode at h
    split at h <;> cases h <;> rfl
  · rintro rfl
    cases c <;> rfl

theorem loadOpOfCode_eq_some {n : Nat} {o : LoadOp} : loadOpOfCode n = some o ↔ n = loadOpCode o := by
  constructor
  · intro h
    unfold loadOpOfCode at h
    split at h <;> cases h <;> rfl
  · rintro rfl
    cases o <;> rfl

theorem storeOpOfCode_eq_some {n : Nat} {o : StoreOp} : storeOpOfCode n = some o ↔ n = storeOpCode o := by
  constructor
  · intro h
    unfold storeOpOfCode at h
    split at h <;> cases h <;> rfl
  · rintro rfl
    cases o <;> rfl

theorem fpOpOfFn_eq_some {n : Nat} {o : FpOp} : fpOpOfFn n = some o ↔ n = fpOpFn o := by
  constructor
  · intro h
    unfold fpOpOfFn at h
    split at h <;> cases h <;> rfl
  · rintro rfl
    cases o <;> rfl

theorem blockOpOfCode_eq_some {n k : Nat} {o : BlockOp} : blockOpOfCode n k = some o ↔ (n, k) = blockOpCode o := by
  constructor
  · intro h
    unfold blockOpOfCode at h
    split at h <;> cases h <;> rfl
  · intro h
    cases o <;> cases h <;> rfl

/-! ### The fields that the decoder reads of an encoded word -/

section Fields
variable {op : Nat} {rd ra rb : Reg} {fn sub kind : Nat} {imm : BitVec 16} {x : BitVec 6} {h sat : Bool} {hw rm : BitVec 2}
  {fmt : BitVec 4}

theorem decodeWew_wordE (hop : 0x38 ≤ op) (hop' : op < 64) (hsub : sub < 32) :
    decodeWew (wordE op rd ra rb sub x) = decodeEngine op rd ra rb sub x := by
  have hop' : ((wordE op rd ra rb sub x).extractLsb' 26 6).toNat = op := by rw [toNat_field, wordE_toNat]; omega
  have hrd : (wordE op rd ra rb sub x).extractLsb' 21 5 = rd := field_eq_iff.2 (by rw [wordE_toNat]; omega)
  have hra : (wordE op rd ra rb sub x).extractLsb' 16 5 = ra := field_eq_iff.2 (by rw [wordE_toNat]; omega)
  have hrb : (wordE op rd ra rb sub x).extractLsb' 11 5 = rb := field_eq_iff.2 (by rw [wordE_toNat]; omega)
  have hs : ((wordE op rd ra rb sub x).extractLsb' 6 5).toNat = sub := by rw [toNat_field, wordE_toNat]; omega
  have hx : (wordE op rd ra rb sub x).extractLsb' 0 6 = x := field_eq_iff.2 (by rw [wordE_toNat]; omega)
  unfold decodeWew
  simp only [hop', hrd, hra, hrb, hs, hx]
  repeat rw [if_neg (by omega)]
  rw [if_pos hop]

theorem decodeWew_wordC (hk : kind < 8) : decodeWew (wordC rd ra fmt rm sat kind) = decodeConv rd ra fmt rm sat kind 0#6 := by
  have hop : ((wordC rd ra fmt rm sat kind).extractLsb' 26 6).toNat = 0x33 := by rw [toNat_field, wordC_toNat]; omega
  have hrd : (wordC rd ra fmt rm sat kind).extractLsb' 21 5 = rd := field_eq_iff.2 (by rw [wordC_toNat]; omega)
  have hra : (wordC rd ra fmt rm sat kind).extractLsb' 16 5 = ra := field_eq_iff.2 (by rw [wordC_toNat]; omega)
  have hf : (wordC rd ra fmt rm sat kind).extractLsb' 12 4 = fmt := field_eq_iff.2 (by rw [wordC_toNat]; omega)
  have hm : (wordC rd ra fmt rm sat kind).extractLsb' 10 2 = rm := field_eq_iff.2 (by rw [wordC_toNat]; omega)
  have hb : (wordC rd ra fmt rm sat kind).getLsbD 9 = sat := bit_eq_iff.2 (by rw [wordC_toNat]; omega)
  have hs : ((wordC rd ra fmt rm sat kind).extractLsb' 6 3).toNat = kind := by rw [toNat_field, wordC_toNat]; omega
  have hx : (wordC rd ra fmt rm sat kind).extractLsb' 0 6 = 0#6 := field_eq_iff.2 (by rw [wordC_toNat, BitVec.toNat_ofNat]; omega)
  unfold decodeWew
  simp only [hop, hrd, hra, hf, hm, hb, hs, hx]
  rfl

theorem wordR_fields (hop : op < 64) (hfn : fn < 2048) : ((wordR op rd ra rb fn).extractLsb' 26 6).toNat = op
    ∧ (wordR op rd ra rb fn).extractLsb' 21 5 = rd ∧ (wordR op rd ra rb fn).extractLsb' 16 5 = ra
    ∧ (wordR op rd ra rb fn).extractLsb' 11 5 = rb ∧ ((wordR op rd ra rb fn).extractLsb' 0 11).toNat = fn := by
  simp only [toNat_field, field_eq_iff, wordR_toNat]
  omega

theorem wordI_fields (hop : op < 64) : ((wordI op rd ra imm).extractLsb' 26 6).toNat = op
    ∧ (wordI op rd ra imm).extractLsb' 21 5 = rd ∧ (wordI op rd ra imm).extractLsb' 16 5 = ra
    ∧ (wordI op rd ra imm).extractLsb' 0 16 = imm := by
  simp only [toNat_field, field_eq_iff, wordI_toNat]
  omega

theorem wordU_fields (hop : op < 64) : ((wordU op rd hw imm).extractLsb' 26 6).toNat = op
    ∧ (wordU op rd hw imm).extractLsb' 21 5 = rd ∧ (wordU op rd hw imm).extractLsb' 18 3 = 0#3
    ∧ (wordU op rd hw imm).extractLsb' 16 2 = hw ∧ (wordU op rd hw imm).extractLsb' 0 16 = imm := by
  simp only [toNat_field, field_eq_iff, wordU_toNat, BitVec.toNat_ofNat]
  omega

theorem wordB_fields {off : BitVec 15} (hop : op < 64) : ((wordB op ra rb h off).extractLsb' 26 6).toNat = op
    ∧ (wordB op ra rb h off).extractLsb' 21 5 = ra ∧ (wordB op ra rb h off).extractLsb' 16 5 = rb
    ∧ (wordB op ra rb h off).getLsbD 15 = h ∧ (wordB op ra rb h off).extractLsb' 0 15 = off := by
  simp only [toNat_field, field_eq_iff, bit_eq_iff, wordB_toNat]
  omega

theorem wordJ_fields {off : BitVec 21} (hop : op < 64) : ((wordJ op rd off).extractLsb' 26 6).toNat = op
    ∧ (wordJ op rd off).extractLsb' 21 5 = rd ∧ (wordJ op rd off).extractLsb' 0 21 = off := by
  simp only [toNat_field, field_eq_iff, wordJ_toNat]
  omega

theorem decodeWew_wordR_int (op : IntOp) (h : intOpUnary op = true → rb = 0#5) :
    decodeWew (wordR 0x01 rd ra rb (intOpFn op)) = .ok (.int op rd ra rb) := by
  obtain ⟨hop, hrd, hra, hrb, hfn⟩ := wordR_fields (op := 0x01) (rd := rd) (ra := ra) (rb := rb) (fn := intOpFn op)
    (by omega) (by cases op <;> decide)
  have ho : intOpOfFn (intOpFn op) = some op := intOpOfFn_eq_some.2 rfl
  have hz : (!intOpUnary op || rb == 0#5) = true := by simpa [imp_iff_not_or] using h
  unfold decodeWew
  simp only [hop, hrd, hra, hrb, hfn, ho, hz]
  rfl

theorem decodeWew_wordR_fp (hfn : fn < 2048) : decodeWew (wordR 0x30 rd ra rb fn) = decodeFp rd ra rb fn := by
  obtain ⟨hop, hrd, hra, hrb, hfn⟩ := wordR_fields (op := 0x30) (rd := rd) (ra := ra) (rb := rb) (by omega) hfn
  unfold decodeWew
  simp only [hop, hrd, hra, hrb, hfn]
  rfl

theorem decodeWew_wordR_fma (p : Bool) (rc : Reg) :
    decodeWew (wordR (if p then 0x32 else 0x31) rd ra rb (rc.toNat * 64)) = .ok (.fma p rd ra rb rc) := by
  have hpop : (if p then 0x32 else 0x31) < 64 := by cases p <;> decide
  obtain ⟨hop, hrd, hra, hrb, -⟩ := wordR_fields (rd := rd) (ra := ra) (rb := rb) (fn := rc.toNat * 64) hpop (by omega)
  have hrc : (wordR (if p then 0x32 else 0x31) rd ra rb (rc.toNat * 64)).extractLsb' 6 5 = rc :=
    field_eq_iff.2 (by rw [wordR_toNat]; omega)
  have hz : (wordR (if p then 0x32 else 0x31) rd ra rb (rc.toNat * 64)).extractLsb' 0 6 = 0#6 :=
    field_eq_iff.2 (by rw [wordR_toNat, BitVec.toNat_ofNat]; omega)
  unfold decodeWew
  simp only [hop, hrd, hra, hrb, hrc, hz]
  cases p <;> rfl

/-- Where format U and J decode: the majors 0x0D, 0x0E and 0x26. -/
theorem decodeWew_wordU : decodeWew (wordU 0x0D rd hw imm) = .ok (.seth rd hw imm)
    ∧ decodeWew (wordU 0x0E rd hw imm) = .ok (.puth rd hw imm) := by
  constructor
  · obtain ⟨hop, hrd, hz, hhw, himm⟩ := wordU_fields (op := 0x0D) (rd := rd) (hw := hw) (imm := imm) (by omega)
    unfold decodeWew
    simp only [hop, hrd, hz, hhw, himm]
    rfl
  · obtain ⟨hop, hrd, hz, hhw, himm⟩ := wordU_fields (op := 0x0E) (rd := rd) (hw := hw) (imm := imm) (by omega)
    unfold decodeWew
    simp only [hop, hrd, hz, hhw, himm]
    rfl

theorem decodeWew_wordJ (off : BitVec 21) : decodeWew (wordJ 0x26 rd off) = .ok (.jal rd off) := by
  obtain ⟨hop, hrd, hoff⟩ := wordJ_fields (op := 0x26) (rd := rd) (off := off) (by omega)
  unfold decodeWew
  simp only [hop, hrd, hoff]
  rfl

theorem decodeWew_wordB (c : Cond) (off : BitVec 15) :
    decodeWew (wordB (condCode c) ra rb h off) = .ok (.branch c ra rb h off) := by
  obtain ⟨hop, hra, hrb, hh, hoff⟩ := wordB_fields (op := condCode c) (ra := ra) (rb := rb) (h := h) (off := off)
    (by cases c <;> decide)
  unfold decodeWew
  simp only [hop, hra, hrb, hh, hoff]
  cases c <;> rfl

theorem decodeWew_wordI_imm (op : ImmOp) (h : immOpShift op = true → imm.extractLsb' 6 10 = 0#10) :
    decodeWew (wordI (immOpCode op) rd ra imm) = .ok (.imm op rd ra imm) := by
  obtain ⟨hop, hrd, hra, himm⟩ := wordI_fields (op := immOpCode op) (rd := rd) (ra := ra) (imm := imm) (by cases op <;> decide)
  have hhigh : (wordI (immOpCode op) rd ra imm).extractLsb' 6 10 = imm.extractLsb' 6 10 := by
    rw [← himm, BitVec.extractLsb'_extractLsb'_of_le (by omega), himm]
  have hz : (!immOpShift op || imm.extractLsb' 6 10 == 0#10) = true := by simpa [imp_iff_not_or] using h
  unfold decodeWew
  simp only [hop, hrd, hra, himm, hhigh]
  cases op <;> simp_all [immOpCode, immOpOfCode, zeroIf, condOfCode, loadOpOfCode, storeOpOfCode]

theorem decodeWew_wordI_load (op : LoadOp) : decodeWew (wordI (loadOpCode op) rd ra imm) = .ok (.load op rd ra imm) := by
  obtain ⟨hop, hrd, hra, himm⟩ := wordI_fields (op := loadOpCode op) (rd := rd) (ra := ra) (imm := imm) (by cases op <;> decide)
  unfold decodeWew
  simp only [hop, hrd, hra, himm]
  cases op <;> rfl

theorem decodeWew_wordI_store (op : StoreOp) :
    decodeWew (wordI (storeOpCode op) rd ra imm) = .ok (.store op rd ra imm) := by
  obtain ⟨hop, hrd, hra, himm⟩ := wordI_fields (op := storeOpCode op) (rd := rd) (ra := ra) (imm := imm) (by cases op <;> decide)
  unfold decodeWew
  simp only [hop, hrd, hra, himm]
  cases op <;> rfl

/-- Majors 0x27 to 0x2C. -/
theorem decodeWew_wordI_major (h : 0x27 ≤ op) (h' : op ≤ 0x2C) : decodeWew (wordI op rd ra imm) =
    if op = 0x27 then .ok (.jalr rd ra imm)
    else if op = 0x28 then zeroIf (ra == 0#5 && imm.extractLsb' 8 8 == 0#8) (.mfsr rd (imm.extractLsb' 0 8))
    else if op = 0x29 then zeroIf (rd == 0#5 && imm.extractLsb' 8 8 == 0#8) (.mtsr ra (imm.extractLsb' 0 8))
    else if op = 0x2A then zeroIf (rd == 0#5 && ra == 0#5) (.trap imm)
    else if op = 0x2B then zeroIf (rd == 0#5 && ra == 0#5 && imm == 0#16) .brk
    else zeroIf (rd == 0#5 && ra == 0#5 && imm == 0#16) .stop := by
  obtain ⟨hop, hrd, hra, himm⟩ := wordI_fields (op := op) (rd := rd) (ra := ra) (imm := imm) (by omega)
  have hhigh : (wordI op rd ra imm).extractLsb' 8 8 = imm.extractLsb' 8 8 := by
    rw [← himm, BitVec.extractLsb'_extractLsb'_of_le (by omega), himm]
  have hlow : (wordI op rd ra imm).extractLsb' 0 8 = imm.extractLsb' 0 8 := by
    rw [← himm, BitVec.extractLsb'_extractLsb'_of_le (by omega), himm]
  unfold decodeWew
  simp only [hop, hrd, hra, himm, hhigh, hlow]
  interval_cases op <;> rfl

end Fields

/-- Every instruction decodes from its word. -/
theorem decode_encode (w : Wew) (h : wfWew w = true) : decodeWew (encodeWew w) = .ok w := by
  cases w with
  | int op rd ra rb => exact decodeWew_wordR_int op (by simpa [wfWew, imp_iff_not_or] using h)
  | imm op rd ra v => exact decodeWew_wordI_imm op (by simpa [wfWew, imp_iff_not_or] using h)
  | seth rd hw v => exact decodeWew_wordU.1
  | puth rd hw v => exact decodeWew_wordU.2
  | branch c ra rb h off => exact decodeWew_wordB c off
  | jal rd off => exact decodeWew_wordJ off
  | load op rd ra v => exact decodeWew_wordI_load op
  | store op rs ra v => exact decodeWew_wordI_store op
  | fma p rd ra rb rc => exact decodeWew_wordR_fma p rc
  | fp op p rd ra rb =>
    have hz : (!fpOpUnary op || rb == 0#5) = true := h
    rw [encodeWew, decodeWew_wordR_fp (by cases op <;> cases p <;> decide)]
    cases op <;> cases p <;> simp_all [decodeFp, fpOpFn, fpOpOfFn, zeroIf]
  | divd rd ra rb => exact decodeWew_wordR_fp (by omega)
  | sqrtd rd ra => exact decodeWew_wordR_fp (by omega)
  | mfsr rd sr =>
    have hhigh : BitVec.extractLsb' 8 8 (0#8 ++ sr) = 0#8 := BitVec.extractLsb'_append_eq_left
    have hlow : BitVec.extractLsb' 0 8 (0#8 ++ sr) = sr := BitVec.extractLsb'_append_eq_right
    refine (decodeWew_wordI_major (by omega) (by omega)).trans ?_
    rw [hhigh, hlow]
    rfl
  | mtsr ra sr =>
    have hhigh : BitVec.extractLsb' 8 8 (0#8 ++ sr) = 0#8 := BitVec.extractLsb'_append_eq_left
    have hlow : BitVec.extractLsb' 0 8 (0#8 ++ sr) = sr := BitVec.extractLsb'_append_eq_right
    refine (decodeWew_wordI_major (by omega) (by omega)).trans ?_
    rw [hhigh, hlow]
    rfl
  | jalr | trap | brk | stop => exact (decodeWew_wordI_major (by omega) (by omega)).trans rfl
  | fcvtx | fcvtf | fcvtLD | fcvtDL | fcvtSD | fcvtDS =>
    exact (decodeWew_wordC (by omega)).trans rfl
  | block op rd ra =>
    exact (decodeWew_wordE (by cases op <;> decide) (by cases op <;> decide) (by cases op <;> decide)).trans
      (by cases op <;> rfl)
  | azero rd k => 
    refine (decodeWew_wordE (by omega) (by omega) (by omega)).trans ?_
    have : BitVec.extractLsb' 0 4 (0#2 ++ k) = k := BitVec.extractLsb'_append_eq_right
    have : BitVec.extractLsb' 4 2 (0#2 ++ k) = 0#2 := BitVec.extractLsb'_append_eq_left
    simp only [decodeEngine, *]
    rfl
  | tdef | seed | lend | pfetch | psend | precv | twait | wait | stat | waitall =>
    exact (decodeWew_wordE (by omega) (by omega) (by omega)).trans rfl
/-! ### A word is the encoding of what it decodes to -/

section Rebuild
variable {x : W32} {op : Nat}

theorem wordR_of_fields (h : (x.extractLsb' 26 6).toNat = op) :
    wordR op (x.extractLsb' 21 5) (x.extractLsb' 16 5) (x.extractLsb' 11 5) (x.extractLsb' 0 11).toNat = x := by
  refine BitVec.eq_of_toNat_eq ?_
  simp only [wordR_toNat, toNat_field] at *
  omega

theorem wordI_of_fields (h : (x.extractLsb' 26 6).toNat = op) :
    wordI op (x.extractLsb' 21 5) (x.extractLsb' 16 5) (x.extractLsb' 0 16) = x := by
  refine BitVec.eq_of_toNat_eq ?_
  simp only [wordI_toNat, toNat_field] at *
  omega

theorem wordU_of_fields (h : (x.extractLsb' 26 6).toNat = op) (hz : x.extractLsb' 18 3 = 0#3) :
    wordU op (x.extractLsb' 21 5) (x.extractLsb' 16 2) (x.extractLsb' 0 16) = x := by
  refine BitVec.eq_of_toNat_eq ?_
  simp only [wordU_toNat, toNat_field, field_eq_iff, BitVec.toNat_ofNat] at *
  omega

theorem wordB_of_fields (h : (x.extractLsb' 26 6).toNat = op) :
    wordB op (x.extractLsb' 21 5) (x.extractLsb' 16 5) (x.getLsbD 15) (x.extractLsb' 0 15) = x := by
  have hb := (bit_eq_iff (x := x) (k := 15)).1 rfl
  refine BitVec.eq_of_toNat_eq ?_
  simp only [wordB_toNat, toNat_field] at *
  omega

theorem wordJ_of_fields (h : (x.extractLsb' 26 6).toNat = op) :
    wordJ op (x.extractLsb' 21 5) (x.extractLsb' 0 21) = x := by
  refine BitVec.eq_of_toNat_eq ?_
  simp only [wordJ_toNat, toNat_field] at *
  omega

theorem wordC_of_fields (h : (x.extractLsb' 26 6).toNat = 0x33) (hz : x.extractLsb' 0 6 = 0#6) :
    wordC (x.extractLsb' 21 5) (x.extractLsb' 16 5) (x.extractLsb' 12 4) (x.extractLsb' 10 2) (x.getLsbD 9)
      (x.extractLsb' 6 3).toNat = x := by
  have hb := (bit_eq_iff (x := x) (k := 9)).1 rfl
  refine BitVec.eq_of_toNat_eq ?_
  simp only [wordC_toNat, toNat_field, field_eq_iff, BitVec.toNat_ofNat] at *
  omega

theorem wordE_of_fields (h : (x.extractLsb' 26 6).toNat = op) :
    wordE op (x.extractLsb' 21 5) (x.extractLsb' 16 5) (x.extractLsb' 11 5) (x.extractLsb' 6 5).toNat (x.extractLsb' 0 6)
      = x := by
  refine BitVec.eq_of_toNat_eq ?_
  simp only [wordE_toNat, toNat_field] at *
  omega

/-- The third source of a fused multiply-add stands above six zeros (R160). -/
theorem wordR_of_fma (h : (x.extractLsb' 26 6).toNat = op) (hz : x.extractLsb' 0 6 = 0#6) :
    wordR op (x.extractLsb' 21 5) (x.extractLsb' 16 5) (x.extractLsb' 11 5) ((x.extractLsb' 6 5).toNat * 64) = x := by
  refine BitVec.eq_of_toNat_eq ?_
  simp only [wordR_toNat, toNat_field, field_eq_iff, BitVec.toNat_ofNat] at *
  omega

/-- A word of format I whose two register fields are zero. -/
theorem zeroed_wordI {imm : BitVec 16} (h : (x.extractLsb' 26 6).toNat = op) (hd : x.extractLsb' 21 5 = 0#5)
    (ha : x.extractLsb' 16 5 = 0#5) (hi : x.extractLsb' 0 16 = imm) : wordI op 0#5 0#5 imm = x := by
  have hx := wordI_of_fields h
  rwa [hd, ha, hi] at hx

theorem append_low_byte (hz : x.extractLsb' 8 8 = 0#8) : 0#8 ++ x.extractLsb' 0 8 = x.extractLsb' 0 16 := by
  refine BitVec.eq_of_toNat_eq ?_
  simp only [toNat_append_mul, toNat_field, field_eq_iff, BitVec.toNat_ofNat] at *
  omega

end Rebuild

theorem zeroIf_eq_ok {b : Bool} {v w : Wew} : zeroIf b v = .ok w ↔ b = true ∧ v = w := by
  cases b <;> simp [zeroIf]

/-- What the decoder of major 0x30 answers is the instruction of its fields. -/
theorem decodeFp_ok {rd ra rb : Reg} {fn : Nat} {w : Wew} (hfn : fn < 2048) (h : decodeFp rd ra rb fn = .ok w) :
    wfWew w = true ∧ encodeWew w = wordR 0x30 rd ra rb fn := by
  have hp : (if fn / 1024 == 1 then 0x400 else 0) + fn % 1024 = fn := by
    split
    · next hp => rw [beq_iff_eq] at hp; omega
    · next hp => rw [beq_iff_eq] at hp; omega
  unfold decodeFp at h
  dsimp only at h
  split at h
  · next op hop =>
    obtain ⟨hz, rfl⟩ := zeroIf_eq_ok.1 h
    refine ⟨hz, ?_⟩
    rw [encodeWew, ← fpOpOfFn_eq_some.1 hop, hp]
  · split at h
    · next hk => 
      cases h
      simp at hk
      have : fn = 0x40D := by omega
      exact ⟨rfl, by rw [this]; rfl⟩
    · split at h
      · next hk => 
        simp at hk
        obtain ⟨hz, rfl⟩ := zeroIf_eq_ok.1 h
        have : fn = 0x40E := by omega
        rw [this, beq_iff_eq.1 hz]
        exact ⟨rfl, rfl⟩
      · cases h

theorem decodeConv_ok {rd ra : Reg} {fmt : BitVec 4} {rm : BitVec 2} {sat : Bool} {kind : Nat} {low : BitVec 6} {w : Wew}
    (h : decodeConv rd ra fmt rm sat kind low = .ok w) :
    low = 0#6 ∧ wfWew w = true ∧ encodeWew w = wordC rd ra fmt rm sat kind := by
  unfold decodeConv at h
  dsimp only at h
  split at h
  case h_7 => cases h
  all_goals
    obtain ⟨hz, rfl⟩ := zeroIf_eq_ok.1 h
    simp only [Bool.and_eq_true, beq_iff_eq, Bool.not_eq_true'] at hz
    simp [hz, wfWew, encodeWew]

theorem append_low_field {x : BitVec 6} (h : x.extractLsb' 4 2 = 0#2) : 0#2 ++ x.extractLsb' 0 4 = x := by
  have hz := congrArg BitVec.toNat h
  refine BitVec.eq_of_toNat_eq ?_
  simp only [toNat_append_mul, BitVec.extractLsb'_toNat, Nat.shiftRight_eq_div_pow, BitVec.toNat_ofNat] at *
  omega

theorem decodeEngine_ok {op : Nat} {rd ra rb : Reg} {sub : Nat} {x : BitVec 6} {w : Wew}
    (h : decodeEngine op rd ra rb sub x = .ok w) : wfWew w = true ∧ encodeWew w = wordE op rd ra rb sub x := by
  unfold decodeEngine at h
  dsimp only at h
  split at h
  case h_3 =>
    obtain ⟨hz, rfl⟩ := zeroIf_eq_ok.1 h
    simp only [Bool.and_eq_true, beq_iff_eq] at hz
    obtain ⟨⟨rfl, rfl⟩, hx⟩ := hz
    exact ⟨rfl, by rw [encodeWew, append_low_field hx]⟩
  case h_6 => cases h; exact ⟨rfl, rfl⟩
  case h_12 =>
    split at h
    · next b hb =>
      obtain ⟨hz, rfl⟩ := zeroIf_eq_ok.1 h
      simp only [Bool.and_eq_true, beq_iff_eq] at hz
      simp [hz, wfWew, encodeWew, ← blockOpOfCode_eq_some.1 hb]
    · cases h
  all_goals
    obtain ⟨hz, rfl⟩ := zeroIf_eq_ok.1 h
    simp only [Bool.and_eq_true, beq_iff_eq] at hz
    simp [hz, wfWew, encodeWew]

/-- A word decodes only to the instruction whose encoding it is. -/
theorem encode_of_decode {x : W32} {w : Wew} (h : decodeWew x = .ok w) : wfWew w = true ∧ encodeWew w = x := by
  unfold decodeWew at h
  dsimp only at h
  have hfn : (x.extractLsb' 0 11).toNat < 2048 := (x.extractLsb' 0 11).isLt
  by_cases hop : (x.extractLsb' 26 6).toNat = 0x01
  · rw [if_pos hop] at h
    split at h
    · next o ho =>
      obtain ⟨hz, rfl⟩ := zeroIf_eq_ok.1 h
      exact ⟨hz, by rw [encodeWew, ← intOpOfFn_eq_some.1 ho, wordR_of_fields hop]⟩
    · cases h
  rw [if_neg hop] at h
  by_cases hop : (x.extractLsb' 26 6).toNat = 0x0D
  · rw [if_pos hop] at h
    obtain ⟨hz, rfl⟩ := zeroIf_eq_ok.1 h
    exact ⟨rfl, wordU_of_fields hop (beq_iff_eq.1 hz)⟩
  rw [if_neg hop] at h
  by_cases hop : (x.extractLsb' 26 6).toNat = 0x0E
  · rw [if_pos hop] at h
    obtain ⟨hz, rfl⟩ := zeroIf_eq_ok.1 h
    exact ⟨rfl, wordU_of_fields hop (beq_iff_eq.1 hz)⟩
  rw [if_neg hop] at h
  by_cases hop : (x.extractLsb' 26 6).toNat = 0x26
  · rw [if_pos hop] at h
    cases h
    exact ⟨rfl, wordJ_of_fields hop⟩
  rw [if_neg hop] at h
  by_cases hop : (x.extractLsb' 26 6).toNat = 0x27
  · rw [if_pos hop] at h
    cases h
    exact ⟨rfl, wordI_of_fields hop⟩
  rw [if_neg hop] at h
  by_cases hop : (x.extractLsb' 26 6).toNat = 0x28
  · rw [if_pos hop] at h
    obtain ⟨hz, rfl⟩ := zeroIf_eq_ok.1 h
    simp only [Bool.and_eq_true, beq_iff_eq] at hz
    exact ⟨rfl, by rw [encodeWew, append_low_byte hz.2, ← hz.1, wordI_of_fields hop]⟩
  rw [if_neg hop] at h
  by_cases hop : (x.extractLsb' 26 6).toNat = 0x29
  · rw [if_pos hop] at h
    obtain ⟨hz, rfl⟩ := zeroIf_eq_ok.1 h
    simp only [Bool.and_eq_true, beq_iff_eq] at hz
    exact ⟨rfl, by rw [encodeWew, append_low_byte hz.2, ← hz.1, wordI_of_fields hop]⟩
  rw [if_neg hop] at h
  by_cases hop : (x.extractLsb' 26 6).toNat = 0x2A
  · rw [if_pos hop] at h
    obtain ⟨hz, rfl⟩ := zeroIf_eq_ok.1 h
    simp only [Bool.and_eq_true, beq_iff_eq] at hz
    exact ⟨rfl, zeroed_wordI hop hz.1 hz.2 rfl⟩
  rw [if_neg hop] at h
  by_cases hop : (x.extractLsb' 26 6).toNat = 0x2B
  · rw [if_pos hop] at h
    obtain ⟨hz, rfl⟩ := zeroIf_eq_ok.1 h
    simp only [Bool.and_eq_true, beq_iff_eq] at hz
    exact ⟨rfl, zeroed_wordI hop hz.1.1 hz.1.2 hz.2⟩
  rw [if_neg hop] at h
  by_cases hop : (x.extractLsb' 26 6).toNat = 0x2C
  · rw [if_pos hop] at h
    obtain ⟨hz, rfl⟩ := zeroIf_eq_ok.1 h
    simp only [Bool.and_eq_true, beq_iff_eq] at hz
    exact ⟨rfl, zeroed_wordI hop hz.1.1 hz.1.2 hz.2⟩
  rw [if_neg hop] at h
  by_cases hop : (x.extractLsb' 26 6).toNat = 0x30
  · rw [if_pos hop] at h
    obtain ⟨hwf, henc⟩ := decodeFp_ok hfn h
    exact ⟨hwf, henc.trans (wordR_of_fields hop)⟩
  rw [if_neg hop] at h
  by_cases hop : (x.extractLsb' 26 6).toNat = 0x31
  · rw [if_pos hop] at h
    obtain ⟨hz, rfl⟩ := zeroIf_eq_ok.1 h
    exact ⟨rfl, wordR_of_fma hop (beq_iff_eq.1 hz)⟩
  rw [if_neg hop] at h
  by_cases hop : (x.extractLsb' 26 6).toNat = 0x32
  · rw [if_pos hop] at h
    obtain ⟨hz, rfl⟩ := zeroIf_eq_ok.1 h
    exact ⟨rfl, wordR_of_fma hop (beq_iff_eq.1 hz)⟩
  rw [if_neg hop] at h
  by_cases hop : (x.extractLsb' 26 6).toNat = 0x33
  · rw [if_pos hop] at h
    obtain ⟨hlow, hwf, henc⟩ := decodeConv_ok h
    exact ⟨hwf, henc.trans (wordC_of_fields hop hlow)⟩
  rw [if_neg hop] at h
  by_cases hop : 0x38 ≤ (x.extractLsb' 26 6).toNat
  · rw [if_pos hop] at h
    obtain ⟨hwf, henc⟩ := decodeEngine_ok h
    exact ⟨hwf, henc.trans (wordE_of_fields rfl)⟩
  rw [if_neg hop] at h
  cases himm : immOpOfCode (x.extractLsb' 26 6).toNat with
  | some o =>
    rw [himm] at h
    obtain ⟨hz, rfl⟩ := zeroIf_eq_ok.1 h
    refine ⟨?_, wordI_of_fields (immOpOfCode_eq_some.1 himm)⟩
    rwa [wfWew, BitVec.extractLsb'_extractLsb'_of_le (by omega)]
  | none =>
  cases hcond : condOfCode (x.extractLsb' 26 6).toNat with
  | some c =>
    rw [himm, hcond] at h
    cases h
    exact ⟨rfl, wordB_of_fields (condOfCode_eq_some.1 hcond)⟩
  | none =>
  cases hload : loadOpOfCode (x.extractLsb' 26 6).toNat with
  | some o =>
    rw [himm, hcond, hload] at h
    cases h
    exact ⟨rfl, wordI_of_fields (loadOpOfCode_eq_some.1 hload)⟩
  | none =>
  cases hstore : storeOpOfCode (x.extractLsb' 26 6).toNat with
  | some o =>
    rw [himm, hcond, hload, hstore] at h
    cases h
    exact ⟨rfl, wordI_of_fields (storeOpOfCode_eq_some.1 hstore)⟩
  | none =>
    rw [himm, hcond, hload, hstore] at h
    cases h

/-- Settles O2: the decoder reads back every field of an encoded word, and the word is rebuilt from the fields it reads. -/
theorem wewEncodingRoundTrip : Obligations.WewEncodingRoundTrip := ⟨decode_encode, fun _ _ => encode_of_decode⟩

end Sys2Proof

/-! PROOFS. The family of spec/03 and spec/04, values: what FP32 operations read and leave, and Table 4.5 in integers. -/

namespace Sys2Proof.Machine

set_option Elab.async false

/-! ### FP32 values in a register (R92) -/

theorem regNum_low (a : W64) : regNum false a = decodeFloat specFp32 (a.setWidth 32).toNat := by
  simp [regNum]

theorem regBits_low (a : W64) : regBits false a = (a.setWidth 32).setWidth 64 := by
  have hmask : 0xFFFFFFFF#64 = (BitVec.allOnes 32).setWidth 64 := rfl
  refine BitVec.eq_of_getLsbD_eq fun i hi => ?_
  simp only [regBits, Bool.false_eq_true, if_false, hmask, BitVec.getLsbD_and, BitVec.getLsbD_setWidth,
    BitVec.getLsbD_allOnes, hi, decide_true, Bool.true_and]
  exact Bool.and_comm ..

/-- The high half of a register is zero. -/
theorem high_eq_zero_iff {x : W64} : x.extractLsb' 32 32 = 0#32 ↔ x.toNat < 2 ^ 32 := by
  rw [← BitVec.toNat_inj, BitVec.extractLsb'_toNat, Nat.shiftRight_eq_div_pow, BitVec.toNat_ofNat]
  omega

theorem withSign_lt {mag : Nat} (neg : Bool) (h : mag < 2 ^ 31) : withSign specFp32 neg mag < 2 ^ 32 := by
  unfold withSign
  split
  · change mag + 2 ^ 31 < 2 ^ 32; omega
  · omega

theorem floatOverflow_lt (rm : Rm) (sat neg : Bool) : (floatOverflow specFp32 rm sat neg).1 < 2 ^ 32 := by
  have hmax : specFp32.maxFinite < 2 ^ 31 := by decide
  have hinf : infMag specFp32 < 2 ^ 31 := by decide
  unfold floatOverflow
  split
  · exact withSign_lt neg hmax
  · split
    · decide
    · split
      · exact withSign_lt neg hmax
      · exact withSign_lt neg hinf

/-- An FP32 encoding has 32 bits. -/
theorem encodeFp32_lt (rm : Rm) (sat : Bool) (r : Threshold) (x : Num) : (encodeFloat specFp32 rm sat r x).1 < 2 ^ 32 := by
  have hmax : specFp32.maxFinite < 2 ^ 31 := by decide
  have hinf : infMag specFp32 < 2 ^ 31 := by decide
  cases x with
  | nan => exact (by decide : specFp32.nan < 2 ^ 32)
  | inf neg => exact withSign_lt neg hinf
  | fin neg m e =>
    simp only [encodeFloat]
    split
    · exact withSign_lt neg (Nat.two_pow_pos 31)
    · split
      · exact floatOverflow_lt rm sat neg
      · next hmag => exact withSign_lt neg (by omega)

theorem roundReg_high (rm : Rm) (sat : Bool) (r : Threshold) (x : Num) :
    (roundReg false rm sat r x).1.extractLsb' 32 32 = 0#32 := by
  have h := encodeFp32_lt rm sat r x
  rw [high_eq_zero_iff]
  change (BitVec.ofNat 64 (encodeFloat specFp32 rm sat r x).1).toNat < 2 ^ 32
  rw [BitVec.toNat_ofNat]
  omega

theorem regBits_high (a : W64) : (regBits false a).extractLsb' 32 32 = 0#32 := by
  rw [high_eq_zero_iff, regBits_low, BitVec.toNat_setWidth]
  omega

theorem boolWord_high (b : Bool) : (boolWord b).extractLsb' 32 32 = 0#32 := by cases b <;> rfl

theorem minMax_high (max : Bool) (a b : W64) : (minMax false max a b).extractLsb' 32 32 = 0#32 := by
  unfold minMax
  dsimp only
  split
  · rfl
  · split
    · exact regBits_high b
    · split
      · exact regBits_high a
      · split
        · exact regBits_high b
        · exact regBits_high a

theorem fpResult_high (op : FpOp) (rm : Rm) (r : Threshold) (a b : W64) :
    (fpResult op false rm r a b).1.extractLsb' 32 32 = 0#32 := by
  cases op with
  | fadd | fsub | fmul => exact roundReg_high ..
  | fmin | fmax => exact minMax_high ..
  | feq | flt | fle => exact boolWord_high _
  | fmov | fmvg | fmvf => exact regBits_high a
  | fabs =>
    have h := high_eq_zero_iff.1 (regBits_high a)
    rw [high_eq_zero_iff]
    exact lt_of_le_of_lt (by simpa [fpResult] using Nat.and_le_left) h
  | fneg =>
    have h := high_eq_zero_iff.1 (regBits_high a)
    rw [high_eq_zero_iff]
    exact (BitVec.toNat_xor (regBits false a) _).trans_lt (Nat.xor_lt_two_pow h (by decide))

/-- An FP32 operation sees the low halves of its sources alone. -/
theorem fpResult_congr (op : FpOp) (rm : Rm) (r : Threshold) {a b a' b' : W64} (ha : a.setWidth 32 = a'.setWidth 32)
    (hb : b.setWidth 32 = b'.setWidth 32) : fpResult op false rm r a b = fpResult op false rm r a' b' := by
  simp only [fpResult, minMax, regNum_low, regBits_low, ha, hb]

/-- Settles O4: an FP32 operation is a function of the low halves, and what it rounds, moves or selects has 32 bits. -/
theorem singlePrecisionUsesLowHalf : Obligations.SinglePrecisionUsesLowHalf := by
  intro op rm sat r a b c a' b' c' ha hb hc
  refine ⟨fpResult_congr op rm r ha hb, fpResult_high .., ?_, roundReg_high .., ?_, roundReg_high .., rfl⟩
  · simp only [fmaResult, regNum_low, ha, hb, hc]
  · simp only [fcvtDSResult, regNum_low, ha]

/-! ### Table 4.5 -/

theorem boolWord_toNat (b : Bool) : (boolWord b).toNat = if b = true then 1 else 0 := by cases b <;> rfl

/-- A rotation moves bit `k + n` to bit `k`, around the word. -/
theorem getLsbD_rotateRight_mod (a : W64) (n : Nat) {k : Nat} (hk : k < 64) :
    (a.rotateRight (n % 64)).getLsbD k = a.getLsbD ((k + n) % 64) := by
  rw [BitVec.getLsbD_rotateRight]
  by_cases h : k < 64 - n % 64 % 64
  · rw [decide_eq_true h, cond_true, show n % 64 % 64 + k = (k + n) % 64 by omega]
  · rw [decide_eq_false h, cond_false, decide_eq_true hk, Bool.true_and,
      show k - (64 - n % 64 % 64) = (k + n) % 64 by omega]

theorem clz64_bounds {a : W64} (h : a ≠ 0) : a.toNat < 2 ^ (64 - clz64 a) ∧ 2 ^ (63 - clz64 a) ≤ a.toNat := by
  have hne : a.toNat ≠ 0 := fun h0 => h (BitVec.eq_of_toNat_eq h0)
  have hlog : Nat.log2 a.toNat < 64 := (Nat.log2_lt hne).2 a.isLt
  have hclz : clz64 a = 63 - Nat.log2 a.toNat := if_neg h
  have hlt : a.toNat < 2 ^ (Nat.log2 a.toNat + 1) := Nat.lt_log2_self
  have hle : 2 ^ Nat.log2 a.toNat ≤ a.toNat := Nat.log2_self_le hne
  rw [hclz, show 64 - (63 - Nat.log2 a.toNat) = Nat.log2 a.toNat + 1 by omega,
    show 63 - (63 - Nat.log2 a.toNat) = Nat.log2 a.toNat by omega]
  exact ⟨hlt, hle⟩

theorem clz64_le (a : W64) : clz64 a ≤ 64 := by
  unfold clz64
  split <;> omega

/-- The scan for a one bit: it stops at the first, or at its end. -/
theorem ctzFrom_spec (a : W64) (fuel i : Nat) :
    i ≤ ctzFrom a fuel i ∧ ctzFrom a fuel i ≤ i + fuel ∧ (∀ k, i ≤ k → k < ctzFrom a fuel i → a.getLsbD k = false)
      ∧ (ctzFrom a fuel i < i + fuel → a.getLsbD (ctzFrom a fuel i) = true) := by
  induction fuel generalizing i with
  | zero => exact ⟨le_rfl, le_rfl, fun k hi hk => absurd hk (not_lt.2 hi), fun h => absurd h (lt_irrefl _)⟩
  | succ fuel ih =>
    obtain ⟨hge, hle, hbelow, hat⟩ := ih (i + 1)
    rw [ctzFrom]
    split
    · next hbit => exact ⟨le_rfl, by omega, fun k hi hk => absurd hk (not_lt.2 hi), fun _ => hbit⟩
    · next hbit =>
      refine ⟨by omega, by omega, fun k hi hk => ?_, fun h => hat (by omega)⟩
      rcases Nat.lt_or_eq_of_le hi with hlt | rfl
      · exact hbelow k hlt hk
      · exact Bool.eq_false_iff.2 hbit

theorem ctz64_spec {a : W64} (h : a ≠ 0) :
    a.getLsbD (ctz64 a) = true ∧ ∀ k, k < ctz64 a → a.getLsbD k = false := by
  obtain ⟨-, hle, hbelow, hat⟩ := ctzFrom_spec a 64 0
  refine ⟨hat (lt_of_le_of_ne hle fun hend => h ?_), fun k hk => hbelow k (Nat.zero_le k) hk⟩
  refine BitVec.eq_of_getLsbD_eq fun k hk => ?_
  rw [hbelow k (Nat.zero_le k) (by omega)]
  simp

theorem popcUpTo_eq_countP (a : W64) (n : Nat) : popcUpTo a n = (List.range n).countP fun k => a.getLsbD k := by
  induction n with
  | zero => rfl
  | succ n ih =>
    rw [popcUpTo, ih, List.range_succ, List.countP_append, List.countP_singleton]
    cases a.getLsbD n <;> rfl

theorem popc64_le (a : W64) : popc64 a ≤ 64 := by
  rw [popc64, popcUpTo_eq_countP]
  exact (List.countP_le_length).trans_eq List.length_range

/-- A product of two signed words, over 2^64, is a signed word. -/
theorem mulh_range (a b : W64) : -2 ^ 63 ≤ a.toInt * b.toInt / 2 ^ 64 ∧ a.toInt * b.toInt / 2 ^ 64 < 2 ^ 63 := by
  have ha : |a.toInt| ≤ 2 ^ 63 := abs_le.2 ⟨a.le_toInt, a.toInt_lt.le⟩
  have hb : |b.toInt| ≤ 2 ^ 63 := abs_le.2 ⟨b.le_toInt, b.toInt_lt.le⟩
  have hab : |a.toInt * b.toInt| ≤ 2 ^ 63 * 2 ^ 63 := by
    rw [abs_mul]
    exact mul_le_mul ha hb (abs_nonneg _) (by positivity)
  obtain ⟨hlo, hhi⟩ := abs_le.1 hab
  omega

theorem toInt_ite_slt_min (a b : W64) : (if a.slt b then a else b).toInt = min a.toInt b.toInt := by
  by_cases h : a.toInt < b.toInt
  · rw [if_pos (BitVec.slt_iff_toInt_lt.2 h), min_eq_left h.le]
  · rw [if_neg (mt BitVec.slt_iff_toInt_lt.1 h), min_eq_right (not_lt.1 h)]

theorem toInt_ite_slt_max (a b : W64) : (if a.slt b then b else a).toInt = max a.toInt b.toInt := by
  by_cases h : a.toInt < b.toInt
  · rw [if_pos (BitVec.slt_iff_toInt_lt.2 h), max_eq_right h.le]
  · rw [if_neg (mt BitVec.slt_iff_toInt_lt.1 h), max_eq_left (not_lt.1 h)]

theorem toNat_ite_ult_min (a b : W64) : (if a.ult b then a else b).toNat = min a.toNat b.toNat := by
  by_cases h : a.toNat < b.toNat
  · rw [if_pos (BitVec.ult_iff_lt.2 h), min_eq_left h.le]
  · rw [if_neg (mt BitVec.ult_iff_lt.1 h), min_eq_right (not_lt.1 h)]

theorem toNat_ite_ult_max (a b : W64) : (if a.ult b then b else a).toNat = max a.toNat b.toNat := by
  by_cases h : a.toNat < b.toNat
  · rw [if_pos (BitVec.ult_iff_lt.2 h), max_eq_right h.le]
  · rw [if_neg (mt BitVec.ult_iff_lt.1 h), max_eq_left (not_lt.1 h)]

/-- A count of at most 64 is what a register holds of it. -/
theorem toNat_ofNat_count {n : Nat} (h : n ≤ 64) : (BitVec.ofNat 64 n).toNat = n := by
  rw [BitVec.toNat_ofNat]
  omega

theorem ctz64_le (a : W64) : ctz64 a ≤ 64 := (ctzFrom_spec a 64 0).2.1

/-- Settles O5: each operation of Table 4.5 by the meaning of its word operation in integers. -/
theorem integerOperationValues : Obligations.IntegerOperationValues := by
  intro a b
  have hclz : (intResult .clz a b).toNat = clz64 a := toNat_ofNat_count (clz64_le a)
  have hctz : (intResult .ctz a b).toNat = ctz64 a := toNat_ofNat_count (ctz64_le a)
  have hpopc : (intResult .popc a b).toNat = popc64 a := toNat_ofNat_count (popc64_le a)
  have hmulhu : a.toNat * b.toNat / 2 ^ 64 < 2 ^ 64 := by
    rw [Nat.div_lt_iff_lt_mul (by positivity)]
    exact Nat.mul_lt_mul'' a.isLt b.isLt
  refine ⟨BitVec.toNat_add a b, ?sub, ?sll, ?srl, ?sra, fun k hk => getLsbD_rotateRight_mod a _ hk, ?andn, ?slt, ?sltu, ?seq,
    toInt_ite_slt_min a b, toInt_ite_slt_max a b, toNat_ite_ult_min a b, toNat_ite_ult_max a b, BitVec.toNat_mul a b, ?mulh,
    ?mulhu, fun h => hclz ▸ clz64_bounds h, rfl, rfl, fun h => hctz ▸ ctz64_spec h, hpopc.trans (popcUpTo_eq_countP a 64)⟩
  case sub =>
    rw [intResult, BitVec.toNat_sub]
    congr 1
    omega
  case sll => rw [intResult, BitVec.toNat_shiftLeft, Nat.shiftLeft_eq]
  case srl => rw [intResult, BitVec.toNat_ushiftRight, Nat.shiftRight_eq_div_pow]
  case sra => rw [intResult, BitVec.toInt_sshiftRight, Int.shiftRight_eq_div_pow]; rfl
  case andn =>
    intro k
    rw [intResult, BitVec.getLsbD_and, BitVec.getLsbD_not]
    by_cases hk : k < 64
    · simp [hk]
    · simp [BitVec.getLsbD_of_ge a k (not_lt.1 hk)]
  case slt => simp only [intResult, boolWord_toNat, BitVec.slt_iff_toInt_lt]
  case sltu => simp only [intResult, boolWord_toNat, BitVec.ult_iff_lt, BitVec.lt_def]
  case seq => simp only [intResult, boolWord_toNat, beq_iff_eq]
  case mulh =>
    obtain ⟨hlo, hhi⟩ := mulh_range a b
    exact BitVec.toInt_ofInt_eq_self (by decide) hlo hhi
  case mulhu => exact (BitVec.toNat_ofNat ..).trans (Nat.mod_eq_of_lt hmulhu)

end Sys2Proof.Machine

/-! PROOFS. The family of spec/04, instructions that commit: local store, special registers, floating point, the coprocessor,
waits, and traps. -/

namespace Sys2Proof.Machine

set_option Elab.async false

/-! ### Loads (R145, Table 4.9) -/

theorem lsNat_eq_foldr (c : Core) (a n : Nat) :
    lsNat c a n = ((List.range n).map fun i => memGet c.ls (a + i)).foldr (fun b n => b.toNat + 256 * n) 0 := by
  have hbytes (a n : Nat) : memRead c.ls a n = (List.range n).map fun i => memGet c.ls (a + i) := by
    induction n generalizing a with
    | zero => rfl
    | succ n ih =>
      rw [memRead, ih, List.range_succ_eq_map, List.map_cons, List.map_map]
      congr 1
      exact List.map_congr_left fun i _ => by simp [Nat.add_comm, Nat.add_left_comm]
  have hnat (bs : List Byte) : leNat bs = bs.foldr (fun b n => b.toNat + 256 * n) 0 := by
    induction bs with
    | nil => rfl
    | cons b bs ih => rw [leNat, ih, List.foldr_cons]
  rw [lsNat, lsRead, hbytes, hnat]

/-- A signed load is the number of `w` bits in two's complement. -/
theorem toInt_signExtend_ofNat {w n : Nat} (hw : w ≤ 64) (h : n < 2 ^ w) :
    ((BitVec.ofNat w n).signExtend 64).toInt = if 2 * n < 2 ^ w then (n : Int) else n - 2 ^ w := by
  rw [BitVec.toInt_signExtend_of_le hw, BitVec.toInt_eq_toNat_cond, BitVec.toNat_ofNat, Nat.mod_eq_of_lt h]
  push_cast
  rfl

theorem loadValue_signed (n : Nat) :
    (n < 2 ^ 8 → (loadValue .ldb n).toInt = (if n < 2 ^ 7 then (n : Int) else n - 2 ^ 8))
      ∧ (n < 2 ^ 16 → (loadValue .ldh n).toInt = (if n < 2 ^ 15 then (n : Int) else n - 2 ^ 16))
      ∧ (n < 2 ^ 32 → (loadValue .ldw n).toInt = (if n < 2 ^ 31 then (n : Int) else n - 2 ^ 32)) := by
  refine ⟨fun h => ?_, fun h => ?_, fun h => ?_⟩
  all_goals
    rw [loadValue, toInt_signExtend_ofNat (by omega) h]
    exact if_congr (by omega) rfl rfl

theorem loadValue_unsigned {n : Nat} (h : n < 2 ^ 64) :
    ∀ op ∈ [LoadOp.ldbu, .ldhu, .ldwu, .ldd, .fldw, .fldd], (loadValue op n).toNat = n := by
  have hn : (BitVec.ofNat 64 n).toNat = n := (BitVec.toNat_ofNat ..).trans (Nat.mod_eq_of_lt h)
  intro op hop
  cases op with
  | ldb | ldh | ldw => simp at hop
  | _ => exact hn

theorem loadIsFp_iff (op : LoadOp) : loadIsFp op = true ↔ op = .fldw ∨ op = .fldd := by cases op <;> decide

/-- Settles O8: an access that passes the check commits with the bytes it reads. -/
theorem loadsCommit : Obligations.LoadsCommit := by
  refine ⟨fun n => ⟨(loadValue_signed n).1, (loadValue_signed n).2.1, (loadValue_signed n).2.2, loadValue_unsigned⟩, ?_⟩
  intro a op rd ra v s x c addr bytes y h hal hlo hhi
  have hcheck : lsCheck c a.slot addr (loadSize op) (loadSize op) = none := lsCheck_inside hal (by omega)
  have hy : loadValue op (lsNat c addr (loadSize op)) = y := by rw [lsNat_eq_foldr]
  have he : effLoad op rd ra v a.core.val a.slot s = commitSlot s a.core.val a.slot
      (if op = .fldw ∨ op = .fldd then setF x rd y else setG x rd y) := by
    rw [← hy]
    simp only [← loadIsFp_iff]
    simp only [effLoad, show lsCheck (getCore s a.core.val) a.slot
      (lsAddr (getG (coreSlot (getCore s a.core.val) a.slot) ra) v).toNat (loadSize op) (loadSize op) = none from hcheck]
    rfl
  obtain ⟨t, ht, hslot, honly⟩ := commit_slot (ch := {}) h rfl he
  have hpc : (if op = .fldw ∨ op = .fldd then setF x rd y else setG x rd y).pc = x.pc := by split <;> simp
  rw [hpc] at hslot
  exact ⟨t, ht, hslot, honly⟩

/-! ### Stores (R145, R263) -/

theorem storeSize_le (op : StoreOp) : storeSize op ≤ 8 := by cases op <;> decide

theorem storeIsFp_iff (op : StoreOp) : storeIsFp op = true ↔ op = .fstw ∨ op = .fstd := by cases op <;> decide

/-- A clean write of less than a word leaves every poison bit (R263). -/
theorem lsMark_partial {a n : Nat} (h : n < 16) (fuel w : Nat) (c : Core) : lsMark a n false fuel w c = c := by
  induction fuel generalizing w c with
  | zero => rfl
  | succ fuel ih =>
    have hword : lsPoisonWord c a n false w = c.lsPoison := by
      have hpart : ¬(a ≤ 16 * w ∧ 16 * w + 16 ≤ a + n) := by omega
      simp [lsPoisonWord, hpart]
    rw [lsMark, hword, ih]

theorem leBytes_length (k n : Nat) : (leBytes k n).length = k := by
  induction k generalizing n with
  | zero => rfl
  | succ k ih => rw [leBytes, List.length_cons, ih]

theorem leBytes_getElem (k n i : Nat) (h : i < (leBytes k n).length) : (leBytes k n)[i] = BitVec.ofNat 8 (n / 256 ^ i) := by
  induction k generalizing n i with
  | zero => exact absurd h (Nat.not_lt_zero i)
  | succ k ih =>
    cases i with
    | zero => simp [leBytes]
    | succ i =>
      simp only [leBytes, List.getElem_cons_succ]
      rw [ih, Nat.div_div_eq_div_mul, Nat.pow_succ']

theorem lsWrite_partial (c : Core) (a : Nat) {bs : List Byte} (h : bs.length < 16) :
    lsWrite c a bs false = { c with ls := memWrite c.ls a bs } := lsMark_partial h ..

theorem setCoreSlot_ls (c : Core) (i : SlotId) (x : Slot) (m : Mem) :
    setCoreSlot { c with ls := m } i x = { setCoreSlot c i x with ls := m } := by cases i <;> rfl

/-- Settles O9: an access that passes the check writes its bytes and no poison bit. -/
theorem storesCommit : Obligations.StoresCommit := by
  intro a op rs ra v s x c addr y h hal hlo hhi
  have hcheck : lsCheck c a.slot addr (storeSize op) (storeSize op) = none := lsCheck_inside hal (by omega)
  set bs := leBytes (storeSize op) y.toNat with hbs
  have hlen : bs.length = storeSize op := leBytes_length ..
  have hwrite : lsWrite c addr bs false = { c with ls := memWrite c.ls addr bs } :=
    lsWrite_partial c addr (by have := storeSize_le op; omega)
  set u := setSlot (setCore s a.core.val { c with ls := memWrite c.ls addr bs }) a.core.val a.slot { x with pc := nextPc x.pc }
    with hu
  have he : effStore op rs ra v a.core.val a.slot s = .done u := by
    have hy : (if storeIsFp op then getF x rs else getG x rs) = y := if_congr (storeIsFp_iff op) rfl rfl
    simp only [effStore, show lsCheck (getCore s a.core.val) a.slot
      (lsAddr (getG (coreSlot (getCore s a.core.val) a.slot) ra) v).toNat (storeSize op) (storeSize op) = none from hcheck]
    change commitSlot (setCore s a.core.val (lsWrite c addr (leBytes (storeSize op)
      (if storeIsFp op then getF x rs else getG x rs).toNat) false)) a.core.val a.slot x = _
    rw [hy, ← hbs, hwrite]
    rfl
  have hcore : getCore u a.core.val = { setCoreSlot c a.slot { x with pc := nextPc x.pc } with ls := memWrite c.ls addr bs } := by
    rw [hu, getCore_setSlot, getCore_setCore, setCoreSlot_ls]
  have hslot : theSlot (stepDone u a.core.val a.slot) a = { x with pc := x.pc + 4#48 } := by
    rw [theSlot_stepDone, hu]
    exact getSlot_setSlot ..
  refine ⟨_, commit_done (ch := {}) h he, ?_⟩
  rw [afterCommit_plain rfl]
  set c' := getCore (stepDone u a.core.val a.slot) a.core.val
  have hc' : c' = { setCoreSlot c a.slot { x with pc := nextPc x.pc } with
      ls := memWrite c.ls addr bs, stepping := c'.stepping, skipBp := c'.skipBp } := by
    have hstep := getCore_stepDone u a.core.val a.slot
    rwa [hcore] at hstep
  have hls : c'.ls = memWrite c.ls addr bs := by rw [hc']
  refine ⟨hslot, fun i hi => ?_, fun k hk => ?_, ?_, rfl, fun m hm => ?_⟩
  · rw [hls, memGet_write_inside _ _ _ _ (by omega), leBytes_getElem]
  · rw [hls, memGet_write_outside _ _ _ _ (by omega)]
  · rw [hslot, hls]
    exact hc'
  · rw [getCore_stepDone_ne _ _ _ _ hm, hu, getCore_setSlot_ne _ _ _ hm, getCore_setCore_ne _ _ hm]

/-! ### Special registers (R151 to R153, Table 3.2) -/

/-- MFSR of a special register that exists commits with its value; of GTIME it takes the snapshot first (R543). -/
theorem effMfsr_done {rd : Reg} {sr : BitVec 8} {n : Nat} {i : SlotId} {s : State} {y : W64}
    (hy : specialReg s n i sr.toNat = some y) (hcop : sr.toNat = 0x08 → copPending (getSlot s n i) = false) :
    effMfsr rd sr n i s = commitSlot s n i { setG (getSlot s n i) rd y with
      snap := if sr.toNat = 0x05 then s.now else (getSlot s n i).snap } := by
  have hwait : ¬(sr.toNat = 0x08 && copPending (getSlot s n i)) = true := by simpa using hcop
  have hset (x : Slot) (m : Snap) : setG { x with snap := m } rd y = { setG x rd y with snap := m } := by
    unfold setG; split <;> rfl
  have hsnap (x : Slot) : (setG x rd y).snap = x.snap := by unfold setG; split <;> rfl
  simp only [effMfsr, hy, if_neg hwait]
  split
  · rw [hset]
  · rw [← hsnap]

/-- Settles O11: each special register of Table 3.2 has its value, and MTSR writes the three it may. -/
theorem specialRegisterMoves : Obligations.SpecialRegisterMoves := by
  intro a rd ra sr s x v owed
  refine ⟨fun y hy h hcop => ?_, fun h => ⟨?_, ?_, ?_⟩⟩
  · have hval : specialReg s a.core.val a.slot sr.toNat = some y := by
      simp only [List.mem_cons, Prod.mk.injEq, List.not_mem_nil, or_false] at hy
      rcases hy with ⟨hsr, rfl⟩ | ⟨hsr, rfl⟩ | ⟨hsr, rfl⟩ | ⟨hsr, rfl⟩ | ⟨hsr, rfl⟩ | ⟨hsr, rfl⟩ | ⟨hsr, rfl⟩ | ⟨hsr, rfl⟩ | ⟨hsr, rfl⟩
        | ⟨hsr, rfl⟩ | ⟨hsr, rfl⟩
      case inr.inr.inl | inr.inr.inr.inl => rw [hsr]; cases a.slot <;> rfl
      all_goals rw [hsr]; rfl
    obtain ⟨t, ht, hslot, honly⟩ := commit_slot (ch := {}) h rfl (effMfsr_done hval hcop)
    refine ⟨t, ht, hslot.trans ?_, honly⟩
    rw [setG_pc]
    rfl
  · rintro rfl
    exact commit_slot (ch := {}) h rfl rfl
  · rintro rfl hcop
    exact commit_slot (ch := {}) h rfl (if_neg (Bool.eq_false_iff.1 hcop))
  · rintro rfl hfrm
    exact commit_slot (ch := {}) h rfl (if_neg hfrm)

/-! ### Floating point (R154 to R167) -/

/-- The rounding mode of FRM (R154). -/
theorem frmMode_eq (frm : BitVec 2) :
    frmMode frm = if frm = 1#2 then Rm.zero else if frm = 2#2 then Rm.stochastic else Rm.nearest := by
  revert frm; decide

/-- R160: the threshold and the slot of a rounding, by whether its mode is stochastic. -/
theorem slotThreshold_eq (x : Slot) (m : Rm) : slotThreshold x m
    = (if m = .stochastic then lfsrThreshold (lfsrStep x.lfsr) else 0, if m = .stochastic then { x with lfsr := lfsrStep x.lfsr } else x) := by
  cases m <;> rfl

/-- A rounding instruction: the result of `r` under mode `m` goes to a register of the slot by `put`, and its flags to FFLAGS. -/
def effRounded (s : State) (n : Nat) (i : SlotId) (m : Rm) (r : Threshold → W64 × Flags) (put : Slot → W64 → Slot) : Eff :=
  let p := slotThreshold (getSlot s n i) m
  let z := r p.1
  commitSlot s n i (put (orFflags p.2 z.2) z.1)

/-- A register write commutes with the other fields of the slot. -/
structure PutsRegister (put : Slot → W64 → Slot) : Prop where
  fflags : ∀ y v f, put { y with fflags := f } v = { put y v with fflags := f }
  pc : ∀ y v, (put y v).pc = y.pc

theorem putsRegister_setG (rd : Reg) : PutsRegister fun y v => setG y rd v :=
  ⟨fun y v f => by unfold setG; split <;> rfl, fun y v => setG_pc y rd v⟩

theorem putsRegister_setF (rd : Reg) : PutsRegister fun y v => setF y rd v := ⟨fun _ _ _ => rfl, fun _ _ => rfl⟩

/-- A rounding instruction at the gate commits with its result, its flags OR-ed, and the LFSR stepped once under a stochastic
mode. -/
theorem commit_rounded {w : Wew} {ch : Choice} {a : At} {s : State} {m : Rm} {r : Threshold → W64 × Flags}
    {put : Slot → W64 → Slot} (h : AtGate a w s) (hw : engineWork w = false) (hput : PutsRegister put)
    (he : wewEffect w ch a.core.val a.slot s = effRounded s a.core.val a.slot m r put) :
    let x := theSlot s a
    let y := if m = .stochastic then { x with lfsr := lfsrStep x.lfsr } else x
    let z := r (if m = .stochastic then lfsrThreshold (lfsrStep x.lfsr) else 0)
    ∃ t, commit w ch a s = .next t ∧ theSlot t a = { put y z.1 with fflags := x.fflags ||| z.2, pc := x.pc + 4#48 }
      ∧ OnlySlot a s t := by
  intro x y z
  obtain ⟨t, ht, hslot, honly⟩ := commit_slot h hw he
  refine ⟨t, ht, hslot.trans ?_, honly⟩
  have hp : slotThreshold (getSlot s a.core.val a.slot) m
      = ((if m = .stochastic then lfsrThreshold (lfsrStep x.lfsr) else 0), y) := slotThreshold_eq ..
  have hfl : y.fflags = x.fflags := by dsimp only [y]; split <;> rfl
  have hpc : (put y z.1).pc = x.pc := (hput.pc y z.1).trans (by dsimp only [y]; split <;> rfl)
  have hwrite : put (orFflags y z.2) z.1 = { put y z.1 with fflags := x.fflags ||| z.2 } := by
    rw [orFflags, hput.fflags, hfl]
  rw [hp]
  change { put (orFflags y z.2) z.1 with pc := (put (orFflags y z.2) z.1).pc + 4#48 } = _
  rw [hwrite, ← hpc]

/-- The scalar operations that round by FRM. -/
theorem fpRounds_iff (op : FpOp) : fpRounds op = true ↔ op = .fadd ∨ op = .fsub ∨ op = .fmul := by cases op <;> decide

theorem fpToG_iff (op : FpOp) : fpToG op = true ↔ op = .feq ∨ op = .flt ∨ op = .fle ∨ op = .fmvg := by cases op <;> decide

theorem effFp_eq (op : FpOp) (p : Bool) (rd ra rb : Reg) (n : Nat) (i : SlotId) (s : State) :
    effFp op p rd ra rb n i s = effRounded s n i (if fpRounds op = true then frmMode (getSlot s n i).frm else .nearest)
      (fun r => fpResult op p (if fpRounds op = true then frmMode (getSlot s n i).frm else .nearest) r
        (if op = .fmvf then getG (getSlot s n i) ra else getF (getSlot s n i) ra) (getF (getSlot s n i) rb))
      (fun y v => if fpToG op = true then setG y rd v else setF y rd v) := by
  simp only [effFp, effRounded]
  generalize (if fpRounds op = true then frmMode (getSlot s n i).frm else .nearest) = m
  cases m <;> rfl

theorem effFma_eq (p : Bool) (rd ra rb rc : Reg) (n : Nat) (i : SlotId) (s : State) :
    effFma p rd ra rb rc n i s = effRounded s n i (frmMode (getSlot s n i).frm)
      (fun r => fmaResult p (frmMode (getSlot s n i).frm) r (getF (getSlot s n i) ra) (getF (getSlot s n i) rb)
        (getF (getSlot s n i) rc)) (fun y v => setF y rd v) := by
  simp only [effFma, effRounded]
  generalize frmMode (getSlot s n i).frm = m
  cases m <;> rfl

theorem effFcvtx_eq {fmt : BitVec 4} {k : BitVec 2} {t : ElemSpec} {m : Rm} (ht : scalarFmt fmt = some t)
    (hm : rmOfCode k.toNat = some m) (rd ra : Reg) (sat : Bool) (n : Nat) (i : SlotId) (s : State) :
    effFcvtx rd ra fmt k sat n i s = effRounded s n i m (fun r => fcvtxResult t m sat r (getF (getSlot s n i) ra))
      (fun y v => setG y rd v) := by
  simp only [effFcvtx, ht, hm, effRounded]
  cases m <;> rfl

theorem effFcvtf_eq {fmt : BitVec 4} {t : ElemSpec} (ht : scalarFmt fmt = some t) (rd ra : Reg) (n : Nat) (i : SlotId)
    (s : State) : effFcvtf rd ra fmt n i s
      = effRounded s n i .nearest (fun _ => fcvtfResult t (getG (getSlot s n i) ra)) (fun y v => setF y rd v) := by
  simp only [effFcvtf, ht, effRounded]
  rfl

theorem effFcvtDS_eq (rd ra : Reg) (n : Nat) (i : SlotId) (s : State) : effFcvtDS rd ra n i s
    = effRounded s n i .nearest (fun _ => fcvtDSResult (getF (getSlot s n i) ra)) (fun y v => setF y rd v) := rfl

section Conversions
variable {k : BitVec 2} {m : Rm} (hm : rmOfCode k.toNat = some m) (rd ra : Reg) (sat : Bool) (n : Nat) (i : SlotId) (s : State)
include hm

theorem effFcvtLD_eq : effFcvtLD rd ra k sat n i s
    = effRounded s n i m (fun r => fcvtLDResult m sat r (getF (getSlot s n i) ra)) (fun y v => setG y rd v) := by
  simp only [effFcvtLD, hm, effRounded]
  cases m <;> rfl

theorem effFcvtDL_eq : effFcvtDL rd ra k n i s
    = effRounded s n i m (fun r => fcvtDLResult m r (getG (getSlot s n i) ra)) (fun y v => setF y rd v) := by
  simp only [effFcvtDL, hm, effRounded]
  cases m <;> rfl

theorem effFcvtSD_eq : effFcvtSD rd ra k sat n i s
    = effRounded s n i m (fun r => fcvtSDResult m sat r (getF (getSlot s n i) ra)) (fun y v => setF y rd v) := by
  simp only [effFcvtSD, hm, effRounded]
  cases m <;> rfl

end Conversions

/-- Settles O13: each form is a rounding under its mode, with its own result and destination. -/
theorem floatingPointCommits : Obligations.FloatingPointCommits := by
  intro a p rd ra rb rc f k sat s x frm commits g h
  have hg : PutsRegister g := putsRegister_setG rd
  have hh : PutsRegister h := putsRegister_setF rd
  have hfrm : frmMode x.frm = frm := frmMode_eq x.frm
  refine ⟨fun op hgate => ?_, fun hgate => ?_, fun t m ht hm hgate => ?_, fun t ht hgate => ?_,
    fun m hm => ⟨fun hgate => ?_, fun hgate => ?_, fun hgate => ?_⟩, fun hgate => ?_⟩
  · have hmode : (if fpRounds op = true then frmMode x.frm else .nearest)
        = if op = .fadd ∨ op = .fsub ∨ op = .fmul then frm else .nearest := by
      rw [hfrm]; exact if_congr (fpRounds_iff op) rfl rfl
    have hdst : (fun y v => if fpToG op = true then setG y rd v else setF y rd v)
        = if op = .feq ∨ op = .flt ∨ op = .fle ∨ op = .fmvg then g else h := by
      simp only [← fpToG_iff]
      split <;> rfl
    have he := effFp_eq op p rd ra rb a.core.val a.slot s
    rw [show (getSlot s a.core.val a.slot).frm = x.frm from rfl, hmode, hdst] at he
    refine commit_rounded (ch := {}) hgate rfl ?_ he
    split
    · exact hg
    · exact hh
  · have he := effFma_eq p rd ra rb rc a.core.val a.slot s
    rw [show (getSlot s a.core.val a.slot).frm = x.frm from rfl, hfrm] at he
    exact commit_rounded (ch := {}) hgate rfl hh he
  · exact commit_rounded (ch := {}) hgate rfl hg (effFcvtx_eq ht hm rd ra sat _ _ s)
  · exact commit_rounded (ch := {}) hgate rfl hh (effFcvtf_eq ht rd ra _ _ s)
  · exact commit_rounded (ch := {}) hgate rfl hg (effFcvtLD_eq hm rd ra sat _ _ s)
  · exact commit_rounded (ch := {}) hgate rfl hh (effFcvtDL_eq hm rd ra _ _ s)
  · exact commit_rounded (ch := {}) hgate rfl hh (effFcvtSD_eq hm rd ra sat _ _ s)
  · exact commit_rounded (ch := {}) hgate rfl hh (effFcvtDS_eq rd ra _ _ s)

/-! ### Conversions with a bad field (R132, R165) -/

theorem scalarFmt_none {f : BitVec 4} (h : 0xC ≤ f.toNat) : scalarFmt f = none := by
  revert h; revert f; decide

/-- Settles O14: no conversion has a meaning for those fields. -/
theorem badConversionTraps : Obligations.BadConversionTraps := by
  intro a rd ra f k sat s
  refine ⟨fun hgate hbad => ?_, fun hgate hf => ?_, ?_, ?_, ?_⟩
  · refine commit_trapTaken (ch := {}) hgate ?_
    obtain hf | rfl := hbad
    · simp only [wewEffect, effFcvtx, scalarFmt_none hf]
    · change (match scalarFmt f, (none : Option Rm) with | some t, some m => _ | _, _ => _) = _
      cases scalarFmt f <;> rfl
  · refine commit_trapTaken (ch := {}) hgate ?_
    simp only [wewEffect, effFcvtf, scalarFmt_none hf]
  · rintro rfl hgate
    exact commit_trapTaken (ch := {}) hgate rfl
  · rintro rfl hgate
    exact commit_trapTaken (ch := {}) hgate rfl
  · rintro rfl hgate
    exact commit_trapTaken (ch := {}) hgate rfl

end Sys2Proof.Machine

/-! PROOFS. The family of spec/03 to spec/05, waits, traps, the coprocessor, retirement reports and waiting instructions. -/

namespace Sys2Proof.Machine

set_option Elab.async false

/-! ### Fields of a register value -/

/-- A field write in numbers: the field is replaced, and what lies above and below it stays. -/
theorem fSet_toNat (v : W64) {lsb w : Nat} (h : lsb + w ≤ 64) (x : Nat) :
    (fSet v lsb w x).toNat
      = 2 ^ lsb * (2 ^ w * (v.toNat / 2 ^ lsb / 2 ^ w) + x % 2 ^ w) + v.toNat % 2 ^ lsb := by
  obtain ⟨k, hk⟩ := Nat.exists_eq_add_of_le h
  have hA : 0 < 2 ^ lsb := Nat.two_pow_pos lsb
  have hB : 0 < 2 ^ w := Nat.two_pow_pos w
  have hx : x % 2 ^ w < 2 ^ w := Nat.mod_lt x hB
  have hlo : v.toNat % 2 ^ lsb < 2 ^ lsb := Nat.mod_lt _ hA
  have hv : v.toNat = 2 ^ lsb * (2 ^ w * (v.toNat / 2 ^ lsb / 2 ^ w) + fGet v lsb w) + v.toNat % 2 ^ lsb := by
    rw [fGet, Nat.shiftRight_eq_div_pow, Nat.div_add_mod, Nat.div_add_mod]
  have htop : v.toNat / 2 ^ lsb / 2 ^ w < 2 ^ k := by
    rw [Nat.div_div_eq_div_mul, Nat.div_lt_iff_lt_mul (by positivity), ← pow_add, ← pow_add, show k + (lsb + w) = 64 by omega]
    exact v.isLt
  generalize v.toNat / 2 ^ lsb / 2 ^ w = hi at *
  have hbound : 2 ^ lsb * (2 ^ w * hi + x % 2 ^ w) + v.toNat % 2 ^ lsb < 2 ^ 64 := by
    calc 2 ^ lsb * (2 ^ w * hi + x % 2 ^ w) + v.toNat % 2 ^ lsb
        < 2 ^ lsb * (2 ^ w * hi + x % 2 ^ w + 1) := by rw [Nat.mul_add_one]; omega
      _ ≤ 2 ^ lsb * (2 ^ w * (hi + 1)) := Nat.mul_le_mul_left _ (by rw [Nat.mul_add_one]; omega)
      _ ≤ 2 ^ lsb * (2 ^ w * 2 ^ k) := Nat.mul_le_mul_left _ (Nat.mul_le_mul_left _ htop)
      _ = 2 ^ 64 := by rw [← pow_add, ← pow_add, hk, Nat.add_assoc]
  have hsub : v.toNat - fGet v lsb w * 2 ^ lsb + x % 2 ^ w * 2 ^ lsb
      = 2 ^ lsb * (2 ^ w * hi + x % 2 ^ w) + v.toNat % 2 ^ lsb := by
    rw [Nat.mul_comm _ (2 ^ lsb), Nat.mul_comm _ (2 ^ lsb)]
    rw [Nat.mul_add] at hv ⊢
    omega
  rw [fSet, BitVec.toNat_ofNat, hsub, Nat.mod_eq_of_lt hbound]

theorem fGet_eq (v : W64) (lsb w : Nat) : fGet v lsb w = v.toNat / 2 ^ lsb % 2 ^ w := by
  rw [fGet, Nat.shiftRight_eq_div_pow]

/-- A field holds what is written to it. -/
theorem fGet_fSet (v : W64) {lsb w : Nat} (h : lsb + w ≤ 64) (x : Nat) : fGet (fSet v lsb w x) lsb w = x % 2 ^ w := by
  have hA : 0 < 2 ^ lsb := Nat.two_pow_pos lsb
  rw [fGet_eq, fSet_toNat v h, Nat.mul_add_div hA, Nat.div_eq_of_lt (Nat.mod_lt _ hA), Nat.add_zero, Nat.mul_add_mod,
    Nat.mod_mod]

/-- A field below the written one stays. -/
theorem fGet_fSet_below (v : W64) {lsb w l n : Nat} (h : lsb + w ≤ 64) (hl : l + n ≤ lsb) (x : Nat) :
    fGet (fSet v lsb w x) l n = fGet v l n := by
  obtain ⟨k, rfl⟩ := Nat.exists_eq_add_of_le hl
  have hlow : (fSet v (l + n + k) w x).toNat % 2 ^ (l + n + k) = v.toNat % 2 ^ (l + n + k) := by
    rw [fSet_toNat v h, Nat.mul_add_mod, Nat.mod_mod]
  have hfield (y : Nat) : y / 2 ^ l % 2 ^ n = y % 2 ^ (l + n + k) / 2 ^ l % 2 ^ n := by
    rw [show l + n + k = l + (n + k) by omega, pow_add, Nat.mod_mul_right_div_self, pow_add, Nat.mod_mul_right_mod]
  rw [fGet_eq, fGet_eq, hfield, hlow, ← hfield]

/-- A field above the written one stays. -/
theorem fGet_fSet_above (v : W64) {lsb w l n : Nat} (h : lsb + w ≤ 64) (hl : lsb + w ≤ l) (x : Nat) :
    fGet (fSet v lsb w x) l n = fGet v l n := by
  obtain ⟨k, rfl⟩ := Nat.exists_eq_add_of_le hl
  have hA : 0 < 2 ^ lsb := Nat.two_pow_pos lsb
  have hB : 0 < 2 ^ w := Nat.two_pow_pos w
  have hhigh : (fSet v lsb w x).toNat / 2 ^ (lsb + w) = v.toNat / 2 ^ (lsb + w) := by
    rw [fSet_toNat v h, pow_add, ← Nat.div_div_eq_div_mul, Nat.mul_add_div hA, Nat.div_eq_of_lt (Nat.mod_lt _ hA), Nat.add_zero,
      Nat.mul_add_div hB, Nat.div_eq_of_lt (Nat.mod_lt _ hB), Nat.add_zero, Nat.div_div_eq_div_mul]
  rw [fGet_eq, fGet_eq, pow_add _ (lsb + w), ← Nat.div_div_eq_div_mul, hhigh, Nat.div_div_eq_div_mul]


/-! ### The coprocessor (R100, R103, R104, R161 to R163) -/

/-- A slot moves while the busy count of its serving core rises. -/
theorem movesSlot_bump (a : At) (x : Slot) (s : State) (k : Nat) :
    MovesSlot a x [regAddr .seqCopbusy (servingCore s a) 0 0] s
      (setSlot (bump s .seqCopbusy (servingCore s a) 0 0 k) a.core.val a.slot x) :=
  ⟨rfl, fun _ hk => spGet_regs_setReg_ne _ _ _ _ _ _ (List.ne_of_not_mem_cons hk), fun _ => rfl⟩

/-- An operation that commits enters the pipeline, and its cycles are counted. -/
theorem commit_cop {w : Wew} {a : At} {s : State} {y : Slot} {k : Nat} (h : AtGate a w s) (hw : engineWork w = false)
    (he : wewEffect w {} a.core.val a.slot s
      = commitSlot (bump s .seqCopbusy (servingCore s a) 0 0 k) a.core.val a.slot y) :
    ∃ t, commit w {} a s = .next t ∧ theSlot t a = { y with pc := y.pc + 4#48 }
      ∧ regVal t .seqCopbusy (servingCore s a) 0 0 = regVal s .seqCopbusy (servingCore s a) 0 0 + BitVec.ofNat 64 k
      ∧ OnlySlotAndRegs a [regAddr .seqCopbusy (servingCore s a) 0 0] s t := by
  obtain ⟨t, ht, hslot, hregs, honly⟩ := commit_moves h hw he (movesSlot_bump a _ s k)
  exact ⟨t, ht, hslot, (regVal_congr hregs ..).trans (regVal_bump ..), honly⟩

/-- R104: a squashed operation occupies the pipeline and the busy count, and nothing else. -/
theorem copSquashed_effect (sqrt : Bool) (rd : Reg) (a : At) (s : State) :
    let t := copSquashed sqrt rd a.core.val a.slot s
    theSlot t a = { theSlot s a with cop := (theSlot s a).cop ++ [⟨rd, sqrt, true, 0#64, 0#8⟩] }
      ∧ regVal t .seqCopbusy (servingCore s a) 0 0
        = regVal s .seqCopbusy (servingCore s a) 0 0 + BitVec.ofNat 64 (copCycles sqrt)
      ∧ OnlySlotAndRegs a [regAddr .seqCopbusy (servingCore s a) 0 0] s t :=
  ⟨getSlot_modSlot .., regVal_bump ..,
    onlySlot_modSlot s a fun x => { x with cop := x.cop ++ [⟨rd, sqrt, true, 0#64, 0#8⟩] },
    fun _ hk => spGet_regs_setReg_ne _ _ _ _ _ _ (List.ne_of_not_mem_cons hk), fun _ => rfl⟩

theorem copDue_of_oldest {x : Slot} {k : Nat} {o : CopOp} (ho : x.cop[k]? = some o)
    (hold : ∀ e ∈ x.cop.take k, e.sqrt ≠ o.sqrt) : copDue x k = true := by
  simp only [copDue, ho, List.all_eq_true, bne_iff_ne]
  exact hold

theorem copWrite_eq {x : Slot} {k : Nat} {o : CopOp} (ho : x.cop[k]? = some o) :
    copWrite x k = if o.discard = true then { x with cop := x.cop.eraseIdx k }
      else { setF x o.rd o.result with fflags := x.fflags ||| o.flags, cop := x.cop.eraseIdx k } := by
  simp only [copWrite, ho]
  rfl

theorem slotThreshold_cop (x : Slot) (m : Rm) : (slotThreshold x m).2.cop = x.cop ∧ (slotThreshold x m).2.pc = x.pc
    ∧ (slotThreshold x m).2.f = x.f := by
  cases m <;> exact ⟨rfl, rfl, rfl⟩

theorem effCop_eq (sqrt : Bool) (rd ra rb : Reg) (n : Nat) (i : SlotId) (s : State) :
    let x := getSlot s n i
    let m := frmMode x.frm
    let th := (slotThreshold x m).1
    let q := if sqrt = true then sqrtResult m th (getF x ra) else divResult m th (getF x ra) (getF x rb)
    effCop sqrt rd ra rb n i s = commitSlot (bump s .seqCopbusy (physOf s n) 0 0 (copCycles sqrt)) n i
      { (slotThreshold x m).2 with cop := x.cop ++ [⟨rd, sqrt, false, q.1, q.2⟩] } := by
  intro x m th q
  obtain ⟨hcop, -, hf⟩ := slotThreshold_cop x m
  have hget (r : Reg) : getF (slotThreshold x m).2 r = getF x r := by rw [getF, hf, getF]
  simp only [effCop]
  change commitSlot _ n i { (slotThreshold x m).2 with cop := (slotThreshold x m).2.cop ++ [⟨rd, sqrt, false, _, _⟩] } = _
  rw [hcop, hget, hget]

/-- Settles O15: an operation enters the pipeline with or without a result, and leaves it when it is the oldest of its kind. -/
theorem coprocessorOperations : Obligations.CoprocessorOperations := by
  intro a rd ra rb s x m th y busy busyAt starts q r
  obtain ⟨-, hpc, -⟩ := slotThreshold_cop x m
  refine ⟨fun h => ?_, fun h => ?_, fun hruns => ⟨?_, ?_⟩, fun k o ho hold => ?_⟩
  · obtain ⟨t, ht, hslot, hbusy, honly⟩ := commit_cop h rfl (effCop_eq false rd ra rb a.core.val a.slot s)
    refine ⟨t, ht, hslot.trans ?_, hbusy, honly⟩
    rw [← hpc]
    rfl
  · obtain ⟨t, ht, hslot, hbusy, honly⟩ := commit_cop h rfl (effCop_eq true rd ra ra a.core.val a.slot s)
    refine ⟨t, ht, hslot.trans ?_, hbusy, honly⟩
    rw [← hpc]
    rfl
  · exact ⟨_, whenDue_pos hruns .., copSquashed_effect false rd a s⟩
  · exact ⟨_, whenDue_pos hruns .., copSquashed_effect true rd a s⟩
  · refine ⟨_, whenDue_pos (copDue_of_oldest ho hold) .., ?_, onlySlot_modSlot ..⟩
    exact (getSlot_modSlot ..).trans (copWrite_eq ho)

/-! ### Waits and status reads (R222 to R224) -/

/-- An instruction without an operand block that waits at the gate becomes the held instruction of its slot. -/
theorem commit_waits {w : Wew} {ch : Choice} {a : At} {s : State} {why : Stall} (h : AtGate a w s)
    (hb : ∀ t n i, blockRead t n i w = none) (he : wewEffect w ch a.core.val a.slot s = .hold why) :
    ∃ t, commit w ch a s = .next t
      ∧ theSlot t a = { theSlot s a with held := some ⟨why, w, none⟩, timeUp := false } ∧ OnlySlot a s t := by
  refine ⟨_, commit_hold h he, ?_, (onlySlot_modSlot s a _).trans (onlySlot_modSlot _ a _)⟩
  rw [holdAt, theSlot, getSlot_modSlot, getSlot_modSlot, hb]
  rfl

theorem handleStale_iff (s : State) (n : Nat) (i : SlotId) (v : W64) : handleStale s n i v = true
    ↔ (getTag s (v.toNat % 4096)).gen.toNat ≠ v.toNat / 4096 % 16 ∨ (getTag s (v.toNat % 4096)).owner ≠ some (n, i) := by
  simp [handleStale]

/-- Settles O21: each of the instructions by the condition it reads. -/
theorem waitsAndStatusReads : Obligations.WaitsAndStatusReads := by
  intro a rd ra s n x v tag stale writes holds
  have hstale : handleStale s n a.slot v = true ↔ stale := handleStale_iff ..
  refine ⟨fun h hok => ?_, fun hruns hheld hdue => ?_, fun h => ⟨fun hs => ?_, fun hs hfree => ?_, fun hs hbusy => ?_⟩,
    fun h => ⟨fun hs => ?_, fun hs => ?_⟩, fun h => ?_⟩
  · have hok' : (!timeOk v.toNat) = false := by rw [timeOk, decide_eq_true hok]; rfl
    have he : effTwait ra n a.slot s = if reached s v.toNat then commitSlot s n a.slot x else .hold .sync := by
      rw [effTwait, if_neg (by rw [show getG (getSlot s n a.slot) ra = v from rfl, hok']; exact Bool.false_ne_true)]
      rfl
    by_cases hnow : v.toNat ≤ nowOp s
    · obtain ⟨t, ht, hslot⟩ := commit_slot (ch := {}) h rfl (he.trans (if_pos (decide_eq_true hnow)))
      exact ⟨t, ht, (if_pos hnow).mpr hslot⟩
    · obtain ⟨t, ht, hslot⟩ := commit_waits (ch := {}) h (fun _ _ _ => rfl)
        (he.trans (if_neg (by simpa [reached] using hnow)))
      exact ⟨t, ht, (if_neg hnow).mpr hslot⟩
  · obtain ⟨why, b, hheld⟩ := hheld
    have hdue' : twaitDue s n a.slot = true := by
      have hheld' : (getSlot s n a.slot).held = some ⟨why, .twait ra, b⟩ := hheld
      simp only [twaitDue, hheld', hruns, Bool.true_and, Bool.or_eq_true, reached, decide_eq_true_eq]
      exact hdue
    refine ⟨_, whenDue_pos hdue' .., ?_, ?_⟩
    · rw [twaitCommit, theSlot_stepDone]
      exact getSlot_modSlot ..
    · exact onlySlot_setSlot s a _
  · exact commit_result (ch := {}) h rfl (if_pos (hstale.2 hs))
  · exact commit_result (ch := {}) h rfl ((if_neg (mt hstale.1 hs)).trans (if_pos hfree))
  · exact commit_waits (ch := {}) h (fun _ _ _ => rfl) ((if_neg (mt hstale.1 hs)).trans (if_neg hbusy))
  · exact commit_result (ch := {}) h rfl (if_pos (hstale.2 hs))
  · exact commit_result (ch := {}) h rfl (if_neg (mt hstale.1 hs))
  · by_cases htag : slotHolds s n a.slot = true
    · obtain ⟨t, ht, hslot⟩ := commit_waits (ch := {}) h (fun _ _ _ => rfl) (if_pos htag)
      exact ⟨t, ht, (if_pos htag).mpr hslot⟩
    · obtain ⟨t, ht, hslot⟩ := commit_slot (ch := {}) h rfl (if_neg htag)
      exact ⟨t, ht, (if_neg htag).mpr hslot⟩

/-! ### A debug halt (R719) -/

section FoldCores
variable (f : Core → Core) (s : State)

/-- A change of each core of a list leaves everything but the cores. -/
theorem foldl_modCore_only (l : List Nat) : l.foldl (fun s m => modCore s m f) s
    = { s with cores := (l.foldl (fun s m => modCore s m f) s).cores } := by
  induction l generalizing s with
  | nil => rfl
  | cons m l ih =>
    rw [List.foldl_cons, ih]
    rfl

theorem getCore_foldl_modCore_of_notMem {l : List Nat} {n : Nat} (h : n ∉ l) :
    getCore (l.foldl (fun s m => modCore s m f) s) n = getCore s n := by
  induction l generalizing s with
  | nil => rfl
  | cons m l ih =>
    rw [List.mem_cons, not_or] at h
    rw [List.foldl_cons, ih _ h.2, getCore_modCore_ne _ _ h.1]

/-- Each core of the list is changed once. -/
theorem getCore_foldl_modCore {l : List Nat} {n : Nat} (h : n ∈ l) (hl : l.Nodup) :
    getCore (l.foldl (fun s m => modCore s m f) s) n = f (getCore s n) := by
  induction l generalizing s with
  | nil => cases h
  | cons m l ih =>
    rw [List.nodup_cons] at hl
    rw [List.foldl_cons]
    rcases List.mem_cons.1 h with rfl | hmem
    · rw [getCore_foldl_modCore_of_notMem f _ hl.1, getCore_modCore]
    · have hne : n ≠ m := fun e => hl.1 (e ▸ hmem)
      rw [ih _ hmem hl.2, getCore_modCore_ne _ _ hne]

end FoldCores

/-- A halted core: what it had not committed is fetched again on resume. -/
def haltedCore (k : Core) : Core :=
  { k with halted := true, stepping := none, bulk := haltSlot k.bulk, express := haltSlot k.express }

theorem haltServed_eq (s : State) (p : Nat) : haltServed s p = (servedBy s p).foldl (fun s m => modCore s m haltedCore) s := rfl

theorem nodup_servedBy (s : State) (p : Nat) : (servedBy s p).Nodup := List.nodup_range.filter _

theorem hostOf_congr {s t : State} {n : Nat} (h : regVal t .sbLmap 0 n 0 = regVal s .sbLmap 0 n 0) :
    hostOf t n = hostOf s n := by
  unfold hostOf regBit regFld
  rw [h]

theorem physOf_congr {s t : State} (h : t.regs = s.regs) (n : Nat) : physOf t n = physOf s n := by
  rw [physOf, hostOf_congr (regVal_congr h ..), physOf]

/-- A core that issues is mapped. -/
theorem hostOf_of_seqWorks {s : State} {n : Nat} (h : seqWorks s n = true) : ∃ p, hostOf s n = some p := by
  unfold seqWorks at h
  cases hh : hostOf s n with
  | none => rw [hh] at h; cases h
  | some p => exact ⟨p, rfl⟩

theorem mem_servedBy_physOf {s : State} {n p : Nat} (hn : n < 160) (h : hostOf s n = some p) : n ∈ servedBy s (physOf s n) := by
  simp [servedBy, physOf, h, hn]

theorem traceHaltTrigger_only (s : State) : traceHaltTrigger s = { s with trace := (traceHaltTrigger s).trace } := by
  unfold traceHaltTrigger
  split
  · exact traceTrigger_only s
  · rfl

theorem debugHalt_cores (s : State) (n : Nat) (bit : Option Nat) :
    (debugHalt s n bit).cores = (haltServed s (physOf s n)).cores := by
  unfold debugHalt
  dsimp only
  rw [traceHaltTrigger_only]
  cases bit <;> rfl

@[simp] theorem haltServed_regs (s : State) (p : Nat) : (haltServed s p).regs = s.regs := by
  rw [haltServed_eq, foldl_modCore_only]

/-- A debug halt with a cause writes its DBG_STATUS bit and no other register. -/
theorem debugHalt_regs (s : State) (n b : Nat) :
    (debugHalt s n (some b)).regs = (setFld s .dbgStatus (physOf s n) 0 0 b 1 1).regs := by
  unfold debugHalt
  dsimp only
  rw [traceHaltTrigger_only]
  simp only [setFld, setReg, regVal, haltServed_regs, physOf_congr (haltServed_regs s (physOf s n))]

/-! ### TRAP, BREAK and illegal words (R131, R168, R169) -/

/-- A trap writes the trap registers of its serving core alone. -/
theorem regVal_recordTrap_above (s : State) {n : Nat} (i : SlotId) (c : Trap) (pc : Pc) (v : W64) (hn : n < 160) {r : RegName}
    {u j k : Nat} (h : blkBase .dsp 0 ≤ regAddr r u j k) : regVal (recordTrap s n i c pc v) r u j k = regVal s r u j k := by
  obtain ⟨hlt, hlt', hlt''⟩ := regAddr_trap_lt (physOf_lt s hn)
  have hregs : regVal (recordTrap s n i c pc v) r u j k
      = regVal (setReg (setReg (setReg s .seqTrapcause (physOf s n) 0 0 _) .seqTrappc (physOf s n) 0 0 _)
          .seqTrapval (physOf s n) 0 0 _) r u j k :=
    regVal_congr (by rw [recordTrap, traceEv_only]) ..
  rw [hregs, regVal_setReg_ne _ _ (by omega), regVal_setReg_ne _ _ (by omega), regVal_setReg_ne _ _ (by omega)]

theorem haltSlot_of_held_none {x : Slot} (h : x.held = none) : haltSlot x = x := by
  have hx : x = { x with held := none } := by rw [← h]
  unfold haltSlot
  split
  · rfl
  · exact hx.symm

theorem coreSlot_haltedCore (c : Core) (i : SlotId) : coreSlot (haltedCore c) i = haltSlot (coreSlot c i) := by
  cases i <;> rfl

/-- BREAK in debug mode halts its core at itself, with the trap recorded (R169, log 50). -/
theorem break_halts {a : At} {s : State} (h : AtGate a .brk s) (hd : debugMode s = true) :
    Completes (.break_ a) s fun t => (getCore t a.core.val).halted = true ∧ theSlot t a = theSlot s a
      ∧ regVal t .seqTrapcause (servingCore s a) 0 0 = BitVec.ofNat 64 (8 + 256 * slotNum a.slot + 2 ^ 31)
      ∧ regBit t .dbgStatus (servingCore s a) 0 0 3 = true := by
  set u := recordTrap s a.core.val a.slot .brk (theSlot s a).pc 0#64 with hu
  have hn : a.core.val < 160 := a.core.isLt
  obtain ⟨⟨hcan, ⟨g, hseg, hx⟩, hbp⟩, hcop⟩ := h
  have hrun : seqWorks s a.core.val = true ∧ (theSlot s a).held = none := by
    simp only [canCommit, slotRuns, Bool.and_eq_true, Option.isNone_iff_eq_none] at hcan
    exact ⟨hcan.1.1.1.1.1.2, hcan.2⟩
  obtain ⟨p, hp⟩ := hostOf_of_seqWorks hrun.1
  have hhost : hostOf u a.core.val = hostOf s a.core.val := hostOf_congr (regVal_recordTrap_above _ _ _ _ _ hn (by
    simp only [regAddr, regInfo, blkBase]; omega))
  have hphys : physOf u a.core.val = servingCore s a := by rw [physOf, hhost]; rfl
  have hcore : getCore (debugHalt u a.core.val (some 3)) a.core.val = haltedCore (getCore s a.core.val) := by
    have hmem := mem_servedBy_physOf hn (hhost.trans hp)
    rw [getCore_congr (debugHalt_cores ..), haltServed_eq, getCore_foldl_modCore _ _ hmem (nodup_servedBy ..)]
    exact congrArg haltedCore (getCore_congr (by rw [hu, recordTrap, traceEv_only]; rfl) _)
  refine ⟨debugHalt u a.core.val (some 3), ?_, ?_, ?_, ?_, ?_⟩
  · change commit .brk {} a s = _
    have heff : wewEffect .brk {} a.core.val a.slot s = .halt := if_pos hd
    unfold theSlot at hcop
    simp [commit, hcan, hseg, hx, hbp, gate, hcop, heff, applyEff, hu, theSlot]
  · rw [hcore]; rfl
  · rw [theSlot, getSlot, hcore, coreSlot_haltedCore]
    exact haltSlot_of_held_none hrun.2
  · rw [regVal_congr (debugHalt_regs ..), hphys, setFld, regVal_setReg_ne]
    · obtain ⟨hcause, -, -⟩ := recordTrap_regs s a.core.val a.slot .brk (theSlot s a).pc 0#64 (physOf_lt s hn)
      rwa [show trapCode .brk = 8 from rfl] at hcause
    · simp only [regAddr, regInfo, blkBase]; omega
  · rw [regBit, regFld, regVal_congr (debugHalt_regs ..), hphys, setFld, regVal_setReg, fGet_fSet _ (by omega)]
    rfl

/-- A word without a meaning takes its trap at the gate. -/
theorem illegalInstr_traps {a : At} {s : State} {word : W32} {why : BadWord} (hbad : decodeWew word = .bad why)
    (h : GateOpen a s) : Completes (.illegalInstr a word) s (TrapTaken a .illegalInstr (word.setWidth 64) s) := by
  obtain ⟨hcan, ⟨g, hseg, hx⟩, hbp⟩ := h
  obtain ⟨htrap, -⟩ := takeFault_trapTaken (stepDone s a.core.val a.slot) a .illegalInstr (word.setWidth 64)
  unfold TrapTaken at htrap
  rw [theSlot_stepDone] at htrap
  refine ⟨_, ?_, htrap⟩
  change execIllegalInstr a word s = _
  simp [execIllegalInstr, hbad, hcan, hseg, hx, hbp]

/-- Settles O16: two traps at the gate, a halt in debug mode, and a word without a meaning. -/
theorem trapBreakAndIllegalWordTrap : Obligations.TrapBreakAndIllegalWordTrap := fun _ _ _ _ =>
  ⟨fun h => commit_trapTaken (ch := {}) h rfl, fun h hd => commit_trapTaken (ch := {}) h (if_neg (Bool.eq_false_iff.1 hd)),
    break_halts, fun _ => illegalInstr_traps⟩

end Sys2Proof.Machine

/-! PROOFS. The family of spec/03, reports and stalls: the sequencer observes a report, and a waiting instruction commits. -/

namespace Sys2Proof.Machine

set_option Elab.async false

/-! ### Retirement reports (R109, R111, R186) -/

/-- The tags, and the reports that wait at each core, stay as they are. -/
structure KeepsReports (s t : State) : Prop where
  tags : t.tags = s.tags
  reports : ∀ n, (getCore t n).reports = (getCore s n).reports

theorem KeepsReports.trans {s t u : State} (h : KeepsReports s t) (k : KeepsReports t u) : KeepsReports s u :=
  ⟨k.tags.trans h.tags, fun n => (k.reports n).trans (h.reports n)⟩

theorem KeepsReports.of_eq {s t : State} (ht : t.tags = s.tags) (hc : t.cores = s.cores) : KeepsReports s t :=
  ⟨ht, fun n => by rw [getCore_congr hc]⟩

theorem keepsReports_setCore (s : State) (n : Nat) (c : Core) (h : c.reports = (getCore s n).reports) :
    KeepsReports s (setCore s n c) := by
  refine ⟨rfl, fun m => ?_⟩
  by_cases hm : m = n
  · rw [hm, getCore_setCore, h]
  · rw [getCore_setCore_ne _ _ hm]

theorem keepsReports_modCore (s : State) (n : Nat) (f : Core → Core) (h : ∀ c, (f c).reports = c.reports) :
    KeepsReports s (modCore s n f) := keepsReports_setCore s n _ (h _)

theorem setCoreSlot_reports (c : Core) (i : SlotId) (x : Slot) : (setCoreSlot c i x).reports = c.reports := by
  cases i <;> rfl

theorem keepsReports_modSlot (s : State) (n : Nat) (i : SlotId) (f : Slot → Slot) : KeepsReports s (modSlot s n i f) :=
  keepsReports_setCore s n _ (setCoreSlot_reports ..)

theorem keepsReports_emitAt (rank : Nat) (s : State) (fn : Nat) (p : Post) : KeepsReports s (emitAt rank s fn p) := by
  obtain ⟨_, _, _, h, -⟩ := emitAt_adds rank s fn p
  rw [h]
  exact .of_eq rfl rfl

theorem keepsReports_measureRun (s : State) (d : DCmd) : KeepsReports s (measureRun s d) := by
  rw [measureRun_only]
  exact .of_eq rfl rfl

theorem keepsReports_sendVector (s : State) (v : Nat) : KeepsReports s (sendVector s v) := by
  obtain ⟨m, e⟩ | e := sendVector_cases s v <;> rw [e]
  · exact .of_eq rfl rfl
  · exact keepsReports_emitAt ..

theorem keepsReports_completeId (s : State) (id code detail detail2 : Nat) :
    KeepsReports s (completeId s id code detail detail2) := by
  unfold completeId
  split
  · next d _ =>
    obtain ⟨_, _, _, _, x, v, h⟩ := completeCmd_cases s d code detail detail2
    have hout (bytes : List Byte) : KeepsReports s (entryOut s d bytes) :=
      (keepsReports_emitAt ..).trans (keepsReports_measureRun ..)
    have hdrop (bytes : List Byte) : KeepsReports s (dropCmd (entryOut s d bytes) d x) := (hout bytes).trans (.of_eq rfl rfl)
    obtain h | h := h <;> rw [h]
    · exact hdrop _
    · exact (hdrop _).trans (keepsReports_sendVector ..)
  · exact .of_eq rfl rfl

theorem keepsReports_applyExpress (s : State) (n : Nat) : KeepsReports s (applyExpress s n) := by
  unfold applyExpress
  dsimp only
  split
  · exact .of_eq rfl rfl
  · split
    · exact .of_eq rfl rfl
    · split <;> exact keepsReports_setCore s n _ rfl

theorem keepsReports_slotIdle (s : State) (n : Nat) (i : SlotId) : KeepsReports s (slotIdle s n i) := by
  have hrelease : KeepsReports s (releaseHolds s n i) := by
    rw [releaseHolds_only]
    exact .of_eq rfl rfl
  refine ((hrelease.trans (keepsReports_modSlot _ n i idled)).trans (keepsReports_modCore _ n _ ?_)).trans
    (keepsReports_applyExpress ..)
  exact fun _ => rfl

theorem keepsReports_finishSlot (s : State) (n : Nat) (i : SlotId) : KeepsReports s (finishSlot s n i) := by
  obtain h | ⟨_, _, _, h⟩ := finishSlot_cases s n i <;> rw [h]
  · exact .of_eq rfl rfl
  · have htally : KeepsReports s (tallyRun s n i) := by
      rw [tallyRun_only]
      exact .of_eq rfl rfl
    exact (htally.trans (keepsReports_completeId ..)).trans (keepsReports_slotIdle ..)

/-- The head of the order is taken, and the tag is free with its status word. -/
def reportTaken (s : State) (n t : Nat) (w : W64) : State :=
  let s := modCore s n fun c => { c with reports := c.reports.drop 1 }
  setTag s t { getTag s t with st := .free, status := w }

theorem observe_eq (s : State) (n t : Nat) (w : W64) : observe s n t w =
    match (getTag s t).owner with
    | some (m, i) => finishSlot (modSlot (reportTaken s n t w) m i fun y =>
        { y with statsum := y.statsum ||| w.extractLsb' 16 8 }) m i
    | none => reportTaken s n t w := rfl

theorem keepsReports_observe (s : State) (n t : Nat) (w : W64) : KeepsReports (reportTaken s n t w) (observe s n t w) := by
  rw [observe_eq]
  split
  · exact (keepsReports_modSlot ..).trans (keepsReports_finishSlot ..)
  · exact .of_eq rfl rfl

theorem getSlot_reportTaken (s : State) (n t : Nat) (w : W64) (m : Nat) (i : SlotId) :
    getSlot (reportTaken s n t w) m i = getSlot s m i := by
  unfold getSlot reportTaken
  rw [getCore_setTag]
  by_cases hm : m = n
  · rw [hm, getCore_modCore]; cases i <;> rfl
  · rw [getCore_modCore_ne _ _ hm]

/-- Settles O18: the report is taken, and ending the slot's program touches neither the tags nor the reports nor STATSUM. -/
theorem retirementReportObserved : Obligations.RetirementReportObserved := by
  intro core tag w rest s hreports hobs
  have hkeeps := keepsReports_observe s core.val tag w
  have hexec : execRetirementReport core s = .next (observe s core.val tag w) := by
    simp only [execRetirementReport, hreports, hobs, whenDue_true]
  have htag : getTag (observe s core.val tag w) tag = { getTag s tag with st := .free, status := w } := by
    rw [getTag, hkeeps.tags]
    exact getTag_setTag ..
  refine ⟨_, hexec, by rw [htag], by rw [htag], by rw [htag], ?_, fun i howner => ?_⟩
  · rw [hkeeps.reports, reportTaken, getCore_setTag, getCore_modCore, hreports]
    rfl
  · have hstat := ((books_finishSlot (modSlot (reportTaken s core.val tag w) core.val i fun y =>
        { y with statsum := y.statsum ||| w.extractLsb' 16 8 }) core.val i).file core.val i).statsum
    rw [getSlot_modSlot, getSlot_reportTaken] at hstat
    simpa only [observe_eq, howner] using hstat

/-! ### A waiting instruction commits (R102) -/

/-- The slot of a command with nothing waiting. -/
def released (s : State) (a : At) : State := modSlot s a.core.val a.slot fun x => { x with held := none }

/-- What a waiting instruction comes to, once its cause has cleared. -/
theorem execCommitAfterStall_eq {a : At} {h : Held} {s : State} (tag : Fin 4096) (younger : Fin 5)
    (hruns : slotRuns s a.core.val a.slot = true) (hheld : (theSlot s a).held = some h) (hrow : ownRow h.word = false) :
    execCommitAfterStall a tag younger s
      = match gate h.word { tag := tag.val, younger := younger.val, blk := h.blk } a.core.val a.slot (released s a) with
        | .hold why => .next (holdAt h.word why h.blk a.core.val a.slot s)
        | e => applyEff e h.word a.core.val a.slot (released s a) := by
  unfold theSlot at hheld
  simp only [execCommitAfterStall, hheld, hruns, hrow, Bool.not_false, Bool.and_true, whenDue_true]
  rfl

theorem ownRow_eq_false {w : Wew} (hstop : w ≠ .stop) (htwait : ∀ ra, w ≠ .twait ra) : ownRow w = false := by
  cases w with
  | stop => exact absurd rfl hstop
  | twait ra => exact absurd rfl (htwait ra)
  | _ => rfl

/-- Settles O19: by what the gate makes of the word, in the state with nothing waiting. -/
theorem waitingInstructionCommits : Obligations.WaitingInstructionCommits := by
  intro a tag younger h s n free effect hruns hheld hstop htwait
  have hexec := execCommitAfterStall_eq tag younger hruns hheld (ownRow_eq_false hstop htwait)
  refine ⟨fun s' he => ?_, fun c v he => ?_, fun why he => ?_⟩ <;> (change gate _ _ _ _ (released s a) = _ at he; rw [he] at hexec)
  · exact ⟨_, hexec, rfl⟩
  · obtain ⟨htrap, -⟩ := takeFault_trapTaken (stepDone (released s a) a.core.val a.slot) a c v
    have hslot : theSlot (stepDone (released s a) a.core.val a.slot) a = { theSlot s a with held := none } := by
      rw [theSlot_stepDone]; exact getSlot_modSlot ..
    unfold TrapTaken at htrap
    rw [hslot] at htrap
    exact ⟨_, hexec, htrap⟩
  · refine ⟨_, hexec, ⟨_, getSlot_modSlot .., fun hb => ?_⟩, onlySlot_modSlot ..⟩
    obtain ⟨b, hb⟩ := Option.isSome_iff_exists.1 hb
    rw [hb]
    rfl

end Sys2Proof.Machine

/-! PROOFS. The family of what a function of the model changes: for every function over states, the parts of the state that it
may change (a frame lemma per function, each from the frame lemmas of the functions it calls). What every step and every event
keeps follows from these. -/

namespace Sys2Proof.Machine

set_option Elab.async false

/-! ### Parts of the state -/

/-- A part of the state: a field, or fields that belong together. `serial`, `dbgLock` and `canon` are facts within `nv` and `hbm`
that outlast some changes of these. -/
inductive Part where
  | variant | pending | regs | cores | tags | seq | reqs | hints | layers | mus | merge | problems | sm | slices | wayCmd
  | hbm | canon | poison | own | xlate | pend | px | epochs | priOut | remotes | inject | inbound | fab | time | nv | serial
  | dbgLock | power | test | host | log | trace | linkRetry | now | free
  deriving DecidableEq

/-- What it means that a part is kept. Of `canon`: memory that was canonical still is (log entry 6). -/
def Part.Kept (s t : State) : Part → Prop
  | .variant => t.variant = s.variant
  | .pending => t.pending = s.pending
  | .regs => t.regs = s.regs
  | .cores => t.cores = s.cores
  | .tags => t.tags = s.tags
  | .seq => t.seq = s.seq
  | .reqs => t.reqs = s.reqs ∧ t.nextReq = s.nextReq
  | .hints => t.hints = s.hints
  | .layers => t.layers = s.layers
  | .mus => t.mus = s.mus
  | .merge => t.barriers = s.barriers ∧ t.mergeNet = s.mergeNet ∧ t.rmus = s.rmus
  | .problems => t.problems = s.problems ∧ t.nextProblem = s.nextProblem ∧ t.solveNet = s.solveNet ∧ t.laneOff = s.laneOff
  | .sm => t.govWin = s.govWin ∧ t.sm = s.sm
  | .slices => t.slices = s.slices
  | .wayCmd => t.wayCmd = s.wayCmd
  | .hbm => t.hbm = s.hbm
  | .canon => memWf s.hbm = true → memWf t.hbm = true
  | .poison => t.hbmPoison = s.hbmPoison
  | .own => t.own = s.own
  | .xlate => t.looks = s.looks ∧ t.dtcG = s.dtcG ∧ t.dtcH = s.dtcH ∧ t.dtcFills = s.dtcFills ∧ t.batchOpen = s.batchOpen ∧ t.batchHeld = s.batchHeld ∧ t.hostSeq = s.hostSeq ∧ t.pxNone = s.pxNone ∧ t.ctrl = s.ctrl
  | .pend => t.pend = s.pend
  | .px => t.px = s.px
  | .epochs => t.epochs = s.epochs ∧ t.epoch = s.epoch
  | .priOut => t.priOut = s.priOut
  | .remotes => t.remotes = s.remotes
  | .inject => t.inject = s.inject
  | .inbound => t.inbound = s.inbound ∧ t.nextInbound = s.nextInbound ∧ t.winOld = s.winOld
  | .fab => t.fab = s.fab
  | .time => t.time = s.time
  | .nv => t.nv = s.nv
  | .serial => t.nv.serial = s.nv.serial
  | .dbgLock => t.nv.dbgLock = s.nv.dbgLock
  | .power => t.power = s.power
  | .test => t.test = s.test
  | .host => t.host = s.host
  | .log => t.log = s.log
  | .trace => t.trace = s.trace
  | .linkRetry => t.linkRetry = s.linkRetry ∧ t.ueTimes = s.ueTimes
  | .now => t.now = s.now
  | .free => t.free = s.free

/-- From `s` to `t` no part changes but those listed. -/
def Changes (l : List Part) (s t : State) : Prop := ∀ p, p ∉ l → p.Kept s t


/-- What an instruction that reaches the commit gate may change. -/
abbrev gateParts : List Part :=
  [.cores, .hints, .host, .inject, .layers, .merge, .mus, .problems, .px, .regs, .remotes, .reqs, .seq, .sm, .tags, .trace]

/-- What a write to a control register may change. -/
abbrev registerParts : List Part :=
  [.cores, .epochs, .fab, .free, .hbm, .hints, .host, .inbound, .inject, .layers, .log, .merge, .mus, .pend, .poison, .priOut,
    .problems, .px, .regs, .remotes, .reqs, .slices, .sm, .tags, .test, .time, .trace, .wayCmd, .xlate]

/-- What an access to device memory may change. -/
abbrev memoryParts : List Part :=
  [.free, .hbm, .log, .poison, .regs, .reqs, .slices, .trace]

/-- What a retirement may change. -/
abbrev retireParts : List Part :=
  [.cores, .host, .remotes, .reqs, .tags]

/-- What a flit at a port may change. -/
abbrev portParts : List Part :=
  [.fab, .inject, .log, .regs, .time, .trace]

/-- What the accesses of a lane, an injector or a transfer may change. -/
abbrev laneParts : List Part :=
  [.free, .hbm, .host, .log, .pend, .poison, .priOut, .px, .regs, .reqs, .slices, .trace, .xlate]

/-- What a management command may change. -/
abbrev mgmtParts : List Part :=
  [.free, .hbm, .host, .log, .nv, .poison, .power, .regs, .reqs, .slices, .sm, .time, .trace]

section
variable {l m : List Part} {s t u : State}

theorem Part.Kept.refl (p : Part) : p.Kept s s := by
  cases p <;> simp [Part.Kept]

theorem Part.Kept.trans {p : Part} (h : p.Kept s t) (h' : p.Kept t u) : p.Kept s u := by
  cases p <;> simp_all [Part.Kept]

theorem Changes.refl : Changes l s s := fun p _ => Part.Kept.refl p

/-- A change within fewer parts. -/
theorem Changes.of (h : Changes m s t) (hm : m ⊆ l := by decide) : Changes l s t := fun p hp => h p fun h' => hp (hm h')

/-- One change after another. -/
theorem Changes.comp (h : Changes l s t) (h' : Changes m t u) (hm : m ⊆ l := by decide) : Changes l s u :=
  fun p hp => (h p hp).trans (h' p fun hp' => hp (hm hp'))

theorem Changes.ite {c : Prop} [Decidable c] (h : Changes l s t) (h' : Changes l s u) :
    Changes l s (if c then t else u) := by
  split
  · exact h
  · exact h'

theorem Changes.ite_2 {α : Type} {c : Prop} [Decidable c] {x y : α × State} (h : Changes l s x.2) (h' : Changes l s y.2) :
    Changes l s (if c then x else y).2 := by
  split
  · exact h
  · exact h'

theorem Changes.ite_2_2 {α β : Type} {c : Prop} [Decidable c] {x y : α × β × State} (h : Changes l s x.2.2)
    (h' : Changes l s y.2.2) : Changes l s (if c then x else y).2.2 := by
  split
  · exact h
  · exact h'

theorem Changes.trans (h : Changes l s t) (h' : Changes l t u) : Changes l s u := fun p hp => (h p hp).trans (h' p hp)

/-- A change to every state over a list. -/
theorem Changes.foldl {β : Type} {f : State → β → State} {xs : List β} (h : Changes l s t)
    (hf : ∀ u x, Changes l u (f u x)) : Changes l s (xs.foldl f t) := by
  induction xs generalizing t with
  | nil => exact h
  | cons x xs ih => exact ih (fun p hp => (h p hp).trans (hf t x p hp))

/-- The same where the fold carries another value beside the state. -/
theorem Changes.foldl_2 {α β : Type} {f : α × State → β → α × State} {xs : List β} {a : α × State} (h : Changes l s a.2)
    (hf : ∀ r x, Changes l r.2 (f r x).2) : Changes l s (xs.foldl f a).2 := by
  induction xs generalizing a with
  | nil => exact h
  | cons x xs ih => exact ih (fun p hp => (h p hp).trans (hf a x p hp))

/-- A state that came out of a function beside other values. -/
theorem Changes.ofEq_2 {α : Type} {r : α × State} {a : α} (h : Changes l s r.2) (e : r = (a, t)) : Changes l s t := by
  subst e; exact h

theorem Changes.ofEq_2_2 {α β : Type} {r : α × β × State} {a : α} {b : β} (h : Changes l s r.2.2) (e : r = (a, b, t)) :
    Changes l s t := by
  subst e; exact h

/-! ### Functions that may answer no state -/

/-- The state a command answers, where it answers one, is `s` but for the parts listed. -/
def ResChanges (l : List Part) (s : State) (r : Res) : Prop := ∀ t, r = .next t → Changes l s t

/-- The same of an effect at the commit gate. -/
def EffChanges (l : List Part) (s : State) (e : Eff) : Prop := ∀ t, e = .done t → Changes l s t

/-- The same of a state that may be missing. -/
def OptChanges (l : List Part) (s : State) (o : Option State) : Prop := ∀ t, o = some t → Changes l s t

theorem OptChanges.ofEqOpt {o : Option State} (h : OptChanges l s o) (e : o = some t) : Changes l s t := h t e

theorem ResChanges.next {r : Res} (h : ResChanges l s r) (e : r = .next t) : Changes l s t := h t e

theorem ResChanges.of {r : Res} (h : ResChanges m s r) (hm : m ⊆ l := by decide) : ResChanges l s r :=
  fun t e => (h t e).of hm

theorem EffChanges.of {r : Eff} (h : EffChanges m s r) (hm : m ⊆ l := by decide) : EffChanges l s r :=
  fun t e => (h t e).of hm

theorem OptChanges.of {r : Option State} (h : OptChanges m s r) (hm : m ⊆ l := by decide) : OptChanges l s r :=
  fun t e => (h t e).of hm

theorem ResChanges.done (h : Changes l s t) : ResChanges l s (.next t) := by
  intro u e
  rw [← Host.Outcome.next.inj e]
  exact h

theorem EffChanges.done (h : Changes l s t) : EffChanges l s (.done t) := by
  intro u e
  rw [← Eff.done.inj e]
  exact h

theorem OptChanges.done (h : Changes l s t) : OptChanges l s (some t) := by
  intro u e
  rw [← Option.some.inj e]
  exact h

theorem ResChanges.ite {c : Prop} [Decidable c] {x y : Res} (h : ResChanges l s x) (h' : ResChanges l s y) :
    ResChanges l s (if c then x else y) := by
  split
  · exact h
  · exact h'

theorem EffChanges.ite {c : Prop} [Decidable c] {x y : Eff} (h : EffChanges l s x) (h' : EffChanges l s y) :
    EffChanges l s (if c then x else y) := by
  split
  · exact h
  · exact h'

theorem OptChanges.ite {c : Prop} [Decidable c] {x y : Option State} (h : OptChanges l s x) (h' : OptChanges l s y) :
    OptChanges l s (if c then x else y) := by
  split
  · exact h
  · exact h'

theorem ResChanges.comp {r : Res} (h : Changes l s t) (h' : ResChanges m t r) (hm : m ⊆ l := by decide) : ResChanges l s r :=
  fun u e => h.comp (h' u e) hm

theorem EffChanges.comp {r : Eff} (h : Changes l s t) (h' : EffChanges m t r) (hm : m ⊆ l := by decide) : EffChanges l s r :=
  fun u e => h.comp (h' u e) hm

theorem OptChanges.comp {r : Option State} (h : Changes l s t) (h' : OptChanges m t r) (hm : m ⊆ l := by decide) :
    OptChanges l s r :=
  fun u e => h.comp (h' u e) hm

theorem ResChanges.fault {f : Fault} : ResChanges l s (.fault f) := by
  simp [ResChanges]

theorem ResChanges.refused {f : Refusal} : ResChanges l s (.refused f) := by
  simp [ResChanges]

theorem EffChanges.trap {c : Trap} {v : W64} : EffChanges l s (.trap c v) := by
  simp [EffChanges]

theorem EffChanges.halt : EffChanges l s .halt := by
  simp [EffChanges]

theorem EffChanges.hold {w : Stall} : EffChanges l s (.hold w) := by
  simp [EffChanges]

theorem EffChanges.badTag : EffChanges l s .badTag := by
  simp [EffChanges]

theorem OptChanges.none : OptChanges l s none := by
  simp [OptChanges]

theorem ResChanges.need {b : Bool} {f : Fault} {r : Res} (h : ResChanges l s r) : ResChanges l s (need b f r) := by
  cases b with
  | true => exact h
  | false => exact .fault

/-- A command whose premise fails changes nothing. -/
theorem ResChanges.whenDue {b : Bool} {r : Res} (h : ResChanges l s r) : ResChanges l s (whenDue b s r) := by
  cases b with
  | true => exact h
  | false => exact .done .refl

end

/-! ### Assignments to fields -/

section
variable {s : State}

theorem sets_host {v_host} :
    Changes [.host] s
      { s with host := v_host } := by
  rintro ⟨⟩ hp <;> simp_all [Part.Kept]

theorem sets_many1 {v_hints  v_layers  v_barriers  v_mergeNet  v_rmus  v_dtcH  v_pend  v_batchOpen  v_px  v_pxNone} :
    Changes [.hints, .layers, .merge, .xlate, .pend, .px] s
      { s with hints := v_hints, layers := v_layers, barriers := v_barriers, mergeNet := v_mergeNet, rmus := v_rmus, dtcH := v_dtcH, pend := v_pend, batchOpen := v_batchOpen, px := v_px, pxNone := v_pxNone } := by
  rintro ⟨⟩ hp <;> simp_all [Part.Kept]

theorem sets_problems_solveNet {v_problems  v_solveNet} :
    Changes [.problems] s
      { s with problems := v_problems, solveNet := v_solveNet } := by
  rintro ⟨⟩ hp <;> simp_all [Part.Kept]

theorem sets_problems_nextProblem {v_problems  v_nextProblem} :
    Changes [.problems] s
      { s with problems := v_problems, nextProblem := v_nextProblem } := by
  rintro ⟨⟩ hp <;> simp_all [Part.Kept]

theorem sets_looks {v_looks} :
    Changes [.xlate] s
      { s with looks := v_looks } := by
  rintro ⟨⟩ hp <;> simp_all [Part.Kept]

theorem sets_batchOpen_batchHeld {v_batchOpen  v_batchHeld} :
    Changes [.xlate] s
      { s with batchOpen := v_batchOpen, batchHeld := v_batchHeld } := by
  rintro ⟨⟩ hp <;> simp_all [Part.Kept]

theorem sets_batchOpen {v_batchOpen} :
    Changes [.xlate] s
      { s with batchOpen := v_batchOpen } := by
  rintro ⟨⟩ hp <;> simp_all [Part.Kept]

theorem sets_slices {v_slices} :
    Changes [.slices] s
      { s with slices := v_slices } := by
  rintro ⟨⟩ hp <;> simp_all [Part.Kept]

theorem sets_dtcG {v_dtcG} :
    Changes [.xlate] s
      { s with dtcG := v_dtcG } := by
  rintro ⟨⟩ hp <;> simp_all [Part.Kept]

theorem sets_epoch {v_epoch} :
    Changes [.epochs] s
      { s with epoch := v_epoch } := by
  rintro ⟨⟩ hp <;> simp_all [Part.Kept]

theorem sets_dtcH {v_dtcH} :
    Changes [.xlate] s
      { s with dtcH := v_dtcH } := by
  rintro ⟨⟩ hp <;> simp_all [Part.Kept]

theorem sets_dtcH_host {v_dtcH  v_host} :
    Changes [.xlate, .host] s
      { s with dtcH := v_dtcH, host := v_host } := by
  rintro ⟨⟩ hp <;> simp_all [Part.Kept]

theorem sets_fab_power_host {v_fab  v_power  v_host} :
    Changes [.fab, .power, .host] s
      { s with fab := v_fab, power := v_power, host := v_host } := by
  rintro ⟨⟩ hp <;> simp_all [Part.Kept]

theorem sets_inbound {v_inbound} :
    Changes [.inbound] s
      { s with inbound := v_inbound } := by
  rintro ⟨⟩ hp <;> simp_all [Part.Kept]

theorem sets_linkRetry {v_linkRetry} :
    Changes [.linkRetry] s
      { s with linkRetry := v_linkRetry } := by
  rintro ⟨⟩ hp <;> simp_all [Part.Kept]

theorem sets_epochs {v_epochs} :
    Changes [.epochs] s
      { s with epochs := v_epochs } := by
  rintro ⟨⟩ hp <;> simp_all [Part.Kept]

theorem sets_pxNone {v_pxNone} :
    Changes [.xlate] s
      { s with pxNone := v_pxNone } := by
  rintro ⟨⟩ hp <;> simp_all [Part.Kept]

theorem sets_barriers {v_barriers} :
    Changes [.merge] s
      { s with barriers := v_barriers } := by
  rintro ⟨⟩ hp <;> simp_all [Part.Kept]

theorem sets_inbound_nextInbound {v_inbound  v_nextInbound} :
    Changes [.inbound] s
      { s with inbound := v_inbound, nextInbound := v_nextInbound } := by
  rintro ⟨⟩ hp <;> simp_all [Part.Kept]

theorem sets_dtcH_dtcFills {v_dtcH  v_dtcFills} :
    Changes [.xlate] s
      { s with dtcH := v_dtcH, dtcFills := v_dtcFills } := by
  rintro ⟨⟩ hp <;> simp_all [Part.Kept]

theorem sets_dtcG_dtcFills {v_dtcG  v_dtcFills} :
    Changes [.xlate] s
      { s with dtcG := v_dtcG, dtcFills := v_dtcFills } := by
  rintro ⟨⟩ hp <;> simp_all [Part.Kept]

theorem sets_time {v_time} :
    Changes [.time] s
      { s with time := v_time } := by
  rintro ⟨⟩ hp <;> simp_all [Part.Kept]

theorem sets_laneOff {v_laneOff} :
    Changes [.problems] s
      { s with laneOff := v_laneOff } := by
  rintro ⟨⟩ hp <;> simp_all [Part.Kept]

theorem sets_layers_barriers {v_layers  v_barriers} :
    Changes [.layers, .merge] s
      { s with layers := v_layers, barriers := v_barriers } := by
  rintro ⟨⟩ hp <;> simp_all [Part.Kept]

theorem sets_px {v_px} :
    Changes [.px] s
      { s with px := v_px } := by
  rintro ⟨⟩ hp <;> simp_all [Part.Kept]

theorem sets_rmus {v_rmus} :
    Changes [.merge] s
      { s with rmus := v_rmus } := by
  rintro ⟨⟩ hp <;> simp_all [Part.Kept]

theorem sets_trace {v_trace} :
    Changes [.trace] s
      { s with trace := v_trace } := by
  rintro ⟨⟩ hp <;> simp_all [Part.Kept]

theorem sets_ctrl_epochs_host {v_ctrl  v_epochs  v_host} :
    Changes [.xlate, .epochs, .host] s
      { s with ctrl := v_ctrl, epochs := v_epochs, host := v_host } := by
  rintro ⟨⟩ hp <;> simp_all [Part.Kept]

theorem sets_hostSeq {v_hostSeq} :
    Changes [.xlate] s
      { s with hostSeq := v_hostSeq } := by
  rintro ⟨⟩ hp <;> simp_all [Part.Kept]

theorem sets_ctrl_host {v_ctrl  v_host} :
    Changes [.xlate, .host] s
      { s with ctrl := v_ctrl, host := v_host } := by
  rintro ⟨⟩ hp <;> simp_all [Part.Kept]

theorem sets_free {v_free} :
    Changes [.free] s
      { s with free := v_free } := by
  rintro ⟨⟩ hp <;> simp_all [Part.Kept]

theorem sets_ctrl_epochs {v_ctrl  v_epochs} :
    Changes [.xlate, .epochs] s
      { s with ctrl := v_ctrl, epochs := v_epochs } := by
  rintro ⟨⟩ hp <;> simp_all [Part.Kept]

theorem sets_nv {v_nv} (h : v_nv.serial = s.nv.serial := by rfl) (h' : v_nv.dbgLock = s.nv.dbgLock := by rfl) :
    Changes [.nv] s
      { s with nv := v_nv } := by
  rintro ⟨⟩ hp <;> simp_all [Part.Kept]

theorem sets_hbmPoison {v_hbmPoison} :
    Changes [.poison] s
      { s with hbmPoison := v_hbmPoison } := by
  rintro ⟨⟩ hp <;> simp_all [Part.Kept]

theorem sets_sm_power {v_sm  v_power} :
    Changes [.sm, .power] s
      { s with sm := v_sm, power := v_power } := by
  rintro ⟨⟩ hp <;> simp_all [Part.Kept]

theorem sets_batchHeld {v_batchHeld} :
    Changes [.xlate] s
      { s with batchHeld := v_batchHeld } := by
  rintro ⟨⟩ hp <;> simp_all [Part.Kept]

theorem sets_winOld {v_winOld} :
    Changes [.inbound] s
      { s with winOld := v_winOld } := by
  rintro ⟨⟩ hp <;> simp_all [Part.Kept]

theorem sets_now {v_now} :
    Changes [.now] s
      { s with now := v_now } := by
  rintro ⟨⟩ hp <;> simp_all [Part.Kept]

theorem sets_regs {v_regs} :
    Changes [.regs] s
      { s with regs := v_regs } := by
  rintro ⟨⟩ hp <;> simp_all [Part.Kept]

theorem sets_many2 {v_cores  v_tags  v_reqs  v_hints  v_layers  v_mus  v_barriers  v_mergeNet  v_rmus  v_problems  v_solveNet  v_wayCmd  v_own  v_looks  v_dtcG  v_dtcH  v_pend  v_batchOpen  v_batchHeld  v_hostSeq  v_px  v_pxNone  v_ctrl  v_epochs  v_epoch  v_priOut  v_remotes  v_inject  v_winOld  v_sm  v_host} :
    Changes [.cores, .tags, .reqs, .hints, .layers, .mus, .merge, .problems, .wayCmd, .own, .xlate, .pend, .px, .epochs, .priOut, .remotes, .inject, .inbound, .sm, .host] s
      { s with cores := v_cores, tags := v_tags, reqs := v_reqs, hints := v_hints, layers := v_layers, mus := v_mus, barriers := v_barriers, mergeNet := v_mergeNet, rmus := v_rmus, problems := v_problems, solveNet := v_solveNet, wayCmd := v_wayCmd, own := v_own, looks := v_looks, dtcG := v_dtcG, dtcH := v_dtcH, pend := v_pend, batchOpen := v_batchOpen, batchHeld := v_batchHeld, hostSeq := v_hostSeq, px := v_px, pxNone := v_pxNone, ctrl := v_ctrl, epochs := v_epochs, epoch := v_epoch, priOut := v_priOut, remotes := v_remotes, inject := v_inject, winOld := v_winOld, sm := v_sm, host := v_host } := by
  rintro ⟨⟩ hp <;> simp_all [Part.Kept]

theorem sets_mus {v_mus} :
    Changes [.mus] s
      { s with mus := v_mus } := by
  rintro ⟨⟩ hp <;> simp_all [Part.Kept]

theorem sets_power_test {v_power  v_test} :
    Changes [.power, .test] s
      { s with power := v_power, test := v_test } := by
  rintro ⟨⟩ hp <;> simp_all [Part.Kept]

theorem sets_mergeNet {v_mergeNet} :
    Changes [.merge] s
      { s with mergeNet := v_mergeNet } := by
  rintro ⟨⟩ hp <;> simp_all [Part.Kept]

theorem sets_ueTimes {v_ueTimes} :
    Changes [.linkRetry] s
      { s with ueTimes := v_ueTimes } := by
  rintro ⟨⟩ hp <;> simp_all [Part.Kept]

theorem sets_winOld_free {v_winOld  v_free} :
    Changes [.inbound, .free] s
      { s with winOld := v_winOld, free := v_free } := by
  rintro ⟨⟩ hp <;> simp_all [Part.Kept]

theorem sets_test {v_test} :
    Changes [.test] s
      { s with test := v_test } := by
  rintro ⟨⟩ hp <;> simp_all [Part.Kept]

theorem sets_problems {v_problems} :
    Changes [.problems] s
      { s with problems := v_problems } := by
  rintro ⟨⟩ hp <;> simp_all [Part.Kept]

theorem sets_reqs_host {v_reqs  v_host} :
    Changes [.reqs, .host] s
      { s with reqs := v_reqs, host := v_host } := by
  rintro ⟨⟩ hp <;> simp_all [Part.Kept]

theorem sets_tags {v_tags} :
    Changes [.tags] s
      { s with tags := v_tags } := by
  rintro ⟨⟩ hp <;> simp_all [Part.Kept]

theorem sets_priOut {v_priOut} :
    Changes [.priOut] s
      { s with priOut := v_priOut } := by
  rintro ⟨⟩ hp <;> simp_all [Part.Kept]

theorem sets_cores_looks {v_cores  v_looks} :
    Changes [.cores, .xlate] s
      { s with cores := v_cores, looks := v_looks } := by
  rintro ⟨⟩ hp <;> simp_all [Part.Kept]

theorem sets_remotes {v_remotes} :
    Changes [.remotes] s
      { s with remotes := v_remotes } := by
  rintro ⟨⟩ hp <;> simp_all [Part.Kept]

theorem sets_sm {v_sm} :
    Changes [.sm] s
      { s with sm := v_sm } := by
  rintro ⟨⟩ hp <;> simp_all [Part.Kept]

theorem sets_pend {v_pend} :
    Changes [.pend] s
      { s with pend := v_pend } := by
  rintro ⟨⟩ hp <;> simp_all [Part.Kept]

theorem sets_solveNet {v_solveNet} :
    Changes [.problems] s
      { s with solveNet := v_solveNet } := by
  rintro ⟨⟩ hp <;> simp_all [Part.Kept]

theorem sets_fab {v_fab} :
    Changes [.fab] s
      { s with fab := v_fab } := by
  rintro ⟨⟩ hp <;> simp_all [Part.Kept]

theorem sets_cores {v_cores} :
    Changes [.cores] s
      { s with cores := v_cores } := by
  rintro ⟨⟩ hp <;> simp_all [Part.Kept]

theorem sets_wayCmd {v_wayCmd} :
    Changes [.wayCmd] s
      { s with wayCmd := v_wayCmd } := by
  rintro ⟨⟩ hp <;> simp_all [Part.Kept]

theorem sets_priOut_host {v_priOut  v_host} :
    Changes [.priOut, .host] s
      { s with priOut := v_priOut, host := v_host } := by
  rintro ⟨⟩ hp <;> simp_all [Part.Kept]

theorem sets_tags_layers {v_tags  v_layers} :
    Changes [.tags, .layers] s
      { s with tags := v_tags, layers := v_layers } := by
  rintro ⟨⟩ hp <;> simp_all [Part.Kept]

theorem sets_remotes_inject {v_remotes  v_inject} :
    Changes [.remotes, .inject] s
      { s with remotes := v_remotes, inject := v_inject } := by
  rintro ⟨⟩ hp <;> simp_all [Part.Kept]

theorem sets_reqs {v_reqs} :
    Changes [.reqs] s
      { s with reqs := v_reqs } := by
  rintro ⟨⟩ hp <;> simp_all [Part.Kept]

theorem sets_seq {v_seq} :
    Changes [.seq] s
      { s with seq := v_seq } := by
  rintro ⟨⟩ hp <;> simp_all [Part.Kept]

theorem sets_reqs_nextReq {v_reqs  v_nextReq} :
    Changes [.reqs] s
      { s with reqs := v_reqs, nextReq := v_nextReq } := by
  rintro ⟨⟩ hp <;> simp_all [Part.Kept]

theorem sets_cores_problems_host {v_cores  v_problems  v_host} :
    Changes [.cores, .problems, .host] s
      { s with cores := v_cores, problems := v_problems, host := v_host } := by
  rintro ⟨⟩ hp <;> simp_all [Part.Kept]

theorem sets_power {v_power} :
    Changes [.power] s
      { s with power := v_power } := by
  rintro ⟨⟩ hp <;> simp_all [Part.Kept]

theorem sets_govWin {v_govWin} :
    Changes [.sm] s
      { s with govWin := v_govWin } := by
  rintro ⟨⟩ hp <;> simp_all [Part.Kept]

theorem sets_power_log {v_power  v_log} :
    Changes [.power, .log] s
      { s with power := v_power, log := v_log } := by
  rintro ⟨⟩ hp <;> simp_all [Part.Kept]

theorem sets_own {v_own} :
    Changes [.own] s
      { s with own := v_own } := by
  rintro ⟨⟩ hp <;> simp_all [Part.Kept]

theorem sets_layers {v_layers} :
    Changes [.layers] s
      { s with layers := v_layers } := by
  rintro ⟨⟩ hp <;> simp_all [Part.Kept]

theorem sets_hints {v_hints} :
    Changes [.hints] s
      { s with hints := v_hints } := by
  rintro ⟨⟩ hp <;> simp_all [Part.Kept]

theorem sets_ctrl {v_ctrl} :
    Changes [.xlate] s
      { s with ctrl := v_ctrl } := by
  rintro ⟨⟩ hp <;> simp_all [Part.Kept]

theorem sets_inject {v_inject} :
    Changes [.inject] s
      { s with inject := v_inject } := by
  rintro ⟨⟩ hp <;> simp_all [Part.Kept]

theorem sets_log {v_log} :
    Changes [.log] s
      { s with log := v_log } := by
  rintro ⟨⟩ hp <;> simp_all [Part.Kept]

end

end Sys2Proof.Machine

/-! PROOFS. What each function of the model changes, in the order of the model's files. -/

namespace Sys2Proof.Machine

-- A thousand short proofs elaborated at once would need more threads than the check has memory for.
set_option Elab.async false

/-! ### Functions of Machine/Ops -/

theorem setReg_changes {s : State} {r : RegName} {u i j : Nat} {v : W64} : Changes [.regs] s (setReg s r u i j v) := by
  unfold setReg
  exact .of sets_regs

theorem setFld_changes {s : State} {r : RegName} {u i j lsb w x : Nat} : Changes [.regs] s (setFld s r u i j lsb w x) := by
  unfold setFld
  exact .of setReg_changes

theorem bump_changes {s : State} {r : RegName} {u i j n : Nat} : Changes [.regs] s (bump s r u i j n) := by
  unfold bump
  exact .of setReg_changes

theorem drawWord_changes {s : State} : Changes [.free] s (drawWord s).2 := by
  unfold drawWord
  exact .of sets_free

theorem drawBytes_changes {s : State} {n : Nat} : Changes [.free] s (drawBytes s n).2 := by
  unfold drawBytes
  exact .of sets_free

theorem traceTrigger_changes {s : State} : Changes [.trace] s (traceTrigger s) := by
  unfold traceTrigger
  dsimp only
  exact .ite (.of sets_trace) .refl

theorem traceEv_changes {s : State} {kind unit : Nat} {core : Option Nat} {data : Nat} :
    Changes [.trace] s (traceEv s kind unit core data) := by
  unfold traceEv
  dsimp only
  exact .ite .refl (.ite (.ite (.of traceTrigger_changes) .refl) (.ite (.comp (.of sets_trace) traceTrigger_changes) (.of
    sets_trace)))

theorem traceHaltTrigger_changes {s : State} : Changes [.trace] s (traceHaltTrigger s) := by
  unfold traceHaltTrigger
  exact .ite (.of traceTrigger_changes) .refl

theorem postRec_changes {s : State} {code : LogCode} {sev unitKind unitIdx : Nat} {ctx : Option Nat} {arg addr : Nat} :
    Changes [.log, .regs, .trace] s (postRec s code sev unitKind unitIdx ctx arg addr) := by
  unfold postRec
  dsimp only
  split
  · exact .comp (.of sets_log) bump_changes
  · exact .comp (.ite (.comp (.of sets_log) bump_changes) (.of sets_log)) traceEv_changes

theorem post_changes {s : State} {code : LogCode} {unitKind unitIdx : Nat} {ctx : Option Nat} {arg addr : Nat} :
    Changes [.log, .regs, .trace] s (post s code unitKind unitIdx ctx arg addr) := by
  unfold post
  exact .of postRec_changes

theorem setCore_changes {s : State} {n : Nat} {c : Core} : Changes [.cores] s (setCore s n c) := by
  unfold setCore
  exact .of sets_cores

theorem modCore_changes {s : State} {n : Nat} {f : Core → Core} : Changes [.cores] s (modCore s n f) := by
  unfold modCore
  exact .of setCore_changes

theorem setSlot_changes {s : State} {n : Nat} {i : SlotId} {x : Slot} : Changes [.cores] s (setSlot s n i x) := by
  unfold setSlot
  exact .of setCore_changes

theorem modSlot_changes {s : State} {n : Nat} {i : SlotId} {f : Slot → Slot} : Changes [.cores] s (modSlot s n i f) := by
  unfold modSlot
  exact .of setSlot_changes

theorem setTag_changes {s : State} {t : Nat} {x : Tag} : Changes [.tags] s (setTag s t x) := by
  unfold setTag
  exact .of sets_tags

theorem modCmd_changes {s : State} {t : Nat} {f : Cmd → Cmd} : Changes [.tags] s (modCmd s t f) := by
  unfold modCmd
  dsimp only
  exact .of setTag_changes

theorem takeTag_changes {s : State} {t : Nat} {owner : Option (Nat × SlotId)} {ctx : Nat} {c : Option Cmd} :
    Changes [.tags] s (takeTag s t owner ctx c) := by
  unfold takeTag
  dsimp only
  exact .of setTag_changes

theorem enqueue_changes {s : State} {rank : Nat} {p : Post} : Changes [.host] s (enqueue s rank p) := by
  unfold enqueue
  dsimp only
  exact .ite (.of sets_host) (.of sets_host)

theorem txFill_changes {x0 : Nat} {s : State} : Changes [.host] s (txFill x0 s) := by
  induction x0 generalizing s with
  | zero =>
    unfold txFill
    exact .refl
  | succ n ih =>
    unfold txFill
    dsimp only
    split
    · exact .ite (.comp (.of sets_host) ih) .refl
    · exact .refl

theorem transmit_changes {s : State} : Changes [.host] s (transmit s) := by
  unfold transmit
  dsimp only
  exact .ite (.comp (.of sets_host) txFill_changes) .refl

theorem emitAt_changes {rank : Nat} {s : State} {fn : Nat} {p : Post} : Changes [.host] s (emitAt rank s fn p) := by
  unfold emitAt
  dsimp only
  exact .ite (.of sets_host) (.of enqueue_changes)

theorem emit_changes {s : State} {fn : Nat} {p : Post} : Changes [.host] s (emit s fn p) := by
  unfold emit
  exact .of emitAt_changes

theorem emitEntry_changes {rank : Nat} {s : State} {fn a : Nat} {bs : List Byte} :
    Changes [.host] s (emitEntry rank s fn a bs) := by
  unfold emitEntry
  exact .of emitAt_changes

theorem setCfg_changes {s : State} {fn : Nat} {x : CfgFn} : Changes [.host] s (setCfg s fn x) := by
  unfold setCfg
  dsimp only
  exact .of sets_host

theorem aerReport_changes {s : State} {fn : Nat} {e : AerErr} : Changes [.log, .regs, .trace, .host] s (aerReport s fn e) :=
  by
  unfold aerReport
  dsimp only
  exact .comp (.ite (.of setCfg_changes) (.comp (.of setCfg_changes) emit_changes)) post_changes

theorem atsSweep_changes {s : State} : Changes [.host] s (atsSweep s) := by
  unfold atsSweep
  dsimp only
  exact .foldl (.of sets_host) fun _ _ => .of emit_changes

theorem dropReqs_changes {s : State} {p : LineReq → Bool} : Changes [.reqs, .host] s (dropReqs s p) := by
  unfold dropReqs
  dsimp only
  exact .comp (.of sets_reqs_host) atsSweep_changes

theorem dropFromSlot_changes {s : State} {t : Nat} {c : Cmd} :
    Changes [.cores, .remotes, .reqs, .host] s (dropFromSlot s t c) := by
  unfold dropFromSlot
  dsimp only
  exact .comp (.comp (.comp (.of modSlot_changes) modCore_changes) sets_remotes) dropReqs_changes

theorem retireWith_changes {s : State} {t : Nat} {w : W64} : Changes retireParts s (retireWith s t w) := by
  unfold retireWith
  dsimp only
  split
  · exact .refl
  · exact .comp (.comp (.comp (.of dropFromSlot_changes) setTag_changes) modSlot_changes) modCore_changes

theorem retire_changes {s : State} {t : Nat} : Changes retireParts s (retire s t) := by
  unfold retire
  split
  · exact .of retireWith_changes
  · exact .refl

theorem fail_changes {s : State} {t code : Nat} : Changes retireParts s (fail s t code) := by
  unfold fail
  exact .comp (.of modCmd_changes) retire_changes

theorem sendVector_changes {s : State} {v : Nat} : Changes [.host] s (sendVector s v) := by
  unfold sendVector
  dsimp only
  exact .ite (.of sets_host) (.of emit_changes)

theorem setQueue_changes {s : State} {ctx q : Nat} {x : Queue} : Changes [.host] s (setQueue s ctx q x) := by
  unfold setQueue
  dsimp only
  exact .of sets_host

theorem measureRun_changes {s : State} {d : DCmd} : Changes [.regs] s (measureRun s d) := by
  unfold measureRun
  dsimp only
  refine .ite ?_ .refl
  refine .ite ?_ (.ite (.comp (.of bump_changes) setReg_changes) (.of bump_changes))
  exact .comp (.ite (.comp (.of bump_changes) setReg_changes) (.of bump_changes)) setReg_changes

theorem completeCmd_changes {s : State} {d : DCmd} {code detail detail2 : Nat} :
    Changes [.host, .regs] s (completeCmd s d code detail detail2) := by
  unfold completeCmd
  dsimp only
  refine .ite ?_ ?_
  · exact .comp (.comp (.comp (.comp (.of emitEntry_changes) measureRun_changes) setQueue_changes) sets_host)
      sendVector_changes
  · exact .comp (.comp (.comp (.of emitEntry_changes) measureRun_changes) setQueue_changes) sets_host

theorem tallyRun_changes {s : State} {n : Nat} {i : SlotId} : Changes [.sm] s (tallyRun s n i) := by
  unfold tallyRun
  dsimp only
  exact .ite .refl (.of sets_sm)

theorem completeId_changes {s : State} {id code detail detail2 : Nat} :
    Changes [.host, .regs] s (completeId s id code detail detail2) := by
  unfold completeId
  split
  · exact .of completeCmd_changes
  · exact .refl

theorem failAll_changes {s : State} {code : Nat} {x2 : List Nat} : Changes retireParts s (failAll s code x2) := by
  induction x2 generalizing s code with
  | nil =>
    unfold failAll
    exact .refl
  | cons e es ih =>
    unfold failAll
    exact .comp (.of fail_changes) ih

theorem breakJoins_changes {s : State} {ctx : Nat} :
    Changes [.layers, .merge, .tags, .cores, .remotes, .reqs, .host] s (breakJoins s ctx) := by
  unfold breakJoins
  dsimp only
  exact .comp (.of sets_layers_barriers) failAll_changes

theorem recordTrap_changes {s : State} {n : Nat} {i : SlotId} {c : Trap} {pc : Pc} {v : W64} :
    Changes [.regs, .trace] s (recordTrap s n i c pc v) := by
  unfold recordTrap
  dsimp only
  exact .comp (.comp (.comp (.of setReg_changes) setReg_changes) setReg_changes) traceEv_changes

theorem programFault_changes {s : State} {n : Nat} {i : SlotId} {c : Trap} {v : W64} :
    Changes [.regs, .trace, .cores, .layers, .merge, .tags, .remotes, .reqs, .host] s (programFault s n i c v) := by
  unfold programFault
  dsimp only
  exact .comp (.comp (.of recordTrap_changes) setSlot_changes) breakJoins_changes

theorem haltServed_changes {s : State} {p : Nat} : Changes [.cores] s (haltServed s p) := by
  unfold haltServed
  exact .foldl (.refl) fun _ _ => .of modCore_changes

theorem debugHalt_changes {s : State} {n : Nat} {bit : Option Nat} : Changes [.trace, .cores, .regs] s (debugHalt s n bit) :=
  by
  unfold debugHalt
  dsimp only
  refine .comp ?_ traceHaltTrigger_changes
  split
  · exact .comp (.of haltServed_changes) setFld_changes
  · exact .of haltServed_changes

theorem govRefresh_changes {s : State} : Changes [.regs] s (govRefresh s) := by
  unfold govRefresh
  dsimp only
  exact .ite (.comp (.of setFld_changes) bump_changes) (.of setFld_changes)

/-! ### Functions of Machine/Scalar -/

theorem commitSlot_changes {s : State} {n : Nat} {i : SlotId} {x : Slot} : EffChanges [.cores] s (commitSlot s n i x) := by
  unfold commitSlot
  exact .done (.of setSlot_changes)

theorem commitG_changes {s : State} {n : Nat} {i : SlotId} {rd : Reg} {v : W64} :
    EffChanges [.cores] s (commitG s n i rd v) := by
  unfold commitG
  exact .of commitSlot_changes

theorem effInt_changes {op : IntOp} {rd ra rb : Reg} {n : Nat} {i : SlotId} {s : State} :
    EffChanges [.cores] s (effInt op rd ra rb n i s) := by
  unfold effInt
  dsimp only
  exact .of commitG_changes

theorem effImm_changes {op : ImmOp} {rd ra : Reg} {imm : BitVec 16} {n : Nat} {i : SlotId} {s : State} :
    EffChanges [.cores] s (effImm op rd ra imm n i s) := by
  unfold effImm
  exact .of commitG_changes

theorem effSeth_changes {rd : Reg} {hw : BitVec 2} {imm : BitVec 16} {n : Nat} {i : SlotId} {s : State} :
    EffChanges [.cores] s (effSeth rd hw imm n i s) := by
  unfold effSeth
  exact .of commitG_changes

theorem effPuth_changes {rd : Reg} {hw : BitVec 2} {imm : BitVec 16} {n : Nat} {i : SlotId} {s : State} :
    EffChanges [.cores] s (effPuth rd hw imm n i s) := by
  unfold effPuth
  exact .of commitG_changes

theorem squash_changes {s : State} {n younger : Nat} : Changes [.regs] s (squash s n younger) := by
  unfold squash
  exact .of bump_changes

theorem traceJump_changes {s : State} {n : Nat} {target : Pc} : Changes [.trace] s (traceJump s n target) := by
  unfold traceJump
  dsimp only
  exact .of traceEv_changes

theorem effBranch_changes {c : Cond} {ra rb : Reg} {h : Bool} {off : BitVec 15} {ch : Choice} {n : Nat} {i : SlotId} {s :
  State} :
    EffChanges [.trace, .cores, .regs] s (effBranch c ra rb h off ch n i s) := by
  unfold effBranch
  dsimp only
  refine .done ?_
  refine .ite ?_ (.ite (.of setSlot_changes) (.comp (.of setSlot_changes) squash_changes))
  exact .comp (.ite (.of setSlot_changes) (.comp (.of setSlot_changes) squash_changes)) traceJump_changes

theorem effJal_changes {rd : Reg} {off : BitVec 21} {n : Nat} {i : SlotId} {s : State} :
    EffChanges [.cores, .trace] s (effJal rd off n i s) := by
  unfold effJal
  dsimp only
  exact .done (.comp (.of setSlot_changes) traceJump_changes)

theorem effJalr_changes {rd ra : Reg} {imm : BitVec 16} {ch : Choice} {n : Nat} {i : SlotId} {s : State} :
    EffChanges [.cores, .regs, .trace] s (effJalr rd ra imm ch n i s) := by
  unfold effJalr
  dsimp only
  exact .done (.comp (.comp (.of setSlot_changes) squash_changes) traceJump_changes)

theorem effLoad_changes {op : LoadOp} {rd ra : Reg} {imm : BitVec 16} {n : Nat} {i : SlotId} {s : State} :
    EffChanges [.cores] s (effLoad op rd ra imm n i s) := by
  unfold effLoad
  dsimp only
  split
  · exact .trap
  · exact .of commitSlot_changes

theorem effStore_changes {op : StoreOp} {rs ra : Reg} {imm : BitVec 16} {n : Nat} {i : SlotId} {s : State} :
    EffChanges [.cores] s (effStore op rs ra imm n i s) := by
  unfold effStore
  dsimp only
  split
  · exact .trap
  · exact .comp (.of setCore_changes) commitSlot_changes

theorem effMfsr_changes {rd : Reg} {sr : BitVec 8} {n : Nat} {i : SlotId} {s : State} :
    EffChanges [.cores] s (effMfsr rd sr n i s) := by
  unfold effMfsr
  dsimp only
  split
  · exact .trap
  · exact .ite .hold (.of commitSlot_changes)

theorem effMtsr_changes {ra : Reg} {sr : BitVec 8} {n : Nat} {i : SlotId} {s : State} :
    EffChanges [.cores] s (effMtsr ra sr n i s) := by
  unfold effMtsr
  dsimp only
  split
  · exact .of commitSlot_changes
  · exact .ite .hold (.of commitSlot_changes)
  · exact .ite .trap (.of commitSlot_changes)
  · exact .trap

theorem effFp_changes {op : FpOp} {p : Bool} {rd ra rb : Reg} {n : Nat} {i : SlotId} {s : State} :
    EffChanges [.cores] s (effFp op p rd ra rb n i s) := by
  unfold effFp
  dsimp only
  exact .of commitSlot_changes

theorem effFma_changes {p : Bool} {rd ra rb rc : Reg} {n : Nat} {i : SlotId} {s : State} :
    EffChanges [.cores] s (effFma p rd ra rb rc n i s) := by
  unfold effFma
  dsimp only
  exact .of commitSlot_changes

theorem effCop_changes {sqrt : Bool} {rd ra rb : Reg} {n : Nat} {i : SlotId} {s : State} :
    EffChanges [.regs, .cores] s (effCop sqrt rd ra rb n i s) := by
  unfold effCop
  dsimp only
  exact .comp (.of bump_changes) commitSlot_changes

theorem copSquashed_changes {sqrt : Bool} {rd : Reg} {n : Nat} {i : SlotId} {s : State} :
    Changes [.regs, .cores] s (copSquashed sqrt rd n i s) := by
  unfold copSquashed
  dsimp only
  exact .comp (.of bump_changes) modSlot_changes

theorem effFcvtx_changes {rd ra : Reg} {fmt : BitVec 4} {rm : BitVec 2} {sat : Bool} {n : Nat} {i : SlotId} {s : State} :
    EffChanges [.cores] s (effFcvtx rd ra fmt rm sat n i s) := by
  unfold effFcvtx
  dsimp only
  split
  · exact .of commitSlot_changes
  · exact .trap

theorem effFcvtf_changes {rd ra : Reg} {fmt : BitVec 4} {n : Nat} {i : SlotId} {s : State} :
    EffChanges [.cores] s (effFcvtf rd ra fmt n i s) := by
  unfold effFcvtf
  dsimp only
  split
  · exact .of commitSlot_changes
  · exact .trap

theorem effFcvtLD_changes {rd ra : Reg} {rm : BitVec 2} {sat : Bool} {n : Nat} {i : SlotId} {s : State} :
    EffChanges [.cores] s (effFcvtLD rd ra rm sat n i s) := by
  unfold effFcvtLD
  dsimp only
  split
  · exact .of commitSlot_changes
  · exact .trap

theorem effFcvtDL_changes {rd ra : Reg} {rm : BitVec 2} {n : Nat} {i : SlotId} {s : State} :
    EffChanges [.cores] s (effFcvtDL rd ra rm n i s) := by
  unfold effFcvtDL
  dsimp only
  split
  · exact .of commitSlot_changes
  · exact .trap

theorem effFcvtSD_changes {rd ra : Reg} {rm : BitVec 2} {sat : Bool} {n : Nat} {i : SlotId} {s : State} :
    EffChanges [.cores] s (effFcvtSD rd ra rm sat n i s) := by
  unfold effFcvtSD
  dsimp only
  split
  · exact .of commitSlot_changes
  · exact .trap

theorem effFcvtDS_changes {rd ra : Reg} {n : Nat} {i : SlotId} {s : State} : EffChanges [.cores] s (effFcvtDS rd ra n i s) :=
  by
  unfold effFcvtDS
  dsimp only
  exact .of commitSlot_changes

theorem effBreak_changes {s : State} : EffChanges [] s (effBreak s) := by
  unfold effBreak
  exact .ite .halt .trap

theorem effTwait_changes {ra : Reg} {n : Nat} {i : SlotId} {s : State} : EffChanges [.cores] s (effTwait ra n i s) := by
  unfold effTwait
  dsimp only
  exact .ite .trap (.ite (.of commitSlot_changes) .hold)

theorem effWait_changes {rd ra : Reg} {n : Nat} {i : SlotId} {s : State} : EffChanges [.cores] s (effWait rd ra n i s) := by
  unfold effWait
  dsimp only
  exact .ite (.of commitG_changes) (.ite (.of commitG_changes) .hold)

theorem effStat_changes {rd ra : Reg} {n : Nat} {i : SlotId} {s : State} : EffChanges [.cores] s (effStat rd ra n i s) := by
  unfold effStat
  dsimp only
  exact .ite (.of commitG_changes) (.of commitG_changes)

theorem effWaitall_changes {n : Nat} {i : SlotId} {s : State} : EffChanges [.cores] s (effWaitall n i s) := by
  unfold effWaitall
  exact .ite .hold (.of commitSlot_changes)

/-! ### Functions of Machine/Memory -/

theorem hbmWrite_changes {s : State} {l : Nat} {en : List (Option Byte)} {poison : List Bool} :
    Changes [.hbm, .poison] s (hbmWrite s l en poison) := by
  rintro ⟨⟩ hp <;> simp_all [Part.Kept, hbmWrite]
  exact fun h => memWf_writeEn _ _ _ h

theorem hbmPut_changes {s : State} {c : CLine} : Changes [.hbm, .poison] s (hbmPut s c) := by
  unfold hbmPut
  exact .of hbmWrite_changes

theorem setSlice_changes {s : State} {i : Nat} {x : Slice} : Changes [.slices] s (setSlice s i x) := by
  unfold setSlice
  exact .of sets_slices

theorem modSlice_changes {s : State} {i : Nat} {f : Slice → Slice} : Changes [.slices] s (modSlice s i f) := by
  unfold modSlice
  exact .of setSlice_changes

theorem writeHit_changes {s : State} {c : CLine} {wp : Nat} {cleaning : Bool} {en : List (Option Byte)} {poison : List Bool} :
    Changes [.hbm, .poison] s (writeHit s c wp cleaning en poison).2 := by
  unfold writeHit
  dsimp only
  exact .ite_2 (.of hbmPut_changes) (.ite_2 .refl (.ite_2 (.of hbmPut_changes) (.of hbmWrite_changes)))

theorem serveWaiters_changes {s : State} {c : CLine} {keep : Bool} {x3 : List Nat} :
    Changes [.reqs, .hbm, .poison] s (serveWaiters s c keep x3).2.2 := by
  induction x3 generalizing s c keep with
  | nil =>
    unfold serveWaiters
    exact .refl
  | cons e es ih =>
    unfold serveWaiters
    dsimp only
    split
    · exact .of ih
    · split
      · exact .comp (.of sets_reqs) ih
      · exact .comp (.of sets_reqs) ih
      · split
        · exact .comp (.comp (.of writeHit_changes) sets_reqs) ih
        · exact .comp (.comp (.of writeHit_changes) sets_reqs) ih

theorem displace_changes {s : State} {c : Slice} {k l : Nat} : Changes [.hbm, .poison] s (displace s c k l) := by
  unfold displace
  split
  · exact .ite (.of hbmPut_changes) .refl
  · exact .refl

theorem putMiss_changes {s : State} {i : Nat} {m : Miss} : Changes [.slices] s (putMiss s i m) := by
  unfold putMiss
  exact .of modSlice_changes

theorem installMiss_changes {s : State} {i : Nat} {m : Miss} : Changes [.slices, .hbm, .poison] s (installMiss s i m) := by
  unfold installMiss
  dsimp only
  split
  · split
    · refine .ite (.comp (.comp (.of modSlice_changes) displace_changes) setSlice_changes) ?_
      exact .ite (.comp (.of modSlice_changes) hbmPut_changes) (.of modSlice_changes)
    · exact .of modSlice_changes
  · exact .of putMiss_changes

theorem serveMiss_changes {s : State} {c : CLine} {m : Miss} : Changes [.reqs, .hbm, .poison] s (serveMiss s c m).2 := by
  unfold serveMiss
  dsimp only
  exact .of serveWaiters_changes

theorem arriveFill_changes {s : State} {m : Miss} : Changes [.reqs, .hbm, .poison] s (arriveFill s m).2 := by
  unfold arriveFill
  split
  · exact .refl
  · exact .of serveMiss_changes

theorem acceptVictim_changes {s : State} {m : Miss} : Changes [.hbm, .poison] s (acceptVictim s m).1 := by
  unfold acceptVictim
  split
  · exact .of hbmPut_changes
  · exact .refl

theorem finishMiss_changes {s : State} {i : Nat} {m : Miss} : Changes [.hbm, .poison, .reqs, .slices] s (finishMiss s i m) :=
  by
  unfold finishMiss
  dsimp only
  exact .comp (.comp (.of acceptVictim_changes) arriveFill_changes) installMiss_changes

theorem settleList_changes {i l : Nat} {x2 : List Miss} {s : State} :
    Changes [.hbm, .poison, .reqs, .slices] s (settleList i l x2 s) := by
  induction x2 generalizing i l s with
  | nil =>
    unfold settleList
    exact .refl
  | cons e es ih =>
    unfold settleList
    exact .comp (.ite (.of finishMiss_changes) .refl) ih

theorem settle_changes {s : State} {i l : Nat} : Changes [.hbm, .poison, .reqs, .slices] s (settle s i l) := by
  unfold settle
  exact .of settleList_changes

theorem awaitEntry_changes {s : State} {i : Nat} : Changes [.hbm, .poison, .reqs, .slices] s (awaitEntry s i) := by
  unfold awaitEntry
  split
  · exact .ite (.of finishMiss_changes) .refl
  · exact .refl

theorem countLookup_changes {s : State} {i k : Nat} {hit : Bool} : Changes [.regs] s (countLookup s i k hit) := by
  unfold countLookup
  exact .of bump_changes

theorem mismatchRecord_changes {s : State} {a : MemWho} {pa : Nat} :
    Changes [.log, .regs, .trace] s (mismatchRecord s a pa) := by
  unfold mismatchRecord
  exact .ite (.of post_changes) (.of post_changes)

theorem poisonLine_changes {s : State} {l : Nat} : Changes [.free] s (poisonLine s l).2 := by
  unfold poisonLine
  dsimp only
  exact .of drawBytes_changes

theorem cacheRead_changes {s : State} {a : MemWho} {l : Nat} :
    Changes [.hbm, .poison, .reqs, .slices, .regs] s (cacheRead s a l).2 := by
  unfold cacheRead
  dsimp only
  refine .ite_2 .refl ?_
  split
  · exact .comp (.of settle_changes) countLookup_changes
  · refine .ite_2 (.comp (.comp (.of settle_changes) awaitEntry_changes) countLookup_changes) ?_
    split
    · exact .comp (.comp (.comp (.of settle_changes) awaitEntry_changes) countLookup_changes) setSlice_changes
    · refine .comp (.comp (.ite ?_ (.comp (.comp (.of settle_changes) awaitEntry_changes) countLookup_changes))
        displace_changes) setSlice_changes
      exact .comp (.comp (.comp (.of settle_changes) awaitEntry_changes) countLookup_changes) bump_changes

theorem cacheWrite_changes {s : State} {a : MemWho} {l : Nat} {en : List (Option Byte)} {poison : List Bool} :
    Changes [.hbm, .poison, .reqs, .slices, .regs] s (cacheWrite s a l en poison) := by
  unfold cacheWrite
  dsimp only
  refine .ite (.of hbmWrite_changes) ?_
  split
  · exact .comp (.comp (.comp (.of settle_changes) countLookup_changes) writeHit_changes) setSlice_changes
  · refine .ite ?_ ?_
    · exact .comp (.comp (.comp (.of settle_changes) awaitEntry_changes) countLookup_changes) hbmWrite_changes
    · split
      · exact .comp (.comp (.comp (.comp (.of settle_changes) awaitEntry_changes) countLookup_changes) setSlice_changes)
          hbmWrite_changes
      · refine .comp (.comp (.ite ?_ (.comp (.comp (.of settle_changes) awaitEntry_changes) countLookup_changes))
          displace_changes) setSlice_changes
        exact .comp (.comp (.comp (.of settle_changes) awaitEntry_changes) countLookup_changes) bump_changes

theorem memLine_changes {s : State} {a : MemWho} {l : Nat} : Changes memoryParts s (memLine s a l).2.2 := by
  unfold memLine
  dsimp only
  split
  · exact .of (cacheRead_changes (l := l))
  · exact .comp (.of mismatchRecord_changes) (poisonLine_changes (l := l))
  · exact .of (poisonLine_changes (l := l))

theorem memFetch_changes {a : MemWho} {pa e x3 x4 : Nat} {x5 : MemRead} {s : State} :
    Changes memoryParts s (memFetch a pa e x3 x4 x5 s).2 := by
  induction x3 generalizing a pa e x4 x5 s with
  | zero =>
    unfold memFetch
    exact .refl
  | succ n ih =>
    unfold memFetch
    dsimp only
    exact .comp (.of memLine_changes) ih

theorem devRead_changes {s : State} {a : MemWho} {pa n : Nat} : Changes memoryParts s (devRead s a pa n).2 := by
  unfold devRead
  exact .of memFetch_changes

theorem memLineWrite_changes {s : State} {a : MemWho} {l : Nat} {en : List (Option Byte)} {poison : List Bool} :
    Changes [.hbm, .poison, .reqs, .slices, .regs, .log, .trace] s (memLineWrite s a l en poison).2 := by
  unfold memLineWrite
  split
  · exact .of cacheWrite_changes
  · exact .of mismatchRecord_changes
  · exact .refl

theorem memStore_changes {a : MemWho} {pa : Nat} {bs : List (Option Byte)} {bad : List Bool} {x4 x5 : Nat} {x6 : Bool × Bool}
  {s : State} :
    Changes [.hbm, .poison, .reqs, .slices, .regs, .log, .trace] s (memStore a pa bs bad x4 x5 x6 s).2 := by
  induction x4 generalizing a pa bs bad x5 x6 s with
  | zero =>
    unfold memStore
    exact .refl
  | succ n ih =>
    unfold memStore
    dsimp only
    exact .comp (.of memLineWrite_changes) ih

theorem devWrite_changes {s : State} {a : MemWho} {pa : Nat} {bs : List Byte} {bad : List Bool} :
    Changes [.hbm, .poison, .reqs, .slices, .regs, .log, .trace] s (devWrite s a pa bs bad).2 := by
  unfold devWrite
  exact .of memStore_changes

theorem privRead_changes {s : State} {pa n : Nat} : Changes memoryParts s (privRead s pa n).2 := by
  unfold privRead
  dsimp only
  exact .of devRead_changes

theorem privWrite_changes {s : State} {pa : Nat} {bs : List Byte} :
    Changes [.hbm, .poison, .reqs, .slices, .regs, .log, .trace] s (privWrite s pa bs) := by
  unfold privWrite
  exact .of devWrite_changes

/-! ### Functions of Machine/Xlate -/

theorem segRead_changes {s : State} {ctx i : Nat} : Changes memoryParts s (segRead s ctx i).2 := by
  unfold segRead
  dsimp only
  exact .of privRead_changes

theorem segTable_changes {ctx x1 x2 : Nat} {s : State} : Changes memoryParts s (segTable ctx x1 x2 s).2 := by
  induction x1 generalizing ctx x2 s with
  | zero =>
    unfold segTable
    exact .refl
  | succ n ih =>
    unfold segTable
    dsimp only
    exact .comp (.of segRead_changes) ih

theorem dropLooks_changes {s : State} {p : Nat → Seg → Bool} : Changes [.cores, .xlate] s (dropLooks s p) := by
  unfold dropLooks
  exact .of sets_cores_looks

theorem dtcPut_changes {s : State} {ctx seg k : Nat} {g : Gran} : Changes [.xlate] s (dtcPut s ctx seg k g) := by
  unfold dtcPut
  exact .of sets_dtcG

theorem granRead_changes {s : State} {gtbase k : Nat} : Changes memoryParts s (granRead s gtbase k).2 := by
  unfold granRead
  dsimp only
  exact .of privRead_changes

theorem granWrite_changes {s : State} {gtbase k : Nat} {g : Gran} :
    Changes [.hbm, .poison, .reqs, .slices, .regs, .log, .trace] s (granWrite s gtbase k g) := by
  unfold granWrite
  exact .of privWrite_changes

theorem granWriteBack_changes {s : State} {e : GranTr} : Changes memoryParts s (granWriteBack s e) := by
  unfold granWriteBack
  dsimp only
  exact .comp (.of granRead_changes) granWrite_changes

theorem granWriteBacks_changes {s : State} {x1 : List GranTr} : Changes memoryParts s (granWriteBacks s x1) := by
  induction x1 generalizing s with
  | nil =>
    unfold granWriteBacks
    exact .refl
  | cons e es ih =>
    unfold granWriteBacks
    exact .comp (.of granWriteBack_changes) ih

theorem dtcDrop_changes {s : State} {p : GranTr → Bool} :
    Changes [.hbm, .poison, .reqs, .slices, .regs, .log, .trace, .free, .xlate] s (dtcDrop s p) := by
  unfold dtcDrop
  dsimp only
  exact .comp (.of granWriteBacks_changes) sets_dtcG

theorem dtcRoom_changes {s : State} {x : BitVec 10} :
    Changes [.hbm, .poison, .reqs, .slices, .regs, .log, .trace, .free, .xlate] s (dtcRoom s x) := by
  unfold dtcRoom
  dsimp only
  exact .ite .refl (.comp (.of dtcDrop_changes) sets_dtcH)

theorem frPut_changes {s : State} {x1 : List FaultRec} : Changes [.host, .regs] s (frPut s x1) := by
  induction x1 generalizing s with
  | nil =>
    unfold frPut
    exact .refl
  | cons e es ih =>
    unfold frPut
    dsimp only
    exact .comp (.comp (.of emitEntry_changes) setFld_changes) ih

theorem frFlush_changes {x0 : Nat} {s : State} : Changes [.xlate, .host, .regs] s (frFlush x0 s) := by
  induction x0 generalizing s with
  | zero =>
    unfold frFlush
    exact .refl
  | succ n ih =>
    unfold frFlush
    dsimp only
    split
    · exact .refl
    · refine .ite .refl ?_
      refine .ite ?_ ?_
      · exact .comp (.comp (.ite (.comp (.of frPut_changes) sendVector_changes) (.of frPut_changes)) sets_batchHeld) ih
      · exact .comp (.ite (.comp (.of frPut_changes) sendVector_changes) (.of frPut_changes)) sets_batchHeld

theorem frService_changes {s : State} : Changes [.xlate, .host, .regs] s (frService s) := by
  unfold frService
  exact .of frFlush_changes

theorem closeBatch_changes {s : State} : Changes [.xlate, .host, .regs] s (closeBatch s) := by
  unfold closeBatch
  exact .ite .refl (.comp (.of sets_batchOpen_batchHeld) frService_changes)

theorem addRecord_changes {s : State} {r : FaultRec} : Changes [.xlate, .host, .regs] s (addRecord s r) := by
  unfold addRecord
  dsimp only
  exact .ite (.comp (.of sets_batchOpen) closeBatch_changes) (.of sets_batchOpen)

theorem mergeRecord_changes {s : State} {ctx seg k : Nat} {express waits : Bool} :
    Changes [.xlate, .host, .regs] s (mergeRecord s ctx seg k express waits) := by
  unfold mergeRecord
  dsimp only
  exact .ite (.comp (.of sets_batchOpen) closeBatch_changes) (.of sets_batchOpen)

theorem setPending_changes {s : State} {p : List Pend} : Changes [.pend] s (setPending s p) := by
  unfold setPending
  exact .of sets_pend

theorem faultRecord_changes {s : State} {ctx seg k va : Nat} {write express waits : Bool} :
    Changes [.xlate, .host, .regs, .pend] s (faultRecord s ctx seg k va write express waits) := by
  unfold faultRecord
  dsimp only
  exact .ite (.of mergeRecord_changes) (.comp (.of setPending_changes) addRecord_changes)

theorem hotRecord_changes {s : State} {ctx seg k va : Nat} : Changes [.regs, .xlate, .host] s (hotRecord s ctx seg k va) := by
  unfold hotRecord
  exact .ite (.of bump_changes) (.of addRecord_changes)

theorem countHost_changes {s : State} {ctx seg k va : Nat} : Changes [.xlate, .regs, .host] s (countHost s ctx seg k va) := by
  unfold countHost
  dsimp only
  refine .ite (.of sets_hostSeq) ?_
  split
  · exact .of sets_hostSeq
  · exact .ite (.comp (.comp (.of sets_hostSeq) dtcPut_changes) hotRecord_changes) (.comp (.of sets_hostSeq) dtcPut_changes)

theorem dtcFill_changes {s : State} {ctx : Nat} {g : Seg} {k : Nat} :
    Changes [.hbm, .poison, .reqs, .slices, .regs, .log, .trace, .free, .xlate] s (dtcFill s ctx g k) := by
  unfold dtcFill
  dsimp only
  exact .ite .refl (.comp (.comp (.of dtcRoom_changes) granRead_changes) sets_dtcG_dtcFills)

theorem hostFill_changes {s : State} {fn : Nat} {pasid : Option Nat} {va size pa : Nat} {r w : Bool} :
    Changes [.xlate, .hbm, .poison, .reqs, .slices, .regs, .log, .trace, .free] s (hostFill s fn pasid va size pa r w) := by
  unfold hostFill
  dsimp only
  exact .comp (.comp (.of sets_dtcH) dtcRoom_changes) sets_dtcH_dtcFills

theorem askMiss_changes {s : State} {m : PxMiss} : Changes [.px, .regs] s (askMiss s m) := by
  unfold askMiss
  dsimp only
  exact .ite .refl (.comp (.ite (.of bump_changes) .refl) sets_px)

theorem setLook_changes {s : State} {k : Nat} {x : Lookaside} : Changes [.xlate] s (setLook s k x) := by
  unfold setLook
  exact .of sets_looks

theorem unitXlate_changes {s : State} {who : PxWho} {k ctx va : Nat} {n : Need} {express : Bool} :
    Changes [.xlate, .px, .regs] s (unitXlate s who k ctx va n express).2 := by
  unfold unitXlate
  split
  · exact .ite_2 (.of sets_pxNone) (.of askMiss_changes)
  · split
    · exact .of askMiss_changes
    · exact .refl

/-! ### Functions of Machine/Engine -/

theorem claimAll_changes {s : State} {n : Nat} {i : SlotId} {rd : Reg} {w : Wew} {c : Cmd} {p : Plan} {t : Nat} :
    Changes [.tags, .seq, .cores, .trace] s (claimAll s n i rd w c p t) := by
  unfold claimAll
  dsimp only
  exact .comp (.comp (.comp (.comp (.of takeTag_changes) sets_seq) modCore_changes) modSlot_changes) traceEv_changes

theorem barrArrive_changes {s : State} {t : Nat} {c : Cmd} :
    Changes [.merge, .tags, .cores, .remotes, .reqs, .host] s (barrArrive s t c) := by
  unfold barrArrive
  dsimp only
  split
  · exact .of sets_barriers
  · exact .ite (.of sets_barriers) (.of fail_changes)

theorem releaseHolds_changes {s : State} {n : Nat} {i : SlotId} : Changes [.mus] s (releaseHolds s n i) := by
  unfold releaseHolds
  dsimp only
  exact .ite .refl (.of sets_mus)

theorem layerArrive_changes {s : State} {t : Nat} {c : Cmd} :
    Changes [.mus, .layers, .tags, .cores, .remotes, .reqs, .host] s (layerArrive s t c) := by
  unfold layerArrive
  dsimp only
  split
  · exact .comp (.of releaseHolds_changes) sets_layers
  · exact .ite (.comp (.of releaseHolds_changes) sets_layers) (.comp (.of releaseHolds_changes) fail_changes)

theorem joinEach_changes {x0 : List (Nat × Cmd)} {x1 : List (Nat × Nat)} {s : State} :
    Changes [.tags, .mus, .layers, .cores, .remotes, .reqs, .host] s (joinEach x0 x1 s) := by
  induction x0 generalizing x1 s with
  | nil =>
    unfold joinEach
    exact .refl
  | cons e es ih =>
    unfold joinEach
    dsimp only
    exact .ite (.of ih) (.comp (.comp (.of modCmd_changes) layerArrive_changes) ih)

theorem joinLayers_changes {s : State} : Changes [.tags, .mus, .layers, .cores, .remotes, .reqs, .host] s (joinLayers s) := by
  unfold joinLayers
  exact .of joinEach_changes

theorem serveInbox_changes {s : State} {n : Nat} {i : SlotId} : Changes retireParts s (serveInbox s n i) := by
  unfold serveInbox
  dsimp only
  split
  · split
    · exact .comp (.comp (.comp (.of modSlot_changes) modCore_changes) modCmd_changes) retire_changes
    · exact .refl
  · exact .refl

theorem sendRequest_changes {s : State} {t : Nat} {c : Cmd} {p : Packet} {bag shard piece pos : Nat} :
    Changes [.remotes, .inject, .tags] s (sendRequest s t c p bag shard piece pos) := by
  unfold sendRequest
  dsimp only
  exact .comp (.of sets_remotes_inject) modCmd_changes

theorem windowRequest_changes {s : State} {t : Nat} {c : Cmd} {write : Bool} :
    Changes [.tags, .remotes, .inject] s (windowRequest s t c write) := by
  unfold windowRequest
  dsimp only
  exact .comp (.of modCmd_changes) sendRequest_changes

theorem windowStart_changes {s : State} {t : Nat} {c : Cmd} {write : Bool} :
    Changes [.tags, .remotes, .inject] s (windowStart s t c write) := by
  unfold windowStart
  exact .ite (.of windowRequest_changes) .refl

theorem parcelLeaves_changes {s : State} {t : Nat} {c : Cmd} : Changes [.remotes, .inject, .tags] s (parcelLeaves s t c) := by
  unfold parcelLeaves
  dsimp only
  exact .ite .refl (.of sendRequest_changes)

theorem arrive_changes {s : State} {t : Nat} {c : Cmd} :
    Changes [.merge, .tags, .cores, .remotes, .reqs, .host, .mus, .layers, .problems, .inject] s (arrive s t c) := by
  unfold arrive
  split
  · exact .of barrArrive_changes
  · exact .of joinLayers_changes
  · exact .of sets_solveNet
  · exact .of windowStart_changes
  · exact .of windowStart_changes
  · exact .of serveInbox_changes
  · exact .of parcelLeaves_changes
  · exact .refl

theorem issue_changes {op : EngOp} {b : Block} {p : Plan} {rd : Reg} {ga gb addr : Nat} {w : Wew} {ch : Choice} {n : Nat} {i :
  SlotId} {s : State} :
    EffChanges [.cores, .tags, .seq, .trace, .remotes, .reqs, .host, .merge, .mus, .layers, .problems, .inject] s (issue op b
      p rd ga gb addr w ch n i s) := by
  unfold issue
  dsimp only
  split
  · exact .done (.of setSlot_changes)
  · split
    · exact .hold
    · refine .ite .badTag ?_
      split
      · exact .done (.comp (.comp (.of claimAll_changes) modSlot_changes) retireWith_changes)
      · exact .done (.comp (.of claimAll_changes) arrive_changes)

theorem effBlock_changes {op : BlockOp} {rd ra : Reg} {ch : Choice} {n : Nat} {i : SlotId} {s : State} :
    EffChanges [.cores, .tags, .seq, .trace, .remotes, .reqs, .host, .merge, .mus, .layers, .problems, .inject] s (effBlock op
      rd ra ch n i s) := by
  unfold effBlock
  dsimp only
  split
  · exact .trap
  · split
    · exact .trap
    · split
      · exact .trap
      · exact .of issue_changes

theorem effAzero_changes {rd : Reg} {k : BitVec 4} {ch : Choice} {n : Nat} {i : SlotId} {s : State} :
    EffChanges [.cores, .tags, .seq, .trace, .remotes, .reqs, .host, .merge, .mus, .layers, .problems, .inject] s (effAzero rd
      k ch n i s) := by
  unfold effAzero
  dsimp only
  exact .ite (.of issue_changes) .trap

theorem effPsend_changes {rd ra rb : Reg} {x : BitVec 6} {ch : Choice} {n : Nat} {i : SlotId} {s : State} :
    EffChanges [.cores, .tags, .seq, .trace, .remotes, .reqs, .host, .merge, .mus, .layers, .problems, .inject] s (effPsend rd
      ra rb x ch n i s) := by
  unfold effPsend
  dsimp only
  refine .ite .trap ?_
  split
  · exact .trap
  · exact .of issue_changes

theorem effPrecv_changes {rd ra : Reg} {ch : Choice} {n : Nat} {i : SlotId} {s : State} :
    EffChanges [.cores, .tags, .seq, .trace, .remotes, .reqs, .host, .merge, .mus, .layers, .problems, .inject] s (effPrecv rd
      ra ch n i s) := by
  unfold effPrecv
  dsimp only
  split
  · exact .trap
  · exact .of issue_changes

theorem effTdef_changes {ra : Reg} {x : BitVec 6} {n : Nat} {i : SlotId} {s : State} :
    EffChanges [.cores] s (effTdef ra x n i s) := by
  unfold effTdef
  dsimp only
  split
  · exact .trap
  · exact .trap
  · exact .ite (.comp (.of setCore_changes) commitSlot_changes) .trap

theorem effSeed_changes {ra : Reg} {n : Nat} {i : SlotId} {s : State} : EffChanges [.cores] s (effSeed ra n i s) := by
  unfold effSeed
  dsimp only
  exact .of commitSlot_changes

theorem effLend_changes {n : Nat} {i : SlotId} {s : State} : EffChanges [.mus, .cores] s (effLend n i s) := by
  unfold effLend
  dsimp only
  exact .ite .hold (.comp (.of sets_mus) commitSlot_changes)

theorem hintSend_changes {s : State} {n : Nat} {i : SlotId} {ctx line cnt : Nat} :
    Changes [.hints, .px, .regs] s (hintSend s n i ctx line cnt) := by
  unfold hintSend
  dsimp only
  refine .ite .refl ?_
  split
  · exact .of sets_hints
  · exact .of askMiss_changes
  · exact .refl

theorem effPfetch_changes {ra rb : Reg} {n : Nat} {i : SlotId} {s : State} :
    EffChanges [.hints, .px, .regs, .cores] s (effPfetch ra rb n i s) := by
  unfold effPfetch
  dsimp only
  exact .comp (.of hintSend_changes) commitSlot_changes

/-! ### Functions of Machine/Stream -/

theorem retireStream_changes {s : State} {t : Nat} : Changes retireParts s (retireStream s t) :=
  by
  unfold retireStream
  dsimp only
  split
  · exact .refl
  · exact .comp (.comp (.of modCore_changes) modCmd_changes) retire_changes

theorem failStream_changes {s : State} {t code : Nat} : Changes retireParts s (failStream s t code) := by
  unfold failStream
  exact .comp (.of modCmd_changes) retireStream_changes

theorem releaseFq_changes {s : State} {t : Nat} : Changes [.cores] s (releaseFq s t) := by
  unfold releaseFq
  split
  · exact .ite (.of modSlot_changes) .refl
  · exact .refl

theorem setStream_changes {s : State} {t : Nat} {f : Stream → Stream} : Changes [.tags] s (setStream s t f) := by
  unfold setStream
  exact .of modCmd_changes

theorem takeToken_changes {s : State} {n : Nat} {i : SlotId} : Changes [.cores] s (takeToken s n i) := by
  unfold takeToken
  exact .of modSlot_changes

theorem freeFetch_changes {s : State} {n : Nat} {i : SlotId} {k : Nat} : Changes [.cores] s (freeFetch s n i k) := by
  unfold freeFetch
  exact .of modSlot_changes

theorem passToken_changes {s : State} {n : Nat} {i : SlotId} : Changes [.cores] s (passToken s n i) := by
  unfold passToken
  exact .of modSlot_changes

theorem freeExec_changes {s : State} {n : Nat} {i : SlotId} : Changes [.cores] s (freeExec s n i) := by
  unfold freeExec
  exact .of modSlot_changes

theorem haltStream_changes {s : State} {t : Nat} {c : Cmd} {st : Stream} {w : WaitOn} {va : Nat} :
    Changes [.tags, .regs, .cores, .reqs, .host] s (haltStream s t c st w va) := by
  unfold haltStream
  dsimp only
  exact .comp (.comp (.ite (.comp (.of freeFetch_changes) dropReqs_changes) (.comp (.comp (.of freeFetch_changes)
    dropReqs_changes) modCore_changes)) setStream_changes) bump_changes

theorem askAts_changes {s : State} {fn : Nat} {pasid : Option Nat} {iova : Nat} :
    Changes [.regs, .host] s (askAts s fn pasid iova) := by
  unfold askAts
  dsimp only
  exact .ite .refl (.comp (.comp (.of bump_changes) sets_host) emit_changes)

theorem requestPage_changes {s : State} {fn : Nat} {pasid : Option Nat} {iova : Nat} :
    Changes [.priOut, .host] s (requestPage s fn pasid iova) := by
  unfold requestPage
  dsimp only
  exact .ite .refl (.comp (.of sets_priOut) emit_changes)

theorem setXlate_changes {s : State} {t : Nat} {b : Bool} : Changes [.tags] s (setXlate s t b) := by
  unfold setXlate
  exact .of setStream_changes

theorem askPoints_changes {s : State} {t : Nat} {c : Cmd} {va : Nat} {dtc : Bool} :
    Changes [.px, .regs, .tags] s (askPoints s t c va dtc) := by
  unfold askPoints
  exact .comp (.of askMiss_changes) setXlate_changes

theorem beginTile_changes {s : State} {t : Nat} {c : Cmd} {st : Stream} : Changes [.cores, .tags] s (beginTile s t c st) := by
  unfold beginTile
  exact .ite .refl (.comp (.of takeToken_changes) setStream_changes)

theorem pushReq_changes {s : State} {r : LineReq} : Changes [.reqs, .host] s (pushReq s r) := by
  unfold pushReq
  dsimp only
  split
  · exact .comp (.of sets_reqs_nextReq) emit_changes
  · exact .of sets_reqs_nextReq

theorem writeTileDone_changes {s : State} {t k : Nat} : Changes retireParts s (writeTileDone s t k) := by
  unfold writeTileDone
  dsimp only
  split
  · split
    · refine .ite ?_ .refl
      exact .ite (.comp (.comp (.of freeFetch_changes) setStream_changes) retireStream_changes) (.comp (.of freeFetch_changes)
        setStream_changes)
    · exact .refl
  · exact .refl

theorem hostCounted_changes {s : State} {c : Cmd} {va : Nat} {x3 : Option (Nat × Nat)} :
    Changes [.xlate, .regs, .host] s (hostCounted s c va x3) := by
  unfold hostCounted
  split
  · exact .of countHost_changes
  · exact .refl

theorem pushPoisoned_changes {s : State} {t : Nat} {c : Cmd} {st : Stream} {va : Nat} :
    Changes [.free, .reqs, .host, .tags] s (pushPoisoned s t c st va) := by
  unfold pushPoisoned
  dsimp only
  exact .comp (.comp (.of drawBytes_changes) pushReq_changes) modCmd_changes

theorem loseFaults_changes {s : State} {c : Cmd} {x2 : List Nat} :
    Changes [.xlate, .host, .regs, .pend, .priOut] s (loseFaults s c x2) := by
  induction x2 generalizing s c with
  | nil =>
    unfold loseFaults
    exact .refl
  | cons e es ih =>
    unfold loseFaults
    split
    · exact .comp (.of faultRecord_changes) ih
    · exact .comp (.of requestPage_changes) ih
    · exact .of ih

theorem pushLine_changes {s : State} {t : Nat} {c : Cmd} {st : Stream} {l : Nat} :
    Changes [.xlate, .host, .regs, .pend, .priOut, .tags, .reqs] s (pushLine s t c st l) := by
  unfold pushLine
  dsimp only
  refine .ite ?_ (.comp (.of hostCounted_changes) pushReq_changes)
  refine .ite ?_ ?_
  · exact .ite .refl (.comp (.comp (.of loseFaults_changes) setStream_changes) modCmd_changes)
  · exact .comp (.comp (.ite .refl (.comp (.comp (.of loseFaults_changes) setStream_changes) modCmd_changes))
      hostCounted_changes) pushReq_changes

theorem afterLine_changes {s : State} {t : Nat} {st : Stream} : Changes retireParts s (afterLine s t st) := by
  unfold afterLine
  dsimp only
  exact .comp (.comp (.of setStream_changes) releaseFq_changes) writeTileDone_changes

theorem issueLine_changes {s : State} {t : Nat} {c : Cmd} {st : Stream} {l : Nat} :
    Changes [.tags, .cores, .remotes, .reqs, .host, .px, .regs, .xlate, .pend, .free, .priOut] s (issueLine s t c st l) := by
  unfold issueLine
  dsimp only
  split
  · exact .of failStream_changes
  · exact .of failStream_changes
  · split
    · exact .of failStream_changes
    · exact .of askPoints_changes
    · exact .comp (.of askAts_changes) setXlate_changes
    · refine .ite (.comp (.of faultRecord_changes) haltStream_changes) ?_
      exact .comp (.comp (.comp (.of faultRecord_changes) beginTile_changes) pushPoisoned_changes) afterLine_changes
    · refine .ite (.of failStream_changes) ?_
      refine .ite (.comp (.of requestPage_changes) haltStream_changes) ?_
      exact .comp (.comp (.comp (.of requestPage_changes) beginTile_changes) pushPoisoned_changes) afterLine_changes
    · exact .refl
    · exact .comp (.comp (.of beginTile_changes) pushLine_changes) afterLine_changes

theorem issueMaint_changes {s : State} {t : Nat} {c : Cmd} :
    Changes [.cores, .tags, .remotes, .reqs, .host, .px, .regs, .xlate, .pend] s (issueMaint s t c) := by
  unfold issueMaint
  dsimp only
  refine .ite (.of retireStream_changes) ?_
  split
  · exact .of failStream_changes
  · exact .of askPoints_changes
  · refine .ite ?_ (.comp (.comp (.of pushReq_changes) modCmd_changes) releaseFq_changes)
    exact .comp (.comp (.comp (.of pushReq_changes) modCmd_changes) releaseFq_changes) retireStream_changes
  · refine .ite ?_ (.comp (.comp (.of faultRecord_changes) modCmd_changes) releaseFq_changes)
    exact .comp (.comp (.comp (.of faultRecord_changes) modCmd_changes) releaseFq_changes) retireStream_changes
  · exact .ite (.comp (.comp (.of modCmd_changes) releaseFq_changes) retireStream_changes) (.comp (.of modCmd_changes)
      releaseFq_changes)

theorem sendPiece_changes {s : State} {t : Nat} {c : Cmd} {d : TableDesc} {q : Nat × Nat × Nat × Nat} :
    Changes [.tags, .remotes, .inject, .cores] s (sendPiece s t c d q) := by
  unfold sendPiece
  dsimp only
  exact .comp (.comp (.of modCmd_changes) sendRequest_changes) releaseFq_changes

theorem sendContribution_changes {s : State} {t : Nat} {c : Cmd} {d : TableDesc} {x : Contribution} :
    Changes [.cores, .tags, .merge, .remotes, .inject] s (sendContribution s t c d x) := by
  unfold sendContribution
  dsimp only
  refine .comp (.ite ?_ ?_) releaseFq_changes
  · exact .comp (.comp (.ite (.comp (.comp (.of modCmd_changes) sets_mergeNet) modCmd_changes) (.comp (.of modCmd_changes)
      sendRequest_changes)) freeFetch_changes) setStream_changes
  · exact .ite (.comp (.comp (.of modCmd_changes) sets_mergeNet) modCmd_changes) (.comp (.of modCmd_changes)
      sendRequest_changes)

theorem issueRemote_changes {s : State} {t : Nat} {c : Cmd} :
    Changes [.tags, .remotes, .inject, .cores, .merge] s (issueRemote s t c) := by
  unfold issueRemote
  split
  · exact .of sendPiece_changes
  · exact .of sendContribution_changes
  · exact .refl

theorem countDrops_changes {s : State} {c : Cmd} : Changes [.regs] s (countDrops s c) := by
  unfold countDrops
  exact .ite .refl (.of bump_changes)

theorem setup_changes {s : State} {t : Nat} {c : Cmd} :
    Changes [.tags, .cores, .remotes, .reqs, .host, .regs] s (setup s t c) := by
  unfold setup
  dsimp only
  refine .ite .refl ?_
  split
  · exact .comp (.of modCmd_changes) retire_changes
  · refine .ite ?_ (.comp (.comp (.of modCmd_changes) countDrops_changes) releaseFq_changes)
    exact .comp (.comp (.comp (.of modCmd_changes) countDrops_changes) releaseFq_changes) retireStream_changes

theorem issueStep_changes {s : State} {t : Nat} {remote : Bool} :
    Changes [.tags, .remotes, .inject, .cores, .merge, .reqs, .host, .px, .regs, .xlate, .pend, .free, .priOut] s (issueStep s
      t remote) := by
  unfold issueStep
  split
  · exact .refl
  · refine .ite (.of issueRemote_changes) ?_
    split
    · exact .of issueMaint_changes
    · exact .refl
    · split
      · exact .of issueLine_changes
      · exact .refl
    · exact .refl

theorem issueRequest_changes {s : State} {t : Nat} {c : Cmd} {remote : Bool} :
    Changes [.tags, .remotes, .inject, .cores, .merge, .reqs, .host, .px, .regs, .xlate, .pend, .free, .priOut] s
      (issueRequest s t c remote) := by
  unfold issueRequest
  dsimp only
  refine .ite (.of windowRequest_changes) ?_
  refine .ite (.of issueStep_changes) ?_
  split
  · exact .ite (.comp (.of setup_changes) issueStep_changes) (.of setup_changes)
  · exact .of setup_changes

theorem lineRequestIssue_changes {s : State} {t : Nat} {remote : Bool} :
    Changes [.tags, .remotes, .inject, .cores, .merge, .reqs, .host, .px, .regs, .xlate, .pend, .free, .priOut] s
      (lineRequestIssue s t remote) := by
  unfold lineRequestIssue
  split
  · exact .of issueRequest_changes
  · exact .refl

theorem execLineRequestIssue_changes {tag : Fin 4096} {remote : Bool} {s : State} :
    ResChanges [.tags, .remotes, .inject, .cores, .merge, .reqs, .host, .px, .regs, .xlate, .pend, .free, .priOut] s
      (execLineRequestIssue tag remote s) := by
  unfold execLineRequestIssue
  exact .whenDue (.done (.of lineRequestIssue_changes))

theorem dropReq_changes {s : State} {id : Nat} : Changes [.reqs, .host] s (dropReq s id) := by
  unfold dropReq
  exact .comp (.of sets_reqs) atsSweep_changes

theorem tileArrived_changes {s : State} {t k : Nat} : Changes [.cores, .tags] s (tileArrived s t k) := by
  unfold tileArrived
  split
  · split
    · exact .ite (.comp (.of passToken_changes) setStream_changes) .refl
    · exact .refl
  · exact .refl

theorem maintOver_changes {s : State} {t : Nat} : Changes retireParts s (maintOver s t) := by
  unfold maintOver
  split
  · exact .ite (.of retireStream_changes) .refl
  · exact .refl

theorem arriveLine_changes {s : State} {r : LineReq} {bs : List Byte} {ps : List Bool} :
    Changes retireParts s (arriveLine s r bs ps) := by
  unfold arriveLine
  dsimp only
  split
  · exact .of dropReq_changes
  · split
    · exact .comp (.comp (.of dropReq_changes) modCmd_changes) maintOver_changes
    · exact .comp (.comp (.comp (.of dropReq_changes) modCore_changes) modCmd_changes) tileArrived_changes
    · exact .of dropReq_changes

theorem hostRefused_changes {s : State} {r : LineReq} {fn iova : Nat} :
    Changes [.log, .regs, .trace, .tags, .cores, .remotes, .reqs, .host] s (hostRefused s r fn iova) := by
  unfold hostRefused
  exact .comp (.of post_changes) failStream_changes

theorem lineArrival_changes {s : State} {r : LineReq} {h : HostReply} :
    Changes [.reqs, .host, .tags, .cores, .remotes, .log, .regs, .trace] s (lineArrival s r h) := by
  unfold lineArrival
  dsimp only
  split
  · exact .of arriveLine_changes
  · split
    · exact .comp (.ite (.of aerReport_changes) .refl) arriveLine_changes
    · exact .of hostRefused_changes
    · exact .of hostRefused_changes
  · exact .refl

theorem orphanReturns_changes {s : State} {id : Nat} : Changes [.host] s (orphanReturns s id) := by
  unfold orphanReturns
  dsimp only
  exact .ite (.comp (.of sets_host) atsSweep_changes) .refl

theorem execLineArrival_changes {id : Nat} {host : HostReply} {s : State} :
    ResChanges [.host, .reqs, .tags, .cores, .remotes, .log, .regs, .trace] s (execLineArrival id host s) := by
  unfold execLineArrival
  split
  · exact .done (.of orphanReturns_changes)
  · exact .whenDue (.done (.of lineArrival_changes))

theorem postRuns_changes {rank : Nat} {s : State} {fn a : Nat} {attr : TlpAttr} {x5 : List (Nat × List Byte × Bool)} :
    Changes [.host] s (postRuns rank s fn a attr x5) := by
  induction x5 generalizing rank s fn a attr with
  | nil =>
    unfold postRuns
    exact .refl
  | cons e es ih =>
    unfold postRuns
    exact .comp (.of emitAt_changes) ih

theorem postLine_changes {s : State} {r : LineReq} : Changes [.host] s (postLine s r) := by
  unfold postLine
  split
  · exact .of postRuns_changes
  · exact .refl

theorem acceptLine_changes {s : State} {r : LineReq} : Changes retireParts s (acceptLine s r) :=
  by
  unfold acceptLine
  dsimp only
  split
  · exact .comp (.comp (.comp (.comp (.of postLine_changes) dropReq_changes) modCmd_changes) modCmd_changes) maintOver_changes
  · exact .comp (.comp (.comp (.of postLine_changes) dropReq_changes) modCmd_changes) writeTileDone_changes

theorem execLineWriteAccepted_changes {id : Nat} {s : State} : ResChanges retireParts s (execLineWriteAccepted id s) := by
  unfold execLineWriteAccepted
  split
  · exact .done .refl
  · exact .whenDue (.done (.of acceptLine_changes))

theorem resumeStream_changes {s : State} {t : Nat} : Changes [.tags, .cores] s (resumeStream s t) := by
  unfold resumeStream
  dsimp only
  split
  · split
    · exact .comp (.ite .refl (.of modCore_changes)) setStream_changes
    · exact .refl
  · exact .refl

/-! ### Functions of Machine/Cache -/

theorem setReq_changes {s : State} {r : LineReq} : Changes [.reqs] s (setReq s r) := by
  unfold setReq
  exact .of sets_reqs

theorem openMiss_changes {s : State} {i : Nat} {c : Slice} {l w : Nat} {fill : Option CLine} {ws : List Nat} :
    Changes [.slices, .hbm, .poison, .regs] s (openMiss s i c l w fill ws) := by
  unfold openMiss
  dsimp only
  refine .ite ?_ (.ite (.comp (.of setSlice_changes) bump_changes) (.of setSlice_changes))
  exact .comp (.ite (.comp (.of setSlice_changes) bump_changes) (.of setSlice_changes)) installMiss_changes

theorem sliceReadMiss_changes {s : State} {i : Nat} {r : LineReq} {l : Nat} :
    Changes [.regs, .reqs, .slices, .hbm, .poison] s (sliceReadMiss s i r l) := by
  unfold sliceReadMiss
  dsimp only
  refine .ite (.comp (.of countLookup_changes) setReq_changes) ?_
  split
  · exact .comp (.comp (.of countLookup_changes) setSlice_changes) setReq_changes
  · exact .comp (.comp (.of countLookup_changes) openMiss_changes) setReq_changes

theorem sliceWriteMiss_changes {s : State} {i : Nat} {r : LineReq} {l : Nat} :
    Changes [.regs, .hbm, .poison, .reqs, .slices] s (sliceWriteMiss s i r l) := by
  unfold sliceWriteMiss
  dsimp only
  refine .ite (.comp (.comp (.of countLookup_changes) hbmWrite_changes) setReq_changes) ?_
  split
  · exact .comp (.comp (.comp (.of countLookup_changes) setSlice_changes) hbmWrite_changes) setReq_changes
  · refine .ite (.comp (.comp (.of countLookup_changes) openMiss_changes) setReq_changes) ?_
    exact .comp (.comp (.of countLookup_changes) openMiss_changes) setReq_changes

theorem sliceMaint_changes {s : State} {i : Nat} {r : LineReq} {l opn : Nat} :
    Changes [.slices, .hbm, .poison, .reqs, .regs] s (sliceMaint s i r l opn) := by
  unfold sliceMaint
  dsimp only
  split
  · refine .ite ?_ ?_
    · exact .ite (.comp (.comp (.of setSlice_changes) hbmPut_changes) setReq_changes) (.of setReq_changes)
    · refine .ite (.comp (.of setSlice_changes) setReq_changes) ?_
      exact .ite (.ite (.comp (.comp (.of setSlice_changes) hbmPut_changes) setReq_changes) (.comp (.of setSlice_changes)
        setReq_changes)) (.of setReq_changes)
  · refine .ite (.of setReq_changes) ?_
    split
    · exact .comp (.of setSlice_changes) setReq_changes
    · exact .comp (.of openMiss_changes) setReq_changes

theorem sliceServe_changes {s : State} {i : Nat} {r : LineReq} {l : Nat} :
    Changes [.reqs, .regs, .hbm, .poison, .slices] s (sliceServe s i r l) := by
  unfold sliceServe
  dsimp only
  split
  · split
    · exact .comp (.comp (.comp (.of setReq_changes) countLookup_changes) serveMiss_changes) putMiss_changes
    · exact .comp (.comp (.of setReq_changes) countLookup_changes) putMiss_changes
  · split
    · exact .of sliceMaint_changes
    · split
      · exact .comp (.of countLookup_changes) setReq_changes
      · exact .of sliceReadMiss_changes
    · split
      · exact .comp (.comp (.comp (.of countLookup_changes) writeHit_changes) setSlice_changes) setReq_changes
      · exact .of sliceWriteMiss_changes

theorem memoryServe_changes {s : State} {r : LineReq} {l : Nat} : Changes [.reqs, .hbm, .poison] s (memoryServe s r l) := by
  unfold memoryServe
  split
  · exact .of setReq_changes
  · exact .comp (.of hbmWrite_changes) setReq_changes
  · exact .of setReq_changes

theorem ownRefused_changes {s : State} {r : LineReq} {pa : Nat} :
    Changes [.log, .regs, .trace, .tags, .free, .reqs] s (ownRefused s r pa) := by
  unfold ownRefused
  dsimp only
  split
  · exact .comp (.comp (.comp (.of mismatchRecord_changes) modCmd_changes) poisonLine_changes) setReq_changes
  · exact .comp (.comp (.of mismatchRecord_changes) modCmd_changes) setReq_changes

theorem atSlice_changes {s : State} {r : LineReq} {pa : Nat} :
    Changes [.log, .regs, .trace, .tags, .free, .reqs, .cores, .remotes, .host, .hbm, .poison, .slices] s (atSlice s r pa) :=
      by
  unfold atSlice
  split
  · exact .of ownRefused_changes
  · exact .of failStream_changes
  · exact .ite (.of sliceServe_changes) (.of memoryServe_changes)

theorem joinIngress_changes {s : State} {i : Nat} {r : LineReq} : Changes [.slices] s (joinIngress s i r) := by
  unfold joinIngress
  exact .of modSlice_changes

theorem leaveIngress_changes {s : State} {i : Nat} {r : LineReq} : Changes [.slices] s (leaveIngress s i r) := by
  unfold leaveIngress
  exact .of modSlice_changes

theorem sliceStep_changes {s : State} {r : LineReq} :
    Changes [.slices, .log, .regs, .trace, .tags, .free, .reqs, .cores, .remotes, .host, .hbm, .poison] s (sliceStep s r) :=
      by
  unfold sliceStep
  dsimp only
  split
  · exact .ite (.of joinIngress_changes) (.comp (.of leaveIngress_changes) atSlice_changes)
  · exact .refl

theorem execLineRequestAtSlice_changes {id : Nat} {s : State} :
    ResChanges [.slices, .log, .regs, .trace, .tags, .free, .reqs, .cores, .remotes, .host, .hbm, .poison] s
      (execLineRequestAtSlice id s) := by
  unfold execLineRequestAtSlice
  split
  · exact .done .refl
  · exact .whenDue (.done (.of sliceStep_changes))

theorem fillArrival_changes {s : State} {i : Nat} {m : Miss} :
    Changes [.reqs, .hbm, .poison, .slices] s (fillArrival s i m) := by
  unfold fillArrival
  dsimp only
  exact .comp (.of arriveFill_changes) installMiss_changes

theorem execMissFillArrival_changes {slice : Fin 20} {l : Nat} {s : State} :
    ResChanges [.reqs, .hbm, .poison, .slices] s (execMissFillArrival slice l s) := by
  unfold execMissFillArrival
  split
  · exact .done .refl
  · exact .whenDue (.done (.of fillArrival_changes))

theorem victimAccepted_changes {s : State} {i : Nat} {m : Miss} : Changes [.hbm, .poison, .slices] s (victimAccepted s i m) :=
  by
  unfold victimAccepted
  dsimp only
  exact .comp (.of acceptVictim_changes) installMiss_changes

theorem execVictimWriteAccept_changes {slice : Fin 20} {l : Nat} {s : State} :
    ResChanges [.hbm, .poison, .slices] s (execVictimWriteAccept slice l s) := by
  unfold execVictimWriteAccept
  split
  · exact .done .refl
  · exact .whenDue (.done (.of victimAccepted_changes))

theorem prefetchFill_changes {s : State} {i : Nat} {h : Hint} :
    Changes [.regs, .slices, .hbm, .poison] s (prefetchFill s i h) := by
  unfold prefetchFill
  dsimp only
  refine .ite (.of countLookup_changes) ?_
  split
  · exact .comp (.of countLookup_changes) setSlice_changes
  · exact .comp (.of countLookup_changes) openMiss_changes

theorem prefetchLine_changes {s : State} {h : Hint} :
    Changes [.log, .regs, .trace, .slices, .hbm, .poison] s (prefetchLine s h) := by
  unfold prefetchLine
  dsimp only
  refine .ite .refl ?_
  split
  · exact .of mismatchRecord_changes
  · exact .refl
  · exact .ite (.of bump_changes) (.of prefetchFill_changes)

theorem execPrefetchLine_changes {slice : Fin 20} {k : Nat} {s : State} :
    ResChanges [.hints, .log, .regs, .trace, .slices, .hbm, .poison] s (execPrefetchLine slice k s) := by
  unfold execPrefetchLine
  split
  · exact .done .refl
  · exact .whenDue (.done (.comp (.of sets_hints) prefetchLine_changes))

theorem setCmdstat_changes {s : State} {code slice way : Nat} : Changes [.regs] s (setCmdstat s code slice way) := by
  unfold setCmdstat
  exact .of setReg_changes

theorem slicesApply_changes {s : State} {op : Nat} {ways : BitVec 16} {slices : Nat} :
    Changes [.slices] s (slicesApply s op ways slices) := by
  unfold slicesApply
  exact .foldl (.refl) fun _ _ => .ite (.of modSlice_changes) .refl

theorem wayCmdDone_changes {s : State} : Changes [.wayCmd, .regs] s (wayCmdDone s) := by
  unfold wayCmdDone
  split
  · exact .ite (.comp (.of sets_wayCmd) setCmdstat_changes) .refl
  · exact .refl

theorem wayCommand_changes {op : Nat} {ways : BitVec 16} {s : State} :
    Changes [.log, .regs, .trace, .wayCmd, .slices] s (wayCommand op ways s) := by
  unfold wayCommand
  dsimp only
  refine .ite (.of post_changes) ?_
  refine .ite (.of setCmdstat_changes) ?_
  split
  · exact .of setCmdstat_changes
  · exact .comp (.comp (.of sets_wayCmd) slicesApply_changes) wayCmdDone_changes

theorem execWayInvalidate_changes {ways : BitVec 16} {s : State} :
    ResChanges [.log, .regs, .trace, .wayCmd, .slices] s (execWayInvalidate ways s) := by
  unfold execWayInvalidate
  exact .done (.of wayCommand_changes)

theorem execEnable_changes {ways : BitVec 16} {s : State} :
    ResChanges [.log, .regs, .trace, .wayCmd, .slices] s (execEnable ways s) := by
  unfold execEnable
  exact .done (.of wayCommand_changes)

theorem execDisable_changes {ways : BitVec 16} {s : State} :
    ResChanges [.log, .regs, .trace, .wayCmd, .slices] s (execDisable ways s) := by
  unfold execDisable
  exact .done (.of wayCommand_changes)

theorem execPowerDown_changes {ways : BitVec 16} {s : State} :
    ResChanges [.log, .regs, .trace, .wayCmd, .slices] s (execPowerDown ways s) := by
  unfold execPowerDown
  exact .done (.of wayCommand_changes)

theorem execPowerUp_changes {ways : BitVec 16} {s : State} :
    ResChanges [.log, .regs, .trace, .wayCmd, .slices] s (execPowerUp ways s) := by
  unfold execPowerUp
  exact .done (.of wayCommand_changes)

theorem execWayInvalidateComplete_changes {s : State} : ResChanges [.wayCmd, .regs] s (execWayInvalidateComplete s) := by
  unfold execWayInvalidateComplete
  exact .whenDue (.done (.comp (.of sets_wayCmd) setCmdstat_changes))

theorem sweepLines_changes {w : Nat} {x1 : List (Nat × Option CLine)} {s : State} :
    Changes [.hbm, .poison] s (sweepLines w x1 s) := by
  induction x1 generalizing w s with
  | nil =>
    unfold sweepLines
    exact .refl
  | cons e es ih =>
    unfold sweepLines
    refine .comp ?_ ih
    split
    · exact .ite (.of hbmPut_changes) .refl
    · exact .refl

theorem sweepSet_changes {s : State} {i w : Nat} : Changes [.slices, .hbm, .poison] s (sweepSet s i w) := by
  unfold sweepSet
  dsimp only
  refine .ite .refl ?_
  refine .comp ?_ setSlice_changes
  split
  · exact .ite (.of hbmPut_changes) .refl
  · exact .refl

theorem sweepCycle_changes {s : State} : Changes [.slices, .hbm, .poison] s (sweepCycle s) := by
  unfold sweepCycle
  exact .foldl (.refl) fun _ _ => .foldl (.refl) fun _ _ => .of sweepSet_changes

theorem sweepDone_changes {s : State} {i w : Nat} :
    Changes [.wayCmd, .regs, .hbm, .poison, .slices, .log, .trace] s (sweepDone s i w) := by
  unfold sweepDone
  dsimp only
  exact .comp (.ite (.comp (.of sweepLines_changes) setSlice_changes) (.comp (.comp (.of sweepLines_changes) setSlice_changes)
    post_changes)) wayCmdDone_changes

theorem execSweepComplete_changes {slice : Fin 20} {way : Fin 16} {s : State} :
    ResChanges [.wayCmd, .regs, .hbm, .poison, .slices, .log, .trace] s (execSweepComplete slice way s) := by
  unfold execSweepComplete
  exact .whenDue (.done (.of sweepDone_changes))

theorem correctedError_changes {s : State} {i w : Nat} : Changes [.regs, .slices] s (correctedError s i w) := by
  unfold correctedError
  dsimp only
  exact .ite (.comp (.of bump_changes) setSlice_changes) (.comp (.of bump_changes) setSlice_changes)

theorem leakTick_changes {s : State} : Changes [.slices] s (leakTick s) := by
  unfold leakTick
  exact .foldl (.refl) fun _ _ => .of modSlice_changes

theorem execLeakTick_changes {s : State} : ResChanges [.slices] s (execLeakTick s) := by
  unfold execLeakTick
  exact .done (.of leakTick_changes)

theorem dataError_changes {s : State} {i w x u : Nat} : Changes [.slices, .hbm, .poison] s (dataError s i w x u) := by
  unfold dataError
  dsimp only
  refine .comp ?_ setSlice_changes
  split
  · exact .ite (.of hbmPut_changes) .refl
  · exact .refl

theorem tagLost_changes {s : State} {i w x : Nat} {known : Bool} :
    Changes [.slices, .log, .regs, .trace] s (tagLost s i w x known) := by
  unfold tagLost
  dsimp only
  exact .comp (.of setSlice_changes) postRec_changes

theorem execTagLost_changes {slice : Fin 20} {way : Fin 16} {set : Fin 8192} {known : Bool} {s : State} :
    ResChanges [.slices, .log, .regs, .trace] s (execTagLost slice way set known s) := by
  unfold execTagLost
  exact .whenDue (.done (.of tagLost_changes))

/-! ### Functions of Machine/Execute -/

theorem freeVec_changes {x0 : Nat} {s : State} : Changes [.free] s (freeVec x0 s).2 := by
  induction x0 generalizing s with
  | zero =>
    unfold freeVec
    exact .refl
  | succ n ih =>
    unfold freeVec
    dsimp only
    exact .comp (.of drawWord_changes) ih

theorem gpoolBag_changes {s : State} {c : Cmd} {d : TableDesc} {b : Nat} {bag : Bag} :
    Changes [.cores, .free] s (gpoolBag s c d b bag).1 := by
  unfold gpoolBag
  dsimp only
  exact .comp (.ite_2 .refl (.of freeVec_changes)) setCore_changes

theorem gpoolBags_changes {c : Cmd} {d : TableDesc} {x2 : List (Bag × Nat)} {s : State} {x4 : Flags} :
    Changes [.cores, .free] s (gpoolBags c d x2 s x4).1 := by
  induction x2 generalizing c d s x4 with
  | nil =>
    unfold gpoolBags
    exact .refl
  | cons e es ih =>
    unfold gpoolBags
    dsimp only
    exact .comp (.of gpoolBag_changes) ih

theorem gpoolEnd_changes {s : State} {t : Nat} {c : Cmd} {d : TableDesc} :
    Changes [.cores, .free, .tags, .remotes, .reqs, .host] s (gpoolEnd s t c d) := by
  unfold gpoolEnd
  dsimp only
  exact .comp (.comp (.of gpoolBags_changes) modCmd_changes) retireStream_changes

theorem applyWrote_changes {s : State} {t : Nat} {c : Cmd} {x : Wrote} :
    Changes [.tags, .cores, .regs] s (applyWrote s t c x) := by
  unfold applyWrote
  dsimp only
  exact .comp (.ite (.of setCore_changes) (.comp (.of setCore_changes) bump_changes)) modCmd_changes

theorem sloadTile_changes {s : State} {t : Nat} {c : Cmd} {st : Stream} {k : Nat} :
    Changes [.tags, .cores, .regs, .remotes, .reqs, .host] s (sloadTile s t c st k) := by
  unfold sloadTile
  dsimp only
  refine .ite ?_ (.comp (.comp (.of applyWrote_changes) freeExec_changes) setStream_changes)
  exact .comp (.comp (.comp (.of applyWrote_changes) freeExec_changes) setStream_changes) retireStream_changes

theorem releaseXq_changes {s : State} {t : Nat} {c : Cmd} : Changes [.cores] s (releaseXq s t c) := by
  unfold releaseXq
  exact .of modSlot_changes

theorem sstoreTile_changes {s : State} {t : Nat} {c : Cmd} {st : Stream} :
    Changes [.tags, .cores, .regs] s (sstoreTile s t c st) := by
  unfold sstoreTile
  dsimp only
  refine .ite ?_ ?_
  · exact .comp (.comp (.comp (.comp (.of applyWrote_changes) takeToken_changes) setStream_changes) modCmd_changes)
      releaseXq_changes
  · exact .comp (.comp (.comp (.of applyWrote_changes) takeToken_changes) setStream_changes) modCmd_changes

theorem gpoolUnit_changes {s : State} {t : Nat} {c : Cmd} {d : TableDesc} {st : Stream} :
    Changes [.tags, .cores, .free, .remotes, .reqs, .host] s (gpoolUnit s t c d st) := by
  unfold gpoolUnit
  dsimp only
  split
  · exact .comp (.comp (.of modCmd_changes) freeExec_changes) setStream_changes
  · exact .of gpoolEnd_changes

theorem scaddTile_changes {s : State} {t : Nat} {c : Cmd} {d : TableDesc} {st : Stream} :
    Changes [.cores, .tags] s (scaddTile s t c d st) := by
  unfold scaddTile
  dsimp only
  refine .ite ?_ (.comp (.comp (.of takeToken_changes) setStream_changes) modCmd_changes)
  exact .comp (.comp (.comp (.of takeToken_changes) setStream_changes) modCmd_changes) releaseXq_changes

theorem rowsUnit_changes {s : State} {t : Nat} {c : Cmd} {f : Wrote → Nat → Wrote} {rows : List Nat} {total detail : Nat} :
    Changes [.tags, .cores, .regs, .remotes, .reqs, .host] s (rowsUnit s t c f rows total detail) := by
  unfold rowsUnit
  dsimp only
  exact .ite (.comp (.comp (.comp (.of applyWrote_changes) modCmd_changes) modCmd_changes) retire_changes) (.comp (.of
    applyWrote_changes) modCmd_changes)

theorem azeroUnit_changes {s : State} {t : Nat} {c : Cmd} : Changes retireParts s (azeroUnit s t c) := by
  unfold azeroUnit
  dsimp only
  exact .comp (.of modCore_changes) retire_changes

theorem accwbUnit_changes {s : State} {t : Nat} {c : Cmd} :
    Changes [.tags, .cores, .regs, .remotes, .reqs, .host] s (accwbUnit s t c) := by
  unfold accwbUnit
  exact .of rowsUnit_changes

theorem xopUnit_changes {s : State} {t : Nat} {c : Cmd} :
    Changes [.tags, .cores, .regs, .remotes, .reqs, .host] s (xopUnit s t c) := by
  unfold xopUnit
  dsimp only
  exact .ite (.comp (.ite (.of modCmd_changes) .refl) rowsUnit_changes) (.of rowsUnit_changes)

theorem cmprUnit_changes {s : State} {t : Nat} {c : Cmd} :
    Changes [.tags, .cores, .regs, .remotes, .reqs, .host] s (cmprUnit s t c) := by
  unfold cmprUnit
  dsimp only
  exact .comp (.comp (.ite .refl (.of bump_changes)) modCmd_changes) rowsUnit_changes

theorem unitStep_changes {s : State} {t : Nat} {c : Cmd} :
    Changes [.cores, .remotes, .reqs, .host, .tags, .regs, .free] s (unitStep s t c) := by
  unfold unitStep
  split
  · exact .of azeroUnit_changes
  · exact .of accwbUnit_changes
  · exact .of xopUnit_changes
  · exact .of cmprUnit_changes
  · split
    · exact .of sloadTile_changes
    · exact .refl
  · exact .of gpoolUnit_changes
  · exact .of sstoreTile_changes
  · exact .of scaddTile_changes
  · exact .of setup_changes
  · exact .of setup_changes
  · exact .refl

theorem tileBoundary_changes {s : State} {n : Nat} : Changes [.cores] s (tileBoundary s n) := by
  unfold tileBoundary
  exact .of modCore_changes

theorem expressBegins_changes {s : State} {n : Nat} : Changes [.cores] s (expressBegins s n) := by
  unfold expressBegins
  exact .ite .refl (.of modCore_changes)

theorem unitEnd_changes {s : State} {n : Nat} {i : SlotId} :
    Changes [.cores, .remotes, .reqs, .host, .tags, .regs, .free, .mus, .layers] s (unitEnd s n i) := by
  unfold unitEnd
  split
  · split
    · exact .comp (.comp (.of unitStep_changes) tileBoundary_changes) joinLayers_changes
    · exact .refl
  · exact .refl

theorem execExecuteUnitEnd_changes {a : At} {s : State} :
    ResChanges [.cores, .remotes, .reqs, .host, .tags, .regs, .free, .mus, .layers] s (execExecuteUnitEnd a s) := by
  unfold execExecuteUnitEnd
  exact .whenDue (.done (.of unitEnd_changes))

/-! ### Functions of Machine/Merge -/

theorem homeSearch_changes {ctx table shard base x4 x5 : Nat} {s : State} :
    Changes memoryParts s (homeSearch ctx table shard base x4 x5 s).2 := by
  induction x4 generalizing ctx table shard base x5 s with
  | zero =>
    unfold homeSearch
    exact .refl
  | succ n ih =>
    unfold homeSearch
    dsimp only
    refine .ite_2 ?_ (.comp (.of devRead_changes) ih)
    split
    · exact .of devRead_changes
    · exact .of devRead_changes

theorem homeRecord_changes {s : State} {ctx table shard : Nat} : Changes memoryParts s (homeRecord s ctx table shard).2 := by
  unfold homeRecord
  exact .of homeSearch_changes

theorem setRmu_changes {s : State} {k : Nat} {r : Rmu} : Changes [.merge] s (setRmu s k r) := by
  unfold setRmu
  exact .of sets_rmus

theorem modRmu_changes {s : State} {k : Nat} {f : Rmu → Rmu} : Changes [.merge] s (modRmu s k f) := by
  unfold modRmu
  exact .of setRmu_changes

theorem answerLocal_changes {s : State} {t code : Nat} : Changes retireParts s (answerLocal s t code) := by
  unfold answerLocal
  dsimp only
  split
  · exact .ite (.comp (.of modCmd_changes) retireStream_changes) (.of modCmd_changes)
  · exact .of modCmd_changes

theorem freeInbound_changes {s : State} {x1 : Option Nat} : Changes [.tags] s (freeInbound s x1) := by
  unfold freeInbound
  dsimp only
  split
  · exact .of setTag_changes
  · exact .refl

theorem answer_changes {s : State} {x : Contribution} {code : Nat} :
    Changes [.tags, .cores, .remotes, .reqs, .host, .inject] s (answer s x code) := by
  unfold answer
  dsimp only
  split
  · exact .of answerLocal_changes
  · exact .comp (.of sets_inject) freeInbound_changes

theorem refuse_changes {s : State} {x : Contribution} {code : Nat} :
    Changes [.regs, .tags, .cores, .remotes, .reqs, .host, .inject] s (refuse s x code) := by
  unfold refuse
  exact .comp (.of bump_changes) answer_changes

theorem writeExtents_changes {ctx : Nat} {x1 : List (Nat × Nat)} {x2 : List Byte} {x3 : List Bool} {s : State} :
    Changes [.hbm, .poison, .reqs, .slices, .regs, .log, .trace] s (writeExtents ctx x1 x2 x3 s) := by
  induction x1 generalizing ctx x2 x3 s with
  | nil =>
    unfold writeExtents
    exact .refl
  | cons e es ih =>
    unfold writeExtents
    exact .comp (.of devWrite_changes) ih

theorem markOverflow_changes {s : State} {k ctx step : Nat} : Changes [.merge] s (markOverflow s k ctx step) := by
  unfold markOverflow
  exact .of modRmu_changes

theorem spillRun_changes {s : State} {k : Nat} {g : Nat × Nat × Nat × Nat} :
    Changes [.hbm, .poison, .reqs, .slices, .regs, .log, .trace, .free, .merge] s (spillRun s k g) := by
  unfold spillRun
  dsimp only
  split
  · exact .comp (.of homeRecord_changes) markOverflow_changes
  · exact .comp (.comp (.comp (.of homeRecord_changes) writeExtents_changes) bump_changes) modRmu_changes

theorem spill_changes {s : State} {k : Nat} :
    Changes [.hbm, .poison, .reqs, .slices, .regs, .log, .trace, .free, .merge] s (spill s k) := by
  unfold spill
  exact .foldl (.refl) fun _ _ => .of spillRun_changes

theorem place_changes {s : State} {k : Nat} {x : Contribution} :
    Changes [.merge, .regs, .tags, .cores, .remotes, .reqs, .host, .inject] s (place s k x) := by
  unfold place
  dsimp only
  exact .comp (.comp (.of modRmu_changes) bump_changes) answer_changes

theorem accept_changes {s : State} {k : Nat} {x : Contribution} :
    Changes [.regs, .tags, .cores, .remotes, .reqs, .host, .inject, .hbm, .poison, .slices, .log, .trace, .free, .merge] s
      (accept s k x) := by
  unfold accept
  dsimp only
  refine .ite (.comp (.ite .refl (.of spill_changes)) refuse_changes) ?_
  exact .ite (.comp (.ite .refl (.of spill_changes)) place_changes) (.comp (.comp (.ite .refl (.of spill_changes))
    markOverflow_changes) refuse_changes)

theorem turntable_changes {s : State} {k : Nat} {x : Contribution} :
    Changes [.regs, .tags, .cores, .remotes, .reqs, .host, .inject, .merge, .hbm, .poison, .slices, .log, .trace, .free] s
      (turntable s k x) := by
  unfold turntable
  split
  · exact .of refuse_changes
  · exact .of modRmu_changes
  · exact .of accept_changes

theorem homeUnit_changes {s : State} {x : Contribution} : Changes memoryParts s (homeUnit s x).2 := by
  unfold homeUnit
  dsimp only
  split
  · exact .of homeRecord_changes
  · exact .of homeRecord_changes
  · exact .ite_2 (.of homeRecord_changes) (.ite_2 (.of homeRecord_changes) (.of homeRecord_changes))

theorem contributionArrives_changes {s : State} {x : Contribution} :
    Changes [.regs, .tags, .cores, .remotes, .reqs, .host, .inject, .merge, .hbm, .poison, .slices, .log, .trace, .free] s
      (contributionArrives s x) := by
  unfold contributionArrives
  split
  · rename_i h0
    exact .comp (.of (homeUnit_changes.ofEq_2 h0)) turntable_changes
  · rename_i h0
    exact .comp (.of (homeUnit_changes.ofEq_2 h0)) answer_changes

theorem execContributionArrival_changes {i : Nat} {s : State} :
    ResChanges [.merge, .regs, .tags, .cores, .remotes, .reqs, .host, .inject, .hbm, .poison, .slices, .log, .trace, .free] s
      (execContributionArrival i s) := by
  unfold execContributionArrival
  split
  · exact .done .refl
  · exact .whenDue (.done (.comp (.of sets_mergeNet) contributionArrives_changes))

theorem execHeldContributionAccept_changes {k : Fin 128} {i : Nat} {s : State} :
    ResChanges [.merge, .regs, .tags, .cores, .remotes, .reqs, .host, .inject, .hbm, .poison, .slices, .log, .trace, .free] s
      (execHeldContributionAccept k i s) := by
  unfold execHeldContributionAccept
  split
  · exact .done .refl
  · exact .whenDue (.done (.comp (.of modRmu_changes) turntable_changes))

theorem retireArrivals_changes {code delay : Nat} {x2 : List Nat} {s : State} :
    Changes retireParts s (retireArrivals code delay x2 s) := by
  induction x2 generalizing s with
  | nil => exact .refl
  | cons e es ih =>
    unfold retireArrivals
    exact .comp (.comp (.of modCmd_changes) retire_changes) ih

theorem endClose_changes {s : State} {ctx step code : Nat} :
    Changes [.merge, .tags, .cores, .remotes, .reqs, .host] s (endClose s ctx step code) := by
  unfold endClose
  dsimp only
  exact .foldl (.of sets_barriers) fun _ _ => .of retireArrivals_changes

theorem closeFails_changes {s : State} {ctx step reason : Nat} :
    Changes [.merge, .regs, .tags, .cores, .remotes, .reqs, .host] s (closeFails s ctx step reason) := by
  unfold closeFails
  dsimp only
  exact .comp (.comp (.comp (.of sets_rmus) setReg_changes) setReg_changes) endClose_changes

theorem readHyper_changes {ctx : Nat} {x1 : List (Nat × Nat)} {s : State} : Changes memoryParts s (readHyper ctx x1 s).2 := by
  induction x1 generalizing ctx s with
  | nil =>
    unfold readHyper
    exact .refl
  | cons e es ih =>
    unfold readHyper
    dsimp only
    split
    · exact .comp (.of homeRecord_changes) ih
    · exact .comp (.of homeRecord_changes) ih

theorem beginApply_changes {s : State} {k : Nat} :
    Changes [.hbm, .poison, .reqs, .slices, .regs, .log, .trace, .free, .merge] s (beginApply s k) := by
  unfold beginApply
  dsimp only
  split
  · exact .refl
  · exact .ite (.comp (.of readHyper_changes) modRmu_changes) .refl

theorem closePasses_changes {s : State} {ctx step : Nat} :
    Changes [.merge, .tags, .cores, .remotes, .reqs, .host, .hbm, .poison, .slices, .regs, .log, .trace, .free] s (closePasses
      s ctx step) := by
  unfold closePasses
  dsimp only
  refine .comp ?_ endClose_changes
  exact .foldl (.refl) fun _ _ => .comp (.of modRmu_changes) beginApply_changes

theorem stopWindows_changes {s : State} {ctx step : Nat} :
    Changes [.merge, .tags, .cores, .remotes, .reqs, .host, .hbm, .poison, .slices, .regs, .log, .trace, .free] s (stopWindows
      s ctx step) := by
  unfold stopWindows
  dsimp only
  exact .ite (.of sets_rmus) (.comp (.of sets_rmus) closePasses_changes)

theorem reserveScratch_changes {k ctx step : Nat} {x3 : List Run} {s : State} :
    Changes [.hbm, .poison, .reqs, .slices, .regs, .log, .trace, .free, .merge] s (reserveScratch k ctx step x3 s).2 := by
  induction x3 generalizing k ctx step s with
  | nil =>
    unfold reserveScratch
    exact .refl
  | cons e es ih =>
    unfold reserveScratch
    dsimp only
    split
    · exact .of homeRecord_changes
    · exact .comp (.comp (.of homeRecord_changes) modRmu_changes) ih

theorem checkWindow_changes {s : State} {k : Nat} {w : Window} :
    Changes [.merge, .regs, .tags, .cores, .remotes, .reqs, .host, .hbm, .poison, .slices, .log, .trace, .free] s (checkWindow
      s k w) := by
  unfold checkWindow
  dsimp only
  refine .ite (.of closeFails_changes) ?_
  refine .ite (.comp (.of reserveScratch_changes) closeFails_changes) ?_
  exact .ite (.comp (.of reserveScratch_changes) modRmu_changes) (.comp (.comp (.of reserveScratch_changes) modRmu_changes)
    closePasses_changes)

theorem execDrainEnd_changes {k : Fin 128} {ctx : Fin 64} {step : Nat} {s : State} :
    ResChanges [.merge, .regs, .tags, .cores, .remotes, .reqs, .host, .hbm, .poison, .slices, .log, .trace, .free] s
      (execDrainEnd k ctx step s) := by
  unfold execDrainEnd
  split
  · exact .done .refl
  · exact .whenDue (.done (.of checkWindow_changes))

theorem releaseBarrier_changes {s : State} {b : Barrier} :
    Changes [.merge, .tags, .cores, .remotes, .reqs, .host, .hbm, .poison, .slices, .regs, .log, .trace, .free] s
      (releaseBarrier s b) := by
  unfold releaseBarrier
  exact .ite (.comp (.of sets_barriers) stopWindows_changes) (.comp (.of sets_barriers) retireArrivals_changes)

theorem execBarrRelease_changes {ctx : Fin 64} {id : Fin 256} {s : State} :
    ResChanges [.merge, .tags, .cores, .remotes, .reqs, .host, .hbm, .poison, .slices, .regs, .log, .trace, .free] s
      (execBarrRelease ctx id s) := by
  unfold execBarrRelease
  split
  · exact .done .refl
  · exact .whenDue (.done (.of releaseBarrier_changes))

theorem readExtents_changes {ctx : Nat} {x1 : List (Nat × Nat)} {s : State} :
    Changes memoryParts s (readExtents ctx x1 s).2 := by
  induction x1 generalizing ctx s with
  | nil =>
    unfold readExtents
    exact .refl
  | cons e es ih =>
    unfold readExtents
    dsimp only
    exact .ite_2 (.comp (.of devRead_changes) ih) (.comp (.of devRead_changes) ih)

theorem readRun_changes {s : State} {u : Run} {w : Nat} : Changes memoryParts s (readRun s u w).2 := by
  unfold readRun
  split
  · rename_i h0
    exact .of (readExtents_changes.ofEq_2 h0)
  · rename_i h0
    exact .of (readExtents_changes.ofEq_2 h0)

theorem readRuns_changes {ctx : Nat} {x1 : List Run} {x2 : List Contribution} {s : State} :
    Changes memoryParts s (readRuns ctx x1 x2 s).2 := by
  induction x1 generalizing ctx x2 s with
  | nil =>
    unfold readRuns
    exact .refl
  | cons e es ih =>
    unfold readRuns
    dsimp only
    split
    · exact .comp (.comp (.of homeRecord_changes) readRun_changes) ih
    · exact .comp (.of homeRecord_changes) ih

theorem pickKeys_changes {x0 : List Contribution} {s : State} : Changes [.free] s (pickKeys x0 s).2 := by
  induction x0 generalizing s with
  | nil =>
    unfold pickKeys
    exact .refl
  | cons e es ih =>
    unfold pickKeys
    dsimp only
    exact .ite_2 (.of ih) (.ite_2 (.of ih) (.comp (.of ih) drawWord_changes))

theorem updateRow_changes {s : State} {ctx : Nat} {h : HomeRec} {row : Nat} {xs : List Contribution} :
    Changes memoryParts s (updateRow s ctx h row xs).2 := by
  have hr : ∀ t who pa n, Changes memoryParts t (devRead t who pa n).2 :=
    fun t who pa n => .of devRead_changes
  have hw : ∀ t who pa bs p, Changes memoryParts t (devWrite t who pa bs p).2
    :=
    fun t who pa bs p => .of devWrite_changes
  have h1 : ∀ t who pa n x, Changes memoryParts t
      (if h.ep then devRead t who pa n else (x, t)).2 := fun t who pa n x => .ite_2 (hr _ _ _ _) .refl
  have h2 : ∀ t who pa n x, Changes memoryParts t
      (if h.fn = 2 then devRead t who pa n else (x, t)).2 := fun t who pa n x => .ite_2 (hr _ _ _ _) .refl
  have h3 : ∀ t who pa bs p, Changes memoryParts t
      (if h.fn = 2 then (devWrite t who pa bs p).2 else t) := fun t who pa bs p => .ite (hw _ _ _ _ _) .refl
  unfold updateRow
  dsimp only
  exact .ite ((((((hr _ _ _ _).trans (h1 _ _ _ _ _)).trans (h2 _ _ _ _ _)).trans (h3 _ _ _ _ _)).trans (hw _ _ _ _ _)).trans
    (hw _ _ _ _ _)) (((((hr _ _ _ _).trans (h1 _ _ _ _ _)).trans (h2 _ _ _ _ _)).trans (h3 _ _ _ _ _)).trans (hw _ _ _ _ _))

theorem applyRows_changes {ctx : Nat} {hyper : List (Nat × Nat × W32 × W32 × W32)} {x2 : Nat} {x3 : List Contribution} {x4 :
  Applied} {s : State} :
    Changes memoryParts s (applyRows ctx hyper x2 x3 x4 s).2 := by
  induction x2 generalizing ctx hyper x3 x4 s with
  | zero =>
    unfold applyRows
    exact .refl
  | succ n ih =>
    unfold applyRows
    dsimp only
    split
    · exact .refl
    · split
      · exact .comp (.comp (.comp (.of pickKeys_changes) homeRecord_changes) updateRow_changes) ih
      · exact .comp (.comp (.of pickKeys_changes) homeRecord_changes) ih

theorem windowOver_changes {s : State} {k : Nat} {w : Window} {flags : Flags} :
    Changes [.log, .regs, .trace, .merge] s (windowOver s k w flags) := by
  unfold windowOver
  dsimp only
  refine .comp (.ite (.comp (.comp (.of modRmu_changes) bump_changes) bump_changes) ?_) post_changes
  exact .comp (.comp (.comp (.of modRmu_changes) bump_changes) bump_changes) post_changes

theorem applyWindow_changes {s : State} {k : Nat} {w : Window} :
    Changes [.hbm, .poison, .reqs, .slices, .regs, .log, .trace, .free, .merge] s (applyWindow s k w) := by
  unfold applyWindow
  dsimp only
  exact .comp (.comp (.comp (.comp (.of readRuns_changes) applyRows_changes) bump_changes) windowOver_changes)
    beginApply_changes

theorem execApplyEnd_changes {k : Fin 128} {s : State} :
    ResChanges [.hbm, .poison, .reqs, .slices, .regs, .log, .trace, .free, .merge] s (execApplyEnd k s) := by
  unfold execApplyEnd
  split
  · exact .done .refl
  · exact .whenDue (.done (.of applyWindow_changes))

/-! ### Functions of Machine/Matrix -/

theorem modLayer_changes {s : State} {l : Layer} {f : Layer → Layer} : Changes [.layers] s (modLayer s l f) := by
  unfold modLayer
  exact .of sets_layers

theorem dropLayer_changes {s : State} {l : Layer} : Changes [.layers] s (dropLayer s l) := by
  unfold dropLayer
  exact .of sets_layers

theorem failLayer_changes {s : State} {l : Layer} {code : Nat} :
    Changes [.layers, .tags, .cores, .remotes, .reqs, .host] s (failLayer s l code) := by
  unfold failLayer
  exact .comp (.of dropLayer_changes) failAll_changes

theorem startLayer_changes {s : State} {l : Layer} :
    Changes [.layers, .tags, .cores, .remotes, .reqs, .host] s (startLayer s l) := by
  unfold startLayer
  split
  · exact .of dropLayer_changes
  · refine .ite (.of failLayer_changes) ?_
    split
    · exact .of failLayer_changes
    · exact .of modLayer_changes

theorem execInjectorFirstRead_changes {ctx : Fin 64} {layer : BitVec 16} {s : State} :
    ResChanges [.layers, .tags, .cores, .remotes, .reqs, .host] s (execInjectorFirstRead ctx layer s) := by
  unfold execInjectorFirstRead
  split
  · exact .done .refl
  · exact .whenDue (.done (.of startLayer_changes))

theorem injPage_changes {s : State} {l : Layer} {fn : Nat} {x : Option Nat} {a : Nat} :
    Changes [.priOut, .host] s (injPage s l fn x a).2 := by
  unfold injPage
  exact .ite_2 .refl (.ite_2 .refl (.ite_2 (.of requestPage_changes) .refl))

theorem injTo_changes {s : State} {l : Layer} {va : Nat} :
    Changes [.xlate, .px, .regs, .host, .layers, .priOut, .pend] s (injTo s l va).2 := by
  unfold injTo
  split
  · rename_i h0
    exact .of (unitXlate_changes.ofEq_2 h0)
  · rename_i h0
    split
    · exact .of (unitXlate_changes.ofEq_2 h0)
    · exact .comp (.comp (.of (unitXlate_changes.ofEq_2 h0)) askAts_changes) modLayer_changes
    · exact .comp (.of (unitXlate_changes.ofEq_2 h0)) injPage_changes
    · exact .of (unitXlate_changes.ofEq_2 h0)
  · rename_i h0
    refine .ite_2 (.of (unitXlate_changes.ofEq_2 h0)) ?_
    exact .ite_2 (.comp (.of (unitXlate_changes.ofEq_2 h0)) faultRecord_changes) (.of (unitXlate_changes.ofEq_2 h0))
  · rename_i h0
    exact .of (unitXlate_changes.ofEq_2 h0)
  · rename_i h0
    exact .of (unitXlate_changes.ofEq_2 h0)

theorem injScan_changes {l : Layer} {xs : List (Nat × Nat)} {s : State} :
    Changes [.xlate, .px, .regs, .host, .layers, .priOut, .pend] s (injScan l xs s).2 := by
  induction xs generalizing s with
  | nil => exact .refl
  | cons e es ih =>
    unfold injScan
    dsimp only
    refine .ite_2 ?_ (.of injTo_changes)
    split
    · rename_i h
      exact .comp (.of injTo_changes) (ih.ofEq_2 h)
    · exact .comp (.of injTo_changes) ih

theorem injAbsent_changes {s : State} : Changes [.free] s (injAbsent s).2 := by
  unfold injAbsent
  dsimp only
  exact .of drawBytes_changes

theorem injFetch_changes {l : Layer} {xs : List (Nat × Nat × InjTo)} {hs : List HostReply} {s : State} :
    Changes [.hbm, .poison, .reqs, .slices, .regs, .log, .trace, .free, .xlate, .host, .pend, .priOut] s (injFetch l xs hs
      s).2 := by
  induction xs generalizing hs s with
  | nil => exact .refl
  | cons e es ih =>
    obtain ⟨r, x, w⟩ := e
    unfold injFetch
    dsimp only
    split
    · split
      · exact .of memLine_changes
      · split
        · rename_i h
          exact .comp (.of memLine_changes) (ih.ofEq_2 h)
        · exact .comp (.of memLine_changes) ih
    · rename_i fn a g
      have hread : Changes [.hbm, .poison, .reqs, .slices, .regs, .log, .trace, .free, .xlate, .host, .pend, .priOut] s
          (emit (match g with
            | some (seg, k) => countHost s l.ctx seg k (128 * x)
            | none => s) fn (.read fn a 128 (hostAttr (match g with
            | some (seg, k) => countHost s l.ctx seg k (128 * x)
            | none => s) l.ctx true))) := by
        cases g with
        | none => exact .of emit_changes
        | some g => exact .comp (.of countHost_changes) emit_changes
      cases g
      all_goals
        split
        · split
          · rename_i h
            exact .comp (.ite (.comp hread aerReport_changes) hread) (ih.ofEq_2 h)
          · exact .comp (.ite (.comp hread aerReport_changes) hread) ih
        · exact .comp hread post_changes
    · split
      · rename_i h
        exact .comp (.comp (.of faultRecord_changes) injAbsent_changes) (ih.ofEq_2 h)
      · exact .comp (.comp (.of faultRecord_changes) injAbsent_changes) ih
    · split
      · rename_i h
        exact .comp (.comp (.of requestPage_changes) injAbsent_changes) (ih.ofEq_2 h)
      · exact .comp (.comp (.of requestPage_changes) injAbsent_changes) ih
    · exact .refl

theorem haltLayer_changes {s : State} {l : Layer} {row va : Nat} {w : WaitOn} :
    Changes [.cores, .layers] s (haltLayer s l row va w) := by
  unfold haltLayer
  dsimp only
  split
  · exact .comp (.of setCore_changes) modLayer_changes
  · exact .refl

theorem landAll_changes {s : State} {l : Layer} {p : Panel} : Changes [.layers] s (landAll s l p) := by
  unfold landAll
  dsimp only
  exact .of modLayer_changes

theorem holdBuffers_changes {s : State} {l : Layer} : Changes [.mus] s (holdBuffers s l) := by
  unfold holdBuffers
  dsimp only
  exact .foldl (.refl) fun _ _ => .ite .refl (.of sets_mus)

theorem flushOuts_changes {s : State} {l : Layer} {n : Nat} : Changes [.layers, .cores] s (flushOuts s l n) := by
  unfold flushOuts
  dsimp only
  split
  · exact .refl
  · refine .ite .refl ?_
    refine .comp ?_ modLayer_changes
    exact .foldl (.refl) fun _ _ => .of modCore_changes

theorem landPanel_changes {s : State} {l : Layer} {p : Panel} : Changes [.layers, .mus, .cores] s (landPanel s l p) := by
  unfold landPanel
  dsimp only
  exact .foldl (.comp (.of landAll_changes) holdBuffers_changes) fun _ _ => .of flushOuts_changes

theorem injectPanel_changes {s : State} {l : Layer} {hs : List HostReply} : Changes [.cores, .layers, .xlate, .px, .regs,
  .host, .priOut, .pend, .tags, .remotes, .reqs, .mus, .hbm, .poison, .slices, .log, .trace, .free] s (injectPanel s l hs) :=
  by
  unfold injectPanel
  split
  · rename_i h0
    exact .comp (.of (injScan_changes.ofEq_2 h0)) haltLayer_changes
  · rename_i h0
    exact .comp (.of (injScan_changes.ofEq_2 h0)) failLayer_changes
  · rename_i h0
    exact .of (injScan_changes.ofEq_2 h0)
  · rename_i h0
    refine .ite (.of (injScan_changes.ofEq_2 h0)) ?_
    split
    · rename_i h1
      exact .comp (.comp (.of (injScan_changes.ofEq_2 h0)) (injFetch_changes.ofEq_2 h1)) landPanel_changes
    · rename_i h1
      exact .comp (.comp (.of (injScan_changes.ofEq_2 h0)) (injFetch_changes.ofEq_2 h1)) failLayer_changes

theorem execPanelInject_changes {ctx : Fin 64} {layer : BitVec 16} {host : List HostReply} {s : State} :
    ResChanges [.cores, .layers, .xlate, .px, .regs, .host, .priOut, .pend, .tags, .remotes, .reqs, .mus, .hbm, .poison,
      .slices, .log, .trace, .free] s (execPanelInject ctx layer host s) := by
  unfold execPanelInject
  split
  · exact .done .refl
  · exact .whenDue (.done (.of injectPanel_changes))

theorem settleLayer_changes {s : State} {l : Layer} : Changes [.layers] s (settleLayer s l) := by
  unfold settleLayer
  split
  · exact .ite (.of dropLayer_changes) .refl
  · exact .refl

theorem muTurns_changes {s : State} {m n : Nat} {express : Bool} : Changes [.mus] s (muTurns s m n express) := by
  unfold muTurns
  dsimp only
  exact .of sets_mus

theorem consumePanel_changes {s : State} {l : Layer} {n m : Nat} : Changes [.layers, .mus, .regs] s (consumePanel s l n m) :=
  by
  unfold consumePanel
  dsimp only
  split
  · exact .refl
  · exact .ite (.comp (.comp (.of modLayer_changes) muTurns_changes) bump_changes) (.comp (.of modLayer_changes)
      muTurns_changes)

theorem execPanelConsumed_changes {ctx : Fin 64} {layer : BitVec 16} {station : Fin 20} {s : State} :
    ResChanges [.layers, .mus, .regs] s (execPanelConsumed ctx layer station s) := by
  unfold execPanelConsumed
  split
  · exact .whenDue (.done (.comp (.of consumePanel_changes) settleLayer_changes))
  · exact .done .refl

theorem ocRow_changes {l : Layer} {m j p : Nat} {c : Cmd} {o : OcSt} {r : Nat} :
    Changes [.regs] o.state (ocRow l m j p c o r).state := by
  exact .ite (.comp (.ite .refl (.of bump_changes)) bump_changes) (.ite .refl (.of bump_changes))

theorem retireStation_changes {s : State} {st : StationSt} {x2 : List ((Nat × Cmd) × Nat)} :
    Changes retireParts s (retireStation s st x2) := by
  induction x2 generalizing s st with
  | nil =>
    unfold retireStation
    exact .refl
  | cons e es ih =>
    unfold retireStation
    dsimp only
    exact .comp (.comp (.of modCmd_changes) retire_changes) ih

theorem compressBlock_changes {s : State} {l : Layer} {n : Nat} :
    Changes [.layers, .cores, .regs, .tags, .remotes, .reqs, .host] s (compressBlock s l n) := by
  have hrow : ∀ (m j p : Nat) (c : Cmd) (rs : List Nat) (o : OcSt), Changes [.regs] s o.state →
      Changes [.regs] s (rs.foldl (ocRow l m j p c) o).state := by
    intro m j p c rs
    induction rs with
    | nil => exact fun o h => h
    | cons r rs ih => exact fun o h => ih _ (h.trans ocRow_changes)
  have hall : ∀ (m j : Nat) (ps : List ((Nat × Cmd) × Nat)) (o : OcSt), Changes [.regs] s o.state →
      Changes [.regs] s (ps.foldl (fun o e => (List.range e.1.2.ta.rows).foldl (ocRow l m j e.2 e.1.2) o) o).state := by
    intro m j ps
    induction ps with
    | nil => exact fun o h => h
    | cons e ps ih => exact fun o h => ih _ (hrow _ _ _ _ _ _ h)
  unfold compressBlock
  dsimp only
  refine .ite (.comp (.comp ?_ modLayer_changes) retireStation_changes) ?_ <;>
    exact .comp (.comp (.of (hall _ _ _ ⟨getStation l n, s⟩ .refl)) modLayer_changes) flushOuts_changes

theorem execOutputCompressorWrite_changes {ctx : Fin 64} {layer : BitVec 16} {station : Fin 20} {s : State} :
    ResChanges [.layers, .cores, .regs, .tags, .remotes, .reqs, .host] s (execOutputCompressorWrite ctx layer station s) := by
  unfold execOutputCompressorWrite
  split
  · exact .done .refl
  · exact .whenDue (.done (.comp (.of compressBlock_changes) settleLayer_changes))

theorem execLayerEndMarker_changes {a : At} {s : State} : ResChanges [.mus] s (execLayerEndMarker a s) := by
  unfold execLayerEndMarker
  dsimp only
  exact .whenDue (.done (.of sets_mus))

theorem resumeLayer_changes {s : State} {l : Layer} : Changes [.layers, .cores] s (resumeLayer s l) := by
  unfold resumeLayer
  dsimp only
  refine .comp ?_ modLayer_changes
  split
  · exact .of modCore_changes
  · exact .refl

theorem streamResume_changes {s : State} {t : Nat} : Changes [.layers, .cores, .tags] s (streamResume s t) := by
  unfold streamResume
  split
  · exact .of resumeLayer_changes
  · exact .of resumeStream_changes

theorem execStreamResume_changes {tag : Fin 4096} {s : State} :
    ResChanges [.layers, .cores, .tags] s (execStreamResume tag s) := by
  unfold execStreamResume
  exact .whenDue (.done (.of streamResume_changes))

/-! ### Functions of Machine/Parcels -/

theorem inboxPut_changes {s : State} {n slot : Nat} {p : Parcel} : Changes retireParts s (inboxPut s n slot p) := by
  unfold inboxPut
  exact .comp (.of modSlot_changes) serveInbox_changes

theorem deliverParcel_changes {s : State} {n slot ctx : Nat} {p : Parcel} :
    Changes retireParts s (deliverParcel s n slot ctx p).2 := by
  unfold deliverParcel
  exact .ite_2 (.of inboxPut_changes) .refl

theorem setRing_changes {s : State} {ctx : Nat} {x : PRing} : Changes [.host] s (setRing s ctx x) := by
  unfold setRing
  dsimp only
  exact .of sets_host

theorem ringPut_changes {rank : Nat} {s : State} {ctx : Nat} {p : Parcel} : Changes [.host] s (ringPut rank s ctx p) := by
  unfold ringPut
  dsimp only
  exact .comp (.comp (.of emitAt_changes) setRing_changes) sendVector_changes

theorem deliverRing_changes {rank : Nat} {s : State} {ctx : Nat} {p : Parcel} :
    Changes [.host] s (deliverRing rank s ctx p).2 := by
  unfold deliverRing
  exact .ite_2 (.of ringPut_changes) .refl

theorem psendDelivers_changes {s : State} {t : Nat} {c : Cmd} : Changes retireParts s (psendDelivers s t c) := by
  unfold psendDelivers
  dsimp only
  exact .comp (.comp (.ite_2 (.of deliverRing_changes) (.of deliverParcel_changes)) modCmd_changes) fail_changes

theorem portDelivers_changes {s : State} {ctx : Nat} {x : PortSend} {t : Nat} :
    Changes retireParts s (portDelivers s ctx x t) := by
  unfold portDelivers
  dsimp only
  exact .comp (.comp (.ite (.comp (.of deliverParcel_changes) takeTag_changes) (.of deliverParcel_changes)) setTag_changes)
    sets_host

theorem execParcelDelivery_changes {what : ParcelRef} {s : State} : ResChanges retireParts s (execParcelDelivery what s) := by
  unfold execParcelDelivery
  split
  · refine .whenDue ?_
    refine .done ?_
    split
    · exact .of psendDelivers_changes
    · exact .refl
  · split
    · split
      · exact .whenDue (.done (.of portDelivers_changes))
      · exact .done .refl
    · exact .done .refl

theorem denied_changes {s : State} {fn ctx : Nat} : Changes [.log, .regs, .trace] s (denied s fn ctx) := by
  unfold denied
  exact .of post_changes

theorem portData_changes {s : State} {key : Nat} {ws : List (Nat × List Byte)} : Changes [.host] s (portData s key ws) := by
  unfold portData
  dsimp only
  exact .of sets_host

theorem portStart_changes {s : State} {key : Nat} {v : W64} {tag : Option Nat} :
    Changes [.host, .tags] s (portStart s key v tag) := by
  unfold portStart
  dsimp only
  refine .comp ?_ sets_host
  split
  · exact .of takeTag_changes
  · exact .refl

theorem portSends_changes {s : State} {key : Nat} {v : W64} {tag : Nat} :
    ResChanges [.host, .tags] s (portSends s key v tag) := by
  unfold portSends
  exact .ite (.done .refl) (.ite (.done (.of portStart_changes)) (.need (.done (.of portStart_changes))))

theorem execParcelPortSend_changes {fn ctx : Fin 64} {port : Fin 8} {data : List (Nat × List Byte)} {send : BitVec 64} {tag :
  Fin 4096} {s : State} : ResChanges [.log, .regs, .trace, .host, .tags] s (execParcelPortSend fn ctx port data send tag s) :=
  by
  unfold execParcelPortSend
  dsimp only
  split
  · exact .done .refl
  · exact .done (.of denied_changes)
  · exact .comp (.of portData_changes) portSends_changes

theorem ringBell_changes {l : List Part} {s : State} {fn ctx skew : Nat} {data : List Byte} {rings : Nat → State} (h : ∀ v,
  Changes l s (rings v)) (hl : [.log, .regs, .trace] ⊆ l := by decide) :
    Changes l s (ringBell s fn ctx skew data rings) := by
  unfold ringBell
  split
  · exact .refl
  · exact .of denied_changes hl
  · exact .ite (h _) (.of post_changes hl)

theorem ringRelease_changes {s : State} {ctx v : Nat} : Changes [.log, .regs, .trace, .host] s (ringRelease s ctx v) := by
  unfold ringRelease
  dsimp only
  exact .ite (.of post_changes) (.of setRing_changes)

theorem execParcelRingHeadDoorbell_changes {fn ctx : Fin 64} {skew : Fin 8} {data : List Byte} {s : State} :
    ResChanges [.log, .regs, .trace, .host] s (execParcelRingHeadDoorbell fn ctx skew data s) := by
  unfold execParcelRingHeadDoorbell
  refine .done ?_
  refine ringBell_changes ?_
  intro _
  exact .of ringRelease_changes

/-! ### Functions of Machine/Link -/

theorem setPort_changes {s : State} {p : Nat} {x : PortSt} : Changes [.fab] s (setPort s p x) := by
  unfold setPort
  dsimp only
  exact .of sets_fab

theorem modPort_changes {s : State} {p : Nat} {f : PortSt → PortSt} : Changes [.fab] s (modPort s p f) := by
  unfold modPort
  exact .of setPort_changes

theorem wireOut_changes {s : State} {p seq : Nat} {nak : Bool} {body : WireBody} :
    Changes [.fab] s (wireOut s p seq nak body) := by
  unfold wireOut
  dsimp only
  exact .comp (.of setPort_changes) sets_fab

theorem sendIdle_changes {s : State} {p : Nat} {nak : Bool} : Changes [.fab] s (sendIdle s p nak) := by
  unfold sendIdle
  exact .of wireOut_changes

theorem returnCredits_changes {p x1 : Nat} {s : State} : Changes [.fab] s (returnCredits p x1 s) := by
  induction x1 generalizing p s with
  | zero =>
    unfold returnCredits
    exact .refl
  | succ n ih =>
    unfold returnCredits
    exact .ite .refl (.comp (.of sendIdle_changes) ih)

theorem oweCredits_changes {s : State} {p cls n : Nat} : Changes [.fab] s (oweCredits s p cls n) := by
  unfold oweCredits
  exact .ite (.comp (.of modPort_changes) returnCredits_changes) .refl

theorem sendEnt_changes {s : State} {p : Nat} {e : TxEnt} : Changes [.fab, .regs] s (sendEnt s p e) := by
  unfold sendEnt
  exact .comp (.of wireOut_changes) bump_changes

theorem sendPacket_changes {s : State} {p cls : Nat} {k : Packet} : Changes [.fab, .regs] s (sendPacket s p cls k) := by
  unfold sendPacket
  dsimp only
  exact .foldl (.of setPort_changes) fun _ _ => .of sendEnt_changes

theorem linkRecord_changes {s : State} {code : LogCode} {p cause : Nat} :
    Changes [.log, .regs, .trace] s (linkRecord s code p cause) := by
  unfold linkRecord
  exact .of post_changes

theorem setDetour_changes {s : State} {d link : Nat} {broken : Bool} : Changes [.regs] s (setDetour s d link broken) := by
  unfold setDetour
  exact .ite (.of setFld_changes) .refl

theorem announceLink_changes {s : State} {d link : Nat} {broken : Bool} :
    Changes [.inject] s (announceLink s d link broken) := by
  unfold announceLink
  dsimp only
  exact .of sets_inject

theorem bundleChanged_changes {s : State} {dir : Nat} : Changes [.regs, .inject] s (bundleChanged s dir) := by
  unfold bundleChanged
  dsimp only
  exact .ite .refl (.ite .refl (.comp (.of setDetour_changes) announceLink_changes))

theorem lose_changes {s : State} {p n : Nat} : Changes [.regs, .log, .trace] s (lose s p n) := by
  unfold lose
  exact .ite .refl (.comp (.of bump_changes) post_changes)

theorem loseBundle_changes {s : State} {dir p : Nat} : Changes [.fab, .regs, .log, .trace] s (loseBundle s dir p) := by
  unfold loseBundle
  dsimp only
  refine .comp (.comp ?_ sets_fab) lose_changes
  exact .foldl (.refl) fun _ _ => .of modPort_changes

theorem askFailover_changes {s : State} {p : Nat} : Changes [.fab] s (askFailover s p) := by
  unfold askFailover
  split
  · exact .of wireOut_changes
  · exact .refl

theorem abandon_changes {s : State} : Changes [.time, .regs] s (abandon s) := by
  unfold abandon
  dsimp only
  exact .comp (.of sets_time) bump_changes

theorem exchangeCut_changes {s : State} {p : Nat} : Changes [.time, .regs] s (exchangeCut s p) := by
  unfold exchangeCut
  exact .ite (.of abandon_changes) .refl

theorem linkFails_changes {s : State} {p st cause : Nat} : Changes portParts s (linkFails s p st cause) := by
  unfold linkFails
  dsimp only
  refine .comp (.ite ?_ ?_) bundleChanged_changes
  · exact .comp (.comp (.comp (.comp (.comp (.of exchangeCut_changes) bump_changes) linkRecord_changes) modPort_changes)
      lose_changes) loseBundle_changes
  · refine .ite ?_ ?_
    · exact .comp (.comp (.comp (.of exchangeCut_changes) bump_changes) linkRecord_changes) modPort_changes
    · exact .comp (.comp (.comp (.comp (.comp (.of exchangeCut_changes) bump_changes) linkRecord_changes) modPort_changes)
        modPort_changes) askFailover_changes

theorem fencePort_changes {s : State} {p : Nat} : Changes portParts s (fencePort s p) := by
  unfold fencePort
  dsimp only
  exact .comp (.comp (.ite (.comp (.comp (.of setFld_changes) post_changes) linkFails_changes) (.comp (.comp (.of
    setFld_changes) post_changes) modPort_changes)) modPort_changes) bundleChanged_changes

theorem fenceRule_changes {s : State} {p : Nat} : Changes portParts s (fenceRule s p) := by
  unfold fenceRule
  dsimp only
  exact .ite (.of fencePort_changes) .refl

theorem linkDown_changes {s : State} {p cause : Nat} : Changes portParts s (linkDown s p cause) := by
  unfold linkDown
  exact .comp (.of linkFails_changes) fenceRule_changes

theorem goBack_changes {s : State} {p : Nat} : Changes portParts s (goBack s p) := by
  unfold goBack
  dsimp only
  refine .ite (.comp (.comp (.of bump_changes) setPort_changes) linkDown_changes) ?_
  exact .foldl (.comp (.of bump_changes) setPort_changes) fun _ _ => .of sendEnt_changes

theorem takeHead_changes {s : State} {p : Nat} {h : FlitHead} : Changes [.fab] s (takeHead s p h) := by
  unfold takeHead
  dsimp only
  split
  · exact .comp (.of modPort_changes) modPort_changes
  · exact .of modPort_changes

theorem headArrives_changes {s : State} {p : Nat} {h : FlitHead} : Changes portParts s (headArrives s p h) := by
  unfold headArrives
  dsimp only
  exact .ite .refl (.ite (.comp (.of takeHead_changes) goBack_changes) (.of takeHead_changes))

theorem refuseFlit_changes {s : State} {p : Nat} : Changes [.fab] s (refuseFlit s p) := by
  unfold refuseFlit
  exact .ite .refl (.comp (.of modPort_changes) sendIdle_changes)

theorem fecCount_changes {s : State} {p sym unc : Nat} : Changes [.regs, .fab, .log, .trace] s (fecCount s p sym unc) := by
  unfold fecCount
  dsimp only
  refine .ite (.comp (.comp (.comp (.of bump_changes) bump_changes) setPort_changes) post_changes) ?_
  exact .comp (.comp (.of bump_changes) bump_changes) setPort_changes

theorem dropPacket_changes {s : State} {p cls n : Nat} : Changes [.log, .regs, .trace, .fab] s (dropPacket s p cls n) := by
  unfold dropPacket
  exact .comp (.of post_changes) oweCredits_changes

theorem enterFlit_changes {s : State} {p cls : Nat} {sop : Option Packet} {eop : Bool} :
    Changes [.fab, .log, .regs, .trace] s (enterFlit s p cls sop eop) := by
  unfold enterFlit
  dsimp only
  split
  · exact .comp (.of modPort_changes) dropPacket_changes
  · exact .of dropPacket_changes
  · exact .ite (.of modPort_changes) (.ite (.of modPort_changes) (.comp (.of modPort_changes) dropPacket_changes))

theorem dataFlit_changes {s : State} {p cls seq : Nat} {sop : Option Packet} {eop : Bool} :
    Changes [.fab, .regs, .log, .trace] s (dataFlit s p cls seq sop eop) := by
  unfold dataFlit
  dsimp only
  exact .ite (.of refuseFlit_changes) (.comp (.comp (.comp (.of setPort_changes) bump_changes) enterFlit_changes)
    sendIdle_changes)

theorem execIdleFlit_changes {port : Fin 32} {good : Bool} {head : FlitHead} {sym unc : Nat} {s : State} :
    ResChanges portParts s (execIdleFlit port good head sym unc s) := by
  unfold execIdleFlit
  dsimp only
  exact .whenDue (.done (.ite (.comp (.of fecCount_changes) headArrives_changes) (.comp (.of fecCount_changes) bump_changes)))

theorem dataArrives_changes {s : State} {p : Nat} {good : Bool} {h : FlitHead} {cls : Nat} {sop : Option Packet} {eop : Bool}
  :
    Changes portParts s (dataArrives s p good h cls sop eop) := by
  unfold dataArrives
  dsimp only
  refine .ite .refl ?_
  exact .ite (.comp (.of bump_changes) refuseFlit_changes) (.ite (.comp (.of headArrives_changes) dataFlit_changes) (.of
    headArrives_changes))

theorem execDataFlit_changes {port : Fin 32} {good : Bool} {head : FlitHead} {vc : Fin 4} {dl : Bool} {sop : Option Packet}
  {eop : Bool} {sym unc : Nat} {s : State} :
    ResChanges portParts s (execDataFlit port good head vc dl sop eop sym unc s) := by
  unfold execDataFlit
  dsimp only
  exact .whenDue (.done (.comp (.of fecCount_changes) dataArrives_changes))

theorem execRetryTimerExpiry_changes {port : Fin 32} {s : State} : ResChanges portParts s (execRetryTimerExpiry port s) := by
  unfold execRetryTimerExpiry
  exact .whenDue (.done (.of goBack_changes))

theorem lockLost_changes {s : State} {p : Nat} : Changes portParts s (lockLost s p) := by
  unfold lockLost
  exact .ite (.of linkDown_changes) (.of modPort_changes)

theorem execLockLossTimeout_changes {port : Fin 32} {s : State} : ResChanges portParts s (execLockLossTimeout port s) := by
  unfold execLockLossTimeout
  exact .whenDue (.done (.of lockLost_changes))

theorem attemptFails_changes {s : State} {p : Nat} : Changes portParts s (attemptFails s p) := by
  unfold attemptFails
  dsimp only
  exact .ite (.of modPort_changes) (.comp (.comp (.of modPort_changes) bundleChanged_changes) fenceRule_changes)

theorem locks_changes {s : State} {p w : Nat} : Changes [.fab, .log, .regs, .trace] s (locks s p w) := by
  unfold locks
  dsimp only
  exact .ite (.comp (.of modPort_changes) post_changes) (.of modPort_changes)

theorem execTrainingAttemptEnd_changes {port : Fin 32} {markers : List (List (BitVec 20))} {s : State} :
    ResChanges portParts s (execTrainingAttemptEnd port markers s) := by
  unfold execTrainingAttemptEnd
  dsimp only
  refine .whenDue ?_
  refine .done ?_
  split
  · exact .of attemptFails_changes
  · exact .of locks_changes

theorem execPortRetryTimer_changes {port : Fin 32} {s : State} : ResChanges [.fab] s (execPortRetryTimer port s) := by
  unfold execPortRetryTimer
  dsimp only
  exact .whenDue (.done (.of modPort_changes))

theorem execHelloTimer_changes {port : Fin 32} {s : State} : ResChanges [.fab] s (execHelloTimer port s) := by
  unfold execHelloTimer
  dsimp only
  exact .whenDue (.done (.of wireOut_changes))

theorem enterUp_changes {s : State} {p seq : Nat} : Changes [.fab, .log, .regs, .trace, .inject] s (enterUp s p seq) := by
  unfold enterUp
  dsimp only
  exact .comp (.comp (.comp (.of modPort_changes) linkRecord_changes) returnCredits_changes) bundleChanged_changes

theorem mismatch_changes {s : State} {p why : Nat} {h : Hello} :
    Changes [.fab, .log, .regs, .trace, .inject] s (mismatch s p why h) := by
  unfold mismatch
  dsimp only
  exact .comp (.comp (.of modPort_changes) post_changes) bundleChanged_changes

theorem helloHeard_changes {s : State} {p : Nat} {h : Hello} {seq : Nat} :
    Changes [.fab, .log, .regs, .trace, .inject] s (helloHeard s p h seq) := by
  unfold helloHeard
  dsimp only
  refine .ite (.comp (.of modPort_changes) mismatch_changes) ?_
  exact .ite (.comp (.comp (.of modPort_changes) modPort_changes) enterUp_changes) (.comp (.of modPort_changes)
    modPort_changes)

theorem helloArrives_changes {s : State} {p : Nat} {good : Bool} {head : FlitHead} {h : Hello} :
    Changes portParts s (helloArrives s p good head h) := by
  unfold helloArrives
  exact .ite (.of bump_changes) (.ite (.of helloHeard_changes) (.ite (.comp (.of modPort_changes) headArrives_changes) .refl))

theorem execHello_changes {port : Fin 32} {good : Bool} {head : FlitHead} {hello : Hello} {s : State} :
    ResChanges portParts s (execHello port good head hello s) := by
  unfold execHello
  exact .whenDue (.done (.of helloArrives_changes))

theorem failoverAnswer_changes {s : State} {p a : Nat} : Changes [.fab] s (failoverAnswer s p a) := by
  unfold failoverAnswer
  dsimp only
  split
  · exact .refl
  · exact .comp (.of modPort_changes) sets_fab

theorem failoverAsked_changes {s : State} {p q lane : Nat} : Changes [.fab] s (failoverAsked s p q lane) := by
  unfold failoverAsked
  dsimp only
  exact .comp (.of modPort_changes) wireOut_changes

theorem failoverArrives_changes {s : State} {p : Nat} {good : Bool} {head : FlitHead} {link : Nat} {answer : Option Nat} :
    Changes portParts s (failoverArrives s p good head link answer) := by
  unfold failoverArrives
  dsimp only
  refine .ite (.of bump_changes) ?_
  split
  · exact .of headArrives_changes
  · split
    · exact .comp (.of headArrives_changes) failoverAnswer_changes
    · exact .comp (.of headArrives_changes) failoverAsked_changes

theorem execFailover_changes {port : Fin 32} {good : Bool} {head : FlitHead} {link : Fin 4} {answer : Option (BitVec 16)} {s :
  State} :
    ResChanges portParts s (execFailover port good head link answer s) := by
  unfold execFailover
  exact .whenDue (.done (.of failoverArrives_changes))

theorem execFailoverResendTimer_changes {port : Fin 32} {s : State} : ResChanges [.fab] s (execFailoverResendTimer port s) :=
  by
  unfold execFailoverResendTimer
  exact .whenDue (.done (.of askFailover_changes))

theorem failoverLost_changes {s : State} {p : Nat} : Changes [.fab, .regs, .log, .trace] s (failoverLost s p) := by
  unfold failoverLost
  dsimp only
  exact .comp (.of modPort_changes) lose_changes

theorem execFailoverTimeout_changes {port : Fin 32} {s : State} :
    ResChanges [.fab, .regs, .log, .trace] s (execFailoverTimeout port s) := by
  unfold execFailoverTimeout
  exact .whenDue (.done (.of failoverLost_changes))

/-! ### Functions of Machine/Fabric -/

theorem takePkt_changes {s : State} {r : PktRef} : Changes [.inject, .fab] s (takePkt s r) := by
  unfold takePkt
  dsimp only
  split
  · exact .of sets_inject
  · exact .of sets_fab
  · split
    · exact .refl
    · exact .comp (.of modPort_changes) oweCredits_changes

theorem settleBundle_changes {s : State} {dir : Nat} : Changes [.fab] s (settleBundle s dir) := by
  unfold settleBundle
  exact .foldl (.refl) fun _ _ => .of modPort_changes

theorem sendOn_changes {s : State} {dir cls : Nat} {p : Packet} : Changes [.fab, .regs] s (sendOn s dir cls p) := by
  unfold sendOn
  split
  · exact .comp (.of settleBundle_changes) sendPacket_changes
  · exact .refl

theorem poisonSent_changes {s : State} {k : Packet} : Changes [.tags] s (poisonSent s k) := by
  unfold poisonSent
  split
  · exact .of modCmd_changes
  · exact .refl

theorem markLeft_changes {s : State} {p : Packet} : Changes [.remotes] s (markLeft s p) := by
  unfold markLeft
  exact .of sets_remotes

theorem forgetRemotes_changes {s : State} {t : Nat} {q : Remote → Bool} : Changes [.remotes, .tags] s (forgetRemotes s t q) :=
  by
  unfold forgetRemotes
  dsimp only
  exact .comp (.of sets_remotes) modCmd_changes

theorem forgetFirst_changes {s : State} {q : Remote → Bool} : Changes [.remotes] s (forgetFirst s q) := by
  unfold forgetFirst
  exact .of sets_remotes

theorem settleBag_changes {s : State} {t b h : Nat} : Changes [.remotes, .tags] s (settleBag s t b h) := by
  unfold settleBag
  split
  · exact .refl
  · split
    · exact .refl
    · exact .ite (.of forgetRemotes_changes) (.ite (.of forgetRemotes_changes) .refl)

theorem shardFails_changes {s : State} {t b h code : Nat} : Changes [.remotes, .tags] s (shardFails s t b h code) := by
  unfold shardFails
  dsimp only
  exact .comp (.comp (.of forgetRemotes_changes) modCmd_changes) settleBag_changes

theorem requestFails_changes {s : State} {t : Nat} {r : Remote} {code : Nat} :
    Changes retireParts s (requestFails s t r code) := by
  unfold requestFails
  split
  · exact .of shardFails_changes
  · exact .comp (.of forgetFirst_changes) answerLocal_changes
  · exact .of fail_changes

theorem late_changes {s : State} : Changes [.regs] s (late s) := by
  unfold late
  exact .of bump_changes

theorem errorArrives_changes {s : State} {p : Packet} :
    Changes [.regs, .remotes, .tags, .cores, .reqs, .host] s (errorArrives s p) := by
  unfold errorArrives
  split
  · exact .of late_changes
  · split
    · exact .of requestFails_changes
    · exact .of late_changes

theorem readArrives_changes {s : State} {t : Nat} {c : Cmd} {p : Packet} : Changes retireParts s (readArrives s t c p) := by
  unfold readArrives
  dsimp only
  exact .comp (.comp (.of modCore_changes) modCmd_changes) retire_changes

theorem writeAnswered_changes {s : State} {t : Nat} {p : Packet} : Changes retireParts s (writeAnswered s t p) := by
  unfold writeAnswered
  exact .comp (.of modCmd_changes) retire_changes

theorem partialArrives_changes {s : State} {t : Nat} {p : Packet} : Changes [.tags, .remotes] s (partialArrives s t p) := by
  unfold partialArrives
  dsimp only
  exact .comp (.of modCmd_changes) settleBag_changes

theorem responseArrives_changes {s : State} {p : Packet} :
    Changes [.cores, .tags, .remotes, .reqs, .host, .regs] s (responseArrives s p) := by
  unfold responseArrives
  split
  · split
    · exact .of readArrives_changes
    · exact .of writeAnswered_changes
    · exact .of partialArrives_changes
    · exact .comp (.of forgetFirst_changes) answerLocal_changes
    · exact .of fail_changes
  · exact .of late_changes

theorem injectPkt_changes {s : State} {p : Packet} : Changes [.inject] s (injectPkt s p) := by
  unfold injectPkt
  exact .of sets_inject

theorem deliverHere_changes {s : State} {p : Packet} {tag : Nat} :
    Changes [.inject, .merge, .tags, .inbound] s (deliverHere s p tag) := by
  unfold deliverHere
  dsimp only
  refine .ite (.of injectPkt_changes) ?_
  refine .ite ?_ (.comp (.ite (.of takeTag_changes) .refl) sets_inbound_nextInbound)
  split
  · exact .comp (.ite (.of takeTag_changes) .refl) sets_mergeNet
  · exact .of injectPkt_changes

theorem unsent_changes {s : State} {p : Packet} : Changes [.tags] s (unsent s p) := by
  unfold unsent
  split
  · exact .ite (.of modCmd_changes) .refl
  · exact .refl

theorem routeFails_changes {s : State} {r : PktRef} {p : Packet} :
    Changes [.tags, .regs, .remotes, .cores, .reqs, .host, .inject] s (routeFails s r p) := by
  unfold routeFails
  dsimp only
  refine .ite ?_ (.ite .refl (.of bump_changes))
  split
  · exact .comp (.of unsent_changes) errorArrives_changes
  · exact .of injectPkt_changes

theorem hopOut_changes {s : State} {r : PktRef} {p : Packet} {by_ : Option (Nat × Nat)} {tag : Nat} :
    Changes [.inject, .fab, .regs, .remotes, .merge, .tags, .inbound, .cores, .reqs, .host] s (hopOut s r p by_ tag) := by
  unfold hopOut
  dsimp only
  split
  · exact .comp (.comp (.of takePkt_changes) bump_changes) sendOn_changes
  · split
    · exact .comp (.comp (.comp (.ite (.of poisonSent_changes) .refl) markLeft_changes) takePkt_changes) deliverHere_changes
    · exact .comp (.of takePkt_changes) routeFails_changes
    · refine .comp ?_ sendOn_changes
      split
      · refine .ite ?_ ?_
        · exact .comp (.comp (.ite (.comp (.ite (.of poisonSent_changes) .refl) bump_changes) (.ite (.of poisonSent_changes)
            .refl)) takePkt_changes) markLeft_changes
        · exact .comp (.ite (.comp (.ite (.of poisonSent_changes) .refl) bump_changes) (.ite (.of poisonSent_changes) .refl))
            takePkt_changes
      · exact .comp (.ite (.comp (.ite (.of poisonSent_changes) .refl) bump_changes) (.ite (.of poisonSent_changes) .refl))
          takePkt_changes

theorem forward_changes {s : State} {r : PktRef} {p : Packet} {by_ : Option (Nat × Nat)} {tag : Nat} {other : Option PktRef} :
  Changes [.inject, .fab, .regs, .remotes, .merge, .tags, .inbound, .cores, .reqs, .host] s (forward s r p by_ tag other) :=
  by
  unfold forward
  split
  · exact .comp (.comp (.of takePkt_changes) bump_changes) hopOut_changes
  · exact .ite (.of takePkt_changes) (.of hopOut_changes)

theorem execPacketForward_changes {pkt : PktRef} {tag : Fin 4096} {combine : Option PktRef} {s : State} :
    ResChanges [.inject, .fab, .regs, .remotes, .merge, .tags, .inbound, .cores, .reqs, .host] s (execPacketForward pkt tag
      combine s) := by
  unfold execPacketForward
  split
  · exact .done .refl
  · exact .whenDue (.done (.of forward_changes))

theorem lsaTake_changes {s : State} {p : Packet} {by_ : Option (Nat × Nat)} : Changes [.regs] s (lsaTake s p by_) := by
  unfold lsaTake
  exact .ite (.of setDetour_changes) .refl

theorem execLsa_changes {pkt : PktRef} {s : State} : ResChanges [.regs, .inject, .fab] s (execLsa pkt s) := by
  unfold execLsa
  dsimp only
  split
  · exact .done .refl
  · exact .whenDue (.done (.ite (.comp (.of lsaTake_changes) takePkt_changes) (.comp (.comp (.of lsaTake_changes)
      takePkt_changes) sendOn_changes)))

theorem endInbound_changes {s : State} {e : Inbound} : Changes [.inbound, .tags] s (endInbound s e) := by
  unfold endInbound
  dsimp only
  refine .comp ?_ sets_inbound
  split
  · exact .of setTag_changes
  · exact .refl

theorem answerInbound_changes {s : State} {e : Inbound} {op reason : Nat} {data : List Byte} {poison : List Bool} :
    Changes [.inbound, .tags, .inject] s (answerInbound s e op reason data poison) := by
  unfold answerInbound
  dsimp only
  exact .comp (.of endInbound_changes) injectPkt_changes

theorem refuseInbound_changes {s : State} {e : Inbound} {code : Nat} :
    Changes [.inbound, .tags, .inject] s (refuseInbound s e code) := by
  unfold refuseInbound
  exact .of answerInbound_changes

theorem serveRead_changes {s : State} {e : Inbound} :
    Changes [.inbound, .tags, .inject, .hbm, .poison, .reqs, .slices, .regs, .log, .trace, .free] s (serveRead s e) := by
  unfold serveRead
  dsimp only
  exact .ite (.of refuseInbound_changes) (.ite (.comp (.of devRead_changes) refuseInbound_changes) (.comp (.of
    devRead_changes) answerInbound_changes))

theorem execRemoteRead_changes {id : Nat} {s : State} :
    ResChanges [.inbound, .tags, .inject, .hbm, .poison, .reqs, .slices, .regs, .log, .trace, .free] s (execRemoteRead id s)
      := by
  unfold execRemoteRead
  split
  · exact .whenDue (.done (.of serveRead_changes))
  · exact .done .refl

theorem serveWrite_changes {s : State} {e : Inbound} :
    Changes [.inbound, .tags, .inject, .hbm, .poison, .reqs, .slices, .regs, .log, .trace] s (serveWrite s e) := by
  unfold serveWrite
  dsimp only
  exact .ite (.of refuseInbound_changes) (.ite (.comp (.of devWrite_changes) refuseInbound_changes) (.comp (.of
    devWrite_changes) answerInbound_changes))

theorem execWindowWrite_changes {id : Nat} {s : State} :
    ResChanges [.inbound, .tags, .inject, .hbm, .poison, .reqs, .slices, .regs, .log, .trace] s (execWindowWrite id s) := by
  unfold execWindowWrite
  split
  · exact .whenDue (.done (.of serveWrite_changes))
  · exact .done .refl

theorem serveParcel_changes {s : State} {e : Inbound} :
    Changes [.inbound, .tags, .inject, .cores, .remotes, .reqs, .host] s (serveParcel s e) := by
  unfold serveParcel
  dsimp only
  exact .ite (.of answerInbound_changes) (.comp (.of deliverParcel_changes) answerInbound_changes)

theorem execParcel_changes {id : Nat} {s : State} :
    ResChanges [.inbound, .tags, .inject, .cores, .remotes, .reqs, .host] s (execParcel id s) := by
  unfold execParcel
  split
  · exact .whenDue (.done (.of serveParcel_changes))
  · exact .done .refl

theorem poolHome_changes {p : Packet} {h : HomeRec} {f : Fmt} {w : Nat} {x4 : List (Nat × W32)} {x5 : Pooled} {s : State} :
    Changes memoryParts s (poolHome p h f w x4 x5 s).2 := by
  induction x4 generalizing p h f w x5 s with
  | nil =>
    unfold poolHome
    exact .refl
  | cons e es ih =>
    unfold poolHome
    dsimp only
    exact .comp (.of devRead_changes) ih

theorem servePool_changes {s : State} {es : List Inbound} {p : Packet} :
    Changes [.inject, .inbound, .tags, .hbm, .poison, .reqs, .slices, .regs, .log, .trace, .free] s (servePool s es p) := by
  unfold servePool
  dsimp only
  refine .ite ?_ ?_
  · refine .comp ?_ sets_inject
    exact .foldl (.refl) fun _ _ => .of endInbound_changes
  · split
    · refine .comp ?_ sets_inject
      exact .foldl (.of homeRecord_changes) fun _ _ => .of endInbound_changes
    · refine .comp ?_ sets_inject
      exact .foldl (.of homeRecord_changes) fun _ _ => .of endInbound_changes
    · split
      · refine .comp ?_ sets_inject
        exact .foldl (.of homeRecord_changes) fun _ _ => .of endInbound_changes
      · refine .ite ?_ ?_
        · refine .comp ?_ sets_inject
          exact .foldl (.comp (.of homeRecord_changes) poolHome_changes) fun _ _ => .of endInbound_changes
        · refine .comp ?_ sets_inject
          exact .foldl (.comp (.of homeRecord_changes) poolHome_changes) fun _ _ => .of endInbound_changes

theorem execPoolAtHome_changes {id : Nat} {s : State} :
    ResChanges [.inject, .inbound, .tags, .hbm, .poison, .reqs, .slices, .regs, .log, .trace, .free] s (execPoolAtHome id s)
      := by
  unfold execPoolAtHome
  dsimp only
  split
  · exact .done .refl
  · exact .whenDue (.done (.of servePool_changes))

theorem execError_changes {id : Nat} {s : State} :
    ResChanges [.inbound, .tags, .regs, .remotes, .cores, .reqs, .host] s (execError id s) := by
  unfold execError
  split
  · exact .done (.comp (.of endInbound_changes) errorArrives_changes)
  · exact .done .refl

theorem execRemoteResponse_changes {id : Nat} {s : State} :
    ResChanges [.inbound, .tags, .cores, .remotes, .reqs, .host, .regs] s (execRemoteResponse id s) := by
  unfold execRemoteResponse
  split
  · exact .done (.comp (.of endInbound_changes) responseArrives_changes)
  · exact .done .refl

theorem execRemoteTimeout_changes {k : Nat} {s : State} :
    ResChanges [.regs, .remotes, .tags, .cores, .reqs, .host] s (execRemoteTimeout k s) := by
  unfold execRemoteTimeout
  split
  · exact .done .refl
  · exact .whenDue (.done (.comp (.of bump_changes) requestFails_changes))

/-! ### Functions of Machine/Time -/

theorem setTime_changes {s : State} {t : TimeSt} : Changes [.time] s (setTime s t) := by
  unfold setTime
  exact .of sets_time

theorem setTtBit_changes {s : State} {b : Nat} {v : Bool} : Changes [.regs] s (setTtBit s b v) := by
  unfold setTtBit
  exact .of setFld_changes

theorem enterTt_changes {s : State} {st : Nat} : Changes [.regs, .time] s (enterTt s st) := by
  unfold enterTt
  dsimp only
  exact .ite (.comp (.comp (.of setFld_changes) setTtBit_changes) setTime_changes) (.of setFld_changes)

theorem traceTimeTrigger_changes {s : State} : Changes [.trace] s (traceTimeTrigger s) := by
  unfold traceTimeTrigger
  exact .ite (.of traceTrigger_changes) .refl

theorem publish_changes {s : State} : Changes [.now, .trace] s (publish s) := by
  unfold publish
  exact .comp (.of sets_now) traceTimeTrigger_changes

theorem execTimeCopyUpdate_changes {skew : ℤ} {s : State} : ResChanges [.time, .now, .trace] s (execTimeCopyUpdate skew s) :=
  by
  unfold execTimeCopyUpdate
  dsimp only
  exact .whenDue (.done (.comp (.of setTime_changes) publish_changes))

theorem setIncr_changes {s : State} {i : Nat} : Changes [.regs, .time] s (setIncr s i) := by
  unfold setIncr
  dsimp only
  exact .comp (.of setFld_changes) setTime_changes

theorem expireArmed_changes {s : State} : Changes [.cores, .problems, .host] s (expireArmed s) := by
  unfold expireArmed
  dsimp only
  exact .of sets_cores_problems_host

theorem timeFault_changes {s : State} {code : Nat} :
    Changes [.regs, .log, .trace, .cores, .problems, .host] s (timeFault s code) := by
  unfold timeFault
  dsimp only
  refine .ite ?_ (.comp (.comp (.of setTtBit_changes) setFld_changes) post_changes)
  exact .comp (.comp (.comp (.of setTtBit_changes) setFld_changes) post_changes) expireArmed_changes

theorem endStep_changes {s : State} : Changes [.regs, .time] s (endStep s) := by
  unfold endStep
  dsimp only
  exact .comp (.of setTtBit_changes) setTime_changes

theorem stepBy_changes {s : State} {c : ℤ} : Changes [.time, .regs, .sm, .log, .trace] s (stepBy s c) := by
  unfold stepBy
  dsimp only
  exact .comp (.comp (.comp (.comp (.of setTime_changes) endStep_changes) bump_changes) sets_sm) post_changes

theorem blockStep_changes {s : State} {c : ℤ} :
    Changes [.regs, .time, .log, .trace, .cores, .problems, .host] s (blockStep s c) := by
  unfold blockStep
  dsimp only
  refine .ite ?_ (.comp (.comp (.of setIncr_changes) setTtBit_changes) setTime_changes)
  exact .comp (.comp (.comp (.of setIncr_changes) setTtBit_changes) setTime_changes) timeFault_changes

theorem correct_changes {s : State} {c : ℤ} {incr : Nat} :
    Changes [.regs, .time, .sm, .log, .trace, .cores, .problems, .host] s (correct s c incr) := by
  unfold correct
  exact .ite (.comp (.of setIncr_changes) endStep_changes) (.ite (.of stepBy_changes) (.of blockStep_changes))

theorem execStepApply_changes {s : State} : ResChanges [.time, .regs, .sm, .log, .trace] s (execStepApply s) := by
  unfold execStepApply
  exact .whenDue (.done (.comp (.of stepBy_changes) setIncr_changes))

theorem slewed_changes {s : State} : Changes [.regs, .time] s (slewed s) := by
  unfold slewed
  dsimp only
  exact .ite .refl (.ite (.comp (.of endStep_changes) setIncr_changes) (.of setTime_changes))

theorem execTimeClockTick_changes {s : State} : ResChanges [.time, .regs, .now, .trace] s (execTimeClockTick s) := by
  unfold execTimeClockTick
  exact .whenDue (.done (.comp (.comp (.of setTime_changes) slewed_changes) publish_changes))

theorem takeTod_changes {s : State} {sec : Nat} : Changes [.regs, .time] s (takeTod s sec) := by
  unfold takeTod
  dsimp only
  exact .ite (.comp (.comp (.of setReg_changes) setTtBit_changes) setTime_changes) (.of setTtBit_changes)

theorem execTtTod_changes {sec : BitVec 48} {s : State} : ResChanges [.regs, .time] s (execTtTod sec s) := by
  unfold execTtTod
  exact .done (.ite (.of takeTod_changes) .refl)

theorem setOffset_changes {s : State} {e : ℤ} : Changes [.regs] s (setOffset s e) := by
  unfold setOffset
  dsimp only
  exact .of setReg_changes

theorem measure_changes {s : State} {good : Bool} : Changes [.time, .regs] s (measure s good) := by
  unfold measure
  dsimp only
  exact .ite (.comp (.of setTime_changes) enterTt_changes) (.of setTime_changes)

theorem edgeCorrects_changes {s : State} {e : ℤ} {incr : Nat} :
    Changes [.regs, .time, .sm, .log, .trace, .cores, .problems, .host] s (edgeCorrects s e incr) := by
  unfold edgeCorrects
  dsimp only
  exact .comp (.comp (.comp (.ite (.comp (.of enterTt_changes) setTime_changes) .refl) setOffset_changes) measure_changes)
    correct_changes

theorem edgeInHoldover_changes {s : State} : Changes [.regs, .time] s (edgeInHoldover s) := by
  unfold edgeInHoldover
  dsimp only
  exact .ite (.comp (.of enterTt_changes) setTime_changes) (.of setTime_changes)

theorem ppsEdge_changes {s : State} {ts incr : Nat} :
    Changes [.regs, .time, .sm, .log, .trace, .cores, .problems, .host] s (ppsEdge s ts incr) := by
  unfold ppsEdge
  dsimp only
  refine .ite (.ite (.comp (.of setReg_changes) setTime_changes) (.of setReg_changes)) ?_
  exact .comp (.ite (.comp (.of setTime_changes) edgeInHoldover_changes) (.comp (.of setTime_changes) edgeCorrects_changes))
    setTime_changes

theorem execPpsInEdge_changes {jitter : ℤ} {incr : BitVec 40} {s : State} :
    ResChanges [.regs, .time, .sm, .log, .trace, .cores, .problems, .host] s (execPpsInEdge jitter incr s) := by
  unfold execPpsInEdge
  exact .whenDue (.done (.ite (.of ppsEdge_changes) .refl))

theorem enterHoldover_changes {s : State} : Changes [.regs, .time] s (enterHoldover s) := by
  unfold enterHoldover
  dsimp only
  exact .comp (.comp (.comp (.of setIncr_changes) endStep_changes) enterTt_changes) setTime_changes

theorem execPpsTimeout_changes {s : State} : ResChanges [.regs, .time] s (execPpsTimeout s) := by
  unfold execPpsTimeout
  exact .whenDue (.done (.of enterHoldover_changes))

theorem execHoldoverLimit_changes {s : State} :
    ResChanges [.regs, .log, .trace, .cores, .problems, .host] s (execHoldoverLimit s) := by
  unfold execHoldoverLimit
  dsimp only
  exact .whenDue (.done (.of timeFault_changes))

theorem execHoldoverTimeout_changes {s : State} : ResChanges [.regs, .time] s (execHoldoverTimeout s) := by
  unfold execHoldoverTimeout
  exact .whenDue (.done (.of enterHoldover_changes))

theorem follow_changes {s : State} {p : Nat} : Changes [.regs, .time] s (follow s p) := by
  unfold follow
  dsimp only
  exact .ite .refl (.ite (.comp (.comp (.of setFld_changes) setTime_changes) enterTt_changes) (.comp (.of setFld_changes)
    setTime_changes))

theorem sendTsync_changes {s : State} {p msg seqid : Nat} {t : Snap} : Changes [.fab] s (sendTsync s p msg seqid t) := by
  unfold sendTsync
  exact .of wireOut_changes

theorem execSyncExchangeTimer_changes {port : Fin 32} {jitter : ℤ} {s : State} :
    ResChanges [.time, .fab] s (execSyncExchangeTimer port jitter s) := by
  unfold execSyncExchangeTimer
  dsimp only
  exact .whenDue (.done (.comp (.comp (.of setTime_changes) sendTsync_changes) sendTsync_changes))

theorem tsyncArrives_changes {l : List Part} {s : State} {p : Nat} {good : Bool} {head : FlitHead} {act : State → State} (h :
  ∀ t, Changes l t (act t)) (hl : portParts ⊆ l := by decide) :
    Changes l s (tsyncArrives s p good head act) := by
  have hb : Changes l s (bump s .klCrcerr p 0 0 1) := .of bump_changes (List.Subset.trans (by decide) hl)
  have hh : Changes l s (headArrives s p head) := .of headArrives_changes (List.Subset.trans (by decide) hl)
  exact .ite .refl (.ite (.ite (.comp hb abandon_changes (List.Subset.trans (by decide) hl)) hb)
    (.ite (.comp hh (h _) (List.Subset.refl l)) hh))

theorem syncHeard_changes {p : Nat} {t : Tsync} {jitter : ℤ} {s : State} :
    Changes [.regs, .time] s (syncHeard p t jitter s) := by
  unfold syncHeard
  dsimp only
  exact .ite .refl (.comp (.comp (.ite (.of abandon_changes) .refl) follow_changes) setTime_changes)

theorem execSync_changes {port : Fin 32} {good : Bool} {head : FlitHead} {tsync : Tsync} {jitter : ℤ} {s : State} :
    ResChanges portParts s (execSync port good head tsync jitter s) := by
  unfold execSync
  refine .whenDue ?_
  refine .done ?_
  refine tsyncArrives_changes ?_
  intro _
  exact .of syncHeard_changes

theorem followUpHeard_changes {p : Nat} {t : Tsync} {jitter : ℤ} {s : State} :
    Changes [.time, .fab] s (followUpHeard p t jitter s) := by
  unfold followUpHeard
  dsimp only
  split
  · exact .ite (.comp (.of setTime_changes) sendTsync_changes) .refl
  · exact .refl

theorem execFollowUp_changes {port : Fin 32} {good : Bool} {head : FlitHead} {tsync : Tsync} {jitter : ℤ} {s : State} :
    ResChanges portParts s (execFollowUp port good head tsync jitter s) := by
  unfold execFollowUp
  refine .whenDue ?_
  refine .done ?_
  refine tsyncArrives_changes ?_
  intro _
  exact .of followUpHeard_changes

theorem delayReqHeard_changes {p : Nat} {t : Tsync} {jitter : ℤ} {s : State} :
    Changes [.fab] s (delayReqHeard p t jitter s) := by
  unfold delayReqHeard
  exact .ite (.of sendTsync_changes) .refl

theorem execDelayReq_changes {port : Fin 32} {good : Bool} {head : FlitHead} {tsync : Tsync} {jitter : ℤ} {s : State} :
    ResChanges portParts s (execDelayReq port good head tsync jitter s) := by
  unfold execDelayReq
  refine .whenDue ?_
  refine .done ?_
  refine tsyncArrives_changes ?_
  intro _
  exact .of delayReqHeard_changes

theorem exchangeDone_changes {s : State} {e : ℤ} {incr : Nat} :
    Changes [.regs, .time, .sm, .log, .trace, .cores, .problems, .host] s (exchangeDone s e incr) := by
  unfold exchangeDone
  dsimp only
  exact .comp (.comp (.comp (.ite (.comp (.comp (.of setTime_changes) enterTt_changes) setTime_changes) (.of setTime_changes))
    setOffset_changes) measure_changes) correct_changes

theorem delayRespHeard_changes {p : Nat} {t : Tsync} {incr : Nat} {s : State} :
    Changes [.regs, .time, .sm, .log, .trace, .cores, .problems, .host] s (delayRespHeard p t incr s) := by
  unfold delayRespHeard
  split
  · exact .ite (.of exchangeDone_changes) .refl
  · exact .refl

theorem execDelayResp_changes {port : Fin 32} {good : Bool} {head : FlitHead} {tsync : Tsync} {incr : BitVec 40} {s : State} :
    ResChanges [.regs, .time, .fab, .inject, .log, .trace, .sm, .cores, .problems, .host] s (execDelayResp port good head
      tsync incr s) := by
  unfold execDelayResp
  refine .whenDue ?_
  refine .done ?_
  refine tsyncArrives_changes ?_
  intro _
  exact .of delayRespHeard_changes

theorem announceTime_changes {s : State} : Changes [.inject, .time] s (announceTime s) := by
  unfold announceTime
  dsimp only
  exact .comp (.of sets_inject) setTime_changes

theorem execTimeAnnounceTimer_changes {s : State} : ResChanges [.inject, .time] s (execTimeAnnounceTimer s) := by
  unfold execTimeAnnounceTimer
  exact .whenDue (.done (.of announceTime_changes))

theorem timeHeard_changes {s : State} {p : Packet} :
    Changes [.regs, .log, .trace, .cores, .problems, .host, .time] s (timeHeard s p) := by
  unfold timeHeard
  dsimp only
  exact .ite (.of timeFault_changes) (.comp (.comp (.of setFld_changes) setTtBit_changes) setTime_changes)

theorem execTime_changes {pkt : PktRef} {s : State} :
    ResChanges [.inject, .fab, .regs, .log, .trace, .cores, .problems, .host, .time] s (execTime pkt s) := by
  unfold execTime
  dsimp only
  split
  · exact .whenDue (.done (.ite (.comp (.of takePkt_changes) timeHeard_changes) (.of takePkt_changes)))
  · exact .done .refl

theorem captureTt_changes {s : State} {k : Nat} : Changes [.time] s (captureTt s k) := by
  unfold captureTt
  dsimp only
  exact .of setTime_changes

theorem execTtSecRead_changes {who : TtReader} {s : State} : ResChanges [.time, .host, .test] s (execTtSecRead who s) := by
  unfold execTtSecRead
  dsimp only
  refine .done ?_
  split
  · exact .ite (.comp (.of captureTt_changes) emit_changes) .refl
  · exact .of captureTt_changes
  · exact .comp (.of captureTt_changes) sets_test

/-! ### Functions of Machine/Boot -/

theorem bootWarn_changes {s : State} {code arg : Nat} : Changes [.power] s (bootWarn s code arg) := by
  unfold bootWarn
  dsimp only
  exact .of sets_power

theorem railsOff_changes {s : State} {r : Rails} : Changes [.fab, .power, .host] s (railsOff s r) := by
  unfold railsOff
  dsimp only
  exact .of sets_fab_power_host

theorem bootStop_changes {s : State} {code arg phase st : Nat} :
    Changes [.sm, .power, .fab, .host] s (bootStop s code arg phase st) := by
  unfold bootStop
  dsimp only
  exact .ite (.of sets_sm_power) (.comp (.of sets_sm_power) railsOff_changes)

theorem bootStart_changes {s : State} : Changes [.sm, .power] s (bootStart s) := by
  unfold bootStart
  dsimp only
  exact .of sets_sm_power

theorem setDir_changes {s : State} {active pending : Nat} : Changes [.nv] s (setDir s active pending) := by
  unfold setDir
  dsimp only
  exact .of sets_nv

theorem bootImage_changes {s : State} {k : Nat} : Changes [.sm, .power] s (bootImage s k) := by
  unfold bootImage
  dsimp only
  exact .of sets_sm_power

theorem romDirectory_changes {s : State} : Changes [.nv, .power, .sm, .log, .regs, .trace] s (romDirectory s) := by
  unfold romDirectory
  dsimp only
  split
  · exact .comp (.comp (.comp (.comp (.ite .refl (.comp (.of sets_nv) bootWarn_changes)) setDir_changes) bootWarn_changes)
      sets_sm) post_changes
  · exact .comp (.ite .refl (.comp (.of sets_nv) bootWarn_changes)) sets_nv
  · exact .ite .refl (.comp (.of sets_nv) bootWarn_changes)

theorem romImage_changes {s : State} {a b : ImgChk} : Changes [.sm, .power, .nv, .fab, .host] s (romImage s a b) := by
  unfold romImage
  dsimp only
  exact .ite (.of bootImage_changes) (.ite (.comp (.comp (.of setDir_changes) bootWarn_changes) bootImage_changes) (.of
    bootStop_changes))

theorem bootRom_changes {s : State} {a b : ImgChk} :
    Changes [.sm, .power, .fab, .host, .nv, .log, .regs, .trace] s (bootRom s a b) := by
  unfold bootRom
  exact .ite (.of bootStop_changes) (.ite (.of bootStop_changes) (.comp (.of romDirectory_changes) romImage_changes))

/-! ### Functions of Machine/Commit -/

theorem applyExpress_changes {s : State} {n : Nat} : Changes [.cores] s (applyExpress s n) := by
  unfold applyExpress
  dsimp only
  split
  · exact .refl
  · exact .ite .refl (.ite (.of setCore_changes) (.of setCore_changes))

theorem slotIdle_changes {s : State} {n : Nat} {i : SlotId} : Changes [.mus, .cores] s (slotIdle s n i) := by
  unfold slotIdle
  dsimp only
  exact .comp (.comp (.comp (.of releaseHolds_changes) modSlot_changes) modCore_changes) applyExpress_changes

theorem stepDone_changes {s : State} {n : Nat} {i : SlotId} : Changes [.cores] s (stepDone s n i) := by
  unfold stepDone
  exact .of modCore_changes

theorem endProgram_changes {s : State} {n : Nat} {i : SlotId} :
    Changes [.sm, .host, .regs, .mus, .cores] s (endProgram s n i) := by
  unfold endProgram
  dsimp only
  exact .comp (.comp (.comp (.of tallyRun_changes) completeId_changes) slotIdle_changes) stepDone_changes

theorem effEnd_changes {n : Nat} {i : SlotId} {s : State} : EffChanges [.sm, .host, .regs, .mus, .cores] s (effEnd n i s) :=
  by
  unfold effEnd
  exact .ite .hold (.done (.of endProgram_changes))

theorem finishSlot_changes {s : State} {n : Nat} {i : SlotId} :
    Changes [.sm, .host, .regs, .mus, .cores] s (finishSlot s n i) := by
  unfold finishSlot
  dsimp only
  refine .ite .refl ?_
  split
  · exact .comp (.comp (.of tallyRun_changes) completeId_changes) slotIdle_changes
  · exact .comp (.comp (.of tallyRun_changes) completeId_changes) slotIdle_changes
  · exact .refl

theorem takeFault_changes {s : State} {n : Nat} {i : SlotId} {c : Trap} {v : W64} :
    Changes [.regs, .trace, .cores, .layers, .merge, .tags, .remotes, .reqs, .host, .sm, .mus] s (takeFault s n i c v) := by
  unfold takeFault
  exact .comp (.of programFault_changes) finishSlot_changes

theorem wewEffect_changes {w : Wew} {ch : Choice} {n : Nat} {i : SlotId} {s : State} :
    EffChanges gateParts s (wewEffect w ch n i s) := by
  unfold wewEffect
  split
  · exact .of effInt_changes
  · exact .of effImm_changes
  · exact .of effSeth_changes
  · exact .of effPuth_changes
  · exact .of effBranch_changes
  · exact .of effJal_changes
  · exact .of effJalr_changes
  · exact .of effLoad_changes
  · exact .of effStore_changes
  · exact .of effMfsr_changes
  · exact .of effMtsr_changes
  · exact .trap
  · exact .of effBreak_changes
  · exact .of effEnd_changes
  · exact .of effFp_changes
  · exact .of effCop_changes
  · exact .of effCop_changes
  · exact .of effFma_changes
  · exact .of effFcvtx_changes
  · exact .of effFcvtf_changes
  · exact .of effFcvtLD_changes
  · exact .of effFcvtDL_changes
  · exact .of effFcvtSD_changes
  · exact .of effFcvtDS_changes
  · exact .of effTdef_changes
  · exact .of effSeed_changes
  · exact .of effAzero_changes
  · exact .of effBlock_changes
  · exact .of effLend_changes
  · exact .of effPfetch_changes
  · exact .of effPsend_changes
  · exact .of effPrecv_changes
  · exact .of effTwait_changes
  · exact .of effWait_changes
  · exact .of effStat_changes
  · exact .of effWaitall_changes

theorem afterCommit_changes {w : Wew} {n : Nat} {i : SlotId} {s : State} : Changes [.cores] s (afterCommit w n i s) := by
  unfold afterCommit
  exact .ite (.comp (.of stepDone_changes) expressBegins_changes) (.of stepDone_changes)

theorem holdAt_changes {w : Wew} {why : Stall} {blk : Option Block} {n : Nat} {i : SlotId} {s : State} :
    Changes [.cores] s (holdAt w why blk n i s) := by
  unfold holdAt
  exact .of modSlot_changes

theorem applyEff_changes {l : List Part} {e : Eff} {w : Wew} {n : Nat} {i : SlotId} {s : State} (h : EffChanges l s e) (hl :
  [.cores, .regs, .trace, .layers, .merge, .tags, .remotes, .reqs, .host, .sm, .mus] ⊆ l := by decide) :
    ResChanges l s (applyEff e w n i s) := by
  cases e with
  | done t => exact .done (.comp (h t rfl) afterCommit_changes (List.Subset.trans (by decide) hl))
  | trap c v =>
    exact .done (.comp (.of stepDone_changes (List.Subset.trans (by decide) hl)) takeFault_changes
      (List.Subset.trans (by decide) hl))
  | halt =>
    exact .done (.comp (.of recordTrap_changes (List.Subset.trans (by decide) hl)) debugHalt_changes
      (List.Subset.trans (by decide) hl))
  | hold why =>
    exact .done (.comp (.of modSlot_changes (List.Subset.trans (by decide) hl)) holdAt_changes (List.Subset.trans (by decide) hl))
  | badTag => exact .fault

theorem gate_changes {w : Wew} {ch : Choice} {n : Nat} {i : SlotId} {s : State} :
    EffChanges gateParts s (gate w ch n i s) := by
  unfold gate
  split
  · exact .hold
  · exact .of wewEffect_changes

theorem commit_changes {w : Wew} {ch : Choice} {a : At} {s : State} : ResChanges gateParts s (commit w ch a s) := by
  unfold commit
  dsimp only
  refine .whenDue ?_
  split
  · exact .done .refl
  · refine .ite (.done (.of takeFault_changes)) (.ite (.done (.of debugHalt_changes)) (applyEff_changes ?_))
    exact .of gate_changes

theorem execIntegerRegisterOperation_changes {a : At} {op : IntOp} {rd ra rb : Reg} {s : State} :
    ResChanges gateParts s (execIntegerRegisterOperation a op rd ra rb s) := by
  unfold execIntegerRegisterOperation
  exact .of commit_changes

theorem execIntegerImmediateOperation_changes {a : At} {op : ImmOp} {rd ra : Reg} {v : BitVec 16} {s : State} :
    ResChanges gateParts s (execIntegerImmediateOperation a op rd ra v s) := by
  unfold execIntegerImmediateOperation
  exact .of commit_changes

theorem execSeth_changes {a : At} {rd : Reg} {hw : BitVec 2} {v : BitVec 16} {s : State} :
    ResChanges gateParts s (execSeth a rd hw v s) := by
  unfold execSeth
  exact .of commit_changes

theorem execPuth_changes {a : At} {rd : Reg} {hw : BitVec 2} {v : BitVec 16} {s : State} :
    ResChanges gateParts s (execPuth a rd hw v s) := by
  unfold execPuth
  exact .of commit_changes

theorem execConditionalBranch_changes {a : At} {c : Cond} {ra rb : Reg} {h : Bool} {off : BitVec 15} {younger : Fin 5} {s :
  State} :
    ResChanges gateParts s (execConditionalBranch a c ra rb h off younger s) := by
  unfold execConditionalBranch
  exact .of commit_changes

theorem execJal_changes {a : At} {rd : Reg} {off : BitVec 21} {s : State} : ResChanges gateParts s (execJal a rd off s) := by
  unfold execJal
  exact .of commit_changes

theorem execJalr_changes {a : At} {rd ra : Reg} {v : BitVec 16} {younger : Fin 5} {s : State} :
    ResChanges gateParts s (execJalr a rd ra v younger s) := by
  unfold execJalr
  exact .of commit_changes

theorem execLocalStoreLoad_changes {a : At} {op : LoadOp} {rd ra : Reg} {v : BitVec 16} {s : State} :
    ResChanges gateParts s (execLocalStoreLoad a op rd ra v s) := by
  unfold execLocalStoreLoad
  exact .of commit_changes

theorem execLocalStoreStore_changes {a : At} {op : StoreOp} {rs ra : Reg} {v : BitVec 16} {s : State} :
    ResChanges gateParts s (execLocalStoreStore a op rs ra v s) := by
  unfold execLocalStoreStore
  exact .of commit_changes

theorem execMfsr_changes {a : At} {rd : Reg} {sr : BitVec 8} {s : State} : ResChanges gateParts s (execMfsr a rd sr s) := by
  unfold execMfsr
  exact .of commit_changes

theorem execMtsr_changes {a : At} {ra : Reg} {sr : BitVec 8} {s : State} : ResChanges gateParts s (execMtsr a ra sr s) := by
  unfold execMtsr
  exact .of commit_changes

theorem execFloatingPointOperation_changes {a : At} {op : FpOp} {double : Bool} {rd ra rb : Reg} {s : State} :
    ResChanges gateParts s (execFloatingPointOperation a op double rd ra rb s) := by
  unfold execFloatingPointOperation
  exact .of commit_changes

theorem execFma_changes {a : At} {double : Bool} {rd ra rb rc : Reg} {s : State} :
    ResChanges gateParts s (execFma a double rd ra rb rc s) := by
  unfold execFma
  exact .of commit_changes

theorem coprocessor_changes {sqrt : Bool} {rd ra rb : Reg} {wrongPath : Bool} {a : At} {s : State} :
    ResChanges gateParts s (coprocessor sqrt rd ra rb wrongPath a s) := by
  unfold coprocessor
  exact .ite (.whenDue (.done (.of copSquashed_changes))) (.of commit_changes)

theorem execDivd_changes {a : At} {rd ra rb : Reg} {wrongPath : Bool} {s : State} :
    ResChanges gateParts s (execDivd a rd ra rb wrongPath s) := by
  unfold execDivd
  exact .of coprocessor_changes

theorem execSqrtd_changes {a : At} {rd ra : Reg} {wrongPath : Bool} {s : State} :
    ResChanges gateParts s (execSqrtd a rd ra wrongPath s) := by
  unfold execSqrtd
  exact .of coprocessor_changes

theorem execCoprocessorResult_changes {a : At} {k : Nat} {s : State} : ResChanges [.cores] s (execCoprocessorResult a k s) :=
  by
  unfold execCoprocessorResult
  exact .whenDue (.done (.of modSlot_changes))

theorem execFcvtx_changes {a : At} {rd ra : Reg} {f : BitVec 4} {rm : BitVec 2} {sat : Bool} {s : State} :
    ResChanges gateParts s (execFcvtx a rd ra f rm sat s) := by
  unfold execFcvtx
  exact .of commit_changes

theorem execFcvtf_changes {a : At} {rd ra : Reg} {f : BitVec 4} {s : State} :
    ResChanges gateParts s (execFcvtf a rd ra f s) := by
  unfold execFcvtf
  exact .of commit_changes

theorem execFcvtLD_changes {a : At} {rd ra : Reg} {rm : BitVec 2} {sat : Bool} {s : State} :
    ResChanges gateParts s (execFcvtLD a rd ra rm sat s) := by
  unfold execFcvtLD
  exact .of commit_changes

theorem execFcvtDL_changes {a : At} {rd ra : Reg} {rm : BitVec 2} {s : State} :
    ResChanges gateParts s (execFcvtDL a rd ra rm s) := by
  unfold execFcvtDL
  exact .of commit_changes

theorem execFcvtSD_changes {a : At} {rd ra : Reg} {rm : BitVec 2} {sat : Bool} {s : State} :
    ResChanges gateParts s (execFcvtSD a rd ra rm sat s) := by
  unfold execFcvtSD
  exact .of commit_changes

theorem execFcvtDS_changes {a : At} {rd ra : Reg} {s : State} : ResChanges gateParts s (execFcvtDS a rd ra s) := by
  unfold execFcvtDS
  exact .of commit_changes

theorem execTrap_changes {a : At} {v : BitVec 16} {s : State} : ResChanges gateParts s (execTrap a v s) := by
  unfold execTrap
  exact .of commit_changes

theorem execBreak_changes {a : At} {s : State} : ResChanges gateParts s (execBreak a s) := by
  unfold execBreak
  exact .of commit_changes

theorem execEnd_changes {a : At} {s : State} : ResChanges gateParts s (execEnd a s) := by
  unfold execEnd
  exact .of commit_changes

theorem execEndComplete_changes {a : At} {s : State} : ResChanges [.sm, .host, .regs, .mus, .cores] s (execEndComplete a s) :=
  by
  unfold execEndComplete
  exact .whenDue (.done (.of endProgram_changes))

theorem execCommitAfterStall_changes {a : At} {tag : Fin 4096} {younger : Fin 5} {s : State} :
    ResChanges gateParts s (execCommitAfterStall a tag younger s) := by
  unfold execCommitAfterStall
  dsimp only
  split
  · exact .done .refl
  · refine .whenDue ?_
    split
    · exact .done (.of holdAt_changes)
    · refine .comp (.of modSlot_changes) (applyEff_changes ?_) (List.Subset.refl _)
      exact gate_changes

theorem observe_changes {s : State} {n t : Nat} {w : W64} :
    Changes [.cores, .tags, .sm, .host, .regs, .mus] s (observe s n t w) := by
  unfold observe
  dsimp only
  split
  · exact .comp (.comp (.comp (.of modCore_changes) setTag_changes) modSlot_changes) finishSlot_changes
  · exact .comp (.of modCore_changes) setTag_changes

theorem execRetirementReport_changes {core : Fin 160} {s : State} :
    ResChanges [.cores, .tags, .sm, .host, .regs, .mus] s (execRetirementReport core s) := by
  unfold execRetirementReport
  split
  · exact .done .refl
  · exact .whenDue (.done (.of observe_changes))

theorem execIllegalInstr_changes {a : At} {word : W32} {s : State} :
    ResChanges [.regs, .trace, .cores, .layers, .merge, .tags, .remotes, .reqs, .host, .sm, .mus] s (execIllegalInstr a word
      s) := by
  unfold execIllegalInstr
  dsimp only
  split
  · exact .fault
  · refine .whenDue ?_
    split
    · exact .done .refl
    · exact .ite (.done (.of takeFault_changes)) (.ite (.done (.of debugHalt_changes)) (.done (.comp (.of stepDone_changes)
        takeFault_changes)))

theorem execTdef_changes {a : At} {ra : Reg} {x : BitVec 6} {s : State} : ResChanges gateParts s (execTdef a ra x s) := by
  unfold execTdef
  exact .of commit_changes

theorem execSeed_changes {a : At} {ra : Reg} {s : State} : ResChanges gateParts s (execSeed a ra s) := by
  unfold execSeed
  exact .of commit_changes

theorem execAzero_changes {a : At} {rd : Reg} {k : BitVec 4} {tag : Fin 4096} {s : State} :
    ResChanges gateParts s (execAzero a rd k tag s) := by
  unfold execAzero
  exact .of commit_changes

theorem execAccwb_changes {a : At} {rd ra : Reg} {tag : Fin 4096} {s : State} :
    ResChanges gateParts s (execAccwb a rd ra tag s) := by
  unfold execAccwb
  exact .of commit_changes

theorem execSload_changes {a : At} {rd ra : Reg} {tag : Fin 4096} {s : State} :
    ResChanges gateParts s (execSload a rd ra tag s) := by
  unfold execSload
  exact .of commit_changes

theorem execSstore_changes {a : At} {rd ra : Reg} {tag : Fin 4096} {s : State} : ResChanges gateParts s (execSstore a rd ra tag s) :=
  by
  unfold execSstore
  exact .of commit_changes

theorem execGpool_changes {a : At} {rd ra : Reg} {tag : Fin 4096} {s : State} :
    ResChanges gateParts s (execGpool a rd ra tag s) := by
  unfold execGpool
  exact .of commit_changes

theorem xopRow_changes {f : Nat} {a : At} {rd ra : Reg} {tag : Fin 4096} {s : State} : ResChanges gateParts s (xopRow f a rd ra tag s) :=
  by
  unfold xopRow
  dsimp only
  exact .need (.of commit_changes)

theorem execXopCvt_changes {a : At} {rd ra : Reg} {tag : Fin 4096} {s : State} : ResChanges gateParts s (execXopCvt a rd ra tag s) :=
  by
  unfold execXopCvt
  exact .of xopRow_changes

theorem execXopAdd_changes {a : At} {rd ra : Reg} {tag : Fin 4096} {s : State} : ResChanges gateParts s (execXopAdd a rd ra tag s) :=
  by
  unfold execXopAdd
  exact .of xopRow_changes

theorem execXopSub_changes {a : At} {rd ra : Reg} {tag : Fin 4096} {s : State} : ResChanges gateParts s (execXopSub a rd ra tag s) :=
  by
  unfold execXopSub
  exact .of xopRow_changes

theorem execXopMul_changes {a : At} {rd ra : Reg} {tag : Fin 4096} {s : State} : ResChanges gateParts s (execXopMul a rd ra tag s) :=
  by
  unfold execXopMul
  exact .of xopRow_changes

theorem execXopFma_changes {a : At} {rd ra : Reg} {tag : Fin 4096} {s : State} : ResChanges gateParts s (execXopFma a rd ra tag s) :=
  by
  unfold execXopFma
  exact .of xopRow_changes

theorem execXopMax_changes {a : At} {rd ra : Reg} {tag : Fin 4096} {s : State} : ResChanges gateParts s (execXopMax a rd ra tag s) :=
  by
  unfold execXopMax
  exact .of xopRow_changes

theorem execXopMin_changes {a : At} {rd ra : Reg} {tag : Fin 4096} {s : State} : ResChanges gateParts s (execXopMin a rd ra tag s) :=
  by
  unfold execXopMin
  exact .of xopRow_changes

theorem execXopScale_changes {a : At} {rd ra : Reg} {tag : Fin 4096} {s : State} :
    ResChanges gateParts s (execXopScale a rd ra tag s) := by
  unfold execXopScale
  exact .of xopRow_changes

theorem execXopRelu_changes {a : At} {rd ra : Reg} {tag : Fin 4096} {s : State} :
    ResChanges gateParts s (execXopRelu a rd ra tag s) := by
  unfold execXopRelu
  exact .of xopRow_changes

theorem execXopAcc_changes {a : At} {rd ra : Reg} {tag : Fin 4096} {s : State} : ResChanges gateParts s (execXopAcc a rd ra tag s) :=
  by
  unfold execXopAcc
  exact .of xopRow_changes

theorem execXopAccs_changes {a : At} {rd ra : Reg} {tag : Fin 4096} {s : State} :
    ResChanges gateParts s (execXopAccs a rd ra tag s) := by
  unfold execXopAccs
  exact .of xopRow_changes

theorem execXopHamm_changes {a : At} {rd ra : Reg} {tag : Fin 4096} {s : State} :
    ResChanges gateParts s (execXopHamm a rd ra tag s) := by
  unfold execXopHamm
  exact .of xopRow_changes

theorem execCmpr_changes {a : At} {rd ra : Reg} {tag : Fin 4096} {s : State} :
    ResChanges gateParts s (execCmpr a rd ra tag s) := by
  unfold execCmpr
  exact .of commit_changes

theorem execScadd_changes {a : At} {rd ra : Reg} {tag : Fin 4096} {s : State} :
    ResChanges gateParts s (execScadd a rd ra tag s) := by
  unfold execScadd
  exact .of commit_changes

theorem execMlayer_changes {a : At} {rd ra : Reg} {tag : Fin 4096} {s : State} : ResChanges gateParts s (execMlayer a rd ra tag s) :=
  by
  unfold execMlayer
  exact .of commit_changes

theorem execLend_changes {a : At} {s : State} : ResChanges gateParts s (execLend a s) := by
  unfold execLend
  exact .of commit_changes

theorem execSolve_changes {a : At} {rd ra : Reg} {tag : Fin 4096} {s : State} :
    ResChanges gateParts s (execSolve a rd ra tag s) := by
  unfold execSolve
  exact .of commit_changes

theorem execPfetch_changes {a : At} {ra rb : Reg} {s : State} : ResChanges gateParts s (execPfetch a ra rb s) := by
  unfold execPfetch
  exact .of commit_changes

theorem cmaintRow_changes {o : Nat} {a : At} {rd ra : Reg} {tag : Fin 4096} {s : State} :
    ResChanges gateParts s (cmaintRow o a rd ra tag s) := by
  unfold cmaintRow
  exact .need (.of commit_changes)

theorem execCmaintClean_changes {a : At} {rd ra : Reg} {tag : Fin 4096} {s : State} :
    ResChanges gateParts s (execCmaintClean a rd ra tag s) := by
  unfold execCmaintClean
  exact .of cmaintRow_changes

theorem execCmaintInvalidate_changes {a : At} {rd ra : Reg} {tag : Fin 4096} {s : State} :
    ResChanges gateParts s (execCmaintInvalidate a rd ra tag s) := by
  unfold execCmaintInvalidate
  exact .of cmaintRow_changes

theorem execCmaintCleanInvalidate_changes {a : At} {rd ra : Reg} {tag : Fin 4096} {s : State} :
    ResChanges gateParts s (execCmaintCleanInvalidate a rd ra tag s) := by
  unfold execCmaintCleanInvalidate
  exact .of cmaintRow_changes

theorem execCmaintFill_changes {a : At} {rd ra : Reg} {tag : Fin 4096} {s : State} :
    ResChanges gateParts s (execCmaintFill a rd ra tag s) := by
  unfold execCmaintFill
  exact .of cmaintRow_changes

theorem execRread_changes {a : At} {rd ra : Reg} {tag : Fin 4096} {s : State} :
    ResChanges gateParts s (execRread a rd ra tag s) := by
  unfold execRread
  exact .of commit_changes

theorem execWwrite_changes {a : At} {rd ra : Reg} {tag : Fin 4096} {s : State} : ResChanges gateParts s (execWwrite a rd ra tag s) :=
  by
  unfold execWwrite
  exact .of commit_changes

theorem execPsend_changes {a : At} {rd ra rb : Reg} {x : BitVec 6} {tag : Fin 4096} {s : State} :
    ResChanges gateParts s (execPsend a rd ra rb x tag s) := by
  unfold execPsend
  exact .of commit_changes

theorem execPrecv_changes {a : At} {rd ra : Reg} {tag : Fin 4096} {s : State} :
    ResChanges gateParts s (execPrecv a rd ra tag s) := by
  unfold execPrecv
  exact .of commit_changes

theorem execBarr_changes {a : At} {rd ra : Reg} {tag : Fin 4096} {s : State} :
    ResChanges gateParts s (execBarr a rd ra tag s) := by
  unfold execBarr
  exact .of commit_changes

theorem execTwait_changes {a : At} {ra : Reg} {s : State} : ResChanges gateParts s (execTwait a ra s) := by
  unfold execTwait
  exact .of commit_changes

theorem twaitCommit_changes {s : State} {n : Nat} {i : SlotId} : Changes [.cores] s (twaitCommit s n i) := by
  unfold twaitCommit
  exact .comp (.of modSlot_changes) stepDone_changes

theorem execTwaitReached_changes {a : At} {s : State} : ResChanges [.cores] s (execTwaitReached a s) := by
  unfold execTwaitReached
  exact .whenDue (.done (.of twaitCommit_changes))

theorem execWait_changes {a : At} {rd ra : Reg} {s : State} : ResChanges gateParts s (execWait a rd ra s) := by
  unfold execWait
  exact .of commit_changes

theorem execStat_changes {a : At} {rd ra : Reg} {s : State} : ResChanges gateParts s (execStat a rd ra s) := by
  unfold execStat
  exact .of commit_changes

theorem execWaitall_changes {a : At} {s : State} : ResChanges gateParts s (execWaitall a s) := by
  unfold execWaitall
  exact .of commit_changes

/-! ### Functions of Machine/Translate -/

theorem fetchMisses_changes {s : State} {n : Nat} {i : SlotId} : Changes [.cores, .px] s (fetchMisses s n i) := by
  unfold fetchMisses
  dsimp only
  exact .comp (.of modCore_changes) sets_px

theorem execLookasideMiss_changes {who : MissBy} {s : State} :
    ResChanges [.cores, .px, .regs, .tags] s (execLookasideMiss who s) := by
  unfold execLookasideMiss
  split
  · exact .whenDue (.done (.of fetchMisses_changes))
  · split
    · exact .done (.of askPoints_changes)
    · exact .done .refl

theorem pointsFind_changes {s : State} {ctx va : Nat} : Changes memoryParts s (pointsFind s ctx va).2 := by
  have key : ∀ f r, f = pointsFind → f s ctx va = r → Changes memoryParts s
    r.2 := by
    intro f r hf hr
    delta pointsFind at hf
    subst hf
    beta_reduce at hr
    have h := segTable_changes (ctx := ctx) (x1 := 16) (x2 := 0) (s := s)
    generalize segTable ctx 16 0 s = q at h hr
    obtain ⟨gs, t⟩ := q
    subst hr
    exact h
  exact key _ _ rfl rfl

theorem coreInstall_changes {s : State} {n : Nat} {i : SlotId} {ctx : Nat} {g : Seg} :
    Changes [.cores] s (coreInstall s n i ctx g) := by
  unfold coreInstall
  exact .of modCore_changes

theorem unitServed_changes {s : State} {m : PxMiss} {g : Option Seg} : Changes [.xlate] s (unitServed s m g) := by
  unfold unitServed
  split
  · exact .of setLook_changes
  · exact .of sets_pxNone
  · exact .refl

theorem missServed_changes {s : State} {m : PxMiss} {g : Option Seg} :
    Changes [.regs, .cores, .trace, .layers, .merge, .tags, .remotes, .reqs, .host, .sm, .mus, .xlate] s (missServed s m g) :=
      by
  unfold missServed
  dsimp only
  split
  · split
    · exact .comp (.comp (.comp (.of bump_changes) bump_changes) modCore_changes) coreInstall_changes
    · exact .comp (.comp (.comp (.of bump_changes) bump_changes) modCore_changes) takeFault_changes
  · split
    · exact .comp (.comp (.comp (.of bump_changes) bump_changes) coreInstall_changes) setXlate_changes
    · exact .comp (.comp (.of bump_changes) bump_changes) failStream_changes
    · exact .comp (.of bump_changes) bump_changes
  · exact .comp (.comp (.of bump_changes) bump_changes) unitServed_changes
  · exact .comp (.comp (.of bump_changes) bump_changes) unitServed_changes
  · exact .comp (.comp (.of bump_changes) bump_changes) unitServed_changes
  · exact .comp (.comp (.of bump_changes) bump_changes) unitServed_changes
  · exact .comp (.comp (.of bump_changes) bump_changes) unitServed_changes

theorem serveLookaside_changes {s : State} {m : PxMiss} :
    Changes [.px, .hbm, .poison, .reqs, .slices, .regs, .log, .trace, .free, .cores, .layers, .merge, .tags, .remotes, .host,
      .sm, .mus, .xlate] s (serveLookaside s m) := by
  have key : ∀ f, f = serveLookaside → Changes [.px, .hbm, .poison, .reqs, .slices, .regs, .log, .trace, .free, .cores,
    .layers, .merge, .tags, .remotes, .host, .sm, .mus, .xlate] s (f s m) := by
    intro f hf
    delta serveLookaside at hf
    subst hf
    beta_reduce
    extract_lets s1
    have h := pointsFind_changes (s := s1) (ctx := m.ctx) (va := m.va)
    generalize pointsFind s1 m.ctx m.va = r at h ⊢
    obtain ⟨g, t⟩ := r
    exact .comp (.comp (.of sets_px) h) missServed_changes
  exact key _ rfl

theorem execLookasideMissServed_changes {s : State} :
    ResChanges [.px, .hbm, .poison, .reqs, .slices, .regs, .log, .trace, .free, .cores, .layers, .merge, .tags, .remotes,
      .host, .sm, .mus, .xlate] s (execLookasideMissServed s) := by
  unfold execLookasideMissServed
  split
  · exact .whenDue (.done (.of serveLookaside_changes))
  · exact .done .refl

theorem serveDtc_changes {s : State} {m : PxMiss} :
    Changes [.tags, .px, .regs, .hbm, .poison, .reqs, .slices, .log, .trace, .free, .xlate, .hints] s (serveDtc s m) := by
  have key : ∀ f, f = serveDtc → Changes [.tags, .px, .regs, .hbm, .poison, .reqs, .slices, .log, .trace, .free, .xlate,
    .hints] s (f s m) := by
    intro f hf
    delta serveDtc at hf
    subst hf
    beta_reduce
    extract_lets s1
    have h := pointsFind_changes (s := s1) (ctx := m.ctx) (va := m.va)
    generalize pointsFind s1 m.ctx m.va = r at h ⊢
    obtain ⟨g, t⟩ := r
    have ht := Changes.comp (l := [.tags, .px, .regs, .hbm, .poison, .reqs, .slices, .log, .trace, .free, .xlate, .hints])
      (.comp (.of sets_px) bump_changes) h
    dsimp only
    cases g with
    | none =>
      split
      · exact .comp ht setXlate_changes
      · exact .comp ht hintSend_changes
      all_goals exact ht
    | some g =>
      have hf := Changes.ite (c := g.mig = true)
        (.comp ht (dtcFill_changes (ctx := m.ctx) (g := g) (k := (m.va - g.vbase) / 2 ^ 21))) ht
      split
      · exact .comp hf setXlate_changes
      · exact .comp hf hintSend_changes
      all_goals exact hf
  exact key _ rfl

theorem execTranslationCacheMissServed_changes {k : Nat} {s : State} :
    ResChanges [.tags, .px, .regs, .hbm, .poison, .reqs, .slices, .log, .trace, .free, .xlate, .hints] s
      (execTranslationCacheMissServed k s) := by
  unfold execTranslationCacheMissServed
  split
  · exact .whenDue (.done (.of serveDtc_changes))
  · exact .done .refl

theorem countEpoch_changes {s : State} : Changes [.epochs] s (countEpoch s) := by
  unfold countEpoch
  exact .of sets_epoch

theorem markRunning_changes {s : State} {cmd : Nat} : Changes [.host] s (markRunning s cmd) := by
  unfold markRunning
  dsimp only
  exact .of sets_host

theorem startEpoch_changes {s : State} {cmd : Nat} {ctx windows : Option Nat} :
    Changes [.epochs, .host] s (startEpoch s cmd ctx windows) := by
  unfold startEpoch
  dsimp only
  exact .comp (.comp (.of countEpoch_changes) markRunning_changes) sets_epochs

theorem endControl_changes {s : State} {cmd code detail : Nat} :
    Changes [.xlate, .host, .regs] s (endControl s cmd code detail) := by
  unfold endControl
  exact .comp (.of sets_ctrl) completeId_changes

theorem execEpochDrained_changes {s : State} : ResChanges [.epochs, .xlate, .host, .regs] s (execEpochDrained s) := by
  unfold execEpochDrained
  split
  · exact .done .refl
  · exact .whenDue (.done (.comp (.of sets_epochs) endControl_changes))

theorem control_changes {l : List Part} {s : State} {c : CtrlCmd} {bodyOk : Bool} {ctx : Option Nat} {run : State → State} (h
  : ∀ t, Changes l t (run t)) (hl : [.xlate, .host, .regs] ⊆ l := by decide) : Changes l s (control s c bodyOk ctx run) :=
  .ite (.of endControl_changes hl) (.ite (.of endControl_changes hl) (.ite (.of endControl_changes hl) (h s)))

theorem writeSegs_changes {ctx : Nat} {x1 : List (Nat × MirrorEntry)} {s : State} :
    Changes [.hbm, .poison, .reqs, .slices, .regs, .log, .trace] s (writeSegs ctx x1 s) := by
  induction x1 generalizing s with
  | nil => exact .refl
  | cons e es ih =>
    obtain ⟨i, _ | w⟩ := e
    · exact ih
    · unfold writeSegs
      exact .comp (.of privWrite_changes) ih

theorem mirrorRecords_changes {ctx : Nat} {x1 : List (Nat × MirrorEntry)} {s : State} :
    Changes [.log, .regs, .trace] s (mirrorRecords ctx x1 s) := by
  induction x1 generalizing s with
  | nil => exact .refl
  | cons e es ih =>
    obtain ⟨i, _ | w⟩ := e
    · unfold mirrorRecords
      exact .comp (.of post_changes) ih
    · exact ih

theorem dropSegs_changes {s : State} {ctx : Nat} {sel : Nat → Bool} :
    Changes [.cores, .xlate, .hbm, .poison, .reqs, .slices, .regs, .log, .trace, .free] s (dropSegs s ctx sel) := by
  unfold dropSegs
  exact .comp (.of dropLooks_changes) dtcDrop_changes

theorem mirrorReads_changes {s : State} {ctx : Nat} {x2 : List Nat} : Changes [.host] s (mirrorReads s ctx x2) := by
  induction x2 generalizing s ctx with
  | nil =>
    unfold mirrorReads
    exact .refl
  | cons e es ih =>
    unfold mirrorReads
    exact .comp (.of emit_changes) ih

theorem segSync_changes {s : State} {c : CtrlCmd} {es : List (Nat × MirrorEntry)} {mask : Nat} :
    Changes [.host, .hbm, .poison, .reqs, .slices, .regs, .log, .trace, .free, .xlate, .cores, .epochs] s (segSync s c es
      mask) := by
  have key : ∀ f, f = segSync → Changes [.host, .hbm, .poison, .reqs, .slices, .regs, .log, .trace, .free, .xlate, .cores,
    .epochs] s (f s c es mask) := by
    intro f hf
    delta segSync at hf
    subst hf
    beta_reduce
    extract_lets ctx s1
    have h := segTable_changes (ctx := ctx) (x1 := 16) (x2 := 0) (s := s1)
    generalize segTable ctx 16 0 s1 = r at h ⊢
    obtain ⟨old, t⟩ := r
    have ht := Changes.comp (l := [.host, .hbm, .poison, .reqs, .slices, .regs, .log, .trace, .free, .xlate, .cores, .epochs])
      (.comp (.of mirrorReads_changes) h) (mirrorRecords_changes (ctx := ctx) (x1 := es))
    dsimp only
    split
    · exact .comp ht endControl_changes
    · exact .comp (.comp (.comp ht writeSegs_changes) dropSegs_changes) startEpoch_changes
  exact key _ rfl

theorem execSegSync_changes {mirror : List HostReply} {s : State} :
    ResChanges [.xlate, .host, .regs, .hbm, .poison, .reqs, .slices, .log, .trace, .free, .cores, .epochs] s (execSegSync
      mirror s) := by
  unfold execSegSync
  dsimp only
  split
  · exact .done .refl
  · refine .done ?_
    refine control_changes ?_
    intro _
    exact .of segSync_changes

theorem dropHost_changes {s : State} {fn : Nat} {pasid : Option Nat} {a n : Nat} :
    Changes [.xlate] s (dropHost s fn pasid a n) := by
  unfold dropHost
  exact .of sets_dtcH

theorem invalidateScope_changes {s : State} {ctx scope mask start len : Nat} :
    Changes [.cores, .xlate, .hbm, .poison, .reqs, .slices, .regs, .log, .trace, .free] s (invalidateScope s ctx scope mask
      start len) := by
  have key : ∀ f, f = invalidateScope → Changes [.cores, .xlate, .hbm, .poison, .reqs, .slices, .regs, .log, .trace, .free] s
    (f s ctx scope mask start len) := by
    intro f hf
    delta invalidateScope at hf
    subst hf
    beta_reduce
    have h := segTable_changes (ctx := ctx) (x1 := 16) (x2 := 0) (s := s)
    generalize segTable ctx 16 0 s = r at h ⊢
    obtain ⟨gs, t⟩ := r
    exact .ite (.comp (.comp (.of dropLooks_changes) dtcDrop_changes) dropHost_changes)
      (.ite (.comp (.comp (.of h) dropLooks_changes) dtcDrop_changes) (.ite (.of dropSegs_changes) (.ite (.of
        dropHost_changes) .refl)))
  exact key _ rfl

theorem execInvalidate_changes {s : State} :
    ResChanges [.xlate, .host, .regs, .cores, .hbm, .poison, .reqs, .slices, .log, .trace, .free, .epochs] s (execInvalidate
      s) := by
  unfold execInvalidate
  dsimp only
  split
  · exact .done .refl
  · refine .done ?_
    refine control_changes ?_
    intro _
    exact .comp (.of invalidateScope_changes) startEpoch_changes

theorem setGranule_changes {s : State} {ctx : Nat} {g : Seg} {k st : Nat} {reset : Bool} {host : Nat} :
    Changes [.hbm, .poison, .reqs, .slices, .regs, .log, .trace, .free, .xlate] s (setGranule s ctx g k st reset host).2 := by
  unfold setGranule
  dsimp only
  exact .comp (.comp (.of granRead_changes) granWrite_changes) sets_dtcG

theorem setGranules_changes {ctx : Nat} {g : Seg} {st : Nat} {reset : Bool} {x4 x5 x6 : Nat} {x7 : Bool} {s : State} :
    Changes [.hbm, .poison, .reqs, .slices, .regs, .log, .trace, .free, .xlate] s (setGranules ctx g st reset x4 x5 x6 x7 s).2
      := by
  induction x4 generalizing ctx g st reset x5 x6 x7 s with
  | zero =>
    unfold setGranules
    exact .refl
  | succ n ih =>
    unfold setGranules
    dsimp only
    exact .comp (.of setGranule_changes) ih

theorem releasePending_changes {s : State} {ctx seg first n : Nat} : Changes [.pend] s (releasePending s ctx seg first n) :=
  by
  unfold releasePending
  exact .of setPending_changes

theorem granuleSet_changes {s : State} {c : CtrlCmd} :
    Changes [.hbm, .poison, .reqs, .slices, .regs, .log, .trace, .free, .xlate, .host, .epochs, .pend] s (granuleSet s c) :=
      by
  unfold granuleSet
  dsimp only
  split
  · refine .ite (.comp (.of segRead_changes) endControl_changes) ?_
    refine .ite ?_ ?_
    · refine .ite (.comp (.comp (.of segRead_changes) setGranules_changes) startEpoch_changes) ?_
      exact .comp (.comp (.comp (.of segRead_changes) setGranules_changes) startEpoch_changes) releasePending_changes
    · refine .comp (.comp (.ite (.comp (.comp (.of segRead_changes) setGranules_changes) startEpoch_changes) ?_) sets_epochs)
        endControl_changes
      exact .comp (.comp (.comp (.of segRead_changes) setGranules_changes) startEpoch_changes) releasePending_changes
  · exact .comp (.of segRead_changes) endControl_changes

theorem execGranuleSet_changes {s : State} :
    ResChanges [.xlate, .host, .regs, .hbm, .poison, .reqs, .slices, .log, .trace, .free, .epochs, .pend] s (execGranuleSet s)
      := by
  unfold execGranuleSet
  dsimp only
  split
  · exact .done .refl
  · refine .done ?_
    refine control_changes ?_
    intro _
    exact .of granuleSet_changes

theorem setOwn_changes {v x1 x2 : Nat} {s : State} : Changes [.own] s (setOwn v x1 x2 s) := by
  induction x1 generalizing v x2 s with
  | zero =>
    unfold setOwn
    exact .refl
  | succ n ih =>
    unfold setOwn
    exact .comp (.of sets_own) ih

theorem ownSet_changes {s : State} {c : CtrlCmd} : Changes [.xlate, .host, .regs, .own, .epochs] s (ownSet s c) := by
  unfold ownSet
  dsimp only
  exact .ite (.of endControl_changes) (.ite (.of endControl_changes) (.comp (.of setOwn_changes) startEpoch_changes))

theorem execOwnSet_changes {s : State} : ResChanges [.xlate, .host, .regs, .own, .epochs] s (execOwnSet s) := by
  unfold execOwnSet
  dsimp only
  split
  · exact .done .refl
  · refine .done ?_
    refine control_changes ?_
    intro _
    exact .of ownSet_changes

theorem execFaultBatchClose_changes {s : State} : ResChanges [.xlate, .host, .regs] s (execFaultBatchClose s) := by
  unfold execFaultBatchClose
  exact .whenDue (.done (.of closeBatch_changes))

theorem wakeStreams_changes {s : State} : Changes [.tags, .layers] s (wakeStreams s) := by
  unfold wakeStreams
  exact .of sets_tags_layers

theorem atsInstall_changes {s : State} {q : Nat × Option Nat × Nat} {size pa : Nat} {r w : Bool} :
    Changes [.host, .xlate, .hbm, .poison, .reqs, .slices, .regs, .log, .trace, .free, .tags, .layers] s (atsInstall s q size
      pa r w) := by
  unfold atsInstall
  dsimp only
  exact .comp (.comp (.of sets_host) hostFill_changes) wakeStreams_changes

theorem execAtsTranslationCompletion_changes {fn : Fin 64} {pasid : Option (BitVec 20)} {iova : BitVec 64} {sizeLog2 : Fin 64}
  {pa : BitVec 64} {r w : Bool} {s : State} :
    ResChanges [.host, .xlate, .hbm, .poison, .reqs, .slices, .regs, .log, .trace, .free, .tags, .layers] s
      (execAtsTranslationCompletion fn pasid iova sizeLog2 pa r w s) := by
  unfold execAtsTranslationCompletion
  dsimp only
  exact .whenDue (.done (.of atsInstall_changes))

theorem atsInvalidate_changes {s : State} {fn : Nat} {pasid : Option Nat} {global : Bool} {a n itag : Nat} :
    Changes [.xlate, .host] s (atsInvalidate s fn pasid global a n itag) := by
  unfold atsInvalidate
  dsimp only
  exact .comp (.of sets_dtcH_host) atsSweep_changes

theorem execAtsInvalidateRequest_changes {fn : Fin 64} {pasid : Option (BitVec 20)} {global : Bool} {va : BitVec 64} {len :
  Nat} {itag : Fin 32} {s : State} : ResChanges [.xlate, .host] s (execAtsInvalidateRequest fn pasid global va len itag s) :=
  by
  unfold execAtsInvalidateRequest
  exact .done (.of atsInvalidate_changes)

/-! ### Functions of Machine/Host -/

theorem queueError_changes {s : State} {ctx q code : Nat} : Changes [.host] s (queueError s ctx q code) := by
  unfold queueError
  dsimp only
  exact .ite (.of setQueue_changes) .refl

theorem tailWritten_changes {s : State} {ctx q v : Nat} : Changes [.host] s (tailWritten s ctx q v) := by
  unfold tailWritten
  dsimp only
  exact .ite .refl (.ite (.of queueError_changes) (.ite (.comp (.of setQueue_changes) sets_host) (.of setQueue_changes)))

theorem headWritten_changes {s : State} {ctx q v : Nat} : Changes [.host] s (headWritten s ctx q v) := by
  unfold headWritten
  dsimp only
  exact .ite .refl (.ite (.of queueError_changes) (.of setQueue_changes))

theorem sendRead_changes {s : State} {k : Nat} : Changes [.host] s (sendRead s k) := by
  unfold sendRead
  dsimp only
  exact .comp (.of sets_host) emit_changes

theorem serveSome_changes {x0 : Nat} {s : State} : Changes [.host] s (serveSome x0 s) := by
  induction x0 generalizing s with
  | zero =>
    unfold serveSome
    exact .refl
  | succ n ih =>
    unfold serveSome
    split
    · exact .ite (.comp (.of sendRead_changes) ih) .refl
    · exact .refl

theorem serveReads_changes {s : State} : Changes [.host] s (serveReads s) := by
  unfold serveReads
  exact .of serveSome_changes

theorem takeOne_changes {s : State} {ctx q : Nat} {bs : List Byte} : Changes [.host, .xlate] s (takeOne s ctx q bs) := by
  unfold takeOne
  dsimp only
  exact .ite (.comp (.of setQueue_changes) sets_ctrl_host) (.comp (.of setQueue_changes) sets_host)

theorem takeAll_changes {ctx q : Nat} {x2 : List (List Byte)} {s : State} : Changes [.host, .xlate] s (takeAll ctx q x2 s) :=
  by
  induction x2 generalizing ctx q s with
  | nil =>
    unfold takeAll
    exact .refl
  | cons e es ih =>
    unfold takeAll
    exact .comp (.of takeOne_changes) ih

theorem takenRecord_changes {s : State} {ctx q : Nat} : Changes [.host] s (takenRecord s ctx q) := by
  unfold takenRecord
  dsimp only
  exact .ite .refl (.of emitAt_changes)

theorem completeBad_changes {first : Nat} {s : State} : Changes [.host, .regs] s (completeBad first s) := by
  unfold completeBad
  refine .foldl ?_ fun _ _ => ?_
  · exact .refl
  · split
    · exact .of completeCmd_changes
    · exact .refl

theorem serviceDone_changes {s : State} {ctx q : Nat} : Changes [.host] s (serviceDone s ctx q) := by
  unfold serviceDone
  dsimp only
  exact .ite (.of sets_host) .refl

theorem commandsRead_changes {s : State} {r : CmdRead} {bs : List Byte} :
    Changes [.host, .xlate, .regs] s (commandsRead s r bs) := by
  unfold commandsRead
  dsimp only
  exact .ite .refl (.comp (.comp (.comp (.of takeAll_changes) takenRecord_changes) completeBad_changes) serviceDone_changes)

theorem readFails_changes {s : State} {ctx q : Nat} {code : LogCode} :
    Changes [.log, .regs, .trace, .host] s (readFails s ctx q code) := by
  unfold readFails
  exact .comp (.comp (.of post_changes) queueError_changes) serviceDone_changes

theorem endRead_changes {s : State} {r : CmdRead} : Changes [.host] s (endRead s r) := by
  unfold endRead
  dsimp only
  exact .of sets_host

theorem readReturns_changes {s : State} {r : CmdRead} {reply : HostReply} :
    Changes [.host, .xlate, .regs, .log, .trace] s (readReturns s r reply) := by
  unfold readReturns
  dsimp only
  split
  · exact .ite (.of commandsRead_changes) .refl
  · exact .ite (.comp (.of aerReport_changes) readFails_changes) (.of aerReport_changes)
  · exact .ite (.of readFails_changes) .refl
  · exact .ite (.of readFails_changes) .refl

theorem execCommandReadCompletion_changes {ctx : Fin 64} {q : Fin 8} {reply : HostReply} {s : State} :
    ResChanges [.host, .xlate, .regs, .log, .trace] s (execCommandReadCompletion ctx q reply s) := by
  unfold execCommandReadCompletion
  split
  · exact .done (.comp (.comp (.of endRead_changes) readReturns_changes) serveReads_changes)
  · exact .done .refl

theorem execCommandQueueTailDoorbell_changes {fn ctx : Fin 64} {q skew : Fin 8} {data : List Byte} {s : State} :
    ResChanges [.log, .regs, .trace, .host] s (execCommandQueueTailDoorbell fn ctx q skew data s) := by
  unfold execCommandQueueTailDoorbell
  refine .done ?_
  refine ringBell_changes ?_
  intro _
  exact .comp (.of tailWritten_changes) serveReads_changes

theorem execCompletionQueueHeadDoorbell_changes {fn ctx : Fin 64} {q skew : Fin 8} {data : List Byte} {s : State} :
    ResChanges [.log, .regs, .trace, .host] s (execCompletionQueueHeadDoorbell fn ctx q skew data s) := by
  unfold execCompletionQueueHeadDoorbell
  refine .done ?_
  refine ringBell_changes ?_
  intro _
  exact .comp (.of headWritten_changes) serveReads_changes

theorem modDCmd_changes {s : State} {id : Nat} {f : DCmd → DCmd} : Changes [.host] s (modDCmd s id f) := by
  unfold modDCmd
  dsimp only
  exact .of sets_host

theorem assignRun_changes {s : State} {d : DCmd} : OptChanges [.host, .regs] s (assignRun s d) := by
  have hpick : ∀ o : Option Nat, OptChanges [.host, .regs] s
      (o.map fun n => modDCmd s d.id fun d => { d with st := .assigned n }) := by
    rintro (_ | n)
    · exact .none
    · exact .done (.of modDCmd_changes)
  exact .ite (.ite (hpick _) (.done (.of completeCmd_changes)))
    (.ite (.done (.of modDCmd_changes)) (.done (.of completeCmd_changes)))

theorem execRun_changes {cmd : Nat} {s : State} : ResChanges [.host, .regs] s (execRun cmd s) := by
  unfold execRun
  split
  · exact .done .refl
  · refine .whenDue ?_
    split
    · rename_i h0
      exact .done (.of (assignRun_changes.ofEqOpt h0))
    · exact .done .refl

theorem tookTurn_changes {s : State} {d : DCmd} : Changes [.host] s (tookTurn s d) := by
  unfold tookTurn
  dsimp only
  exact .ite .refl (.of sets_host)

theorem loadLooks_changes {s : State} {n : Nat} {i : SlotId} {ctx : Nat} :
    Changes [.hbm, .poison, .reqs, .slices, .regs, .log, .trace, .free, .cores] s (loadLooks s n i ctx) := by
  have key : ∀ f, f = loadLooks → Changes [.hbm, .poison, .reqs, .slices, .regs, .log, .trace, .free, .cores] s (f s n i ctx)
    := by
    intro f hf
    delta loadLooks at hf
    subst hf
    beta_reduce
    have h := segTable_changes (ctx := ctx) (x1 := 16) (x2 := 0) (s := s)
    generalize segTable ctx 16 0 s = r at h ⊢
    obtain ⟨gs, t⟩ := r
    exact .comp (.of h) modCore_changes
  exact key _ rfl

theorem startProgram_changes {s : State} {n : Nat} {i : SlotId} {d : DCmd} :
    Changes [.cores, .hbm, .poison, .reqs, .slices, .regs, .log, .trace, .free] s (startProgram s n i d) := by
  unfold startProgram
  dsimp only
  refine .ite ?_ ?_
  · exact .comp (.comp (.comp (.comp (.ite .refl (.of loadLooks_changes)) modCore_changes) modSlot_changes) setSlot_changes)
      modSlot_changes
  · exact .comp (.comp (.comp (.ite .refl (.of loadLooks_changes)) modCore_changes) modSlot_changes) setSlot_changes

theorem execRunStart_changes {cmd : Nat} {s : State} :
    ResChanges [.host, .cores, .hbm, .poison, .reqs, .slices, .regs, .log, .trace, .free] s (execRunStart cmd s) := by
  unfold execRunStart
  split
  · split
    · exact .whenDue (.done (.comp (.comp (.of modDCmd_changes) tookTurn_changes) startProgram_changes))
    · exact .done .refl
  · exact .done .refl

theorem execRunExpired_changes {cmd : Nat} {s : State} : ResChanges [.host, .regs] s (execRunExpired cmd s) := by
  unfold execRunExpired
  split
  · exact .done .refl
  · exact .whenDue (.done (.of completeCmd_changes))

theorem execNop_changes {cmd : Nat} {s : State} : ResChanges [.host, .regs] s (execNop cmd s) := by
  unfold execNop
  split
  · exact .done .refl
  · exact .whenDue (.done (.comp (.of tookTurn_changes) completeCmd_changes))

theorem hostPath_changes {s : State} {d : DCmd} {a : Nat} {gran : Option (Nat × Nat)} {va : Nat} {w : Bool} :
    Changes [.regs, .host, .priOut] s (hostPath s d a gran va w).2 := by
  unfold hostPath
  split
  · exact .refl
  · exact .of askAts_changes
  · exact .ite_2 .refl (.ite_2 .refl (.of requestPage_changes))
  · exact .refl

theorem transferHalts_changes {s : State} {d : DCmd} {va seg k : Nat} {w : Bool} :
    Changes [.xlate, .host, .regs, .pend] s (transferHalts s d va seg k w).2 := by
  unfold transferHalts
  exact .ite_2 (.of faultRecord_changes) .refl

theorem devPath_changes {s : State} {d : DCmd} {va : Nat} {n : Need} : Changes laneParts s (devPath s d va n).2 := by
  have key : ∀ f r, f = devPath → f s d va n = r → Changes laneParts s r.2 := by
    intro f r hf hr
    delta devPath at hf
    subst hf
    beta_reduce at hr
    have h := pointsFind_changes (s := s) (ctx := d.ctx) (va := va)
    generalize pointsFind s d.ctx va = q at h hr
    subst hr
    obtain ⟨g, t⟩ := q
    dsimp only
    split
    · exact .of h
    · exact .comp (.of h) hostPath_changes
    · exact .comp (.of h) askMiss_changes
    · exact .comp (.of h) transferHalts_changes
    · exact .of h
  exact key _ _ rfl rfl

theorem sideCounted_changes {s : State} {d : DCmd} {va : Nat} {x3 : Option (Nat × Nat)} :
    Changes [.xlate, .regs, .host] s (sideCounted s d va x3) := by
  unfold sideCounted
  split
  · exact .of countHost_changes
  · exact .refl

theorem sideRead_changes {s : State} {d : DCmd} {x : Side} {n : Nat} {h : HostData} :
    Changes [.hbm, .poison, .reqs, .slices, .regs, .log, .trace, .free, .xlate, .host] s (sideRead s d x n h).2.2 := by
  unfold sideRead
  dsimp only
  split
  · exact .of devRead_changes
  · split
    · exact .comp (.comp (.of sideCounted_changes) emit_changes) post_changes
    · exact .ite (.comp (.comp (.of sideCounted_changes) emit_changes) aerReport_changes) (.comp (.of sideCounted_changes)
        emit_changes)

theorem hostPut_changes {rank : Nat} {s : State} {fn a : Nat} {attr : TlpAttr} {x5 : List (List Byte × Bool)} :
    Changes [.host] s (hostPut rank s fn a attr x5) := by
  induction x5 generalizing rank s fn a attr with
  | nil =>
    unfold hostPut
    exact .refl
  | cons e es ih =>
    unfold hostPut
    exact .comp (.of emitAt_changes) ih

theorem sideWrite_changes {s : State} {d : DCmd} {x : Side} {bs : List Byte} {bad : List Bool} :
    Changes [.hbm, .poison, .reqs, .slices, .regs, .log, .trace, .xlate, .host] s (sideWrite s d x bs bad).2 := by
  unfold sideWrite
  dsimp only
  split
  · exact .of devWrite_changes
  · exact .comp (.of sideCounted_changes) hostPut_changes

theorem movePiece_changes {s : State} {d : DCmd} {x y : Side} {src dst n : Nat} {h : HostData} :
    Changes [.hbm, .poison, .reqs, .slices, .regs, .log, .trace, .free, .xlate, .host] s (movePiece s d x y src dst n h).2.2
      := by
  unfold movePiece
  dsimp only
  split
  · exact .comp (.of sideRead_changes) sideWrite_changes
  · exact .of sideRead_changes

theorem transferPiece_changes {s : State} {d : DCmd} {src dst n dir : Nat} {h : HostData} :
    Changes laneParts s (transferPiece s d src dst n dir h).2.2 := by
  have hfrom : Changes laneParts s
      (if dir = 0 then hostPath s d src none src false else devPath s d src .read).2 :=
    .ite_2 (.of hostPath_changes) (.of devPath_changes)
  unfold transferPiece
  dsimp only
  split
  · rename_i h
    exact hfrom.ofEq_2 h
  · rename_i t h
    have ht := hfrom.ofEq_2 h
    have hto : Changes laneParts s
        (if dir = 1 then hostPath t d dst none dst true else devPath t d dst (if d.op = 2 then .fetch else .write)).2 :=
      .ite_2 (.comp ht hostPath_changes) (.comp ht devPath_changes)
    refine .ite_2_2 ht ?_
    split
    · rename_i h'
      exact .of (hto.ofEq_2 h')
    · rename_i h'
      exact .comp (hto.ofEq_2 h') movePiece_changes

theorem transferGo_changes {dir src dst len x4 : Nat} {x5 : DCmd} {x6 : HostData} {s : State} :
    Changes laneParts s (transferGo dir src dst len x4 x5 x6 s).2 := by
  induction x4 generalizing dir src dst len x5 x6 s with
  | zero =>
    unfold transferGo
    exact .refl
  | succ n ih =>
    unfold transferGo
    dsimp only
    refine .ite_2 .refl ?_
    split
    · rename_i h0
      exact .comp (.of (transferPiece_changes.ofEq_2_2 h0)) ih
    · rename_i h0
      exact .of (transferPiece_changes.ofEq_2_2 h0)
    · rename_i h0
      exact .of (transferPiece_changes.ofEq_2_2 h0)
    · rename_i h0
      exact .of (transferPiece_changes.ofEq_2_2 h0)

theorem freeTransferTag_changes {s : State} {d : DCmd} : Changes [.tags] s (freeTransferTag s d) := by
  unfold freeTransferTag
  dsimp only
  split
  · exact .of setTag_changes
  · exact .refl

theorem transfer_changes {s : State} {d : DCmd} {tag : Nat} {h : HostData} :
    Changes [.regs, .host, .priOut, .hbm, .poison, .reqs, .slices, .log, .trace, .free, .px, .xlate, .pend, .tags] s (transfer
      s d tag h) := by
  unfold transfer
  dsimp only
  split
  · exact .comp (.comp (.ite .refl (.comp (.of tookTurn_changes) takeTag_changes)) transferGo_changes) modDCmd_changes
  · exact .comp (.comp (.ite .refl (.comp (.of tookTurn_changes) takeTag_changes)) transferGo_changes) modDCmd_changes
  · exact .comp (.comp (.comp (.ite .refl (.comp (.of tookTurn_changes) takeTag_changes)) transferGo_changes)
      freeTransferTag_changes) completeCmd_changes
  · exact .comp (.comp (.comp (.ite .refl (.comp (.of tookTurn_changes) takeTag_changes)) transferGo_changes)
      freeTransferTag_changes) completeCmd_changes

theorem execLoad_changes {cmd : Nat} {tag : Fin 4096} {host : HostReply} {s : State} :
    ResChanges [.regs, .host, .priOut, .hbm, .poison, .reqs, .slices, .log, .trace, .free, .px, .xlate, .pend, .tags] s
      (execLoad cmd tag host s) := by
  unfold execLoad
  split
  · exact .done .refl
  · exact .whenDue (.done (.of transfer_changes))

theorem execCopy_changes {cmd : Nat} {tag : Fin 4096} {host : HostReply} {s : State} :
    ResChanges [.regs, .host, .priOut, .hbm, .poison, .reqs, .slices, .log, .trace, .free, .px, .xlate, .pend, .tags] s
      (execCopy cmd tag host s) := by
  unfold execCopy
  split
  · exact .done .refl
  · exact .whenDue (.done (.of transfer_changes))

theorem timeTrigger_changes {s : State} {ctx q : Nat} : Changes [.host] s (timeTrigger s ctx q) := by
  unfold timeTrigger
  dsimp only
  exact .comp (.of setQueue_changes) sendVector_changes

theorem execInterruptTimeTrigger_changes {ctx : Fin 64} {q : Fin 8} {s : State} :
    ResChanges [.host] s (execInterruptTimeTrigger ctx q s) := by
  unfold execInterruptTimeTrigger
  exact .whenDue (.done (.of timeTrigger_changes))

theorem unmask_changes {s : State} {v : Nat} : Changes [.host] s (unmask s v) := by
  unfold unmask
  dsimp only
  exact .ite (.comp (.of sets_host) emit_changes) (.of sets_host)

theorem execMsixUnmask_changes {vector : Fin 2048} {s : State} : ResChanges [.host] s (execMsixUnmask vector s) := by
  unfold execMsixUnmask
  exact .done (.ite (.of unmask_changes) .refl)

theorem hw4Read_changes {s : State} {pa n : Nat} :
    Changes [.host, .log, .regs, .trace, .hbm, .poison, .reqs, .slices, .free] s (hw4Read s pa n) := by
  unfold hw4Read
  dsimp only
  exact .ite (.comp (.of emit_changes) aerReport_changes) (.comp (.of devRead_changes) emit_changes)

theorem hw4Write_changes {s : State} {pa : Nat} {bs : List Byte} {ep : Bool} :
    Changes [.log, .regs, .trace, .host, .hbm, .poison, .reqs, .slices] s (hw4Write s pa bs ep) := by
  unfold hw4Write
  dsimp only
  exact .ite (.comp (.ite (.of aerReport_changes) .refl) post_changes) (.comp (.ite (.of aerReport_changes) .refl)
    devWrite_changes)

theorem execHw4Access_changes {offset : BitVec 38} {len : Nat} {write : Option (List Byte × Bool)} {s : State} :
    ResChanges [.log, .regs, .trace, .host, .hbm, .poison, .reqs, .slices, .free] s (execHw4Access offset len write s) := by
  unfold execHw4Access
  dsimp only
  refine .done ?_
  refine .ite .refl ?_
  split
  · exact .of hw4Write_changes
  · exact .of hw4Read_changes

theorem execD3hotEntry_changes {fn : Fin 64} {s : State} : ResChanges [.host] s (execD3hotEntry fn s) := by
  unfold execD3hotEntry
  dsimp only
  exact .done (.ite (.of sets_host) .refl)

theorem toD0_changes {s : State} {fn : Nat} : Changes [.host] s (toD0 s fn) := by
  unfold toD0
  dsimp only
  exact .foldl (.of sets_host) fun _ _ => .of enqueue_changes

theorem execReturnToD0_changes {fn : Fin 64} {s : State} : ResChanges [.host] s (execReturnToD0 fn s) := by
  unfold execReturnToD0
  exact .done (.ite (.of toD0_changes) .refl)

theorem timeoutRecord_changes {s : State} {fn : Nat} {ctx : Option Nat} {arg addr : Nat} :
    Changes [.log, .regs, .trace, .host] s (timeoutRecord s fn ctx arg addr) := by
  unfold timeoutRecord
  exact .comp (.of aerReport_changes) post_changes

theorem lineTimesOut_changes {s : State} {r : LineReq} :
    Changes [.log, .regs, .trace, .host, .tags, .cores, .remotes, .reqs] s (lineTimesOut s r) := by
  unfold lineTimesOut
  split
  · exact .comp (.of timeoutRecord_changes) failStream_changes
  · exact .refl

theorem mirrorTimesOut_changes {s : State} {c : CtrlCmd} {seg : Nat} :
    Changes [.xlate, .host, .regs, .log, .trace] s (mirrorTimesOut s c seg) := by
  unfold mirrorTimesOut
  dsimp only
  refine control_changes ?_
  intro _
  exact .comp (.comp (.of mirrorReads_changes) timeoutRecord_changes) endControl_changes

theorem commandsTimeOut_changes {s : State} {r : CmdRead} : Changes [.log, .regs, .trace, .host] s (commandsTimeOut s r) := by
  unfold commandsTimeOut
  dsimp only
  exact .ite (.comp (.of aerReport_changes) readFails_changes) (.of aerReport_changes)

theorem execCompletionTimeout_changes {what : TimedOut} {s : State} :
    ResChanges [.log, .regs, .trace, .host, .tags, .cores, .remotes, .reqs, .xlate, .layers] s (execCompletionTimeout what s)
      := by
  unfold execCompletionTimeout
  split
  · split
    · exact .whenDue (.done (.of lineTimesOut_changes))
    · exact .done .refl
  · split
    · exact .done (.comp (.comp (.of endRead_changes) commandsTimeOut_changes) serveReads_changes)
    · exact .done .refl
  · split
    · exact .whenDue (.done (.comp (.comp (.of timeoutRecord_changes) freeTransferTag_changes) completeCmd_changes))
    · exact .done .refl
  · split
    · exact .whenDue (.done (.of mirrorTimesOut_changes))
    · exact .done .refl
  · split
    · exact .whenDue (.done (.comp (.of timeoutRecord_changes) failLayer_changes))
    · exact .done .refl

/-! ### Functions of Machine/Solver -/

theorem lanePage_changes {s : State} {fn : Nat} {x : Option Nat} {a : Nat} :
    Changes [.priOut, .host] s (lanePage s fn x a).2 := by
  unfold lanePage
  exact .ite_2 .refl (.ite_2 .refl (.of requestPage_changes))

theorem laneXlate_changes {s : State} {p : Problem} {va : Nat} {w : Bool} :
    Changes [.xlate, .px, .regs, .host, .priOut, .pend] s (laneXlate s p va w).2 := by
  unfold laneXlate
  refine .ite_2 .refl ?_
  split
  · rename_i h0
    exact .of (unitXlate_changes.ofEq_2 h0)
  · rename_i h0
    split
    · exact .of (unitXlate_changes.ofEq_2 h0)
    · exact .comp (.of (unitXlate_changes.ofEq_2 h0)) askAts_changes
    · exact .comp (.of (unitXlate_changes.ofEq_2 h0)) lanePage_changes
    · exact .of (unitXlate_changes.ofEq_2 h0)
  · rename_i h0
    exact .of (unitXlate_changes.ofEq_2 h0)
  · rename_i h0
    exact .ite_2 (.comp (.of (unitXlate_changes.ofEq_2 h0)) faultRecord_changes) (.of (unitXlate_changes.ofEq_2 h0))
  · rename_i h0
    exact .of (unitXlate_changes.ofEq_2 h0)

theorem laneCounts_changes {s : State} {p : Problem} {va : Nat} {x3 : Option (Nat × Nat)} :
    Changes [.xlate, .regs, .host] s (laneCounts s p va x3) := by
  unfold laneCounts
  split
  · exact .of countHost_changes
  · exact .refl

theorem laneReach_changes {p : Problem} {w : Bool} {x2 : List Nat} {s : State} :
    Changes [.xlate, .px, .regs, .host, .priOut, .pend] s (laneReach p w x2 s).2 := by
  induction x2 generalizing p w s with
  | nil =>
    unfold laneReach
    exact .refl
  | cons e es ih =>
    unfold laneReach
    dsimp only
    split
    · rename_i h0
      exact .of (laneXlate_changes.ofEq_2 h0)
    · rename_i h0
      split
      · rename_i h1
        exact .comp (.of (laneXlate_changes.ofEq_2 h0)) (ih.ofEq_2 h1)
      · rename_i h1
        exact .comp (.of (laneXlate_changes.ofEq_2 h0)) (ih.ofEq_2 h1)

theorem laneLine_changes {s : State} {p : Problem} {va : Nat} {hs : List HostReply} :
    Changes laneParts s (laneLine s p va hs).2.2 := by
  unfold laneLine
  dsimp only
  split
  · rename_i h0
    exact .of (laneXlate_changes.ofEq_2 h0)
  · rename_i h0
    exact .of (laneXlate_changes.ofEq_2 h0)
  · rename_i h0
    exact .comp (.of (laneXlate_changes.ofEq_2 h0)) memLine_changes
  · rename_i h0
    split
    · refine .ite ?_ (.comp (.comp (.of (laneXlate_changes.ofEq_2 h0)) laneCounts_changes) emit_changes)
      exact .comp (.comp (.comp (.of (laneXlate_changes.ofEq_2 h0)) laneCounts_changes) emit_changes) aerReport_changes
    · exact .comp (.comp (.comp (.of (laneXlate_changes.ofEq_2 h0)) laneCounts_changes) emit_changes) post_changes
    · exact .comp (.comp (.of (laneXlate_changes.ofEq_2 h0)) laneCounts_changes) emit_changes

theorem laneRead_changes {p : Problem} {a e x3 x4 : Nat} {x5 : List Byte × Bool} {x6 : List HostReply} {s : State} :
    Changes laneParts s (laneRead p a e x3 x4 x5 x6 s).2.2 := by
  induction x3 generalizing p a e x4 x5 x6 s with
  | zero =>
    unfold laneRead
    exact .refl
  | succ n ih =>
    unfold laneRead
    dsimp only
    split
    · rename_i h0
      exact .of (laneLine_changes.ofEq_2_2 h0)
    · rename_i h0
      exact .comp (.of (laneLine_changes.ofEq_2_2 h0)) ih

theorem problemBytes_changes {s : State} {p : Problem} {a n : Nat} {hs : List HostReply} :
    Changes laneParts s (problemBytes s p a n hs).2.2 := by
  unfold problemBytes
  exact .ite_2_2 .refl (.of laneRead_changes)

theorem laneVec_changes {s : State} {p : Problem} {a n : Nat} {hs : List HostReply} :
    Changes laneParts s (laneVec s p a n hs).2.2 := by
  unfold laneVec
  split
  · rename_i h0
    exact .of (problemBytes_changes.ofEq_2_2 h0)
  · rename_i h0
    exact .of (problemBytes_changes.ofEq_2_2 h0)

theorem laneVecs_changes {p : Problem} {x1 : List (Nat × Nat)} {x2 : List HostReply} {s : State} :
    Changes laneParts s (laneVecs p x1 x2 s).2.2 := by
  induction x1 generalizing p x2 s with
  | nil =>
    unfold laneVecs
    exact .refl
  | cons e es ih =>
    unfold laneVecs
    split
    · rename_i h0
      exact .of (laneVec_changes.ofEq_2_2 h0)
    · rename_i h0
      split
      · rename_i h1
        exact .comp (.of (laneVec_changes.ofEq_2_2 h0)) (ih.ofEq_2_2 h1)
      · rename_i h1
        exact .comp (.of (laneVec_changes.ofEq_2_2 h0)) (ih.ofEq_2_2 h1)

theorem drawWords_changes {x0 : Nat} {s : State} : Changes [.free] s (drawWords x0 s).2 := by
  induction x0 generalizing s with
  | zero =>
    unfold drawWords
    exact .refl
  | succ n ih =>
    unfold drawWords
    dsimp only
    exact .comp (.of drawWord_changes) ih

theorem laneFetch_changes {s : State} {p : Problem} {hs : List HostReply} : Changes laneParts s (laneFetch s p hs).2.2 := by
  unfold laneFetch
  split
  · rename_i h0
    exact .of (laneReach_changes.ofEq_2 h0)
  · rename_i h0
    exact .ite_2_2 (.of (laneReach_changes.ofEq_2 h0)) (.comp (.of (laneReach_changes.ofEq_2 h0)) laneVecs_changes)

theorem laneData_changes {s : State} {p : Problem} {hs : List HostReply} : Changes laneParts s (laneData s p hs).2.2 := by
  unfold laneData
  dsimp only
  split
  · rename_i h0
    exact .of (laneFetch_changes.ofEq_2_2 h0)
  · rename_i h0
    exact .ite_2_2 (.comp (.of (laneFetch_changes.ofEq_2_2 h0)) drawWords_changes) (.of (laneFetch_changes.ofEq_2_2 h0))

theorem laneWriteLine_changes {s : State} {p : Problem} {a : Nat} {bs : List Byte} {l : Nat} :
    Changes [.hbm, .poison, .reqs, .slices, .regs, .log, .trace, .xlate, .px, .host, .priOut, .pend, .sm] s (laneWriteLine s p
      a bs l).2 := by
  unfold laneWriteLine
  dsimp only
  split
  · rename_i h0
    exact .comp (.of (laneXlate_changes.ofEq_2 h0)) memLineWrite_changes
  · rename_i h0
    exact .comp (.of (laneXlate_changes.ofEq_2 h0)) sets_govWin
  · rename_i h0
    exact .comp (.comp (.of (laneXlate_changes.ofEq_2 h0)) laneCounts_changes) emitAt_changes
  · rename_i h0
    exact .of (laneXlate_changes.ofEq_2 h0)

theorem laneWrite_changes {s : State} {p : Problem} {a : Nat} {bs : List Byte} :
    Changes [.hbm, .poison, .reqs, .slices, .regs, .log, .trace, .xlate, .px, .host, .priOut, .pend, .sm] s (laneWrite s p a
      bs).2 := by
  unfold laneWrite
  dsimp only
  exact .foldl_2 (.refl) fun _ _ => .of laneWriteLine_changes

theorem dropProblem_changes {s : State} {p : Problem} : Changes [.problems] s (dropProblem s p) := by
  unfold dropProblem
  exact .of sets_problems

theorem countEnd_changes {s : State} {p : Problem} {r : LaneEnd} {m : LaneMark} :
    Changes [.regs, .tags, .cores, .remotes, .reqs, .host] s (countEnd s p r m) := by
  unfold countEnd
  dsimp only
  split
  · exact .comp (.of setFld_changes) setFld_changes
  · split
    · exact .ite (.comp (.of modCmd_changes) retire_changes) (.of modCmd_changes)
    · exact .of modCmd_changes

theorem laneCounters_changes {s : State} {p : Problem} {r : LaneEnd} : Changes [.regs] s (laneCounters s p r) := by
  unfold laneCounters
  dsimp only
  split
  · exact .refl
  · exact .comp (.comp (.ite (.of bump_changes) .refl) bump_changes) bump_changes

theorem laneFinish_changes {s : State} {p : Problem} {r : LaneEnd} {poison : Bool} {m : LaneMark} :
    Changes [.hbm, .poison, .reqs, .slices, .regs, .log, .trace, .xlate, .px, .host, .priOut, .pend, .sm, .problems, .tags,
      .cores, .remotes] s (laneFinish s p r poison m) := by
  unfold laneFinish
  dsimp only
  exact .comp (.comp (.comp (.of laneWrite_changes) dropProblem_changes) laneCounters_changes) countEnd_changes

theorem laneWaits_changes {s : State} {p : Problem} {why : LaneStop} : Changes [.problems] s (laneWaits s p why) := by
  unfold laneWaits
  split
  · exact .of sets_problems
  · exact .refl

theorem laneWrites_changes {p : Problem} {x1 : List (Nat × List Byte)} {x2 : Bool} {s : State} :
    Changes [.hbm, .poison, .reqs, .slices, .regs, .log, .trace, .xlate, .px, .host, .priOut, .pend, .sm] s (laneWrites p x1
      x2 s).2 := by
  induction x1 generalizing p x2 s with
  | nil =>
    unfold laneWrites
    exact .refl
  | cons e es ih =>
    unfold laneWrites
    dsimp only
    exact .comp (.of laneWrite_changes) ih

theorem laneEnds_changes {s : State} {p : Problem} {r : LaneEnd} {poison : Bool} : Changes [.problems, .regs, .tags, .cores,
  .remotes, .reqs, .host, .xlate, .px, .priOut, .pend, .hbm, .poison, .slices, .log, .trace, .sm] s (laneEnds s p r poison) :=
  by
  unfold laneEnds
  dsimp only
  split
  · rename_i h0
    exact .comp (.comp (.comp (.of (laneReach_changes.ofEq_2 h0)) dropProblem_changes) laneCounters_changes) countEnd_changes
  · rename_i h0
    exact .comp (.of (laneReach_changes.ofEq_2 h0)) laneWaits_changes
  · rename_i h0
    split
    · rename_i h1
      exact .comp (.comp (.of (laneReach_changes.ofEq_2 h0)) (laneReach_changes.ofEq_2 h1)) laneFinish_changes
    · rename_i h1
      exact .comp (.comp (.of (laneReach_changes.ofEq_2 h0)) (laneReach_changes.ofEq_2 h1)) laneWaits_changes
    · rename_i h1
      exact .comp (.comp (.comp (.of (laneReach_changes.ofEq_2 h0)) (laneReach_changes.ofEq_2 h1)) laneWrites_changes)
        laneFinish_changes

theorem readDescs_changes {c : Cmd} {t x2 x3 : Nat} {x4 : List HostReply} {s : State} :
    Changes laneParts s (readDescs c t x2 x3 x4 s).2.2 := by
  induction x2 generalizing c t x3 x4 s with
  | zero =>
    unfold readDescs
    exact .refl
  | succ n ih =>
    unfold readDescs
    dsimp only
    split
    · rename_i h0
      exact .of (problemBytes_changes.ofEq_2_2 h0)
    · rename_i h0
      split
      · rename_i h1
        exact .comp (.of (problemBytes_changes.ofEq_2_2 h0)) (laneReach_changes.ofEq_2 h1)
      · rename_i h1
        split
        · exact .comp (.of (problemBytes_changes.ofEq_2_2 h0)) (laneReach_changes.ofEq_2 h1)
        · split
          · rename_i h2
            exact .comp (.comp (.of (problemBytes_changes.ofEq_2_2 h0)) (laneReach_changes.ofEq_2 h1)) (ih.ofEq_2_2 h2)
          · rename_i h2
            exact .comp (.comp (.of (problemBytes_changes.ofEq_2_2 h0)) (laneReach_changes.ofEq_2 h1)) (ih.ofEq_2_2 h2)

theorem descReach_changes {c : Cmd} {t x2 x3 : Nat} {s : State} :
    Changes [.xlate, .px, .regs, .host, .priOut, .pend] s (descReach c t x2 x3 s).2 := by
  induction x2 generalizing c t x3 s with
  | zero =>
    unfold descReach
    exact .refl
  | succ n ih =>
    unfold descReach
    dsimp only
    split
    · rename_i h0
      exact .of (laneReach_changes.ofEq_2 h0)
    · rename_i h0
      exact .of (laneReach_changes.ofEq_2 h0)
    · rename_i h0
      split
      · rename_i h1
        exact .comp (.of (laneReach_changes.ofEq_2 h0)) (laneReach_changes.ofEq_2 h1)
      · rename_i h1
        exact .comp (.of (laneReach_changes.ofEq_2 h0)) (laneReach_changes.ofEq_2 h1)
      · rename_i h1
        split
        · rename_i h2
          exact .comp (.comp (.of (laneReach_changes.ofEq_2 h0)) (laneReach_changes.ofEq_2 h1)) (ih.ofEq_2 h2)
        · rename_i h2
          exact .comp (.comp (.of (laneReach_changes.ofEq_2 h0)) (laneReach_changes.ofEq_2 h1)) (ih.ofEq_2 h2)

theorem frontReads_changes {s : State} {t : Nat} {c : Cmd} {hs : List HostReply} :
    Changes laneParts s (frontReads s t c hs).2.2 := by
  unfold frontReads
  split
  · rename_i h0
    exact .of (descReach_changes.ofEq_2 h0)
  · rename_i h0
    exact .ite_2_2 (.of (descReach_changes.ofEq_2 h0)) (.comp (.of (descReach_changes.ofEq_2 h0)) readDescs_changes)

theorem leaveFront_changes {s : State} {t : Nat} : Changes [.problems] s (leaveFront s t) := by
  unfold leaveFront
  exact .of sets_solveNet

theorem frontEnd_changes {s : State} {t : Nat} {c : Cmd} {hs : List HostReply} :
    Changes [.problems, .tags, .cores, .remotes, .reqs, .host, .xlate, .px, .regs, .priOut, .pend, .hbm, .poison, .slices,
      .log, .trace, .free] s (frontEnd s t c hs) := by
  unfold frontEnd
  dsimp only
  split
  · rename_i h0
    exact .comp (.comp (.of (frontReads_changes.ofEq_2_2 h0)) leaveFront_changes) fail_changes
  · rename_i h0
    exact .comp (.of (frontReads_changes.ofEq_2_2 h0)) sets_solveNet
  · rename_i h0
    exact .of (frontReads_changes.ofEq_2_2 h0)
  · rename_i h0
    exact .comp (.comp (.comp (.of (frontReads_changes.ofEq_2_2 h0)) leaveFront_changes) sets_problems_nextProblem)
      modCmd_changes

theorem execSolveFrontEnd_changes {tag : Fin 4096} {host : List HostReply} {s : State} :
    ResChanges [.problems, .tags, .cores, .remotes, .reqs, .host, .xlate, .px, .regs, .priOut, .pend, .hbm, .poison, .slices,
      .log, .trace, .free] s (execSolveFrontEnd tag host s) := by
  unfold execSolveFrontEnd
  split
  · exact .done .refl
  · exact .whenDue (.done (.of frontEnd_changes))

theorem execProblemAssign_changes {problem : Nat} {s : State} : ResChanges [.problems] s (execProblemAssign problem s) := by
  unfold execProblemAssign
  split
  · exact .done .refl
  · split
    · exact .done .refl
    · exact .whenDue (.done (.of sets_problems))

theorem problemEnds_changes {s : State} {p : Problem} {hs : List HostReply} :
    Changes [.problems, .regs, .tags, .cores, .remotes, .reqs, .host, .xlate, .px, .priOut, .pend, .hbm, .poison, .slices,
      .log, .trace, .sm, .free] s (problemEnds s p hs) := by
  unfold problemEnds
  split
  · rename_i h0
    exact .comp (.of (laneData_changes.ofEq_2_2 h0)) laneEnds_changes
  · rename_i h0
    exact .comp (.of (laneData_changes.ofEq_2_2 h0)) laneWaits_changes
  · rename_i h0
    exact .comp (.of (laneData_changes.ofEq_2_2 h0)) laneEnds_changes

theorem execProblemEnd_changes {problem : Nat} {host : List HostReply} {s : State} :
    ResChanges [.problems, .regs, .tags, .cores, .remotes, .reqs, .host, .xlate, .px, .priOut, .pend, .hbm, .poison, .slices,
      .log, .trace, .sm, .free] s (execProblemEnd problem host s) := by
  unfold execProblemEnd
  split
  · exact .done .refl
  · exact .whenDue (.done (.of problemEnds_changes))

theorem cutIssues_changes {s : State} {r : LaneEnd} : Changes [.free] s (cutIssues s r).2 := by
  unfold cutIssues
  dsimp only
  exact .of drawWord_changes

theorem deadlineEnds_changes {s : State} {p : Problem} {iters pivots : Nat} {checked : Bool} {hs : List HostReply} :
    OptChanges [.problems, .regs, .tags, .cores, .remotes, .reqs, .host, .xlate, .px, .priOut, .pend, .hbm, .poison, .slices,
      .log, .trace, .sm, .free] s (deadlineEnds s p iters pivots checked hs) := by
  unfold deadlineEnds
  refine .ite (.done (.of laneEnds_changes)) (.ite .none ?_)
  split
  · rename_i d _ t h
    have hd : Changes [.problems, .regs, .tags, .cores, .remotes, .reqs, .host, .xlate, .px, .priOut, .pend, .hbm, .poison,
        .slices, .log, .trace, .sm, .free] s t := .of (laneData_changes.ofEq_2_2 h)
    refine .ite .none ?_
    cases solveCut p d iters checked with
    | none => exact .none
    | some r =>
      refine OptChanges.ite (.done (.comp ?_ laneEnds_changes)) .none
      exact .ite_2 hd (.comp hd cutIssues_changes)
  · exact .none

theorem execDeadlineCheck_changes {problem iters pivots : Nat} {checked : Bool} {host : List HostReply} {s : State} :
    ResChanges [.problems, .regs, .tags, .cores, .remotes, .reqs, .host, .xlate, .px, .priOut, .pend, .hbm, .poison, .slices,
      .log, .trace, .sm, .free] s (execDeadlineCheck problem iters pivots checked host s) := by
  unfold execDeadlineCheck
  split
  · exact .done .refl
  · split
    · exact .done .refl
    · rename_i h0
      exact .whenDue (.done (.of (deadlineEnds_changes.ofEqOpt h0)))

theorem dropGovernor_changes {s : State} {k : Nat} : Changes [.problems, .regs] s (dropGovernor s k) := by
  unfold dropGovernor
  dsimp only
  exact .ite (.comp (.of sets_problems) setFld_changes) .refl

theorem restartOn_changes {s : State} {on : Nat × Nat → Bool} : Changes [.problems, .regs] s (restartOn s on) := by
  unfold restartOn
  dsimp only
  refine .comp ?_ sets_problems
  refine .foldl ?_ fun _ _ => ?_
  · exact .refl
  · split
    · exact .of bump_changes
    · exact .refl

theorem failCluster_changes {s : State} {k : Nat} : Changes [.regs, .problems] s (failCluster s k) := by
  unfold failCluster
  exact .comp (.comp (.comp (.of setFld_changes) dropGovernor_changes) restartOn_changes) govRefresh_changes

theorem laneError_changes {s : State} {k l : Nat} : Changes [.problems, .regs, .log, .trace] s (laneError s k l) := by
  unfold laneError
  dsimp only
  exact .ite (.comp (.comp (.comp (.of sets_laneOff) restartOn_changes) failCluster_changes) post_changes) (.comp (.of
    sets_laneOff) restartOn_changes)

theorem execSolverLaneStoreError_changes {cluster : Fin 4} {lane : Fin 32} {s : State} :
    ResChanges [.problems, .regs, .log, .trace] s (execSolverLaneStoreError cluster lane s) := by
  unfold execSolverLaneStoreError
  exact .whenDue (.done (.of laneError_changes))

theorem dropPage_changes {s : State} {q : PageReq} : Changes [.xlate] s (dropPage s q) := by
  unfold dropPage
  exact .of sets_dtcH

theorem failSolves_changes {s : State} {q : PageReq} :
    Changes [.problems, .tags, .cores, .remotes, .reqs, .host, .regs, .xlate, .px, .priOut, .pend, .hbm, .poison, .slices,
      .log, .trace, .sm] s (failSolves s q) := by
  unfold failSolves
  dsimp only
  exact .foldl (.foldl (.refl) fun _ _ => .comp (.of leaveFront_changes) fail_changes) fun _ _ => .of laneEnds_changes

theorem failWaiters_changes {s : State} {q : PageReq} :
    Changes [.problems, .tags, .cores, .remotes, .reqs, .host, .regs, .xlate, .px, .priOut, .pend, .hbm, .poison, .slices,
      .log, .trace, .sm, .layers] s (failWaiters s q) := by
  unfold failWaiters
  dsimp only
  refine .comp ?_ failSolves_changes
  exact .foldl (.foldl (.foldl (.refl) fun _ _ => .of failStream_changes) fun _ _ => .of failLayer_changes) fun _ _ => .comp
    (.of freeTransferTag_changes) completeCmd_changes

theorem prgResponse_changes {s : State} {q : PageReq} {code : PrgCode} : Changes [.priOut, .xlate, .problems, .tags, .cores,
  .remotes, .reqs, .host, .regs, .px, .pend, .hbm, .poison, .slices, .log, .trace, .sm, .layers] s (prgResponse s q code) :=
  by
  unfold prgResponse
  dsimp only
  split
  · exact .comp (.of sets_priOut) dropPage_changes
  · exact .comp (.of sets_priOut) failWaiters_changes
  · exact .comp (.comp (.of sets_priOut_host) post_changes) failWaiters_changes

theorem execPrgResponse_changes {fn : Fin 64} {group : Nat} {code : PrgCode} {s : State} :
    ResChanges [.priOut, .xlate, .problems, .tags, .cores, .remotes, .reqs, .host, .regs, .px, .pend, .hbm, .poison, .slices,
      .log, .trace, .sm, .layers] s (execPrgResponse fn group code s) := by
  unfold execPrgResponse
  split
  · exact .done .refl
  · exact .done (.of prgResponse_changes)

/-! ### Functions of Machine/Stationmaster -/

theorem setSm_changes {s : State} {x : SmSt} : Changes [.sm] s (setSm s x) := by
  unfold setSm
  exact .of sets_sm

theorem mboxAnswer_changes {bs : List Byte} {x1 x2 : Nat} {s : State} : Changes [.regs] s (mboxAnswer bs x1 x2 s) := by
  induction x1 generalizing bs x2 s with
  | zero =>
    unfold mboxAnswer
    exact .refl
  | succ n ih =>
    unfold mboxAnswer
    exact .ite .refl (.comp (.of setReg_changes) ih)

theorem respond_changes {l : List Part} {s : State} {w : Iface} {r : MgmtRes} (h : Changes l s r.2.2) (hl : [.sm, .regs,
  .host] ⊆ l := by decide) : Changes l s (respond w r) := by
  have hr : ∀ t, Changes [.sm, .regs, .host] t (respond w (r.1, r.2.1, t)) := by
    intro t
    unfold respond
    dsimp only
    split
    · exact .of setSm_changes
    · exact .ite (.comp (.comp (.comp (.of setSm_changes) mboxAnswer_changes) setFld_changes) setFld_changes)
        (.comp (.comp (.comp (.comp (.of setSm_changes) mboxAnswer_changes) setFld_changes) setFld_changes) sendVector_changes)
  exact .comp h (hr _) hl

theorem runMgmt_changes {l : List Part} {w : Iface} {code len : Nat} {body : Iface → List Byte → State → MgmtRes} {req : List
  Byte} {s : State} (h : ∀ w req t, Changes l t (body w req t).2.2) (hl : [.sm, .regs, .host] ⊆ l := by decide) :
    Changes l s (runMgmt w code len body req s) := by
  refine respond_changes ?_ hl
  exact .ite_2_2 .refl (.ite_2_2 .refl (h w req s))

theorem mgmtIdent_changes {x0 : Iface} {x1 : List Byte} {s : State} : Changes [] s (mgmtIdent x0 x1 s).2.2 := by
  unfold mgmtIdent
  exact .refl

theorem mgmtStatus_changes {x0 : Iface} {x1 : List Byte} {s : State} : Changes [] s (mgmtStatus x0 x1 s).2.2 := by
  unfold mgmtStatus
  exact .refl

theorem mgmtTelemetry_changes {x0 : Iface} {x1 : List Byte} {s : State} : Changes [] s (mgmtTelemetry x0 x1 s).2.2 := by
  unfold mgmtTelemetry
  exact .refl

theorem mgmtReadLog_changes {w : Iface} {x1 : List Byte} {s : State} : Changes [.log] s (mgmtReadLog w x1 s).2.2 := by
  unfold mgmtReadLog
  split
  · exact .of sets_log
  · split
    · exact .refl
    · exact .of sets_log

theorem mgmtSetTod_changes {x0 : Iface} {req : List Byte} {s : State} : Changes [.regs, .time] s (mgmtSetTod x0 req s).2.2 :=
  by
  unfold mgmtSetTod
  exact .of takeTod_changes

theorem mgmtSetCap_changes {w : Iface} {req : List Byte} {s : State} : Changes [.sm] s (mgmtSetCap w req s).2.2 := by
  unfold mgmtSetCap
  dsimp only
  exact .ite_2_2 .refl (.of setSm_changes)

theorem mgmtGovCtl_changes {x0 : Iface} {req : List Byte} {s : State} : Changes [.sm] s (mgmtGovCtl x0 req s).2.2 := by
  unfold mgmtGovCtl
  dsimp only
  split
  · exact .of setSm_changes
  · exact .of setSm_changes
  · exact .refl

theorem mgmtGovTarget_changes {x0 : Iface} {req : List Byte} {s : State} : Changes [.sm] s (mgmtGovTarget x0 req s).2.2 := by
  unfold mgmtGovTarget
  dsimp only
  exact .of setSm_changes

theorem stageBytes_changes {s : State} {o : Nat} {bs : List Byte} : Changes [.nv, .sm] s (stageBytes s o bs) := by
  have hnv : ∀ (nv : NvSt) (k : Nat) (m : Mem), (setSlotImage nv k m).serial = nv.serial
      ∧ (setSlotImage nv k m).dbgLock = nv.dbgLock := by
    intro nv k m
    unfold setSlotImage
    split <;> exact ⟨rfl, rfl⟩
  exact .comp (.of (sets_nv (hnv _ _ _).1 (hnv _ _ _).2)) setSm_changes

theorem mgmtFwStage_changes {w : Iface} {req : List Byte} {s : State} :
    Changes [.nv, .sm, .hbm, .poison, .reqs, .slices, .regs, .log, .trace, .free] s (mgmtFwStage w req s).2.2 := by
  unfold mgmtFwStage
  dsimp only
  refine .ite_2_2 .refl ?_
  split
  · exact .ite_2_2 .refl (.of stageBytes_changes)
  · exact .ite_2_2 .refl (.ite_2_2 .refl (.comp (.of privRead_changes) stageBytes_changes))

theorem setUpd_changes {s : State} {u : Nat} : Changes [.sm] s (setUpd s u) := by
  unfold setUpd
  dsimp only
  exact .of setSm_changes

theorem mgmtFwVerify_changes {c : ImgChk} {x1 : Iface} {x2 : List Byte} {s : State} :
    Changes [.sm] s (mgmtFwVerify c x1 x2 s).2.2 := by
  unfold mgmtFwVerify
  dsimp only
  refine .ite_2_2 .refl ?_
  split
  · exact .comp (.of setUpd_changes) setSm_changes
  · exact .of setUpd_changes
  · exact .of setUpd_changes

theorem setVolt_changes {s : State} {q mhz : Nat} : Changes [.regs] s (setVolt s q mhz) := by
  unfold setVolt
  exact .of setFld_changes

theorem setClk_changes {s : State} {q mhz : Nat} : Changes [.regs] s (setClk s q mhz) := by
  unfold setClk
  exact .of setFld_changes

theorem setAllot_changes {s : State} {q mw : Nat} : Changes [.regs] s (setAllot s q mw) := by
  unfold setAllot
  exact .of setFld_changes

theorem lowerTo_changes {s : State} {q mhz mw : Nat} : Changes [.regs] s (lowerTo s q mhz mw) := by
  unfold lowerTo
  exact .ite (.comp (.comp (.of setClk_changes) setVolt_changes) setAllot_changes) .refl

theorem clocksToFallback_changes {s : State} {allot : List Nat} : Changes [.regs] s (clocksToFallback s allot) := by
  unfold clocksToFallback
  exact .foldl (.refl) fun _ _ => .of lowerTo_changes

theorem mgmtFwActivate_changes {allot : List Nat} {x1 : Iface} {x2 : List Byte} {s : State} :
    Changes [.nv, .sm, .power, .regs] s (mgmtFwActivate allot x1 x2 s).2.2 := by
  unfold mgmtFwActivate
  dsimp only
  refine .ite_2_2 .refl ?_
  refine .ite_2_2 (.comp (.comp (.of setDir_changes) bootStart_changes) setSm_changes) ?_
  exact .comp (.comp (.of clocksToFallback_changes) setDir_changes) setSm_changes

theorem mgmtFwConfirm_changes {x0 : Iface} {x1 : List Byte} {s : State} : Changes [.nv, .sm] s (mgmtFwConfirm x0 x1 s).2.2 :=
  by
  unfold mgmtFwConfirm
  dsimp only
  exact .ite_2_2 .refl (.comp (.comp (.of setDir_changes) sets_nv) setUpd_changes)

theorem mgmtFwStatus_changes {x0 : Iface} {x1 : List Byte} {s : State} : Changes [] s (mgmtFwStatus x0 x1 s).2.2 := by
  unfold mgmtFwStatus
  exact .refl

theorem mgmtByCode_changes {code len : Nat} {body : Iface → List Byte → State → MgmtRes} (h : mgmtByCode code = some (len,
  body)) (w : Iface) (req : List Byte) (t : State) : Changes mgmtParts t (body w req t).2.2 := by
  unfold mgmtByCode at h
  split at h <;> cases h
  · exact .of mgmtIdent_changes
  · exact .of mgmtStatus_changes
  · exact .of mgmtTelemetry_changes
  · exact .of mgmtReadLog_changes
  · exact .of mgmtSetTod_changes
  · exact .of mgmtSetCap_changes
  · exact .of mgmtGovCtl_changes
  · exact .of mgmtGovTarget_changes
  · exact .of mgmtFwStage_changes
  · exact .of mgmtFwConfirm_changes
  · exact .of mgmtFwStatus_changes

theorem runWaiting_changes {s : State} : Changes mgmtParts s (runWaiting s) := by
  unfold runWaiting
  split
  · exact .refl
  · dsimp only
    split
    · rename_i h
      refine (Changes.of setSm_changes).trans (runMgmt_changes ?_)
      exact mgmtByCode_changes h
    · refine (Changes.of (setSm_changes (x := { s.sm with smbusPend := none }))).trans (respond_changes ?_)
      exact .refl

theorem smbusWrite_changes {s : State} {code len : Nat} {body : Iface → List Byte → State → MgmtRes} {pec : Pec} {req : List
  Byte} (h : ∀ w req t, Changes mgmtParts t (body w req t).2.2) : Changes mgmtParts s (smbusWrite s code len body pec req) :=
  by
  have hs : ∀ x, Changes mgmtParts s (setSm s x) := fun x => .of setSm_changes
  refine .ite .refl (.ite (hs _) (.ite .refl (.ite .refl (.ite (hs _) (runMgmt_changes ?_)))))
  exact h

theorem mgmt_changes {s : State} {via : Via} {code len : Nat} {body : Iface → List Byte → State → MgmtRes} (h : ∀ w req t,
  Changes mgmtParts t (body w req t).2.2) : ResChanges mgmtParts s (mgmt s via code len body) := by
  unfold mgmt
  split
  · exact .whenDue (.done (smbusWrite_changes h))
  · refine .whenDue (.done ((runMgmt_changes ?_).trans runWaiting_changes))
    exact h

theorem execIdent_changes {via : Via} {s : State} : ResChanges mgmtParts s (execIdent via s) := by
  unfold execIdent
  refine mgmt_changes ?_
  intro _ _ _
  exact .of mgmtIdent_changes

theorem execStatus_changes {via : Via} {s : State} : ResChanges mgmtParts s (execStatus via s) := by
  unfold execStatus
  refine mgmt_changes ?_
  intro _ _ _
  exact .of mgmtStatus_changes

theorem execTelemetry_changes {via : Via} {s : State} : ResChanges mgmtParts s (execTelemetry via s) := by
  unfold execTelemetry
  refine mgmt_changes ?_
  intro _ _ _
  exact .of mgmtTelemetry_changes

theorem execReadLog_changes {via : Via} {s : State} : ResChanges mgmtParts s (execReadLog via s) := by
  unfold execReadLog
  refine mgmt_changes ?_
  intro _ _ _
  exact .of mgmtReadLog_changes

theorem execSetTod_changes {via : Via} {s : State} : ResChanges mgmtParts s (execSetTod via s) := by
  unfold execSetTod
  refine mgmt_changes ?_
  intro _ _ _
  exact .of mgmtSetTod_changes

theorem execSetCap_changes {via : Via} {s : State} : ResChanges mgmtParts s (execSetCap via s) := by
  unfold execSetCap
  refine mgmt_changes ?_
  intro _ _ _
  exact .of mgmtSetCap_changes

theorem execGovCtl_changes {via : Via} {s : State} : ResChanges mgmtParts s (execGovCtl via s) := by
  unfold execGovCtl
  refine mgmt_changes ?_
  intro _ _ _
  exact .of mgmtGovCtl_changes

theorem execGovTarget_changes {via : Via} {s : State} : ResChanges mgmtParts s (execGovTarget via s) := by
  unfold execGovTarget
  refine mgmt_changes ?_
  intro _ _ _
  exact .of mgmtGovTarget_changes

theorem execFwStage_changes {via : Via} {s : State} : ResChanges mgmtParts s (execFwStage via s) := by
  unfold execFwStage
  refine mgmt_changes ?_
  intro _ _ _
  exact .of mgmtFwStage_changes

theorem execFwVerify_changes {via : Via} {chk : ImgChk} {s : State} : ResChanges mgmtParts s (execFwVerify via chk s) := by
  unfold execFwVerify
  refine .whenDue ?_
  refine mgmt_changes ?_
  intro _ _ _
  exact .of mgmtFwVerify_changes

theorem execFwActivate_changes {via : Via} {allot : List Nat} {s : State} :
    ResChanges mgmtParts s (execFwActivate via allot s) := by
  unfold execFwActivate
  refine .whenDue ?_
  refine mgmt_changes ?_
  intro _ _ _
  exact .of mgmtFwActivate_changes

theorem execFwConfirm_changes {via : Via} {s : State} : ResChanges mgmtParts s (execFwConfirm via s) := by
  unfold execFwConfirm
  refine mgmt_changes ?_
  intro _ _ _
  exact .of mgmtFwConfirm_changes

theorem execFwStatus_changes {via : Via} {s : State} : ResChanges mgmtParts s (execFwStatus via s) := by
  unfold execFwStatus
  refine mgmt_changes ?_
  intro _ _ _
  exact .of mgmtFwStatus_changes

theorem smbusReturn_changes {s : State} {bs : List Byte} : Changes [.sm] s (smbusReturn s bs) := by
  unfold smbusReturn
  dsimp only
  exact .ite .refl (.of setSm_changes)

theorem execBootStatusRead_changes {s : State} : ResChanges [.sm] s (execBootStatusRead s) := by
  unfold execBootStatusRead
  exact .whenDue (.done (.of smbusReturn_changes))

theorem execResponseRead_changes {s : State} : ResChanges [.sm] s (execResponseRead s) := by
  unfold execResponseRead
  exact .whenDue (.done (.of smbusReturn_changes))

theorem mailboxGo_changes {s : State} : Changes [.sm, .regs, .host] s (mailboxGo s) := by
  refine .ite .refl (.ite (.of setSm_changes) (respond_changes ?_))
  exact .refl

theorem execSmMboxdb_changes {go : Bool} {s : State} : ResChanges [.sm, .regs, .host] s (execSmMboxdb go s) := by
  unfold execSmMboxdb
  exact .done (.ite (.of mailboxGo_changes) .refl)

theorem smRestart_changes {s : State} {why : Restart} : Changes [.sm] s (smRestart s why) := by
  unfold smRestart
  dsimp only
  exact .of setSm_changes

theorem watchdog_changes {s : State} {a b : ImgChk} :
    Changes [.log, .regs, .trace, .sm, .power, .fab, .host, .nv] s (watchdog s a b) := by
  unfold watchdog
  dsimp only
  refine .ite ?_ ?_
  · exact .ite (.comp (.comp (.of post_changes) bootRom_changes) setSm_changes) (.comp (.of post_changes) bootRom_changes)
  · exact .ite (.comp (.of post_changes) smRestart_changes) (.comp (.of post_changes) bootStart_changes)

theorem execWatchdogExpiry_changes {a b : ImgChk} {s : State} :
    ResChanges [.log, .regs, .trace, .sm, .power, .fab, .host, .nv] s (execWatchdogExpiry a b s) := by
  unfold execWatchdogExpiry
  exact .whenDue (.done (.of watchdog_changes))

theorem smReady_changes {s : State} {a b : ImgChk} :
    Changes [.sm, .power, .fab, .host, .nv, .log, .regs, .trace] s (smReady s a b) := by
  unfold smReady
  dsimp only
  exact .ite (.of bootRom_changes) (.comp (.comp (.comp (.comp (.of bootRom_changes) setSm_changes) setUpd_changes) sets_log)
    govRefresh_changes)

theorem execStationmasterReady_changes {a b : ImgChk} {s : State} :
    ResChanges [.sm, .power, .fab, .host, .nv, .log, .regs, .trace] s (execStationmasterReady a b s) := by
  unfold execStationmasterReady
  exact .whenDue (.done (.of smReady_changes))

theorem avsResult_changes {s : State} {q : Nat} {ok : Bool} : Changes [.sm, .regs, .log, .trace] s (avsResult s q ok) := by
  unfold avsResult
  dsimp only
  exact .ite (.comp (.of setSm_changes) setFld_changes) (.ite (.comp (.comp (.of setSm_changes) setFld_changes) post_changes)
    (.of setSm_changes))

theorem avsTry_changes {s : State} {q : Nat} {ok : Bool} : Changes [.sm, .regs, .log, .trace] s (avsTry s q ok) := by
  unfold avsTry
  exact .ite (.of avsResult_changes) (.comp (.of avsResult_changes) avsResult_changes)

theorem govSubmit_changes {s : State} {o : Nat} :
    Changes [.regs, .problems, .tags, .cores, .remotes, .reqs, .host, .xlate, .px, .priOut, .pend, .hbm, .poison, .slices,
      .log, .trace, .sm] s (govSubmit s o) := by
  unfold govSubmit
  dsimp only
  refine .ite (.of setFld_changes) ?_
  refine .ite ?_ ?_
  · exact .comp (.comp (.comp (.of setFld_changes) setFld_changes) sets_problems_nextProblem) laneEnds_changes
  · refine .ite (.comp (.comp (.of setFld_changes) setFld_changes) sets_problems_nextProblem) ?_
    exact .comp (.comp (.comp (.of setFld_changes) setFld_changes) sets_problems_nextProblem) laneEnds_changes

theorem execGovLsubmit_changes {offset : BitVec 16} {s : State} :
    ResChanges [.regs, .problems, .tags, .cores, .remotes, .reqs, .host, .xlate, .px, .priOut, .pend, .hbm, .poison, .slices,
      .log, .trace, .sm] s (execGovLsubmit offset s) := by
  unfold execGovLsubmit
  exact .whenDue (.done (.ite (.of govSubmit_changes) (.of post_changes)))

theorem rateTally_changes {s : State} : Changes [.sm, .log, .regs, .trace] s (rateTally s) := by
  unfold rateTally
  dsimp only
  exact .comp (.ite (.of post_changes) .refl) setSm_changes

theorem govWindow_changes {s : State} {g : GovWrite} {deadline : Nat} : Changes [.sm] s (govWindow s g deadline) := by
  unfold govWindow
  dsimp only
  exact .of sets_govWin

theorem govCycle_changes {s : State} {b : Nat} {g : GovWrite} {tally : List Nat} :
    Changes [.regs, .sm, .problems, .tags, .cores, .remotes, .reqs, .host, .xlate, .px, .priOut, .pend, .hbm, .poison,
      .slices, .log, .trace] s (govCycle s b g tally) := by
  unfold govCycle
  dsimp only
  refine .ite ?_ ?_
  · exact .comp (.comp (.comp (.comp (.of bump_changes) setSm_changes) setFld_changes) setFld_changes) govWindow_changes
  · exact .comp (.comp (.comp (.comp (.comp (.of bump_changes) setSm_changes) setFld_changes) setFld_changes)
      govWindow_changes) govSubmit_changes

theorem govBoundary_changes {s : State} {b : Nat} {g : GovWrite} {coreMw : List Nat} {avs : BitVec 4} {tally : List Nat} :
    Changes [.sm, .regs, .log, .trace, .problems, .tags, .cores, .remotes, .reqs, .host, .xlate, .px, .priOut, .pend, .hbm,
      .poison, .slices] s (govBoundary s b g coreMw avs tally) := by
  unfold govBoundary
  dsimp only
  refine .comp (.ite ?_ ?_) setSm_changes
  · refine .comp ?_ govRefresh_changes
    exact .foldl (.of setSm_changes) fun _ _ => .of avsTry_changes
  · refine .ite ?_ ?_
    · refine .comp (.comp ?_ govRefresh_changes) bump_changes
      exact .foldl (.of setSm_changes) fun _ _ => .of avsTry_changes
    · refine .ite ?_ ?_
      · refine .comp (.comp ?_ govRefresh_changes) setSm_changes
        exact .foldl (.of setSm_changes) fun _ _ => .of avsTry_changes
      · refine .comp (.comp (.comp ?_ govRefresh_changes) setSm_changes) govCycle_changes
        exact .foldl (.of setSm_changes) fun _ _ => .of avsTry_changes

theorem execGovernorCycleStart_changes {g : GovWrite} {coreMw : List Nat} {avs : BitVec 4} {s : State} :
    ResChanges [.sm, .log, .regs, .trace, .problems, .tags, .cores, .remotes, .reqs, .host, .xlate, .px, .priOut, .pend, .hbm,
      .poison, .slices] s (execGovernorCycleStart g coreMw avs s) := by
  unfold execGovernorCycleStart
  dsimp only
  exact .whenDue (.done (.ite (.comp (.comp (.of setSm_changes) rateTally_changes) govBoundary_changes) (.comp (.of
    setSm_changes) rateTally_changes)))

theorem passDown_changes {s : State} {q t mw : Nat} {ok : Bool} :
    Changes [.regs, .sm, .log, .trace] s (passDown s q t mw ok) := by
  unfold passDown
  dsimp only
  refine .ite ?_ .refl
  refine .ite ?_ (.comp (.comp (.of setClk_changes) setAllot_changes) avsTry_changes)
  exact .comp (.comp (.comp (.of setClk_changes) setAllot_changes) avsTry_changes) setVolt_changes

theorem passUp_changes {s : State} {q t mw : Nat} {ok : Bool} : Changes [.regs, .sm, .log, .trace] s (passUp s q t mw ok) :=
  by
  unfold passUp
  dsimp only
  refine .ite ?_ .refl
  exact .ite (.comp (.comp (.comp (.of setAllot_changes) avsTry_changes) setVolt_changes) setClk_changes) (.comp (.of
    setAllot_changes) avsTry_changes)

theorem govApply_changes {s : State} {f : List Num} {allot : List Nat} {avs : BitVec 4} :
    Changes [.regs, .sm, .log, .trace] s (govApply s f allot avs) := by
  unfold govApply
  dsimp only
  refine .comp ?_ setFld_changes
  exact .foldl (.foldl (.foldl (.refl) fun _ _ => .of passDown_changes) fun _ _ => .of passUp_changes) fun _ _ => .of
    setAllot_changes

theorem govUnusable_changes {s : State} : Changes [.regs] s (govUnusable s) := by
  unfold govUnusable
  exact .of setFld_changes

theorem govKeep_changes {s : State} : Changes [.sm] s (govKeep s) := by
  unfold govKeep
  dsimp only
  exact .ite .refl (.of setSm_changes)

theorem govEnds_changes {s : State} {late : Bool} {allot : List Nat} {avs : BitVec 4} :
    Changes [.regs, .sm, .log, .trace] s (govEnds s late allot avs) := by
  unfold govEnds
  dsimp only
  refine .comp (.ite ?_ ?_) govRefresh_changes
  · exact .comp (.ite (.comp (.comp (.of setSm_changes) setFld_changes) govKeep_changes) (.of setSm_changes)) govApply_changes
  · exact .comp (.ite (.comp (.comp (.of setSm_changes) setFld_changes) govKeep_changes) (.of setSm_changes))
      govUnusable_changes

theorem execGovernorProblemEnd_changes {allot : List Nat} {avs : BitVec 4} {s : State} :
    ResChanges [.regs, .sm, .log, .trace] s (execGovernorProblemEnd allot avs s) := by
  unfold execGovernorProblemEnd
  dsimp only
  exact .whenDue (.done (.of govEnds_changes))

theorem fallbackStep_changes {s : State} {down : Bool} {q mw : Nat} {ok : Bool} :
    Changes [.regs, .sm, .log, .trace] s (fallbackStep s down q mw ok) := by
  unfold fallbackStep
  dsimp only
  exact .ite .refl (.ite (.of passDown_changes) (.of passUp_changes))

theorem fallback_changes {s : State} {allot : List Nat} {avs : BitVec 4} :
    Changes [.regs, .sm, .log, .trace] s (fallback s allot avs) := by
  unfold fallback
  dsimp only
  exact .ite (.foldl (.refl) fun _ _ => .of fallbackStep_changes) (.ite (.foldl (.refl) fun _ _ => .of fallbackStep_changes)
    .refl)

theorem execFallbackTick_changes {allot : List Nat} {avs : BitVec 4} {s : State} :
    ResChanges [.regs, .sm, .log, .trace] s (execFallbackTick allot avs s) := by
  unfold execFallbackTick
  exact .whenDue (.done (.of fallback_changes))

theorem throttleQ_changes {s : State} {q mw : Nat} : Changes [.sm, .regs, .log, .trace] s (throttleQ s q mw) := by
  unfold throttleQ
  dsimp only
  exact .ite (.comp (.comp (.comp (.of setSm_changes) setClk_changes) setAllot_changes) post_changes) (.ite (.of
    setSm_changes) .refl)

theorem hbmLimit_changes {s : State} : Changes [.sm, .log, .regs, .trace] s (hbmLimit s) := by
  unfold hbmLimit
  dsimp only
  exact .ite (.comp (.of setSm_changes) post_changes) (.of setSm_changes)

theorem execThermalSample_changes {temps : List ℤ} {hbm die : ℤ} {allot : List Nat} {s : State} :
    ResChanges [.sm, .log, .regs, .trace] s (execThermalSample temps hbm die allot s) := by
  unfold execThermalSample
  dsimp only
  refine .whenDue ?_
  refine .done ?_
  refine .comp ?_ hbmLimit_changes
  exact .foldl (.of setSm_changes) fun _ _ => .of throttleQ_changes

theorem execRailTelemetryPoll_changes {railMw : Nat} {fault : Option (BitVec 16)} {s : State} :
    ResChanges [.sm, .log, .regs, .trace] s (execRailTelemetryPoll railMw fault s) := by
  unfold execRailTelemetryPoll
  dsimp only
  refine .whenDue ?_
  refine .done ?_
  split
  · exact .comp (.of setSm_changes) post_changes
  · exact .of setSm_changes

/-! ### Functions of Machine/Reset -/

theorem freeTag_changes {s : State} {t : Nat} : Changes [.problems, .tags, .cores, .remotes, .reqs, .host] s (freeTag s t) :=
  by
  unfold freeTag
  dsimp only
  refine .comp (.comp ?_ sets_problems_solveNet) setTag_changes
  split
  · refine .comp ?_ modCore_changes
    split
    · exact .of dropFromSlot_changes
    · exact .refl
  · split
    · exact .of dropFromSlot_changes
    · exact .refl

theorem freeTags_changes {x0 : List Nat} {s : State} :
    Changes [.problems, .tags, .cores, .remotes, .reqs, .host] s (freeTags x0 s) := by
  induction x0 generalizing s with
  | nil =>
    unfold freeTags
    exact .refl
  | cons e es ih =>
    unfold freeTags
    exact .comp (.of freeTag_changes) ih

theorem endSlot_changes {s : State} {n : Nat} {i : SlotId} :
    Changes [.problems, .tags, .cores, .remotes, .reqs, .host, .mus, .sm] s (endSlot s n i) := by
  unfold endSlot
  dsimp only
  refine .ite .refl ?_
  exact .comp (.comp (.comp (.comp (.comp (.of freeTags_changes) modCore_changes) modSlot_changes) sets_mus) tallyRun_changes)
    slotIdle_changes

theorem endSlots_changes {x0 : List (Nat × SlotId)} {s : State} :
    Changes [.problems, .tags, .cores, .remotes, .reqs, .host, .mus, .sm] s (endSlots x0 s) := by
  induction x0 generalizing s with
  | nil =>
    unfold endSlots
    exact .refl
  | cons e es ih =>
    unfold endSlots
    exact .comp (.of endSlot_changes) ih

theorem endTaken_changes {report : Bool} {s : State} {d : DCmd} :
    Changes [.xlate, .epochs, .host, .regs, .problems, .tags, .cores, .remotes, .reqs] s (endTaken report s d) := by
  unfold endTaken
  dsimp only
  refine .ite ?_ ?_
  · refine .comp (.comp ?_ sets_ctrl_epochs) completeCmd_changes
    split
    · exact .of freeTag_changes
    · exact .refl
  · refine .comp ?_ sets_ctrl_epochs_host
    split
    · exact .of freeTag_changes
    · exact .refl

theorem endContexts_changes {hit : Nat → Bool} {report : Bool} {s : State} :
    Changes [.hbm, .poison, .reqs, .slices, .regs, .log, .trace, .free, .xlate, .hints, .layers, .merge, .pend, .px,
      .problems, .tags, .cores, .remotes, .host, .mus, .sm, .epochs] s (endContexts hit report s) := by
  unfold endContexts
  dsimp only
  refine .comp (.comp ?_ dtcDrop_changes) sets_many1
  exact .foldl (.of endSlots_changes) fun _ _ => .of endTaken_changes

theorem setHost_changes {s : State} {h : HostSt} : Changes [.host] s (setHost s h) := by
  unfold setHost
  exact .of sets_host

theorem ctxReset_changes {s : State} {ctx : Nat} :
    Changes [.hbm, .poison, .reqs, .slices, .regs, .log, .trace, .free, .xlate, .hints, .layers, .merge, .pend, .px,
      .problems, .tags, .cores, .remotes, .host, .mus, .sm, .epochs] s (ctxReset s ctx) := by
  unfold ctxReset
  dsimp only
  exact .ite .refl (.comp (.of endContexts_changes) setHost_changes)

theorem execDspCtxreset_changes {ctx : Fin 64} {go : Bool} {s : State} :
    ResChanges [.hbm, .poison, .reqs, .slices, .regs, .log, .trace, .free, .xlate, .hints, .layers, .merge, .pend, .px,
      .problems, .tags, .cores, .remotes, .host, .mus, .sm, .epochs] s (execDspCtxreset ctx go s) := by
  unfold execDspCtxreset
  exact .done (.ite (.of ctxReset_changes) .refl)

theorem staleReads_changes {s : State} {ctx q : Nat} : Changes [.host] s (staleReads s ctx q) := by
  unfold staleReads
  dsimp only
  exact .of setHost_changes

theorem clearQueue_changes {s : State} {ctx q : Nat} : Changes [.regs, .host] s (clearQueue s ctx q) := by
  unfold clearQueue
  dsimp only
  exact .comp (.comp (.comp (.of setFld_changes) staleReads_changes) setQueue_changes) setHost_changes

theorem clearQueues_changes {s : State} {ctx : Nat} : Changes [.regs, .host] s (clearQueues s ctx) := by
  unfold clearQueues
  dsimp only
  refine .comp (.comp ?_ setFld_changes) setRing_changes
  exact .foldl (.refl) fun _ _ => .of clearQueue_changes

theorem fnReset_changes {s : State} {fn : Nat} :
    Changes [.priOut, .host, .hbm, .poison, .reqs, .slices, .regs, .log, .trace, .free, .xlate, .hints, .layers, .merge,
      .pend, .px, .problems, .tags, .cores, .remotes, .mus, .sm, .epochs] s (fnReset s fn) := by
  unfold fnReset
  dsimp only
  refine .comp (.comp ?_ sets_priOut) setHost_changes
  exact .foldl (.of endContexts_changes) fun _ _ => .of clearQueues_changes

theorem configReset_changes {s : State} {fn : Nat} : Changes [.time, .host] s (configReset s fn) := by
  unfold configReset
  dsimp only
  exact .comp (.of setTime_changes) setHost_changes

theorem execDspFnreset_changes {fn : Fin 64} {go : Bool} {s : State} :
    ResChanges [.priOut, .host, .hbm, .poison, .reqs, .slices, .regs, .log, .trace, .free, .xlate, .hints, .layers, .merge,
      .pend, .px, .problems, .tags, .cores, .remotes, .mus, .sm, .epochs] s (execDspFnreset fn go s) := by
  unfold execDspFnreset
  dsimp only
  exact .done (.ite (.comp (.of fnReset_changes) setHost_changes) .refl)

theorem execFlrVf_changes {fn : Fin 64} {s : State} :
    ResChanges [.priOut, .host, .hbm, .poison, .reqs, .slices, .regs, .log, .trace, .free, .xlate, .hints, .layers, .merge,
      .pend, .px, .problems, .tags, .cores, .remotes, .mus, .sm, .epochs, .time] s (execFlrVf fn s) := by
  unfold execFlrVf
  exact .whenDue (.done (.comp (.of fnReset_changes) configReset_changes))

theorem clearRegs_changes {s : State} {hit : Nat → Bool} : Changes [.regs] s (clearRegs s hit) := by
  unfold clearRegs
  exact .of sets_regs

theorem sweepSlice_changes {s : State} {i : Nat} : Changes [.slices, .hbm, .poison] s (sweepSlice s i) := by
  unfold sweepSlice
  dsimp only
  refine .comp ?_ setSlice_changes
  refine .foldl ?_ fun _ _ => ?_
  · exact .foldl (.refl) fun _ _ => .of sweepLines_changes
  · split
    · exact .of hbmPut_changes
    · exact .refl

theorem answerAll_changes {s : State} : Changes [.inbound, .tags, .inject] s (answerAll s) := by
  unfold answerAll
  exact .foldl (.refl) fun _ _ => .ite (.of refuseInbound_changes) (.of endInbound_changes)

theorem planeClear_changes {s : State} :
    Changes [.cores, .tags, .reqs, .hints, .layers, .mus, .merge, .problems, .wayCmd, .own, .xlate, .pend, .px, .epochs,
      .priOut, .remotes, .inject, .inbound, .sm, .host, .time, .regs, .hbm, .poison, .slices, .log, .trace, .free] s
      (planeClear s) := by
  unfold planeClear
  dsimp only
  refine .comp ?_ sets_many2
  refine .foldl ?_ fun _ _ => ?_
  · refine .comp (.comp (.ite ?_ ?_) setTime_changes) clearRegs_changes
    · refine .comp (.comp ?_ dtcDrop_changes) setFld_changes
      exact .foldl (.of answerAll_changes) fun _ _ => .of sweepSlice_changes
    · refine .comp ?_ dtcDrop_changes
      exact .foldl (.of answerAll_changes) fun _ _ => .of sweepSlice_changes
  · exact .of setReg_changes

theorem dataPlaneReset_changes {s : State} :
    Changes [.cores, .tags, .reqs, .hints, .layers, .mus, .merge, .problems, .wayCmd, .own, .xlate, .pend, .px, .epochs,
      .priOut, .remotes, .inject, .inbound, .sm, .host, .time, .regs, .hbm, .poison, .slices, .log, .trace, .free, .power] s
      (dataPlaneReset s) := by
  unfold dataPlaneReset
  dsimp only
  exact .ite .refl (.comp (.of planeClear_changes) sets_power)

theorem flrPf_changes {s : State} :
    Changes [.host, .cores, .tags, .reqs, .hints, .layers, .mus, .merge, .problems, .wayCmd, .own, .xlate, .pend, .px,
      .epochs, .priOut, .remotes, .inject, .inbound, .sm, .time, .regs, .hbm, .poison, .slices, .log, .trace, .free, .power] s
      (flrPf s) := by
  unfold flrPf
  dsimp only
  refine .comp (.comp ?_ setHost_changes) dataPlaneReset_changes
  exact .foldl (.refl) fun _ _ => .comp (.of fnReset_changes) configReset_changes

theorem execFlrPf_changes {s : State} :
    ResChanges [.host, .cores, .tags, .reqs, .hints, .layers, .mus, .merge, .problems, .wayCmd, .own, .xlate, .pend, .px,
      .epochs, .priOut, .remotes, .inject, .inbound, .sm, .time, .regs, .hbm, .poison, .slices, .log, .trace, .free, .power] s
      (execFlrPf s) := by
  unfold execFlrPf
  exact .done (.ite (.of flrPf_changes) .refl)

theorem portOff_changes {s : State} {p : Nat} : Changes portParts s (portOff s p) := by
  unfold portOff
  exact .ite (.of linkFails_changes) (.of modPort_changes)

theorem portsOff_changes {s : State} : Changes portParts s (portsOff s) := by
  unfold portsOff
  exact .foldl (.refl) fun _ _ => .of portOff_changes

theorem warmReset_changes {s : State} :
    Changes [.power, .regs, .inject, .time, .log, .trace, .fab, .cores, .tags, .reqs, .hints, .layers, .mus, .merge,
      .problems, .wayCmd, .own, .xlate, .pend, .px, .epochs, .priOut, .remotes, .inbound, .sm, .host, .hbm, .poison, .slices,
      .free] s (warmReset s) := by
  unfold warmReset
  dsimp only
  exact .comp (.comp (.comp (.of sets_power) portsOff_changes) dataPlaneReset_changes) setHost_changes

theorem perstFall_changes {s : State} :
    Changes [.power, .regs, .inject, .time, .log, .trace, .fab, .cores, .tags, .reqs, .hints, .layers, .mus, .merge,
      .problems, .wayCmd, .own, .xlate, .pend, .px, .epochs, .priOut, .remotes, .inbound, .sm, .host, .hbm, .poison, .slices,
      .free] s (perstFall s) := by
  unfold perstFall
  dsimp only
  exact .ite (.comp (.of sets_power) warmReset_changes) (.comp (.of sets_power) setHost_changes)

theorem execPerstNFall_changes {s : State} :
    ResChanges [.power, .regs, .inject, .time, .log, .trace, .fab, .cores, .tags, .reqs, .hints, .layers, .mus, .merge,
      .problems, .wayCmd, .own, .xlate, .pend, .px, .epochs, .priOut, .remotes, .inbound, .sm, .host, .hbm, .poison, .slices,
      .free] s (execPerstNFall s) := by
  unfold execPerstNFall
  exact .whenDue (.done (.of perstFall_changes))

theorem trainPcie_changes {s : State} : Changes [.host] s (trainPcie s) := by
  unfold trainPcie
  dsimp only
  exact .of setHost_changes

theorem portTrain_changes {s : State} {p : Nat} : Changes [.fab] s (portTrain s p) := by
  unfold portTrain
  exact .ite (.of modPort_changes) .refl

theorem portsTrain_changes {s : State} : Changes [.fab] s (portsTrain s) := by
  unfold portsTrain
  exact .ite (.foldl (.refl) fun _ _ => .of portTrain_changes) .refl

theorem perstRelease_changes {s : State} : Changes [.power, .host, .fab] s (perstRelease s) := by
  unfold perstRelease
  dsimp only
  exact .ite (.comp (.comp (.of sets_power) trainPcie_changes) portsTrain_changes) (.comp (.of sets_power) trainPcie_changes)

theorem execPerstNRelease_changes {s : State} : ResChanges [.power, .host, .fab] s (execPerstNRelease s) := by
  unfold execPerstNRelease
  exact .whenDue (.done (.of perstRelease_changes))

theorem notResetting_changes {s : State} {fn : Nat} : Changes [.host] s (notResetting s fn) := by
  unfold notResetting
  dsimp only
  exact .of setHost_changes

theorem execResetComplete_changes {what : ResetKind} {s : State} :
    ResChanges [.host, .power, .log] s (execResetComplete what s) := by
  unfold execResetComplete
  dsimp only
  split
  · exact .whenDue (.done (.of setHost_changes))
  · exact .whenDue (.done (.ite (.comp (.of notResetting_changes) setHost_changes) (.of notResetting_changes)))
  · exact .whenDue (.done (.comp (.of notResetting_changes) sets_power_log))
  · exact .whenDue (.done (.comp (.of notResetting_changes) sets_power))

theorem fatalHalt_changes {s : State} : Changes [.host, .regs] s (fatalHalt s) := by
  unfold fatalHalt
  exact .foldl (.refl) fun _ _ => .of completeCmd_changes

theorem internalFatal_changes {s : State} {kind idx arg : Nat} :
    Changes [.log, .regs, .trace, .host] s (internalFatal s kind idx arg) := by
  unfold internalFatal
  exact .comp (.of post_changes) fatalHalt_changes

/-! ### Functions of Machine/Repair -/

theorem divergeSlot_changes {s : State} {n : Nat} {i : SlotId} :
    Changes [.cores, .log, .regs, .trace, .sm, .host, .mus] s (divergeSlot s n i) := by
  unfold divergeSlot
  dsimp only
  exact .ite (.of setSlot_changes) (.ite (.of setSlot_changes) (.comp (.comp (.of setSlot_changes) post_changes)
    finishSlot_changes))

theorem divergeCore_changes {s : State} {n : Nat} :
    Changes [.cores, .log, .regs, .trace, .sm, .host, .mus] s (divergeCore s n) := by
  unfold divergeCore
  dsimp only
  exact .comp (.comp (.of modCore_changes) divergeSlot_changes) divergeSlot_changes

theorem fenceSeq_changes {s : State} {p : Nat} : Changes [.regs, .log, .trace, .cores, .sm, .host, .mus] s (fenceSeq s p) :=
  by
  unfold fenceSeq
  dsimp only
  exact .foldl (.comp (.of setFld_changes) post_changes) fun _ _ => .of divergeCore_changes

theorem abortSlot_changes {s : State} {n : Nat} {i : SlotId} :
    Changes [.problems, .tags, .cores, .remotes, .reqs, .host, .mus, .sm, .regs] s (abortSlot s n i) := by
  unfold abortSlot
  dsimp only
  exact .ite .refl (.comp (.of endSlot_changes) completeId_changes)

theorem unmap_changes {s : State} {n : Nat} :
    Changes [.problems, .tags, .cores, .remotes, .reqs, .host, .mus, .sm, .regs] s (unmap s n) := by
  unfold unmap
  dsimp only
  exact .comp (.comp (.of abortSlot_changes) abortSlot_changes) setFld_changes

theorem fenceFull_changes {s : State} {p : Nat} :
    Changes [.cores, .regs, .log, .trace, .problems, .tags, .remotes, .reqs, .host, .mus, .sm] s (fenceFull s p) := by
  unfold fenceFull
  dsimp only
  refine .comp ?_ modCore_changes
  exact .foldl (.comp (.of setFld_changes) post_changes) fun _ _ => .of unmap_changes

theorem diverge_changes {s : State} {p n kind : Nat} :
    Changes [.regs, .log, .trace, .cores, .sm, .host, .mus] s (diverge s p n kind) := by
  unfold diverge
  dsimp only
  exact .comp (.comp (.of bump_changes) post_changes) fenceSeq_changes

theorem execDivergence_changes {core logical : Fin 160} {kind : Fin 5} {s : State} :
    ResChanges [.regs, .log, .trace, .cores, .sm, .host, .mus] s (execDivergence core logical kind s) := by
  unfold execDivergence
  exact .whenDue (.done (.of diverge_changes))

theorem checkerFault_changes {s : State} {p : Nat} :
    Changes [.regs, .log, .trace, .cores, .sm, .host, .mus] s (checkerFault s p) := by
  unfold checkerFault
  dsimp only
  exact .ite (.comp (.comp (.of bump_changes) post_changes) setFld_changes) (.comp (.comp (.of bump_changes) post_changes)
    fenceSeq_changes)

theorem nextPoint_changes {s : State} {p : Nat} : Changes [.cores] s (nextPoint s p) := by
  unfold nextPoint
  exact .of modCore_changes

theorem selfTested_changes {s : State} {p : Nat} {r : SelfTest} :
    Changes [.cores, .regs, .log, .trace, .sm, .host, .mus] s (selfTested s p r) := by
  unfold selfTested
  split
  · exact .comp (.of nextPoint_changes) bump_changes
  · exact .comp (.of nextPoint_changes) checkerFault_changes
  · exact .of checkerFault_changes

theorem execSelfTest_changes {core : Fin 160} {result : SelfTest} {s : State} :
    ResChanges [.cores, .regs, .log, .trace, .sm, .host, .mus] s (execSelfTest core result s) := by
  unfold execSelfTest
  exact .whenDue (.done (.of selfTested_changes))

theorem remap_changes {s : State} {n p : Nat} : Changes [.regs, .log, .trace] s (remap s n p) := by
  unfold remap
  split
  · exact .comp (.of setFld_changes) post_changes
  · exact .of setFld_changes

theorem execRemap_changes {logical : Fin 160} {s : State} : ResChanges [.regs, .log, .trace] s (execRemap logical s) := by
  unfold execRemap
  split
  · exact .whenDue (.done (.of remap_changes))
  · exact .done .refl

theorem observeHeld_changes {s : State} {n : Nat} {i : SlotId} : Changes [.cores, .tags] s (observeHeld s n i) := by
  unfold observeHeld
  dsimp only
  exact .foldl (.of modCore_changes) fun _ _ => .of setTag_changes

theorem replayStart_changes {s : State} {n : Nat} {i : SlotId} : Changes [.cores, .tags] s (replayStart s n i) := by
  unfold replayStart
  dsimp only
  exact .comp (.comp (.of observeHeld_changes) modCore_changes) modSlot_changes

theorem execReplayStart_changes {a : At} {s : State} : ResChanges [.cores, .tags] s (execReplayStart a s) := by
  unfold execReplayStart
  dsimp only
  exact .whenDue (.done (.of replayStart_changes))

theorem fenceWay_changes {s : State} {i w : Nat} : Changes [.regs, .slices, .log, .trace] s (fenceWay s i w) := by
  unfold fenceWay
  dsimp only
  exact .ite .refl (.comp (.comp (.of setFld_changes) modSlice_changes) post_changes)

theorem fenceMatrix_changes {s : State} {n : Nat} : Changes [.regs, .log, .trace] s (fenceMatrix s n) := by
  unfold fenceMatrix
  exact .ite .refl (.comp (.of setFld_changes) post_changes)

theorem fenceCluster_changes {s : State} {k : Nat} : Changes [.regs, .problems, .log, .trace] s (fenceCluster s k) := by
  unfold fenceCluster
  exact .ite .refl (.comp (.of failCluster_changes) post_changes)

theorem fenceChannel_changes {s : State} {k : Nat} : Changes [.regs, .log, .trace] s (fenceChannel s k) := by
  unfold fenceChannel
  exact .ite .refl (.comp (.of setFld_changes) post_changes)

theorem fenceUnit_changes {s : State} {x1 : FenceUnit} :
    Changes [.regs, .log, .trace, .cores, .sm, .host, .mus, .problems, .tags, .remotes, .reqs, .slices, .fab, .inject, .time]
      s (fenceUnit s x1) := by
  unfold fenceUnit
  split
  · exact .ite .refl (.of fenceSeq_changes)
  · exact .ite .refl (.of fenceFull_changes)
  · exact .of fenceMatrix_changes
  · exact .of fenceCluster_changes
  · exact .foldl (.refl) fun _ _ => .ite (.of fenceWay_changes) .refl
  · exact .of fenceChannel_changes
  · exact .ite .refl (.of fencePort_changes)

theorem releasePort_changes {s : State} {p : Nat} : Changes [.fab, .regs, .log, .trace, .test] s (releasePort s p) := by
  unfold releasePort
  dsimp only
  refine .comp (.ite (.comp (.comp (.comp (.of setFld_changes) post_changes) modPort_changes) sets_test) ?_) portTrain_changes
  exact .comp (.comp (.of setFld_changes) post_changes) modPort_changes

theorem execPortFenceRelease_changes {port : Fin 32} {s : State} :
    ResChanges [.fab, .regs, .log, .trace, .test] s (execPortFenceRelease port s) := by
  unfold execPortFenceRelease
  dsimp only
  exact .whenDue (.done (.of releasePort_changes))

theorem sbWrite_changes {s : State} {r : RegName} {i v : Nat} :
    Changes [.regs, .log, .trace, .cores, .sm, .host, .mus, .problems, .tags, .remotes, .reqs, .fab, .inject, .time, .test,
      .slices] s (sbWrite s r i v) := by
  unfold sbWrite
  dsimp only
  split
  · exact .ite .refl (.ite (.of fenceSeq_changes) (.of fenceFull_changes))
  · exact .ite (.of post_changes) (.ite (.of setReg_changes) (.comp (.of setReg_changes) post_changes))
  · exact .foldl (.refl) fun _ _ => .of fenceMatrix_changes
  · exact .foldl (.refl) fun _ _ => .of fenceCluster_changes
  · exact .foldl (.refl) fun _ _ => .of fenceChannel_changes
  · exact .foldl (.foldl (.refl) fun _ _ => .of fencePort_changes) fun _ _ => .of releasePort_changes
  · exact .foldl (.refl) fun _ _ => .of fenceWay_changes
  · exact .of setReg_changes
  · exact .refl

theorem execSbRegisterWrite_changes {host : Bool} {offset : BitVec 12} {value : W32} {s : State} :
    ResChanges [.log, .regs, .trace, .cores, .sm, .host, .mus, .problems, .tags, .remotes, .reqs, .fab, .inject, .time, .test,
      .slices] s (execSbRegisterWrite host offset value s) := by
  unfold execSbRegisterWrite
  refine .ite (.done (.ite (.of post_changes) .refl)) ?_
  refine .whenDue ?_
  refine .done ?_
  split
  · exact .of sbWrite_changes
  · exact .refl

theorem fenceFor_changes {s : State} {kind idx : Nat} :
    Changes [.cores, .regs, .log, .trace, .problems, .tags, .remotes, .reqs, .host, .mus, .sm] s (fenceFor s kind idx) := by
  unfold fenceFor
  split
  · exact .ite .refl (.of fenceFull_changes)
  · exact .of fenceMatrix_changes
  · exact .of fenceChannel_changes
  · exact .refl

theorem ueCounted_changes {s : State} {kind idx : Nat} :
    Changes [.linkRetry, .cores, .regs, .log, .trace, .problems, .tags, .remotes, .reqs, .host, .mus, .sm] s (ueCounted s kind
      idx) := by
  unfold ueCounted
  dsimp only
  exact .ite (.comp (.of sets_ueTimes) fenceFor_changes) (.of sets_ueTimes)

theorem arrayUe_changes {s : State} {kind idx addr : Nat} :
    Changes [.log, .regs, .trace, .linkRetry, .cores, .problems, .tags, .remotes, .reqs, .host, .mus, .sm] s (arrayUe s kind
      idx addr) := by
  unfold arrayUe
  exact .comp (.of post_changes) ueCounted_changes

theorem linkRetried_changes {s : State} {l : CrcLink} {again : Bool} :
    Changes [.linkRetry, .log, .regs, .trace, .host] s (linkRetried s l again) := by
  unfold linkRetried
  dsimp only
  exact .ite (.comp (.comp (.of sets_linkRetry) post_changes) internalFatal_changes) (.comp (.of sets_linkRetry) post_changes)

theorem correctedAt_changes {s : State} {again : Bool} {x2 : CorrectedAt} :
    Changes [.regs, .slices, .log, .trace, .linkRetry, .host] s (correctedAt s again x2) := by
  unfold correctedAt
  split
  · exact .of correctedError_changes
  · exact .of post_changes
  · exact .of post_changes
  · exact .of post_changes
  · exact .of post_changes
  · exact .of post_changes
  · exact .of post_changes
  · exact .of post_changes
  · exact .of linkRetried_changes

theorem execCorrectedError_changes {place : CorrectedAt} {again : Bool} {s : State} :
    ResChanges [.regs, .slices, .log, .trace, .linkRetry, .host] s (execCorrectedError place again s) := by
  unfold execCorrectedError
  exact .whenDue (.done (.of correctedAt_changes))

theorem windowUpset_changes {s : State} {k ctx step : Nat} : Changes [.merge] s (windowUpset s k ctx step) := by
  unfold windowUpset
  dsimp only
  exact .of sets_rmus

theorem layerUpset_changes {s : State} {ctx layer n : Nat} {f : Layer → Layer} :
    Changes [.layers, .log, .regs, .trace, .linkRetry, .cores, .problems, .tags, .remotes, .reqs, .host, .mus, .sm] s
      (layerUpset s ctx layer n f) := by
  unfold layerUpset
  split
  · exact .comp (.of modLayer_changes) arrayUe_changes
  · exact .refl

theorem replayLost_changes {s : State} {n : Nat} {i : SlotId} {both : Bool} : Changes [.cores] s (replayLost s n i both) := by
  unfold replayLost
  dsimp only
  exact .ite (.of modSlot_changes) .refl

theorem uncorrectableAt_changes {s : State} {both : Bool} {a b : ImgChk} {x4 : UncorrectableAt} :
    Changes [.slices, .hbm, .poison, .cores, .log, .regs, .trace, .linkRetry, .problems, .tags, .remotes, .reqs, .host, .mus,
      .sm, .merge, .layers, .power, .fab, .nv] s (uncorrectableAt s both a b x4) := by
  unfold uncorrectableAt
  split
  · exact .of dataError_changes
  · exact .comp (.of modCore_changes) arrayUe_changes
  · exact .comp (.of modCore_changes) arrayUe_changes
  · exact .of post_changes
  · exact .comp (.of arrayUe_changes) fenceFor_changes
  · exact .of internalFatal_changes
  · exact .comp (.of windowUpset_changes) post_changes
  · exact .of layerUpset_changes
  · exact .of layerUpset_changes
  · exact .of layerUpset_changes
  · exact .comp (.of sets_hbmPoison) arrayUe_changes
  · exact .of watchdog_changes
  · exact .of replayLost_changes

theorem execUncorrectableDataError_changes {place : UncorrectableAt} {both : Bool} {a b : ImgChk} {s : State} :
    ResChanges [.slices, .hbm, .poison, .cores, .log, .regs, .trace, .linkRetry, .problems, .tags, .remotes, .reqs, .host,
      .mus, .sm, .merge, .layers, .power, .fab, .nv] s (execUncorrectableDataError place both a b s) := by
  unfold execUncorrectableDataError
  exact .whenDue (.done (.of uncorrectableAt_changes))

theorem scrubbed_changes {s : State} {l u : Nat} {r : Scrubbed} :
    Changes [.log, .regs, .trace, .poison] s (scrubbed s l u r) := by
  unfold scrubbed
  dsimp only
  split
  · exact .refl
  · exact .of post_changes
  · exact .comp (.of sets_hbmPoison) post_changes

theorem execScrub_changes {l : Nat} {unit : Fin 4} {result : Scrubbed} {s : State} :
    ResChanges [.log, .regs, .trace, .poison] s (execScrub l unit result s) := by
  unfold execScrub
  exact .whenDue (.done (.of scrubbed_changes))

theorem conserveBreak_changes {s : State} {sev kind idx quantity : Nat} :
    Changes [.log, .regs, .trace] s (conserveBreak s sev kind idx quantity) := by
  unfold conserveBreak
  exact .of postRec_changes

theorem auditPool_changes {s : State} : Changes [.log, .regs, .trace, .host] s (auditPool s) := by
  unfold auditPool
  exact .comp (.of conserveBreak_changes) internalFatal_changes

theorem imbalance_changes {s : State} {x1 : Quantity} :
    Changes [.log, .regs, .trace, .inject, .time, .fab, .host, .cores, .problems, .tags, .remotes, .reqs, .mus, .sm] s
      (imbalance s x1) := by
  unfold imbalance
  dsimp only
  split
  · exact .comp (.of conserveBreak_changes) linkDown_changes
  · exact .of auditPool_changes
  · exact .of auditPool_changes
  · exact .of auditPool_changes
  · exact .of auditPool_changes
  · exact .comp (.of conserveBreak_changes) fenceFull_changes
  · exact .comp (.of conserveBreak_changes) fenceFull_changes
  · exact .comp (.comp (.of conserveBreak_changes) setFld_changes) govRefresh_changes

theorem execConservationAudit_changes {what : Quantity} {upset : Bool} {s : State} :
    ResChanges [.log, .regs, .trace, .inject, .time, .fab, .host, .cores, .problems, .tags, .remotes, .reqs, .mus, .sm] s
      (execConservationAudit what upset s) := by
  unfold execConservationAudit
  dsimp only
  exact .whenDue (.done (.ite (.of imbalance_changes) .refl))

theorem ringWrite_changes {s : State} {r : LogRec} : Changes [.host, .log, .regs] s (ringWrite s r) := by
  unfold ringWrite
  dsimp only
  refine .ite ?_ (.comp (.comp (.of emitEntry_changes) sets_log) setFld_changes)
  exact .comp (.comp (.comp (.of emitEntry_changes) sets_log) setFld_changes) sendVector_changes

theorem execHostLogRingWrite_changes {s : State} : ResChanges [.host, .log, .regs] s (execHostLogRingWrite s) := by
  unfold execHostLogRingWrite
  split
  · exact .done .refl
  · exact .whenDue (.done (.of ringWrite_changes))

/-! ### Functions of Machine/Power -/

theorem setPower_changes {s : State} {p : PowerSt} : Changes [.power] s (setPower s p) := by
  unfold setPower
  exact .of sets_power

theorem coldReset_changes {s : State} :
    Changes [.regs, .cores, .tags, .seq, .reqs, .hints, .layers, .mus, .merge, .problems, .sm, .slices, .wayCmd, .hbm,
      .poison, .own, .xlate, .pend, .px, .epochs, .priOut, .remotes, .inject, .inbound, .fab, .time, .power, .test, .host,
      .log, .trace, .linkRetry, .now] s (coldReset s) := by
  rintro ⟨⟩ hp <;> simp_all [Part.Kept, coldReset]
  exact fun _ => rfl

theorem execPorNFall_changes {s : State} :
    ResChanges [.regs, .cores, .tags, .seq, .reqs, .hints, .layers, .mus, .merge, .problems, .sm, .slices, .wayCmd, .hbm,
      .poison, .own, .xlate, .pend, .px, .epochs, .priOut, .remotes, .inject, .inbound, .fab, .time, .power, .test, .host,
      .log, .trace, .linkRetry, .now] s (execPorNFall s) := by
  unfold execPorNFall
  exact .whenDue (.done (.of coldReset_changes))

theorem repairOne_changes {s : State} {e : Nat × W64} : Changes [.regs, .slices] s (repairOne s e) := by
  unfold repairOne
  dsimp only
  split
  · exact .ite .refl (.ite (.comp (.of setReg_changes) modSlice_changes) (.of setReg_changes))
  · exact .refl

theorem porRelease_changes {s : State} {straps : BitVec 6} : Changes [.power, .regs, .slices] s (porRelease s straps) := by
  unfold porRelease
  dsimp only
  refine .ite ?_ (.comp (.comp (.of setPower_changes) setReg_changes) setFld_changes)
  exact .foldl (.comp (.comp (.of setPower_changes) setReg_changes) setFld_changes) fun _ _ => .of repairOne_changes

theorem execPorNRelease_changes {straps : BitVec 6} {s : State} :
    ResChanges [.power, .regs, .slices] s (execPorNRelease straps s) := by
  unfold execPorNRelease
  exact .whenDue (.done (.of porRelease_changes))

theorem stepGood_changes {s : State} {k : Nat} : Changes [.power, .regs] s (stepGood s k) := by
  unfold stepGood
  dsimp only
  exact .comp (.ite (.of setVolt_changes) .refl) setPower_changes

theorem execPowerUpStep_changes {s : State} : ResChanges [.power, .regs] s (execPowerUpStep s) := by
  unfold execPowerUpStep
  split
  · exact .whenDue (.done (.of stepGood_changes))
  · exact .done .refl

theorem execPowerGoodTimeout_changes {s : State} :
    ResChanges [.log, .regs, .trace, .sm, .power, .fab, .host] s (execPowerGoodTimeout s) := by
  unfold execPowerGoodTimeout
  split
  · exact .whenDue (.done (.comp (.of post_changes) bootStop_changes))
  · exact .done .refl

theorem powerDown_changes {s : State} : Changes [.fab, .power, .host, .regs, .log] s (powerDown s) := by
  unfold powerDown
  dsimp only
  exact .comp (.comp (.ite (.comp (.of fatalHalt_changes) sets_log) (.of fatalHalt_changes)) railsOff_changes)
    setPower_changes

theorem execPwrdnN_changes {s : State} : ResChanges [.fab, .power, .host, .regs, .log] s (execPwrdnN s) := by
  unfold execPwrdnN
  exact .whenDue (.done (.of powerDown_changes))

theorem portStops_changes {s : State} {p : Nat} : Changes portParts s (portStops s p) := by
  unfold portStops
  exact .ite (.of linkDown_changes) (.ite .refl (.of modPort_changes))

theorem loseRef_changes {s : State} {r : RefPin} :
    Changes [.power, .host, .log, .regs, .trace, .inject, .time, .fab, .sm] s (loseRef s r) := by
  unfold loseRef
  dsimp only
  split
  · exact .comp (.of setPower_changes) setHost_changes
  · refine .ite ?_ (.foldl (.of setPower_changes) fun _ _ => .of portStops_changes)
    refine .comp ?_ internalFatal_changes
    exact .foldl (.of setPower_changes) fun _ _ => .of portStops_changes
  · refine .ite (.comp (.comp (.of setPower_changes) post_changes) smRestart_changes) ?_
    exact .ite (.comp (.comp (.of setPower_changes) post_changes) bootStart_changes) (.of setPower_changes)

theorem execReferenceLoss_changes {ref : RefPin} {s : State} :
    ResChanges [.power, .host, .log, .regs, .trace, .inject, .time, .fab, .sm] s (execReferenceLoss ref s) := by
  unfold execReferenceLoss
  exact .whenDue (.done (.of loseRef_changes))

theorem returnRef_changes {s : State} {r : RefPin} : Changes [.power, .host] s (returnRef s r) := by
  unfold returnRef
  dsimp only
  split
  · exact .comp (.of setPower_changes) trainPcie_changes
  · exact .ite .refl (.of setPower_changes)
  · exact .of setPower_changes

theorem execReferenceReturn_changes {ref : RefPin} {s : State} : ResChanges [.power, .host] s (execReferenceReturn ref s) :=
  by
  unfold execReferenceReturn
  exact .whenDue (.done (.of returnRef_changes))

theorem topoCommit_changes {s : State} {b : List Byte} : Changes [.fab, .regs] s (topoCommit s b) := by
  unfold topoCommit
  dsimp only
  refine .comp (.comp (.comp ?_ sets_fab) setTtBit_changes) portsTrain_changes
  refine .foldl ?_ fun _ _ => ?_
  · refine .comp ?_ setFld_changes
    exact .foldl (.comp (.comp (.comp (.of setReg_changes) setReg_changes) setReg_changes) setReg_changes) fun _ _ => .of
      setReg_changes
  · exact .of setReg_changes

theorem topoBad_changes {s : State} : Changes [.regs, .log, .trace, .power] s (topoBad s) := by
  unfold topoBad
  exact .comp (.comp (.of setFld_changes) post_changes) bootWarn_changes

theorem enterPhase_changes {s : State} {k : Nat} : Changes [.power] s (enterPhase s k) := by
  unfold enterPhase
  dsimp only
  exact .of setPower_changes

theorem linksEnd_changes {s : State} {failed : BitVec 4} :
    Changes [.sm, .power, .fab, .host, .regs, .log, .trace] s (linksEnd s failed) := by
  unfold linksEnd
  dsimp only
  refine .ite (.of bootStop_changes) ?_
  refine .comp (.ite ?_ ?_) enterPhase_changes
  · exact .comp (.ite (.of setPower_changes) (.comp (.of setPower_changes) bootWarn_changes)) topoCommit_changes
  · exact .comp (.ite (.of setPower_changes) (.comp (.of setPower_changes) bootWarn_changes)) topoBad_changes

theorem remapAll_changes {s : State} : Changes [.regs, .log, .trace] s (remapAll s) := by
  unfold remapAll
  refine .foldl ?_ fun _ _ => ?_
  · exact .refl
  · split
    · exact .refl
    · exact .foldl (.refl) fun _ _ => .of remap_changes
    · exact .foldl (.refl) fun _ _ => .of setFld_changes

theorem arraysEnd_changes {s : State} {fatal : Option (Fin 32)} {units : List FenceUnit} :
    Changes [.sm, .power, .fab, .host, .regs, .log, .trace, .cores, .mus, .problems, .tags, .remotes, .reqs, .slices, .inject,
      .time] s (arraysEnd s fatal units) := by
  unfold arraysEnd
  dsimp only
  split
  · exact .of bootStop_changes
  · refine .comp (.comp (.ite (.foldl (.of sets_cores) fun _ _ => .of fenceUnit_changes) ?_) remapAll_changes)
      enterPhase_changes
    refine .comp ?_ bootWarn_changes
    exact .foldl (.of sets_cores) fun _ _ => .of fenceUnit_changes

theorem hbmEnd_changes {s : State} : Changes [.power, .sm, .fab, .host] s (hbmEnd s) := by
  unfold hbmEnd
  exact .ite (.of enterPhase_changes) (.of bootStop_changes)

theorem hbmInitEnd_changes {s : State} : Changes [.hbm, .poison, .own, .power] s (hbmInitEnd s) := by
  refine .comp (t := { s with hbm := [], hbmPoison := [], own := [] }) ?_ enterPhase_changes
  rintro ⟨⟩ hp <;> simp_all [Part.Kept]
  exact fun _ => rfl

theorem controlEnd_changes {s : State} : Changes [.sm, .regs, .power] s (controlEnd s) := by
  unfold controlEnd
  dsimp only
  exact .comp (.comp (.of setSm_changes) setFld_changes) enterPhase_changes

theorem fabricEnd_changes {s : State} : Changes [.regs, .sm, .power, .host] s (fabricEnd s) := by
  unfold fabricEnd
  dsimp only
  refine .comp (.ite (.comp (.comp (.of setSm_changes) enterPhase_changes) setPower_changes) ?_) govRefresh_changes
  exact .comp (.comp (.comp (.of setSm_changes) enterPhase_changes) setPower_changes) trainPcie_changes

theorem romEnd_changes {s : State} {a b : ImgChk} :
    ResChanges [.sm, .power, .fab, .host, .nv, .log, .regs, .trace] s (romEnd s a b) := by
  unfold romEnd
  dsimp only
  exact .ite (.whenDue (.done (.comp (.comp (.of bootRom_changes) enterPhase_changes) trainPcie_changes))) (.done (.of
    bootRom_changes))

theorem execBringupPhaseEnd_changes {what : PhaseEnd} {s : State} :
    ResChanges [.sm, .power, .fab, .host, .nv, .log, .regs, .trace, .cores, .mus, .problems, .tags, .remotes, .reqs, .slices,
      .inject, .time, .hbm, .poison, .own] s (execBringupPhaseEnd what s) := by
  unfold execBringupPhaseEnd
  dsimp only
  split
  · exact .whenDue (.of romEnd_changes)
  · exact .whenDue (.done (.of linksEnd_changes))
  · exact .whenDue (.done (.of arraysEnd_changes))
  · exact .whenDue (.done (.of hbmEnd_changes))
  · exact .whenDue (.done (.of hbmInitEnd_changes))
  · exact .whenDue (.done (.of controlEnd_changes))
  · exact .whenDue (.done (.of fabricEnd_changes))

theorem trainingAttempt_changes {s : State} {k : Nat} {ok : Bool} :
    Changes [.power, .regs, .log, .trace] s (trainingAttempt s k ok) := by
  unfold trainingAttempt
  dsimp only
  exact .ite (.of setPower_changes) (.ite (.comp (.comp (.of setPower_changes) fenceChannel_changes) bootWarn_changes) (.of
    setPower_changes))

theorem execHbmTrainingAttempt_changes {channel : Fin 128} {ok : Bool} {s : State} :
    ResChanges [.power, .regs, .log, .trace] s (execHbmTrainingAttempt channel ok s) := by
  unfold execHbmTrainingAttempt
  dsimp only
  exact .whenDue (.done (.of trainingAttempt_changes))

/-! ### Functions of Machine/Debug -/

theorem haltCore_changes {s : State} {p : Nat} : Changes [.cores, .trace] s (haltCore s p) := by
  unfold haltCore
  exact .ite (.comp (.of haltServed_changes) traceHaltTrigger_changes) .refl

theorem resumeCore_changes {s : State} {p : Nat} : Changes [.cores] s (resumeCore s p) := by
  unfold resumeCore
  exact .ite (.foldl (.refl) fun _ _ => .of modCore_changes) .refl

theorem stepCore_changes {s : State} {p : Nat} {i : SlotId} : Changes [.cores] s (stepCore s p i) := by
  unfold stepCore
  split
  · exact .ite (.of modCore_changes) .refl
  · exact .refl

theorem debugOff_changes {s : State} : Changes [.cores, .regs] s (debugOff s) := by
  unfold debugOff
  dsimp only
  exact .foldl (.of sets_cores) fun _ _ => .ite .refl (.of setReg_changes)

theorem debugCtl_changes {l : List Part} {s : State} {en lock : Bool} {refuse : State → State} (h : ∀ t, Changes l t (refuse
  t)) (hl : [.regs, .cores, .test] ⊆ l := by decide) : Changes l s (debugCtl s en lock refuse) := by
  have hset : ∀ t x y z, Changes l t (setFld t .dbgCtl 0 0 0 x y z) := fun t x y z =>
    .of setFld_changes (List.Subset.trans (by decide) hl)
  have hoff : ∀ t, Changes l t (debugOff t) := fun t => .of debugOff_changes (List.Subset.trans (by decide) hl)
  have hlock : ∀ t v, Changes l t { t with test := v } := fun t v => .of sets_test (List.Subset.trans (by decide) hl)
  have hgo : ∀ c : Bool, Changes l s (if s.test.locked then refuse s else
      if c then debugOff (setFld s .dbgCtl 0 0 0 0 1 (en && !regBit s .dbgCtl 0 0 0 31).toNat)
      else setFld s .dbgCtl 0 0 0 0 1 (en && !regBit s .dbgCtl 0 0 0 31).toNat) :=
    fun c => .ite (h s) (.ite ((hset _ _ _ _).trans (hoff _)) (hset _ _ _ _))
  exact .ite (((hgo _).trans (hset _ _ _ _)).trans (hlock _ _)) ((hgo _).trans (hset _ _ _ _))

theorem debugPc_changes {s : State} {p k : Nat} {new mask : W64} : Changes [.cores] s (debugPc s p k new mask) := by
  unfold debugPc
  split
  · exact .of modSlot_changes
  · exact .refl

theorem debugG_changes {s : State} {p k i : Nat} {new mask : W64} : Changes [.cores] s (debugG s p k i new mask) := by
  unfold debugG
  split
  · exact .of modSlot_changes
  · exact .refl

theorem debugF_changes {s : State} {p k i : Nat} {new mask : W64} : Changes [.cores] s (debugF s p k i new mask) := by
  unfold debugF
  split
  · exact .of modSlot_changes
  · exact .refl

theorem lsAdvance_changes {s : State} {p : Nat} : Changes [.regs] s (lsAdvance s p) := by
  unfold lsAdvance
  exact .of setFld_changes

theorem lsDataRead_changes {s : State} {p : Nat} : Changes [.regs] s (lsDataRead s p).2 := by
  unfold lsDataRead
  split
  · exact .of lsAdvance_changes
  · exact .refl

theorem lsDataWrite_changes {s : State} {p b : Nat} {bs : List Byte} : Changes [.cores, .regs] s (lsDataWrite s p b bs) := by
  unfold lsDataWrite
  split
  · exact .comp (.of modCore_changes) lsAdvance_changes
  · exact .refl

theorem accRead_changes {s : State} {p tile row col : Nat} : Changes [.regs] s (accRead s p tile row col).2 := by
  unfold accRead
  dsimp only
  exact .ite_2 .refl (.ite_2 .refl (.of setFld_changes))

theorem traceArm_changes {s : State} : Changes [.trace] s (traceArm s) := by
  unfold traceArm
  dsimp only
  exact .of sets_trace

theorem traceStop_changes {s : State} : Changes [.trace] s (traceStop s) := by
  unfold traceStop
  dsimp only
  exact .of sets_trace

theorem traceCmd_changes {s : State} {arm stop : Bool} : Changes [.trace] s (traceCmd s arm stop) := by
  unfold traceCmd
  dsimp only
  exact .ite (.comp (.ite (.of traceArm_changes) .refl) traceStop_changes) (.ite (.of traceArm_changes) .refl)

theorem portTestWrite_changes {s : State} {p mode : Nat} {go : Bool} : Changes [.regs, .test] s (portTestWrite s p mode go) :=
  by
  unfold portTestWrite
  dsimp only
  refine .ite (.comp (.of setFld_changes) setFld_changes) ?_
  refine .ite ?_ (.comp (.comp (.of setFld_changes) setFld_changes) setFld_changes)
  exact .comp (.comp (.comp (.comp (.of setFld_changes) setFld_changes) setReg_changes) setFld_changes) sets_test

/-! ### Functions of Machine/Registers -/

theorem clearRc_changes {s : State} {r : RegName} {u i j : Nat} : Changes [.regs] s (clearRc s r u i j) := by
  unfold clearRc
  dsimp only
  exact .ite .refl (.of setReg_changes)

theorem readReg_changes {s : State} {key : Nat} {r : RegName} {u i j : Nat} :
    Changes [.time, .regs] s (readReg s key r u i j).2 := by
  unfold readReg
  dsimp only
  refine .ite_2 .refl ?_
  split
  · exact .of captureTt_changes
  · exact .of lsDataRead_changes
  · exact .of clearRc_changes

theorem readPlace_changes {s : State} {key n : Nat} {x3 : Place} : Changes [.time, .regs] s (readPlace s key n x3).2 := by
  unfold readPlace
  dsimp only
  split
  · exact .of readReg_changes
  · exact .ite_2 (.of accRead_changes) .refl
  · exact .refl
  · exact .refl

theorem readBus_changes {s : State} {key a n : Nat} : Changes [.time, .regs] s (readBus s key a n).2 := by
  unfold readBus
  dsimp only
  exact .ite_2 (.comp (.of readPlace_changes) readPlace_changes) (.of readPlace_changes)

theorem refuseReg_changes {s : State} {code : LogCode} {r : RegName} {u : Nat} {ctx : Option Nat} :
    Changes [.log, .regs, .trace] s (refuseReg s code r u ctx) := by
  unfold refuseReg
  exact .of post_changes

theorem refuseAt_changes {s : State} {code : LogCode} {who : Requester} {r : RegName} {u i j : Nat} :
    Changes [.log, .regs, .trace] s (refuseAt s code who r u i j) := by
  unfold refuseAt
  exact .of post_changes

theorem quotaWrite_changes {s : State} {n q : Nat} : Changes [.regs, .log, .trace] s (quotaWrite s n q) := by
  unfold quotaWrite
  dsimp only
  exact .ite (.of setReg_changes) (.of refuseReg_changes)

theorem expressWrite_changes {s : State} {p : Nat} {en : Bool} : Changes [.cores] s (expressWrite s p en) := by
  unfold expressWrite
  exact .comp (.of modCore_changes) applyExpress_changes

theorem saltWrite_changes {s : State} {i v : Nat} : Changes [.log, .regs, .trace, .slices] s (saltWrite s i v) := by
  unfold saltWrite
  dsimp only
  exact .ite (.of refuseReg_changes) (.of modSlice_changes)

theorem lfsrWrite_changes {s : State} {i : Nat} {v : BitVec 16} : Changes [.slices] s (lfsrWrite s i v) := by
  unfold lfsrWrite
  exact .of modSlice_changes

theorem xlBaseWrite_changes {s : State} {who : Requester} {r : RegName} {written new : W64} :
    Changes [.log, .regs, .trace] s (xlBaseWrite s who r written new) := by
  unfold xlBaseWrite
  exact .ite (.of refuseReg_changes) (.ite (.of refuseAt_changes) (.of setReg_changes))

theorem queueStart_changes {s : State} {ctx q : Nat} : Changes [.host] s (queueStart s ctx q) := by
  unfold queueStart
  dsimp only
  exact .comp (.of setQueue_changes) setHost_changes

theorem qctlWrite_changes {s : State} {ctx q : Nat} {new : W64} :
    Changes [.log, .regs, .trace, .host] s (qctlWrite s ctx q new) := by
  unfold qctlWrite
  dsimp only
  refine .ite (.of refuseReg_changes) ?_
  refine .ite (.comp (.of setReg_changes) refuseReg_changes) ?_
  refine .ite (.comp (.comp (.of setReg_changes) staleReads_changes) queueStart_changes) ?_
  exact .ite (.comp (.comp (.of setReg_changes) staleReads_changes) setHost_changes) (.of setReg_changes)

theorem qbaseWrite_changes {s : State} {r : RegName} {ctx q : Nat} {new : W64} :
    Changes [.log, .regs, .trace] s (qbaseWrite s r ctx q new) := by
  unfold qbaseWrite
  exact .ite (.of refuseReg_changes) (.of setReg_changes)

theorem vectorWrite_changes {l : List Part} {s : State} {r : RegName} {ctx q lsb : Nat} {new : W64} {act : W64 → State →
  State} (h : ∀ v t, Changes l t (act v t)) (hl : [.log, .regs, .trace] ⊆ l := by decide) :
    Changes l s (vectorWrite s r ctx q lsb new act) :=
  .ite (h _ _) (.comp (h _ _) refuseReg_changes hl)

theorem pringWrite_changes {ctx : Nat} {new : W64} {s : State} : Changes [.regs, .host] s (pringWrite ctx new s) := by
  unfold pringWrite
  dsimp only
  exact .ite (.comp (.of setReg_changes) setRing_changes) (.of setReg_changes)

theorem rcfgWrite_changes {s : State} {who : Requester} {new : W64} : Changes [.log, .regs, .trace] s (rcfgWrite s who new) :=
  by
  unfold rcfgWrite
  dsimp only
  exact .ite (.of refuseAt_changes) (.ite (.comp (.comp (.of setReg_changes) setReg_changes) setReg_changes) (.of
    setReg_changes))

theorem rheadWrite_changes {s : State} {who : Requester} {v : Nat} : Changes [.regs, .log, .trace] s (rheadWrite s who v) :=
  by
  unfold rheadWrite
  dsimp only
  exact .ite (.of setReg_changes) (.of refuseAt_changes)

theorem rbaseWrite_changes {s : State} {who : Requester} {new : W64} :
    Changes [.log, .regs, .trace] s (rbaseWrite s who new) := by
  unfold rbaseWrite
  exact .ite (.of refuseAt_changes) (.of setReg_changes)

theorem jnCfgWrite_changes {s : State} {commit : Bool} : Changes [.regs, .fab] s (jnCfgWrite s commit) := by
  unfold jnCfgWrite
  dsimp only
  exact .ite (.comp (.of setFld_changes) sets_fab) (.of setFld_changes)

theorem jnWrite_changes {s : State} {who : Requester} {r : RegName} {i : Nat} {new : W64} :
    Changes [.log, .regs, .trace] s (jnWrite s who r i new) := by
  unfold jnWrite
  exact .ite (.of refuseAt_changes) (.of setReg_changes)

theorem ctxResetWrite_changes {s : State} {ctx : Nat} {go : Bool} :
    Changes [.hbm, .poison, .reqs, .slices, .regs, .log, .trace, .free, .xlate, .hints, .layers, .merge, .pend, .px,
      .problems, .tags, .cores, .remotes, .host, .mus, .sm, .epochs] s (ctxResetWrite s ctx go) := by
  unfold ctxResetWrite
  exact .ite (.of ctxReset_changes) .refl

theorem fnResetWrite_changes {s : State} {fn : Nat} {go : Bool} :
    Changes [.priOut, .host, .hbm, .poison, .reqs, .slices, .regs, .log, .trace, .free, .xlate, .hints, .layers, .merge,
      .pend, .px, .problems, .tags, .cores, .remotes, .mus, .sm, .epochs] s (fnResetWrite s fn go) := by
  unfold fnResetWrite
  dsimp only
  exact .ite (.comp (.of fnReset_changes) setHost_changes) .refl

theorem dbgCmdWrite_changes {s : State} {p op slot : Nat} : Changes [.cores, .trace] s (dbgCmdWrite s p op slot) := by
  unfold dbgCmdWrite
  split
  · exact .of haltCore_changes
  · exact .of resumeCore_changes
  · exact .of stepCore_changes
  · exact .refl

theorem windowWrite_changes {s : State} {r : RegName} {ctx w : Nat} {new : W64} :
    Changes [.inbound, .regs] s (windowWrite s r ctx w new) := by
  unfold windowWrite
  dsimp only
  exact .comp (.of sets_winOld) setReg_changes

theorem plainWrite_changes {s : State} {r : RegName} {u i j : Nat} {new written mask : W64} :
    Changes [.regs] s (plainWrite s r u i j new written mask) := by
  unfold plainWrite
  dsimp only
  exact .of setReg_changes

theorem applyWrite_changes {s : State} {who : Requester} {r : RegName} {u i j : Nat} {written mask new : W64} :
    Changes registerParts s (applyWrite s who r u i j written mask new) := by
  unfold applyWrite
  split
  · exact .of expressWrite_changes
  · exact .of quotaWrite_changes
  · exact .ite (.of refuseReg_changes) (.of setReg_changes)
  · exact .ite .refl (.of wayCommand_changes)
  · exact .of windowWrite_changes
  · exact .of windowWrite_changes
  · exact .of windowWrite_changes
  · exact .of windowWrite_changes
  · exact .of saltWrite_changes
  · exact .of lfsrWrite_changes
  · exact .ite (.of refuseReg_changes) (.of setReg_changes)
  · exact .of xlBaseWrite_changes
  · exact .of xlBaseWrite_changes
  · exact .comp (.of setReg_changes) frService_changes
  · exact .comp (.of setReg_changes) frService_changes
  · exact .of ctxResetWrite_changes
  · exact .of fnResetWrite_changes
  · refine vectorWrite_changes ?_
    intro _ _
    exact .of pringWrite_changes
  · exact .of qctlWrite_changes
  · exact .of qbaseWrite_changes
  · exact .of qbaseWrite_changes
  · exact .of qbaseWrite_changes
  · refine vectorWrite_changes ?_
    intro _ _
    exact .of setReg_changes
  · exact .of jnWrite_changes
  · exact .of jnWrite_changes
  · exact .of jnWrite_changes
  · exact .of jnWrite_changes
  · exact .of jnWrite_changes
  · exact .of jnCfgWrite_changes
  · exact .of takeTod_changes
  · exact .ite (.of mailboxGo_changes) .refl
  · exact .of govSubmit_changes
  · exact .of sbWrite_changes
  · exact .of sbWrite_changes
  · exact .of sbWrite_changes
  · exact .of sbWrite_changes
  · exact .of sbWrite_changes
  · exact .of sbWrite_changes
  · exact .of sbWrite_changes
  · exact .of sbWrite_changes
  · exact .of rbaseWrite_changes
  · exact .of rcfgWrite_changes
  · exact .of rheadWrite_changes
  · refine debugCtl_changes ?_
    intro _
    exact .of refuseAt_changes
  · exact .of dbgCmdWrite_changes
  · exact .of debugPc_changes
  · exact .of debugG_changes
  · exact .of debugF_changes
  · exact .of traceCmd_changes
  · exact .of portTestWrite_changes
  · exact .of plainWrite_changes

theorem regWrite_changes {s : State} {who : Requester} {r : RegName} {u i j : Nat} {written mask : W64} :
    Changes registerParts s (regWrite s who r u i j written mask) := by
  unfold regWrite
  dsimp only
  exact .ite (.of applyWrite_changes) (.of refuseAt_changes)

theorem writeReg_changes {s : State} {who : Requester} {r : RegName} {u i j b : Nat} {bs : List Byte} :
    Changes registerParts s (writeReg s who r u i j b bs) := by
  unfold writeReg
  dsimp only
  refine .ite .refl ?_
  split
  · exact .of refuseAt_changes
  · exact .of refuseReg_changes
  · exact .ite (.of lsDataWrite_changes) (.ite (.of regWrite_changes) .refl)

theorem writePlace_changes {s : State} {who : Requester} {bs : List Byte} {x3 : Place} :
    Changes registerParts s (writePlace s who bs x3) := by
  unfold writePlace
  split
  · exact .of writeReg_changes
  · exact .refl

theorem writeBus_changes {s : State} {who : Requester} {a : Nat} {bs : List Byte} :
    Changes registerParts s (writeBus s who a bs) := by
  unfold writeBus
  exact .ite (.comp (.of writePlace_changes) writePlace_changes) (.of writePlace_changes)

theorem answerRead_changes {s : State} {who : Requester} {bs : List Byte} : Changes [.host, .test] s (answerRead s who bs) :=
  by
  unfold answerRead
  dsimp only
  split
  · exact .of emit_changes
  · exact .of sets_test
  · exact .refl

theorem badRead_changes {s : State} {who : Requester} : Changes [.host, .log, .regs, .trace] s (badRead s who) := by
  unfold badRead
  split
  · exact .comp (.of emit_changes) aerReport_changes
  · exact .refl
  · exact .refl

theorem controlRead_changes {s : State} {who : Requester} {o n : Nat} :
    Changes [.host, .test, .log, .regs, .trace, .time] s (controlRead s who o n) := by
  unfold controlRead
  dsimp only
  split
  · exact .ite .refl (.ite (.of answerRead_changes) (.of badRead_changes))
  · exact .ite .refl (.ite (.of badRead_changes) (.ite (.of answerRead_changes) (.comp (.of readBus_changes)
      answerRead_changes)))

theorem badWrite_changes {s : State} {who : Requester} : Changes [.log, .regs, .trace] s (badWrite s who) := by
  unfold badWrite
  exact .of post_changes

theorem controlWrite_changes {s : State} {who : Requester} {o : Nat} {bs : List Byte} :
    Changes registerParts s (controlWrite s who o bs) := by
  unfold controlWrite
  split
  · exact .ite .refl (.ite .refl (.of badWrite_changes))
  · exact .ite .refl (.ite (.of badWrite_changes) (.ite (.of denied_changes) (.of writeBus_changes)))

theorem writeWhole_changes {s : State} {who : Requester} {r : RegName} {u i j : Nat} {v : W64} :
    Changes registerParts s (writeWhole s who r u i j v) := by
  unfold writeWhole
  dsimp only
  exact .ite .refl (.ite (.of writeReg_changes) (.ite (.of post_changes) (.ite .refl (.ite (.of writeReg_changes) (.of
    denied_changes)))))

theorem execSeqTagquota_changes {who : Requester} {logical : Fin 160} {value : W32} {s : State} :
    ResChanges registerParts s (execSeqTagquota who logical value s) := by
  unfold execSeqTagquota
  exact .done (.of writeWhole_changes)

theorem execSeqExpress_changes {who : Requester} {core : Fin 160} {value : W32} {s : State} : ResChanges registerParts s (execSeqExpress who core value s) :=
  by
  unfold execSeqExpress
  exact .done (.of writeWhole_changes)

theorem execRcSalt_changes {who : Requester} {slice : Fin 20} {value : W32} {s : State} :
    ResChanges registerParts s (execRcSalt who slice value s) := by
  unfold execRcSalt
  exact .done (.of writeWhole_changes)

theorem execRcLfsr_changes {who : Requester} {slice : Fin 20} {value : W32} {s : State} :
    ResChanges registerParts s (execRcLfsr who slice value s) := by
  unfold execRcLfsr
  exact .done (.of writeWhole_changes)

theorem execRcClassmask_changes {who : Requester} {cls : Option (Fin 8)} {value : W32} {s : State} : ResChanges registerParts s (execRcClassmask who cls value s) :=
  by
  unfold execRcClassmask
  refine .done ?_
  split
  · exact .of writeWhole_changes
  · exact .of writeWhole_changes

theorem execRmuMtreg_changes {who : Requester} {ctx : Fin 64} {value : W64} {s : State} :
    ResChanges registerParts s (execRmuMtreg who ctx value s) := by
  unfold execRmuMtreg
  exact .done (.of writeWhole_changes)

theorem execDspLdev_changes {who : Requester} {ctx : Fin 64} {value : W32} {s : State} :
    ResChanges registerParts s (execDspLdev who ctx value s) := by
  unfold execDspLdev
  exact .done (.of writeWhole_changes)

theorem execXlCtxbind_changes {who : Requester} {ctx : Fin 64} {value : W64} {s : State} : ResChanges registerParts s (execXlCtxbind who ctx value s) :=
  by
  unfold execXlCtxbind
  exact .done (.of writeWhole_changes)

theorem execXlSegtbase_changes {who : Requester} {mirror : Bool} {value : W64} {s : State} :
    ResChanges registerParts s (execXlSegtbase who mirror value s) := by
  unfold execXlSegtbase
  exact .done (.of writeWhole_changes)

theorem execXlIwin_changes {who : Requester} {ctx : Fin 64} {window : Fin 16} {reg : WinReg} {value : W64} {s : State} :
    ResChanges registerParts s (execXlIwin who ctx window reg value s) := by
  unfold execXlIwin
  exact .done (.of writeWhole_changes)

theorem execXlFrhead_changes {who : Requester} {value : W32} {s : State} :
    ResChanges registerParts s (execXlFrhead who value s) := by
  unfold execXlFrhead
  exact .done (.of writeWhole_changes)

theorem execXlFrbase_changes {who : Requester} {value : W64} {s : State} :
    ResChanges registerParts s (execXlFrbase who value s) := by
  unfold execXlFrbase
  exact .done (.of writeWhole_changes)

theorem execDspQctl_changes {who : Requester} {ctx : Fin 64} {q : Fin 8} {reg : QueueReg} {value : W64} {s : State} :
    ResChanges registerParts s (execDspQctl who ctx q reg value s) := by
  unfold execDspQctl
  exact .done (.of writeWhole_changes)

theorem execDspPring_changes {who : Requester} {ctx : Fin 64} {cfg : Bool} {value : W64} {s : State} :
    ResChanges registerParts s (execDspPring who ctx cfg value s) := by
  unfold execDspPring
  exact .done (.of writeWhole_changes)

theorem execJnCfg_changes {who : Requester} {value : W32} {s : State} :
    ResChanges registerParts s (execJnCfg who value s) := by
  unfold execJnCfg
  exact .done (.of writeWhole_changes)

theorem execLogRcfg_changes {who : Requester} {value : W32} {s : State} :
    ResChanges registerParts s (execLogRcfg who value s) := by
  unfold execLogRcfg
  exact .done (.of writeWhole_changes)

theorem execLogRhead_changes {who : Requester} {value : W32} {s : State} :
    ResChanges registerParts s (execLogRhead who value s) := by
  unfold execLogRhead
  exact .done (.of writeWhole_changes)

theorem hw2Read_changes {s : State} {fn o n : Nat} : Changes [.host] s (hw2Read s fn o n) := by
  unfold hw2Read
  exact .ite (.of emit_changes) .refl

theorem configWrite_changes {s : State} {fn : Nat} {x2 : CfgWrite} : Changes [.host] s (configWrite s fn x2) := by
  unfold configWrite
  dsimp only
  split
  · exact .of setHost_changes
  · exact .ite (.of setHost_changes) .refl
  · exact .ite (.of setHost_changes) .refl
  · exact .ite (.of setHost_changes) .refl
  · exact .ite (.of setHost_changes) .refl
  · exact .of setHost_changes
  · exact .of setCfg_changes
  · exact .of setCfg_changes
  · exact .of setCfg_changes
  · exact .of setCfg_changes
  · exact .of setCfg_changes
  · exact .of setCfg_changes
  · exact .of setCfg_changes
  · exact .of setCfg_changes
  · exact .of setCfg_changes

theorem configRequest_changes {l : List Part} {s : State} {fn : Nat} {act : State → State} (h : ∀ t, Changes l t (act t)) (hl
  : [.host] ⊆ l := by decide) : Changes l s (configRequest s fn act) :=
  .ite .refl (.ite (.of enqueue_changes hl) (h s))

theorem execReadClearAccess_changes {target : ReadTarget} {offset : BitVec 26} {len : Nat} {s : State} :
    ResChanges [.host, .test, .log, .regs, .trace, .time] s (execReadClearAccess target offset len s) := by
  unfold execReadClearAccess
  refine .done ?_
  split
  · exact .of controlRead_changes
  · exact .of hw2Read_changes
  · refine configRequest_changes ?_
    intro _
    exact .of enqueue_changes

theorem execRegisterWrite_changes {target : WriteTarget} {s : State} :
    ResChanges registerParts s (execRegisterWrite target s) := by
  unfold execRegisterWrite
  refine .done ?_
  split
  · exact .of controlWrite_changes
  · refine configRequest_changes ?_
    intro _
    exact .of configWrite_changes

/-! ### Functions of Machine/Cycle -/

theorem engineCycle_changes {s t : State} {n : Nat} : Changes [.regs, .cores] t (engineCycle s t n) :=
  .ite (.comp (.comp (.of bump_changes) bump_changes) modCore_changes) (.comp (.of bump_changes) bump_changes)

theorem muCycle_changes {s t : State} {m : Nat} : Changes [.regs, .mus] t (muCycle s t m) :=
  .ite (.comp (.of bump_changes) sets_mus) (.of bump_changes)

theorem plainCycle_changes {s : State} :
    Changes [.tags, .mus, .layers, .cores, .remotes, .reqs, .host, .slices, .hbm, .poison, .inbound, .free] s (plainCycle s)
      := by
  unfold plainCycle
  dsimp only
  exact .comp (.comp (.comp (.of joinLayers_changes) sweepCycle_changes) serveReads_changes) sets_winOld_free

theorem idleCycle_changes {s : State} :
    Changes [.tags, .mus, .layers, .cores, .remotes, .reqs, .host, .slices, .hbm, .poison, .inbound, .free, .regs] s
      (idleCycle s) := by
  unfold idleCycle
  dsimp only
  refine .ite ?_ (.of transmit_changes)
  refine .comp ?_ plainCycle_changes
  exact .foldl (.foldl (.comp (.of transmit_changes) sets_cores) fun _ _ => .of engineCycle_changes) fun _ _ => .of
    muCycle_changes

/-! ### Functions of Machine/Jtag -/

theorem tapSelect_changes {s : State} {ir dr : Nat} {pins : PinDrive} : Changes [.test] s (tapSelect s ir dr pins) := by
  unfold tapSelect
  dsimp only
  exact .of sets_test

theorem execIdcode_changes {s : State} : ResChanges [.test] s (execIdcode s) := by
  unfold execIdcode
  exact .done (.of tapSelect_changes)

theorem execSamplePreload_changes {cells : List Bool} {s : State} : ResChanges [.test] s (execSamplePreload cells s) := by
  unfold execSamplePreload
  dsimp only
  exact .done (.comp (.of tapSelect_changes) sets_test)

theorem execBypass_changes {opcode : BitVec 8} {s : State} : ResChanges [.test] s (execBypass opcode s) := by
  unfold execBypass
  exact .need (.done (.of tapSelect_changes))

theorem execBootstat_changes {s : State} : ResChanges [.test] s (execBootstat s) := by
  unfold execBootstat
  exact .done (.of tapSelect_changes)

theorem boundaryDrive_changes {s : State} {ir : Nat} {pins : PinDrive} :
    Changes [.test, .power, .regs, .inject, .time, .log, .trace, .fab, .cores, .tags, .reqs, .hints, .layers, .mus, .merge,
      .problems, .wayCmd, .own, .xlate, .pend, .px, .epochs, .priOut, .remotes, .inbound, .sm, .host, .hbm, .poison, .slices,
      .free] s (boundaryDrive s ir pins) := by
  unfold boundaryDrive
  dsimp only
  refine .ite (.comp (.of tapSelect_changes) sets_power_test) ?_
  exact .comp (.comp (.comp (.comp (.of tapSelect_changes) sets_power_test) portsOff_changes) dataPlaneReset_changes)
    setHost_changes

theorem execExtest_changes {s : State} :
    ResChanges [.test, .power, .regs, .inject, .time, .log, .trace, .fab, .cores, .tags, .reqs, .hints, .layers, .mus, .merge,
      .problems, .wayCmd, .own, .xlate, .pend, .px, .epochs, .priOut, .remotes, .inbound, .sm, .host, .hbm, .poison, .slices,
      .free] s (execExtest s) := by
  unfold execExtest
  exact .done (.of boundaryDrive_changes)

theorem execClamp_changes {s : State} :
    ResChanges [.test, .power, .regs, .inject, .time, .log, .trace, .fab, .cores, .tags, .reqs, .hints, .layers, .mus, .merge,
      .problems, .wayCmd, .own, .xlate, .pend, .px, .epochs, .priOut, .remotes, .inbound, .sm, .host, .hbm, .poison, .slices,
      .free] s (execClamp s) := by
  unfold execClamp
  exact .done (.of boundaryDrive_changes)

theorem execHighz_changes {s : State} :
    ResChanges [.test, .power, .regs, .inject, .time, .log, .trace, .fab, .cores, .tags, .reqs, .hints, .layers, .mus, .merge,
      .problems, .wayCmd, .own, .xlate, .pend, .px, .epochs, .priOut, .remotes, .inbound, .sm, .host, .hbm, .poison, .slices,
      .free] s (execHighz s) := by
  unfold execHighz
  exact .done (.of boundaryDrive_changes)

theorem execExtestPulse_changes {s : State} :
    ResChanges [.test, .power, .regs, .inject, .time, .log, .trace, .fab, .cores, .tags, .reqs, .hints, .layers, .mus, .merge,
      .problems, .wayCmd, .own, .xlate, .pend, .px, .epochs, .priOut, .remotes, .inbound, .sm, .host, .hbm, .poison, .slices,
      .free] s (execExtestPulse s) := by
  unfold execExtestPulse
  exact .done (.of boundaryDrive_changes)

theorem execExtestTrain_changes {s : State} :
    ResChanges [.test, .power, .regs, .inject, .time, .log, .trace, .fab, .cores, .tags, .reqs, .hints, .layers, .mus, .merge,
      .problems, .wayCmd, .own, .xlate, .pend, .px, .epochs, .priOut, .remotes, .inbound, .sm, .host, .hbm, .poison, .slices,
      .free] s (execExtestTrain s) := by
  unfold execExtestTrain
  exact .done (.of boundaryDrive_changes)

theorem dbgAccess_changes {s : State} {write : Bool} {a : Nat} {data : W32} :
    Changes registerParts s (dbgAccess s write a data) := by
  unfold dbgAccess
  dsimp only
  refine .ite (.comp (.ite (.of controlWrite_changes) .refl) sets_test) ?_
  exact .ite (.of sets_test) (.ite (.comp (.of controlRead_changes) sets_test) (.comp (.of drawWord_changes) sets_test))

theorem execDbgacc_changes {write : Bool} {word : BitVec 38} {data : W32} {s : State} :
    ResChanges registerParts s (execDbgacc write word data s) := by
  unfold execDbgacc
  dsimp only
  exact .done (.ite (.of tapSelect_changes) (.comp (.of dbgAccess_changes) tapSelect_changes))

theorem execHalt_changes {who : Requester} {core : Fin 160} {s : State} :
    ResChanges registerParts s (execHalt who core s) := by
  unfold execHalt
  exact .done (.of writeWhole_changes)

theorem execResume_changes {who : Requester} {core : Fin 160} {s : State} :
    ResChanges registerParts s (execResume who core s) := by
  unfold execResume
  exact .done (.of writeWhole_changes)

theorem execStep_changes {who : Requester} {core : Fin 160} {slot : SlotId} {s : State} :
    ResChanges registerParts s (execStep who core slot s) := by
  unfold execStep
  exact .done (.of writeWhole_changes)

theorem execDbgCtl_changes {who : Requester} {value : W32} {s : State} :
    ResChanges registerParts s (execDbgCtl who value s) := by
  unfold execDbgCtl
  exact .done (.of writeWhole_changes)

theorem debugRead_changes {s : State} {who : Requester} {p : Nat} {r : DbgReg} :
    Changes [.time, .regs, .host, .test] s (debugRead s who p r) := by
  unfold debugRead
  dsimp only
  exact .ite (.comp (.of readReg_changes) answerRead_changes) .refl

theorem execDebugRegisterAccess_changes {who : Requester} {core : Fin 160} {reg : DbgReg} {write : Option W64} {s : State} :
    ResChanges registerParts s (execDebugRegisterAccess who core reg write s) := by
  unfold execDebugRegisterAccess
  refine .done ?_
  split
  · exact .of writeWhole_changes
  · exact .of debugRead_changes

theorem execAccumulatorViewRead_changes {who : Requester} {core : Fin 160} {tile row : Fin 16} {col : Fin 32} {s : State} :
    ResChanges [.regs, .host, .test] s (execAccumulatorViewRead who core tile row col s) := by
  unfold execAccumulatorViewRead
  dsimp only
  exact .done (.ite (.comp (.of accRead_changes) answerRead_changes) .refl)

theorem execArm_changes {who : Requester} {s : State} : ResChanges registerParts s (execArm who s) := by
  unfold execArm
  exact .done (.of writeWhole_changes)

theorem execStop_changes {who : Requester} {s : State} : ResChanges registerParts s (execStop who s) := by
  unfold execStop
  exact .done (.of writeWhole_changes)

theorem execDbgPorttest_changes {who : Requester} {value : W32} {s : State} :
    ResChanges registerParts s (execDbgPorttest who value s) := by
  unfold execDbgPorttest
  exact .done (.of writeWhole_changes)

/-! ### Functions of Machine/Dispatch -/

theorem exec_changes {i : Instr} {s : State} :
    ResChanges [.cores, .trace, .regs, .sm, .host, .mus, .tags, .seq, .remotes, .reqs, .merge, .layers, .problems, .inject,
      .hints, .px, .hbm, .poison, .slices, .log, .free, .xlate, .pend, .priOut, .wayCmd, .linkRetry, .power, .fab, .nv,
      .epochs, .own, .time, .inbound, .now, .test] s (exec i s) := by
  unfold exec
  split
  · exact .of execIntegerRegisterOperation_changes
  · exact .of execIntegerImmediateOperation_changes
  · exact .of execSeth_changes
  · exact .of execPuth_changes
  · exact .of execConditionalBranch_changes
  · exact .of execJal_changes
  · exact .of execJalr_changes
  · exact .of execLocalStoreLoad_changes
  · exact .of execLocalStoreStore_changes
  · exact .of execMfsr_changes
  · exact .of execMtsr_changes
  · exact .of execFloatingPointOperation_changes
  · exact .of execFma_changes
  · exact .of execDivd_changes
  · exact .of execSqrtd_changes
  · exact .of execCoprocessorResult_changes
  · exact .of execFcvtx_changes
  · exact .of execFcvtf_changes
  · exact .of execFcvtLD_changes
  · exact .of execFcvtDL_changes
  · exact .of execFcvtSD_changes
  · exact .of execFcvtDS_changes
  · exact .of execTrap_changes
  · exact .of execBreak_changes
  · exact .of execEnd_changes
  · exact .of execEndComplete_changes
  · exact .of execCommitAfterStall_changes
  · exact .of execRetirementReport_changes
  · exact .of execTdef_changes
  · exact .of execSeed_changes
  · exact .of execAzero_changes
  · exact .of execAccwb_changes
  · exact .of execSload_changes
  · exact .of execSstore_changes
  · exact .of execGpool_changes
  · exact .of execXopCvt_changes
  · exact .of execXopAdd_changes
  · exact .of execXopSub_changes
  · exact .of execXopMul_changes
  · exact .of execXopFma_changes
  · exact .of execXopMax_changes
  · exact .of execXopMin_changes
  · exact .of execXopScale_changes
  · exact .of execXopRelu_changes
  · exact .of execXopAcc_changes
  · exact .of execXopAccs_changes
  · exact .of execXopHamm_changes
  · exact .of execCmpr_changes
  · exact .of execScadd_changes
  · exact .of execMlayer_changes
  · exact .of execLend_changes
  · exact .of execSolve_changes
  · exact .of execPfetch_changes
  · exact .of execCmaintClean_changes
  · exact .of execCmaintInvalidate_changes
  · exact .of execCmaintCleanInvalidate_changes
  · exact .of execCmaintFill_changes
  · exact .of execRread_changes
  · exact .of execWwrite_changes
  · exact .of execPsend_changes
  · exact .of execPrecv_changes
  · exact .of execBarr_changes
  · exact .of execBarrRelease_changes
  · exact .of execTwait_changes
  · exact .of execTwaitReached_changes
  · exact .of execWait_changes
  · exact .of execStat_changes
  · exact .of execWaitall_changes
  · exact .of execLineRequestIssue_changes
  · exact .of execLineArrival_changes
  · exact .of execExecuteUnitEnd_changes
  · exact .of execStreamResume_changes
  · exact .of execInjectorFirstRead_changes
  · exact .of execPanelInject_changes
  · exact .of execPanelConsumed_changes
  · exact .of execLayerEndMarker_changes
  · exact .of execOutputCompressorWrite_changes
  · exact .of execParcelDelivery_changes
  · exact .of execContributionArrival_changes
  · exact .of execHeldContributionAccept_changes
  · exact .of execDrainEnd_changes
  · exact .of execApplyEnd_changes
  · exact .of execSolveFrontEnd_changes
  · exact .of execProblemAssign_changes
  · exact .of execProblemEnd_changes
  · exact .of execDeadlineCheck_changes
  · exact .of execSolverLaneStoreError_changes
  · exact .of execLineRequestAtSlice_changes
  · exact .of execMissFillArrival_changes
  · exact .of execVictimWriteAccept_changes
  · exact .of execPrefetchLine_changes
  · exact .of execWayInvalidate_changes
  · exact .of execWayInvalidateComplete_changes
  · exact .of execEnable_changes
  · exact .of execDisable_changes
  · exact .of execPowerDown_changes
  · exact .of execPowerUp_changes
  · exact .of execSweepComplete_changes
  · exact .of execCorrectedError_changes
  · exact .of execLeakTick_changes
  · exact .of execUncorrectableDataError_changes
  · exact .of execTagLost_changes
  · exact .of execLookasideMiss_changes
  · exact .of execLookasideMissServed_changes
  · exact .of execSegSync_changes
  · exact .of execInvalidate_changes
  · exact .of execGranuleSet_changes
  · exact .of execOwnSet_changes
  · exact .of execEpochDrained_changes
  · exact .of execFaultBatchClose_changes
  · exact .of execAtsTranslationCompletion_changes
  · exact .of execPrgResponse_changes
  · exact .of execAtsInvalidateRequest_changes
  · exact .of execCommandQueueTailDoorbell_changes
  · exact .of execCompletionQueueHeadDoorbell_changes
  · exact .of execParcelRingHeadDoorbell_changes
  · exact .of execCommandReadCompletion_changes
  · exact .of execRun_changes
  · exact .of execRunStart_changes
  · exact .of execRunExpired_changes
  · exact .of execLoad_changes
  · exact .of execCopy_changes
  · exact .of execNop_changes
  · exact .of execInterruptTimeTrigger_changes
  · exact .of execParcelPortSend_changes
  · exact .of execHw4Access_changes
  · exact .of execDspCtxreset_changes
  · exact .of execDspFnreset_changes
  · exact .of execFlrVf_changes
  · exact .of execFlrPf_changes
  · exact .of execD3hotEntry_changes
  · exact .of execIdleFlit_changes
  · exact .of execDataFlit_changes
  · exact .of execRetryTimerExpiry_changes
  · exact .of execLockLossTimeout_changes
  · exact .of execTrainingAttemptEnd_changes
  · exact .of execPortRetryTimer_changes
  · exact .of execHelloTimer_changes
  · exact .of execHello_changes
  · exact .of execFailover_changes
  · exact .of execFailoverResendTimer_changes
  · exact .of execFailoverTimeout_changes
  · exact .of execLsa_changes
  · exact .of execPacketForward_changes
  · exact .of execRemoteRead_changes
  · exact .of execWindowWrite_changes
  · exact .of execPoolAtHome_changes
  · exact .of execParcel_changes
  · exact .of execTime_changes
  · exact .of execError_changes
  · exact .of execRemoteResponse_changes
  · exact .of execRemoteTimeout_changes
  · exact .of execTimeClockTick_changes
  · exact .of execTimeCopyUpdate_changes
  · exact .of execPpsInEdge_changes
  · exact .of execPpsTimeout_changes
  · exact .of execSyncExchangeTimer_changes
  · exact .of execSync_changes
  · exact .of execFollowUp_changes
  · exact .of execDelayReq_changes
  · exact .of execDelayResp_changes
  · exact .of execTimeAnnounceTimer_changes
  · exact .of execHoldoverTimeout_changes
  · exact .of execHoldoverLimit_changes
  · exact .of execStepApply_changes
  · exact .of execTtTod_changes
  · exact .of execTtSecRead_changes
  · exact .of execIdent_changes
  · exact .of execStatus_changes
  · exact .of execTelemetry_changes
  · exact .of execReadLog_changes
  · exact .of execSetTod_changes
  · exact .of execSetCap_changes
  · exact .of execGovCtl_changes
  · exact .of execGovTarget_changes
  · exact .of execFwStage_changes
  · exact .of execFwVerify_changes
  · exact .of execFwActivate_changes
  · exact .of execFwConfirm_changes
  · exact .of execFwStatus_changes
  · exact .of execBootStatusRead_changes
  · exact .of execResponseRead_changes
  · exact .of execWatchdogExpiry_changes
  · exact .of execGovernorCycleStart_changes
  · exact .of execGovernorProblemEnd_changes
  · exact .of execFallbackTick_changes
  · exact .of execThermalSample_changes
  · exact .of execRailTelemetryPoll_changes
  · exact .of execGovLsubmit_changes
  · exact .of execDivergence_changes
  · exact .of execSelfTest_changes
  · exact .of execRemap_changes
  · exact .of execReplayStart_changes
  · exact .of execScrub_changes
  · exact .of execConservationAudit_changes
  · exact .of execPortFenceRelease_changes
  · exact .of execHostLogRingWrite_changes
  · exact .of execPorNFall_changes
  · exact .of execPorNRelease_changes
  · exact .of execPowerUpStep_changes
  · exact .of execPwrdnN_changes
  · exact .of execReferenceLoss_changes
  · exact .of execReferenceReturn_changes
  · exact .of execPerstNFall_changes
  · exact .of execPerstNRelease_changes
  · exact .of execBringupPhaseEnd_changes
  · exact .of execHbmTrainingAttempt_changes
  · exact .of execIdcode_changes
  · exact .of execSamplePreload_changes
  · exact .of execExtest_changes
  · exact .of execClamp_changes
  · exact .of execHighz_changes
  · exact .of execExtestPulse_changes
  · exact .of execExtestTrain_changes
  · exact .of execBootstat_changes
  · exact .of execDbgacc_changes
  · exact .of execBypass_changes
  · exact .of execHalt_changes
  · exact .of execResume_changes
  · exact .of execStep_changes
  · exact .of execDbgCtl_changes
  · exact .of execDebugRegisterAccess_changes
  · exact .of execAccumulatorViewRead_changes
  · exact .of execArm_changes
  · exact .of execStop_changes
  · exact .of execDbgPorttest_changes
  · exact .of execSeqTagquota_changes
  · exact .of execSeqExpress_changes
  · exact .of execRcSalt_changes
  · exact .of execRcLfsr_changes
  · exact .of execRcClassmask_changes
  · exact .of execRmuMtreg_changes
  · exact .of execDspLdev_changes
  · exact .of execXlCtxbind_changes
  · exact .of execXlSegtbase_changes
  · exact .of execXlIwin_changes
  · exact .of execXlFrhead_changes
  · exact .of execDspQctl_changes
  · exact .of execDspPring_changes
  · exact .of execJnCfg_changes
  · exact .of execSbRegisterWrite_changes
  · exact .of execSmMboxdb_changes
  · exact .of execLogRcfg_changes
  · exact .of execLogRhead_changes
  · exact .of execReadClearAccess_changes
  · exact .of execRegisterWrite_changes
  · exact .of execIllegalInstr_changes
  · exact .of execLineWriteAccepted_changes
  · exact .of execTranslationCacheMissServed_changes
  · exact .of execCompletionTimeout_changes
  · exact .of execReturnToD0_changes
  · exact .of execMsixUnmask_changes
  · exact .of execPowerGoodTimeout_changes
  · exact .of execStationmasterReady_changes
  · exact .of execXlFrbase_changes
  · exact .of execResetComplete_changes

end Sys2Proof.Machine

/-! PROOFS. What every step keeps, and what an event of the data plane leaves alone, from the frame lemmas. -/

namespace Sys2Proof.Machine

set_option Elab.async false

/-- The parts that no command changes at all. -/
def Steady (s t : State) : Prop :=
  (memWf s.hbm = true → memWf t.hbm = true) ∧ t.variant = s.variant ∧ t.nv.serial = s.nv.serial ∧ t.nv.dbgLock = s.nv.dbgLock

theorem Changes.steady {l : List Part} {s t : State} (h : Changes l s t)
    (hl : ∀ p ∈ [Part.canon, .variant, .serial, .dbgLock], p ∉ l := by decide) : Steady s t :=
  ⟨h .canon (hl _ (by decide)), h .variant (hl _ (by decide)), h .serial (hl _ (by decide)), h .dbgLock (hl _ (by decide))⟩

theorem Changes.platformKept {l : List Part} {s t : State} (h : Changes l s t)
    (hl : ∀ p ∈ [Part.pending, .variant, .nv, .power, .test, .time], p ∉ l := by decide) : PlatformKept s t :=
  ⟨h .pending (hl _ (by decide)), h .variant (hl _ (by decide)), h .nv (hl _ (by decide)), h .power (hl _ (by decide)),
    h .test (hl _ (by decide)), h .time (hl _ (by decide))⟩

/-- Settles O60: a command that runs with the rest of the queue, or a cycle that passes, changes neither the queue nor which part
this is, and leaves memory canonical. -/
theorem stepKeepsPartQueueAndMemory : Obligations.StepKeepsPartQueueAndMemory := by
  intro s t ht
  have key : Steady s t ∧ t.pending = s.pending.tail := by
    unfold Machine.step at ht
    split at ht
    · rename_i i is hq
      have h := exec_changes t ht
      have hp : t.pending = is := h .pending (by decide)
      exact ⟨h.steady, by rw [hp, hq]; rfl⟩
    · rename_i hq
      have h : Changes _ s t := (Host.Outcome.next.inj ht) ▸ idleCycle_changes
      have hp : t.pending = s.pending := h .pending (by decide)
      exact ⟨h.steady, by rw [hp, hq]; rfl⟩
  obtain ⟨⟨hmem, hvar, hser, hdbg⟩, hq⟩ := key
  exact ⟨hmem, hq, hvar, hser, hdbg⟩

end Sys2Proof.Machine

/-! PROOFS. The family of spec/03 to spec/05, the engine instructions at the gate: rows of the block instructions, operand blocks
that trap, commands that find no tag, core instructions and hints. -/

namespace Sys2Proof.Machine

set_option Elab.async false

/-! ### The rows of the block instructions -/

theorem xopRow_of_func {f : Nat} {a : At} {ra : Reg} {s : State} (rd : Reg) (tag : Fin 4096)
    (h : (gaBlock s a ra).w3 % 256 = f ∨ 11 < (gaBlock s a ra).w3 % 256) :
    xopRow f a rd ra tag s = commit (.block .xop rd ra) { tag := tag.val } a s := by
  have hfunc : xopFunc (blockAt s a ra) = (gaBlock s a ra).w3 % 256 := by
    change xopFunc (gaBlock s a ra) = _
    simp [xopFunc, bitsOf]
  have hcond : (xopFunc (blockAt s a ra) == f || 11 < xopFunc (blockAt s a ra) || blockAstray s a ra) = true := by
    simp only [hfunc, Bool.or_eq_true, beq_iff_eq, decide_eq_true_eq]
    exact .inl h
  simp only [xopRow, hcond, need, if_true]

theorem cmaintRow_of_opn {o : Nat} {a : At} {ra : Reg} {s : State} (rd : Reg) (tag : Fin 4096)
    (h : (gaBlock s a ra).w3 % 4 = o) :
    cmaintRow o a rd ra tag s = commit (.block .cmaint rd ra) { tag := tag.val } a s := by
  have hopn : bitsOf (blockAt s a ra).w3 0 2 = (gaBlock s a ra).w3 % 4 := by
    change bitsOf (gaBlock s a ra).w3 0 2 = _
    simp [bitsOf]
  simp only [cmaintRow, hopn, h, need, beq_self_eq_true, Bool.true_or, if_true]

theorem exec_xopRows {a : At} {rd ra : Reg} {tag : Fin 4096} (s : State) {f : Nat} {i : Instr}
    (h : (f, i) ∈ [(0x00, Instr.xopCvt a rd ra tag), (0x01, .xopAdd a rd ra tag), (0x02, .xopSub a rd ra tag),
      (0x03, .xopMul a rd ra tag), (0x04, .xopFma a rd ra tag), (0x05, .xopMax a rd ra tag), (0x06, .xopMin a rd ra tag),
      (0x07, .xopScale a rd ra tag), (0x08, .xopRelu a rd ra tag), (0x09, .xopAcc a rd ra tag), (0x0A, .xopAccs a rd ra tag),
      (0x0B, .xopHamm a rd ra tag)]) : exec i s = xopRow f a rd ra tag s := by
  simp only [List.mem_cons, Prod.mk.injEq, List.not_mem_nil, or_false] at h
  obtain ⟨rfl, rfl⟩ | ⟨rfl, rfl⟩ | ⟨rfl, rfl⟩ | ⟨rfl, rfl⟩ | ⟨rfl, rfl⟩ | ⟨rfl, rfl⟩ | ⟨rfl, rfl⟩ | ⟨rfl, rfl⟩ | ⟨rfl, rfl⟩
    | ⟨rfl, rfl⟩ | ⟨rfl, rfl⟩ | ⟨rfl, rfl⟩ := h <;> rfl

theorem exec_cmaintRows {a : At} {rd ra : Reg} {tag : Fin 4096} (s : State) {o : Nat} {i : Instr}
    (h : (o, i) ∈ [(0, Instr.cmaintClean a rd ra tag), (1, .cmaintInvalidate a rd ra tag),
      (2, .cmaintCleanInvalidate a rd ra tag), (3, .cmaintFill a rd ra tag)]) : exec i s = cmaintRow o a rd ra tag s := by
  simp only [List.mem_cons, Prod.mk.injEq, List.not_mem_nil, or_false] at h
  obtain ⟨rfl, rfl⟩ | ⟨rfl, rfl⟩ | ⟨rfl, rfl⟩ | ⟨rfl, rfl⟩ := h <;> rfl

/-- Each row of a block instruction brings it to the gate. -/
theorem exec_of_blockRow {a : At} {rd ra : Reg} {tag : Fin 4096} {s : State} {op : BlockOp} {i : Instr}
    (h : BlockRow a rd ra tag s op i) : exec i s = commit (.block op rd ra) { tag := tag.val } a s := by
  obtain h | ⟨rfl, f, hf, h⟩ | ⟨rfl, h⟩ := h
  · simp only [List.mem_cons, Prod.mk.injEq, List.not_mem_nil, or_false] at h
    obtain ⟨rfl, rfl⟩ | ⟨rfl, rfl⟩ | ⟨rfl, rfl⟩ | ⟨rfl, rfl⟩ | ⟨rfl, rfl⟩ | ⟨rfl, rfl⟩ | ⟨rfl, rfl⟩ | ⟨rfl, rfl⟩ | ⟨rfl, rfl⟩
      | ⟨rfl, rfl⟩ | ⟨rfl, rfl⟩ := h <;> rfl
  · exact (exec_xopRows s h).trans (xopRow_of_func rd tag hf)
  · exact (exec_cmaintRows s h).trans (cmaintRow_of_opn rd tag rfl)

/-! ### What the checks of an operand block decide (R175 to R177) -/

theorem effBlock_illegal {op : BlockOp} {ra : Reg} {n : Nat} {i : SlotId} {s : State} (rd : Reg) (tag : Nat)
    (hcheck : blockCheck (getCore s n) i (getG (getSlot s n i) ra).toNat = none)
    (hbad : blockFields op (getCore s n) (getG (getSlot s n i) ra).toNat
        (readBlock (getCore s n) (getG (getSlot s n i) ra).toNat) = false
      ∨ planBlock op (getCore s n) n i (readBlock (getCore s n) (getG (getSlot s n i) ra).toNat) = none) :
    effBlock op rd ra { tag := tag } n i s = .trap .illegalOperand 0#64 := by
  unfold getSlot at hcheck hbad
  by_cases hfields : blockFields op (getCore s n) (getG (coreSlot (getCore s n) i) ra).toNat
      (readBlock (getCore s n) (getG (coreSlot (getCore s n) i) ra).toNat) = true
  · have hplan := hbad.resolve_left (by simp [hfields])
    simp [effBlock, hcheck, checkedBlock, hfields, hplan]
  · simp [effBlock, hcheck, checkedBlock, hfields]

theorem effBlock_legal {op : BlockOp} {ra : Reg} {a : At} {s : State} {p : Plan} (rd : Reg) (tag : Nat)
    (h : BlockPlan a op ra s p) :
    effBlock op rd ra { tag := tag } a.core.val a.slot s
      = issue (.block op) (gaBlock s a ra) p rd (getG (theSlot s a) ra).toNat 0 (getG (theSlot s a) ra).toNat
          (.block op rd ra) { tag := tag } a.core.val a.slot s := by
  obtain ⟨hcheck, hfields, hplan⟩ := h
  unfold theSlot getSlot at hcheck hfields hplan
  simp [effBlock, hcheck, checkedBlock, hfields, hplan, gaBlock, theSlot, getSlot]

theorem effPsend_checked {rd ra rb : Reg} {k : BitVec 6} {n : Nat} {i : SlotId} {s : State} (ch : Choice)
    (hls : lsCheck (getCore s n) i (getG (getSlot s n i) ra).toNat (k.toNat + 1) 64 = none)
    (hhost : (getG (getSlot s n i) rb).getLsbD 63 = true → (getG (getSlot s n i) rb).toNat % 2 ^ 19 = 0) :
    effPsend rd ra rb k ch n i s
      = issue .psend noBlock { claim := { parcel := true } } rd (k.toNat + 1) (getG (getSlot s n i) rb).toNat
          (getG (getSlot s n i) ra).toNat (.psend rd ra rb k) ch n i s := by
  unfold getSlot at hls hhost ⊢
  rw [effPsend, if_neg (by simpa using hhost)]
  simp only [hls]

theorem effPrecv_checked {rd ra : Reg} {n : Nat} {i : SlotId} {s : State} (ch : Choice)
    (hls : lsCheck (getCore s n) i (getG (getSlot s n i) ra).toNat 64 1 = none) :
    effPrecv rd ra ch n i s
      = issue .precv noBlock {} rd 0 0 (getG (getSlot s n i) ra).toNat (.precv rd ra) ch n i s := by
  unfold getSlot at hls ⊢
  simp only [effPrecv, hls]

/-- Settles O24: a bad field or a plan that fails takes the trap of the operand block. -/
theorem badOperandBlockTraps : Obligations.BadOperandBlockTraps := by
  intro a rd ra op tag s c addr b i hrow h hcheck hbad
  obtain ⟨t, ht, htrap⟩ := commit_trapTaken (ch := { tag := tag.val }) h (effBlock_illegal rd tag.val hcheck hbad)
  exact ⟨t, (exec_of_blockRow hrow).trans ht, htrap⟩

/-! ### A command that finds no tag (R107) -/

/-- An instruction that waits at the gate becomes the held instruction of its slot, with the operand block that it has read. -/
theorem commit_waits_block {w : Wew} {ch : Choice} {a : At} {s : State} {why : Stall} {b : Option Block} (h : AtGate a w s)
    (hb : ∀ t, (theSlot t a).cop = (theSlot s a).cop → (theSlot t a).g = (theSlot s a).g →
      (getCore t a.core.val).ls = (getCore s a.core.val).ls → blockRead t a.core.val a.slot w = b)
    (he : wewEffect w ch a.core.val a.slot s = .hold why) :
    ∃ t, commit w ch a s = .next t
      ∧ theSlot t a = { theSlot s a with held := some ⟨why, w, b⟩, timeUp := false } ∧ OnlySlot a s t := by
  refine ⟨_, commit_hold h he, ?_, (onlySlot_modSlot s a _).trans (onlySlot_modSlot _ a _)⟩
  have hslot (f : Slot → Slot) : theSlot (modSlot s a.core.val a.slot f) a = f (theSlot s a) := getSlot_modSlot ..
  rw [holdAt, theSlot, getSlot_modSlot, getSlot_modSlot]
  rw [hb _ (by rw [hslot]) (by rw [hslot]) ?_]
  · rfl
  · rw [modSlot, setSlot, getCore_setCore, setCoreSlot_ls]

theorem readBlock_congr {c d : Core} (h : d.ls = c.ls) (a : Nat) : readBlock d a = readBlock c a := by
  have hls (k m : Nat) : lsNat d k m = lsNat c k m := by simp only [lsNat_eq_foldr, h]
  simp only [readBlock, hls]

theorem copWait_congr {x y : Slot} (h : y.cop = x.cop) (w : Wew) : copWait y w = copWait x w := by
  unfold copWait copOwes
  rw [h]

/-- The operand block that a block instruction past its register waits has read. -/
theorem blockRead_block {op : BlockOp} {rd ra : Reg} {a : At} {s t : State} (h : AtGate a (.block op rd ra) s)
    (hcop : (theSlot t a).cop = (theSlot s a).cop) (hg : (theSlot t a).g = (theSlot s a).g)
    (hls : (getCore t a.core.val).ls = (getCore s a.core.val).ls) :
    blockRead t a.core.val a.slot (.block op rd ra) = some (gaBlock s a ra) := by
  have hwait : copWait (getSlot t a.core.val a.slot) (.block op rd ra) = none := (copWait_congr hcop _).trans h.2
  have hga : getG (getSlot t a.core.val a.slot) ra = getG (theSlot s a) ra := by
    unfold theSlot at hg
    simp only [getG, hg, theSlot]
  simp only [blockRead, hwait, Option.isSome_none, Bool.false_eq_true, if_false, hga, readBlock_congr hls]
  rfl

/-- A slot that replays nothing waits for the first resource that is missing. -/
theorem issue_waits {op : EngOp} {b : Block} {p : Plan} {w : Wew} {n : Nat} {i : SlotId} {s : State} {why : Stall}
    (rd : Reg) (ga gb addr : Nat) (ch : Choice) (hrep : (getSlot s n i).replaying = none)
    (hstall : stallOf s n i p.claim = some why) : issue op b p rd ga gb addr w ch n i s = .hold why := by
  simp only [issue, replayed, hrep, hstall]

theorem stallOf_tag {s : State} {n : Nat} {i : SlotId} {q : Claim} (h : nextPool s n i q.parcel = none) :
    stallOf s n i q = some .tag := by
  simp [stallOf, h]

/-- A plan, if there is one, claims no tag of the parcel pool. -/
def NoParcel (o : Option Plan) : Prop := ∀ p, o = some p → p.claim.parcel = false

theorem NoParcel.none : NoParcel none := fun _ h => nomatch h

theorem NoParcel.some {p : Plan} (h : p.claim.parcel = false) : NoParcel (some p) := fun q hq => by
  rw [← Option.some.inj hq]
  exact h

theorem NoParcel.bind {α : Type} {o : Option α} {f : α → Option Plan} (h : ∀ x, NoParcel (f x)) : NoParcel (o.bind f) := by
  cases o with
  | none => exact .none
  | some x => exact h x

theorem NoParcel.ite {c : Prop} [Decidable c] {o q : Option Plan} (h : NoParcel o) (k : NoParcel q) :
    NoParcel (if c then o else q) := by
  split
  · exact h
  · exact k

theorem noParcel_planXop (c : Core) (i : SlotId) (b : Block) : NoParcel (planXop c i b) := by
  refine .bind fun _ => .bind fun ta => .ite (.bind fun tb => .ite (.bind fun tc => ?_) (.bind fun tc => ?_))
    (.bind fun tb => .ite (.bind fun tc => ?_) (.bind fun tc => ?_))
  all_goals exact .ite (.bind fun _ => .some rfl) (.bind fun _ => .ite (.bind fun _ => .some rfl) (.bind fun _ => .some rfl))

/-- No plan of an operand block claims a tag of the parcel pool. -/
theorem noParcel_planBlock (op : BlockOp) (c : Core) (n : Nat) (i : SlotId) (b : Block) : NoParcel (planBlock op c n i b) := by
  cases op with
  | xop => exact noParcel_planXop c i b
  | accwb | scadd => exact .bind fun _ => .bind fun _ => .some rfl
  | sload | sstore => exact .bind fun _ => .bind fun _ => .some rfl
  | gpool => exact .bind fun _ => .bind fun _ => .some rfl
  | cmpr => exact .bind fun _ => .bind fun _ => .bind fun _ => .bind fun _ => .some rfl
  | solve | cmaint => exact .bind fun _ => .some rfl
  | rread | wwrite => exact .bind fun _ => .bind fun _ => .bind fun _ => .some rfl
  | barr => exact .bind fun _ => .bind fun _ => .some rfl
  | mlayer =>
    refine .bind fun _ => .bind fun _ => .bind fun _ => .ite (.bind fun _ => ?_) (.bind fun _ => ?_)
    all_goals exact .bind fun _ => .bind fun _ => .bind fun _ => .bind fun _ => .bind fun _ => .some rfl

/-- Settles O23: each engine command past its checks finds its pool empty. -/
theorem noTagHoldsCommand : Obligations.NoTagHoldsCommand := by
  intro a rd ra rb tag s n x waits out
  refine ⟨fun op i hrow h ⟨p, hplan⟩ ⟨hrep, hpool⟩ => ?_, fun k h hacc ⟨hrep, hpool⟩ => ?_,
    fun k h hls hhost ⟨hrep, hpool⟩ => ?_, fun h hls ⟨hrep, hpool⟩ => ?_⟩
  · have hparcel : p.claim.parcel = false := noParcel_planBlock _ _ _ _ _ _ hplan.2.2
    obtain ⟨t, ht, hwaits⟩ := commit_waits_block (ch := { tag := tag.val }) h (fun t => blockRead_block h)
      ((effBlock_legal rd tag.val hplan).trans (issue_waits rd _ _ _ _ hrep (stallOf_tag (by rw [hparcel]; exact hpool))))
    exact ⟨t, (exec_of_blockRow hrow).trans ht, hwaits⟩
  · exact commit_waits (ch := { tag := tag.val }) h (fun _ _ _ => rfl)
      ((if_pos hacc).trans (issue_waits rd _ _ _ _ hrep (stallOf_tag hpool)))
  · exact commit_waits (ch := { tag := tag.val }) h (fun _ _ _ => rfl)
      ((effPsend_checked _ hls hhost).trans (issue_waits rd _ _ _ _ hrep (stallOf_tag hpool)))
  · exact commit_waits (ch := { tag := tag.val }) h (fun _ _ _ => rfl)
      ((effPrecv_checked _ hls).trans (issue_waits rd _ _ _ _ hrep (stallOf_tag hpool)))

/-! ### Core instructions and hints (R194, R195, R209, R212) -/

/-- An instruction at the gate that changes more than its slot, and then commits by `commitSlot`. -/
theorem commit_after {w : Wew} {ch : Choice} {a : At} {s u : State} {x : Slot} (h : AtGate a w s) (hw : engineWork w = false)
    (he : wewEffect w ch a.core.val a.slot s = commitSlot u a.core.val a.slot x) :
    ∃ t, commit w ch a s = .next t ∧ theSlot t a = { x with pc := x.pc + 4#48 }
      ∧ t = stepDone (setSlot u a.core.val a.slot { x with pc := x.pc + 4#48 }) a.core.val a.slot := by
  refine ⟨_, commit_done h he, ?_, ?_⟩ <;> rw [afterCommit_plain hw]
  · rw [theSlot_stepDone, theSlot, getSlot_setSlot]
    rfl
  · rfl

/-- A tile table entry that passes its checks is set (R194). -/
theorem effTdef_checked {ra : Reg} {k : BitVec 6} {n : Nat} {i : SlotId} {s : State}
    (hcheck : blockCheck (getCore s n) i (getG (getSlot s n i) ra).toNat = none)
    (hown : ownsTile (getCore s n) i k.toNat = true)
    (hok : let c := getCore s n
      let addr := (getG (getSlot s n i) ra).toNat
      let b := readBlock c addr
      (b.rm != 3 && blockZero c addr && headOk { fmtOut := true, count := true } b && above b.w1 19 && above b.w2 16 && b.w3 == 0
        && 1 ≤ b.count && b.count ≤ 4096 && b.w1 % 16 == 0 && rowOk b.fmtOut b.w2 && (lsRange c i).1 ≤ b.w1
        && b.w1 + b.count * rowBytes b.fmtOut b.w2 ≤ (lsRange c i).2) = true) :
    let c := getCore s n
    let b := readBlock c (getG (getSlot s n i) ra).toNat
    effTdef ra k n i s = commitSlot (setCore s n { c with tiles := spPut k.toNat (some ⟨b.w1, b.count, b.w2, b.fmtOut⟩) c.tiles })
      n i (getSlot s n i) := by
  unfold getSlot at hcheck hok ⊢
  simp only [effTdef, hown, if_true, hcheck]
  refine (if_pos hok).trans ?_
  rw [getSlot, getCore_setCore]
  cases i <;> rfl

/-- The lines of a range that the lookaside translates to device memory (R212). -/
theorem hintLines_dev {s : State} {k : Lookaside} {h : Share} {ctx : Nat} (hs : List Hint) (l : Nat)
    (hdev : ∀ j e, hs[j]? = some e → e.ctx = ctx ∧ ∃ g, lookFind k h ctx (128 * (l + j)) = some g
      ∧ segTarget s g ctx (128 * (l + j)) .read = .dev e.pa e.wp) :
    hintLines s k h ctx hs.length l = .lines hs := by
  induction hs generalizing l with
  | nil => rfl
  | cons e hs ih =>
    obtain ⟨hctx, g, hfind, htarget⟩ := hdev 0 e rfl
    rw [Nat.add_zero] at hfind htarget
    have hrest := ih (l + 1) fun j e' he => by
      rw [Nat.add_assoc, Nat.add_comm 1 j]
      exact hdev (j + 1) e' he
    subst hctx
    simp only [List.length_cons, hintLines, hfind, Option.map_some, htarget, hrest]

/-- The lines of a hint go out together, when hints are on and each of them is translated. -/
theorem hintSend_lines {s : State} {n : Nat} {i : SlotId} {ctx line cnt : Nat} {hs : List Hint}
    (hon : regFld s .rcClassmask 0 7 0 0 16 ≠ 0)
    (hlines : hintLines s (getCore s n).look (coreShare (getCore s n) i) ctx cnt line = .lines hs) :
    hintSend s n i ctx line cnt = { s with hints := s.hints ++ hs } := by
  simp only [hintSend, beq_iff_eq, hon, if_false, hlines]

theorem hintSend_off {s : State} (n : Nat) (i : SlotId) (ctx line cnt : Nat) (hoff : regFld s .rcClassmask 0 7 0 0 16 = 0) :
    hintSend s n i ctx line cnt = s := by
  simp only [hintSend, hoff, beq_self_eq_true, if_true]

theorem hintSend_none (s : State) (n : Nat) (i : SlotId) (ctx line : Nat) : (hintSend s n i ctx line 0).hints = s.hints := by
  by_cases hoff : regFld s .rcClassmask 0 7 0 0 16 = 0
  · rw [hintSend_off n i ctx line 0 hoff]
  · rw [hintSend_lines hoff (hs := []) rfl, List.append_nil]

/-- A hint commits: the slot goes on, and what its range comes to goes to the row cache (R212). -/
theorem commit_pfetch {a : At} {ra rb : Reg} {s : State} (h : AtGate a (.pfetch ra rb) s) :
    let x := theSlot s a
    let addr := (getG x ra).toNat
    let len := min (getG x rb).toNat 65536
    let cnt := if len = 0 then 0 else (addr + len - 1) / 128 + 1 - addr / 128
    ∃ t, commit (.pfetch ra rb) {} a s = .next t ∧ theSlot t a = { x with pc := x.pc + 4#48 } ∧ Changes [.hints, .px, .regs, .cores] s t
      ∧ t.hints = (hintSend s a.core.val a.slot x.ctx (addr / 128) cnt).hints := by
  intro x addr len cnt
  obtain ⟨t, ht, hslot, rfl⟩ := commit_after (ch := {}) h rfl rfl
  exact ⟨_, ht, hslot, .comp (.comp (.of hintSend_changes) setSlot_changes) stepDone_changes, rfl⟩

/-- A LEND that need not wait sets the slot's replay point and sends its marker to the station's Matrix Unit (R209, R258). -/
theorem effLend_commits {n : Nat} {i : SlotId} {s : State} (hholds : slotHolds s n i = false) (hopen : layerOpen s n i = false) :
    ∃ m, effLend n i s = commitSlot { s with mus := m } n i
        { getSlot s n i with replay := replayPoint (getCore s n) (getSlot s n i) (nextPc (getSlot s n i).pc), replaying := none }
      ∧ (spGet muReset (n / 8) m).sent = (spGet muReset (n / 8) s.mus).sent ++ [(n, i)] :=
  ⟨_, if_neg (by simp [hholds, hopen]), congrArg MuSt.sent (spGet_set ..)⟩

/-- Settles O20: each of the four forms commits by its own effect. -/
theorem coreEngineInstructionsCommit : Obligations.CoreEngineInstructionsCommit := by
  intro a ra rb k s n c x addr b first len
  refine ⟨fun h hcheck hrm hzero hhead hw1 hw2 hw3 hown hone hmax hal hrow hlo hhi => ?_, fun h => ?_,
    fun h hholds hopen => ?_, fun h => ?_⟩
  · have hok : (b.rm != 3 && blockZero c addr && headOk { fmtOut := true, count := true } b && above b.w1 19 && above b.w2 16
        && b.w3 == 0 && 1 ≤ b.count && b.count ≤ 4096 && b.w1 % 16 == 0 && rowOk b.fmtOut b.w2 && (lsRange c a.slot).1 ≤ b.w1
        && b.w1 + b.count * rowBytes b.fmtOut b.w2 ≤ (lsRange c a.slot).2) = true := by
      norm_num at hw1 hw2
      simp [above, hrm, hzero, hhead, hw1, hw2, hw3, hone, hmax, hal, hrow, hlo, hhi]
    have htiles (t : State) (k : Core) (y : Slot) :
        (getCore (stepDone (setSlot (setCore t n k) n a.slot y) n a.slot) n).tiles = k.tiles := by
      rw [getCore_stepDone, getCore_setSlot, getCore_setCore]
      cases a.slot <;> rfl
    obtain ⟨t, ht, hslot, rfl⟩ := commit_after (ch := {}) h rfl (effTdef_checked hcheck hown hok)
    refine ⟨_, ht, ?_, fun j hj => ?_, hslot⟩ <;> rw [htiles]
    · exact spGet_put ..
    · exact spGet_put_ne _ _ _ hj
  · exact commit_slot (ch := {}) h rfl rfl
  · obtain ⟨m, he, hsent⟩ := effLend_commits (n := n) (i := a.slot) (s := s) hholds hopen
    obtain ⟨t, ht, hslot, rfl⟩ := commit_after (ch := {}) h rfl he
    exact ⟨_, ht, by rw [hslot]; rfl, by rw [hslot]; rfl, hsent⟩
  · obtain ⟨t, ht, hslot, hchanges, hhints⟩ := commit_pfetch h
    refine ⟨t, ht, hslot, hchanges .tags (by decide), hchanges .hbm (by decide), (hchanges .reqs (by decide)).1, fun hlen => ?_,
      fun hoff => ?_, fun hs hlen hon hcount hdev => ?_⟩
    · rw [hhints, if_pos hlen, hintSend_none]
    · rw [hhints, hintSend_off _ _ _ _ _ hoff]
    · have hlines := hintLines_dev hs first hdev
      rw [hhints, if_neg hlen]
      rw [hcount] at hlines
      exact congrArg State.hints (hintSend_lines hon hlines)

end Sys2Proof.Machine

/-! PROOFS. The family of spec/03 to spec/05, the issue of engine commands: the tag that a command takes stays its own while the
command arrives at its unit (R105, R106, R180). -/

namespace Sys2Proof.Machine

set_option Elab.async false

/-! ### A tag in use keeps its generation and its owner -/

/-- No tag in use goes free, and none changes its generation or its owner (R106, R109). -/
structure Tenure (s t : State) : Prop where
  kept : ∀ k, (getTag s k).st ≠ .free →
    (getTag t k).st ≠ .free ∧ (getTag t k).gen = (getTag s k).gen ∧ (getTag t k).owner = (getTag s k).owner

theorem Tenure.refl (s : State) : Tenure s s := ⟨fun _ h => ⟨h, rfl, rfl⟩⟩

theorem Tenure.trans {s t u : State} (h : Tenure s t) (k : Tenure t u) : Tenure s u := ⟨fun n hn => by
  obtain ⟨h1, h2, h3⟩ := h.kept n hn
  obtain ⟨k1, k2, k3⟩ := k.kept n h1
  exact ⟨k1, k2.trans h2, k3.trans h3⟩⟩

theorem Tenure.of_eq {s t : State} (h : t.tags = s.tags) : Tenure s t := ⟨fun k hk => by
  have htag : getTag t k = getTag s k := by simp only [getTag, h]
  rw [htag]
  exact ⟨hk, rfl, rfl⟩⟩

theorem tenure_setTag {s : State} {t : Nat} {x : Tag} (hst : (getTag s t).st ≠ .free → x.st ≠ .free)
    (hgen : x.gen = (getTag s t).gen) (howner : x.owner = (getTag s t).owner) : Tenure s (setTag s t x) := ⟨fun k hk => by
  by_cases hkt : k = t
  · subst hkt
    rw [getTag_setTag]
    exact ⟨hst hk, hgen, howner⟩
  · rw [getTag_setTag_ne s x hkt]
    exact ⟨hk, rfl, rfl⟩⟩

theorem tenure_modCmd (s : State) (t : Nat) (f : Cmd → Cmd) : Tenure s (modCmd s t f) :=
  tenure_setTag id rfl rfl

theorem Changes.getTag {l : List Part} {s t : State} (h : Changes l s t) (k : Nat) (hl : Part.tags ∉ l := by decide) :
    getTag t k = getTag s k := by
  have htags : t.tags = s.tags := h .tags hl
  simp only [Machine.getTag, htags]

theorem Changes.getSlot {l : List Part} {s t : State} (h : Changes l s t) (n : Nat) (i : SlotId)
    (hl : Part.cores ∉ l := by decide) : getSlot t n i = getSlot s n i := by
  simp only [Machine.getSlot, getCore_congr (h .cores hl)]

theorem getSlot_modCore {s : State} {n : Nat} {i : SlotId} {f : Core → Core} (hf : ∀ c, coreSlot (f c) i = coreSlot c i) :
    getSlot (modCore s n f) n i = getSlot s n i := by
  rw [Machine.getSlot, getCore_modCore, hf, Machine.getSlot]

/-- A change of other parts than the tags. -/
theorem Changes.tenure {l : List Part} {s t : State} (h : Changes l s t) (hl : Part.tags ∉ l := by decide) : Tenure s t :=
  .of_eq (h .tags hl)

theorem tenure_retireWith (s : State) (t : Nat) (w : W64) : Tenure s (retireWith s t w) := by
  have hdrop (c : Cmd) : (dropFromSlot s t c).tags = s.tags := dropFromSlot_changes .tags (by decide)
  have htag (c : Cmd) : getTag (dropFromSlot s t c) t = getTag s t := by simp only [getTag, hdrop]
  cases h : (getTag s t).cmd with
  | none => simp only [retireWith, h]; exact .refl s
  | some c =>
    simp only [retireWith, h]
    refine ((dropFromSlot_changes.tenure).trans (tenure_setTag (fun _ => ?_) ?_ ?_)).trans
      ((modSlot_changes.tenure).trans modCore_changes.tenure)
    · nofun
    · rw [htag]
    · rw [htag]

theorem tenure_retire (s : State) (t : Nat) : Tenure s (retire s t) := by
  unfold retire
  split
  · exact tenure_retireWith ..
  · exact .refl s

theorem tenure_fail (s : State) (t code : Nat) : Tenure s (fail s t code) := (tenure_modCmd ..).trans (tenure_retire ..)

/-! ### Nor does a command's arrival touch what its program sees -/

/-- Tags in use stay in use, and what programs see stays as it is. -/
structure Arrives (s t : State) : Prop where
  tenure : Tenure s t
  books : Books s t

theorem Arrives.refl (s : State) : Arrives s s := ⟨.refl s, .refl s⟩

theorem Arrives.trans {s t u : State} (h : Arrives s t) (k : Arrives t u) : Arrives s u :=
  ⟨h.tenure.trans k.tenure, h.books.trans k.books⟩

/-- A change of none of tags, cores, control registers and time. -/
theorem Changes.arrives {l : List Part} {s t : State} (h : Changes l s t)
    (hl : Part.tags ∉ l ∧ Part.cores ∉ l ∧ Part.now ∉ l ∧ Part.regs ∉ l := by decide) : Arrives s t :=
  ⟨h.tenure hl.1, .of_eq (h .cores hl.2.1) (h .now hl.2.2.1) (h .regs hl.2.2.2)⟩

theorem arrives_modCmd (s : State) (t : Nat) (f : Cmd → Cmd) : Arrives s (modCmd s t f) :=
  ⟨tenure_modCmd .., .of_eq rfl rfl rfl⟩

theorem arrives_retire (s : State) (t : Nat) : Arrives s (retire s t) := ⟨tenure_retire .., books_retire ..⟩

theorem arrives_fail (s : State) (t code : Nat) : Arrives s (fail s t code) := ⟨tenure_fail .., books_fail ..⟩

theorem arrives_barrArrive (s : State) (t : Nat) (c : Cmd) : Arrives s (barrArrive s t c) := by
  unfold barrArrive
  dsimp only
  split
  · exact sets_barriers.arrives
  · split
    · exact sets_barriers.arrives
    · exact arrives_fail ..

theorem arrives_layerArrive (s : State) (t : Nat) (c : Cmd) : Arrives s (layerArrive s t c) := by
  have hholds : Arrives s (releaseHolds s c.core c.slot) := releaseHolds_changes.arrives
  unfold layerArrive
  dsimp only
  split
  · exact hholds.trans sets_layers.arrives
  · split
    · exact hholds.trans sets_layers.arrives
    · exact hholds.trans (arrives_fail ..)

theorem arrives_joinEach (l : List (Nat × Cmd)) (wait : List (Nat × Nat)) (s : State) : Arrives s (joinEach l wait s) := by
  induction l generalizing wait s with
  | nil => exact .refl s
  | cons e l ih =>
    obtain ⟨t, c⟩ := e
    rw [joinEach]
    split
    · exact ih _ _
    · exact ((arrives_modCmd ..).trans (arrives_layerArrive ..)).trans (ih _ _)

theorem arrives_sendRequest (s : State) (t : Nat) (c : Cmd) (p : Packet) (bag shard piece pos : Nat) :
    Arrives s (sendRequest s t c p bag shard piece pos) := by
  refine .trans ?_ (arrives_modCmd ..)
  exact ⟨.of_eq rfl, .of_eq rfl rfl rfl⟩

theorem arrives_windowStart (s : State) (t : Nat) (c : Cmd) (write : Bool) : Arrives s (windowStart s t c write) := by
  unfold windowStart
  split
  · exact (arrives_modCmd ..).trans (arrives_sendRequest ..)
  · exact .refl s

theorem arrives_parcelLeaves (s : State) (t : Nat) (c : Cmd) : Arrives s (parcelLeaves s t c) := by
  unfold parcelLeaves
  split
  · exact .refl s
  · exact arrives_sendRequest ..

theorem arrives_modSlot (s : State) (n : Nat) (i : SlotId) (f : Slot → Slot)
    (hf : SameFile (getSlot s n i) (f (getSlot s n i)))
    (hp : (getSlot s n i).phase ≠ .running → (f (getSlot s n i)).phase ≠ .running) : Arrives s (modSlot s n i f) :=
  ⟨modSlot_changes.tenure, books_modSlot s n i f hf hp⟩

theorem arrives_modCore (s : State) (n : Nat) (f : Core → Core) (hf : ∀ i, coreSlot (f (getCore s n)) i = getSlot s n i) :
    Arrives s (modCore s n f) := ⟨modCore_changes.tenure, books_modCore s n f hf⟩

theorem coreSlot_lsPut (c : Core) (a : Nat) (bs : List Byte) (ps : List Bool) (i : SlotId) :
    coreSlot (lsPut c a bs ps) i = coreSlot c i := by
  have hmark (a n : Nat) (bad : Bool) (fuel w : Nat) (c : Core) : coreSlot (lsMark a n bad fuel w c) i = coreSlot c i := by
    induction fuel generalizing w c with
    | zero => rfl
    | succ fuel ih => rw [lsMark, ih]; cases i <;> rfl
  have hwrite (c : Core) (a : Nat) (bs : List Byte) (p : Bool) : coreSlot (lsWrite c a bs p) i = coreSlot c i := by
    rw [lsWrite, hmark]; cases i <;> rfl
  unfold lsPut
  generalize (bs.length + 31) / 16 = fuel
  induction fuel generalizing c a bs ps with
  | zero => rfl
  | succ fuel ih =>
    rw [lsWritePieces]
    split
    · rfl
    · rw [ih, hwrite]

theorem arrives_serveInbox (s : State) (n : Nat) (i : SlotId) : Arrives s (serveInbox s n i) := by
  unfold serveInbox
  split
  · split
    · refine ((arrives_modSlot s n i _ ?_ id).trans (arrives_modCore _ n _ fun j => coreSlot_lsPut ..)).trans
        ((arrives_modCmd ..).trans (arrives_retire ..))
      constructor <;> rfl
    · exact .refl s
  · exact .refl s

theorem arrives_arrive (s : State) (t : Nat) (c : Cmd) : Arrives s (arrive s t c) := by
  unfold arrive
  split
  · exact arrives_barrArrive ..
  · exact arrives_joinEach ..
  · exact sets_solveNet.arrives
  · exact arrives_windowStart ..
  · exact arrives_windowStart ..
  · exact arrives_serveInbox ..
  · exact arrives_parcelLeaves ..
  · exact .refl s

theorem arrives_afterCommit (w : Wew) (n : Nat) (i : SlotId) (s : State) : Arrives s (afterCommit w n i s) := by
  have hstep : Arrives s (stepDone s n i) := arrives_modCore _ _ _ fun j => by cases j <;> rfl
  unfold afterCommit
  split
  · refine hstep.trans ?_
    unfold expressBegins
    split
    · exact .refl _
    · exact arrives_modCore _ _ _ fun j => by cases j <;> rfl
  · exact hstep

/-! ### The command issues (R105, R106, R180) -/

theorem handleOf_toNat (tag : Fin 4096) (gen : BitVec 4) : (handleOf tag.val gen).toNat = tag.val + 4096 * gen.toNat := by
  have hgen := gen.isLt
  rw [handleOf, BitVec.toNat_ofNat, Nat.mod_eq_of_lt (by omega)]

/-- The slot of a command that has issued: a handle in gd, and the next word. -/
structure HandleWritten (rd : Reg) (v : W64) (x y : Slot) : Prop where
  result : rd ≠ 0#5 → getG y rd = v
  others : ∀ r, r ≠ rd → getG y r = getG x r
  f : y.f = x.f
  pc : y.pc = x.pc + 4#48

theorem HandleWritten.of_file {rd : Reg} {v : W64} {x y z : Slot} (h : HandleWritten rd v x y) (k : SameFile y z) :
    HandleWritten rd v x z := by
  have hg (r : Reg) : getG z r = getG y r := by simp only [getG, k.g]
  exact ⟨fun hr => (hg rd).trans (h.result hr), fun r hr => (hg r).trans (h.others r hr), k.f.trans h.f, k.pc.trans h.pc⟩

/-- The slot of a command that takes its resources, with value `v` as its handle. -/
def issuedSlot (x : Slot) (rd : Reg) (v : W64) (op : EngOp) (p : Plan) (t : Nat) : Slot :=
  let x := replayBooks (setG x rd v) op t
  { x with pc := nextPc x.pc, lfsr := lfsrSkip p.steps x.lfsr, fq := if p.claim.fq then x.fq ++ [t] else x.fq,
           xq := if p.claim.xq then x.xq ++ [t] else x.xq }

theorem setG_f (x : Slot) (r : Reg) (v : W64) : (setG x r v).f = x.f := by
  unfold setG
  split <;> rfl

theorem handleWritten_issuedSlot (x : Slot) (rd : Reg) (v : W64) (op : EngOp) (p : Plan) (t : Nat) :
    HandleWritten rd v x (issuedSlot x rd v op p t) :=
  ⟨fun hr => getG_setG _ _ hr, fun _ hr => getG_setG_ne _ _ hr, setG_f x rd v, congrArg nextPc (setG_pc ..)⟩

/-- What the tag, the slot and the count of commands are once a command has its resources. -/
theorem claimAll_issued (a : At) (rd : Reg) (w : Wew) (c : Cmd) (p : Plan) (tag : Fin 4096) (s : State) :
    let t := claimAll s a.core.val a.slot rd w c p tag.val
    (getTag t tag.val).st ≠ .free ∧ (getTag t tag.val).gen = (getTag s tag.val).gen + 1
      ∧ (getTag t tag.val).owner = some (a.core.val, a.slot) ∧ t.seq = s.seq + 1
      ∧ HandleWritten rd (handleOf tag.val ((getTag s tag.val).gen + 1)) (theSlot s a) (theSlot t a) := by
  intro t
  set gen := (getTag s tag.val).gen + 1
  have htaken : getTag (takeTag s tag.val (some (a.core.val, a.slot)) c.ctx (some c)) tag.val
      = { st := .inFlight, gen := gen, owner := some (a.core.val, a.slot), ctx := c.ctx,
          status := (getTag s tag.val).status, cmd := some c, mem := false } := getTag_setTag ..
  have htag : getTag t tag.val = getTag (takeTag s tag.val (some (a.core.val, a.slot)) c.ctx (some c)) tag.val := by
    exact traceEv_changes.getTag tag.val
  have hseq : t.seq = s.seq + 1 := traceEv_changes .seq (by decide)
  have hslot : theSlot t a = issuedSlot (theSlot s a) rd (handleOf tag.val gen) c.op p tag.val := by
    refine (traceEv_changes.getSlot _ _).trans ((getSlot_modSlot ..).trans ?_)
    refine congrArg₂ (fun x v => issuedSlot x rd v c.op p tag.val) ?_ (congrArg (handleOf tag.val) ?_)
    · exact getSlot_modCore fun c => by cases a.slot <;> rfl
    · refine congrArg Tag.gen (Eq.trans ?_ htaken)
      exact modCore_changes.getTag tag.val
  rw [htag, htaken, hslot]
  exact ⟨by nofun, rfl, rfl, hseq, handleWritten_issuedSlot ..⟩

/-- A command that has all it needs takes its resources and arrives at its unit. -/
theorem issue_done {op : EngOp} {b : Block} {p : Plan} {w : Wew} {a : At} {tag : Fin 4096} {s : State} (rd : Reg) (ga gb addr : Nat)
    (h : Issues a p.claim tag s) :
    ∃ c, issue op b p rd ga gb addr w { tag := tag.val } a.core.val a.slot s
      = .done (arrive (claimAll s a.core.val a.slot rd w c p tag.val) tag.val c) := by
  obtain ⟨hrep, hstall, hfits⟩ := h
  unfold theSlot at hrep
  refine ⟨capture s a.core.val a.slot op b p ga gb addr, ?_⟩
  simp only [issue, replayed, hrep, hstall, hfits, Bool.not_true, Bool.false_eq_true, if_false]

theorem commandIssued_of_issue {w : Wew} {op : EngOp} {b : Block} {p : Plan} {a : At} {tag : Fin 4096} {s : State} {rd : Reg}
    {ga gb addr : Nat} (h : AtGate a w s) (hissues : Issues a p.claim tag s)
    (he : wewEffect w { tag := tag.val } a.core.val a.slot s
      = issue op b p rd ga gb addr w { tag := tag.val } a.core.val a.slot s) :
    ∃ t, commit w { tag := tag.val } a s = .next t ∧ CommandIssued a rd tag s t := by
  obtain ⟨c, hdone⟩ := issue_done (op := op) (b := b) (w := w) rd ga gb addr hissues
  refine ⟨_, commit_done h (he.trans hdone), ?_⟩
  obtain ⟨hst, hgen, howner, hseq, hslot⟩ := claimAll_issued a rd w c p tag s
  set u := claimAll s a.core.val a.slot rd w c p tag.val
  have harrives := (arrives_arrive u tag.val c).trans (arrives_afterCommit w a.core.val a.slot _)
  obtain ⟨kst, kgen, kowner⟩ := harrives.tenure.kept tag.val hst
  obtain ⟨hresult, hothers, hf, hpc⟩ := hslot.of_file (harrives.books.file a.core.val a.slot)
  refine ⟨kst, kgen.trans hgen, kowner.trans howner, fun hr => ?_, hothers, hf, hpc, ?_⟩
  · exact (congrArg BitVec.toNat (hresult hr)).trans (handleOf_toNat ..)
  · have hkept : Part.Kept u (afterCommit w a.core.val a.slot (arrive u tag.val c)) .seq :=
      Part.Kept.trans (arrive_changes .seq (by decide)) (afterCommit_changes .seq (by decide))
    exact Eq.trans hkept hseq

/-- Settles O22: each engine command past its checks issues, and its tag stays its own while it arrives at its unit. -/
theorem engineCommandsIssue : Obligations.EngineCommandsIssue := by
  intro a rd ra rb tag s
  refine ⟨fun op i hrow h ⟨p, hplan, hissues⟩ => ?_, fun k h hacc hissues => ?_, fun k h hls hhost hissues => ?_,
    fun h hls hissues => ?_⟩
  · obtain ⟨t, ht, hissued⟩ := commandIssued_of_issue h hissues (effBlock_legal rd tag.val hplan)
    exact ⟨t, (exec_of_blockRow hrow).trans ht, hissued⟩
  · exact commandIssued_of_issue (p := { claim := { xq := true, score := [(k.toNat, .write)] } }) h hissues (if_pos hacc)
  · exact commandIssued_of_issue (p := { claim := { parcel := true } }) h hissues (effPsend_checked _ hls hhost)
  · exact commandIssued_of_issue (p := {}) h hissues (effPrecv_checked _ hls)

end Sys2Proof.Machine

/-! PROOFS. The family of register accesses: the host's access to registers and configuration space. -/

namespace Sys2Proof.Machine

set_option Elab.async false

/-! ### The order of outputs (R473, R639) -/

/-- A part at its reset that has a link, and holds an output of a rank behind every rank that the model gives. -/
def lateOutput : State := { State.reset with host := { hostReset with linkUp := true, unqueued := [(3, .msix 0)] } }

/-- An answer of configuration space goes ahead of an output of a rank behind its own. -/
theorem posted_configRead_lateOutput {t : State}
    (h : exec (.readClearAccess (.config 0 .vendorId) 0 0) lateOutput = .next t) : posted t = [.cfgRetry 0, .msix 0] := by
  have hexec : exec (.readClearAccess (.config 0 .vendorId) 0 0) lateOutput = .next (enqueue lateOutput 2 (.cfgRetry 0)) := rfl
  rw [hexec] at h
  rw [← Host.Outcome.next.inj h]
  rfl

/-- Refutes O58: no state invariant bounds the ranks of the waiting outputs, and the answer to a configuration read goes ahead of
one whose rank is above 2 instead of behind everything put out before it. -/
theorem not_hostRegisterAccess : ¬ Obligations.HostRegisterAccess := by
  intro h
  obtain ⟨-, -, -, -, -, -, -, -, -, -, -, hconfig, -⟩ := h 0 0 0 0 0 0 [] false 0 0 .vendorId 0 .stationmaster lateOutput
  obtain ⟨t, ht, -, hhere⟩ := hconfig
  have hposted := (hhere rfl).2
  rw [posted_configRead_lateOutput ht] at hposted
  exact absurd hposted (by decide)

end Sys2Proof.Machine

/-! PROOFS. What a write leaves of the control registers, and what a register holds after a write by a requester that reaches it
(R11 to R15). -/

namespace Sys2Proof.Machine

set_option Elab.async false

/-! ### Control registers that stay -/

theorem SameRegsBut.of_eq {l : List Nat} {s t : State} (h : t.regs = s.regs) : SameRegsBut l s t := fun _ _ => by rw [h]

theorem SameRegsBut.trans {l : List Nat} {s t u : State} (h : SameRegsBut l s t) (k : SameRegsBut l t u) : SameRegsBut l s u :=
  fun a ha => (k a ha).trans (h a ha)

theorem SameRegsBut.ite {l : List Nat} {s t u : State} {c : Prop} [Decidable c] (h : SameRegsBut l s t) (k : SameRegsBut l s u) :
    SameRegsBut l s (if c then t else u) := by
  split
  · exact h
  · exact k

theorem SameRegsBut.mono {l m : List Nat} {s t : State} (h : SameRegsBut l s t) (hl : ∀ a ∈ l, a ∈ m) : SameRegsBut m s t :=
  fun a ha => h a fun h' => ha (hl a h')

theorem SameRegsBut.regVal {l : List Nat} {s t : State} (h : SameRegsBut l s t) {r : RegName} {u i j : Nat}
    (hr : regAddr r u i j ∉ l) : regVal t r u i j = regVal s r u i j := by
  unfold Machine.regVal
  rw [h _ hr]

theorem SameRegsBut.regFld {l : List Nat} {s t : State} (h : SameRegsBut l s t) {r : RegName} {u i j : Nat} (lsb w : Nat)
    (hr : regAddr r u i j ∉ l) : regFld t r u i j lsb w = regFld s r u i j lsb w := by
  unfold Machine.regFld
  rw [h.regVal hr]

theorem SameRegsBut.regBit {l : List Nat} {s t : State} (h : SameRegsBut l s t) {r : RegName} {u i j : Nat} (lsb : Nat)
    (hr : regAddr r u i j ∉ l) : regBit t r u i j lsb = regBit s r u i j lsb := by
  unfold Machine.regBit
  rw [h.regFld lsb 1 hr]

theorem sameRegs_setReg {s : State} {r : RegName} {u i j : Nat} {v : W64} :
    SameRegsBut [regAddr r u i j] s (setReg s r u i j v) := fun _ ha =>
  spGet_regs_setReg_ne s r u i j v (List.ne_of_not_mem_cons ha)

theorem Changes.sameRegs {m : List Part} {s t : State} (h : Changes m s t) (l : List Nat) (hm : Part.regs ∉ m := by decide) :
    SameRegsBut l s t := .of_eq (h .regs hm)

theorem onlyRegs_setReg (s : State) (r : RegName) (u i j : Nat) (v : W64) :
    OnlyRegs [regAddr r u i j] s (setReg s r u i j v) := ⟨rfl, sameRegs_setReg⟩

/-! ### The field laws for registers -/

theorem regFld_setReg (s : State) (r : RegName) (u i j : Nat) (v : W64) (lsb w : Nat) :
    regFld (setReg s r u i j v) r u i j lsb w = fGet v lsb w := by rw [regFld, regVal_setReg]

theorem regFld_setFld (s : State) (r : RegName) (u i j : Nat) {lsb w : Nat} (x : Nat) (h : lsb + w ≤ 64) :
    regFld (setFld s r u i j lsb w x) r u i j lsb w = x % 2 ^ w := by rw [setFld, regFld_setReg, fGet_fSet _ h]

theorem regBit_setFld (s : State) (r : RegName) (u i j : Nat) {lsb : Nat} (b : Bool) (h : lsb + 1 ≤ 64) :
    regBit (setFld s r u i j lsb 1 b.toNat) r u i j lsb = b := by
  rw [regBit, regFld_setFld _ _ _ _ _ _ h]
  cases b <;> rfl

/-! ### Records of the log (R624 to R627) -/

/-- The registers that a record may count in. -/
def logCounts : List Nat := [regAddr .logLost 0 0 0, regAddr .logCoalesced 0 0 0]

theorem sameRegs_postRec {s : State} {code : LogCode} {sev unitKind unitIdx : Nat} {ctx : Option Nat} {arg addr : Nat} :
    SameRegsBut logCounts s (postRec s code sev unitKind unitIdx ctx arg addr) := by
  have hlost (s : State) (n : Nat) : SameRegsBut logCounts s (bump s .logLost 0 0 0 n) :=
    sameRegs_setReg.mono (by simp [logCounts])
  have hmerged (s : State) (n : Nat) : SameRegsBut logCounts s (bump s .logCoalesced 0 0 0 n) :=
    sameRegs_setReg.mono (by simp [logCounts])
  have htrace (s : State) (unit data : Nat) : SameRegsBut logCounts s (traceEv s 3 unit none data) :=
    traceEv_changes.sameRegs _
  unfold postRec
  dsimp only
  split
  · exact .trans (.of_eq rfl) (hmerged _ _)
  · refine .trans ?_ (htrace _ _ _)
    split
    · exact .trans (.of_eq rfl) (hlost _ _)
    · exact .of_eq rfl

theorem sameRegs_post {s : State} {code : LogCode} {unitKind unitIdx : Nat} {ctx : Option Nat} {arg addr : Nat} :
    SameRegsBut logCounts s (post s code unitKind unitIdx ctx arg addr) := sameRegs_postRec

theorem spillOne_seq (l : LogSt) : (spillOne l).seq = l.seq := by
  have hrefill (l : LogSt) : (logRefill l).seq = l.seq := by
    unfold logRefill
    split
    · split <;> rfl
    · rfl
  have hadd (l : LogSt) (r : LogRec) : (spillAdd l r).seq = l.seq := by
    unfold spillAdd
    dsimp only
    split
    · rfl
    · split <;> rfl
  unfold spillOne
  split
  · rw [hrefill, hadd]
  · rfl

theorem logSpill_seq (on : Bool) (l : LogSt) : (logSpill on l).seq = l.seq := by
  unfold logSpill
  split
  · exact spillOne_seq l
  · rfl

theorem logEnter_seq (on : Bool) (l : LogSt) (r : LogRec) : (logEnter on l r).1.seq = l.seq := by
  unfold logEnter
  split
  · rw [logSpill_seq]
  · split
    · rw [logSpill_seq]
    · split
      · rfl
      · split <;> rfl

/-- A record that does not coalesce takes the next number (R625, R626). -/
theorem postRec_seq (s : State) (code : LogCode) {sev : Nat} (unitKind unitIdx : Nat) (ctx : Option Nat) (arg addr : Nat)
    (h : sev ≠ 1) : (postRec s code sev unitKind unitIdx ctx arg addr).log.seq = s.log.seq + 1 := by
  have htrace (s : State) (unit data : Nat) : (traceEv s 3 unit none data).log = s.log :=
    traceEv_changes .log (by decide)
  have hsev : (sev == 1) = false := by simp [h]
  unfold postRec
  simp only [hsev, Bool.false_eq_true, if_false]
  rw [htrace]
  split <;> split <;> exact logEnter_seq ..

theorem post_seq (s : State) (code : LogCode) (unitKind unitIdx : Nat) (ctx : Option Nat) (arg addr : Nat)
    (h : logSev code ≠ 1 := by decide) : (post s code unitKind unitIdx ctx arg addr).log.seq = s.log.seq + 1 :=
  postRec_seq s code unitKind unitIdx ctx arg addr h

/-! ### Fields of a written register (R11, R13) -/

theorem fGet_eq_extractLsb' (v : W64) (lsb w : Nat) : fGet v lsb w = (v.extractLsb' lsb w).toNat := by
  rw [fGet, BitVec.extractLsb'_toNat]

/-- A field within a mask takes the written bits. -/
theorem fGet_maskIn (old new mask : W64) {lsb w : Nat} (h : ∀ k < w, mask.getLsbD (lsb + k) = true) :
    fGet (maskIn old new mask) lsb w = fGet new lsb w := by
  rw [fGet_eq_extractLsb', fGet_eq_extractLsb']
  congr 1
  refine BitVec.eq_of_getLsbD_eq fun k hk => ?_
  simp only [maskIn, BitVec.getLsbD_extractLsb', hk, decide_true, Bool.true_and, BitVec.getLsbD_or, BitVec.getLsbD_and,
    BitVec.getLsbD_not, h k hk, Bool.not_true, Bool.and_false, Bool.false_or, Bool.and_true]

theorem fGet_and_mask (v mask : W64) {lsb w : Nat} (h : ∀ k < w, mask.getLsbD (lsb + k) = true) :
    fGet (v &&& mask) lsb w = fGet v lsb w := by
  rw [fGet_eq_extractLsb', fGet_eq_extractLsb']
  congr 1
  refine BitVec.eq_of_getLsbD_eq fun k hk => ?_
  simp only [BitVec.getLsbD_extractLsb', hk, decide_true, Bool.true_and, BitVec.getLsbD_and, h k hk, Bool.and_true]

end Sys2Proof.Machine

/-! PROOFS. The family of register accesses: whole writes of one register, and the rows of the registers that act or refuse when they
are written. -/

namespace Sys2Proof.Machine

set_option Elab.async false

/-! ### A whole write by a requester that reaches the register (R711) -/

/-- The bits that a whole write of a register covers. -/
def wholeMask (r : RegName) : W64 := if (regInfo r).wide then BitVec.allOnes 64 else 0xFFFFFFFF#64

/-- The bits of a register that take the written value. -/
def takesMask (r : RegName) : W64 := fieldMask r (fun a => a == .rw || a == .rwl) &&& wholeMask r

/-- A register with its writable fields as a whole write would leave them. -/
def newValue (s : State) (r : RegName) (u i j : Nat) (v : W64) : W64 :=
  maskIn (regVal s r u i j) (v &&& wholeMask r) (takesMask r)

theorem leNat_leBytes (k n : Nat) : leNat (leBytes k n) = n % 2 ^ (8 * k) := by
  induction k generalizing n with
  | zero => simp [leBytes, leNat, Nat.mod_one]
  | succ k ih =>
    rw [leBytes, leNat, ih, BitVec.toNat_ofNat, Nat.mul_add, Nat.pow_add, Nat.mul_comm (2 ^ (8 * k)),
      show (2 : Nat) ^ (8 * 1) = 256 from rfl, Nat.mod_mul]

/-- A register that the host may not be turned away from, of a block that is there, and that a write acts on. -/
structure Open (s : State) (r : RegName) (u i : Nat) : Prop where
  here : regHere s r u i = true
  taken : hostDenied r = none
  stored : r ≠ .dbgLsdata
  writable : writable r = true

/-- A block that every variant has. -/
theorem Open.of_block {s : State} {r : RegName} {u i : Nat} (hblk : (regInfo r).blk ≠ .kl) (hport : r ≠ .jnPortmap)
    (htaken : hostDenied r = none) (hstored : r ≠ .dbgLsdata) (hw : Machine.writable r = true) : Open s r u i :=
  ⟨by simp [regHere, hblk, hport], htaken, hstored, hw⟩

theorem ofNat_mod_two_pow_32 (v : W64) : BitVec.ofNat 64 (v.toNat % 2 ^ 32) = v &&& 0xFFFFFFFF#64 := by
  refine BitVec.eq_of_toNat_eq ?_
  rw [BitVec.toNat_ofNat, BitVec.toNat_and, show (0xFFFFFFFF#64).toNat = 2 ^ 32 - 1 from rfl, Nat.and_two_pow_sub_one_eq_mod]
  omega

/-- The bytes of a whole write are the value within the mask. -/
theorem writeReg_whole {s : State} {r : RegName} {u i : Nat} (who : Requester) (j : Nat) (v : W64) (h : Open s r u i) :
    writeReg s who r u i j 0 (leBytes (if (regInfo r).wide then 8 else 4) v.toNat)
      = regWrite s who r u i j (v &&& wholeMask r) (wholeMask r) := by
  obtain ⟨hhere, htaken, hstored, hwritable⟩ := h
  have hdenied : (if isSm who then none else hostDenied r) = none := by rw [htaken, ite_self]
  simp only [writeReg, hhere, hdenied, hstored, hwritable, Bool.not_true, Bool.false_eq_true, if_false, if_true, leBytes_length,
    leNat_leBytes, Nat.mul_zero, Nat.pow_zero, Nat.mul_one]
  by_cases hwide : (regInfo r).wide = true
  · have hval : BitVec.ofNat 64 (v.toNat % 2 ^ (8 * 8)) = v := by
      rw [Nat.mod_eq_of_lt v.isLt, BitVec.ofNat_toNat, BitVec.setWidth_eq]
    have hmask : BitVec.ofNat 64 (2 ^ (8 * 8) - 1) = BitVec.allOnes 64 := rfl
    simp only [wholeMask, hwide, if_true, hval, hmask, BitVec.and_allOnes]
  · have hmask : BitVec.ofNat 64 (2 ^ (8 * 4) - 1) = 0xFFFFFFFF#64 := rfl
    simp only [wholeMask, hwide, if_false, hmask, show 8 * 4 = 32 from rfl, ofNat_mod_two_pow_32, Bool.false_eq_true]

/-- A whole write that is not refused acts with the new value; one out of range is refused with a record. -/
theorem writeWhole_eq {s : State} {who : Requester} {r : RegName} {u i j : Nat} (v : W64)
    (hr : reaches s who (regAddr r u i j) = true) (hf : fnOfWho who = 0) (h : Open s r u i) :
    writeWhole s who r u i j v
      = if ownRule s r i j (newValue s r u i j v) || rangeOk s r (newValue s r u i j v) then
          applyWrite s who r u i j (v &&& wholeMask r) (wholeMask r) (newValue s r u i j v)
        else refuseAt s .rangeRefused who r u i j := by
  have hand : v &&& wholeMask r &&& wholeMask r = v &&& wholeMask r := by rw [BitVec.and_assoc, BitVec.and_self]
  simp only [writeWhole, hr, hf, Bool.not_true, Bool.false_eq_true, if_false, if_true]
  rw [writeReg_whole who j v h]
  simp only [regWrite, hand]
  rfl

theorem writeWhole_unreached {s : State} {who : Requester} {r : RegName} {u i j : Nat} (v : W64)
    (hr : reaches s who (regAddr r u i j) = false) : writeWhole s who r u i j v = s := by
  simp only [writeWhole, hr, Bool.not_false, if_true]

/-- A field that takes the written bits. -/
theorem fGet_newValue (s : State) (r : RegName) (u i j : Nat) (v : W64) {lsb w : Nat}
    (h : ∀ k < w, (takesMask r).getLsbD (lsb + k) = true) : fGet (newValue s r u i j v) lsb w = fGet v lsb w := by
  have hwhole : ∀ k < w, (wholeMask r).getLsbD (lsb + k) = true := fun k hk => by
    have htakes := h k hk
    rw [takesMask, BitVec.getLsbD_and, Bool.and_eq_true] at htakes
    exact htakes.2
  rw [newValue, fGet_maskIn _ _ _ h, fGet_and_mask _ _ hwhole]

theorem fGet_setWidth (v : W32) {lsb w : Nat} : fGet (v.setWidth 64) lsb w = v.toNat / 2 ^ lsb % 2 ^ w := by
  rw [fGet_eq, BitVec.toNat_setWidth_of_le (by decide)]

/-! ### SEQ_TAGQUOTA (R112) -/

theorem quotaWrite_fits {s : State} {n q : Nat}
    (h : 1 ≤ q ∧ q ≤ 48 ∧ ((List.range 160).map fun m => if m = n then 0 else regFld s .seqTagquota 0 m 0 0 6).sum + q ≤ 3840) :
    quotaWrite s n q = setReg s .seqTagquota 0 n 0 (BitVec.ofNat 64 q) := if_pos (by simpa [and_assoc] using h)

theorem quotaWrite_refused {s : State} {n q : Nat}
    (h : ¬(1 ≤ q ∧ q ≤ 48 ∧ ((List.range 160).map fun m => if m = n then 0 else regFld s .seqTagquota 0 m 0 0 6).sum + q ≤ 3840)) :
    quotaWrite s n q = post s .quotaRefused 0 0 none 0 0 := if_neg (by simpa [and_assoc] using h)

theorem tagquota_notMem_logCounts {m : Nat} (hm : m < 160) : regAddr .seqTagquota 0 m 0 ∉ logCounts := by
  simp only [logCounts, regAddr, regInfo, blkBase, List.mem_cons, List.not_mem_nil, or_false]
  omega

/-- Settles O56: a quota within the limits is stored, any other leaves a record. -/
theorem quotaWrites : Obligations.QuotaWrites := by
  intro who logical value s q others fits hr hf
  have hopen : Open s .seqTagquota 0 logical.val := .of_block (by decide) (by decide) rfl (by decide) (by decide)
  have hfield : fGet (newValue s .seqTagquota 0 logical.val 0 (value.setWidth 64)) 0 6 = q := by
    rw [fGet_newValue _ _ _ _ _ _ (by decide), fGet_setWidth]
    exact congrArg (· % 2 ^ 6) (Nat.div_one _)
  have hwrite : writeWhole s who .seqTagquota 0 logical.val 0 (value.setWidth 64) = quotaWrite s logical.val q :=
    (writeWhole_eq _ hr hf hopen).trans (congrArg (quotaWrite s logical.val) hfield)
  refine ⟨_, rfl, fun hfits => ?_, fun hfits => ?_⟩ <;> rw [hwrite]
  · rw [quotaWrite_fits hfits]
    refine ⟨?_, onlyRegs_setReg ..⟩
    have hq : q < 64 := Nat.mod_lt _ (by decide)
    rw [regFld_setReg, fGet_eq, BitVec.toNat_ofNat]
    omega
  · rw [quotaWrite_refused hfits]
    exact ⟨fun m hm => sameRegs_post.regVal (tagquota_notMem_logCounts hm), rfl⟩

/-! ### Rows that store, act or refuse -/

/-- A row that is one whole write: a requester that does not reach the register changes nothing. -/
theorem completes_writeWhole {i : Instr} {s : State} {who : Requester} {r : RegName} {u k j : Nat} {v : W64} {P : State → Prop}
    (he : exec i s = .next (writeWhole s who r u k j v))
    (hP : reaches s who (regAddr r u k j) = true → fnOfWho who = 0 → P (writeWhole s who r u k j v)) :
    Completes i s fun t => (reaches s who (regAddr r u k j) = false → t = s)
      ∧ (reaches s who (regAddr r u k j) = true → fnOfWho who = 0 → P t) :=
  ⟨_, he, writeWhole_unreached v, hP⟩

/-- A register that only stores takes the new value. -/
theorem writeWhole_stores {s : State} {who : Requester} {r : RegName} {u i j : Nat} (v : W64)
    (hr : reaches s who (regAddr r u i j) = true) (hf : fnOfWho who = 0) (h : Open s r u i)
    (hok : rangeOk s r (newValue s r u i j v) = true)
    (hact : applyWrite s who r u i j (v &&& wholeMask r) (wholeMask r) (newValue s r u i j v)
      = setReg s r u i j (newValue s r u i j v)) :
    writeWhole s who r u i j v = setReg s r u i j (newValue s r u i j v) := by
  rw [writeWhole_eq v hr hf h, hok, Bool.or_true, if_pos rfl, hact]

theorem plainWrite_stores {r : RegName} (h : fieldMask r (· == .w1c) = 0#64) (s : State) (u i j : Nat) (new written mask : W64) :
    plainWrite s r u i j new written mask = setReg s r u i j new := by
  simp only [plainWrite, h, BitVec.zero_and, BitVec.not_zero, BitVec.and_allOnes]

theorem regFld_stored (s : State) (r : RegName) (u i j : Nat) (v : W64) {lsb w : Nat}
    (h : ∀ k < w, (takesMask r).getLsbD (lsb + k) = true) :
    regFld (setReg s r u i j (newValue s r u i j v)) r u i j lsb w = fGet v lsb w := by
  rw [regFld_setReg, fGet_newValue _ _ _ _ _ _ h]

theorem fGet_bit (v : W64) (k : Nat) : (fGet v k 1 == 1) = v.getLsbD k := by
  rw [fGet_eq, BitVec.getLsbD, Nat.testBit_eq_decide_div_mod_eq, pow_one]
  rfl

/-- A refused write leaves the register and takes a record. -/
theorem refuseReg_leaves {s : State} {code : LogCode} {r : RegName} {u i j : Nat} (k : Nat) (ctx : Option Nat)
    (hr : regAddr r u i j ∉ logCounts) (hsev : logSev code ≠ 1 := by decide) :
    regVal (refuseReg s code r k ctx) r u i j = regVal s r u i j ∧ (refuseReg s code r k ctx).log.seq = s.log.seq + 1 :=
  ⟨sameRegs_post.regVal hr, post_seq _ _ _ _ _ _ _ hsev⟩

theorem refuseAt_leaves {s : State} {code : LogCode} {who : Requester} {r : RegName} {u i j : Nat}
    (hr : regAddr r u i j ∉ logCounts) (hsev : logSev code ≠ 1 := by decide) :
    regVal (refuseAt s code who r u i j) r u i j = regVal s r u i j
      ∧ (refuseAt s code who r u i j).log.seq = s.log.seq + 1 :=
  ⟨sameRegs_post.regVal hr, post_seq _ _ _ _ _ _ _ hsev⟩

/-! ### SEQ_EXPRESS (R126) -/

theorem applyExpress_busy {s : State} {n : Nat}
    (h : slotBusy (getCore s n).bulk = true ∨ slotBusy (getCore s n).express = true) : applyExpress s n = s := by
  unfold applyExpress
  dsimp only
  split
  · rfl
  · rw [if_pos (by simpa using h)]

theorem applyExpress_idle {s : State} {n : Nat} {b : Bool} (hp : (getCore s n).expressPend = some b)
    (hb : slotBusy (getCore s n).bulk = false) (hx : slotBusy (getCore s n).express = false) :
    (getCore (applyExpress s n) n).expressEn = b ∧ (getCore (applyExpress s n) n).expressPend = none := by
  unfold applyExpress
  simp only [hp, hb, hx, Bool.or_self, Bool.false_eq_true, if_false]
  split
  · next h =>
    rw [getCore_setCore]
    exact ⟨(beq_iff_eq.1 h).symm, rfl⟩
  · rw [getCore_setCore]
    exact ⟨rfl, rfl⟩

theorem getCore_applyExpress_ne (s : State) {n m : Nat} (h : m ≠ n) : getCore (applyExpress s n) m = getCore s m := by
  obtain e | ⟨c, e, -⟩ := applyExpress_cases s n <;> rw [e]
  rw [getCore_setCore_ne _ _ h]

theorem getCore_expressWrite_ne (s : State) (en : Bool) {p m : Nat} (h : m ≠ p) :
    getCore (expressWrite s p en) m = getCore s m := by
  rw [expressWrite, getCore_applyExpress_ne _ h, getCore_modCore_ne _ _ h]

theorem expressWrite_busy {s : State} {p : Nat} (en : Bool)
    (h : slotBusy (getCore s p).bulk = true ∨ slotBusy (getCore s p).express = true) :
    getCore (expressWrite s p en) p = { getCore s p with expressPend := some en } := by
  rw [expressWrite, applyExpress_busy (by rw [getCore_modCore]; exact h), getCore_modCore]

theorem expressWrite_idle {s : State} {p : Nat} (en : Bool) (hb : slotBusy (getCore s p).bulk = false)
    (hx : slotBusy (getCore s p).express = false) :
    (getCore (expressWrite s p en) p).expressEn = en ∧ (getCore (expressWrite s p en) p).expressPend = none :=
  applyExpress_idle (by rw [getCore_modCore]) (by rw [getCore_modCore]; exact hb) (by rw [getCore_modCore]; exact hx)

/-! ### The fault ring (R434, R435) -/

theorem sameRegs_frPut {rs : List FaultRec} {s : State} : SameRegsBut [regAddr .xlFrtail 0 0 0] s (frPut s rs) := by
  induction rs generalizing s with
  | nil => exact .of_eq rfl
  | cons r rs ih =>
    rw [frPut]
    exact .trans (.trans (emitEntry_changes.sameRegs _) sameRegs_setReg) ih

theorem sameRegs_frFlush {fuel : Nat} {s : State} : SameRegsBut [regAddr .xlFrtail 0 0 0] s (frFlush fuel s) := by
  induction fuel generalizing s with
  | zero => exact .of_eq rfl
  | succ fuel ih =>
    rw [frFlush]
    split
    · exact .of_eq rfl
    · refine .ite (.of_eq rfl) ?_
      have hput (rs : List FaultRec) (v : Nat) :
          SameRegsBut [regAddr .xlFrtail 0 0 0] s (if v ≤ 31 then sendVector (frPut s rs) v else frPut s rs) :=
        .ite (.trans sameRegs_frPut (sendVector_changes.sameRegs _)) sameRegs_frPut
      exact .ite (.trans (.trans (hput _ _) (.of_eq rfl)) ih) (.trans (hput _ _) (.of_eq rfl))

theorem sameRegs_frService {s : State} : SameRegsBut [regAddr .xlFrtail 0 0 0] s (frService s) := sameRegs_frFlush

theorem frService_of_none {s : State} (h : s.batchHeld = []) : frService s = s := by
  rw [frService, h]
  rfl

/-! ### The rows of Table 3.9, 7.6, 10.10, 11.12 and 12.9 -/

theorem getSlice_modSlice (s : State) (i : Nat) (f : Slice → Slice) : getSlice (modSlice s i f) i = f (getSlice s i) :=
  spGet_set ..

section Rows
variable {s : State} {who : Requester}

theorem writeWhole_seqExpress {n : Nat} (value : W32) (hr : reaches s who (regAddr .seqExpress n 0 0) = true)
    (hf : fnOfWho who = 0) :
    writeWhole s who .seqExpress n 0 0 (value.setWidth 64) = expressWrite s n (value.getLsbD 0) := by
  refine (writeWhole_eq _ hr hf (.of_block (by decide) (by decide) rfl (by decide) (by decide))).trans ?_
  refine congrArg (expressWrite s n) ?_
  rw [fGet_newValue _ _ _ _ _ _ (by decide), fGet_bit, BitVec.getLsbD_setWidth]
  rfl

theorem writeWhole_rcSalt {i : Nat} (value : W32) (hr : reaches s who (regAddr .rcSalt i 0 0) = true)
    (hf : fnOfWho who = 0) :
    writeWhole s who .rcSalt i 0 0 (value.setWidth 64) = saltWrite s i (value.toNat % 2 ^ 13) := by
  refine (writeWhole_eq _ hr hf (.of_block (by decide) (by decide) rfl (by decide) (by decide))).trans ?_
  refine congrArg (saltWrite s i) ?_
  rw [fGet_newValue _ _ _ _ _ _ (by decide), fGet_setWidth, pow_zero, Nat.div_one]

theorem writeWhole_rcLfsr {i : Nat} (value : W32) (hr : reaches s who (regAddr .rcLfsr i 0 0) = true)
    (hf : fnOfWho who = 0) :
    writeWhole s who .rcLfsr i 0 0 (value.setWidth 64) = lfsrWrite s i (value.setWidth 16) := by
  refine (writeWhole_eq _ hr hf (.of_block (by decide) (by decide) rfl (by decide) (by decide))).trans ?_
  refine congrArg (lfsrWrite s i) (BitVec.eq_of_toNat_eq ?_)
  have hfield := fGet_newValue s .rcLfsr i 0 0 (value.setWidth 64) (lsb := 0) (w := 16) (by decide)
  rw [fGet_eq, fGet_setWidth, pow_zero, Nat.div_one, Nat.div_one] at hfield
  rw [BitVec.toNat_setWidth, BitVec.toNat_setWidth, hfield]

/-- A register of a block that every variant has, whose write only stores. -/
theorem writeWhole_plain {r : RegName} {u i j : Nat} (v : W64) (hr : reaches s who (regAddr r u i j) = true)
    (hf : fnOfWho who = 0) (h : Open s r u i) (hok : ∀ x, rangeOk s r x = true)
    (hact : ∀ written mask new, applyWrite s who r u i j written mask new = setReg s r u i j new) :
    writeWhole s who r u i j v = setReg s r u i j (newValue s r u i j v) :=
  writeWhole_stores v hr hf h (hok _) (hact _ _ _)

/-- What a stored register holds, and that no other changes. -/
theorem stored_onlyRegs {r : RegName} {u i j : Nat} (v : W64) {lsb w : Nat}
    (h : ∀ k < w, (takesMask r).getLsbD (lsb + k) = true) :
    regFld (setReg s r u i j (newValue s r u i j v)) r u i j lsb w = fGet v lsb w
      ∧ OnlyRegs [regAddr r u i j] s (setReg s r u i j (newValue s r u i j v)) :=
  ⟨regFld_stored s r u i j v h, onlyRegs_setReg ..⟩

theorem writeWhole_rmuMtreg {c : Nat} (wide : W64) (hr : reaches s who (regAddr .rmuMtreg 0 c 0) = true) (hf : fnOfWho who = 0) :
    writeWhole s who .rmuMtreg 0 c 0 wide
      = if windowOpen s c || decide (wide.toNat % 128 ≤ 64) then
          (if windowOpen s c then refuseReg s .mtregBusy .rmuMtreg 0 (some c)
           else setReg s .rmuMtreg 0 c 0 (newValue s .rmuMtreg 0 c 0 wide))
        else refuseAt s .rangeRefused who .rmuMtreg 0 c 0 := by
  have hfield : fGet (newValue s .rmuMtreg 0 c 0 wide) 0 7 = wide.toNat % 128 := by
    rw [fGet_newValue _ _ _ _ _ _ (by decide), fGet_eq, pow_zero, Nat.div_one]
    rfl
  refine (writeWhole_eq _ hr hf (.of_block (by decide) (by decide) rfl (by decide) (by decide))).trans ?_
  rw [← hfield]
  rfl

theorem writeWhole_xlCtxbind {c : Nat} (wide : W64) (hr : reaches s who (regAddr .xlCtxbind 0 c 0) = true) (hf : fnOfWho who = 0) :
    writeWhole s who .xlCtxbind 0 c 0 wide
      = if ctxWorks s c then refuseReg s .xlBusy .xlCtxbind 0 (some c)
        else setReg s .xlCtxbind 0 c 0 (newValue s .xlCtxbind 0 c 0 wide) :=
  writeWhole_eq _ hr hf (.of_block (by decide) (by decide) rfl (by decide) (by decide))

theorem writeWhole_window {r : RegName} {c w : Nat} (wide : W64) (h : r ∈ [RegName.xlIwctl, .xlIwlen, .xlIwbase, .xlIwbox])
    (hr : reaches s who (regAddr r 0 c w) = true) (hf : fnOfWho who = 0) :
    writeWhole s who r 0 c w wide = windowWrite s r c w (newValue s r 0 c w wide) := by
  simp only [List.mem_cons, List.not_mem_nil, or_false] at h
  obtain rfl | rfl | rfl | rfl := h <;>
    exact writeWhole_eq _ hr hf (.of_block (by decide) (by decide) rfl (by decide) (by decide))

/-- A window register takes its value, and the earlier one still stands for 64 cycles (R452). -/
theorem windowWrite_takes {r : RegName} {c w : Nat} (wide : W64) {lsb n : Nat}
    (h : ∀ k < n, (takesMask r).getLsbD (lsb + k) = true) :
    let t := windowWrite s r c w (newValue s r 0 c w wide)
    regFld t r 0 c w lsb n = fGet wide lsb n ∧ OnlyRegs [regAddr r 0 c w] s { t with winOld := s.winOld }
      ∧ t.winOld = s.winOld ++ [(regAddr r 0 c w, regVal s r 0 c w, 64)] :=
  ⟨(regFld_setReg ..).trans (fGet_newValue _ _ _ _ _ _ h), ⟨rfl, sameRegs_setReg (s := s)⟩, rfl⟩

/-- The two registers that no valid context may be bound by (R418). -/
theorem writeWhole_xlBase {mirror : Bool} (wide : W64)
    (hr : reaches s who (regAddr (if mirror then RegName.xlMirror else .xlSegtbase) 0 0 0) = true) (hf : fnOfWho who = 0) :
    writeWhole s who (if mirror then .xlMirror else .xlSegtbase) 0 0 0 wide
      = xlBaseWrite s who (if mirror then .xlMirror else .xlSegtbase) wide
          (newValue s (if mirror then .xlMirror else .xlSegtbase) 0 0 0 wide) := by
  have hall : wide &&& BitVec.allOnes 64 = wide := BitVec.and_allOnes
  cases mirror with
  | true =>
    refine (writeWhole_eq _ hr hf (.of_block (by decide) (by decide) rfl (by decide) (by decide))).trans ?_
    exact congrArg (fun v => xlBaseWrite s who .xlMirror v _) hall
  | false =>
    refine (writeWhole_eq _ hr hf (.of_block (by decide) (by decide) rfl (by decide) (by decide))).trans ?_
    exact congrArg (fun v => xlBaseWrite s who .xlSegtbase v _) hall

theorem writeWhole_faultRing {r : RegName} (v : W64) (h : r = .xlFrhead ∨ r = .xlFrbase)
    (hr : reaches s who (regAddr r 0 0 0) = true) (hf : fnOfWho who = 0) :
    writeWhole s who r 0 0 0 v = frService (setReg s r 0 0 0 (newValue s r 0 0 0 v)) := by
  obtain rfl | rfl := h <;> exact writeWhole_eq _ hr hf (.of_block (by decide) (by decide) rfl (by decide) (by decide))

end Rows

theorem rmuMtreg_notMem_logCounts {c : Nat} (hc : c < 64) : regAddr .rmuMtreg 0 c 0 ∉ logCounts := by
  simp only [logCounts, regAddr, regInfo, blkBase, List.mem_cons, List.not_mem_nil, or_false]
  omega

theorem xlCtxbind_notMem_logCounts {c : Nat} (hc : c < 64) : regAddr .xlCtxbind 0 c 0 ∉ logCounts := by
  simp only [logCounts, regAddr, regInfo, blkBase, List.mem_cons, List.not_mem_nil, or_false]
  omega

/-- A merge table entry is refused while its context has an open window, or with a size out of range (R314, R15). -/
theorem rmuMtreg_row {s : State} {who : Requester} {c : Nat} (wide : W64) (hc : c < 64)
    (hr : reaches s who (regAddr .rmuMtreg 0 c 0) = true) (hf : fnOfWho who = 0) :
    let t := writeWhole s who .rmuMtreg 0 c 0 wide
    (64 < wide.toNat % 128 ∨ windowOpen s c = true →
        regVal t .rmuMtreg 0 c 0 = regVal s .rmuMtreg 0 c 0 ∧ t.log.seq = s.log.seq + 1)
      ∧ (wide.toNat % 128 ≤ 64 → windowOpen s c = false → regFld t .rmuMtreg 0 c 0 0 7 = wide.toNat % 128
          ∧ regFld t .rmuMtreg 0 c 0 12 28 = wide.toNat / 2 ^ 12 % 2 ^ 28 ∧ OnlyRegs [regAddr .rmuMtreg 0 c 0] s t) := by
  intro t
  have ht : t = _ := writeWhole_rmuMtreg wide hr hf
  clear_value t
  subst ht
  refine ⟨fun hbad => ?_, fun hsize hclosed => ?_⟩
  · by_cases hopen : windowOpen s c = true
    · rw [if_pos (by simp [hopen]), if_pos hopen]
      exact refuseReg_leaves _ _ (rmuMtreg_notMem_logCounts hc)
    · have hsize : ¬wide.toNat % 128 ≤ 64 := by
        have := hbad.resolve_right hopen
        omega
      rw [if_neg (by simp [hopen, hsize])]
      exact refuseAt_leaves (rmuMtreg_notMem_logCounts hc)
  · rw [if_pos (by simp [hsize]), if_neg (by simp [hclosed])]
    refine ⟨(regFld_stored _ _ _ _ _ _ (by decide)).trans ?_, (regFld_stored _ _ _ _ _ _ (by decide)).trans (fGet_eq ..),
      onlyRegs_setReg ..⟩
    rw [fGet_eq, pow_zero, Nat.div_one]
    rfl

/-- A context's binding is refused while the context has work (R406). -/
theorem xlCtxbind_row {s : State} {who : Requester} {c : Nat} (wide : W64) (hc : c < 64)
    (hr : reaches s who (regAddr .xlCtxbind 0 c 0) = true) (hf : fnOfWho who = 0) :
    let t := writeWhole s who .xlCtxbind 0 c 0 wide
    (ctxWorks s c = true → regVal t .xlCtxbind 0 c 0 = regVal s .xlCtxbind 0 c 0 ∧ t.log.seq = s.log.seq + 1)
      ∧ (ctxWorks s c = false → ctxValid t c = wide.getLsbD 0 ∧ fnOf t c = wide.toNat / 2 % 64
          ∧ OnlyRegs [regAddr .xlCtxbind 0 c 0] s t) := by
  intro t
  have ht : t = _ := writeWhole_xlCtxbind wide hr hf
  clear_value t
  subst ht
  refine ⟨fun hworks => ?_, fun hfree => ?_⟩
  · rw [if_pos hworks]
    exact refuseReg_leaves _ _ (xlCtxbind_notMem_logCounts hc)
  · rw [if_neg (by simp [hfree])]
    refine ⟨?_, (regFld_stored _ _ _ _ _ _ (by decide)).trans (fGet_eq ..), onlyRegs_setReg ..⟩
    rw [ctxValid, regBit, regFld_stored _ _ _ _ _ _ (by decide), fGet_bit]

/-- The segment table's base and the mirror are refused while a context is valid, and a base that is not one (R418). -/
theorem xlBaseWrite_row {s : State} {who : Requester} {mirror : Bool} (wide : W64) :
    let r : RegName := if mirror then .xlMirror else .xlSegtbase
    let t := xlBaseWrite s who r wide (newValue s r 0 0 0 wide)
    let base := wide.toNat / 2 ^ 15 % 2 ^ 25
    let bad : Prop := anyValid s = true
      ∨ mirror = false ∧ (wide.toNat % 2 ^ 15 ≠ 0 ∨ installed s.variant < base * 2 ^ 15 + 2 ^ 15)
    (bad → regVal t r 0 0 0 = regVal s r 0 0 0 ∧ t.log.seq = s.log.seq + 1)
      ∧ (¬bad → OnlyRegs [regAddr r 0 0 0] s t
        ∧ (if mirror = true then regFld t r 0 0 0 15 49 = wide.toNat / 2 ^ 15 else regFld t r 0 0 0 15 25 = base)) := by
  intro r t base bad
  have hbase : fGet (newValue s .xlSegtbase 0 0 0 wide) 15 25 = base := by
    rw [fGet_newValue _ _ _ _ _ _ (by decide), fGet_eq]
  have hlow : fGet wide 0 15 = wide.toNat % 2 ^ 15 := by rw [fGet_eq, pow_zero, Nat.div_one]
  have hr : regAddr r 0 0 0 ∉ logCounts := by cases mirror <;> decide
  have hsegt : segtOk s wide (newValue s .xlSegtbase 0 0 0 wide) = true
      ↔ wide.toNat % 2 ^ 15 = 0 ∧ base * 2 ^ 15 + 2 ^ 15 ≤ installed s.variant := by
    simp only [segtOk, hbase, hlow, Bool.and_eq_true, beq_iff_eq, decide_eq_true_eq]
  refine ⟨fun hbad => ?_, fun hgood => ?_⟩
  · by_cases hvalid : anyValid s = true
    · rw [show t = refuseReg s .xlBusy r 0 none from if_pos hvalid]
      exact refuseReg_leaves _ _ hr
    · obtain ⟨rfl, hbase'⟩ := hbad.resolve_left hvalid
      have hsegt' : segtOk s wide (newValue s .xlSegtbase 0 0 0 wide) = false := by
        rw [← Bool.not_eq_true, hsegt]
        omega
      rw [show t = refuseAt s .rangeRefused who .xlSegtbase 0 0 0 from
        (if_neg hvalid).trans (if_pos (congrArg (fun b => true && !b) hsegt'))]
      exact refuseAt_leaves hr
  · have hvalid : ¬anyValid s = true := fun h => hgood (.inl h)
    have hstored : t = setReg s r 0 0 0 (newValue s r 0 0 0 wide) := by
      refine (if_neg hvalid).trans ?_
      cases mirror with
      | true => rfl
      | false =>
        have hsegt' := hsegt.2 ⟨by_contra fun h => hgood (.inr ⟨rfl, .inl h⟩), by_contra fun h => hgood (.inr ⟨rfl, .inr (by omega)⟩)⟩
        exact if_neg (Bool.eq_false_iff.1 (congrArg (fun b => true && !b) hsegt'))
    rw [hstored]
    refine ⟨onlyRegs_setReg .., ?_⟩
    cases mirror with
    | true =>
      refine (regFld_stored _ _ _ _ _ _ (by decide)).trans ((fGet_eq ..).trans (Nat.mod_eq_of_lt ?_))
      have := wide.isLt
      omega
    | false => exact (regFld_stored _ _ _ _ _ _ (by decide)).trans (fGet_eq ..)

/-- The fault ring's registers take their value, and the ring takes what fits (R434, R435). -/
theorem faultRing_row {s : State} {r : RegName} (v : W64) {lsb w : Nat} (h : r = .xlFrhead ∨ r = .xlFrbase)
    (hw : ∀ k < w, (takesMask r).getLsbD (lsb + k) = true) :
    let t := frService (setReg s r 0 0 0 (newValue s r 0 0 0 v))
    regFld t r 0 0 0 lsb w = fGet v lsb w ∧ PlatformKept s t ∧ (s.batchHeld = [] → OnlyRegs [regAddr r 0 0 0] s t) := by
  intro t
  have htail : regAddr r 0 0 0 ∉ [regAddr .xlFrtail 0 0 0] := by obtain rfl | rfl := h <;> decide
  refine ⟨(sameRegs_frService.regFld _ _ htail).trans (regFld_stored _ _ _ _ _ _ hw), ?_, fun hnone => ?_⟩
  · exact Changes.platformKept (l := [.xlate, .host, .regs]) (.comp (.of setReg_changes) frService_changes)
  · rw [show t = _ from frService_of_none hnone]
    exact onlyRegs_setReg ..

/-- Settles O57: each row is one whole write, and acts or refuses by its own rule. -/
theorem registerRows : Obligations.RegisterRows := by
  intro who core slice ctx k w value wide s wrote n c low same window held
  have hc : c < 64 := ctx.isLt
  have hlow (m : Nat) : fGet (value.setWidth 64) 0 m = low m := by
    rw [fGet_setWidth, pow_zero, Nat.div_one]
  have hstore (r : RegName) (i : Nat) (h : r = .rcClassmask ∨ r = .rcReserve ∨ r = .dspLdev) (v : W64)
      (hr : reaches s who (regAddr r 0 i 0) = true) (hf : fnOfWho who = 0) :
      writeWhole s who r 0 i 0 v = setReg s r 0 i 0 (newValue s r 0 i 0 v) := by
    obtain rfl | rfl | rfl := h <;>
      exact writeWhole_plain v hr hf (.of_block (by decide) (by decide) rfl (by decide) (by decide)) (fun _ => rfl)
        fun written mask new => plainWrite_stores (by decide) s _ _ _ new written mask
  refine ⟨completes_writeWhole rfl fun hr hf m hm => ?_, completes_writeWhole rfl fun hr hf => ?_,
    completes_writeWhole rfl fun hr hf => ?_, completes_writeWhole rfl fun hr hf => ?_,
    completes_writeWhole rfl fun hr hf => ?_, completes_writeWhole rfl fun hr hf => ?_,
    completes_writeWhole rfl fun hr hf => rmuMtreg_row wide hc hr hf, completes_writeWhole rfl fun hr hf => ?_,
    completes_writeWhole rfl fun hr hf => xlCtxbind_row wide hc hr hf,
    fun mirror => completes_writeWhole (r := if mirror then .xlMirror else .xlSegtbase) rfl fun hr hf => ?_,
    completes_writeWhole rfl fun hr hf => ?_, completes_writeWhole rfl fun hr hf => ?_,
    completes_writeWhole rfl fun hr hf => ?_, completes_writeWhole rfl fun hr hf => ?_,
    completes_writeWhole rfl fun hr hf => ?_, completes_writeWhole rfl fun hr hf => ?_⟩
  · rw [writeWhole_seqExpress value hr hf, getCore_expressWrite_ne _ _ hm]
  · rw [writeWhole_seqExpress value hr hf]
    exact ⟨expressWrite_busy _, expressWrite_idle _⟩
  · rw [writeWhole_rcSalt value hr hf]
    refine ⟨fun hfree => ?_, fun hheld => ?_⟩
    · rw [saltWrite, if_neg (Bool.eq_false_iff.1 hfree)]
      exact ⟨getSlice_modSlice .., rfl⟩
    · rw [saltWrite, if_pos hheld]
      exact ⟨refuseReg_changes .slices (by decide), post_seq ..⟩
  · rw [writeWhole_rcLfsr value hr hf]
    exact ⟨getSlice_modSlice .., rfl⟩
  · rw [hstore _ _ (.inl rfl) _ hr hf, ← hlow 16]
    exact stored_onlyRegs _ (by decide)
  · rw [hstore _ _ (.inr (.inl rfl)) _ hr hf, ← hlow 16]
    exact stored_onlyRegs _ (by decide)
  · rw [hstore _ _ (.inr (.inr rfl)) _ hr hf, ← hlow 10]
    exact stored_onlyRegs _ (by decide)
  · rw [writeWhole_xlBase wide hr hf]
    exact xlBaseWrite_row wide
  · rw [writeWhole_window wide (by decide) hr hf]
    have hfield := fGet_eq wide 0 5
    rw [pow_zero, Nat.div_one] at hfield
    exact hfield ▸ windowWrite_takes wide (by decide)
  · rw [writeWhole_window wide (by decide) hr hf]
    have hfield := fGet_eq wide 0 32
    rw [pow_zero, Nat.div_one] at hfield
    exact hfield ▸ windowWrite_takes wide (by decide)
  · rw [writeWhole_window wide (by decide) hr hf]
    exact fGet_eq wide 16 24 ▸ windowWrite_takes wide (by decide)
  · rw [writeWhole_window wide (by decide) hr hf]
    have hfield := fGet_eq wide 0 48
    rw [pow_zero, Nat.div_one] at hfield
    exact hfield ▸ windowWrite_takes wide (by decide)
  · rw [writeWhole_faultRing _ (.inl rfl) hr hf, ← hlow 16]
    exact faultRing_row _ (.inl rfl) (by decide)
  · rw [writeWhole_faultRing _ (.inr rfl) hr hf]
    have hfield : fGet wide 12 52 = wide.toNat / 2 ^ 12 := (fGet_eq ..).trans (Nat.mod_eq_of_lt (by have := wide.isLt; omega))
    exact hfield ▸ faultRing_row wide (.inr rfl) (by decide)

end Sys2Proof.Machine

/-! PROOFS. The family of spec/14, the counter: ticks, the main-die copy, steps. -/

namespace Sys2Proof.Machine

set_option Elab.async false

/-! ### Rates and corrections leave the count (R538, R540) -/

theorem slewed_count (s : State) : (slewed s).time.sec = s.time.sec ∧ (slewed s).time.sub = s.time.sub := by
  unfold slewed
  dsimp only
  split
  · exact ⟨rfl, rfl⟩
  · split
    · exact ⟨rfl, rfl⟩
    · exact ⟨rfl, rfl⟩

theorem curIncr_setIncr (s : State) (i : Nat) : curIncr (setIncr s i) = i % 2 ^ 40 :=
  regFld_setFld s .ttIncr 0 0 0 i (by decide)

/-- The main-die copy follows the counter at once (R542). -/
theorem publish_now (s : State) : (publish s).time = s.time ∧ (publish s).now = snapOf (copy16 s.time) := by
  have hkept : Changes [.trace] { s with now := snapOf (copy16 s.time) } (publish s) := traceTimeTrigger_changes
  exact ⟨hkept .time (by decide), hkept .now (by decide)⟩

theorem traceTimeTrigger_only (s : State) : traceTimeTrigger s = { s with trace := (traceTimeTrigger s).trace } := by
  unfold traceTimeTrigger
  split
  · exact traceTrigger_only s
  · rfl

/-! ### A step (R558) -/

/-- What a step leaves of the count, and of the correction. -/
theorem stepBy_count (s : State) (c : Int) :
    let n := (((s.time.sec * sec32 + s.time.sub : Nat) : Int) + c).toNat
    let t := stepBy s c
    t.time.sec = n / sec32 % 2 ^ 48 ∧ t.time.sub = n % sec32 ∧ t.time.corr = 0 := by
  intro n t
  have htime : ∃ u : State, u.time.sec = n / sec32 % 2 ^ 48 ∧ u.time.sub = n % sec32 ∧ u.time.corr = 0 ∧ t.time = u.time := by
    refine ⟨_, ?_, ?_, ?_, post_changes .time (by decide)⟩
    all_goals rfl
  obtain ⟨u, hsec, hsub, hcorr, hu⟩ := htime
  rw [hu]
  exact ⟨hsec, hsub, hcorr⟩

/-- The step is counted in TT_STEPS, and TT_STATUS shows none pending. -/
theorem stepBy_regs (s : State) (c : Int) :
    regVal (stepBy s c) .ttSteps 0 0 0 = regVal s .ttSteps 0 0 0 + 1#64 ∧ stepPending (stepBy s c) = false := by
  have hend : ∃ u : State, u.regs = s.regs
      ∧ SameRegsBut logCounts (bump (endStep u) .ttSteps 0 0 0 1) (stepBy s c) :=
    ⟨_, rfl, sameRegs_post⟩
  obtain ⟨u, hu, hkept⟩ := hend
  refine ⟨?_, ?_⟩
  · rw [hkept.regVal (by decide), regVal_bump]
    have hsteps : SameRegsBut [regAddr .ttStatus 0 0 0] u (endStep u) := sameRegs_setReg
    rw [hsteps.regVal (by decide), regVal_congr hu]
  · rw [stepPending, hkept.regBit _ (by decide)]
    have hcount : SameRegsBut [regAddr .ttSteps 0 0 0] (endStep u) (bump (endStep u) .ttSteps 0 0 0 1) := sameRegs_setReg
    rw [hcount.regBit _ (by decide)]
    exact regBit_setFld u .ttStatus 0 0 0 false (by decide)

/-- Settles O47: the tick, the copy and the step by the count that each leaves. -/
theorem timeCounterAdvances : Obligations.TimeCounterAdvances := by
  intro skew s
  refine ⟨fun hclock => ?_, fun hclock hskew hcopy => ?_, fun hpending harmed => ?_⟩
  · refine ⟨_, whenDue_pos hclock .., ?_⟩
    beta_reduce
    intro n
    set u := setTime s (tickCounter s.time (curIncr s))
    obtain ⟨htime, hnow⟩ := publish_now (slewed u)
    obtain ⟨hsec, hsub⟩ := slewed_count u
    have hkept : Changes [.time, .regs, .now, .trace] s (publish (slewed u)) :=
      .comp (.comp (.of sets_time) slewed_changes) publish_changes
    rw [htime, hsec, hsub]
    refine ⟨?_, ?_, hnow, hkept .cores (by decide), hkept .tags (by decide), hkept .host (by decide), hkept .hbm (by decide),
      hkept .fab (by decide)⟩
    · exact if_congr decide_eq_true_iff rfl rfl
    · exact if_congr decide_eq_true_iff rfl rfl
  · obtain ⟨htime, hnow⟩ := publish_now (setTime s { s.time with skew := skew })
    refine ⟨_, whenDue_pos (by simp [hclock, hskew, hcopy]) .., htime, ?_, ?_⟩
    · rw [htime]
      exact hnow
    · rw [htime, hnow]
      exact traceTimeTrigger_only _
  · refine ⟨_, whenDue_pos (by simp [hpending, harmed]) .., ?_⟩
    obtain ⟨hsec, hsub, hcorr⟩ := stepBy_count s s.time.corr
    obtain ⟨hsteps, hstep⟩ := stepBy_regs s s.time.corr
    have hrate : SameRegsBut [regAddr .ttIncr 0 0 0] (stepBy s s.time.corr) (setIncr (stepBy s s.time.corr) nominalIncr) :=
      sameRegs_setReg
    refine ⟨hsec, hsub, hcorr, ?_, curIncr_setIncr .., ?_, ?_⟩
    · rw [stepPending, hrate.regBit _ (by decide)]
      exact hstep
    · rw [hrate.regVal (by decide), hsteps]
    · have hkept : Changes [.regs, .log, .trace, .time, .sm] s (setIncr (stepBy s s.time.corr) nominalIncr) :=
        .comp (.of stepBy_changes) setIncr_changes
      exact ⟨hkept .cores (by decide), hkept .host (by decide)⟩

end Sys2Proof.Machine

/-! PROOFS. The family of spec/14, exchanges and announcements: what reaches a port leaves the links as they are, so that the
upstream stays what it was. -/

namespace Sys2Proof.Machine

set_option Elab.async false

/-! ### Links that stay as they are -/

/-- No port changes its state, and the time master of the fabric stays. -/
def SameLinks (s t : State) : Prop :=
  (∀ p, (getPort t p).st = (getPort s p).st) ∧ t.fab.timeMaster = s.fab.timeMaster ∧ t.regs = s.regs ∧ t.variant = s.variant
    ∧ t.sm = s.sm

theorem SameLinks.refl {s : State} : SameLinks s s := ⟨fun _ => rfl, rfl, rfl, rfl, rfl⟩

theorem SameLinks.trans {s t u : State} (h : SameLinks s t) (k : SameLinks t u) : SameLinks s u := by
  obtain ⟨hst, hm, hr, hv, hw⟩ := h
  obtain ⟨kst, km, kr, kv, kw⟩ := k
  exact ⟨fun p => (kst p).trans (hst p), km.trans hm, kr.trans hr, kv.trans hv, kw.trans hw⟩

theorem getPort_setPort (s : State) (p : Nat) (x : PortSt) : getPort (setPort s p x) p = x := spGet_set ..

theorem getPort_setPort_ne (s : State) {p q : Nat} (x : PortSt) (h : q ≠ p) : getPort (setPort s p x) q = getPort s q :=
  spGet_set_ne _ _ _ h

theorem sameLinks_setPort {s : State} {p : Nat} {x : PortSt} (h : x.st = (getPort s p).st) : SameLinks s (setPort s p x) := by
  refine ⟨fun q => ?_, rfl, rfl, rfl, rfl⟩
  by_cases hq : q = p
  · subst hq
    rw [getPort_setPort, h]
  · rw [getPort_setPort_ne s x hq]

theorem sameLinks_modPort {s : State} {p : Nat} {f : PortSt → PortSt} (h : (f (getPort s p)).st = (getPort s p).st) :
    SameLinks s (modPort s p f) := sameLinks_setPort h

/-- Sending a flit appends it to the wire, and owes fewer credits. -/
theorem wireOut_eq (s : State) (p seq : Nat) (nak : Bool) (body : WireBody) :
    ∃ o h, wireOut s p seq nak body =
      let u := setPort s p { getPort s p with owed := o }
      { u with fab := { u.fab with wire := s.fab.wire ++ [⟨p, h, body⟩] } } := ⟨_, _, rfl⟩

theorem sameLinks_wireOut {s : State} {p seq : Nat} {nak : Bool} {body : WireBody} :
    SameLinks s (wireOut s p seq nak body) := by
  obtain ⟨o, h, heq⟩ := wireOut_eq s p seq nak body
  rw [heq]
  exact sameLinks_setPort (x := { getPort s p with owed := o }) rfl

theorem wireOut_wire (s : State) (p seq : Nat) (nak : Bool) (body : WireBody) :
    ∃ h, (wireOut s p seq nak body).fab.wire = s.fab.wire ++ [⟨p, h, body⟩] := by
  obtain ⟨o, h, heq⟩ := wireOut_eq s p seq nak body
  rw [heq]
  exact ⟨h, rfl⟩

theorem sameLinks_returnCredits {p fuel : Nat} {s : State} : SameLinks s (returnCredits p fuel s) := by
  induction fuel generalizing s with
  | zero => exact .refl
  | succ n ih =>
    unfold returnCredits
    split
    · exact .refl
    · exact .trans sameLinks_wireOut ih

theorem sameLinks_oweCredits {s : State} {p cls n : Nat} : SameLinks s (oweCredits s p cls n) := by
  unfold oweCredits
  split
  · exact .trans (sameLinks_modPort rfl) sameLinks_returnCredits
  · exact .refl

theorem sameLinks_takePkt {s : State} {r : PktRef} : SameLinks s (takePkt s r) := by
  unfold takePkt
  split
  · exact .refl
  · exact .refl
  · split
    · exact .refl
    · exact .trans (sameLinks_modPort rfl) sameLinks_oweCredits

theorem sameLinks_takeHead {s : State} {p : Nat} {h : FlitHead} : SameLinks s (takeHead s p h) := by
  unfold takeHead
  dsimp only
  split
  · exact .trans (sameLinks_modPort rfl) (sameLinks_modPort rfl)
  · exact sameLinks_modPort rfl

section
variable {s t : State} (h : SameLinks s t)
include h

theorem SameLinks.portUp (p : Nat) : portUp t p = portUp s p := by
  unfold Machine.portUp
  rw [h.1]

theorem SameLinks.bundleUp (dir : Nat) : bundleUp t dir = bundleUp s dir := by
  have hport : Machine.portUp t = Machine.portUp s := funext h.portUp
  obtain ⟨-, -, hregs, hvariant, -⟩ := h
  unfold Machine.bundleUp
  rw [hport]
  unfold bundle portDir portLane regFld regVal
  rw [hregs, hvariant]

/-- The route of a packet that this part sends, other than a Time packet, looks at control registers alone. -/
theorem SameLinks.route (p : Packet) (hp : p.op ≠ 6) : route t p none = route s p none := by
  obtain ⟨-, -, hregs, -, -⟩ := h
  have hself : selfId t = selfId s := by simp only [selfId, regFld, regVal, hregs]
  have hsize : dimSize t = dimSize s := by
    funext d
    simp only [dimSize, regFld, regVal, hregs]
  have hstep : stepCoord t = stepCoord s := by
    funext d c m
    simp only [stepCoord, hsize]
  have hlink : linkOf t = linkOf s := by
    funext d c m
    simp only [linkOf, hstep]
  have hopen (d : Nat) (m : Bool) (n c : Nat) : wayOpen t d m n c = wayOpen s d m n c := by
    induction n generalizing c with
    | zero => rfl
    | succ n ih => simp only [wayOpen, ih, detourBit, regBit, regFld, regVal, hregs, hlink, hstep]
  have henter (d : Nat) : enterDim t p d = enterDim s p d := by
    simp only [enterDim, chooseWay, hopen, dlOn, hlink, hself, hsize]
  have hdim : routeDim t p = routeDim s p := by rw [routeDim, routeDim, hself]
  have hinside : insideDims t p.dst = insideDims s p.dst := by rw [insideDims, insideDims, hsize]
  unfold Machine.route
  rw [hself, hdim, hinside]
  simp only [hp, decide_false, Bool.false_and, Bool.false_eq_true, if_false]
  cases routeDim s p with
  | none => rfl
  | some d => simp only [henter]

theorem SameLinks.fromUpstream (p : Nat) : fromUpstream t p = fromUpstream s p := by
  have hbundle (dir : Nat) := h.bundleUp dir
  have hroute (q : Packet) (hq : q.op ≠ 6) := h.route q hq
  obtain ⟨-, hmaster, hregs, -, hsm⟩ := h
  have hup : upstream t = upstream s := by
    unfold upstream isMaster regBit regFld regVal
    rw [hregs, hmaster, hroute _ (by simp)]
    simp only [hbundle, selfId, regFld, regVal, hregs]
  unfold Machine.fromUpstream smWorks
  rw [hup, hsm]

end

/-! ### A TSYNC flit (R550) -/

/-- A TSYNC flit at a port: where the port is not UP nothing happens, a bad flit is counted, and a good one that asks for no resend
brings its head and is heard, over the same links. -/
theorem tsyncArrives_hears (s : State) {p : Nat} (hp : p < 32) (good : Bool) (head : FlitHead) (act : State → State) :
    (portUp s p = false → tsyncArrives s p good head act = s)
      ∧ (portUp s p = true → good = false →
          regVal (tsyncArrives s p good head act) .klCrcerr p 0 0 = regVal s .klCrcerr p 0 0 + 1#64
            ∧ (tsyncArrives s p good head act).fab = s.fab)
      ∧ (portUp s p = true → good = true → head.nak = false →
          tsyncArrives s p good head act = act (takeHead s p head)) := by
  refine ⟨fun hdown => ?_, fun hup hbad => ?_, fun hup hgood hnak => ?_⟩
  · exact if_pos (by rw [hdown]; rfl)
  · have hcount : tsyncArrives s p good head act
        = if upstream (bump s .klCrcerr p 0 0 1) = some p then abandon (bump s .klCrcerr p 0 0 1) else bump s .klCrcerr p 0 0 1 := by
      simp [tsyncArrives, hup, hbad]
    rw [hcount]
    split
    · refine ⟨?_, rfl⟩
      have hlost : SameRegsBut [regAddr .ttSynclost 0 0 0] (bump s .klCrcerr p 0 0 1) (abandon (bump s .klCrcerr p 0 0 1)) :=
        sameRegs_setReg
      rw [hlost.regVal (by simp only [regAddr, regInfo, blkBase, List.mem_singleton]; omega), regVal_bump]
    · exact ⟨regVal_bump .., rfl⟩
  · have hhead : headArrives s p head = takeHead s p head := by simp [headArrives, hup, hnak]
    have hup' : portUp (takeHead s p head) p = true := by rw [sameLinks_takeHead.portUp, hup]
    simp [tsyncArrives, hup, hgood, hhead, hup']

/-! ### What a completed exchange leaves (R553) -/

theorem setOffset_val (s : State) (e : Int) :
    regVal (setOffset s e) .ttOffset 0 0 0 = BitVec.ofNat 64 (unsignedOf 32 (max (-2147483648) (min 2147483647 (e / 65536)))) :=
  regVal_setReg ..

/-- The control registers of the Timetable that a correction may write, and the counts of the log. -/
def ttWritten : List Nat :=
  [regAddr .ttStatus 0 0 0, regAddr .ttIncr 0 0 0, regAddr .ttSteps 0 0 0] ++ logCounts

theorem sameRegs_setTtBit {s : State} {b : Nat} {v : Bool} : SameRegsBut ttWritten s (setTtBit s b v) :=
  sameRegs_setReg.mono (by decide)

theorem sameRegs_enterTt {s : State} {st : Nat} : SameRegsBut ttWritten s (enterTt s st) := by
  have hst : SameRegsBut ttWritten s (setFld s .ttStatus 0 0 0 0 3 st) := sameRegs_setReg.mono (by decide)
  unfold enterTt
  exact .ite (hst.trans (.trans sameRegs_setTtBit (.of_eq rfl))) hst

theorem sameRegs_setIncr {s : State} {i : Nat} : SameRegsBut ttWritten s (setIncr s i) := by
  have hincr : SameRegsBut ttWritten s (setFld s .ttIncr 0 0 0 0 40 i) := sameRegs_setReg.mono (by decide)
  exact hincr.trans (.of_eq rfl)

theorem sameRegs_timeFault {s : State} {code : Nat} : SameRegsBut ttWritten s (timeFault s code) := by
  have hcode : SameRegsBut ttWritten s (setFld (setTtBit s 7 true) .ttStatus 0 0 0 8 2 code) :=
    sameRegs_setTtBit.trans (sameRegs_setReg.mono (by decide))
  have hpost {u : State} {arg : Nat} : SameRegsBut ttWritten u (post u .timeFault 11 0 none arg 0) :=
    sameRegs_post.mono (by decide)
  unfold timeFault
  exact .ite (hcode.trans (hpost.trans (.of_eq rfl))) (hcode.trans hpost)

theorem sameRegs_stepBy {s : State} {c : Int} : SameRegsBut ttWritten s (stepBy s c) := by
  have hend : ∃ u : State, u.regs = s.regs ∧ SameRegsBut logCounts (bump (endStep u) .ttSteps 0 0 0 1) (stepBy s c) :=
    ⟨_, rfl, sameRegs_post⟩
  obtain ⟨u, hu, hkept⟩ := hend
  have hsteps : SameRegsBut ttWritten (endStep u) (bump (endStep u) .ttSteps 0 0 0 1) := sameRegs_setReg.mono (by decide)
  have hbit : SameRegsBut ttWritten u (endStep u) := sameRegs_setTtBit.trans (.of_eq rfl)
  exact .trans (.of_eq hu) (hbit.trans (hsteps.trans (hkept.mono (by decide))))

theorem sameRegs_setTime {l : List Nat} {s : State} {t : TimeSt} : SameRegsBut l s (setTime s t) := .of_eq rfl

theorem sameRegs_blockStep {s : State} {c : Int} : SameRegsBut ttWritten s (blockStep s c) := by
  have hblock {i : Nat} : SameRegsBut ttWritten s (setTtBit (setIncr s i) 4 true) := sameRegs_setIncr.trans sameRegs_setTtBit
  unfold blockStep
  dsimp only
  refine .ite ?_ ?_
  · exact hblock.trans (sameRegs_setTime.trans sameRegs_timeFault)
  · exact hblock.trans sameRegs_setTime

theorem sameRegs_correct {s : State} {c : Int} {incr : Nat} : SameRegsBut ttWritten s (correct s c incr) := by
  have hslew : SameRegsBut ttWritten s (endStep (setIncr s incr)) :=
    sameRegs_setIncr.trans (sameRegs_setTtBit.trans sameRegs_setTime)
  unfold correct
  exact .ite hslew (.ite sameRegs_stepBy sameRegs_blockStep)

theorem sameRegs_measure {s : State} {good : Bool} : SameRegsBut ttWritten s (measure s good) := by
  unfold measure
  exact .ite (.trans (.of_eq rfl) sameRegs_enterTt) (.of_eq rfl)

theorem enterTt_exchange (s : State) (st : Nat) : (enterTt s st).time.exchange = s.time.exchange := by
  unfold enterTt
  dsimp only
  split <;> rfl

theorem measure_exchange (s : State) (good : Bool) : (measure s good).time.exchange = s.time.exchange := by
  unfold measure
  generalize (if good = true then s.time.good + 1 else 0) = n
  dsimp only
  split
  · exact enterTt_exchange ..
  · rfl

theorem blockStep_exchange (s : State) (c : Int) : (blockStep s c).time.exchange = s.time.exchange := by
  unfold blockStep
  generalize (if c < 0 then nominalIncr - maxSlew else nominalIncr + maxSlew) = i
  dsimp only
  split
  · rw [timeFault_changes .time (by decide)]
    rfl
  · rfl

theorem correct_exchange {s : State} (h : s.time.exchange = none) (c : Int) (incr : Nat) :
    (correct s c incr).time.exchange = none := by
  have hstep : ∃ u : State, u.time.exchange = none ∧ (stepBy s c).time = u.time := by
    refine ⟨_, ?_, post_changes .time (by decide)⟩
    rfl
  obtain ⟨u, hu, hstep⟩ := hstep
  unfold correct
  split
  · exact h
  · split
    · rw [hstep, hu]
    · rw [blockStep_exchange, h]

/-- A completed exchange is over, and TT_OFFSET shows its offset. -/
theorem exchangeDone_leaves (s : State) (e : Int) (incr : Nat) :
    (exchangeDone s e incr).time.exchange = none
      ∧ regVal (exchangeDone s e incr) .ttOffset 0 0 0
          = BitVec.ofNat 64 (unsignedOf 32 (max (-2147483648) (min 2147483647 (e / 65536)))) := by
  have hdone : ∃ u : State, u.time.exchange = none
      ∧ exchangeDone s e incr = correct (measure (setOffset u e) (goodOffset e)) (-(e * 65536)) incr := by
    refine ⟨_, ?_, rfl⟩
    dsimp only
    split <;> rfl
  obtain ⟨u, hu, hdone⟩ := hdone
  rw [hdone]
  refine ⟨correct_exchange ?_ .., ?_⟩
  · rw [measure_exchange]
    exact hu
  · have hkept := (sameRegs_measure (s := setOffset u e) (good := goodOffset e)).trans
      (sameRegs_correct (c := -(e * 65536)) (incr := incr))
    rw [hkept.regVal (by decide), setOffset_val]

/-! ### The obligation -/

/-- A TSYNC flit that the upstream's port hears, over links that stay. -/
theorem tsyncArrives_upstream {s : State} {p : Nat} {head : FlitHead} {good : Bool} {act : State → State} (hp : p < 32)
    {P : State → Prop}
    (hP : ∀ u, SameLinks s u → u.time = s.time → fromUpstream u p = true → P (act u)) :
    let t := tsyncArrives s p good head act
    (portUp s p = false → t = s)
      ∧ (portUp s p = true → good = false → regVal t .klCrcerr p 0 0 = regVal s .klCrcerr p 0 0 + 1#64 ∧ t.fab = s.fab)
      ∧ (portUp s p = true → good = true → head.nak = false → fromUpstream s p = true → P t) := by
  obtain ⟨hdown, hbad, hgood⟩ := tsyncArrives_hears s hp good head act
  refine ⟨hdown, hbad, fun hup hg hnak hfrom => ?_⟩
  rw [hgood hup hg hnak]
  exact hP _ sameLinks_takeHead (takeHead_changes .time (by decide)) ((sameLinks_takeHead.fromUpstream p).trans hfrom)

/-- What a Sync leaves (R550). -/
theorem syncHeard_exchange {u : State} {p : Nat} (m : Tsync) (jitter : Int) (h : fromUpstream u p = true) :
    (syncHeard p m jitter u).time.exchange = some ⟨m.seqid.toNat, none, stamped (copy16 u.time) jitter, none⟩ := by
  have hfollow (v : State) (hv : copy16 v.time = copy16 u.time) : copy16 (follow v p).time = copy16 u.time := by
    unfold follow
    split
    · exact hv
    · dsimp only
      split
      · exact hv
      · exact hv
  have hcopy : copy16 (follow (if u.time.exchange.isSome then abandon u else u) p).time = copy16 u.time :=
    hfollow _ (by split <;> rfl)
  simp only [syncHeard, h, Bool.not_true, Bool.false_eq_true, if_false, setTime, hcopy]

/-- What a Follow_Up leaves (R550). -/
theorem followUpHeard_exchange {u : State} {p : Nat} {m : Tsync} (jitter : Int) {x : Exchange} (h : fromUpstream u p = true)
    (hx : u.time.exchange = some x) (hid : x.seqid = m.seqid.toNat) (h1 : x.t1 = none) :
    (followUpHeard p m jitter u).time.exchange
      = some { x with t1 := some (snap16 (tsyncSnap m)), t3 := some (stamped (copy16 u.time) jitter) } := by
  simp only [followUpHeard, hx, h, hid, h1, decide_true, Option.isNone_none, Bool.and_self, if_true, sendTsync]
  rw [wireOut_changes .time (by decide)]
  rfl

/-- What a Delay_Req is answered with (R550). -/
theorem delayReqHeard_wire {u : State} (p : Nat) (m : Tsync) (jitter : Int) (h : servesTime u = true) :
    ∃ w ∈ (delayReqHeard p m jitter u).fab.wire, ∃ y, w.port = p ∧ w.body = .tsync y ∧ y.msg = 3 ∧ y.seqid = m.seqid
      ∧ y.sec.toNat = (snapOf (stamped (copy16 u.time) jitter)).sec := by
  rw [delayReqHeard, if_pos h, sendTsync]
  obtain ⟨hd, hwire⟩ := wireOut_wire u p (getPort u p).txSeq false (.tsync
    ⟨Fin.ofNat 4 3, BitVec.ofNat 16 m.seqid.toNat, BitVec.ofNat 48 (snapOf (stamped (copy16 u.time) jitter)).sec,
      BitVec.ofNat 32 (snapOf (stamped (copy16 u.time) jitter)).ns, BitVec.ofNat 16 (snapOf (stamped (copy16 u.time) jitter)).frac,
      BitVec.ofNat 10 (selfId u), BitVec.ofNat 5 p⟩)
  rw [hwire]
  refine ⟨_, List.mem_append_right _ (List.mem_singleton.2 rfl), _, rfl, rfl, rfl, ?_, ?_⟩
  · exact BitVec.ofNat_toNat ..
  · have hlt : (snapOf (stamped (copy16 u.time) jitter)).sec < 2 ^ 48 := Nat.mod_lt _ (by decide)
    exact (BitVec.toNat_ofNat ..).trans (Nat.mod_eq_of_lt hlt)

/-- What a Delay_Resp leaves (R553). -/
theorem delayRespHeard_leaves {u : State} {p : Nat} {m : Tsync} (incr : Nat) {t1 t2 t3 : Nat} (h : fromUpstream u p = true)
    (hx : u.time.exchange = some ⟨m.seqid.toNat, some t1, t2, some t3⟩) :
    (delayRespHeard p m incr u).time.exchange = none
      ∧ regVal (delayRespHeard p m incr u) .ttOffset 0 0 0 = BitVec.ofNat 64 (unsignedOf 32 (max (-2147483648) (min 2147483647
          (offsetOf t1 t2 t3 (snap16 (tsyncSnap m)) / 65536)))) := by
  have hdone : delayRespHeard p m incr u = exchangeDone u (offsetOf t1 t2 t3 (snap16 (tsyncSnap m))) incr := by
    simp only [delayRespHeard, hx, h, decide_true, Bool.and_self, if_true]
  rw [hdone]
  exact exchangeDone_leaves ..

/-- A time fault shows in TT_STATUS with its code (R561). -/
theorem timeFault_status (s : State) (code : Nat) :
    regBit (timeFault s code) .ttStatus 0 0 0 7 = true ∧ regFld (timeFault s code) .ttStatus 0 0 0 8 2 = code % 2 ^ 2 := by
  have hkept : SameRegsBut logCounts (setFld (setTtBit s 7 true) .ttStatus 0 0 0 8 2 code) (timeFault s code) := by
    unfold timeFault
    dsimp only
    exact .ite (.trans sameRegs_post (.of_eq rfl)) sameRegs_post
  rw [hkept.regBit _ (by decide), hkept.regFld _ _ (by decide), regFld_setFld _ _ _ _ _ _ (by decide)]
  refine ⟨?_, rfl⟩
  rw [regBit, setFld, regFld_setReg, fGet_fSet_below _ (by decide) (by decide)]
  exact regBit_setFld s .ttStatus 0 0 0 true (by decide)

theorem regBit_setTime (s : State) (x : TimeSt) (r : RegName) (u i j lsb : Nat) :
    regBit (setTime s x) r u i j lsb = regBit s r u i j lsb := rfl

theorem timeHeard_faults {s : State} {k : Packet} (h : k.args.master ≠ s.fab.timeMaster) : timeHeard s k = timeFault s 3 :=
  if_pos (bne_iff_ne.2 h)

theorem timeHeard_follows {s : State} {k : Packet} (h : k.args.master = s.fab.timeMaster) :
    timeHeard s k = setTime (setTtBit (setFld s .ttStatus 0 0 0 24 5 (k.args.hops + 1)) 6 (k.args.state == 3))
      { s.time with mstate := k.args.state, stepped := s.time.stepped || k.args.stepped } := by
  rw [timeHeard, if_neg (by simp [h])]
  rfl

theorem sendTsync_sends (s : State) (p msg q : Nat) (x : Snap) :
    ∃ f w, sendTsync s p msg q x = { s with fab := f } ∧ f.wire = s.fab.wire ++ [w] := by
  obtain ⟨o, h, heq⟩ := wireOut_eq s p (getPort s p).txSeq false (.tsync ⟨Fin.ofNat 4 msg, BitVec.ofNat 16 q, BitVec.ofNat 48 x.sec,
    BitVec.ofNat 32 x.ns, BitVec.ofNat 16 x.frac, BitVec.ofNat 10 (selfId s), BitVec.ofNat 5 p⟩)
  exact ⟨_, _, heq, rfl⟩

/-- An upstream's Sync and Follow_Up are two flits (R550). -/
theorem syncExchange_sends {s t : State} {p q : Nat} {tm : TimeSt} {x y : Snap}
    (ht : t = sendTsync (sendTsync (setTime s tm) p 0 q x) p 1 q y) :
    (t.fab.wire.drop s.fab.wire.length).length = 2 ∧ t.time = tm ∧ t = { s with fab := t.fab, time := t.time } := by
  obtain ⟨f, v, hf, hv⟩ := sendTsync_sends (setTime s tm) p 0 q x
  rw [hf] at ht
  obtain ⟨g, w, hg, hw⟩ := sendTsync_sends { setTime s tm with fab := f } p 1 q y
  rw [hg] at ht
  subst ht
  refine ⟨?_, rfl, rfl⟩
  have hwire : g.wire = s.fab.wire ++ [v, w] := by
    rw [hw, hv, List.append_assoc]
    rfl
  rw [hwire, List.drop_left]
  rfl

/-- The port of a packet in a receive buffer. -/
theorem execTime_eq {s : State} {pkt : PktRef} {k : Packet} {q c : Nat} (hk : pktAt s pkt = some (k, some (q, c)))
    (hop : k.op = 6) (hturn : turnOf s pkt k = true) :
    execTime pkt s = .next (if fromUpstream s q then timeHeard (takePkt s pkt) k else takePkt s pkt) := by
  unfold execTime
  rw [hk]
  exact whenDue_pos (b := k.op == 6 && turnOf s pkt k) (by rw [hop, hturn]; rfl) ..

/-- Settles O49: the links stay as they are when a flit brings its head or a packet is taken, so the upstream is what it was. -/
theorem timeExchanges : Obligations.TimeExchanges := by
  intro port good head m jitter incr pkt s p hears
  have hp : p < 32 := port.isLt
  have hears_of {i : Instr} {act : State → State} {P : State → Prop} (hi : exec i s = .next (tsyncArrives s p good head act))
      (hP : ∀ u, SameLinks s u → u.time = s.time → fromUpstream u p = true → P (act u)) : hears i P :=
    ⟨_, hi, tsyncArrives_upstream hp hP⟩
  refine ⟨fun hup hserves hjit => ?_, fun hport hjit => ⟨?_, ?_, ?_⟩, fun hport hincr => ?_, fun hserves => ?_,
    fun k q c hk hop hturn => ?_⟩
  · refine ⟨_, whenDue_pos (by rw [hup, hserves, hjit]; rfl) .., ?_⟩
    obtain ⟨hwire, htime, honly⟩ := syncExchange_sends (s := s) rfl
    refine ⟨hwire, ?_, honly⟩
    rw [htime]
    exact spGet_set ..
  · refine hears_of (whenDue_pos (by rw [hport, hjit]; rfl) ..) fun u _ htime hfrom => ?_
    rw [← htime]
    exact syncHeard_exchange m jitter hfrom
  · refine hears_of (whenDue_pos (by rw [hport, hjit]; rfl) ..) fun u _ htime hfrom x hx hid h1 => ?_
    rw [← htime]
    exact followUpHeard_exchange jitter hfrom (htime ▸ hx) hid h1
  · obtain ⟨hdown, -, hgood⟩ := tsyncArrives_hears s hp good head (delayReqHeard p m jitter)
    refine ⟨_, whenDue_pos (by rw [hport, hjit]; rfl) .., hdown, fun hup hg hnak hserves => ?_⟩
    have hkept : Changes [.fab] s (takeHead s p head) := takeHead_changes
    rw [hgood hup hg hnak, ← hkept .time (by decide)]
    refine delayReqHeard_wire p m jitter ?_
    rw [servesTime, hkept .power (by decide)]
    exact hserves
  · refine hears_of (whenDue_pos (by rw [hport, hincr]; rfl) ..) fun u _ htime hfrom t1 t2 t3 hx => ?_
    exact delayRespHeard_leaves incr.toNat hfrom (htime ▸ hx)
  · exact ⟨_, whenDue_pos hserves .., rfl, rfl, rfl⟩
  · refine ⟨_, execTime_eq hk hop hturn, fun hfrom => ?_, fun hfrom hmaster => ?_, fun hfrom hmaster => ?_⟩
    · rw [if_neg (Bool.eq_false_iff.1 hfrom)]
      exact ⟨takePkt_changes .time (by decide), takePkt_changes .regs (by decide)⟩
    · rw [if_pos hfrom, timeHeard_follows (by rw [hmaster, sameLinks_takePkt.2.1])]
      refine ⟨rfl, ?_⟩
      rw [regBit_setTime, setTtBit, regBit_setFld _ _ _ _ _ _ (by decide)]
      exact beq_eq_decide ..
    · rw [if_pos hfrom, timeHeard_faults (by rw [sameLinks_takePkt.2.1]; exact hmaster)]
      exact timeFault_status _ 3

end Sys2Proof.Machine

/-! PROOFS. The family of spec/95 and spec/17: the step that runs the front command, and the cycle that passes while none waits. -/

namespace Sys2Proof.Machine

set_option Elab.async false

/-! ### A change to every entry of a sparse map -/

theorem spGet_filter_ne_default {α : Type} [DecidableEq α] (d : α) {m : Sp α} {lo k : Nat} (h : spSorted lo m = true) :
    spGet d k (m.filter fun e => e.2 != d) = spGet d k m := by
  induction m generalizing lo with
  | nil => rfl
  | cons e m ih =>
    obtain ⟨a, v⟩ := e
    simp only [spSorted, Bool.and_eq_true, decide_eq_true_eq] at h
    rw [List.filter_cons]
    by_cases hv : v = d
    · subst hv
      simp only [bne_self_eq_false, Bool.false_eq_true, if_false, spGet, ih h.2]
      split
      · next hk => rw [spGet_of_lt v h.2 (by omega)]
      · rfl
    · simp only [bne_iff_ne, ne_eq, hv, not_false_eq_true, if_true, spGet, ih h.2]

theorem spSorted_map {α : Type} (f : Nat → α → α) {m : Sp α} {lo : Nat} (h : spSorted lo m = true) :
    spSorted lo (m.map fun e => (e.1, f e.1 e.2)) = true := by
  induction m generalizing lo with
  | nil => rfl
  | cons e m ih =>
    simp only [spSorted, Bool.and_eq_true, decide_eq_true_eq, List.map_cons] at h ⊢
    exact ⟨h.1, ih h.2⟩

theorem spGet_map {α : Type} (d : α) {f : Nat → α → α} {k : Nat} (hf : f k d = d) (m : Sp α) :
    spGet d k (m.map fun e => (e.1, f e.1 e.2)) = f k (spGet d k m) := by
  induction m with
  | nil => exact hf.symm
  | cons e m ih =>
    obtain ⟨a, v⟩ := e
    simp only [List.map_cons, spGet, ih]
    split
    · next hk => rw [hk]
    · rfl

/-- A change that leaves the default, read at a key of a sorted map. -/
theorem spGet_spMap {α : Type} [DecidableEq α] (d : α) {f : Nat → α → α} {k lo : Nat} {m : Sp α} (h : spSorted lo m = true)
    (hf : f k d = d) : spGet d k (spMap d f m) = f k (spGet d k m) := by
  rw [spMap, spGet_filter_ne_default d (spSorted_map f h), spGet_map d hf]

/-! ### The cycle that passes (R172, R721) -/

/-- No slot's CYCLE changes. -/
def SameCycles (s t : State) : Prop := ∀ n i, (getSlot t n i).cycle = (getSlot s n i).cycle

theorem SameCycles.trans {s t u : State} (h : SameCycles s t) (k : SameCycles t u) : SameCycles s u :=
  fun n i => (k n i).trans (h n i)

theorem SameCycles.foldl {β : Type} {f : State → β → State} (hf : ∀ u x, SameCycles u (f u x)) (l : List β) (s : State) :
    SameCycles s (l.foldl f s) := by
  induction l generalizing s with
  | nil => exact fun _ _ => rfl
  | cons x l ih => exact (hf s x).trans (ih _)

theorem Changes.sameCycles {l : List Part} {s t : State} (h : Changes l s t) (hl : Part.cores ∉ l := by decide) :
    SameCycles s t := fun n i => by rw [h.getSlot n i hl]

theorem sameCycles_engineCycle (s t : State) (n : Nat) : SameCycles t (engineCycle s t n) := by
  have hturn (u : State) : SameCycles u (modCore u n fun c => { c with xeTurned := false }) := fun m i => by
    by_cases hm : m = n
    · subst hm
      rw [getSlot_modCore fun c => by cases i <;> rfl]
    · rw [getSlot, getCore_modCore_ne _ _ hm, getSlot]
  have hcount : SameCycles t (bump (bump t .feStall n (feCause s n) 0 1) .xeStall n (xeCause s n) 0 1) := fun _ _ => rfl
  unfold engineCycle
  dsimp only
  split
  · exact hcount.trans (hturn _)
  · exact hcount

theorem sameCycles_plainCycle (s : State) : SameCycles s (plainCycle s) := by
  have hjoin : SameCycles s (joinLayers s) := fun n i => ((arrives_joinEach (unjoined s) [] s).books.file n i).cycle
  have hrest : SameCycles (joinLayers s) (serveReads (sweepCycle (joinLayers s))) :=
    sweepCycle_changes.sameCycles.trans serveReads_changes.sameCycles
  exact (hjoin.trans hrest).trans fun _ _ => rfl

theorem slotCycle_cycle (x : Slot) : (slotCycle x).cycle = if x.phase = .running then x.cycle + 1#64 else x.cycle := by
  unfold slotCycle
  split <;> rfl

theorem coreCycle_cycle (c : Core) (i : SlotId) :
    (coreSlot (coreCycle c) i).cycle
      = if c.halted = false ∧ (coreSlot c i).phase = .running then (coreSlot c i).cycle + 1#64 else (coreSlot c i).cycle := by
  cases hh : c.halted with
  | true => simp only [coreCycle, hh, if_true, Bool.true_eq_false, false_and, if_false]
  | false => cases i <;> simp only [coreCycle, hh, Bool.false_eq_true, if_false, coreSlot, slotCycle_cycle, true_and]

/-- CYCLE of a slot after the cores count. -/
theorem coresCycle_cycle {s : State} (h : spWf coreReset s.cores = true) (n : Nat) (i : SlotId) :
    (getSlot { s with cores := spMap coreReset (fun _ c => coreCycle c) s.cores } n i).cycle
      = if (getCore s n).halted = false ∧ (getSlot s n i).phase = .running then (getSlot s n i).cycle + 1#64
        else (getSlot s n i).cycle := by
  simp only [spWf, Bool.and_eq_true] at h
  have hcore : getCore { s with cores := spMap coreReset (fun _ c => coreCycle c) s.cores } n = coreCycle (getCore s n) :=
    spGet_spMap (f := fun _ c => coreCycle c) coreReset h.1 rfl
  rw [getSlot, hcore, coreCycle_cycle]
  rfl

theorem Changes.planeUp {l : List Part} {s t : State} (h : Changes l s t) (hl : Part.log ∉ l ∧ Part.power ∉ l := by decide) :
    planeUp t = planeUp s := by
  have hlog : t.log = s.log := h .log hl.1
  have hpower : t.power = s.power := h .power hl.2
  simp only [Machine.planeUp, firmwareReady, mainClocked, hlog, hpower]

theorem planeUp_transmit (s : State) : planeUp (transmit s) = planeUp s := transmit_changes.planeUp

/-- Settles O1: after the cores have counted, nothing else of the cycle touches CYCLE. -/
theorem stepRunsFrontCommand : Obligations.StepRunsFrontCommand := by
  refine ⟨fun s c => rfl, fun s hempty => ⟨idleCycle s, ?_, idleCycle_changes.platformKept, fun hdown => ?_, fun hup n i hwf => ?_⟩⟩
  · unfold step
    rw [hempty]
  · have hdown' : planeUp (transmit s) = false := (planeUp_transmit s).trans hdown
    rw [idleCycle]
    exact if_neg (Bool.eq_false_iff.1 hdown')
  · have hcores : (transmit s).cores = s.cores := transmit_changes .cores (by decide)
    have hslot : getSlot (transmit s) n i = getSlot s n i := transmit_changes.getSlot n i
    have hcore : getCore (transmit s) n = getCore s n := getCore_congr hcores n
    have hcount := coresCycle_cycle (s := transmit s) (by rw [hcores]; exact hwf) n i
    rw [hslot, hcore] at hcount
    rw [idleCycle, if_pos ((planeUp_transmit s).trans hup), ← hcount]
    exact ((SameCycles.foldl (sameCycles_engineCycle _) _ _).trans
      ((SameCycles.foldl (fun _ _ => muCycle_changes.sameCycles) _ _).trans (sameCycles_plainCycle _))) n i

end Sys2Proof.Machine

/-! PROOFS. The family of spec/00, cold reset: a machine whose maps list nothing reads as the tables say. -/

namespace Sys2Proof.Machine

set_option Elab.async false

/-- A register whose value after cold reset is the same in every unit. -/
theorem regFld_reset {r : RegName} {u i j : Nat} {v : W64} (h : regReset r u i = v) (lsb w : Nat) :
    regFld State.reset r u i j lsb w = fGet v lsb w := by rw [← h]; rfl

/-- SB_LMAP maps each core to itself. -/
theorem sbLmap_reset {n : Nat} (hn : n < 160) :
    regFld State.reset .sbLmap 0 n 0 0 8 = n ∧ regBit State.reset .sbLmap 0 n 0 8 = false := by
  have hv : (regReset .sbLmap 0 n).toNat = n := (BitVec.toNat_ofNat ..).trans (Nat.mod_eq_of_lt (by omega))
  refine ⟨?_, ?_⟩
  · rw [regFld_reset rfl, fGet, hv, Nat.shiftRight_zero, Nat.mod_eq_of_lt (by omega)]
  · rw [regBit, regFld_reset rfl, fGet, hv, Nat.shiftRight_eq_div_pow, Nat.div_eq_of_lt (by omega)]
    rfl

theorem physOf_reset {n : Nat} (hn : n < 160) : physOf State.reset n = n := by
  obtain ⟨hfld, hbit⟩ := sbLmap_reset hn
  have hlt : ¬160 ≤ n := by omega
  simp only [physOf, hostOf, hfld, hbit, hlt, decide_false, Bool.or_self, Bool.false_eq_true, if_false, Option.getD_some]

theorem tagquota_reset (n : Nat) : regFld State.reset .seqTagquota 0 n 0 0 6 = 24 := by
  have hv : regReset .seqTagquota 0 n = 24#64 := rfl
  rw [regFld_reset hv]
  rfl

theorem quotasum_reset : regNow State.reset 0 .seqQuotasum 0 0 0 = 3840 := by
  have hsum : regNow State.reset 0 .seqQuotasum 0 0 0
      = ((List.range 160).map fun n => regFld State.reset .seqTagquota 0 n 0 0 6).sum := rfl
  rw [hsum, List.map_congr_left fun n _ => tagquota_reset n, List.map_const', List.sum_replicate, List.length_range]
  rfl

theorem slotBusy_reset (n : Nat) (i : SlotId) : slotBusy (getSlot State.reset n i) = false := by cases i <;> rfl

theorem qSize_reset (c q : Nat) : qSize State.reset c q = 16 := by
  have hv : regReset .dspQctl 0 c = 0x400#64 := rfl
  rw [qSize, regFld_reset hv]
  rfl

theorem qEnabled_reset (c q : Nat) : qEnabled State.reset c q = false := by
  have hv : regReset .dspQctl 0 c = 0x400#64 := rfl
  rw [qEnabled, regBit, regFld_reset hv]
  rfl

theorem rcClassmask_reset (k : Nat) : regFld State.reset .rcClassmask 0 k 0 0 16 = 0xFFFF := by
  have hv : regReset .rcClassmask 0 k = 0xFFFF#64 := rfl
  rw [regFld_reset hv]
  rfl

theorem ctxValid_reset (c : Nat) : ctxValid State.reset c = false := by
  have hv : regReset .xlCtxbind 0 c = 0#64 := rfl
  rw [ctxValid, regBit, regFld_reset hv]
  rfl

/-- Settles O59: each block as its table leaves it. -/
theorem resetValues : Obligations.ResetValues := by
  refine ⟨rfl, rfl, rfl, rfl, rfl, fun n i hn => ⟨slotBusy_reset n i, rfl, fun _ => rfl, fun _ => rfl, ?_, tagquota_reset n,
      (sbLmap_reset hn).1, ?_⟩, quotasum_reset, fun _ => ⟨rfl, rfl⟩, fun i w hi hw => ⟨rfl, ?_, rfl, rfl⟩,
    fun k _ => rcClassmask_reset k, fun c _ => ctxValid_reset c, fun c q _ _ => ⟨qEnabled_reset c q, rfl, qSize_reset c q⟩,
    fun _ _ => ⟨rfl, rfl, rfl⟩, fun _ => ⟨rfl, rfl⟩, rfl, rfl, rfl, rfl, rfl, rfl, rfl, rfl, rfl, rfl⟩
  · rw [physOf_reset hn]
  · change n + n / 8 * 2 ^ 8 + n % 8 * 2 ^ 13 + n / 40 * 2 ^ 16 = _
    omega
  · exact BitVec.getLsbD_zero

end Sys2Proof.Machine

/-! PROOFS. The family of spec/10, way commands: what a command does to a way it selects, that it leaves the others, and what it
refuses. -/

namespace Sys2Proof.Machine

set_option Elab.async false

/-! ### Folds that touch one element at a time -/

/-- What a fold over the numbers below `n` leaves of the part that only step `v` touches. -/
theorem foldl_range_at {α β : Type} {f : α → Nat → α} (view : α → β) {n v : Nat} (hv : v < n)
    (hne : ∀ a w, w ≠ v → view (f a w) = view a) (a : α) :
    ∃ b, view b = view a ∧ view ((List.range n).foldl f a) = view (f b v) := by
  have hbefore (m : Nat) (hm : m ≤ v) : view ((List.range m).foldl f a) = view a := by
    induction m with
    | zero => rfl
    | succ m ih =>
      rw [List.range_succ, List.foldl_append, List.foldl_cons, List.foldl_nil, hne _ m (by omega), ih (by omega)]
  induction n with
  | zero => omega
  | succ n ih =>
    rw [List.range_succ, List.foldl_append, List.foldl_cons, List.foldl_nil]
    by_cases hn : n = v
    · subst hn
      exact ⟨_, hbefore n (Nat.le_refl n), rfl⟩
    · obtain ⟨b, hb, hfold⟩ := ih (by omega)
      exact ⟨b, hb, by rw [hne _ n hn, hfold]⟩

/-! ### One way (Table 10.7) -/

/-- What a way holds: its state, its INVALID bit and its lines. -/
def wayView (w : Nat) (c : Slice) : Nat × Bool × (Fin 8192 → Option CLine) :=
  (wayState c w, c.inv.getLsbD w, fun x => lineAt c w x.val)

theorem wayState_setWay (c : Slice) (w v : Nat) : wayState (setWay c w v) w = v := spGet_set ..

theorem wayState_setWay_ne (c : Slice) {w u : Nat} (v : Nat) (h : u ≠ w) : wayState (setWay c w v) u = wayState c u :=
  spGet_set_ne _ _ _ h

theorem spGet_filter_key {α : Type} (d : α) (p : Nat → Bool) (m : Sp α) (k : Nat) :
    spGet d k (m.filter fun e => p e.1) = if p k then spGet d k m else d := by
  induction m with
  | nil => simp [spGet]
  | cons e m ih =>
    obtain ⟨a, v⟩ := e
    rw [List.filter_cons]
    by_cases ha : a = k
    · subst ha
      cases h : p a with
      | true => simp [spGet]
      | false => simpa [h] using ih
    · cases h : p a with
      | true => simp only [if_true, spGet, ha, if_false, ih]
      | false => simp only [Bool.false_eq_true, if_false, spGet, ha, ih]

theorem lineAt_dropWay (c : Slice) (w u : Nat) {x : Nat} (hx : x < 8192) :
    lineAt (dropWay c w) u x = if u = w then none else lineAt c u x := by
  have hkey : lineKey u x / 8192 = u := by unfold lineKey; omega
  have hget := spGet_filter_key none (fun k => k / 8192 != w) c.lines (lineKey u x)
  simp only [hkey, bne_iff_ne, ite_not] at hget
  exact hget

theorem getLsbD_one_shiftLeft {w u : Nat} (hu : u < 16) : (1#16 <<< w).getLsbD u = decide (u = w) := by
  have hone : decide (u - w = 0) = decide (u ≤ w) := decide_eq_decide.2 (by omega)
  simp only [BitVec.getLsbD_shiftLeft, hu, decide_true, Bool.true_and, BitVec.getLsbD_one, Nat.zero_lt_succ]
  rw [hone, ← decide_not, ← Bool.decide_and, decide_eq_decide]
  omega

theorem getLsbD_setBit16 (v : BitVec 16) {w u : Nat} (hu : u < 16) :
    (setBit16 v w).getLsbD u = (v.getLsbD u || decide (u = w)) := by
  rw [setBit16, BitVec.getLsbD_or, getLsbD_one_shiftLeft hu]

theorem getLsbD_clearBit (v : BitVec 16) {w u : Nat} (hu : u < 16) :
    (clearBit v w).getLsbD u = (v.getLsbD u && !decide (u = w)) := by
  rw [clearBit, BitVec.getLsbD_and, BitVec.getLsbD_not, getLsbD_one_shiftLeft hu, decide_eq_true hu, Bool.true_and]

/-- The state that a command takes a way to (Table 10.7). -/
def wayAfter (op was : Nat) : Nat :=
  if op = 1 then was else if op = 2 then 2 else if op = 3 then 3 else if op = 4 then (if was = 2 then 3 else 0) else 1

theorem wayView_setWay_ne (c : Slice) {w u : Nat} (v : Nat) (h : u ≠ w) : wayView u (setWay c w v) = wayView u c := by
  rw [wayView, wayState_setWay_ne c v h]
  rfl

theorem wayView_dropWay_ne (c : Slice) {w u : Nat} (h : u ≠ w) : wayView u (dropWay c w) = wayView u c := by
  have hlines : (fun x : Fin 8192 => lineAt (dropWay c w) u x.val) = fun x => lineAt c u x.val := by
    funext x
    rw [lineAt_dropWay c w u x.isLt, if_neg h]
  rw [wayView, hlines]
  rfl

theorem wayView_inv {c : Slice} {u : Nat} {v : BitVec 16} (h : v.getLsbD u = c.inv.getLsbD u) :
    wayView u { c with inv := v } = wayView u c := by
  rw [wayView]
  dsimp only
  rw [h]
  rfl

theorem setBit16_ne (v : BitVec 16) {w u : Nat} (hu : u < 16) (h : u ≠ w) : (setBit16 v w).getLsbD u = v.getLsbD u := by
  rw [getLsbD_setBit16 v hu, decide_eq_false h, Bool.or_false]

theorem clearBit_ne (v : BitVec 16) {w u : Nat} (hu : u < 16) (h : u ≠ w) : (clearBit v w).getLsbD u = v.getLsbD u := by
  rw [getLsbD_clearBit v hu, decide_eq_false h, Bool.not_false, Bool.and_true]

/-- A command on one way leaves every other. -/
theorem wayApply_ne (op : Nat) (c : Slice) {w u : Nat} (hu : u < 16) (h : u ≠ w) : wayView u (wayApply op c w) = wayView u c := by
  have hclean : wayView u (startClean c w 0) = wayView u c := wayView_setWay_ne c 3 h
  unfold wayApply
  split
  · exact (wayView_inv (c := dropWay c w) (setBit16_ne c.inv hu h)).trans (wayView_dropWay_ne c h)
  · split
    · exact (wayView_inv (c := setWay c w 2) (clearBit_ne c.inv hu h)).trans (wayView_setWay_ne c 2 h)
    · split
      · exact hclean
      · split
        · split
          · exact hclean
          · exact (wayView_setWay_ne _ 0 h).trans (wayView_dropWay_ne c h)
        · exact (wayView_inv (c := setWay c w 1) (clearBit_ne c.inv hu h)).trans (wayView_setWay_ne c 1 h)

/-- What a command does to its way. -/
theorem wayApply_self (op : Nat) (c : Slice) {w : Nat} (hw : w < 16) :
    wayState (wayApply op c w) w = wayAfter op (wayState c w)
      ∧ (op = 1 → (wayApply op c w).inv.getLsbD w = true ∧ ∀ x, x < 8192 → lineAt (wayApply op c w) w x = none)
      ∧ (op = 2 → (wayApply op c w).inv.getLsbD w = false) := by
  refine ⟨?_, fun hop => ?_, fun hop => ?_⟩
  · unfold wayApply wayAfter
    split
    · rfl
    · split
      · exact wayState_setWay c w 2
      · split
        · exact wayState_setWay c w 3
        · split
          · split
            · exact wayState_setWay c w 3
            · exact wayState_setWay _ w 0
          · exact wayState_setWay c w 1
  · subst hop
    refine ⟨?_, fun x hx => ?_⟩
    · exact (getLsbD_setBit16 c.inv hw).trans (by rw [decide_eq_true rfl, Bool.or_true])
    · exact (lineAt_dropWay c w w hx).trans (if_pos rfl)
  · subst hop
    exact (getLsbD_clearBit c.inv hw).trans (by rw [decide_eq_true rfl, Bool.not_true, Bool.and_false])

/-! ### The selected ways of the selected slices -/

/-- What a command leaves of a way of a slice, selected or not. -/
theorem waysApply_view (op : Nat) (ways : BitVec 16) (c : Slice) {w : Nat} (hw : w < 16) :
    ∃ b, wayView w b = wayView w c
      ∧ wayView w (waysApply op ways c) = wayView w (if ways.getLsbD w then wayApply op b w else b) :=
  foldl_range_at (f := fun c w => if ways.getLsbD w then wayApply op c w else c) (wayView w) hw
    (fun a u hu => by
      split
      · exact wayApply_ne op a hw (Ne.symm hu)
      · rfl) c

theorem getSlice_modSlice_ne (s : State) {i j : Nat} (f : Slice → Slice) (h : j ≠ i) :
    getSlice (modSlice s i f) j = getSlice s j := by
  have hget (d : Slice) : spGet d j (spSet (sliceReset i) i (f (getSlice s i)) s.slices) = spGet d j s.slices := by
    unfold spSet
    split
    · exact spGet_del_ne d _ h
    · exact spGet_put_ne d _ _ h
  exact hget _

theorem getSlice_slicesApply (s : State) (op : Nat) (ways : BitVec 16) (slices : Nat) {n : Nat} (hn : n < 20) :
    getSlice (slicesApply s op ways slices) n = if slices.testBit n then waysApply op ways (getSlice s n) else getSlice s n := by
  obtain ⟨b, hb, hfold⟩ := foldl_range_at (f := fun s i => if slices.testBit i then modSlice s i (waysApply op ways) else s)
    (fun s => getSlice s n) hn (fun a i hi => by
      split
      · exact getSlice_modSlice_ne a _ (Ne.symm hi)
      · rfl) s
  have hb : getSlice b n = getSlice s n := hb
  rw [slicesApply]
  refine hfold.trans ?_
  split
  · rw [getSlice_modSlice, hb]
  · exact hb

/-! ### The command (R395, R396) -/

/-- The commands by their number. -/
theorem exec_wayCommand {ways : BitVec 16} {op : Nat} {i : Instr} (s : State)
    (h : (op, i) ∈ [(1, Instr.wayInvalidate ways), (2, .enable ways), (3, .disable ways), (4, .powerDown ways), (5, .powerUp ways)]) :
    exec i s = .next (wayCommand op ways s) ∧ 1 ≤ op ∧ op ≤ 5 := by
  simp only [List.mem_cons, Prod.mk.injEq, List.not_mem_nil, or_false] at h
  obtain ⟨rfl, rfl⟩ | ⟨rfl, rfl⟩ | ⟨rfl, rfl⟩ | ⟨rfl, rfl⟩ | ⟨rfl, rfl⟩ := h <;> exact ⟨rfl, by decide, by decide⟩

section
variable {s : State} {op : Nat} {ways : BitVec 16}

theorem wayCommand_busy (h : s.wayCmd.isSome = true) : wayCommand op ways s = post s .cmdBusy 0 0 none op 0 := if_pos h

theorem wayCommand_bad (h : s.wayCmd = none) (hbad : ways = 0#16 ∨ regFld s .rcCmdslice 0 0 0 0 20 = 0) :
    wayCommand op ways s = setCmdstat s 5 0 0 := by
  have hnot : ¬(s.wayCmd.isSome = true) := by rw [h]; nofun
  rw [wayCommand, if_neg hnot]
  have hor : ((op = 0 ∨ 5 < op) ∨ ways = 0#16) ∨ regFld s .rcCmdslice 0 0 0 0 20 = 0 := by tauto
  exact if_pos (by simpa using hor)

variable (h : s.wayCmd = none) (hop : 1 ≤ op ∧ op ≤ 5) (hways : ways ≠ 0#16) (hslices : regFld s .rcCmdslice 0 0 0 0 20 ≠ 0)
include h hop hways hslices

/-- A legal command is refused at its first refusal, or starts on its ways. -/
theorem wayCommand_legal : wayCommand op ways s = match firstRefusal s op ways (regFld s .rcCmdslice 0 0 0 0 20) with
    | some (e, i, w) => setCmdstat s e i w
    | none => wayCmdDone (slicesApply { s with wayCmd := some ⟨op, ways, regFld s .rcCmdslice 0 0 0 0 20⟩ } op ways
        (regFld s .rcCmdslice 0 0 0 0 20)) := by
  have hnot : ¬(s.wayCmd.isSome = true) := by rw [h]; nofun
  rw [wayCommand, if_neg hnot]
  exact if_neg (by simp [hways, hslices]; omega)

end

/-- Settles O33: a command that is refused writes its report alone. -/
theorem wayCommandRefusals : Obligations.WayCommandRefusals := by
  intro ways s slices rows stat
  have hstat {e n w : Nat} : stat e n w (setCmdstat s e n w) := ⟨regVal_setReg .., onlyRegs_setReg ..⟩
  refine ⟨fun op i hrow => ?_, fun c hc hop => ?_⟩
  · obtain ⟨hexec, hop⟩ := exec_wayCommand s hrow
    refine ⟨fun hbusy => ⟨_, hexec, ?_⟩, fun hidle hbad => ⟨_, hexec, ?_⟩, fun e n w hidle hways hslices hfirst => ⟨_, hexec, ?_⟩⟩
    · have hkept : Changes [.regs, .log, .trace] s (post s .cmdBusy 0 0 none op 0) := .of post_changes
      rw [wayCommand_busy hbusy]
      exact ⟨hkept .slices (by decide), hkept .wayCmd (by decide), hkept .hbm (by decide), hkept.platformKept⟩
    · rw [wayCommand_bad hidle hbad]
      exact hstat
    · rw [wayCommand_legal hidle hop hways hslices, hfirst]
      exact hstat
  · refine ⟨_, whenDue_pos ?_ .., rfl, regVal_setReg .., rfl⟩
    rw [invalidating, hc, Option.map_some, hop]
    rfl

/-- Settles O32: a selected way of a selected slice is touched by its own command alone. -/
theorem wayCommandTransitions : Obligations.WayCommandTransitions := by
  intro ways s slices rows op i hrow hidle hways hslices hfirst
  obtain ⟨hexec, hop⟩ := exec_wayCommand s hrow
  refine ⟨_, hexec, ?_⟩
  intro n w hn hw was picked
  have hslice : getSlice (wayCommand op ways s) n = if slices.testBit n then waysApply op ways (getSlice s n) else getSlice s n := by
    rw [wayCommand_legal hidle hop hways hslices, hfirst]
    have hdone (u : State) : getSlice (wayCmdDone u) n = getSlice u n := by
      unfold getSlice
      rw [wayCmdDone_changes .slices (by decide)]
    exact (hdone _).trans (getSlice_slicesApply _ op ways slices hn)
  rw [hslice]
  by_cases hn' : slices.testBit n = true
  · rw [if_pos hn']
    obtain ⟨b, hb, hview⟩ := waysApply_view op ways (getSlice s n) hw
    have hwas : wayState b w = was := congrArg (·.1) hb
    by_cases hw' : ways.getLsbD w = true
    · rw [if_pos hw'] at hview
      have hstate : wayState (waysApply op ways (getSlice s n)) w = wayState (wayApply op b w) w := congrArg (·.1) hview
      have hinv : (waysApply op ways (getSlice s n)).inv.getLsbD w = (wayApply op b w).inv.getLsbD w := congrArg (·.2.1) hview
      have hlines (x : Fin 8192) : lineAt (waysApply op ways (getSlice s n)) w x.val = lineAt (wayApply op b w) w x.val :=
        congrFun (congrArg (·.2.2) hview) x
      obtain ⟨hafter, hdrop, henable⟩ := wayApply_self op b hw
      rw [hstate, hinv, hafter, hwas, if_pos ⟨hn', hw'⟩]
      refine ⟨rfl, fun _ h1 => ⟨(hdrop h1).1, fun x hx => ?_⟩, fun _ h2 => henable h2⟩
      exact (hlines ⟨x, hx⟩).trans ((hdrop h1).2 x hx)
    · rw [if_neg hw'] at hview
      have hstate : wayState (waysApply op ways (getSlice s n)) w = wayState b w := congrArg (·.1) hview
      rw [if_neg (fun h : picked => hw' h.2), hstate]
      exact ⟨hwas, fun h => absurd h.2 hw', fun h => absurd h.2 hw'⟩
  · rw [if_neg hn', if_neg (fun h : picked => hn' h.1)]
    exact ⟨rfl, fun h => absurd h.1 hn', fun h => absurd h.1 hn'⟩

/-! ### A way in no state of Table 10.6 -/

/-- A part at its reset, but for a way whose state is none of the four, and which holds a clean line. -/
def strangeWay : State :=
  { State.reset with slices := [(0, { sliceReset 0 with way := [(0, 4)], lines := [(0, some ⟨0, false, [], []⟩)] })] }

/-- The error leaves the state of the way. -/
theorem wayState_strangeWay {t : State} {chk : ImgChk}
    (h : exec (.uncorrectableDataError (.line 0 0 0 0) false chk chk) strangeWay = .next t) : wayState (getSlice t 0) 0 = 4 := by
  have hexec : exec (.uncorrectableDataError (.line 0 0 0 0) false chk chk) strangeWay = .next (dataError strangeWay 0 0 0 0) := rfl
  rw [hexec] at h
  rw [← Host.Outcome.next.inj h]
  rfl

/-- Refutes O34: no state invariant bounds a way's state by 3, and an uncorrectable error leaves a way that is in no state of Table
10.6 as it is. -/
theorem not_cacheSweepsAndErrors : ¬ Obligations.CacheSweepsAndErrors := by
  intro h
  obtain ⟨-, -, -, herror, -⟩ := h 0 0 0 0 false false false ⟨false, false⟩ ⟨false, false⟩ strangeWay
  have hstate : wayState (getSlice strangeWay 0) 0 = 4 := rfl
  have hline : lineAt (getSlice strangeWay 0) 0 0 = some ⟨0, false, [], []⟩ := rfl
  obtain ⟨t, ht, -, -, hafter, -⟩ := herror ⟨0, false, [], []⟩ hline (hstate ▸ by omega)
  rw [show (0 : Fin 20).val = 0 from rfl, show (0 : Fin 16).val = 0 from rfl, wayState_strangeWay ht] at hafter
  exact absurd hafter (by decide)

end Sys2Proof.Machine

/-! PROOFS. The family of spec/06, execute units: a tag file that lists one tag twice. The model's operations keep such lists
sorted, but the statement is about every state. -/

namespace Sys2Proof.Machine

set_option Elab.async false

/-! ### Parts that run -/

/-- A part brought up, with nothing in it. -/
def runningPart : State :=
  { State.reset with power := { powerReset with por := false, perst := false, rails := .on, phase := 7, booted := true } }

/-- A block with nothing in it. -/
def bareBlock : Block := ⟨.fp32, 0, false, false, .fp32, false, false, false, false, 0, 0, 0, 0, 0, 0, 0⟩

/-- A command of the bulk slot of a core, with nothing in it. -/
def bareCmd (op : EngOp) (n : Nat) : Cmd :=
  { op := op, core := n, slot := .bulk, ctx := 0, blk := bareBlock, tile := noTile, ta := noTile, tb := noTile, tc := noTile,
    ga := 0, gb := 0, addr := 0, lfsr := 1#32, ldev := 0, seq := 0, ord := 0, ready := false, table := none, stream := none,
    bags := [], partials := [], remoteQ := [], outbox := [], waiting := 0, unit := 0, doneN := 0, flags := 0#8, drops := 0,
    poison := false, late := false, pivot := false, code := 0, detail := 0, replay := false }

/-- A tag in flight with a command. -/
def flightTag (c : Cmd) : Tag := ⟨.inFlight, 0#4, some (c.core, .bulk), 0, 0#64, some c, false⟩

/-! ### A retirement (R109) -/

theorem getTag_modCmd (s : State) (t : Nat) (f : Cmd → Cmd) :
    getTag (modCmd s t f) t = { getTag s t with cmd := (getTag s t).cmd.map f } := getTag_setTag ..

theorem getTag_modCmd_ne (s : State) {t u : Nat} (f : Cmd → Cmd) (h : u ≠ t) : getTag (modCmd s t f) u = getTag s u :=
  getTag_setTag_ne _ _ h

/-- A tag that carries a command is RETIRING with it gone. -/
theorem getTag_retire {s : State} {t : Nat} {c : Cmd} (h : (getTag s t).cmd = some c) :
    getTag (retire s t) t = { getTag s t with st := .retiring, cmd := none, mem := usesMemory c } := by
  rw [retire, h]
  simp only [retireWith, h]
  rw [modCore_changes.getTag, modSlot_changes.getTag, getTag_setTag]

theorem getTag_retire_ne (s : State) {t u : Nat} (h : u ≠ t) : getTag (retire s t) u = getTag s u := by
  unfold retire
  split
  · next c hc =>
    simp only [retireWith, hc]
    rw [modCore_changes.getTag, modSlot_changes.getTag, getTag_setTag_ne _ _ h, dropFromSlot_changes.getTag]
  · rfl

/-- A command that fails retires. -/
theorem getTag_fail {s : State} {t code : Nat} {c : Cmd} (h : (getTag s t).cmd = some c) :
    getTag (fail s t code) t = { getTag s t with st := .retiring, cmd := none, mem := usesMemory { c with code := code } } := by
  have hcmd : (getTag (modCmd s t fun c => { c with code := code }) t).cmd = some { c with code := code } := by
    rw [getTag_modCmd, h]
    rfl
  rw [fail, getTag_retire hcmd, getTag_modCmd]

/-! ### A tag listed twice -/

/-- An ACCWB of more rows than one unit does. -/
def longAccwb : Cmd := { bareCmd (.block .accwb) 0 with blk := { bareBlock with w2 := 20000 } }

/-- An MLAYER of another core that has not joined its layer. -/
def lateMlayer : Cmd := bareCmd (.block .mlayer) 1

/-- A layer of the same number that expects other parameters. -/
def otherLayer : Layer :=
  { ctx := 0, id := 0, list := [], mask := 0, fmtIn := .fp32, fmtOut := .fp32, sp := false, cm := 0, count := 1, express := false,
    fm := false, k := 0, m := 0, arrivals := [], who := [], complete := false, seq := 0, started := false, rows := [], sent := 0,
    stations := [], halted := none, halts := 0, xlate := false }

/-- Tag 0 is listed with the ACCWB, which heads the queue of its slot, and again with the MLAYER. -/
def twiceListed : State :=
  { runningPart with
    tags := [(0, flightTag longAccwb), (0, flightTag lateMlayer)],
    layers := [otherLayer],
    cores := [(0, { coreReset with bulk := { slotReset with xq := [0] } })] }

/-- The ACCWB's entry may change: the MLAYER's stays behind it. -/
theorem spSet_twice {α : Type} [DecidableEq α] {d x : α} (h : x ≠ d) (a b : α) :
    spSet d 0 x [(0, a), (0, b)] = [(0, x), (0, b)] := by
  rw [spSet, if_neg h]
  rfl

/-- The tag file still lists tag 0 twice, first with some ACCWB. -/
def StillTwice (s : State) : Prop :=
  ∃ x c, s.tags = [(0, x), (0, flightTag lateMlayer)] ∧ x.st = .inFlight ∧ x.cmd = some c ∧ c.op = .block .accwb

theorem StillTwice.modCmd {s : State} (h : StillTwice s) {f : Cmd → Cmd} (hf : ∀ c, (f c).op = c.op) : StillTwice (modCmd s 0 f) := by
  obtain ⟨x, c, htags, hst, hcmd, hop⟩ := h
  have hget : getTag s 0 = x := by
    rw [getTag, htags]
    rfl
  refine ⟨{ x with cmd := x.cmd.map f }, f c, ?_, hst, by rw [hcmd]; rfl, (hf c).trans hop⟩
  have hne : ({ x with cmd := x.cmd.map f } : Tag) ≠ tagReset := fun h => by
    have := congrArg Tag.st h
    exact absurd (hst.symm.trans this) (by decide)
  rw [Machine.modCmd, hget, setTag, htags]
  exact spSet_twice hne ..

theorem StillTwice.of_tags {s t : State} (h : StillTwice s) (ht : t.tags = s.tags) : StillTwice t := by
  obtain ⟨x, c, htags, hrest⟩ := h
  exact ⟨x, c, ht.trans htags, hrest⟩

/-- The MLAYER is the one command that waits to join. -/
theorem StillTwice.unjoined {s : State} (h : StillTwice s) : unjoined s = [(0, lateMlayer)] := by
  obtain ⟨x, c, htags, hst, hcmd, hop⟩ := h
  have hnot : (c.op == EngOp.block .mlayer) = false := by rw [hop]; rfl
  rw [Machine.unjoined, htags]
  simp only [List.foldl_cons, hcmd, hnot, Bool.and_false, Bool.false_and, Bool.false_eq_true, if_false, List.foldl_nil]
  rfl

/-- Joining fails: the tag retires, with the ACCWB's entry. -/
theorem joinLayers_retires {s : State} (h : StillTwice s) (hl : s.layers = [otherLayer]) (hc : getCore s 1 = coreReset) :
    (getTag (joinLayers s) 0).st = .retiring := by
  have hready : directReady s lateMlayer = true := by
    have hslot : getSlot s 1 .bulk = slotReset := by rw [getSlot, hc]; rfl
    change ((getSlot s 1 .bulk).xq.all fun _ => _) = true
    rw [hslot]
    rfl
  have hjoin : joinLayers s = layerArrive (modCmd s 0 fun c => { c with ready := true }) 0 lateMlayer := by
    rw [joinLayers, h.unjoined, joinEach, hready]
    rfl
  obtain ⟨x, c, htags, hst, hcmd, hop⟩ := h.modCmd (f := fun c => { c with ready := true }) fun _ => rfl
  have hfails : ∃ u : State, u.tags = (modCmd s 0 fun c => { c with ready := true }).tags
      ∧ joinLayers s = fail u 0 codeJoinMismatch := by
    refine ⟨releaseHolds (modCmd s 0 fun c => { c with ready := true }) 1 .bulk, releaseHolds_changes .tags (by decide), ?_⟩
    have hkept : (releaseHolds (modCmd s 0 fun c => { c with ready := true }) 1 .bulk).layers
        = (modCmd s 0 fun c => { c with ready := true }).layers := releaseHolds_changes .layers (by decide)
    have hlayers : (releaseHolds (modCmd s 0 fun c => { c with ready := true }) 1 .bulk).layers = [otherLayer] := hkept.trans hl
    rw [hjoin, layerArrive]
    simp only [show lateMlayer.core = 1 from rfl, show lateMlayer.slot = SlotId.bulk from rfl, hlayers]
    rfl
  obtain ⟨u, hu, hfail⟩ := hfails
  have hget : getTag u 0 = x := by
    rw [getTag, hu, htags]
    rfl
  rw [hfail, getTag_fail (hget ▸ hcmd)]

/-- A unit that is not a command's last. -/
theorem rowsUnit_unfinished (s : State) (t : Nat) (c : Cmd) (f : Wrote → Nat → Wrote) {rows : List Nat} {total : Nat} (detail : Nat)
    (h : c.unit + rows.length < total) :
    rowsUnit s t c f rows total detail
      = modCmd (applyWrote s t c (rows.foldl f (wroteOf s c.core))) t fun c => { c with unit := c.unit + rows.length } :=
  if_neg (by omega)

theorem accwbUnit_unfinished (s : State) (t : Nat) (c : Cmd)
    (h : c.unit + (unitRange c c.blk.w2 (rowBytes c.tile.fmt c.tile.n)).length < c.blk.w2) :
    ∃ x, accwbUnit s t c = modCmd (applyWrote s t c x) t
      fun d => { d with unit := d.unit + (unitRange c c.blk.w2 (rowBytes c.tile.fmt c.tile.n)).length } :=
  ⟨_, rowsUnit_unfinished _ _ _ _ _ h⟩

theorem length_unitRange (c : Cmd) (total n : Nat) : (unitRange c total n).length = min (unitRows n) (total - c.unit) := by
  rw [unitRange, List.length_map, List.length_range]

/-- One unit of the ACCWB does 16384 of its 20000 rows. -/
theorem length_longAccwb :
    (unitRange longAccwb longAccwb.blk.w2 (rowBytes longAccwb.tile.fmt longAccwb.tile.n)).length = 16384 := by
  rw [length_unitRange]
  decide

theorem longAccwb_unfinished :
    longAccwb.unit + (unitRange longAccwb longAccwb.blk.w2 (rowBytes longAccwb.tile.fmt longAccwb.tile.n)).length
      < longAccwb.blk.w2 := by
  have hunit : longAccwb.unit = 0 := rfl
  have hrows : longAccwb.blk.w2 = 20000 := rfl
  rw [length_longAccwb, hunit, hrows]
  omega

/-- What the unit writes leaves other cores, the layers, and the second entry of the tag. -/
theorem applyWrote_twice {s : State} (h : StillTwice s) {c : Cmd} {x : Wrote} (hc : c.core = 0) :
    StillTwice (applyWrote s 0 c x) ∧ getCore (applyWrote s 0 c x) 1 = getCore s 1 := by
  have hwrote : ∃ u, applyWrote s 0 c x
      = modCmd u 0 (fun c => { c with flags := c.flags ||| x.flags, poison := c.poison || x.bad != 0 })
        ∧ u.tags = s.tags ∧ u.cores = (setCore s c.core x.core).cores := by
    refine ⟨_, rfl, ?_, ?_⟩
    · split <;> rfl
    · split <;> rfl
  obtain ⟨u, hu, htags, hcores⟩ := hwrote
  rw [hu]
  refine ⟨(h.of_tags htags).modCmd fun _ => rfl, ?_⟩
  have hcore : getCore u 1 = getCore s 1 := by
    rw [getCore_congr hcores, hc, getCore_setCore_ne s x.core (by decide)]
  exact hcore

theorem unitEnd_twiceListed : (getTag (unitEnd twiceListed 0 .bulk) 0).st = .retiring := by
  have htwice : StillTwice twiceListed := ⟨flightTag longAccwb, longAccwb, rfl, rfl, rfl, rfl⟩
  have hstep : unitStep twiceListed 0 longAccwb = accwbUnit twiceListed 0 longAccwb := rfl
  obtain ⟨x, hunit⟩ := accwbUnit_unfinished twiceListed 0 longAccwb longAccwb_unfinished
  have hend : unitEnd twiceListed 0 .bulk = joinLayers (tileBoundary (unitStep twiceListed 0 longAccwb) 0) := rfl
  rw [hend, hstep, hunit]
  obtain ⟨hstill, hcore⟩ := applyWrote_twice htwice (c := longAccwb) (x := x) rfl
  have hlayers : (applyWrote twiceListed 0 longAccwb x).layers = twiceListed.layers := applyWrote_changes .layers (by decide)
  have hturn (u : State) (hu : StillTwice u) (hul : u.layers = [otherLayer]) (huc : getCore u 1 = coreReset) :
      (getTag (joinLayers (tileBoundary u 0)) 0).st = .retiring := by
    have hkept : Changes [.cores] u (tileBoundary u 0) := tileBoundary_changes
    have hlayers : (tileBoundary u 0).layers = u.layers := hkept .layers (by decide)
    refine joinLayers_retires (hu.of_tags (hkept .tags (by decide))) (hlayers.trans hul) ?_
    rw [tileBoundary, getCore_modCore_ne _ _ (by decide), huc]
  exact hturn _ (hstill.modCmd fun _ => rfl) hlayers hcore

/-- Refutes O26: a tag listed a second time, with an MLAYER whose layer it does not match, retires when layers join after the unit,
while the ACCWB that the slot runs under it has rows left. -/
theorem not_executeUnitEnds : ¬ Obligations.ExecuteUnitEnds := by
  intro h
  obtain ⟨t, ht, -, -, hrows⟩ := h ⟨0, .bulk⟩ twiceListed rfl
  have ht : unitEnd twiceListed 0 .bulk = t := Host.Outcome.next.inj ht
  obtain ⟨-, haccwb, -⟩ := hrows 0 rfl longAccwb rfl rfl rfl
  have hunit := (haccwb rfl).2 longAccwb_unfinished
  have hgone : tagCmd t 0 = none := by
    rw [tagCmd, ← ht, unitEnd_twiceListed]
    rfl
  rw [hgone] at hunit
  exact absurd hunit (by nofun)

end Sys2Proof.Machine

/-! PROOFS. The family of spec/06 and spec/12, parcels: their delivery, ports and rings; and how tags end (R109). -/

namespace Sys2Proof.Machine

set_option Elab.async false

/-! ### How a tag ends -/

/-- Every tag is RETIRING, or is in the state it was in and carries a command if it did. -/
def TagEnds (s t : State) : Prop :=
  ∀ k, (getTag t k).st = .retiring
    ∨ (getTag t k).st = (getTag s k).st ∧ (getTag t k).cmd.isSome = (getTag s k).cmd.isSome

theorem TagEnds.refl {s : State} : TagEnds s s := fun _ => .inr ⟨rfl, rfl⟩

theorem TagEnds.trans {s t u : State} (h : TagEnds s t) (h' : TagEnds t u) : TagEnds s u := fun k => by
  obtain hu | ⟨hst, hcmd⟩ := h' k
  · exact .inl hu
  · obtain ht | ⟨hst', hcmd'⟩ := h k
    · exact .inl (hst.trans ht)
    · exact .inr ⟨hst.trans hst', hcmd.trans hcmd'⟩

theorem Changes.tagEnds {l : List Part} {s t : State} (h : Changes l s t) (hl : Part.tags ∉ l := by decide) : TagEnds s t :=
  fun k => by
    rw [h.getTag k hl]
    exact .inr ⟨rfl, rfl⟩

theorem tagEnds_modCmd {s : State} {t : Nat} {f : Cmd → Cmd} : TagEnds s (modCmd s t f) := fun k => by
  by_cases hk : k = t
  · subst hk
    rw [getTag_modCmd]
    exact .inr ⟨rfl, by cases (getTag s k).cmd <;> rfl⟩
  · rw [getTag_modCmd_ne s f hk]
    exact .inr ⟨rfl, rfl⟩

theorem retire_of_none {s : State} {t : Nat} (h : (getTag s t).cmd = none) : retire s t = s := by rw [retire, h]

theorem tagEnds_retire {s : State} {t : Nat} : TagEnds s (retire s t) := fun k => by
  by_cases hk : k = t
  · subst hk
    cases hc : (getTag s k).cmd with
    | none =>
      rw [retire_of_none hc]
      exact .inr ⟨rfl, by rw [hc]⟩
    | some c =>
      rw [getTag_retire hc]
      exact .inl rfl
  · rw [getTag_retire_ne s hk]
    exact .inr ⟨rfl, rfl⟩

/-- A tag that has ended, or carries a command that can. -/
def EndsOr (s : State) (t : Nat) : Prop := (getTag s t).st = .retiring ∨ (getTag s t).cmd.isSome = true

theorem EndsOr.ends {s t : State} {k : Nat} (h : EndsOr s k) (ht : TagEnds s t) : EndsOr t k := by
  obtain hk | ⟨hst, hcmd⟩ := ht k
  · exact .inl hk
  · exact h.imp hst.trans hcmd.trans

/-- Such a tag is RETIRING after it retires. -/
theorem EndsOr.retire {s : State} {t : Nat} (h : EndsOr s t) : (getTag (retire s t) t).st = .retiring := by
  cases hc : (getTag s t).cmd with
  | some c => rw [getTag_retire hc]
  | none =>
    rw [retire_of_none hc]
    exact h.resolve_right (by rw [hc]; nofun)

theorem EndsOr.fail {s : State} {t code : Nat} (h : EndsOr s t) : (getTag (fail s t code) t).st = .retiring :=
  (h.ends tagEnds_modCmd).retire

theorem tagCmd_endsOr {s : State} {t : Nat} {c : Cmd} (h : tagCmd s t = some c) : EndsOr s t := by
  rw [tagCmd] at h
  split at h
  · exact .inr (by rw [h]; rfl)
  · cases h

/-! ### Delivery (R250 to R252) -/

theorem tagEnds_serveInbox {s : State} {n : Nat} {i : SlotId} : TagEnds s (serveInbox s n i) := by
  unfold serveInbox
  split
  · split
    · exact (modSlot_changes.tagEnds.trans modCore_changes.tagEnds).trans (tagEnds_modCmd.trans tagEnds_retire)
    · exact .refl
  · exact .refl

theorem tagEnds_deliverParcel {s : State} {n slot ctx : Nat} {p : Parcel} : TagEnds s (deliverParcel s n slot ctx p).2 := by
  unfold deliverParcel
  split
  · exact modSlot_changes.tagEnds.trans tagEnds_serveInbox
  · exact .refl

theorem psendDue_cmd {s : State} {t : Nat} (h : psendDue s t = true) : ∃ c, tagCmd s t = some c := by
  rw [psendDue] at h
  split at h
  · exact ⟨_, by assumption⟩
  · cases h

/-- A parcel's sender retires, whatever became of the parcel. -/
theorem psendDelivers_retires {s : State} {t : Nat} {c : Cmd} (h : EndsOr s t) :
    (getTag (psendDelivers s t c) t).st = .retiring := by
  have hdelivers : TagEnds s (if psendHost c then deliverRing (postRank (isExpress c.slot)) s c.ctx (psendParcel s c)
      else deliverParcel s (psendCore c) (psendSlot c) c.ctx (psendParcel s c)).2 := by
    split
    · exact deliverRing_changes.tagEnds
    · exact tagEnds_deliverParcel
  exact ((h.ends hdelivers).ends tagEnds_modCmd).fail

theorem deliverParcel_code (s : State) (n slot ctx : Nat) (p : Parcel) :
    (deliverParcel s n slot ctx p).1 = if inboxTakes s n slot ctx then codeDone else codeParcelRefused := by
  unfold deliverParcel
  split <;> rfl

/-- What a delivered parcel leaves of its port (R475). -/
theorem portDelivers_leaves (s : State) (ctx : Nat) (x : PortSend) (t : Nat) :
    (getTag (portDelivers s ctx x t) t).st = .free
      ∧ spGet 0 x.port (portDelivers s ctx x t).host.pstat
        = if inboxTakes s x.core (slotNum x.slot) ctx = true then 2 else 3 := by
  have hstat : spGet 0 x.port (portDelivers s ctx x t).host.pstat
      = if (deliverParcel s x.core (slotNum x.slot) ctx
          { bytes := x.bytes, srcCore := 0, srcDev := 0, fromHost := true, poison := [] }).1 = codeDone then 2 else 3 :=
    spGet_set ..
  refine ⟨?_, ?_⟩
  · have hfree (u : State) (y : Tag) : (getTag (setTag u t { y with st := .free }) t).st = .free := by rw [getTag_setTag]
    exact hfree _ _
  · rw [hstat, deliverParcel_code]
    split <;> rfl

/-! ### Host parcel ports (R475) -/

theorem length_padTo (k : Nat) (bs : List Byte) : k ≤ (padTo k bs).length := by
  simp only [padTo, List.length_append, List.length_replicate]
  omega

/-- SEND on a port that is free starts a parcel. -/
theorem portStart_leaves (s : State) (key : Nat) (v : W64) (tag : Option Nat) :
    spGet 0 key (portStart s key v tag).host.pstat = 1
      ∧ ∃ x, (portStart s key v tag).host.portSends = s.host.portSends ++ [x] ∧ x.port = key ∧ x.core = v.toNat / 256 % 256
        ∧ x.bytes.length = v.toNat % 64 + 1 ∧ x.tag = tag := by
  have htake : ∃ u : State, u.host = s.host ∧ portStart s key v tag
      = { u with host := { u.host with
            portSends := u.host.portSends ++ [⟨key, tag, bitsOf v.toNat 8 8, slotOf (bitsOf v.toNat 16 1),
              (padTo 64 (spGet [] key u.host.pdata)).take (v.toNat % 64 + 1)⟩],
            pstat := spSet 0 key 1 u.host.pstat } } := by
    refine ⟨_, ?_, rfl⟩
    cases tag <;> rfl
  obtain ⟨u, hu, hstart⟩ := htake
  have hstat : spGet 0 key (spSet 0 key 1 u.host.pstat) = 1 := spGet_set ..
  rw [hstart, ← hu]
  refine ⟨hstat, _, rfl, rfl, ?_, ?_, rfl⟩
  · exact congrArg (· % 2 ^ 8) (Nat.shiftRight_eq_div_pow v.toNat 8)
  · have hpad := length_padTo 64 (spGet [] key u.host.pdata)
    rw [List.length_take]
    omega

theorem portSends_busy {s : State} {key : Nat} (v : W64) (tag : Nat) (h : spGet 0 key s.host.pstat = 1) :
    portSends s key v tag = .next s := if_pos h

theorem portSends_free {s : State} {key : Nat} (v : W64) {tag : Nat} (h : spGet 0 key s.host.pstat ≠ 1)
    (htag : (getTag s tag).st = .free ∧ poolOf tag = .parcel ∧ tag < 4096 ∨ poolFree s .parcel = 0) :
    portSends s key v tag = .next (portStart s key v (if poolFree s .parcel = 0 then none else some tag)) := by
  rw [portSends, if_neg h]
  by_cases hempty : poolFree s .parcel = 0
  · rw [if_pos hempty, if_pos hempty]
  · obtain ⟨hst, hpool, hlt⟩ := htag.resolve_right hempty
    rw [if_neg hempty, if_neg hempty, hst, hpool, decide_eq_true hlt]
    rfl

/-! ### The ring head (R469, R477) -/

theorem getRing_congr {s t : State} (h : t.host = s.host) (ctx : Nat) : getRing t ctx = getRing s ctx := by
  rw [getRing, h, getRing]

theorem getRing_post (s : State) (code : LogCode) (k i : Nat) (c : Option Nat) (arg addr ctx : Nat) :
    getRing (post s code k i c arg addr) ctx = getRing s ctx := getRing_congr (post_changes .host (by decide)) ctx

/-- A head within what the ring holds is taken. -/
theorem getRing_ringRelease (s : State) (ctx v : Nat) :
    getRing (ringRelease s ctx v) ctx
      = if v < ringSize s ctx ∧ (v + ringSize s ctx - (getRing s ctx).head) % ringSize s ctx
            ≤ ((getRing s ctx).tail + ringSize s ctx - (getRing s ctx).head) % ringSize s ctx
        then { getRing s ctx with head := v } else getRing s ctx := by
  unfold ringRelease
  dsimp only
  split
  · next h =>
    simp only [Bool.or_eq_true, decide_eq_true_eq] at h
    rw [getRing_post, if_neg (by omega)]
  · next h =>
    simp only [Bool.or_eq_true, decide_eq_true_eq, not_or, Nat.not_le, Nat.not_lt] at h
    rw [if_pos h]
    exact spGet_set ..

/-- Settles O29: a delivery ends its sender, and a doorbell page is reached by one function. -/
theorem parcelEventsComplete : Obligations.ParcelEventsComplete := by
  intro tag fn ctx port skew data send bell s key good v n r
  refine ⟨fun hdue => ?_, fun x hx u hu hup => ?_, fun hfree => ?_, ?_⟩
  · obtain ⟨c, hc⟩ := psendDue_cmd hdue
    have hexec : exec (.parcelDelivery (.psend tag)) s = .next (psendDelivers s tag.val c) :=
      (whenDue_pos hdue ..).trans (by rw [hc])
    have hkept : Changes retireParts s (psendDelivers s tag.val c) := psendDelivers_changes
    exact ⟨_, hexec, hkept.platformKept, psendDelivers_retires (tagCmd_endsOr hc), hkept .hbm (by decide)⟩
  · have hexec : exec (.parcelDelivery (.port ctx port)) s = .next (portDelivers s ctx.val x u) := by
      have hbody : exec (.parcelDelivery (.port ctx port)) s = match portSend s key with
          | some x => (match portTag s x with
            | some t => whenDue (planeUp s) s (.next (portDelivers s ctx.val x t))
            | none => .next s)
          | none => .next s := rfl
      rw [hbody, hx]
      dsimp only
      rw [hu]
      exact whenDue_pos hup ..
    obtain ⟨hst, hstat⟩ := portDelivers_leaves s ctx.val x u
    exact ⟨_, hexec, portDelivers_changes.platformKept, hst, hstat⟩
  · have hbody : exec (.parcelPortSend fn ctx port data send tag) s = match pageOf s fn.val ctx.val with
        | .gone => .next s
        | .denied => .next (denied s fn.val ctx.val)
        | .ok => portSends (portData s key data) key send tag.val := rfl
    cases hpage : pageOf s fn.val ctx.val with
    | gone => exact ⟨s, by rw [hbody, hpage], Changes.refl.platformKept (l := []), fun _ => rfl, nofun, nofun⟩
    | denied =>
      refine ⟨_, by rw [hbody, hpage], denied_changes.platformKept, nofun, fun _ => denied_changes .host (by decide), nofun⟩
    | ok =>
      have hpstat : spGet 0 key (portData s key data).host.pstat = spGet 0 key s.host.pstat := rfl
      by_cases hbusy : spGet 0 key s.host.pstat = 1
      · refine ⟨_, by rw [hbody, hpage]; exact portSends_busy send _ hbusy, portData_changes.platformKept, nofun, nofun,
          fun _ => ⟨hbusy, fun _ => rfl, fun h => absurd hbusy h⟩⟩
      · have htag : (getTag s tag.val).st = .free ∧ poolOf tag.val = .parcel ∧ tag.val < 4096 ∨ poolFree s .parcel = 0 := by
          obtain ⟨hst, hpool⟩ | hempty | hone := hfree
          · exact .inl ⟨hst, hpool, tag.isLt⟩
          · exact .inr hempty
          · exact absurd hone hbusy
        obtain ⟨hone, x, hsends, hport, hcore, hlen, hxtag⟩ := portStart_leaves (portData s key data) key send
          (if poolFree s .parcel = 0 then none else some tag.val)
        have hexec : exec (.parcelPortSend fn ctx port data send tag) s
            = .next (portStart (portData s key data) key send (if poolFree s .parcel = 0 then none else some tag.val)) := by
          rw [hbody, hpage]
          exact portSends_free send hbusy htag
        exact ⟨_, hexec, (execParcelPortSend_changes.next hexec).platformKept, nofun, nofun,
          fun _ => ⟨hone, fun h => absurd h hbusy, fun _ => ⟨x, hsends, hport, hcore, hlen, hxtag⟩⟩⟩
  · refine ⟨_, rfl, execParcelRingHeadDoorbell_changes.next rfl |>.platformKept, fun hgone => ?_, fun hdenied => ?_, fun hok => ?_⟩
    · rw [ringBell, hgone]
    · rw [ringBell, hdenied]
      exact denied_changes .host (by decide)
    · rw [ringBell, hok]
      have hgood : bellGood skew.val bell = true ↔ good := by
        simp only [bellGood, good, Bool.and_eq_true, Bool.or_eq_true, decide_eq_true_eq]
      by_cases hbell : good
      · simp only [hgood.2 hbell, if_true, getRing_ringRelease, hbell, true_and]
        rfl
      · have hbad : bellGood skew.val bell = false := Bool.eq_false_iff.2 fun h => hbell (hgood.1 h)
        simp only [hbad, Bool.false_eq_true, if_false, getRing_post, hbell, false_and]
        rfl

end Sys2Proof.Machine

/-! PROOFS. The family of spec/05 and spec/07, barriers and the merge: what retires when a barrier releases, and what a
contribution, a drain and an apply leave at their Row Merge Unit. -/

namespace Sys2Proof.Machine

set_option Elab.async false

/-! ### Retirement of the arrivals (R109, R219) -/

theorem mem_insertTag {a t : Nat} {l : List Nat} : a ∈ insertTag t l ↔ a = t ∨ a ∈ l := by
  induction l with
  | nil => simp [insertTag]
  | cons x l ih =>
    unfold insertTag
    split
    · simp
    · simp [ih]
      tauto

theorem mem_ascending {a : Nat} {l : List Nat} : a ∈ ascending l ↔ a ∈ l := by
  induction l with
  | nil => simp [ascending]
  | cons x l ih =>
    rw [ascending, List.foldr_cons, mem_insertTag, List.mem_cons]
    exact or_congr Iff.rfl ih

/-- A tag that is RETIRING stays so. -/
theorem TagEnds.retiring {s t : State} (h : TagEnds s t) {k : Nat} (hk : (getTag s k).st = .retiring) :
    (getTag t k).st = .retiring := by
  obtain ht | ⟨hst, -⟩ := h k
  · exact ht
  · exact hst.trans hk

theorem retireArrivals_ends (code delay : Nat) (l : List Nat) (s : State) :
    TagEnds s (retireArrivals code delay l s) ∧ ∀ k ∈ l, EndsOr s k → (getTag (retireArrivals code delay l s) k).st = .retiring := by
  induction l generalizing s with
  | nil => exact ⟨.refl, nofun⟩
  | cons t ts ih =>
    rw [retireArrivals]
    have hone : TagEnds s (retire (modCmd s t fun c =>
        { c with code := code, late := delay != 0, detail := min delay (2 ^ 32 - 1) }) t) := tagEnds_modCmd.trans tagEnds_retire
    obtain ⟨hrest, hall⟩ := ih (retire (modCmd s t fun c =>
        { c with code := code, late := delay != 0, detail := min delay (2 ^ 32 - 1) }) t)
    refine ⟨hone.trans hrest, fun k hk hends => ?_⟩
    obtain rfl | hk := List.mem_cons.1 hk
    · exact hrest.retiring (hends.ends tagEnds_modCmd).retire
    · exact hall k hk (hends.ends hone)

/-- The arrivals of every barrier of a list. -/
theorem retireBarriers_ends (code : Nat) (bs : List Barrier) (s : State) :
    TagEnds s (bs.foldl (fun s b => retireArrivals code b.delay (ascending b.arrivals) s) s)
      ∧ ∀ b ∈ bs, ∀ k ∈ b.arrivals, EndsOr s k →
          (getTag (bs.foldl (fun s b => retireArrivals code b.delay (ascending b.arrivals) s) s) k).st = .retiring := by
  induction bs generalizing s with
  | nil => exact ⟨.refl, nofun⟩
  | cons x bs ih =>
    rw [List.foldl_cons]
    obtain ⟨hone, hmine⟩ := retireArrivals_ends code x.delay (ascending x.arrivals) s
    obtain ⟨hrest, hall⟩ := ih (retireArrivals code x.delay (ascending x.arrivals) s)
    refine ⟨hone.trans hrest, fun b hb k hk hends => ?_⟩
    obtain rfl | hb := List.mem_cons.1 hb
    · exact hrest.retiring (hmine k (mem_ascending.2 hk) hends)
    · exact hall b hb k hk (hends.ends hone)

/-! ### The barriers and the contributions on their way stay -/

/-- No barrier changes, and no contribution on its way. -/
def SameNet (s t : State) : Prop := t.barriers = s.barriers ∧ t.mergeNet = s.mergeNet

theorem SameNet.refl {s : State} : SameNet s s := ⟨rfl, rfl⟩

theorem SameNet.trans {s t u : State} (h : SameNet s t) (k : SameNet t u) : SameNet s u := ⟨k.1.trans h.1, k.2.trans h.2⟩

theorem Changes.sameNet {l : List Part} {s t : State} (h : Changes l s t) (hl : Part.merge ∉ l := by decide) : SameNet s t := by
  obtain ⟨hbarriers, hnet, -⟩ := h .merge hl
  exact ⟨hbarriers, hnet⟩

theorem Changes.getRmu {l : List Part} {s t : State} (h : Changes l s t) (k : Nat) (hl : Part.merge ∉ l := by decide) :
    getRmu t k = getRmu s k := by
  obtain ⟨-, -, hrmus⟩ := h .merge hl
  rw [Machine.getRmu, hrmus, Machine.getRmu]

theorem sameNet_modRmu {s : State} {k : Nat} {f : Rmu → Rmu} : SameNet s (modRmu s k f) := ⟨rfl, rfl⟩

theorem SameNet.foldl {β : Type} {f : State → β → State} (hf : ∀ u x, SameNet u (f u x)) (l : List β) (s : State) :
    SameNet s (l.foldl f s) := by
  induction l generalizing s with
  | nil => exact .refl
  | cons x l ih => exact (hf s x).trans (ih _)

theorem getRmu_modRmu (s : State) (k : Nat) (f : Rmu → Rmu) : getRmu (modRmu s k f) k = f (getRmu s k) := spGet_set ..

theorem sameNet_beginApply {s : State} {k : Nat} : SameNet s (beginApply s k) := by
  unfold beginApply
  split
  · exact .refl
  · split
    · exact .trans readHyper_changes.sameNet sameNet_modRmu
    · exact .refl

theorem sameNet_spillRun {s : State} {k : Nat} {g : Nat × Nat × Nat × Nat} : SameNet s (spillRun s k g) := by
  unfold spillRun
  dsimp only
  split
  · exact .trans homeRecord_changes.sameNet sameNet_modRmu
  · exact .trans homeRecord_changes.sameNet (.trans writeExtents_changes.sameNet (.trans bump_changes.sameNet sameNet_modRmu))

theorem sameNet_refuse {s : State} {x : Contribution} {code : Nat} : SameNet s (refuse s x code) := refuse_changes.sameNet

theorem sameNet_place {s : State} {k : Nat} {x : Contribution} : SameNet s (place s k x) := by
  have hput : ∃ u : State, SameNet s u ∧ place s k x = answer (bump u .rmuIn 0 0 0 1) x 0 := ⟨_, sameNet_modRmu, rfl⟩
  obtain ⟨u, hu, hplace⟩ := hput
  rw [hplace]
  exact hu.trans (.trans bump_changes.sameNet answer_changes.sameNet)

theorem sameNet_accept {s : State} {k : Nat} {x : Contribution} : SameNet s (accept s k x) := by
  have hroom : SameNet s (if bufferFits s k x then s else spill s k) := by
    split
    · exact .refl
    · exact .foldl (fun _ _ => sameNet_spillRun) _ _
  unfold accept
  refine hroom.trans ?_
  generalize (if bufferFits s k x = true then s else spill s k) = u
  dsimp only
  split
  · exact sameNet_refuse
  · split
    · exact sameNet_place
    · exact .trans sameNet_modRmu sameNet_refuse

theorem sameNet_turntable {s : State} {k : Nat} {x : Contribution} : SameNet s (turntable s k x) := by
  unfold turntable
  split
  · exact sameNet_refuse
  · exact sameNet_modRmu
  · exact sameNet_accept

theorem sameNet_contributionArrives {s : State} {x : Contribution} : SameNet s (contributionArrives s x) := by
  unfold contributionArrives
  split
  · next k u hu => exact .trans (Changes.ofEq_2 homeUnit_changes hu).sameNet sameNet_turntable
  · next code u hu => exact .trans (Changes.ofEq_2 homeUnit_changes hu).sameNet answer_changes.sameNet

/-! ### What becomes of a contribution (R291, R294, R295) -/

theorem regVal_changes {l : List Part} {s t : State} (h : Changes l s t) (r : RegName) (u i j : Nat)
    (hl : Part.regs ∉ l := by decide) : regVal t r u i j = regVal s r u i j := regVal_congr (h .regs hl) ..

theorem refuse_counts (s : State) (x : Contribution) (code : Nat) :
    regVal (refuse s x code) .rmuRefused 0 0 0 = regVal s .rmuRefused 0 0 0 + 1#64 := by
  rw [refuse, regVal_changes answer_changes, regVal_bump]

theorem place_takes (s : State) (k : Nat) (x : Contribution) :
    x ∈ (getRmu (place s k x) k).buffer ∧ regVal (place s k x) .rmuIn 0 0 0 = regVal s .rmuIn 0 0 0 + 1#64 := by
  have hput : ∃ u : State, place s k x = answer (bump u .rmuIn 0 0 0 1) x 0 ∧ x ∈ (getRmu u k).buffer ∧ u.regs = s.regs := by
    refine ⟨_, rfl, ?_, rfl⟩
    rw [getRmu_modRmu]
    exact List.mem_append_right _ (List.mem_singleton.2 rfl)
  obtain ⟨u, hplace, hu, hregs⟩ := hput
  rw [hplace, answer_changes.getRmu, regVal_changes answer_changes, regVal_bump, regVal_congr hregs]
  exact ⟨hu, rfl⟩

theorem verdict_refuse {s : State} {k : Nat} {x : Contribution} {code : Nat} (h : verdict s k x = .refuse code) :
    turntable s k x = refuse s x code := by rw [turntable, h]

theorem verdict_hold {s : State} {k : Nat} {x : Contribution} (h : verdict s k x = .hold) :
    turntable s k x = modRmu s k fun r => { r with held := r.held ++ [x] } := by rw [turntable, h]

/-- A contribution that is taken finds no OVERFLOW. -/
theorem verdict_take {s : State} {k : Nat} {x : Contribution} (h : verdict s k x = .take) (hfits : bufferFits s k x = true) :
    turntable s k x = place s k x := by
  have hopen : overflowed (getRmu s k) x.ctx x.step = false := by
    unfold verdict at h
    dsimp only at h
    split at h
    · cases h
    · split at h
      · cases h
      · split at h
        · cases h
        · next hover => exact Bool.eq_false_iff.2 hover
  rw [turntable, h]
  simp only [accept, hfits, if_true, hopen, Bool.false_eq_true, if_false]

theorem verdict_late {s : State} {k : Nat} {x : Contribution} (h : x.step ≤ spGet 0 x.ctx (getRmu s k).lastClose) :
    verdict s k x = .refuse codeWindowClosed := if_pos (by simp [h])

/-! ### Closing (R219, R303, R304) -/

theorem endClose_ends (s : State) (ctx step code : Nat) :
    TagEnds s (endClose s ctx step code)
      ∧ (∀ b ∈ (endClose s ctx step code).barriers, b ∈ s.barriers)
      ∧ ∀ b ∈ s.barriers, b.ctx = ctx → b.step = step → b.mg = true → b.closing = true →
          ∀ k ∈ b.arrivals, EndsOr s k → (getTag (endClose s ctx step code) k).st = .retiring := by
  have hkept (bs : List Barrier) (u : State) :
      SameNet u (bs.foldl (fun s b => retireArrivals code b.delay (ascending b.arrivals) s) u) :=
    .foldl (fun _ _ => retireArrivals_changes.sameNet) bs u
  refine ⟨?_, fun b hb => ?_, fun b hb hctx hstep hmg hclosing k hk hends => ?_⟩
  · exact (retireBarriers_ends code _ { s with barriers := _ }).1
  · have hb := (hkept _ _).1 ▸ hb
    exact (List.mem_filter.1 hb).1
  · refine (retireBarriers_ends code _ { s with barriers := _ }).2 b (List.mem_filter.2 ⟨hb, ?_⟩) k hk hends
    simp [hctx, hstep, hmg, hclosing]

theorem closeFails_regs (s : State) (ctx step reason : Nat) :
    regVal (closeFails s ctx step reason) .rmuFail 0 0 0 = BitVec.ofNat 64 (ctx % 64 + 256 * reason + 2 ^ 31)
      ∧ regVal (closeFails s ctx step reason) .rmuFailstep 0 0 0 = BitVec.ofNat 64 step := by
  have hset : ∃ u : State, closeFails s ctx step reason = endClose (setReg (setReg u .rmuFail 0 0 0
      (BitVec.ofNat 64 (ctx % 64 + 256 * reason + 2 ^ 31))) .rmuFailstep 0 0 0 (BitVec.ofNat 64 step)) ctx step codeConserveFail :=
    ⟨_, rfl⟩
  obtain ⟨u, hset⟩ := hset
  rw [hset, regVal_changes endClose_changes, regVal_changes endClose_changes, regVal_setReg, regVal_setReg_ne _ _ (by decide),
    regVal_setReg]
  exact ⟨rfl, rfl⟩

theorem closeReason_bad {s : State} {k : Nat} {w : Window} (h : w.overflow = true ∨ w.inn ≠ w.buf + w.spilled ∨ w.upset = true) :
    closeReason s k w = if w.overflow = true then 1 else 2 := by
  unfold closeReason
  split
  · rfl
  · next hover =>
    have h : w.inn ≠ w.buf + w.spilled ∨ w.upset = true := h.resolve_left hover
    exact if_pos (by simpa using h)

/-- A window that drained with OVERFLOW or out of balance fails its check. -/
theorem checkWindow_fails {s : State} {k : Nat} {w : Window} (h : w.overflow = true ∨ w.inn ≠ w.buf + w.spilled ∨ w.upset = true) :
    checkWindow s k w = closeFails s w.ctx w.step (if w.overflow = true then 1 else 2) := by
  have hreason := closeReason_bad (s := s) (k := k) h
  rw [checkWindow, hreason]
  refine if_pos ?_
  split <;> rfl

/-- What a close that passes leaves of the barriers, and which tags end. -/
theorem closePasses_ends (s : State) (ctx step : Nat) :
    (∀ b ∈ (closePasses s ctx step).barriers, b ∈ s.barriers)
      ∧ ∀ b ∈ s.barriers, b.ctx = ctx → b.step = step → b.mg = true → b.closing = true →
          ∀ k ∈ b.arrivals, EndsOr s k → (getTag (closePasses s ctx step) k).st = .retiring := by
  have hfold : ∃ u : State, closePasses s ctx step = endClose u ctx step codeDone ∧ SameNet s u ∧ TagEnds s u := by
    refine ⟨_, rfl, ?_, ?_⟩
    · exact .foldl (fun _ _ => .trans sameNet_modRmu sameNet_beginApply) _ _
    · have hchanges : Changes [.hbm, .poison, .reqs, .slices, .regs, .log, .trace, .free, .merge] s
          ((List.range (channels s.variant)).foldl (fun s k => beginApply (modRmu s k (closeAt ctx step)) k) s) :=
        .foldl .refl fun _ _ => .comp (.of modRmu_changes) beginApply_changes
      exact hchanges.tagEnds
  obtain ⟨u, hpass, hnet, hends⟩ := hfold
  obtain ⟨-, hsub, hret⟩ := endClose_ends u ctx step codeDone
  rw [hpass]
  refine ⟨fun b hb => hnet.1 ▸ hsub b hb, fun b hb hctx hstep hmg hclosing k hk hk' => ?_⟩
  exact hret b (hnet.1.symm ▸ hb) hctx hstep hmg hclosing k hk (hk'.ends hends)

/-- Stopping the windows of a closing barrier: it waits for them, or its arrivals retire. -/
theorem stopWindows_ends (s : State) (ctx step : Nat) :
    (∀ b ∈ (stopWindows s ctx step).barriers, b ∈ s.barriers)
      ∧ ∀ b ∈ s.barriers, b.ctx = ctx → b.step = step → b.mg = true → b.closing = true →
          b ∈ (stopWindows s ctx step).barriers
            ∨ ∀ k ∈ b.arrivals, EndsOr s k → (getTag (stopWindows s ctx step) k).st = .retiring := by
  unfold stopWindows
  dsimp only
  split
  · exact ⟨fun b hb => hb, fun b hb _ _ _ _ => .inl hb⟩
  · obtain ⟨hsub, hret⟩ := closePasses_ends { s with rmus := spMap rmuReset (fun _ r =>
      { r with windows := r.windows.map fun w => if isWindow ctx step w then { w with closing := true } else w }) s.rmus } ctx step
    exact ⟨hsub, fun b hb hctx hstep hmg hclosing => .inr (hret b hb hctx hstep hmg hclosing)⟩

/-- A barrier that releases leaves its place, and its arrivals retire, at once unless it closes a window (R219, R221). -/
theorem releaseBarrier_ends {s : State} {b : Barrier} (hb : b ∈ s.barriers) (hopen : b.closing = false) :
    let retired : Prop := ∀ k ∈ b.arrivals, EndsOr s k → (getTag (releaseBarrier s b) k).st = .retiring
    b ∉ (releaseBarrier s b).barriers ∧ (b.mg = false → retired)
      ∧ (b.mg = true → { b with closing := true } ∈ (releaseBarrier s b).barriers ∨ retired) := by
  intro retired
  by_cases hmg : b.mg = true
  case neg =>
    have hmg : b.mg = false := Bool.eq_false_iff.2 hmg
    have hrelease : releaseBarrier s b
        = retireArrivals codeDone b.delay (ascending b.arrivals) { s with barriers := s.barriers.filter fun y => y != b } := by
      rw [releaseBarrier, hmg]
      rfl
    have hbarriers : (releaseBarrier s b).barriers = s.barriers.filter fun y => y != b := by
      rw [hrelease]
      exact retireArrivals_changes.sameNet.1
    refine ⟨?_, fun _ k hk hends => ?_, fun h => absurd (hmg.symm.trans h) (by decide)⟩
    · rw [hbarriers]
      simp
    · rw [hrelease]
      exact (retireArrivals_ends codeDone b.delay _ { s with barriers := _ }).2 k (mem_ascending.2 hk) hends
  case pos =>
    have hrelease : releaseBarrier s b = stopWindows
        { s with barriers := s.barriers.map fun y => if y = b then { y with closing := true } else y } b.ctx b.step := by
      rw [releaseBarrier, hmg]
      rfl
    obtain ⟨hsub, hends⟩ := stopWindows_ends
      { s with barriers := s.barriers.map fun y => if y = b then { y with closing := true } else y } b.ctx b.step
    rw [← hrelease] at hsub hends
    refine ⟨fun hin => ?_, fun h => absurd (hmg.symm.trans h) (by decide), fun _ => ?_⟩
    · obtain ⟨y, -, hy⟩ := List.mem_map.1 (hsub b hin)
      by_cases hyb : y = b
      · rw [if_pos hyb] at hy
        have hclosing : b.closing = true := hy ▸ rfl
        rw [hopen] at hclosing
        cases hclosing
      · exact hyb ((if_neg hyb).symm.trans hy)
    · exact hends { b with closing := true } (List.mem_map.2 ⟨b, hb, if_pos rfl⟩) rfl rfl hmg rfl

/-! ### Applying (R303, R306) -/

/-- A change to one window that is there opens and closes none. -/
theorem modWindow_windows {r : Rmu} {ctx step : Nat} {f : Window → Window} (hf : ∀ w, (f w).ctx = w.ctx ∧ (f w).step = w.step)
    (h : r.windows.any (isWindow ctx step) = true) :
    ∀ x ∈ (modWindow r ctx step f).windows, ∃ y ∈ r.windows, y.ctx = x.ctx ∧ y.step = x.step := by
  intro x hx
  rw [modWindow, if_pos h] at hx
  obtain ⟨y, hy, hyx⟩ := List.mem_map.1 hx
  refine ⟨y, hy, ?_⟩
  subst hyx
  split
  · exact ⟨(hf y).1.symm, (hf y).2.symm⟩
  · exact ⟨rfl, rfl⟩

theorem modWindow_applied (r : Rmu) (ctx step : Nat) (f : Window → Window) : (modWindow r ctx step f).applied = r.applied := by
  unfold modWindow
  split <;> rfl

/-- An apply that begins opens and closes no window, and leaves APPLIED. -/
theorem beginApply_windows (s : State) (k : Nat) :
    (getRmu (beginApply s k) k).applied = (getRmu s k).applied
      ∧ ∀ x ∈ (getRmu (beginApply s k) k).windows, ∃ y ∈ (getRmu s k).windows, y.ctx = x.ctx ∧ y.step = x.step := by
  have hself : (getRmu s k).applied = (getRmu s k).applied
      ∧ ∀ x ∈ (getRmu s k).windows, ∃ y ∈ (getRmu s k).windows, y.ctx = x.ctx ∧ y.step = x.step :=
    ⟨rfl, fun x hx => ⟨x, hx, rfl, rfl⟩⟩
  unfold beginApply
  split
  · exact hself
  · next w hw =>
    split
    · have hthere : (getRmu s k).windows.any (isWindow w.ctx w.step) = true :=
        List.any_eq_true.2 ⟨w, List.mem_of_find?_eq_some hw, by simp [isWindow]⟩
      rw [getRmu_modRmu, readHyper_changes.getRmu]
      exact ⟨modWindow_applied .., modWindow_windows (fun _ => ⟨rfl, rfl⟩) hthere⟩
    · exact hself

/-- The end of an apply: its window is gone, and APPLIED has reached its step. -/
theorem windowOver_leaves (s : State) (k : Nat) (w : Window) (flags : Flags) :
    w.step ≤ spGet 0 w.ctx (getRmu (windowOver s k w flags) k).applied
      ∧ ∀ x ∈ (getRmu (windowOver s k w flags) k).windows, ¬(x.ctx = w.ctx ∧ x.step = w.step) := by
  have hover : ∃ u : State, windowOver s k w flags = post u .windowClose 5 k (some w.ctx) flags.toNat 0
      ∧ getRmu u k = { getRmu s k with
          windows := (getRmu s k).windows.filter fun x => !isWindow w.ctx w.step x,
          buffer := (getRmu s k).buffer.filter fun x => !(x.ctx == w.ctx && x.step == w.step),
          runs := (getRmu s k).runs.filter fun u => !(u.ctx == w.ctx && u.step == w.step),
          applied := spSet 0 w.ctx (max w.step (spGet 0 w.ctx (getRmu s k).applied)) (getRmu s k).applied } := by
    refine ⟨_, rfl, ?_⟩
    dsimp only
    split
    · rw [bump_changes.getRmu, bump_changes.getRmu, getRmu_modRmu]
    · rw [post_changes.getRmu, bump_changes.getRmu, bump_changes.getRmu, getRmu_modRmu]
  obtain ⟨u, hover, hu⟩ := hover
  rw [hover, post_changes.getRmu, hu]
  dsimp only
  refine ⟨?_, fun x hx hsame => ?_⟩
  · rw [spGet_set]
    exact Nat.le_max_left ..
  · have hnot := (List.mem_filter.1 hx).2
    simp [isWindow, hsame.1, hsame.2] at hnot

/-- What is left after an apply. -/
theorem applyWindow_leaves (s : State) (k : Nat) (w : Window) :
    w.step ≤ spGet 0 w.ctx (getRmu (applyWindow s k w) k).applied
      ∧ ∀ x ∈ (getRmu (applyWindow s k w) k).windows, ¬(x.ctx = w.ctx ∧ x.step = w.step) := by
  have hover : ∃ u w' flags, applyWindow s k w = beginApply (windowOver u k w' flags) k ∧ w'.ctx = w.ctx ∧ w'.step = w.step :=
    ⟨_, _, _, rfl, rfl, rfl⟩
  obtain ⟨u, w', flags, happly, hctx, hstep⟩ := hover
  obtain ⟨happlied, hwindows⟩ := beginApply_windows (windowOver u k w' flags) k
  obtain ⟨hreached, hgone⟩ := windowOver_leaves u k w' flags
  rw [happly, happlied, ← hctx, ← hstep]
  refine ⟨hreached, fun x hx hsame => ?_⟩
  obtain ⟨y, hy, hyx⟩ := hwindows x hx
  exact hgone y hy ⟨hyx.1.trans hsame.1, hyx.2.trans hsame.2⟩

/-- Settles O28: barriers, contributions and windows each by what their unit's function leaves. -/
theorem barrierAndMergeEventsComplete : Obligations.BarrierAndMergeEventsComplete := by
  intro ctx bar k i step s hup
  refine ⟨fun b hfind hcount htime => ?_, fun x hx => ?_, fun x hx hdue => ?_, fun w hw => ?_, fun w hw => ?_⟩
  · have hdue : releaseDue s b = true := by
      simp only [releaseDue, reached, hcount, beq_self_eq_true, Bool.true_and, Bool.or_eq_true, beq_iff_eq, decide_eq_true_eq]
      exact htime
    have hopen : b.closing = false := by
      have hbar := List.find?_some hfind
      simp only [isBarrier, Bool.and_eq_true, beq_iff_eq] at hbar
      exact hbar.2
    have hexec : exec (.barrRelease ctx bar) s = .next (releaseBarrier s b) := by
      have hbody : exec (.barrRelease ctx bar) s = match s.barriers.find? (isBarrier ctx.val bar.val false) with
          | none => .next s
          | some b => whenDue (releaseDue s b && planeUp s) s (.next (releaseBarrier s b)) := rfl
      rw [hbody, hfind]
      exact whenDue_pos (by rw [hdue, hup]; rfl) ..
    obtain ⟨hgone, hplain, hmg⟩ := releaseBarrier_ends (List.mem_of_find?_eq_some hfind) hopen
    refine ⟨_, hexec, releaseBarrier_changes.platformKept, hgone, fun h tag htag hcmd => hplain h tag htag (.inr hcmd), fun h => ?_⟩
    exact (hmg h).imp id fun hret tag htag hcmd => hret tag htag (.inr hcmd)
  · have hexec : exec (.contributionArrival i) s = .next (contributionArrives { s with mergeNet := s.mergeNet.eraseIdx i } x) := by
      have hbody : exec (.contributionArrival i) s = match s.mergeNet[i]? with
          | none => .next s
          | some x => whenDue (planeUp s) s (.next (contributionArrives { s with mergeNet := s.mergeNet.eraseIdx i } x)) := rfl
      rw [hbody, hx]
      exact whenDue_pos hup ..
    refine ⟨_, hexec, (execContributionArrival_changes.next hexec).platformKept, sameNet_contributionArrives.2, fun n u hhome => ?_⟩
    have harrives : contributionArrives { s with mergeNet := s.mergeNet.eraseIdx i } x = turntable u n x := by
      rw [contributionArrives, hhome]
    rw [harrives]
    refine ⟨fun htake hfits => ?_, fun hhold => ?_, fun code hrefuse => ?_⟩
    · rw [verdict_take htake hfits]
      exact place_takes u n x
    · rw [verdict_hold hhold, getRmu_modRmu]
      exact List.mem_append_right _ (List.mem_singleton.2 rfl)
    · rw [verdict_refuse hrefuse]
      exact refuse_counts u x code
  · have hexec : exec (.heldContributionAccept k i) s
        = .next (turntable (modRmu s k.val fun r => { r with held := r.held.eraseIdx i }) k.val x) := by
      have hbody : exec (.heldContributionAccept k i) s = match (getRmu s k.val).held[i]? with
          | none => .next s
          | some x => whenDue (planeUp s && heldDue (getRmu s k.val) x) s
              (.next (turntable (modRmu s k.val fun r => { r with held := r.held.eraseIdx i }) k.val x)) := rfl
      rw [hbody, hx]
      exact whenDue_pos (by rw [hup, heldDue, decide_eq_true hdue]; rfl) ..
    refine ⟨_, hexec, (execHeldContributionAccept_changes.next hexec).platformKept, fun hlate => ?_⟩
    rw [verdict_refuse (verdict_late (by rw [getRmu_modRmu]; exact hlate)), refuse_counts]
    rfl
  · have hexec : exec (.drainEnd k ctx step) s = .next (checkWindow s k.val w) := by
      have hbody : exec (.drainEnd k ctx step) s = match draining s k.val ctx.val step with
          | none => .next s
          | some w => whenDue (planeUp s) s (.next (checkWindow s k.val w)) := rfl
      rw [hbody, hw]
      exact whenDue_pos hup ..
    refine ⟨_, hexec, checkWindow_changes.platformKept, fun hbad => ?_⟩
    rw [checkWindow_fails hbad]
    exact closeFails_regs ..
  · have hexec : exec (.applyEnd k) s = .next (applyWindow s k.val w) := by
      have hbody : exec (.applyEnd k) s = match firstApplying (getRmu s k.val) with
          | none => .next s
          | some w => whenDue (planeUp s) s (.next (applyWindow s k.val w)) := rfl
      rw [hbody, hw]
      exact whenDue_pos hup ..
    exact ⟨_, hexec, applyWindow_changes.platformKept, applyWindow_leaves s k.val w⟩

end Sys2Proof.Machine

/-! PROOFS. The family of spec/10, line requests: fills, victims, prefetches, and requests at their slice. -/

namespace Sys2Proof.Machine

set_option Elab.async false

/-! ### Lists with one entry replaced -/

/-- Looking up the key of a replaced entry. -/
theorem find?_replace {α : Type} {key : α → Nat} {k : Nat} {x : α} (hx : key x = k) (l : List α) :
    (l.map fun q => if key q == k then x else q).find? (fun q => key q == k) = (l.find? fun q => key q == k).map fun _ => x := by
  induction l with
  | nil => rfl
  | cons y l ih =>
    by_cases hy : key y = k
    · have hy' : (key y == k) = true := beq_iff_eq.2 hy
      have hx' : (key x == k) = true := beq_iff_eq.2 hx
      rw [List.map_cons, if_pos hy', List.find?_cons_of_pos (p := fun q => key q == k) hx',
        List.find?_cons_of_pos (p := fun q => key q == k) hy', Option.map_some]
    · have hy' : (key y == k) = false := beq_eq_false_iff_ne.2 hy
      simp only [List.map_cons, hy', Bool.false_eq_true, if_false, List.find?_cons, ih]

theorem find?_replace_ne {α : Type} {key : α → Nat} {k j : Nat} {x : α} (hx : key x = k) (hj : j ≠ k) (l : List α) :
    (l.map fun q => if key q == k then x else q).find? (fun q => key q == j) = l.find? fun q => key q == j := by
  induction l with
  | nil => rfl
  | cons y l ih =>
    by_cases hy : key y = k
    · have hyj : (key y == j) = false := beq_eq_false_iff_ne.2 (by omega)
      have hxj : (key x == j) = false := beq_eq_false_iff_ne.2 (by omega)
      have hy' : (key y == k) = true := beq_iff_eq.2 hy
      simp only [List.map_cons, hy', if_true, List.find?_cons, hxj, hyj, ih]
    · have hy' : (key y == k) = false := beq_eq_false_iff_ne.2 hy
      simp only [List.map_cons, hy', Bool.false_eq_true, if_false, List.find?_cons, ih]

/-! ### Requests -/

theorem findReq_id {s : State} {id : Nat} {r : LineReq} (h : findReq s id = some r) : r.id = id :=
  beq_iff_eq.1 (List.find?_some (p := fun q : LineReq => q.id == id) h)

theorem findReq_setReq {s : State} {id : Nat} {r r' : LineReq} (h : findReq s id = some r) (hid : r'.id = id) :
    findReq (setReq s r') id = some r' := by
  subst hid
  have hfind := find?_replace (key := LineReq.id) (x := r') rfl s.reqs
  rw [show (s.reqs.find? fun q => q.id == r'.id) = some r from h] at hfind
  exact hfind

theorem findReq_congr {s t : State} (h : t.reqs = s.reqs) (id : Nat) : findReq t id = findReq s id := by
  rw [findReq, h, findReq]

theorem Changes.findReq {l : List Part} {s t : State} (h : Changes l s t) (id : Nat) (hl : Part.reqs ∉ l := by decide) :
    findReq t id = findReq s id := findReq_congr (h .reqs hl).1 id

/-- A read that is served a line. -/
def servedRead (c : CLine) (r : LineReq) : LineReq := { r with stage := .ready, data := c.data.map some, poison := c.poison }

/-- Reads that wait on a line are served it, whatever their order, and nothing else happens (R388). -/
theorem serveWaiters_reads (c : CLine) (keep : Bool) (is : List Nat) (s : State)
    (h : ∀ j ∈ is, ∀ r, findReq s j = some r → r.kind = .read) :
    ∃ rs, serveWaiters s c keep is = (c, keep, { s with reqs := rs })
      ∧ ∀ j, findReq { s with reqs := rs } j = (findReq s j).map fun r => if j ∈ is then servedRead c r else r := by
  induction is generalizing s with
  | nil => exact ⟨s.reqs, rfl, fun j => by cases findReq s j <;> rfl⟩
  | cons i is ih =>
    cases hr : findReq s i with
    | none =>
      obtain ⟨rs, heq, hfind⟩ := ih s fun j hj => h j (List.mem_cons_of_mem i hj)
      have hr' : (s.reqs.find? fun r => r.id == i) = none := hr
      refine ⟨rs, by rw [serveWaiters, hr', heq], fun j => ?_⟩
      rw [hfind]
      by_cases hj : j = i
      · subst hj
        rw [hr]
        rfl
      · simp [hj]
    | some r =>
      have hread : r.kind = .read := h i List.mem_cons_self r hr
      have hid := findReq_id hr
      have hr' : (s.reqs.find? fun r => r.id == i) = some r := hr
      have hsame : findReq { s with reqs := s.reqs.map fun q => if q.id == i then servedRead c r else q } i = some (servedRead c r) :=
        (find?_replace (key := LineReq.id) (x := servedRead c r) hid s.reqs).trans (by rw [hr']; rfl)
      have hother (j : Nat) (hj : j ≠ i) :
          findReq { s with reqs := s.reqs.map fun q => if q.id == i then servedRead c r else q } j = findReq s j :=
        find?_replace_ne (key := LineReq.id) (x := servedRead c r) hid hj s.reqs
      obtain ⟨rs, heq, hfind⟩ := ih { s with reqs := s.reqs.map fun q => if q.id == i then servedRead c r else q } fun j hj q hq => by
        by_cases hji : j = i
        · subst hji
          rw [hsame] at hq
          rw [← Option.some.inj hq]
          exact hread
        · exact h j (List.mem_cons_of_mem i hj) q ((hother j hji).symm.trans hq)
      refine ⟨rs, ?_, fun j => ?_⟩
      · rw [serveWaiters, hr']
        dsimp only
        split
        · exact heq
        · next o ho => exact absurd (hread.symm.trans ho) nofun
        · next ho => exact absurd (hread.symm.trans ho) nofun
      · refine (hfind j).trans ?_
        by_cases hj : j = i
        · subst hj
          rw [hsame, hr]
          simp [servedRead]
        · rw [hother j hj]
          simp [hj]

/-! ### Miss entries (R386) -/

theorem openMissOf_line {c : Slice} {l : Nat} {m : Miss} (h : openMissOf c l = some m) : m.l = l :=
  beq_iff_eq.1 (List.find?_some (p := fun q : Miss => q.l == l) h)

theorem getSlice_congr {s t : State} (h : t.slices = s.slices) (i : Nat) : getSlice t i = getSlice s i := by
  rw [getSlice, h, getSlice]

theorem Changes.getSlice {l : List Part} {s t : State} (h : Changes l s t) (i : Nat) (hl : Part.slices ∉ l := by decide) :
    getSlice t i = getSlice s i := getSlice_congr (h .slices hl) i

theorem getSlice_setSlice (s : State) (i : Nat) (x : Slice) : Machine.getSlice (setSlice s i x) i = x := spGet_set ..

theorem openMissOf_putMiss {s : State} {i l : Nat} {m m' : Miss} (h : openMissOf (getSlice s i) l = some m) (hl : m'.l = l) :
    openMissOf (getSlice (putMiss s i m') i) l = some m' := by
  subst hl
  rw [putMiss, getSlice_modSlice]
  exact (find?_replace (key := Miss.l) (x := m') rfl _).trans (by
    rw [show ((getSlice s i).misses.find? fun q => q.l == m'.l) = some m from h]
    rfl)

/-- A miss that is not yet over keeps its entry. -/
theorem installMiss_waits {s : State} {i : Nat} {m : Miss} (h : m.fill = none ∨ m.victim.isSome = true) :
    installMiss s i m = putMiss s i m := by
  rw [installMiss]
  split
  · next c hfill hvictim =>
    rw [hfill, hvictim] at h
    obtain h | h := h <;> cases h
  · rfl

/-- The slice after a miss is over: its entry is gone, and its line is in the way chosen if that is in use. -/
theorem installMiss_over {s : State} {i : Nat} {m : Miss} {c : CLine} (hfill : m.fill = some c) (hvictim : m.victim = none) :
    openMissOf (getSlice (installMiss s i m) i) m.l = none
      ∧ ∀ p, m.place = some p → m.keep = true → 2 ≤ wayState (getSlice s i) (p / 8192) →
          spGet none p (getSlice (installMiss s i m) i).lines = some c := by
  have hgone : openMissOf { getSlice s i with misses := (getSlice s i).misses.filter fun q => q.l != m.l } m.l = none := by
    refine List.find?_eq_none.2 fun q hq => ?_
    have hne := (List.mem_filter.1 hq).2
    simpa using hne
  have hslice : getSlice (modSlice s i fun x => { x with misses := x.misses.filter fun q => q.l != m.l }) i
      = { getSlice s i with misses := (getSlice s i).misses.filter fun q => q.l != m.l } := getSlice_modSlice ..
  have hway (w : Nat) : wayState { getSlice s i with misses := (getSlice s i).misses.filter fun q => q.l != m.l } w
      = wayState (getSlice s i) w := rfl
  rw [installMiss, hfill, hvictim]
  dsimp only
  rw [hslice]
  cases hplace : m.place with
  | none =>
    dsimp only
    rw [hslice]
    exact ⟨hgone, nofun⟩
  | some k =>
    dsimp only
    rw [hway]
    split
    · rw [getSlice_setSlice]
      refine ⟨hgone, fun p hp _ _ => ?_⟩
      rw [← Option.some.inj hp]
      exact spGet_set none k (some c) _
    · next hnot =>
      have hout : getSlice (if (m.keep && c.dirty) = true
          then hbmPut (modSlice s i fun x => { x with misses := x.misses.filter fun q => q.l != m.l }) c
          else modSlice s i fun x => { x with misses := x.misses.filter fun q => q.l != m.l }) i
          = { getSlice s i with misses := (getSlice s i).misses.filter fun q => q.l != m.l } := by
        split
        · rw [hbmPut_changes.getSlice, hslice]
        · exact hslice
      rw [hout]
      refine ⟨hgone, fun p hp hkeep hstate => absurd ?_ hnot⟩
      rw [← Option.some.inj hp] at hstate
      simp [hkeep, hstate]

/-! ### Fills and victims (R386, R388) -/

/-- A fill leaves an installed miss, or one that waits for its victim. -/
theorem fillArrival_eq {s : State} {i : Nat} {m : Miss} (h : m.fill = none) :
    ∃ c keep u, fillArrival s i m = installMiss u i { m with fill := some c, keep := keep, waiters := [] }
      ∧ Changes [.reqs, .hbm, .poison] s u := by
  refine ⟨(serveWaiters s (hbmLine s m.l) m.keep m.waiters).1, (serveWaiters s (hbmLine s m.l) m.keep m.waiters).2.1,
    (serveWaiters s (hbmLine s m.l) m.keep m.waiters).2.2, ?_, serveWaiters_changes⟩
  rw [fillArrival, arriveFill, h]
  rfl

theorem fillArrival_reads {s : State} {i : Nat} {m : Miss} (h : m.fill = none)
    (hreads : ∀ j ∈ m.waiters, ∀ r, findReq s j = some r → r.kind = .read) :
    ∃ rs, fillArrival s i m
        = installMiss { s with reqs := rs } i { m with fill := some (hbmLine s m.l), keep := m.keep, waiters := [] }
      ∧ ∀ j, findReq { s with reqs := rs } j = (findReq s j).map fun r => if j ∈ m.waiters then servedRead (hbmLine s m.l) r else r := by
  obtain ⟨rs, hserve, hfind⟩ := serveWaiters_reads (hbmLine s m.l) m.keep m.waiters s hreads
  refine ⟨rs, ?_, hfind⟩
  rw [fillArrival, arriveFill, h]
  dsimp only
  rw [serveMiss, hserve]

/-- The entry after a fill: it waits for its victim, or is gone. -/
theorem fillArrival_miss {s : State} {i l : Nat} {m : Miss} (hm : openMissOf (getSlice s i) l = some m) (h : m.fill = none) :
    (m.victim.isSome = true → ∃ x, openMissOf (getSlice (fillArrival s i m) i) l = some x ∧ x.fill.isSome = true ∧ x.waiters = []
        ∧ x.victim = m.victim)
      ∧ (m.victim = none → openMissOf (getSlice (fillArrival s i m) i) l = none) := by
  have hl := openMissOf_line hm
  obtain ⟨c, keep, u, heq, hu⟩ := fillArrival_eq (s := s) (i := i) h
  have hm' : openMissOf (getSlice u i) l = some m := by rw [hu.getSlice, hm]
  rw [heq]
  refine ⟨fun hv => ?_, fun hv => ?_⟩
  · rw [installMiss_waits (m := { m with fill := some c, keep := keep, waiters := [] }) (.inr hv)]
    exact ⟨_, openMissOf_putMiss hm' hl, rfl, rfl, rfl⟩
  · have hover := (installMiss_over (s := u) (i := i) (m := { m with fill := some c, keep := keep, waiters := [] }) rfl hv).1
    rw [← hl]
    exact hover

/-- Bytes that a write enables, and the others. -/
theorem memGet_writeEn (m : Mem) (a : Nat) (en : List (Option Byte)) (c : Nat) :
    memGet (memWriteEn m a en) c = match (if a ≤ c then en[c - a]? else none) with
      | some (some b) => b
      | _ => memGet m c := by
  induction en generalizing m a with
  | nil => simp [memWriteEn]
  | cons e en ih =>
    by_cases hlt : c < a
    · have hle : ¬a ≤ c := by omega
      have hle' : ¬a + 1 ≤ c := by omega
      cases e with
      | none => rw [memWriteEn, ih, if_neg hle, if_neg hle']
      | some b => rw [memWriteEn, ih, if_neg hle, if_neg hle', memGet_set_ne m b (by omega)]
    · by_cases heq : c = a
      · subst heq
        have hle' : ¬c + 1 ≤ c := by omega
        cases e with
        | none =>
          rw [memWriteEn, ih, if_neg hle', if_pos (Nat.le_refl c), Nat.sub_self]
          rfl
        | some b =>
          rw [memWriteEn, ih, if_neg hle', if_pos (Nat.le_refl c), Nat.sub_self, memGet_set]
          rfl
      · have hle : a ≤ c := by omega
        have hle' : a + 1 ≤ c := by omega
        have hsub : c - a = c - (a + 1) + 1 := by omega
        cases e with
        | none => rw [memWriteEn, ih, if_pos hle, if_pos hle', hsub, List.getElem?_cons_succ]
        | some b => rw [memWriteEn, ih, if_pos hle, if_pos hle', hsub, List.getElem?_cons_succ, memGet_set_ne m b heq]

theorem memGet_hbmPut (s : State) (v : CLine) {j : Nat} (hj : j < v.data.length) :
    memGet (hbmPut s v).hbm (128 * v.l + j) = v.data.getD j 0#8 := by
  have hput : (hbmPut s v).hbm = memWriteEn s.hbm (128 * v.l) (v.data.map some) := rfl
  have hsub : 128 * v.l + j - 128 * v.l = j := by omega
  rw [hput, memGet_writeEn, if_pos (by omega), hsub, List.getElem?_map, List.getElem?_eq_getElem hj, List.getD_eq_getElem _ _ hj]
  rfl

/-- The memory controller takes the victim; the entry waits for its fill, or is gone. -/
theorem victimAccepted_leaves {s : State} {i l : Nat} {m : Miss} {v : CLine} (hm : openMissOf (getSlice s i) l = some m)
    (hv : m.victim = some v) :
    (m.fill.isSome = true → openMissOf (getSlice (victimAccepted s i m) i) l = none)
      ∧ (m.fill = none → openMissOf (getSlice (victimAccepted s i m) i) l = some { m with victim := none }
          ∧ ∀ j, j < v.data.length → memGet (victimAccepted s i m).hbm (128 * v.l + j) = v.data.getD j 0#8) := by
  have hl := openMissOf_line hm
  have heq : victimAccepted s i m = installMiss (hbmPut s v) i { m with victim := none } := by
    rw [victimAccepted, acceptVictim, hv]
  have hm' : openMissOf (getSlice (hbmPut s v) i) l = some m := by rw [hbmPut_changes.getSlice, hm]
  rw [heq]
  refine ⟨fun hfill => ?_, fun hfill => ?_⟩
  · obtain ⟨c, hc⟩ := Option.isSome_iff_exists.1 hfill
    rw [← hl]
    exact (installMiss_over (s := hbmPut s v) (i := i) (m := { m with victim := none }) hc rfl).1
  · rw [installMiss_waits (m := { m with victim := none }) (.inl hfill)]
    exact ⟨openMissOf_putMiss hm' hl, fun j hj => memGet_hbmPut s v hj⟩

/-! ### Prefetches (R389) -/

/-- Opening a miss counts a dirty victim and nothing else. -/
theorem sameRegs_openMiss {s : State} {i : Nat} {c : Slice} {l w : Nat} {fill : Option CLine} {ws : List Nat} :
    SameRegsBut [regAddr .rcEvictdirty i 0 0] s (openMiss s i c l w fill ws) := by
  have hset {x : Slice} : SameRegsBut [regAddr .rcEvictdirty i 0 0] s (setSlice s i x) := .of_eq rfl
  unfold openMiss
  dsimp only
  exact .trans (.ite (hset.trans sameRegs_setReg) hset) (.ite (installMiss_changes.sameRegs _) (.of_eq rfl))

/-- A prefetch that is not discarded counts a miss of class 7. -/
theorem prefetchFill_counts (s : State) {i : Nat} (h : Hint) :
    regVal (prefetchFill s i h) .rcMisses i 7 0 = regVal s .rcMisses i 7 0 + 1#64 := by
  have hcount : SameRegsBut [regAddr .rcEvictdirty i 0 0] (countLookup s i 7 false) (prefetchFill s i h) := by
    unfold prefetchFill
    dsimp only
    split
    · exact .of_eq rfl
    · split
      · exact .of_eq rfl
      · exact sameRegs_openMiss
  have hne : regAddr .rcMisses i 7 0 ∉ [regAddr .rcEvictdirty i 0 0] := by
    simp only [regAddr, regInfo, blkBase, List.mem_singleton]
    omega
  rw [hcount.regVal hne]
  exact regVal_bump ..

/-- What a prefetch line does to the counters (R212, R389). -/
theorem prefetchLine_counts (s : State) {h : Hint} {i : Nat} (hslice : sliceOf (h.pa / 128) = i)
    (hon : cacheEnabled s = true) (hown : ownCheck s (some h.ctx) h.pa = .pass) :
    (prefetchDrops s h = true → (prefetchLine s h).slices = s.slices
        ∧ regVal (prefetchLine s h) .rcPfdrop i 0 0 = regVal s .rcPfdrop i 0 0 + 1#64)
      ∧ (prefetchDrops s h = false → regVal (prefetchLine s h) .rcMisses i 7 0 = regVal s .rcMisses i 7 0 + 1#64) := by
  subst hslice
  refine ⟨fun hdrop => ?_, fun hdrop => ?_⟩
  · have heq : prefetchLine s h = bump s .rcPfdrop (sliceOf (h.pa / 128)) 0 0 1 := by
      simp [prefetchLine, hon, hown, hdrop]
    rw [heq]
    exact ⟨rfl, regVal_bump ..⟩
  · have heq : prefetchLine s h = prefetchFill s (sliceOf (h.pa / 128)) h := by
      simp [prefetchLine, hon, hown, hdrop]
    rw [heq]
    exact prefetchFill_counts s h

/-! ### The cache enable through a change of one slice -/

theorem mem_spPut {α : Type} {k : Nat} {v : α} {m : Sp α} {e : Nat × α} (h : e ∈ spPut k v m) (hne : e ∉ m) : e = (k, v) := by
  induction m with
  | nil => exact List.mem_singleton.1 h
  | cons x m ih =>
    obtain ⟨a, w⟩ := x
    rw [List.mem_cons, not_or] at hne
    rw [spPut] at h
    split at h
    · exact (List.mem_cons.1 h).resolve_right hne.2
    · split at h
      · exact (List.mem_cons.1 h).resolve_right (mt List.mem_cons.1 (not_or.2 hne))
      · exact ih ((List.mem_cons.1 h).resolve_left hne.1) hne.2

theorem any_spSet_false {α : Type} [DecidableEq α] {d v : α} {k : Nat} {m : Sp α} {p : α → Bool} (hm : (m.any fun e => p e.2) = false)
    (hv : p v = false) : ((spSet d k v m).any fun e => p e.2) = false := by
  rw [List.any_eq_false] at hm ⊢
  intro e he
  rw [spSet] at he
  split at he
  · exact hm e (List.mem_filter.1 he).1
  · by_cases hin : e ∈ m
    · exact hm e hin
    · rw [mem_spPut he hin]
      simp [hv]

theorem any_spPut_true {α : Type} {d v : α} {k : Nat} {m : Sp α} {p : α → Bool} (hm : (m.any fun e => p e.2) = true)
    (hv : p (spGet d k m) = true → p v = true) : ((spPut k v m).any fun e => p e.2) = true := by
  induction m with
  | nil => cases hm
  | cons e m ih =>
    obtain ⟨a, w⟩ := e
    rw [spPut]
    rw [List.any_cons, Bool.or_eq_true] at hm
    split
    · next ha =>
      rw [spGet, if_pos ha] at hv
      rw [List.any_cons, Bool.or_eq_true]
      exact hm.imp_left hv
    · next ha =>
      rw [spGet, if_neg ha] at hv
      split
      · rw [List.any_cons, List.any_cons, Bool.or_eq_true, Bool.or_eq_true]
        exact .inr hm
      · rw [List.any_cons, Bool.or_eq_true]
        exact hm.imp_right fun h => ih h hv

theorem spGet_mem {α : Type} (d : α) (k : Nat) (m : Sp α) : spGet d k m = d ∨ (k, spGet d k m) ∈ m := by
  induction m with
  | nil => exact .inl rfl
  | cons e m ih =>
    obtain ⟨a, v⟩ := e
    rw [spGet]
    split
    · next ha => exact .inr (ha ▸ List.mem_cons_self)
    · exact ih.imp_right (List.mem_cons_of_mem _)

/-- A request that leaves the ingress does not enable the cache. -/
theorem cacheEnabled_leaveIngress_off {s : State} {i : Nat} {r : LineReq} (h : cacheEnabled s = false) :
    cacheEnabled (leaveIngress s i r) = false := by
  refine any_spSet_false (p := fun c : Slice => c.way.any fun w => w.2 == 2) h ?_
  have hslice : getSlice s i = sliceReset i ∨ (i, getSlice s i) ∈ s.slices := spGet_mem ..
  obtain hreset | hmem := hslice
  · rw [hreset]
    rfl
  · exact Bool.eq_false_iff.2 (List.any_eq_false.1 h _ hmem)

/-- Nor does it disable the cache, at a slice that holds a line. -/
theorem cacheEnabled_leaveIngress_on {s : State} {i : Nat} {r : LineReq} (h : cacheEnabled s = true)
    (hlines : (getSlice s i).lines ≠ []) : cacheEnabled (leaveIngress s i r) = true := by
  have hne : { getSlice s i with ingress := (getSlice s i).ingress.filter (· != r.id) } ≠ sliceReset i :=
    fun heq => hlines (congrArg Slice.lines heq)
  have hput : (leaveIngress s i r).slices
      = spPut i { getSlice s i with ingress := (getSlice s i).ingress.filter (· != r.id) } s.slices := if_neg hne
  rw [cacheEnabled, hput]
  exact any_spPut_true (d := sliceReset i) (p := fun c : Slice => c.way.any fun w => w.2 == 2) h id

theorem lookupWay_lines {c : Slice} {l n : Nat} (h : (lookupWay c l n).isSome = true) : c.lines ≠ [] := by
  intro hnil
  have hnone (w x : Nat) : lineAt c w x = none := by rw [lineAt, hnil, spGet]
  induction n with
  | zero => cases h
  | succ n ih =>
    rw [lookupWay, hnone] at h
    exact ih h

theorem lookupWay_ingress (c : Slice) (is : List Nat) (l n : Nat) : lookupWay { c with ingress := is } l n = lookupWay c l n := by
  induction n with
  | zero => rfl
  | succ n ih =>
    rw [lookupWay, lookupWay, ih]
    rfl

/-! ### Requests at their slice (R377, R380, R385) -/

/-- The slice and the memory controller see the request as before it left the ingress. -/
theorem atSlice_pass {s : State} {i pa : Nat} {r : LineReq} (hown : ownCheck s (some r.ctx) pa = .pass) :
    atSlice (leaveIngress s i r) r pa = if cacheEnabled (leaveIngress s i r)
      then sliceServe (leaveIngress s i r) (sliceOf (pa / 128)) r (pa / 128) else memoryServe (leaveIngress s i r) r (pa / 128) := by
  have hown' : ownCheck (leaveIngress s i r) (some r.ctx) pa = .pass := hown
  rw [atSlice, hown']

/-- A read that hits gets the cached line (R380). -/
theorem sliceServe_hit {s : State} {i l w : Nat} {r : LineReq} {x : CLine} (hread : r.kind = .read)
    (hmiss : openMissOf (getSlice s i) l = none) (hhit : lookup (getSlice s i) l = some (w, x)) :
    sliceServe s i r l = setReq (countLookup s i r.cls true) (readyWith r x) := by
  rw [sliceServe]
  dsimp only
  rw [hmiss, hread]
  dsimp only
  rw [hhit]

theorem getSlice_leaveIngress (s : State) (i : Nat) (r : LineReq) : getSlice (leaveIngress s i r) i
    = { getSlice s i with ingress := (getSlice s i).ingress.filter (· != r.id) } := getSlice_modSlice ..

theorem mem_joinIngress (s : State) (i : Nat) (r : LineReq) : r.id ∈ (getSlice (joinIngress s i r) i).ingress := by
  rw [joinIngress, getSlice_modSlice]
  split
  · next h => exact List.contains_iff_mem.1 h
  · exact List.mem_append_right _ List.mem_cons_self

theorem sliceStep_dev {s : State} {r : LineReq} {pa : Nat} (htarget : r.target = .dev pa) : sliceStep s r
    = if behind s (getSlice s (sliceOf (pa / 128))) r || noEntry s r (pa / 128) then joinIngress s (sliceOf (pa / 128)) r
      else atSlice (leaveIngress s (sliceOf (pa / 128)) r) r pa := by
  rw [sliceStep, htarget]

/-- With the cache disabled, the memory controller serves the request (R377). -/
theorem sliceStep_memory {s : State} {id pa : Nat} {r : LineReq} (hreq : findReq s id = some r) (htarget : r.target = .dev pa)
    (hwaits : (behind s (getSlice s (sliceOf (pa / 128))) r || noEntry s r (pa / 128)) = false)
    (hown : ownCheck s (some r.ctx) pa = .pass) (hoff : cacheEnabled s = false) :
    (r.kind = .read → findReq (sliceStep s r) id = some (servedRead (hbmLine s (pa / 128)) r) ∧ (sliceStep s r).hbm = s.hbm)
      ∧ (r.kind = .write → findReq (sliceStep s r) id = some { r with stage := .ready }
          ∧ (sliceStep s r).hbm = memWriteEn s.hbm (128 * (pa / 128)) r.data) := by
  have hid := findReq_id hreq
  have heq : sliceStep s r = memoryServe (leaveIngress s (sliceOf (pa / 128)) r) r (pa / 128) := by
    rw [sliceStep_dev htarget, hwaits, atSlice_pass hown, cacheEnabled_leaveIngress_off hoff]
    rfl
  rw [heq, memoryServe]
  refine ⟨fun hk => ?_, fun hk => ?_⟩ <;> rw [hk]
  · exact ⟨findReq_setReq (r := r) hreq hid, rfl⟩
  · exact ⟨findReq_setReq (r := r) hreq hid, rfl⟩

/-- A read that hits gets the cached line (R380). -/
theorem sliceStep_hit {s : State} {id pa w : Nat} {r : LineReq} {x : CLine} (hreq : findReq s id = some r) (htarget : r.target = .dev pa)
    (hwaits : (behind s (getSlice s (sliceOf (pa / 128))) r || noEntry s r (pa / 128)) = false)
    (hown : ownCheck s (some r.ctx) pa = .pass) (hon : cacheEnabled s = true) (hread : r.kind = .read)
    (hmiss : openMissOf (getSlice s (sliceOf (pa / 128))) (pa / 128) = none)
    (hhit : lookup (getSlice s (sliceOf (pa / 128))) (pa / 128) = some (w, x)) :
    findReq (sliceStep s r) id = some (servedRead x r) ∧ (sliceStep s r).hbm = s.hbm := by
  have hlines : (getSlice s (sliceOf (pa / 128))).lines ≠ [] := lookupWay_lines (n := 16) (Option.isSome_iff_exists.2 ⟨_, hhit⟩)
  have hlook : lookup (getSlice (leaveIngress s (sliceOf (pa / 128)) r) (sliceOf (pa / 128))) (pa / 128) = some (w, x) := by
    rw [getSlice_leaveIngress, ← hhit]
    exact lookupWay_ingress ..
  have heq : sliceStep s r = setReq (countLookup (leaveIngress s (sliceOf (pa / 128)) r) (sliceOf (pa / 128)) r.cls true)
      (readyWith r x) := by
    rw [sliceStep_dev htarget, hwaits, atSlice_pass hown, cacheEnabled_leaveIngress_on hon hlines]
    refine sliceServe_hit hread ?_ hlook
    rw [getSlice_leaveIngress]
    exact hmiss
  have hid := findReq_id hreq
  rw [heq]
  exact ⟨findReq_setReq (r := r) hreq hid, rfl⟩

/-- A request that waits joins the ingress and touches nothing else (R385). -/
theorem sliceStep_waits {s : State} {pa : Nat} {r : LineReq} (htarget : r.target = .dev pa)
    (hwaits : (behind s (getSlice s (sliceOf (pa / 128))) r || noEntry s r (pa / 128)) = true) :
    r.id ∈ (getSlice (sliceStep s r) (sliceOf (pa / 128))).ingress ∧ (sliceStep s r).reqs = s.reqs ∧ (sliceStep s r).hbm = s.hbm := by
  rw [sliceStep_dev htarget, if_pos hwaits]
  exact ⟨mem_joinIngress .., rfl, rfl⟩

/-- The lines that fill requests and prefetches, by case of the miss entry (R386, R388). -/
theorem missFillArrival_completes {slice : Fin 20} {l : Nat} {s : State} {m : Miss} (hm : openMissOf (getSlice s slice.val) l = some m)
    (hfill : m.fill = none) : exec (.missFillArrival slice l) s = .next (fillArrival s slice.val m) := by
  have hbody : exec (.missFillArrival slice l) s = match openMissOf (getSlice s slice.val) l with
      | none => .next s
      | some m => whenDue m.fill.isNone s (.next (fillArrival s slice.val m)) := rfl
  rw [hbody, hm]
  exact whenDue_pos (by rw [hfill]; rfl) ..

theorem victimWriteAccept_completes {slice : Fin 20} {l : Nat} {s : State} {m : Miss} {v : CLine}
    (hm : openMissOf (getSlice s slice.val) l = some m) (hv : m.victim = some v) :
    exec (.victimWriteAccept slice l) s = .next (victimAccepted s slice.val m) := by
  have hbody : exec (.victimWriteAccept slice l) s = match openMissOf (getSlice s slice.val) l with
      | none => .next s
      | some m => whenDue m.victim.isSome s (.next (victimAccepted s slice.val m)) := rfl
  rw [hbody, hm]
  exact whenDue_pos (by rw [hv]; rfl) ..

theorem prefetchLine_completes {slice : Fin 20} {k : Nat} {s : State} {h : Hint} (hh : (hintsAt s slice.val)[k]? = some h)
    (hplane : planeUp s = true) (hwaits : prefetchWaits s h = false) :
    exec (.prefetchLine slice k) s = .next (prefetchLine { s with hints := s.hints.erase h } h) := by
  have hbody : exec (.prefetchLine slice k) s = match (hintsAt s slice.val)[k]? with
      | none => .next s
      | some h => whenDue (planeUp s && !prefetchWaits s h) s (.next (prefetchLine { s with hints := s.hints.erase h } h)) := rfl
  rw [hbody, hh]
  exact whenDue_pos (by rw [hplane, hwaits]; rfl) ..

theorem lineRequestAtSlice_completes {id : Nat} {s : State} {r : LineReq} (hreq : findReq s id = some r)
    (hdue : sliceDue s r = true) : exec (.lineRequestAtSlice id) s = .next (sliceStep s r) := by
  have hbody : exec (.lineRequestAtSlice id) s = match findReq s id with
      | none => .next s
      | some r => whenDue (sliceDue s r) s (.next (sliceStep s r)) := rfl
  rw [hbody, hreq]
  exact whenDue_pos hdue ..

/-- The reads that wait are served the line, which is installed in the way chosen. -/
theorem fillArrival_serves {s : State} {i l : Nat} {m : Miss} (hm : openMissOf (getSlice s i) l = some m) (hfill : m.fill = none)
    (hreads : ∀ j ∈ m.waiters, ∀ r, findReq s j = some r → r.kind = .read) :
    (∀ j ∈ m.waiters, ∀ r, findReq s j = some r → findReq (fillArrival s i m) j = some (servedRead (hbmLine s l) r))
      ∧ ∀ p, m.victim = none → m.keep = true → m.place = some p → 2 ≤ wayState (getSlice s i) (p / 8192) →
          spGet none p (getSlice (fillArrival s i m) i).lines = some (hbmLine s l) := by
  obtain rfl := openMissOf_line hm
  obtain ⟨rs, heq, hfind⟩ := fillArrival_reads (s := s) (i := i) hfill hreads
  rw [heq]
  refine ⟨fun j hj r hr => ?_, fun p hv hkeep hplace hway => ?_⟩
  · rw [installMiss_changes.findReq, hfind, hr, Option.map_some, if_pos hj]
  · exact (installMiss_over (s := { s with reqs := rs }) (i := i)
      (m := { m with fill := some (hbmLine s m.l), keep := m.keep, waiters := [] }) rfl hv).2 p hplace hkeep hway

/-- Settles O31: each event by the lemma of what it does to its miss entry, hint or request. -/
theorem lineRequestServed : Obligations.LineRequestServed := by
  unfold Obligations.LineRequestServed
  refine ⟨fun slice l k s => ⟨fun m hm => ⟨fun hfill => ?_, fun v hv => ?_⟩, fun h hh hplane hwaits => ?_⟩,
    fun id pa r s hreq htarget hdue => ?_⟩
  · have hexec := missFillArrival_completes hm hfill
    obtain ⟨hwait, hgone⟩ := fillArrival_miss hm hfill
    exact ⟨_, hexec, (execMissFillArrival_changes.next hexec).platformKept, hwait, hgone, fillArrival_serves hm hfill⟩
  · have hexec := victimWriteAccept_completes hm hv
    obtain ⟨hgone, hleft⟩ := victimAccepted_leaves hm hv
    exact ⟨_, hexec, (execVictimWriteAccept_changes.next hexec).platformKept, hgone,
      fun hfill => ⟨(hleft hfill).1, fun j hj _ => (hleft hfill).2 j hj⟩⟩
  · have hexec := prefetchLine_completes hh hplane hwaits
    have hline := prefetchLine_changes (s := { s with hints := s.hints.erase h }) (h := h)
    have hslice : sliceOf (h.pa / 128) = slice.val := beq_iff_eq.1 (List.mem_filter.1 (List.mem_of_getElem? hh)).2
    exact ⟨_, hexec, (execPrefetchLine_changes.next hexec).platformKept, hline .hints (by decide), hline .tags (by decide),
      hline .cores (by decide), fun hon hown => prefetchLine_counts { s with hints := s.hints.erase h } hslice hon hown⟩
  · have hexec := lineRequestAtSlice_completes hreq hdue
    have hid := findReq_id hreq
    refine ⟨_, hexec, (execLineRequestAtSlice_changes.next hexec).platformKept, fun hwaits => ?_, fun hwaits hown =>
      ⟨fun hoff hk => ?_, fun hoff hk _ => ?_, fun w x hon hk hmiss hhit => ?_⟩⟩
    · rw [← hid]
      exact sliceStep_waits htarget hwaits
    · exact (sliceStep_memory hreq htarget hwaits hown hoff).1 hk
    · obtain ⟨hready, hmem⟩ := (sliceStep_memory hreq htarget hwaits hown hoff).2 hk
      refine ⟨hready, fun a => ?_⟩
      rw [hmem]
      exact memGet_writeEn ..
    · exact sliceStep_hit hreq htarget hwaits hown hon hk hmiss hhit

end Sys2Proof.Machine

/-! PROOFS. The family of spec/13, requests of other devices and answers: which registers an access of device memory counts in, what
a request in service leaves, and how an answer ends its command. -/

namespace Sys2Proof.Machine

set_option Elab.async false

/-! ### The registers that an access of device memory counts in -/

/-- The counters of the slices for a class of requesters, and those of the log. -/
def memCounts (k : Nat) : List Nat :=
  logCounts ++ (List.range 20).flatMap fun i => [regAddr .rcHits i k 0, regAddr .rcMisses i k 0, regAddr .rcEvictdirty i 0 0]

theorem sliceOf_lt (l : Nat) : sliceOf l < 20 := by
  unfold sliceOf
  dsimp only
  omega

theorem mem_memCounts {i k a : Nat} (hi : i < 20)
    (ha : a ∈ [regAddr .rcHits i k 0, regAddr .rcMisses i k 0, regAddr .rcEvictdirty i 0 0]) : a ∈ memCounts k :=
  List.mem_append_right _ (List.mem_flatMap.2 ⟨i, List.mem_range.2 hi, ha⟩)

theorem sameRegs_countLookup {s : State} {i k : Nat} {hit : Bool} (hi : i < 20) :
    SameRegsBut (memCounts k) s (countLookup s i k hit) := by
  refine SameRegsBut.mono (l := [regAddr (if hit then .rcHits else .rcMisses) i k 0]) sameRegs_setReg fun a ha => ?_
  rw [List.mem_singleton.1 ha]
  cases hit
  · exact mem_memCounts hi (by simp)
  · exact mem_memCounts hi (by simp)

theorem sameRegs_evictdirty {s : State} {i k n : Nat} (hi : i < 20) :
    SameRegsBut (memCounts k) s (bump s .rcEvictdirty i 0 0 n) :=
  SameRegsBut.mono (l := [regAddr .rcEvictdirty i 0 0]) sameRegs_setReg fun a ha => by
    rw [List.mem_singleton.1 ha]
    exact mem_memCounts hi (by simp)

theorem sameRegs_mismatchRecord {s : State} {a : MemWho} {pa : Nat} : SameRegsBut (memCounts a.cls) s (mismatchRecord s a pa) := by
  unfold mismatchRecord
  have hlog {code : LogCode} {u i : Nat} {c : Option Nat} {x y : Nat} : SameRegsBut (memCounts a.cls) s (post s code u i c x y) :=
    sameRegs_post.mono fun _ h => List.mem_append_left _ h
  exact .ite hlog hlog

theorem sameRegs_cacheRead {s : State} {a : MemWho} {l : Nat} : SameRegsBut (memCounts a.cls) s (cacheRead s a l).2 := by
  have hi := sliceOf_lt l
  have hsettle := (settle_changes (s := s) (i := sliceOf l) (l := l)).sameRegs (memCounts a.cls)
  unfold cacheRead
  dsimp only
  split
  · exact .of_eq rfl
  · split
    · exact hsettle.trans (sameRegs_countLookup hi)
    · have hmiss := (hsettle.trans (awaitEntry_changes.sameRegs _)).trans
        (sameRegs_countLookup (s := awaitEntry (settle s (sliceOf l) l) (sliceOf l)) (hit := false) hi)
      split
      · exact hmiss
      · split
        · exact hmiss.trans (.of_eq rfl)
        · exact ((SameRegsBut.ite (hmiss.trans (sameRegs_evictdirty hi)) hmiss).trans (displace_changes.sameRegs _)).trans (.of_eq rfl)

theorem sameRegs_cacheWrite {s : State} {a : MemWho} {l : Nat} {en : List (Option Byte)} {poison : List Bool} :
    SameRegsBut (memCounts a.cls) s (cacheWrite s a l en poison) := by
  have hi := sliceOf_lt l
  have hsettle := (settle_changes (s := s) (i := sliceOf l) (l := l)).sameRegs (memCounts a.cls)
  unfold cacheWrite
  dsimp only
  split
  · exact .of_eq rfl
  · split
    · exact (hsettle.trans (sameRegs_countLookup hi)).trans ((writeHit_changes.sameRegs _).trans (.of_eq rfl))
    · have hmiss := (hsettle.trans (awaitEntry_changes.sameRegs _)).trans
        (sameRegs_countLookup (s := awaitEntry (settle s (sliceOf l) l) (sliceOf l)) (hit := false) hi)
      split
      · exact hmiss.trans (.of_eq rfl)
      · split
        · exact hmiss.trans (.of_eq rfl)
        · exact ((SameRegsBut.ite (hmiss.trans (sameRegs_evictdirty hi)) hmiss).trans (displace_changes.sameRegs _)).trans (.of_eq rfl)

theorem sameRegs_memFetch {a : MemWho} {pa e n l : Nat} {r : MemRead} {s : State} :
    SameRegsBut (memCounts a.cls) s (memFetch a pa e n l r s).2 := by
  induction n generalizing l r s with
  | zero => exact .of_eq rfl
  | succ n ih =>
    have hline : SameRegsBut (memCounts a.cls) s (memLine s a l).2.2 := by
      unfold memLine
      split
      · exact sameRegs_cacheRead
      · exact sameRegs_mismatchRecord.trans ((poisonLine_changes (l := l)).sameRegs _)
      · exact (poisonLine_changes (l := l)).sameRegs _
    exact hline.trans ih

theorem sameRegs_memStore {a : MemWho} {pa : Nat} {bs : List (Option Byte)} {bad : List Bool} {n l : Nat} {r : Bool × Bool} {s : State} :
    SameRegsBut (memCounts a.cls) s (memStore a pa bs bad n l r s).2 := by
  induction n generalizing l r s with
  | zero => exact .of_eq rfl
  | succ n ih =>
    have hline {en : List (Option Byte)} {p : List Bool} : SameRegsBut (memCounts a.cls) s (memLineWrite s a l en p).2 := by
      unfold memLineWrite
      split
      · exact sameRegs_cacheWrite
      · exact sameRegs_mismatchRecord
      · exact .of_eq rfl
    exact hline.trans ih

theorem sameRegs_devRead {s : State} {a : MemWho} {pa n : Nat} : SameRegsBut (memCounts a.cls) s (devRead s a pa n).2 :=
  sameRegs_memFetch

theorem sameRegs_devWrite {s : State} {a : MemWho} {pa : Nat} {bs : List Byte} {bad : List Bool} :
    SameRegsBut (memCounts a.cls) s (devWrite s a pa bs bad).2 := sameRegs_memStore

theorem SameRegsBut.selfId {l : List Nat} {s t : State} (h : SameRegsBut l s t) (hl : regAddr .jnSelf 0 0 0 ∉ l) :
    selfId t = selfId s := h.regFld 0 10 hl

theorem jnSelf_not_counted : regAddr .jnSelf 0 0 0 ∉ memCounts 6 := by decide

/-! ### Requests in service (R449 to R451, R527) -/

theorem inboundOf_id {s : State} {id op : Nat} {e : Inbound} (h : inboundOf s id op = some e) : e.id = id := by
  have hp := List.find?_some (p := fun e : Inbound => e.id == id && e.pkt.op == op) h
  rw [Bool.and_eq_true] at hp
  exact beq_iff_eq.1 hp.1

theorem endInbound_inbound (s : State) (e : Inbound) : (endInbound s e).inbound = s.inbound.filter fun x => x.id != e.id := by
  unfold endInbound
  split <;> rfl

theorem mem_endInbound {s : State} {e x : Inbound} (h : x ∈ (endInbound s e).inbound) : x ∈ s.inbound ∧ x.id ≠ e.id := by
  rw [endInbound_inbound] at h
  obtain ⟨hx, hne⟩ := List.mem_filter.1 h
  exact ⟨hx, by simpa using hne⟩

theorem endInbound_inject (s : State) (e : Inbound) : (endInbound s e).inject = s.inject := endInbound_changes .inject (by decide)

theorem answerInbound_leaves (s : State) (e : Inbound) (op reason : Nat) (data : List Byte) (poison : List Bool) :
    (∀ x ∈ (answerInbound s e op reason data poison).inbound, x.id ≠ e.id)
      ∧ (answerInbound s e op reason data poison).inject
          = s.inject ++ [{ answerPacket s e.pkt op reason with data := data, poison := poison }] :=
  ⟨fun _ hx => (mem_endInbound hx).2, congrArg (· ++ _) (endInbound_inject s e)⟩

/-- A request is answered, to its device and under its handle, and is in service no more. -/
def Answered (e : Inbound) (ops : List Nat) (s t : State) : Prop :=
  (∀ x ∈ t.inbound, x.id ≠ e.id)
    ∧ ∃ k, t.inject = s.inject ++ [k] ∧ k.op ∈ ops ∧ k.dst = e.pkt.src ∧ k.src = selfId s ∧ k.handle = e.pkt.handle

/-- An answer after an access that neither moves packets nor changes who this part is. -/
theorem answered_after {s u : State} {e : Inbound} {ops : List Nat} {op reason : Nat} {data : List Byte} {poison : List Bool}
    (hinject : u.inject = s.inject) (hself : selfId u = selfId s) (hop : op ∈ ops) :
    Answered e ops s (answerInbound u e op reason data poison) := by
  obtain ⟨hgone, hsent⟩ := answerInbound_leaves u e op reason data poison
  exact ⟨hgone, { answerPacket u e.pkt op reason with data := data, poison := poison }, hsent.trans (by rw [hinject]), hop, rfl, hself,
    rfl⟩

theorem serveRead_answers (s : State) (e : Inbound) : Answered e [0x81, 0x8F] s (serveRead s e) := by
  have hinject : (devRead s (windowWho e) (windowPa e) e.pkt.args.count).2.inject = s.inject := devRead_changes .inject (by decide)
  have hself : selfId (devRead s (windowWho e) (windowPa e) e.pkt.args.count).2 = selfId s :=
    sameRegs_devRead.selfId jnSelf_not_counted
  unfold serveRead
  dsimp only
  split
  · exact answered_after rfl rfl (by decide)
  · split
    · exact answered_after hinject hself (by decide)
    · exact answered_after hinject hself (by decide)

theorem serveWrite_answers (s : State) (e : Inbound) : Answered e [0x82, 0x8F] s (serveWrite s e) := by
  have hinject : (devWrite s (windowWho e) (windowPa e) e.pkt.data e.pkt.poison).2.inject = s.inject :=
    devWrite_changes .inject (by decide)
  have hself : selfId (devWrite s (windowWho e) (windowPa e) e.pkt.data e.pkt.poison).2 = selfId s :=
    sameRegs_devWrite.selfId jnSelf_not_counted
  unfold serveWrite
  dsimp only
  split
  · exact answered_after rfl rfl (by decide)
  · split
    · exact answered_after hinject hself (by decide)
    · exact answered_after hinject hself (by decide)

theorem serveParcel_answers (s : State) (e : Inbound) : Answered e [0x85] s (serveParcel s e) := by
  unfold serveParcel
  dsimp only
  split
  · exact answered_after rfl rfl (by decide)
  · exact answered_after (deliverParcel_changes .inject (by decide))
      ((deliverParcel_changes.sameRegs []).selfId List.not_mem_nil) (by decide)

/-- A refusal touches nothing but the request, its tag and the packets to be sent. -/
theorem refuseInbound_only (s : State) (e : Inbound) (code : Nat) : (refuseInbound s e code).hbm = s.hbm
    ∧ (refuseInbound s e code).inject = s.inject ++ [{ answerPacket s e.pkt 0x8F code with data := [], poison := [] }] :=
  ⟨refuseInbound_changes .hbm (by decide), (answerInbound_leaves s e 0x8F code [] []).2⟩

theorem serveRead_refuses {s : State} {e : Inbound} (h : keyOk s e.pkt = false ∨ windowOk e false e.pkt.args.count = false) :
    serveRead s e = refuseInbound s e codeWindowRefused := if_pos (by obtain h | h := h <;> simp [h])

theorem serveWrite_refuses {s : State} {e : Inbound} (h : keyOk s e.pkt = false ∨ windowOk e true e.pkt.data.length = false) :
    serveWrite s e = refuseInbound s e codeWindowRefused := if_pos (by obtain h | h := h <;> simp [h])

theorem serveParcel_refuses {s : State} {e : Inbound} (h : keyOk s e.pkt = false) :
    serveParcel s e = answerInbound s e 0x85 codeParcelRefused [] [] := if_pos (by simp [h])

/-! ### Pool at home (R527 to R530) -/

theorem foldl_endInbound_gone {es : List Inbound} {s : State} {x : Inbound} (h : x ∈ (es.foldl endInbound s).inbound) :
    x ∈ s.inbound ∧ ∀ y ∈ es, x.id ≠ y.id := by
  induction es generalizing s with
  | nil => exact ⟨h, nofun⟩
  | cons e es ih =>
    obtain ⟨hx, hes⟩ := ih h
    obtain ⟨hs, he⟩ := mem_endInbound hx
    exact ⟨hs, List.forall_mem_cons.2 ⟨he, hes⟩⟩

/-- Every outcome of a request for pooling ends all its pieces and sends answers to its device. -/
theorem servePool_answers (s : State) (es : List Inbound) (p : Packet) :
    ∃ ks u, servePool s es p = { es.foldl endInbound u with inject := u.inject ++ ks } ∧ Changes memoryParts s u
      ∧ ∀ k ∈ ks, (k.op = 0x83 ∨ k.op = 0x8F) ∧ k.dst = p.src ∧ k.handle = p.handle := by
  have hno (u : State) (code : Nat) : ∀ k ∈ [answerPacket u p 0x8F code], (k.op = 0x83 ∨ k.op = 0x8F) ∧ k.dst = p.src
      ∧ k.handle = p.handle := fun k hk => by
    rw [List.mem_singleton.1 hk]
    exact ⟨.inr rfl, rfl, rfl⟩
  have hyes (u : State) (x : Pooled) : ∀ k ∈ partialAnswers u p x, (k.op = 0x83 ∨ k.op = 0x8F) ∧ k.dst = p.src
      ∧ k.handle = p.handle := fun k hk => by
    obtain ⟨g, -, rfl⟩ := List.mem_map.1 hk
    exact ⟨.inl rfl, rfl, rfl⟩
  unfold servePool
  dsimp only
  split
  · exact ⟨_, s, rfl, .refl, hno s _⟩
  · split
    · exact ⟨_, _, rfl, homeRecord_changes, hno _ _⟩
    · exact ⟨_, _, rfl, homeRecord_changes, hno _ _⟩
    · split
      · exact ⟨_, _, rfl, homeRecord_changes, hno _ _⟩
      · split
        · exact ⟨_, _, rfl, .comp (.of homeRecord_changes) poolHome_changes, hno _ _⟩
        · exact ⟨_, _, rfl, .comp (.of homeRecord_changes) poolHome_changes, hyes _ _⟩

theorem servePool_refuses {s : State} {es : List Inbound} {p : Packet} (h : keyOk s p = false) :
    servePool s es p = { es.foldl endInbound s with inject := s.inject ++ [answerPacket s p 0x8F codeWindowRefused] } :=
  if_pos (by simp [h])

/-! ### The events of requests -/

theorem remoteRead_completes {s : State} {id : Nat} {e : Inbound} (h : inboundOf s id 1 = some e) (hplane : planeUp s = true) :
    exec (.remoteRead id) s = .next (serveRead s e) := by
  have hbody : exec (.remoteRead id) s = match inboundOf s id 1 with
      | some e => whenDue (planeUp s) s (.next (serveRead s e))
      | none => .next s := rfl
  rw [hbody, h]
  exact whenDue_pos hplane ..

theorem windowWrite_completes {s : State} {id : Nat} {e : Inbound} (h : inboundOf s id 2 = some e) (hplane : planeUp s = true) :
    exec (.windowWrite id) s = .next (serveWrite s e) := by
  have hbody : exec (.windowWrite id) s = match inboundOf s id 2 with
      | some e => whenDue (planeUp s) s (.next (serveWrite s e))
      | none => .next s := rfl
  rw [hbody, h]
  exact whenDue_pos hplane ..

theorem parcel_completes {s : State} {id : Nat} {e : Inbound} (h : inboundOf s id 5 = some e) (hplane : planeUp s = true) :
    exec (.parcel id) s = .next (serveParcel s e) := by
  have hbody : exec (.parcel id) s = match inboundOf s id 5 with
      | some e => whenDue (planeUp s) s (.next (serveParcel s e))
      | none => .next s := rfl
  rw [hbody, h]
  exact whenDue_pos hplane ..

theorem poolAtHome_completes {s : State} {id : Nat} {e : Inbound} (h : inboundOf s id 3 = some e) (hplane : planeUp s = true)
    (hready : poolReady s (piecesOf s e.pkt) e.pkt = true) (hfirst : e.pkt.x = true ∨ expressPool s = false) :
    exec (.poolAtHome id) s = .next (servePool s (piecesOf s e.pkt) e.pkt) := by
  have hbody : exec (.poolAtHome id) s = match inboundOf s id 3 with
      | none => .next s
      | some e => whenDue (planeUp s && poolReady s (piecesOf s e.pkt) e.pkt && (e.pkt.x || !expressPool s)) s
          (.next (servePool s (piecesOf s e.pkt) e.pkt)) := rfl
  have hturn : (e.pkt.x || !expressPool s) = true := by obtain h | h := hfirst <;> simp [h]
  rw [hbody, h]
  exact whenDue_pos (by rw [hplane, hready, hturn]; rfl) ..

/-- Settles O45: each request by what answers it. -/
theorem remoteRequestsAnswered : Obligations.RemoteRequestsAnswered := by
  unfold Obligations.RemoteRequestsAnswered
  intro id s hplane answers
  have hanswers {e : Inbound} {ops : List Nat} {t : State} (hid : e.id = id) (hkept : PlatformKept s t)
      (h : Answered e ops s t) : answers e ops t := by
    obtain ⟨hgone, hsent⟩ := h
    rw [hid] at hgone
    exact ⟨hkept, hgone, hsent⟩
  refine ⟨fun e he => ?_, fun e he => ?_, fun e he => ?_, fun e he hready hfirst => ?_⟩
  · have hexec := remoteRead_completes he hplane
    refine ⟨_, hexec, hanswers (inboundOf_id he) (execRemoteRead_changes.next hexec).platformKept (serveRead_answers s e), fun h => ?_⟩
    rw [serveRead_refuses h]
    exact refuseInbound_only s e _
  · have hexec := windowWrite_completes he hplane
    refine ⟨_, hexec, hanswers (inboundOf_id he) (execWindowWrite_changes.next hexec).platformKept (serveWrite_answers s e),
      fun h => ?_⟩
    rw [serveWrite_refuses h]
    exact refuseInbound_only s e _
  · have hexec := parcel_completes he hplane
    refine ⟨_, hexec, hanswers (inboundOf_id he) (execParcel_changes.next hexec).platformKept (serveParcel_answers s e), fun h => ?_⟩
    rw [serveParcel_refuses h]
    exact ⟨answerInbound_changes .cores (by decide), (answerInbound_leaves s e 0x85 codeParcelRefused [] []).2⟩
  · have hexec := poolAtHome_completes he hplane hready hfirst
    obtain ⟨ks, u, heq, hu, hks⟩ := servePool_answers s (piecesOf s e.pkt) e.pkt
    have hinject : u.inject = s.inject := hu .inject (by decide)
    refine ⟨_, hexec, (execPoolAtHome_changes.next hexec).platformKept, fun y hy x hx => ?_, ⟨ks, ?_, hks⟩, fun h => ?_⟩
    · rw [heq] at hx
      exact (foldl_endInbound_gone hx).2 y hy
    · rw [heq, ← hinject]
    · rw [servePool_refuses h]
      exact ⟨Changes.foldl (l := [.inbound, .tags]) .refl (fun _ _ => .of endInbound_changes) .hbm (by decide), rfl⟩

/-! ### Answers (R215, R531 to R533) -/

theorem answerIn_id {s : State} {id : Nat} {e : Inbound} (h : answerIn s id = some e) : e.id = id := by
  have hp := List.find?_some (p := fun e : Inbound => e.id == id && 0x81 ≤ e.pkt.op && e.pkt.op ≤ 0x85) h
  rw [Bool.and_eq_true, Bool.and_eq_true] at hp
  exact beq_iff_eq.1 hp.1.1

theorem cmdOfHandle_tagCmd {s : State} {h tag : Nat} {c : Cmd} (hc : cmdOfHandle s h = some (tag, c)) : tagCmd s tag = some c := by
  unfold cmdOfHandle at hc
  dsimp only at hc
  split at hc
  · obtain ⟨c', hc', heq⟩ := Option.map_eq_some_iff.1 hc
    obtain ⟨rfl, rfl⟩ := Prod.mk.inj heq
    exact hc'
  · cases hc

theorem late_counts (s : State) : regVal (late s) .jnLate 0 0 0 = regVal s .jnLate 0 0 0 + 1#64 := regVal_bump ..

theorem endInbound_regs (s : State) (e : Inbound) (r : RegName) : regVal (endInbound s e) r 0 0 0 = regVal s r 0 0 0 :=
  regVal_changes endInbound_changes ..

/-- A failed request of one answer ends its command. -/
theorem requestFails_retires {s : State} {t code : Nat} {r : Remote} (hop : r.op = 1 ∨ r.op = 2 ∨ r.op = 5) (h : EndsOr s t) :
    (getTag (requestFails s t r code) t).st = .retiring := by
  have heq : requestFails s t r code = fail s t code := by
    unfold requestFails
    split
    · omega
    · omega
    · rfl
  rw [heq]
  exact h.fail

theorem errorArrives_late {s : State} {p : Packet} (h : cmdOfHandle s p.handle = none) : errorArrives s p = late s := by
  rw [errorArrives, h]

theorem errorArrives_retires {s : State} {p : Packet} {tag : Nat} {c : Cmd} {r : Remote} (h : cmdOfHandle s p.handle = some (tag, c))
    (hr : s.remotes.find? (remoteOf p (opOfCmd c)) = some r) (hop : r.op = 1 ∨ r.op = 2 ∨ r.op = 5) :
    (getTag (errorArrives s p) tag).st = .retiring := by
  rw [errorArrives, h]
  dsimp only
  rw [hr]
  exact requestFails_retires hop (tagCmd_endsOr (cmdOfHandle_tagCmd h))

theorem responseArrives_late {s : State} {p : Packet} (h : cmdOfHandle s p.handle = none) : responseArrives s p = late s := by
  rw [responseArrives, h]

theorem responseArrives_retires {s : State} {p : Packet} {tag : Nat} {c : Cmd} {r : Remote}
    (h : cmdOfHandle s p.handle = some (tag, c)) (hr : s.remotes.find? (awaited p) = some r) (hop : p.op = 0x81 ∨ p.op = 0x82) :
    (getTag (responseArrives s p) tag).st = .retiring := by
  have hends := tagCmd_endsOr (cmdOfHandle_tagCmd h)
  rw [responseArrives, h, hr]
  dsimp only
  obtain hop | hop := hop <;> rw [hop]
  · exact ((hends.ends modCore_changes.tagEnds).ends tagEnds_modCmd).retire
  · exact (hends.ends tagEnds_modCmd).retire

theorem error_completes {s : State} {id : Nat} {e : Inbound} (h : inboundOf s id 0x8F = some e) :
    exec (.error id) s = .next (errorArrives (endInbound s e) e.pkt) := by
  have hbody : exec (.error id) s = match inboundOf s id 0x8F with
      | some e => .next (errorArrives (endInbound s e) e.pkt)
      | none => .next s := rfl
  rw [hbody, h]

theorem remoteResponse_completes {s : State} {id : Nat} {e : Inbound} (h : answerIn s id = some e) :
    exec (.remoteResponse id) s = .next (responseArrives (endInbound s e) e.pkt) := by
  have hbody : exec (.remoteResponse id) s = match answerIn s id with
      | some e => .next (responseArrives (endInbound s e) e.pkt)
      | none => .next s := rfl
  rw [hbody, h]

theorem remoteTimeout_completes {s : State} {k : Nat} {r : Remote} (h : s.remotes[k]? = some r) (hleft : r.left = true) :
    exec (.remoteTimeout k) s = .next (requestFails (bump s .jnTimeout 0 0 0 1) r.tag r codeRemoteTimeout) := by
  have hbody : exec (.remoteTimeout k) s = match s.remotes[k]? with
      | none => .next s
      | some r => whenDue r.left s (.next (requestFails (bump s .jnTimeout 0 0 0 1) r.tag r codeRemoteTimeout)) := rfl
  rw [hbody, h]
  exact whenDue_pos hleft ..

/-- Settles O46: each answer by what it does to its command. -/
theorem remoteAnswersArrive : Obligations.RemoteAnswersArrive := by
  unfold Obligations.RemoteAnswersArrive
  intro id k s counted
  have hremotes (e : Inbound) : (endInbound s e).remotes = s.remotes := endInbound_changes .remotes (by decide)
  have hlate (e : Inbound) : counted .jnLate (late (endInbound s e)) := by
    show regVal _ .jnLate 0 0 0 = _
    rw [late_counts, endInbound_regs]
  refine ⟨fun e he => ?_, fun e he => ?_, fun r hr hleft => ?_⟩
  · have hexec := error_completes he
    have hin : (errorArrives (endInbound s e) e.pkt).inbound = (endInbound s e).inbound := (errorArrives_changes .inbound (by decide)).1
    refine ⟨_, hexec, (execError_changes.next hexec).platformKept, fun x hx => ?_, fun hnone => ?_, fun tag c hc r hr hop => ?_⟩
    · rw [hin] at hx
      rw [← inboundOf_id he]
      exact (mem_endInbound hx).2
    · rw [errorArrives_late hnone]
      exact hlate e
    · exact errorArrives_retires hc (by rw [hremotes]; exact hr) hop
  · have hexec := remoteResponse_completes he
    have hin : (responseArrives (endInbound s e) e.pkt).inbound = (endInbound s e).inbound :=
      (responseArrives_changes .inbound (by decide)).1
    refine ⟨_, hexec, (execRemoteResponse_changes.next hexec).platformKept, fun x hx => ?_, fun hnone => ?_,
      fun tag c hc r hr hop => ?_⟩
    · rw [hin] at hx
      rw [← answerIn_id he]
      exact (mem_endInbound hx).2
    · rw [responseArrives_late hnone]
      exact hlate e
    · exact responseArrives_retires hc (by rw [hremotes]; exact hr) hop
  · have hexec := remoteTimeout_completes hr hleft
    refine ⟨_, hexec, (execRemoteTimeout_changes.next hexec).platformKept, ?_, fun hop hcmd => ?_⟩
    · show regVal _ .jnTimeout 0 0 0 = _
      rw [regVal_changes requestFails_changes]
      exact regVal_bump ..
    · exact requestFails_retires hop (EndsOr.ends (s := s) (.inr hcmd) bump_changes.tagEnds)

end Sys2Proof.Machine

/-! PROOFS. The family of spec/13, the Junction: link-state announcements and packets for this part. -/

namespace Sys2Proof.Machine

set_option Elab.async false

/-! ### Packets that leave (R507) -/

theorem sameRegs_sendPacket {s : State} {p cls : Nat} {k : Packet} :
    SameRegsBut [regAddr .klTxflits p 0 0] s (sendPacket s p cls k) := by
  have hent (es : List TxEnt) (u : State) : SameRegsBut [regAddr .klTxflits p 0 0] u (es.foldl (fun s e => sendEnt s p e) u) := by
    induction es generalizing u with
    | nil => exact .of_eq rfl
    | cons e es ih =>
      have hflit : SameRegsBut [regAddr .klTxflits p 0 0] u (sendEnt u p e) :=
        .trans (wireOut_changes.sameRegs _) sameRegs_setReg
      exact hflit.trans (ih _)
  exact .trans (.of_eq rfl) (hent _ _)

/-- A packet that leaves counts in the flits of its link alone. -/
theorem sendOn_counts (s : State) (dir cls : Nat) (p : Packet) :
    ∃ q, SameRegsBut [regAddr .klTxflits q 0 0] s (sendOn s dir cls p) := by
  unfold sendOn
  split
  · exact ⟨_, .trans (settleBundle_changes.sameRegs _) sameRegs_sendPacket⟩
  · exact ⟨0, .of_eq rfl⟩

/-! ### Link-state announcements (R521) -/

theorem detourBit_setDetour (s : State) {d link : Nat} (b : Bool) (hd : d < 3) (hl : link < 16) :
    detourBit (setDetour s d link b) d link = b := by
  rw [setDetour, if_pos (by simp [hd, hl])]
  exact regBit_setFld _ _ _ _ _ b (by omega)

theorem SameRegsBut.detourBit {q d link : Nat} {s t : State} (h : SameRegsBut [regAddr .klTxflits q 0 0] s t) (hd : d < 3) :
    detourBit t d link = detourBit s d link := by
  refine h.regBit link ?_
  simp only [regAddr, regInfo, blkBase, List.mem_singleton]
  omega

/-- The state after an announcement. -/
def lsaMoved (s : State) (pkt : PktRef) (p : Packet) (by_ : Option (Nat × Nat)) : State :=
  let t := takePkt (lsaTake s p by_) pkt
  if lsaStops s p by_ then t else sendOn t (lsaDir p) (lsaClass s p by_) p

theorem detourBit_lsaMoved {s : State} {pkt : PktRef} {p : Packet} {by_ : Option (Nat × Nat)} (hby : by_.isSome = true)
    (hsrc : p.src ≠ selfId s) (hd : p.args.dim < 3) (hl : p.args.link < 16) :
    detourBit (lsaMoved s pkt p by_) p.args.dim p.args.link = decide (p.args.state ≠ 0) := by
  have htake : lsaTake s p by_ = setDetour s p.args.dim p.args.link (p.args.state != 0) := if_pos (by simp [hby, hsrc])
  have hbit : detourBit (takePkt (lsaTake s p by_) pkt) p.args.dim p.args.link = decide (p.args.state ≠ 0) := by
    have hbroken : (p.args.state != 0) = decide (p.args.state ≠ 0) := by simp [bne, beq_eq_decide]
    have hset := detourBit_setDetour s (p.args.state != 0) hd hl
    rw [htake, ← hbroken]
    exact ((takePkt_changes.sameRegs []).regBit p.args.link List.not_mem_nil).trans hset
  unfold lsaMoved
  dsimp only
  split
  · exact hbit
  · obtain ⟨q, hq⟩ := sendOn_counts (takePkt (lsaTake s p by_) pkt) (lsaDir p) (lsaClass s p by_) p
    exact (hq.detourBit hd).trans hbit

theorem lsa_completes {s : State} {pkt : PktRef} {p : Packet} {by_ : Option (Nat × Nat)} (h : pktAt s pkt = some (p, by_))
    (hop : p.op = 7) (hturn : turnOf s pkt p = true)
    (hgo : lsaStops s p by_ = true ∨ outReady s (lsaDir p) (lsaClass s p by_) p = true) :
    exec (.lsa pkt) s = .next (lsaMoved s pkt p by_) := by
  have hbody : exec (.lsa pkt) s = match pktAt s pkt with
      | none => .next s
      | some (p, by_) => whenDue (p.op == 7 && turnOf s pkt p && (lsaStops s p by_ || outReady s (lsaDir p) (lsaClass s p by_) p)) s
          (.next (lsaMoved s pkt p by_)) := rfl
  rw [hbody, h]
  exact whenDue_pos (by simpa [hop, hturn] using hgo) ..

/-! ### Packets that move on (R522, R533) -/

theorem packetForward_completes {s : State} {pkt : PktRef} {tag : Fin 4096} {combine : Option PktRef} {p : Packet}
    {by_ : Option (Nat × Nat)} (h : pktAt s pkt = some (p, by_)) (hturn : turnOf s pkt p = true) (hop : p.op ≠ 7)
    (htime : p.op = 6 → by_ = none) (hresend : resendFirst s pkt p = true) (hcombine : combine ≠ some pkt)
    (hgo : orphan s pkt p = true ∨ ((isLazy pkt p = true → dataReady s p = true) ∧ hopReady s pkt p by_ tag.val = true
      ∧ combineReady s p by_ combine = true)) :
    exec (.packetForward pkt tag combine) s = .next (forward s pkt p by_ tag.val combine) := by
  have hbody : exec (.packetForward pkt tag combine) s = match pktAt s pkt with
      | none => .next s
      | some (p, by_) =>
        whenDue ((p.op != 6 || by_.isNone) && p.op != 7 && turnOf s pkt p && resendFirst s pkt p && combine != some pkt
            && (orphan s pkt p || ((!isLazy pkt p || dataReady s p) && hopReady s pkt p by_ tag.val
              && combineReady s p by_ combine))) s
          (.next (forward s pkt p by_ tag.val combine)) := rfl
  have htime' : (p.op != 6 || by_.isNone) = true := by
    by_cases h6 : p.op = 6
    · simp [htime h6]
    · simp [h6]
  have hop' : (p.op != 7) = true := by simp [hop]
  have hcombine' : (combine != some pkt) = true := by simp [hcombine]
  have hgo' : (orphan s pkt p || ((!isLazy pkt p || dataReady s p) && hopReady s pkt p by_ tag.val
      && combineReady s p by_ combine)) = true := by
    obtain hgo | ⟨hlazy, hhop, hready⟩ := hgo
    · simp [hgo]
    · cases hl : isLazy pkt p with
      | true => simp [hlazy hl, hhop, hready]
      | false => simp [hhop, hready]
  rw [hbody, h]
  exact whenDue_pos (by rw [htime', hop', hturn, hresend, hcombine', hgo']; rfl) ..

/-- A packet that asks for nothing carries its data already. -/
theorem isLazy_of_not_request {r : PktRef} {p : Packet} (h : isRequest p = false) : isLazy r p = false := by
  unfold isLazy
  split
  · have hne : ¬(1 ≤ p.op ∧ p.op ≤ 5) := by simpa [isRequest] using h
    have h2 : p.op ≠ 2 := by omega
    have h5 : p.op ≠ 5 := by omega
    simp [lazyData, h2, h5]
  · rfl

/-- An answer moves as it is. -/
theorem forward_alone {s : State} {r : PktRef} {p : Packet} {by_ : Option (Nat × Nat)} {tag : Nat} (h : isRequest p = false) :
    forward s r p by_ tag none = hopOut s r p by_ tag := by
  have horphan : orphan s r p = false := by rw [orphan, isLazy_of_not_request h]; rfl
  rw [forward]
  simp only [Option.bind_none, horphan]
  rfl

theorem winWords_congr {s t : State} (hregs : t.regs = s.regs) (hold : t.winOld = s.winOld) (p : Packet) :
    winWords t p = winWords s p := by
  unfold winWords winNow regVal
  rw [hregs, hold]

/-- A packet for this part that asks for nothing enters service without a tag. -/
theorem hopOut_here {s : State} {r : PktRef} {p : Packet} {by_ : Option (Nat × Nat)} {tag : Nat} (h : isRequest p = false)
    (hresend : resendOf s r = none) (hroute : route s p by_ = .here) :
    (hopOut s r p by_ tag).inbound = s.inbound ++ [⟨s.nextInbound, none, p, winWords s p⟩]
      ∧ (hopOut s r p by_ tag).nextInbound = s.nextInbound + 1 := by
  have htaken : Changes [.remotes, .inject, .fab] s (takePkt (markLeft s p) r) := .comp (.of markLeft_changes) takePkt_changes
  obtain ⟨hin, hnext, hold⟩ : (takePkt (markLeft s p) r).inbound = s.inbound
      ∧ (takePkt (markLeft s p) r).nextInbound = s.nextInbound ∧ (takePkt (markLeft s p) r).winOld = s.winOld :=
    htaken .inbound (by decide)
  have hwin := winWords_congr (htaken .regs (by decide)) hold p
  have hop : p.op ≠ 4 := by
    rintro h4
    simp [isRequest, h4] at h
  have heq : hopOut s r p by_ tag = deliverHere (takePkt (markLeft s p) r) p tag := by
    have hlazy := isLazy_of_not_request (r := r) h
    rw [hopOut, hresend, hroute]
    simp only [leaving, hlazy]
    rfl
  have hplain : deliverHere (takePkt (markLeft s p) r) p tag = { takePkt (markLeft s p) r with
      inbound := (takePkt (markLeft s p) r).inbound
        ++ [⟨(takePkt (markLeft s p) r).nextInbound, none, p, winWords (takePkt (markLeft s p) r) p⟩],
      nextInbound := (takePkt (markLeft s p) r).nextInbound + 1 } := by
    simp only [deliverHere, wantsTag, h, hop, Bool.false_and, Bool.and_false, Bool.false_eq_true, if_false]
  rw [heq, hplain, hin, hnext, hwin]
  exact ⟨rfl, rfl⟩

/-- An answer that cannot be routed is counted. -/
theorem hopOut_stuck {s : State} {r : PktRef} {p : Packet} {by_ : Option (Nat × Nat)} {tag : Nat} (h : isRequest p = false)
    (hresend : resendOf s r = none) (hroute : route s p by_ = .stuck) (hop : p.op ≠ 6) :
    regVal (hopOut s r p by_ tag) .jnUnreach 0 0 0 = regVal s .jnUnreach 0 0 0 + 1#64 ∧ (hopOut s r p by_ tag).inbound = s.inbound := by
  have heq : hopOut s r p by_ tag = bump (takePkt s r) .jnUnreach 0 0 0 1 := by
    rw [hopOut, hresend, hroute]
    simp only [routeFails, h, hop, Bool.false_eq_true, if_false]
  have hin : (takePkt s r).inbound = s.inbound := (takePkt_changes .inbound (by decide)).1
  rw [heq]
  refine ⟨?_, hin⟩
  rw [← regVal_changes (takePkt_changes (s := s) (r := r)) .jnUnreach 0 0 0]
  exact regVal_bump ..

/-- Settles O44. -/
theorem junctionForwards : Obligations.JunctionForwards := by
  unfold Obligations.JunctionForwards
  intro pkt tag combine s p by_ hp hturn
  refine ⟨fun hop hgo => ?_, fun hop htime hresend hcombine hgo => ?_⟩
  · have hexec := lsa_completes hp hop hturn hgo
    have hchanges := execLsa_changes.next hexec
    exact ⟨_, hexec, hchanges.platformKept, hchanges .cores (by decide), hchanges .tags (by decide),
      fun hby hsrc hd hl => detourBit_lsaMoved hby hsrc hd hl⟩
  · have hexec := packetForward_completes hp hturn hop htime hresend hcombine hgo
    have hchanges := execPacketForward_changes.next hexec
    refine ⟨_, hexec, hchanges.platformKept, hchanges .hbm (by decide), fun hreq hback halone => ?_⟩
    rw [halone, forward_alone hreq]
    exact ⟨fun hroute => hopOut_here hreq hback hroute, fun hroute hop6 => hopOut_stuck hreq hback hroute hop6⟩

end Sys2Proof.Machine

/-! PROOFS. The family of spec/13, links: a link that goes down ends the time exchange in progress on it (R550), so that the events
which can take a link down do not leave the Timetable as it was. -/

namespace Sys2Proof.Machine

set_option Elab.async false

/-- A running part whose port 0, its upstream, is UP with an exchange in progress, an unacknowledged flit and seven retries in a
row. -/
def exchangingPart : State := { runningPart with
  fab := { runningPart.fab with ports := [(0, { portReset with
    st := 3, wentBack := true, retries := 7, replay := [⟨0, 0, { op := 1 }, 0⟩] })] },
  time := { runningPart.time with up := some 0, exchange := some ⟨0, none, 0, none⟩ } }

/-- A part whose exchange has been abandoned is not on the platform of before. -/
theorem not_platformKept_exchanging {t : State} (h : t.time.exchange = none) : ¬PlatformKept exchangingPart t := fun hkept => by
  obtain ⟨-, -, -, -, -, htime⟩ := hkept
  rw [htime] at h
  cases h

/-- The 8th retry in a row takes the link down (R496). -/
theorem goBack_exchanging : (goBack exchangingPart 0).time.exchange = none := rfl

/-- Loss of lock takes the link down (R498). -/
theorem lockLost_exchanging : (lockLost exchangingPart 0).time.exchange = none := rfl

/-- Refutes O42: the 8th retry in a row takes the link down, and the exchange on it, which is part of the Timetable, is
abandoned. -/
theorem not_flitsAndRetry : ¬ Obligations.FlitsAndRetry := by
  intro h
  obtain ⟨-, -, hretry⟩ := h 0 true ⟨0#16, none, false, 0#32⟩ 0 false false none 0 0 exchangingPart
  obtain ⟨t, ht, ⟨hkept, -⟩, -⟩ := hretry rfl (List.cons_ne_nil _ _)
  have hexec : exec (.retryTimerExpiry 0) exchangingPart = .next (goBack exchangingPart 0) := rfl
  rw [hexec] at ht
  obtain rfl := Host.Outcome.next.inj ht
  exact not_platformKept_exchanging goBack_exchanging hkept

/-- Refutes O43: loss of lock takes the upstream link down, and the exchange on it, which is part of the Timetable, is
abandoned. -/
theorem not_linkStatesAndFailover : ¬ Obligations.LinkStatesAndFailover := by
  rintro ⟨-, h⟩
  obtain ⟨hlock, -⟩ := h 0 true ⟨0#16, none, false, 0#32⟩ ⟨0#10, 0#8, 0#8, 0#8, false, 0#32, 0#32⟩ [] exchangingPart
  obtain ⟨t, ht, -, -, -, hkept⟩ := hlock (.inr rfl)
  have hexec : exec (.lockLossTimeout 0) exchangingPart = .next (lockLost exchangingPart 0) := rfl
  rw [hexec] at ht
  obtain rfl := Host.Outcome.next.inj ht
  exact not_platformKept_exchanging lockLost_exchanging hkept

end Sys2Proof.Machine

/-! PROOFS. The family of spec/12, resets: the programs and commands of a context end, and nothing starts them again. -/

namespace Sys2Proof.Machine

set_option Elab.async false

/-! ### Work that winds down -/

/-- Every program goes on as it was or is over, and no command is taken. -/
structure Winds (s t : State) : Prop where
  slot : ∀ n i, (getSlot t n i).phase = .idle
    ∨ (getSlot t n i).phase = (getSlot s n i).phase ∧ (getSlot t n i).ctx = (getSlot s n i).ctx
  cmds : ∀ d ∈ t.host.cmds, d ∈ s.host.cmds

theorem Winds.refl (s : State) : Winds s s := ⟨fun _ _ => .inr ⟨rfl, rfl⟩, fun _ h => h⟩

theorem Winds.trans {s t u : State} (h : Winds s t) (k : Winds t u) : Winds s u := by
  refine ⟨fun n i => ?_, fun d hd => h.cmds d (k.cmds d hd)⟩
  obtain hidle | ⟨hphase, hctx⟩ := k.slot n i
  · exact .inl hidle
  · rw [hphase, hctx]
    exact h.slot n i

theorem Winds.of_eq {s t : State} (hc : t.cores = s.cores) (hh : t.host.cmds = s.host.cmds) : Winds s t := by
  refine ⟨fun n i => .inr ?_, fun d hd => hh ▸ hd⟩
  rw [getSlot, getCore_congr hc]
  exact ⟨rfl, rfl⟩

theorem Winds.foldl {α : Type} {f : State → α → State} (hf : ∀ s x, Winds s (f s x)) (l : List α) (s : State) :
    Winds s (l.foldl f s) := by
  induction l generalizing s with
  | nil => exact .refl s
  | cons x l ih => exact (hf s x).trans (ih _)

/-- A change of neither cores nor the host interface. -/
theorem Changes.winds {l : List Part} {s t : State} (h : Changes l s t) (hl : Part.cores ∉ l ∧ Part.host ∉ l := by decide) :
    Winds s t := by
  have hhost : t.host = s.host := h .host hl.2
  exact .of_eq (h .cores hl.1) (by rw [hhost])

/-- A program that is over stays over. -/
theorem Winds.idle {s t : State} (h : Winds s t) {n : Nat} {i : SlotId} (hi : (getSlot s n i).phase = .idle) :
    (getSlot t n i).phase = .idle := by
  obtain hidle | ⟨hphase, -⟩ := h.slot n i
  · exact hidle
  · rw [hphase, hi]

theorem winds_setCore {s : State} {n : Nat} {c : Core} (h : ∀ i, (coreSlot c i).phase = .idle
    ∨ (coreSlot c i).phase = (getSlot s n i).phase ∧ (coreSlot c i).ctx = (getSlot s n i).ctx) : Winds s (setCore s n c) := by
  refine ⟨fun m i => ?_, fun d hd => hd⟩
  unfold getSlot
  by_cases hm : m = n
  · subst hm
    rw [getCore_setCore]
    exact h i
  · rw [getCore_setCore_ne s c hm]
    exact .inr ⟨rfl, rfl⟩

theorem winds_modCore {s : State} {n : Nat} {f : Core → Core} (h : ∀ c i, coreSlot (f c) i = coreSlot c i) :
    Winds s (modCore s n f) := winds_setCore fun i => by
  rw [h]
  exact .inr ⟨rfl, rfl⟩

theorem winds_modSlot {s : State} {n : Nat} {i : SlotId} {f : Slot → Slot}
    (h : ∀ x, (f x).phase = .idle ∨ (f x).phase = x.phase ∧ (f x).ctx = x.ctx) : Winds s (modSlot s n i f) :=
  winds_setCore fun j => by
    by_cases hj : j = i
    · subst hj
      rw [coreSlot_setCoreSlot]
      exact h _
    · rw [coreSlot_setCoreSlot_ne _ _ hj]
      exact .inr ⟨rfl, rfl⟩

/-! ### Commands in flight end (R267, R368) -/

theorem emit_cmds (s : State) (fn : Nat) (p : Post) : (emit s fn p).host.cmds = s.host.cmds := emitAt_cmds ..

theorem atsSweep_cmds (s : State) : (atsSweep s).host.cmds = s.host.cmds := by
  have hfold (l : List (Nat × Nat × List Nat)) (u : State) :
      (l.foldl (fun s e => emit s e.1 (.invalidateDone e.1 e.2.1)) u).host.cmds = u.host.cmds := by
    induction l generalizing u with
    | nil => rfl
    | cons e l ih => exact (ih _).trans (emit_cmds ..)
  exact hfold _ _

theorem winds_dropFromSlot (s : State) (t : Nat) (c : Cmd) : Winds s (dropFromSlot s t c) := by
  have hreqs (u : State) (rs : List Remote) : Winds u (dropReqs { u with remotes := rs } fun r => r.tag == t) :=
    .of_eq (dropReqs_changes .cores (by decide)) (atsSweep_cmds _)
  refine ((winds_modSlot ?_).trans (winds_modCore ?_)).trans (hreqs _ _)
  · exact fun _ => .inr ⟨rfl, rfl⟩
  · exact fun _ i => by cases i <;> rfl

theorem winds_freeTag (s : State) (t : Nat) : Winds s (freeTag s t) := by
  have hreports (u : State) (n : Nat) :
      Winds u (modCore u n fun c => { c with reports := c.reports.filter fun e => e.1 != t }) :=
    winds_modCore fun _ i => by cases i <;> rfl
  have hcmd (o : Option Cmd) (u : State) : Winds u (match o with
      | some c => dropFromSlot u t c
      | none => u) := by
    cases o
    · exact .refl u
    · exact winds_dropFromSlot ..
  have howner (o : Option (Nat × SlotId)) (u : State) : Winds u (match o with
      | some (n, _) => modCore u n fun c => { c with reports := c.reports.filter fun e => e.1 != t }
      | none => u) := by
    cases o
    · exact .refl u
    · exact hreports ..
  exact ((hcmd _ s).trans (howner _ _)).trans (.of_eq rfl rfl)

theorem winds_freeTags (ts : List Nat) (s : State) : Winds s (freeTags ts s) := by
  induction ts generalizing s with
  | nil => exact .refl s
  | cons t ts ih => exact (winds_freeTag s t).trans (ih _)

/-! ### Programs end (R483) -/

theorem winds_slotIdle (s : State) (n : Nat) (i : SlotId) : Winds s (slotIdle s n i) := by
  have hexpress (u : State) : Winds u (applyExpress u n) := by
    obtain h | ⟨c, h, hc⟩ := applyExpress_cases u n <;> rw [h]
    · exact .refl u
    · exact winds_setCore fun j => .inr (by rw [hc]; exact ⟨rfl, rfl⟩)
  refine (releaseHolds_changes.winds.trans ((winds_modSlot ?_).trans (winds_modCore ?_))).trans (hexpress _)
  · exact fun _ => .inl rfl
  · exact fun _ j => by cases j <;> rfl

theorem winds_endSlot (s : State) (n : Nat) (i : SlotId) : Winds s (endSlot s n i) := by
  have hmiss (u : State) : Winds u (modCore u n fun c =>
      { c with fetchMiss := match c.fetchMiss with
                 | some (j, m) => if j = i then none else some (j, m)
                 | none => none }) := winds_modCore fun _ j => by cases j <;> rfl
  have hcop (u : State) : Winds u (modSlot u n i fun x => { x with cop := [], timeUp := false }) :=
    winds_modSlot fun _ => .inr ⟨rfl, rfl⟩
  have hmus (u : State) (ms : Sp MuSt) : Winds u { u with mus := ms } := .of_eq rfl rfl
  have hidle (u : State) : Winds u (slotIdle (tallyRun u n i) n i) := tallyRun_changes.winds.trans (winds_slotIdle ..)
  unfold endSlot
  split
  · exact .refl s
  · exact (winds_freeTags _ _).trans ((hmiss _).trans ((hcop _).trans ((hmus _ _).trans (hidle _))))

theorem endSlot_idle (s : State) (n : Nat) (i : SlotId) : (getSlot (endSlot s n i) n i).phase = .idle := by
  unfold endSlot
  split
  · assumption
  · dsimp only
    rw [getSlot_slotIdle]
    rfl

theorem winds_endSlots (l : List (Nat × SlotId)) (s : State) : Winds s (endSlots l s) := by
  induction l generalizing s with
  | nil => exact .refl s
  | cons e l ih => exact (winds_endSlot s e.1 e.2).trans (ih _)

theorem endSlots_idle {l : List (Nat × SlotId)} {n : Nat} {i : SlotId} (h : (n, i) ∈ l) (s : State) :
    (getSlot (endSlots l s) n i).phase = .idle := by
  induction l generalizing s with
  | nil => cases h
  | cons e l ih =>
    obtain ⟨m, j⟩ := e
    obtain heq | h := List.mem_cons.1 h
    · obtain ⟨rfl, rfl⟩ := Prod.mk.inj heq
      exact (winds_endSlots l _).idle (endSlot_idle s n i)
    · exact ih h _

/-- Every slot that runs a program of the contexts is among those that end. -/
theorem mem_busySlots {s : State} {hit : Nat → Bool} {n : Nat} {i : SlotId} (hphase : (getSlot s n i).phase ≠ .idle)
    (hhit : hit (getSlot s n i).ctx = true) : (n, i) ∈ busySlots s hit := by
  have hmem : (n, getCore s n) ∈ s.cores := by
    refine (spGet_mem coreReset n s.cores).resolve_left fun hreset => hphase ?_
    rw [getSlot, getCore, hreset]
    cases i <;> rfl
  refine List.mem_flatMap.2 ⟨_, hmem, List.mem_map.2 ⟨i, List.mem_filter.2 ⟨?_, ?_⟩, rfl⟩⟩
  · cases i
    · exact List.mem_cons_self
    · exact List.mem_cons_of_mem _ List.mem_cons_self
  · rw [Bool.and_eq_true, bne_iff_ne]
    exact ⟨hphase, hhit⟩

/-! ### Taken commands end -/

theorem completeCmd_cmds (s : State) (d : DCmd) (code detail detail2 : Nat) :
    (completeCmd s d code detail detail2).host.cmds = s.host.cmds.filter fun e => e.id != d.id := by
  have hmeasure (u : State) : (measureRun u d).host = u.host := measureRun_changes .host (by decide)
  have hcmds (rank fn a : Nat) (bs : List Byte) : (measureRun (emitEntry rank s fn a bs) d).host.cmds = s.host.cmds := by
    rw [hmeasure]
    exact emitAt_cmds ..
  unfold completeCmd
  dsimp only
  split
  · rw [sendVector_cmds]
    exact congrArg (List.filter _) (hcmds ..)
  · exact congrArg (List.filter _) (hcmds ..)

/-- The tag of a taken command, with the control work that it started. -/
theorem winds_endTaken (report : Bool) (s : State) (d : DCmd) : Winds s (endTaken report s d)
    ∧ ∀ e ∈ (endTaken report s d).host.cmds, e.id ≠ d.id := by
  have htag (o : Option Nat) : Winds s (match o with
      | some t => freeTag s t
      | none => s) := by
    cases o
    · exact .refl s
    · exact winds_freeTag ..
  have hgone {l : List DCmd} {e : DCmd} (h : e ∈ l.filter fun e => e.id != d.id) : e ∈ l ∧ e.id ≠ d.id := by
    obtain ⟨hl, hne⟩ := List.mem_filter.1 h
    exact ⟨hl, by simpa using hne⟩
  obtain ⟨u, hu, heq⟩ : ∃ u, Winds s u ∧ endTaken report s d
      = if report then completeCmd { u with ctrl := u.ctrl.filter fun c => c.cmd != d.id,
                                            epochs := u.epochs.filter fun e => e.cmd != d.id } d codeAborted 0 0
        else { u with ctrl := u.ctrl.filter fun c => c.cmd != d.id, epochs := u.epochs.filter fun e => e.cmd != d.id,
                      host := { u.host with cmds := u.host.cmds.filter fun e => e.id != d.id } } := ⟨_, htag d.tag, rfl⟩
  rw [heq]
  split
  · refine ⟨⟨fun n i => ?_, fun e he => ?_⟩, fun e he => ?_⟩
    · rw [completeCmd_changes.getSlot]
      exact hu.slot n i
    · rw [completeCmd_cmds] at he
      exact hu.cmds e (hgone he).1
    · rw [completeCmd_cmds] at he
      exact (hgone he).2
  · exact ⟨⟨hu.slot, fun e he => hu.cmds e (hgone he).1⟩, fun e he => (hgone he).2⟩

theorem foldl_endTaken_gone (report : Bool) {l : List DCmd} {s : State} {d e : DCmd} (hd : d ∈ l)
    (he : e ∈ (l.foldl (endTaken report) s).host.cmds) : e.id ≠ d.id := by
  induction l generalizing s with
  | nil => cases hd
  | cons x l ih =>
    obtain rfl | hd := List.mem_cons.1 hd
    · exact (winds_endTaken report s d).2 e ((Winds.foldl (fun s x => (winds_endTaken report s x).1) l _).cmds e he)
    · exact ih hd he

/-! ### The work of contexts ends (R483, Table 19.2) -/

/-- No program, no command and no other work of the contexts is left. -/
structure WorkOver (hit : Nat → Bool) (t : State) : Prop where
  slots : ∀ n i, hit (getSlot t n i).ctx = true → (getSlot t n i).phase = .idle
  cmds : ∀ d ∈ t.host.cmds, hit d.ctx = false
  pend : ∀ p ∈ t.pend, hit p.ctx = false
  layers : ∀ l ∈ t.layers, hit l.ctx = false
  barriers : ∀ b ∈ t.barriers, hit b.ctx = false

theorem endContexts_over (hit : Nat → Bool) (report : Bool) (s : State) : WorkOver hit (endContexts hit report s) := by
  have hfilter {α : Type} {f : α → Nat} {l : List α} : ∀ x ∈ l.filter (fun x => !hit (f x)), hit (f x) = false := fun x hx => by
    simpa using (List.mem_filter.1 hx).2
  have hslots := winds_endSlots (busySlots s hit) s
  have htaken : Winds (endSlots (busySlots s hit) s)
      ((s.host.cmds.filter fun d => hit d.ctx).foldl (endTaken report) (endSlots (busySlots s hit) s)) :=
    Winds.foldl (fun s d => (winds_endTaken report s d).1) _ _
  have hdrop : Winds ((s.host.cmds.filter fun d => hit d.ctx).foldl (endTaken report) (endSlots (busySlots s hit) s))
      (dtcDrop ((s.host.cmds.filter fun d => hit d.ctx).foldl (endTaken report) (endSlots (busySlots s hit) s))
        fun e => hit e.ctx) := dtcDrop_changes.winds
  refine ⟨fun n i hctx => ?_, fun d hd => ?_, hfilter, hfilter, hfilter⟩
  · by_cases hphase : (getSlot s n i).phase = .idle
    · exact ((hslots.trans htaken).trans hdrop).idle hphase
    · obtain hidle | ⟨-, hsame⟩ := ((hslots.trans htaken).trans hdrop).slot n i
      · exact hidle
      · have hhit : hit (getSlot s n i).ctx = true := hsame ▸ hctx
        exact (htaken.trans hdrop).idle (endSlots_idle (mem_busySlots hphase hhit) s)
  · have hd' := hdrop.cmds d hd
    refine Bool.eq_false_iff.2 fun hhit => ?_
    exact foldl_endTaken_gone report (List.mem_filter.2 ⟨(hslots.trans htaken).cmds d hd', hhit⟩) hd' rfl

/-- What is over stays over. -/
theorem WorkOver.winds {hit : Nat → Bool} {s t : State} (h : WorkOver hit s) (k : Winds s t) (hpend : t.pend = s.pend)
    (hlayers : t.layers = s.layers) (hbarriers : t.barriers = s.barriers) : WorkOver hit t := by
  refine ⟨fun n i hctx => ?_, fun d hd => h.cmds d (k.cmds d hd), hpend ▸ h.pend, hlayers ▸ h.layers, hbarriers ▸ h.barriers⟩
  obtain hidle | ⟨hphase, hsame⟩ := k.slot n i
  · exact hidle
  · rw [hphase]
    exact h.slots n i (hsame ▸ hctx)

/-! ### Queues and functions that are reset (R484) -/

theorem foldl_establishes {α : Type} {f : State → α → State} {l : List α} {x : α} {p : State → Prop} (hx : x ∈ l)
    (hset : ∀ s, p (f s x)) (hkeep : ∀ s, ∀ y ∈ l, p s → p (f s y)) (s : State) : p (l.foldl f s) := by
  have hrest {m : List α} (hm : ∀ y ∈ m, y ∈ l) {u : State} (hu : p u) : p (m.foldl f u) := by
    induction m generalizing u with
    | nil => exact hu
    | cons y m ih => exact ih (fun z hz => hm z (List.mem_cons_of_mem y hz)) (hkeep u y (hm y List.mem_cons_self) hu)
  obtain ⟨a, b, rfl⟩ := List.append_of_mem hx
  rw [List.foldl_append, List.foldl_cons]
  exact hrest (fun y hy => List.mem_append_right _ (List.mem_cons_of_mem x hy)) (hset _)

theorem regAddr_dspQctl_inj {c q d r : Nat} (hq : q < 8) (hr : r < 8)
    (h : regAddr .dspQctl 0 c q = regAddr .dspQctl 0 d r) : c = d ∧ q = r := by
  simp only [regAddr, regInfo, blkBase] at h
  omega

theorem qEnabled_clearQueue (s : State) {c q d r : Nat} (hq : q < 8) (hr : r < 8) :
    qEnabled (clearQueue s c q) d r = (qEnabled s d r && !(decide (d = c) && decide (r = q))) := by
  have hregs : qEnabled (clearQueue s c q) d r = qEnabled (setFld s .dspQctl 0 c q 0 1 0) d r := rfl
  rw [hregs]
  by_cases hsame : d = c ∧ r = q
  · obtain ⟨rfl, rfl⟩ := hsame
    rw [show qEnabled (setFld s .dspQctl 0 d r 0 1 0) d r = false from regBit_setFld _ _ _ _ _ false (Nat.le_of_ble_eq_true rfl)]
    simp
  · have hne : regAddr .dspQctl 0 d r ∉ [regAddr .dspQctl 0 c q] := fun h =>
      hsame (regAddr_dspQctl_inj hr hq (List.mem_singleton.1 h))
    rw [show qEnabled (setFld s .dspQctl 0 c q 0 1 0) d r = qEnabled s d r from sameRegs_setReg.regBit 0 hne]
    simp only [not_and] at hsame
    by_cases hd : d = c
    · simp [hsame hd]
    · simp [hd]

theorem qEnabled_ringOff (s : State) {c d r : Nat} :
    qEnabled (setRing (setFld s .dspPringcfg 0 c 0 15 1 0) c pringReset) d r = qEnabled s d r := by
  refine SameRegsBut.regBit (l := [regAddr .dspPringcfg 0 c 0]) sameRegs_setReg 0 ?_
  simp only [regAddr, regInfo, blkBase, List.mem_singleton]
  omega

/-- A context's queues are disabled, and none is enabled. -/
theorem qEnabled_clearQueues {s : State} {c d r : Nat} (hr : r < 8) (h : d = c ∨ qEnabled s d r = false) :
    qEnabled (clearQueues s c) d r = false := by
  rw [clearQueues, qEnabled_ringOff]
  obtain rfl | h := h
  · refine foldl_establishes (p := fun s => qEnabled s d r = false) (x := r) (List.mem_range.2 hr) (fun s => ?_)
      (fun s q hq hoff => ?_) s
    · rw [qEnabled_clearQueue s hr hr]
      simp
    · rw [qEnabled_clearQueue s (List.mem_range.1 hq) hr, hoff, Bool.false_and]
  · have hkeep (l : List Nat) (hl : ∀ q ∈ l, q < 8) {u : State} (hu : qEnabled u d r = false) :
        qEnabled (l.foldl (fun s q => clearQueue s c q) u) d r = false := by
      induction l generalizing u with
      | nil => exact hu
      | cons q l ih =>
        refine ih (fun x hx => hl x (List.mem_cons_of_mem q hx)) ?_
        rw [qEnabled_clearQueue u (hl q List.mem_cons_self) hr, hu, Bool.false_and]
    exact hkeep _ (fun q hq => List.mem_range.1 hq) h

theorem winds_clearQueues (s : State) (c : Nat) : Winds s (clearQueues s c) := by
  have hqueue (u : State) (q : Nat) : Winds u (clearQueue u c q) := .of_eq rfl rfl
  have hring (u : State) : Winds u (setRing (setFld u .dspPringcfg 0 c 0 15 1 0) c pringReset) := .of_eq rfl rfl
  exact (Winds.foldl hqueue _ s).trans (hring _)

/-- What the reset of a function leaves of it (R484). -/
structure FnOff (fn : Nat) (cs : List Nat) (t : State) : Prop where
  queues : ∀ c ∈ cs, ∀ q, q < 8 → qEnabled t c q = false
  resetting : spGet false fn t.host.resetting = true
  priOut : ∀ e ∈ t.priOut, e.fn ≠ fn
  workOver : WorkOver (fun c => cs.contains c) t

theorem fnReset_off (s : State) (fn : Nat) : FnOff fn (ctxsOf s fn) (fnReset s fn) := by
  have hqueues : Winds (endContexts (fun c => (ctxsOf s fn).contains c) false s)
      ((ctxsOf s fn).foldl clearQueues (endContexts (fun c => (ctxsOf s fn).contains c) false s)) :=
    Winds.foldl winds_clearQueues _ _
  have hchanges : Changes [.regs, .host] (endContexts (fun c => (ctxsOf s fn).contains c) false s)
      ((ctxsOf s fn).foldl clearQueues (endContexts (fun c => (ctxsOf s fn).contains c) false s)) :=
    .foldl .refl fun _ _ => .of clearQueues_changes
  obtain ⟨m, hm⟩ : ∃ m, (fnReset s fn).host.resetting = spSet false fn true m := ⟨_, rfl⟩
  refine ⟨fun c hc q hq => ?_, by rw [hm, spGet_set], fun e he => ?_, ?_⟩
  · have hoff := foldl_establishes (f := clearQueues) (p := fun t => qEnabled t c q = false) hc
      (fun u => qEnabled_clearQueues hq (.inl rfl)) (fun u _ _ h => qEnabled_clearQueues hq (.inr h))
      (endContexts (fun c => (ctxsOf s fn).contains c) false s)
    exact hoff
  · simpa using (List.mem_filter.1 he).2
  · exact (endContexts_over _ false s).winds (hqueues.trans (.of_eq rfl rfl)) (hchanges .pend (by decide))
      (hchanges .layers (by decide)) (hchanges .merge (by decide)).1

/-- A function's configuration space leaves its queues and its work as they are. -/
theorem FnOff.configReset {fn : Nat} {cs : List Nat} {s : State} (h : FnOff fn cs s) : FnOff fn cs (configReset s fn) :=
  ⟨h.queues, h.resetting, h.priOut, h.workOver.winds (.of_eq rfl rfl) rfl rfl rfl⟩

/-! ### The data plane is reset (R485, R686) -/

theorem clearCore_idle (c : Core) : (clearCore c).bulk.phase = .idle ∧ (clearCore c).express.phase = .idle := ⟨rfl, rfl⟩

theorem clearedCores_idle (m : Sp Core) (n : Nat) :
    (spGet coreReset n (spMap coreReset (fun _ c => clearCore c) m)).bulk.phase = .idle
      ∧ (spGet coreReset n (spMap coreReset (fun _ c => clearCore c) m)).express.phase = .idle := by
  obtain h | h := spGet_mem coreReset n (spMap coreReset (fun _ c => clearCore c) m)
  · rw [h]
    exact ⟨rfl, rfl⟩
  · obtain ⟨e, -, he⟩ := List.mem_map.1 (List.mem_filter.1 h).1
    have hcore : spGet coreReset n (spMap coreReset (fun _ c => clearCore c) m) = clearCore e.2 := (congrArg Prod.snd he).symm
    rw [hcore]
    exact clearCore_idle e.2

/-- What the data-plane reset leaves of the cores, the tags, the problems and the host interface (Table 19.2). -/
theorem planeClear_leaves (s : State) : ∃ u : State, (planeClear s).cores = spMap coreReset (fun _ c => clearCore c) u.cores
    ∧ (planeClear s).tags = [] ∧ (planeClear s).problems = [] ∧ (planeClear s).host = clearHost u.host := by
  unfold planeClear
  extract_lets _ _ _ _ _ _ _ u
  clear_value u
  exact ⟨u, rfl, rfl, rfl, rfl⟩

theorem dataPlaneReset_up {s : State} (h : s.power.dataPlane = false) :
    dataPlaneReset s = { planeClear s with power := { s.power with dataPlane := true } } := by
  have hpower : (planeClear s).power = s.power := planeClear_changes .power (by decide)
  unfold dataPlaneReset
  rw [if_neg (by rw [h]; nofun)]
  dsimp only
  rw [hpower]

/-- What FLR of the physical function leaves. -/
theorem flrPf_leaves {s : State} (h : s.power.dataPlane = false) :
    ∃ u, flrPf s = { planeClear u with power := { s.power with dataPlane := true } } := by
  have hfold : Changes [.time, .priOut, .host, .hbm, .poison, .reqs, .slices, .regs, .log, .trace, .free, .xlate, .hints, .layers,
      .merge, .pend, .px, .problems, .tags, .cores, .remotes, .mus, .sm, .epochs] s
      ((List.range 64).foldl (fun s f => configReset (fnReset s f) f) s) :=
    .foldl .refl fun _ _ => .comp (.of fnReset_changes) configReset_changes
  have hpower : ((List.range 64).foldl (fun s f => configReset (fnReset s f) f) s).power = s.power := hfold .power (by decide)
  unfold flrPf
  dsimp only
  generalize (List.range 64).foldl (fun s f => configReset (fnReset s f) f) s = u at hpower
  have hhost : (setHost u { u.host with vfEnable := false }).power = s.power := hpower
  refine ⟨setHost u { u.host with vfEnable := false }, ?_⟩
  rw [dataPlaneReset_up (by rw [hhost, h]), hhost]

/-! ### The events -/

theorem Completes.of_if {i : Instr} {s u : State} {c : Prop} [Decidable c] {p : State → Prop}
    (hexec : exec i s = .next (if c then u else s)) (hno : ¬c → p s) (hyes : c → p u) : Completes i s p := by
  refine ⟨_, hexec, ?_⟩
  split
  · exact hyes ‹_›
  · exact hno ‹_›

/-- The function of Table 12.9 after a GO. -/
def fnResetGo (s : State) (fn : Nat) : State := setHost (fnReset s fn) { (fnReset s fn).host with fnResetBusy := some fn }

theorem FnOff.busy {fn : Nat} {cs : List Nat} {s : State} (h : FnOff fn cs s) (busy : Option Nat) :
    FnOff fn cs (setHost s { s.host with fnResetBusy := busy }) :=
  ⟨h.queues, h.resetting, h.priOut, h.workOver.winds (.of_eq rfl rfl) rfl rfl rfl⟩

/-- A context reset ends the work of its context (R483). -/
theorem ctxReset_ends {s : State} {ctx : Nat} (h : s.host.ctxResetBusy = none) :
    (ctxReset s ctx).host.ctxResetBusy = some ctx ∧ WorkOver (fun c => c == ctx) (ctxReset s ctx)
      ∧ (ctxReset s ctx).variant = s.variant ∧ (ctxReset s ctx).nv = s.nv := by
  have hchanges := ctxReset_changes (s := s) (ctx := ctx)
  refine ⟨?_, ?_, hchanges .variant (by decide), hchanges .nv (by decide)⟩ <;> rw [ctxReset, if_neg (by rw [h]; nofun)]
  · rfl
  · exact (endContexts_over _ true s).winds (.of_eq rfl rfl) rfl rfl rfl

/-- Settles O41: each reset by what it leaves of its contexts or its function. -/
theorem hostResets : Obligations.HostResets := by
  unfold Obligations.HostResets
  intro ctx fn go s ended off
  have hended {hit : Nat → Bool} {p : Nat → Prop} {t : State} (hp : ∀ c, p c ↔ hit c = true) (h : WorkOver hit t) : ended p t := by
    have hnot {c : Nat} (hc : hit c = false) : ¬p c := fun h => by simp [(hp c).1 h] at hc
    exact ⟨fun n i hctx => h.slots n i ((hp _).1 hctx), fun d hd => hnot (h.cmds d hd), fun p hp => hnot (h.pend p hp),
      fun l hl => hnot (h.layers l hl), fun b hb => hnot (h.barriers b hb)⟩
  have hoff {t : State} (h : FnOff fn.val (ctxsOf s fn.val) t) : off t ∧ ended (· ∈ ctxsOf s fn.val) t :=
    ⟨⟨h.queues, h.resetting, h.priOut⟩, hended (fun c => List.contains_iff_mem.symm) h.workOver⟩
  refine ⟨?_, ?_, fun hfn => ?_, ?_⟩
  · have hexec : exec (.dspCtxreset ctx go) s = .next (if go && resetTakes s then ctxReset s ctx.val else s) := rfl
    refine Completes.of_if hexec (fun hno => ⟨fun _ => rfl, fun hgo htakes _ => absurd (by rw [hgo, htakes]; rfl) hno⟩)
      fun hyes => ?_
    obtain ⟨hgo, htakes⟩ := Bool.and_eq_true_iff.1 hyes
    refine ⟨fun hno => ?_, fun _ _ hbusy => ?_⟩
    · refine if_pos (Option.isSome_iff_ne_none.2 fun hbusy => hno ⟨hgo, htakes, hbusy⟩)
    · obtain ⟨hset, hover, hkept⟩ := ctxReset_ends (ctx := ctx.val) hbusy
      exact ⟨hset, hended (fun c => beq_iff_eq.symm) hover, hkept⟩
  · have hexec : exec (.dspFnreset fn go) s
        = .next (if go && fn.val != 0 && resetTakes s && s.host.fnResetBusy.isNone then fnResetGo s fn.val else s) := rfl
    refine Completes.of_if hexec (fun hno => ⟨fun _ => rfl, fun hgo hfn htakes hbusy => absurd ?_ hno⟩) fun hyes => ?_
    · simp [hgo, hfn, htakes, hbusy]
    · simp only [Bool.and_eq_true, bne_iff_ne, Option.isNone_iff_eq_none] at hyes
      obtain ⟨⟨⟨hgo, hfn⟩, htakes⟩, hbusy⟩ := hyes
      exact ⟨fun hno => absurd ⟨hgo, hfn, htakes, hbusy⟩ hno, fun _ _ _ _ => ⟨rfl, hoff ((fnReset_off s fn.val).busy _)⟩⟩
  · have hexec : exec (.flrVf fn) s = .next (if fn.val != 0 && hostHere s && !s.power.dataPlane && s.host.vfEnable
        then configReset (fnReset s fn.val) fn.val else s) := by
      have hbody : exec (.flrVf fn) s = whenDue (fn.val != 0 && hostHere s && !s.power.dataPlane && s.host.vfEnable) s
          (.next (configReset (fnReset s fn.val) fn.val)) := rfl
      rw [hbody, whenDue]
      split <;> rfl
    refine Completes.of_if hexec (fun hno => ⟨fun _ => rfl, fun hhere hplane hvf => absurd ?_ hno⟩) fun hyes => ?_
    · simp [hfn, hhere, hplane, hvf]
    · simp only [Bool.and_eq_true, Bool.not_eq_true'] at hyes
      obtain ⟨⟨⟨-, hhere⟩, hplane⟩, hvf⟩ := hyes
      obtain ⟨hfnOff, hover⟩ := hoff (fnReset_off s fn.val).configReset
      exact ⟨fun hno => absurd ⟨hhere, hplane, hvf⟩ hno, fun _ _ _ => ⟨hfnOff, spGet_del .., hover⟩⟩
  · have hexec : exec .flrPf s = .next (if hostHere s && !s.power.dataPlane then flrPf s else s) := rfl
    refine Completes.of_if hexec (fun hno => ⟨fun _ => rfl, fun hhere hplane => absurd ?_ hno⟩) fun hyes => ?_
    · simp [hhere, hplane]
    · simp only [Bool.and_eq_true, Bool.not_eq_true'] at hyes
      refine ⟨fun hno => absurd hyes hno, fun _ hplane => ?_⟩
      obtain ⟨u, hu⟩ := flrPf_leaves hplane
      obtain ⟨v, hcores, htags, hproblems, hhost⟩ := planeClear_leaves u
      rw [hu]
      refine ⟨by rw [hhost]; rfl, rfl, htags, hproblems, fun n => ?_, by rw [hhost]; rfl⟩
      have hcore : getCore { planeClear u with power := { s.power with dataPlane := true } } n
          = spGet coreReset n (spMap coreReset (fun _ c => clearCore c) v.cores) := by rw [getCore, hcores]
      rw [hcore]
      exact clearedCores_idle v.cores n

end Sys2Proof.Machine

/-! PROOFS. The family of spec/12, the host interface: the order of outputs at HW4. -/

namespace Sys2Proof.Machine

set_option Elab.async false

/-- A running part that has a link, and holds an output of a rank behind every rank that the model gives. -/
def lateRunning : State := { runningPart with host := { runningPart.host with linkUp := true, unqueued := [(3, .msix 0)] } }

/-- A read through an open HW4 beyond the installed memory is aborted (R458). -/
theorem hw4Access_beyond {s : State} {offset : BitVec 38} {len : Nat} (hhere : hostHere s = true)
    (hd3 : spGet false 0 s.host.d3 = false) (hreset : spGet false 0 s.host.resetting = false)
    (hsize : offset.toNat < 2 ^ s.host.hw4Log) (hbeyond : installed s.variant < hw4Addr s offset.toNat + len) :
    exec (.hw4Access offset len none) s = .next (aerReport (emit s 0 .readAbort) 0 .completerAbort) := by
  have hbody : exec (.hw4Access offset len none) s = .next
      (if !hostHere s || spGet false 0 s.host.d3 || spGet false 0 s.host.resetting || 2 ^ s.host.hw4Log ≤ offset.toNat then s
        else hw4Read s (hw4Addr s offset.toNat) len) := rfl
  have hread : hw4Read s (hw4Addr s offset.toNat) len = aerReport (emit s 0 .readAbort) 0 .completerAbort := if_pos hbeyond
  rw [hbody, hhere, hd3, hreset, if_neg (by simpa using hsize), hread]

/-- An abort goes ahead of the output that waits. -/
theorem posted_abort_lateRunning :
    (posted (aerReport (emit lateRunning 0 .readAbort) 0 .completerAbort)).head? = some .readAbort := rfl

/-- Refutes O40: no state invariant bounds the ranks of the waiting outputs, and the answer to a read through HW4 goes ahead of
one whose rank is above 2 instead of behind everything put out before it. -/
theorem not_hostInterfaceEvents : ¬ Obligations.HostInterfaceEvents := by
  intro h
  obtain ⟨-, -, hread, -⟩ := h 0 0 0 0 0#38 (2 ^ 40) 0 [] false 0 0#16 lateRunning
  obtain ⟨t, ht, -, habort, -⟩ := hread
  have hbeyond : installed lateRunning.variant < hw4Addr lateRunning (0#38).toNat + 2 ^ 40 := by decide
  obtain ⟨l, hl⟩ := habort ⟨rfl, rfl, rfl, by decide⟩ hbeyond
  rw [hw4Access_beyond rfl rfl rfl (by decide) hbeyond] at ht
  obtain rfl := Host.Outcome.next.inj ht
  have hhead := posted_abort_lateRunning
  rw [hl] at hhead
  exact absurd (Option.some.inj hhead) (by decide)

end Sys2Proof.Machine

/-! PROOFS. The family of spec/03, the start of a program in its slot (R121, Table 3.8). -/

namespace Sys2Proof.Machine

set_option Elab.async false

/-! ### The core before the program's registers are set -/

/-- The two slots of a core, and whether it is halted, are as before. -/
structure SameSlots (c c' : Core) : Prop where
  slot : ∀ j, coreSlot c' j = coreSlot c j
  halted : c'.halted = c.halted

theorem SameSlots.trans {c d e : Core} (h : SameSlots c d) (k : SameSlots d e) : SameSlots c e :=
  ⟨fun j => (k.slot j).trans (h.slot j), k.halted.trans h.halted⟩

theorem sameSlots_clearSlot (c : Core) (i : SlotId) (same : Bool) : SameSlots c (clearSlot c i same) := by
  cases same <;> exact ⟨fun j => by cases j <;> rfl, rfl⟩

theorem sameSlots_lsWrite (c : Core) (a : Nat) (bs : List Byte) (bad : Bool) : SameSlots c (lsWrite c a bs bad) := by
  rw [lsWrite_only]
  exact ⟨fun j => by cases j <;> rfl, rfl⟩

/-- The segments are read, and the lookaside of the core takes them. -/
theorem loadLooks_eq (s : State) (n : Nat) (i : SlotId) (ctx : Nat) : ∃ k : Core → Lookaside,
    loadLooks s n i ctx = modCore (segTable ctx 16 0 s).2 n fun c => { c with look := k c } := by
  have key : ∀ f, f = loadLooks → ∃ k : Core → Lookaside,
      f s n i ctx = modCore (segTable ctx 16 0 s).2 n fun c => { c with look := k c } := by
    intro f hf
    delta loadLooks at hf
    subst hf
    beta_reduce
    generalize segTable ctx 16 0 s = r
    obtain ⟨gs, u⟩ := r
    exact ⟨_, rfl⟩
  exact key _ rfl

/-- The lookaside is loaded, and the other cores stay. -/
theorem loadLooks_cores (s : State) (n : Nat) (i : SlotId) (ctx : Nat) :
    SameSlots (getCore s n) (getCore (loadLooks s n i ctx) n)
      ∧ ∀ m, m ≠ n → getCore (loadLooks s n i ctx) m = getCore s m := by
  have htable : (segTable ctx 16 0 s).2.cores = s.cores := segTable_changes .cores (by decide)
  obtain ⟨k, hk⟩ := loadLooks_eq s n i ctx
  rw [hk]
  refine ⟨?_, fun m hm => ?_⟩
  · rw [getCore_modCore, getCore_congr htable]
    exact ⟨fun j => by cases j <;> rfl, rfl⟩
  · rw [getCore_modCore_ne _ _ hm, getCore_congr htable]

/-- The state whose slot the program starts in: its lookaside holds the context's segments (R414). -/
def looked (s : State) (n : Nat) (i : SlotId) (ctx : Nat) : State :=
  if (getSlot s n i).prevCtx == some ctx then s else loadLooks s n i ctx

theorem looked_cores (s : State) (n : Nat) (i : SlotId) (ctx : Nat) :
    SameSlots (getCore s n) (getCore (looked s n i ctx) n) ∧ ∀ m, m ≠ n → getCore (looked s n i ctx) m = getCore s m := by
  unfold looked
  split
  · exact ⟨⟨fun _ => rfl, rfl⟩, fun _ _ => rfl⟩
  · exact loadLooks_cores ..

/-! ### The core when the program starts -/

/-- The core with the command in the mailbox (Table 3.7). -/
def mailed (s : State) (n : Nat) (i : SlotId) (d : DCmd) : Core :=
  lsWrite (clearSlot (getCore (looked s n i d.ctx) n) i ((getSlot s n i).prevCtx == some d.ctx)) (mailbox i) d.bytes false

theorem mailed_sameSlots (s : State) (n : Nat) (i : SlotId) (d : DCmd) : SameSlots (getCore s n) (mailed s n i d) :=
  ((looked_cores s n i d.ctx).1.trans (sameSlots_clearSlot ..)).trans (sameSlots_lsWrite ..)

theorem mailed_ls (s : State) (n : Nat) (i : SlotId) (d : DCmd) {k : Nat} (hk : k < d.bytes.length) :
    memGet (mailed s n i d).ls (mailbox i + k) = d.bytes.getD k 0#8 := by
  rw [mailed, lsWrite_ls, memGet_write_inside _ _ _ _ hk, List.getD_eq_getElem _ _ hk]

/-- A started core: its slot has the registers of Table 3.8, and what the mailed core holds besides its slots is as it was. -/
structure Started (i : SlotId) (x : Slot) (c c' : Core) : Prop where
  slot : ∃ r, coreSlot c' i = { x with replay := r }
  ls : c'.ls = c.ls
  halted : c'.halted = c.halted

/-- The start of a program in a slot whose lookaside is loaded; `same`: the context is the one the slot last served. -/
def startIn (s : State) (same : Bool) (n : Nat) (i : SlotId) (d : DCmd) : State :=
  let s := modCore s n fun c => lsWrite (clearSlot c i same) (mailbox i) d.bytes false
  let s := modSlot s n i fun x => startSlot x n i d
  let s := setSlot s n i { getSlot s n i with replay := replayPoint (getCore s n) (getSlot s n i) (getSlot s n i).pc }
  if isExpress i then modSlot s n .bulk fun x => { x with held := none } else s

theorem startProgram_eq (s : State) (n : Nat) (i : SlotId) (d : DCmd) :
    startProgram s n i d = startIn (looked s n i d.ctx) ((getSlot s n i).prevCtx == some d.ctx) n i d := by
  unfold startProgram startIn looked
  rfl

theorem startProgram_core (s : State) (n : Nat) (i : SlotId) (d : DCmd) :
    Started i (startSlot (getSlot s n i) n i d) (mailed s n i d) (getCore (startProgram s n i d) n) := by
  have hslot := (mailed_sameSlots s n i d).slot i
  have hmailed : getCore (modCore (looked s n i d.ctx) n fun c =>
      lsWrite (clearSlot c i ((getSlot s n i).prevCtx == some d.ctx)) (mailbox i) d.bytes false) n = mailed s n i d :=
    getCore_modCore ..
  rw [startProgram_eq]
  unfold startIn
  dsimp only
  generalize (modCore (looked s n i d.ctx) n fun c =>
      lsWrite (clearSlot c i ((getSlot s n i).prevCtx == some d.ctx)) (mailbox i) d.bytes false) = u at hmailed
  have hu : getSlot u n i = getSlot s n i := by rw [getSlot, hmailed, hslot, getSlot]
  rw [← hmailed]
  cases i
  · simp only [isExpress, Bool.false_eq_true, if_false, getCore_setSlot, getSlot_modSlot, getCore_modSlot, hu]
    exact ⟨⟨_, rfl⟩, rfl, rfl⟩
  · simp only [isExpress, if_true, getCore_setSlot, getSlot_modSlot, getCore_modSlot, hu]
    exact ⟨⟨_, rfl⟩, rfl, rfl⟩

theorem startProgram_ne (s : State) (n : Nat) (i : SlotId) (d : DCmd) {m : Nat} (hm : m ≠ n) :
    getCore (startProgram s n i d) m = getCore s m := by
  rw [startProgram_eq, startIn]
  dsimp only
  split
  · rw [getCore_modSlot_ne _ _ _ hm, getCore_setSlot_ne _ _ _ hm, getCore_modSlot_ne _ _ _ hm, getCore_modCore_ne _ _ hm,
      (looked_cores s n i d.ctx).2 m hm]
  · rw [getCore_setSlot_ne _ _ _ hm, getCore_modSlot_ne _ _ _ hm, getCore_modCore_ne _ _ hm, (looked_cores s n i d.ctx).2 m hm]

/-! ### The registers of a started slot (Table 3.8) -/

/-- The g registers that a program starts with. -/
theorem getG_started (x : Slot) (n : Nat) (i : SlotId) (d : DCmd) (r : Replay) :
    let y : Slot := { startSlot x n i d with replay := r }
    getG y 1#5 = BitVec.ofNat 64 (mailbox i) ∧ getG y 2#5 = BitVec.ofNat 64 n
      ∧ getG y 3#5 = BitVec.ofNat 64 (d.q + 256 * d.express.toNat)
      ∧ ∀ q : Reg, q ≠ 1#5 → q ≠ 2#5 → q ≠ 3#5 → getG y q = 0#64 := by
  have hne {q : Reg} {k : Nat} (hk : k < 32) (hq : q ≠ BitVec.ofNat 5 k) : q.toNat ≠ k := fun h =>
    hq (BitVec.eq_of_toNat_eq (by rw [BitVec.toNat_ofNat, h, Nat.mod_eq_of_lt hk]))
  refine ⟨?_, ?_, ?_, fun q h1 h2 h3 => ?_⟩
  · exact spGet_set ..
  · exact (spGet_set_ne _ _ _ (by decide)).trans (spGet_set ..)
  · exact (spGet_set_ne _ _ _ (by decide)).trans ((spGet_set_ne _ _ _ (by decide)).trans (spGet_set ..))
  · unfold getG
    split
    · rfl
    · exact (spGet_set_ne _ _ _ (hne (by omega) h1)).trans ((spGet_set_ne _ _ _ (hne (by omega) h2)).trans
        (spGet_set_ne _ _ _ (hne (by omega) h3)))

theorem findCmd_id {s : State} {id : Nat} {d : DCmd} (h : findCmd s id = some d) : d.id = id :=
  beq_iff_eq.1 (List.find?_some (p := fun d : DCmd => d.id == id) h)

/-- The event, for a RUN that its core can start. -/
theorem runStart_completes {s : State} {cmd n : Nat} {d : DCmd} (hd : findCmd s cmd = some d) (hst : d.st = .assigned n)
    (hstart : startable s d = true) (hturn : startTurn s d = true) (hplane : planeUp s = true) :
    exec (.runStart cmd) s = .next (startProgram (tookTurn (modDCmd s cmd fun d => { d with st := .running }) d) n
      (if d.express then .express else .bulk) d) := by
  have hbody : exec (.runStart cmd) s = match findCmd s cmd with
      | some d =>
        (match d.st with
         | .assigned n =>
           whenDue (startable s d && startTurn s d && planeUp s) s
             (.next (startProgram (tookTurn (modDCmd s cmd fun d => { d with st := .running }) d) n
               (if d.express then .express else .bulk) d))
         | _ => .next s)
      | none => .next s := rfl
  rw [hbody, hd]
  dsimp only
  rw [hst]
  exact whenDue_pos (by rw [hstart, hturn, hplane]; rfl) ..

/-- Settles O39: the slot has the registers of Table 3.8, and the mailbox the command. -/
theorem programStarts : Obligations.ProgramStarts := by
  unfold Obligations.ProgramStarts
  intro cmd n s d hd hst hstart hturn hplane
  have hexec := runStart_completes hd hst hstart hturn hplane
  set u := tookTurn (modDCmd s cmd fun d => { d with st := .running }) d with hu
  have hcores : u.cores = s.cores :=
    Part.Kept.trans (p := .cores) (modDCmd_changes .cores (by decide)) (tookTurn_changes .cores (by decide))
  refine ⟨_, hexec, ?_⟩
  dsimp only
  generalize (if d.express then SlotId.express else SlotId.bulk) = i at hexec
  obtain ⟨⟨r, hslot⟩, hls, hhalted⟩ := startProgram_core u n i d
  have hbefore : getSlot u n i = getSlot s n i := by rw [getSlot, getCore_congr hcores, getSlot]
  have hx : getSlot (startProgram u n i d) n i = { startSlot (getSlot s n i) n i d with replay := r } := by rw [← hbefore]; exact hslot
  obtain ⟨h1, h2, h3, hrest⟩ := getG_started (getSlot s n i) n i d r
  rw [hx]
  refine ⟨rfl, rfl, findCmd_id hd, rfl, h1, h2, h3, hrest, fun _ => rfl, rfl, rfl, rfl, rfl, rfl, rfl, ?_, fun k hk => ?_, ?_,
    (execRunStart_changes.next hexec).platformKept, fun m hm => ?_⟩
  · simp only [startSlot, beq_iff_eq]
    rfl
  · rw [hls]
    exact mailed_ls u n i d hk
  · rw [hhalted, (mailed_sameSlots u n i d).halted, getCore_congr hcores]
  · rw [startProgram_ne u n i d hm, getCore_congr hcores]

end Sys2Proof.Machine

/-! PROOFS. The family of spec/12, queues: what a doorbell writes, which reads follow, and how many commands the Dispatcher takes of
those that the host returns. -/

namespace Sys2Proof.Machine

set_option Elab.async false

/-! ### Events that touch the host interface alone -/

/-- A change of the host interface alone. -/
theorem Changes.only_host {s t : State} (h : Changes [.host] s t) : t = { s with host := t.host } := by
  have hall : ∀ p ∈ [Part.variant, .pending, .regs, .cores, .tags, .seq, .reqs, .hints, .layers, .mus, .merge, .problems, .sm,
      .slices, .wayCmd, .hbm, .poison, .own, .xlate, .pend, .px, .epochs, .priOut, .remotes, .inject, .inbound, .fab, .time, .nv,
      .power, .test, .log, .trace, .linkRetry, .now, .free], p.Kept s t := fun p hp => h p fun hhost => by
    rw [List.mem_singleton.1 hhost] at hp
    exact absurd hp (by decide)
  simp only [List.forall_mem_cons, Part.Kept] at hall
  cases s
  cases t
  simp_all

/-! ### Reads of commands (R472) -/

/-- Reads have been sent: the queues and the commands taken are as before, and nothing else is put out. -/
structure ReadsSent (s t : State) : Prop where
  queues : t.host.queues = s.host.queues
  cmds : t.host.cmds = s.host.cmds
  nextCmd : t.host.nextCmd = s.host.nextCmd
  posts : ∀ p ∈ posted t, p ∈ posted s ∨ ∃ f a k, p = .read f a k plainAttr
  room : s.host.cmdReads.length ≤ 16 → t.host.cmdReads.length ≤ 16

theorem mem_posted_emit {s : State} {fn : Nat} {p q : Post} (h : q ∈ posted (emit s fn p)) : q = p ∨ q ∈ posted s := by
  unfold emit emitAt at h
  split at h
  · exact .inr h
  · obtain he | ⟨first, rest, hu, he⟩ := enqueue_cases s 2 p <;> rw [he] at h
    · simp only [posted, List.mem_append, List.mem_singleton] at h ⊢
      tauto
    · simp only [posted, hu, List.map_append, List.map_cons, List.mem_append, List.mem_cons] at h ⊢
      tauto

theorem emit_only (s : State) (fn : Nat) (p : Post) : ∃ out unqueued held,
    emit s fn p = { s with host := { s.host with out := out, unqueued := unqueued, heldPosts := held } } := by
  obtain ⟨out, unqueued, held, h, -⟩ := emitAt_adds 2 s fn p
  exact ⟨out, unqueued, held, h⟩

theorem ReadsSent.refl (s : State) : ReadsSent s s := ⟨rfl, rfl, rfl, fun _ h => .inl h, id⟩

theorem ReadsSent.trans {s t u : State} (h : ReadsSent s t) (k : ReadsSent t u) : ReadsSent s u :=
  ⟨k.queues.trans h.queues, k.cmds.trans h.cmds, k.nextCmd.trans h.nextCmd,
    fun p hp => (k.posts p hp).elim (h.posts p) .inr, fun hr => k.room (h.room hr)⟩

theorem sendRead_sent {s : State} (k : Nat) (h : s.host.cmdReads.length < 16) : ReadsSent s (sendRead s k) := by
  obtain ⟨r, f, a, n, hsend⟩ : ∃ r f a n, sendRead s k
      = emit { s with host := { s.host with cmdReads := s.host.cmdReads ++ [r] } } f (.read f a n plainAttr) := ⟨_, _, _, _, rfl⟩
  obtain ⟨out, unqueued, held, hout⟩ :=
    emit_only { s with host := { s.host with cmdReads := s.host.cmdReads ++ [r] } } f (.read f a n plainAttr)
  refine ⟨?_, ?_, ?_, fun p hp => ?_, fun _ => ?_⟩
  · rw [hsend, hout]
  · rw [hsend, hout]
  · rw [hsend, hout]
  · rw [hsend] at hp
    obtain rfl | hp := mem_posted_emit hp
    · exact .inr ⟨f, a, n, rfl⟩
    · exact .inl hp
  · rw [hsend, hout]
    show (s.host.cmdReads ++ [r]).length ≤ 16
    rw [List.length_append, List.length_singleton]
    omega

theorem serveReads_sent (s : State) : ReadsSent s (serveReads s) := by
  have hsome (fuel : Nat) (u : State) : ReadsSent u (serveSome fuel u) := by
    induction fuel generalizing u with
    | zero => exact .refl u
    | succ fuel ih =>
      rw [serveSome]
      split
      · split
        · next k _ h => exact (sendRead_sent k h).trans (ih _)
        · exact .refl u
      · exact .refl u
  exact hsome 16 s

theorem getQueue_congr {s t : State} (h : t.host.queues = s.host.queues) (ctx q : Nat) : getQueue t ctx q = getQueue s ctx q := by
  rw [getQueue, h, getQueue]

theorem ReadsSent.getQueue {s t : State} (h : ReadsSent s t) (ctx q : Nat) : getQueue t ctx q = getQueue s ctx q :=
  getQueue_congr h.queues ctx q

/-! ### Doorbells (R469 to R471) -/

/-- A queue with its first error. -/
def failedQueue (x : Queue) (code : Nat) : Queue := if x.err = 0 then { x with err := code } else x

/-- What a doorbell does to its queue, before the reads that it lets go. -/
structure Rings (ctx q : Nat) (y : Queue) (s t : State) : Prop where
  queue : getQueue t ctx q = y
  cmds : t.host.cmds = s.host.cmds
  posts : posted t = posted s
  reads : t.host.cmdReads = s.host.cmdReads

theorem queueError_rings (s : State) (ctx q code : Nat) :
    Rings ctx q (failedQueue (getQueue s ctx q) code) s (queueError s ctx q code) := by
  unfold queueError failedQueue
  dsimp only
  split
  · exact ⟨getQueue_setQueue .., rfl, rfl, rfl⟩
  · exact ⟨rfl, rfl, rfl, rfl⟩

theorem tailWritten_rings {s : State} {ctx q v : Nat} (h : qEnabled s ctx q = true) :
    Rings ctx q (if qSize s ctx q ≤ v then failedQueue (getQueue s ctx q) 1
      else { getQueue s ctx q with sqTail := v, bells := (getQueue s ctx q).bells ++ [(v, nowOp s)] }) s (tailWritten s ctx q v) := by
  have hon : ¬((!qEnabled s ctx q) = true) := by rw [h]; nofun
  rw [tailWritten, if_neg hon]
  split
  · exact queueError_rings ..
  · dsimp only
    split
    · exact ⟨getQueue_setQueue .., rfl, rfl, rfl⟩
    · exact ⟨getQueue_setQueue .., rfl, rfl, rfl⟩

theorem headWritten_rings {s : State} {ctx q v : Nat} (h : qEnabled s ctx q = true) :
    Rings ctx q (if qSize s ctx q ≤ v ∨ qWritten s ctx q < (v + qSize s ctx q - (getQueue s ctx q).cqHead) % qSize s ctx q
      then failedQueue (getQueue s ctx q) 2 else { getQueue s ctx q with cqHead := v }) s (headWritten s ctx q v) := by
  have hon : ¬((!qEnabled s ctx q) = true) := by rw [h]; nofun
  rw [headWritten, if_neg hon]
  dsimp only
  simp only [Bool.or_eq_true, decide_eq_true_eq]
  split
  · exact queueError_rings ..
  · exact ⟨getQueue_setQueue .., rfl, rfl, rfl⟩

theorem tailWritten_off {s : State} {ctx q v : Nat} (h : qEnabled s ctx q = false) : tailWritten s ctx q v = s :=
  if_pos (by rw [h]; rfl)

theorem headWritten_off {s : State} {ctx q v : Nat} (h : qEnabled s ctx q = false) : headWritten s ctx q v = s :=
  if_pos (by rw [h]; rfl)

/-- A doorbell that rings the queue by `act`, which leaves a disabled queue as it is. -/
theorem bell_outcome {s : State} {fn ctx skew q : Nat} {data : List Byte} {act : Nat → State} {y : Queue}
    (hchanges : ∀ v, Changes [.host] s (act v)) (hoff : ∀ v, qEnabled s ctx q = false → act v = s)
    (hon : qEnabled s ctx q = true → Rings ctx q y s (act (bellValue data))) :
    let t := ringBell s fn ctx skew data fun v => serveReads (act v)
    let good : Prop := skew = 0 ∧ (data.length = 4 ∨ data.length = 8)
    PlatformKept s t ∧ t.cores = s.cores ∧ t.tags = s.tags ∧ t.hbm = s.hbm
      ∧ (pageOf s fn ctx = .gone → t = s)
      ∧ (pageOf s fn ctx = .denied ∨ ¬good → t.host = s.host)
      ∧ (s.host.cmdReads.length ≤ 16 → t.host.cmdReads.length ≤ 16)
      ∧ (pageOf s fn ctx = .ok → good → qEnabled s ctx q = false → getQueue t ctx q = getQueue s ctx q)
      ∧ (pageOf s fn ctx = .ok → good → qEnabled s ctx q = true →
          getQueue t ctx q = y ∧ t = { s with host := t.host } ∧ t.host.cmds = s.host.cmds
            ∧ ∀ p ∈ posted t, p ∈ posted s ∨ ∃ f a k, p = .read f a k plainAttr) := by
  intro t good
  have hgood : bellGood skew data = true ↔ good := by
    simp only [bellGood, good, Bool.and_eq_true, Bool.or_eq_true, decide_eq_true_eq]
  have hrung (v : Nat) : Changes [.host] s (serveReads (act v)) := .comp (hchanges v) serveReads_changes
  have hall : Changes [.host, .log, .regs, .trace] s t := ringBell_changes fun v => .of (hrung v)
  have hreads : act (bellValue data) = s ∨ (act (bellValue data)).host.cmdReads = s.host.cmdReads := by
    cases h : qEnabled s ctx q with
    | false => exact .inl (hoff _ h)
    | true => exact .inr (hon h).reads
  refine ⟨hall.platformKept, hall .cores (by decide), hall .tags (by decide), hall .hbm (by decide), ?_⟩
  have ht : t = match pageOf s fn ctx with
      | .gone => s
      | .denied => denied s fn ctx
      | .ok => if bellGood skew data then serveReads (act (bellValue data)) else post s .doorbellBad 7 fn (some ctx) 0 0 := rfl
  have hdenied : (denied s fn ctx).host = s.host := denied_changes .host (by decide)
  have hbad : (post s .doorbellBad 7 fn (some ctx) 0 0).host = s.host := post_changes .host (by decide)
  cases hpage : pageOf s fn ctx with
  | gone =>
    rw [ht, hpage]
    exact ⟨fun _ => rfl, fun _ => rfl, id, nofun, nofun⟩
  | denied =>
    rw [ht, hpage]
    exact ⟨nofun, fun _ => hdenied, fun h => by rw [hdenied]; exact h, nofun, nofun⟩
  | ok =>
    rw [ht, hpage]
    dsimp only
    by_cases hg : good
    · rw [if_pos (hgood.2 hg)]
      have hsent := serveReads_sent (act (bellValue data))
      refine ⟨nofun, fun h => (h.resolve_left nofun hg).elim, fun h => hsent.room ?_, fun _ _ hq => ?_, fun _ _ hq => ?_⟩
      · obtain heq | heq := hreads <;> rw [heq] <;> exact h
      · rw [hsent.getQueue, hoff _ hq]
      · obtain ⟨hqueue, hcmds, hposts, -⟩ := hon hq
        refine ⟨(hsent.getQueue ctx q).trans hqueue, (hrung _).only_host, hsent.cmds.trans hcmds, fun p hp => ?_⟩
        rw [← hposts]
        exact hsent.posts p hp
    · rw [if_neg fun h => hg (hgood.1 h)]
      exact ⟨nofun, fun _ => hbad, fun h => by rw [hbad]; exact h, fun _ h => absurd h hg, fun _ h => absurd h hg⟩

/-! ### The commands that a read returns (R468, R470) -/

/-- The queues keep their take indices and the counts of what they took, and no number of a taken command is used up. -/
structure SameHeads (s t : State) : Prop where
  head : ∀ ctx q, (getQueue t ctx q).sqHead = (getQueue s ctx q).sqHead
  taken : ∀ ctx q, (getQueue t ctx q).taken = (getQueue s ctx q).taken
  nextCmd : t.host.nextCmd = s.host.nextCmd

theorem SameHeads.of_eq {s t : State} (hq : t.host.queues = s.host.queues) (hn : t.host.nextCmd = s.host.nextCmd) : SameHeads s t :=
  ⟨fun ctx q => by rw [getQueue_congr hq], fun ctx q => by rw [getQueue_congr hq], hn⟩

theorem SameHeads.refl (s : State) : SameHeads s s := .of_eq rfl rfl

theorem SameHeads.trans {s t u : State} (h : SameHeads s t) (k : SameHeads t u) : SameHeads s u :=
  ⟨fun ctx q => (k.head ctx q).trans (h.head ctx q), fun ctx q => (k.taken ctx q).trans (h.taken ctx q),
    k.nextCmd.trans h.nextCmd⟩

theorem sameHeads_emitAt (rank : Nat) (s : State) (fn : Nat) (p : Post) : SameHeads s (emitAt rank s fn p) := by
  obtain ⟨_, _, _, h, -⟩ := emitAt_adds rank s fn p
  rw [h]
  exact .of_eq rfl rfl

theorem sameHeads_sendVector (s : State) (v : Nat) : SameHeads s (sendVector s v) := by
  obtain ⟨m, e⟩ | e := sendVector_cases s v <;> rw [e]
  · exact .of_eq rfl rfl
  · exact sameHeads_emitAt ..

theorem sameHeads_setQueue {s t : State} {ctx q : Nat} {x : Queue} (h : SameHeads s t)
    (hhead : x.sqHead = (getQueue s ctx q).sqHead) (htaken : x.taken = (getQueue s ctx q).taken) :
    SameHeads s (setQueue t ctx q x) := by
  have hkey {c p : Nat} (hk : qKey c p = qKey ctx q) (u : State) : getQueue u c p = getQueue u ctx q := by
    unfold getQueue
    rw [hk]
  refine ⟨fun c p => ?_, fun c p => ?_, h.nextCmd⟩
  · by_cases hk : qKey c p = qKey ctx q
    · rw [hkey hk, hkey hk, getQueue_setQueue, hhead]
    · rw [getQueue_setQueue_ne _ _ hk, h.head]
  · by_cases hk : qKey c p = qKey ctx q
    · rw [hkey hk, hkey hk, getQueue_setQueue, htaken]
    · rw [getQueue_setQueue_ne _ _ hk, h.taken]

theorem sameHeads_completeCmd (s : State) (d : DCmd) (code detail detail2 : Nat) :
    SameHeads s (completeCmd s d code detail detail2) := by
  have hshape : ∃ (x : Queue) (bytes : List Byte) (v : Nat) (due : Bool), completeCmd s d code detail detail2
        = (if due then sendVector (dropCmd (entryOut s d bytes) d x) v else dropCmd (entryOut s d bytes) d x)
      ∧ x.sqHead = (getQueue s d.ctx d.q).sqHead ∧ x.taken = (getQueue s d.ctx d.q).taken :=
    ⟨_, _, _, _, rfl, rfl, rfl⟩
  obtain ⟨x, bytes, v, due, h, hhead, htaken⟩ := hshape
  have hout : SameHeads s (entryOut s d bytes) := by
    have hmeasure (u : State) : (measureRun u d).host = u.host := measureRun_changes .host (by decide)
    exact (sameHeads_emitAt ..).trans (.of_eq (congrArg HostSt.queues (hmeasure _)) (congrArg HostSt.nextCmd (hmeasure _)))
  have hdrop : SameHeads s (dropCmd (entryOut s d bytes) d x) :=
    (sameHeads_setQueue hout hhead htaken).trans (.of_eq rfl rfl)
  rw [h]
  cases due
  · exact hdrop
  · exact hdrop.trans (sameHeads_sendVector ..)

theorem sameHeads_completeBad (first : Nat) (s : State) : SameHeads s (completeBad first s) := by
  unfold completeBad
  refine List.foldlRecOn _ _ (.refl s) fun t h d _ => ?_
  split
  · exact h.trans (sameHeads_completeCmd ..)
  · exact h

theorem sameHeads_takenRecord (s : State) (ctx q : Nat) : SameHeads s (takenRecord s ctx q) := by
  unfold takenRecord
  dsimp only
  split
  · exact .refl s
  · exact sameHeads_emitAt ..

theorem sameHeads_serviceDone (s : State) (ctx q : Nat) : SameHeads s (serviceDone s ctx q) := by
  unfold serviceDone
  dsimp only
  split
  · exact .of_eq rfl rfl
  · exact .refl s

theorem ReadsSent.sameHeads {s t : State} (h : ReadsSent s t) : SameHeads s t := .of_eq h.queues h.nextCmd

/-- What taking one command does to the books of its queue. -/
theorem takeOne_books (s : State) (ctx q : Nat) (bs : List Byte) :
    (getQueue (takeOne s ctx q bs) ctx q).sqHead = ((getQueue s ctx q).sqHead + 1) % qSize s ctx q
      ∧ (getQueue (takeOne s ctx q bs) ctx q).taken = ((getQueue s ctx q).taken + 1) % 2 ^ 32
      ∧ (takeOne s ctx q bs).host.nextCmd = s.host.nextCmd + 1 := by
  obtain ⟨x, l, c, hhead, htaken, hq, hn⟩ : ∃ x l c, x.sqHead = ((getQueue s ctx q).sqHead + 1) % qSize s ctx q
      ∧ x.taken = ((getQueue s ctx q).taken + 1) % 2 ^ 32
      ∧ (takeOne s ctx q bs).host.queues
        = (setQueue { s with ctrl := c, host := { s.host with cmds := l } } ctx q x).host.queues
      ∧ (takeOne s ctx q bs).host.nextCmd = s.host.nextCmd + 1 := by
    unfold takeOne
    dsimp only
    split <;> exact ⟨_, s.host.cmds, s.ctrl, rfl, rfl, rfl, rfl⟩
  refine ⟨?_, ?_, hn⟩ <;> rw [getQueue_congr hq, getQueue_setQueue] <;> assumption

theorem takeAll_books {ctx q : Nat} (ds : List (List Byte)) (s : State) (hds : ds ≠ []) :
    (getQueue (takeAll ctx q ds s) ctx q).sqHead = ((getQueue s ctx q).sqHead + ds.length) % qSize s ctx q
      ∧ (getQueue (takeAll ctx q ds s) ctx q).taken = ((getQueue s ctx q).taken + ds.length) % 2 ^ 32
      ∧ (takeAll ctx q ds s).host.nextCmd = s.host.nextCmd + ds.length := by
  induction ds generalizing s with
  | nil => exact absurd rfl hds
  | cons b ds ih =>
    obtain ⟨hhead, htaken, hnext⟩ := takeOne_books s ctx q b
    have hsize : qSize (takeOne s ctx q b) ctx q = qSize s ctx q := by
      have hregs : (takeOne s ctx q b).regs = s.regs := takeOne_changes .regs (by decide)
      simp only [qSize, regFld, regVal, hregs]
    rw [takeAll]
    cases ds with
    | nil => exact ⟨hhead, htaken, hnext⟩
    | cons c ds =>
      obtain ⟨ihead, itaken, inext⟩ := ih (takeOne s ctx q b) (List.cons_ne_nil _ _)
      rw [ihead, itaken, inext, hhead, htaken, hnext, hsize, Nat.mod_add_mod, Nat.mod_add_mod]
      simp only [List.length_cons]
      exact ⟨congrArg (· % _) (by omega), congrArg (· % _) (by omega), by omega⟩

theorem le_length_chunks {k m fuel : Nat} {xs : List Byte} (hk : 0 < k) (hm : m ≤ fuel) (h : k * m ≤ xs.length) :
    m ≤ (chunks k fuel xs).length := by
  induction fuel generalizing m xs with
  | zero => omega
  | succ fuel ih =>
    cases m with
    | zero => exact Nat.zero_le _
    | succ m =>
      rw [Nat.mul_succ] at h
      have hne : xs.isEmpty ≠ true := fun he => by
        rw [List.isEmpty_iff.1 he, List.length_nil] at h
        omega
      rw [chunks, if_neg hne, List.length_cons]
      refine Nat.succ_le_succ (ih (by omega) ?_)
      rw [List.length_drop]
      omega

/-- The Dispatcher takes `n` of the commands that the host returns. -/
theorem commandsRead_books {s : State} {r : CmdRead} {bs : List Byte} {ctx q n : Nat} (hctx : r.key / 8 = ctx) (hq : r.key % 8 = q)
    (hn : n = min (min (takable s ctx q) r.count) (bs.length / 64)) (hpos : n ≠ 0) :
    (getQueue (commandsRead s r bs) ctx q).sqHead = ((getQueue s ctx q).sqHead + n) % qSize s ctx q
      ∧ (getQueue (commandsRead s r bs) ctx q).taken = ((getQueue s ctx q).taken + n) % 2 ^ 32
      ∧ (commandsRead s r bs).host.nextCmd = s.host.nextCmd + n := by
  have hlen : ((chunks 64 (n + 1) bs).take n).length = n := by
    rw [List.length_take, Nat.min_eq_left]
    exact le_length_chunks (by omega) (by omega) (by omega)
  have hsome : (chunks 64 (n + 1) bs).take n ≠ [] := fun h => hpos (by rw [← hlen, h]; rfl)
  have hread : commandsRead s r bs = serviceDone (completeBad s.host.nextCmd
      (takenRecord (takeAll ctx q ((chunks 64 (n + 1) bs).take n) s) ctx q)) ctx q := by
    unfold commandsRead
    dsimp only
    rw [hctx, hq, ← hn, if_neg hpos]
  have hbooks := takeAll_books (ctx := ctx) (q := q) _ s hsome
  rw [hlen] at hbooks
  obtain ⟨hhead, htaken, hnext⟩ := hbooks
  have hsame := ((sameHeads_takenRecord (takeAll ctx q ((chunks 64 (n + 1) bs).take n) s) ctx q).trans
    (sameHeads_completeBad s.host.nextCmd _)).trans (sameHeads_serviceDone _ ctx q)
  rw [hread]
  exact ⟨(hsame.head ctx q).trans hhead, (hsame.taken ctx q).trans htaken, hsame.nextCmd.trans hnext⟩

/-- A failed read leaves its queue, which had no error, in ERROR (R470). -/
theorem readFails_leaves {s : State} {ctx q : Nat} (code : LogCode) (h : (getQueue s ctx q).err = 0) :
    (getQueue (readFails s ctx q code) ctx q).err = 3 ∧ (readFails s ctx q code).host.cmds = s.host.cmds := by
  have hpost : (post s code 7 (fnOf s ctx) (some ctx) q (takeAddr s ctx q)).host = s.host := post_changes .host (by decide)
  have herr := queueError_rings (post s code 7 (fnOf s ctx) (some ctx) q (takeAddr s ctx q)) ctx q 3
  have hdone (u : State) : (serviceDone u ctx q).host.queues = u.host.queues ∧ (serviceDone u ctx q).host.cmds = u.host.cmds := by
    unfold serviceDone
    dsimp only
    split <;> exact ⟨rfl, rfl⟩
  have hqueue := getQueue_congr (s := s) (congrArg HostSt.queues hpost) ctx q
  unfold readFails
  constructor
  · rw [getQueue_congr (hdone _).1, herr.queue, hqueue, failedQueue, if_pos h]
  · rw [(hdone _).2, herr.cmds, hpost]

theorem qEnabled_after_post {s t : State} {ctx q : Nat} (h : SameRegsBut logCounts s t) :
    qEnabled t ctx q = qEnabled s ctx q :=
  h.regBit 0 (by simp only [logCounts, regAddr, regInfo, blkBase, List.mem_cons, List.not_mem_nil, or_false]; omega)

/-- The read of a queue that `readOf` finds is one of that queue. -/
theorem key_of_readOf {s : State} {ctx q : Nat} {r : CmdRead} (h : readOf s ctx q = some r) (hq : q < 8) :
    r.key / 8 = ctx ∧ r.key % 8 = q := by
  have hkey : (r.key == qKey ctx q) = true := List.find?_some (p := fun r : CmdRead => r.key == qKey ctx q) h
  rw [beq_iff_eq.1 hkey, qKey]
  omega

/-- A failed read of a live queue, however the host reported it. -/
theorem readReturns_failed {s : State} {r : CmdRead} {reply : HostReply} {ctx q : Nat} (hctx : r.key / 8 = ctx)
    (hq : r.key % 8 = q) (hbad : ∀ bs, reply ≠ .data bs false) (hlive : readLive s r = true) :
    (getQueue (readReturns s r reply) ctx q).err = 3 ∧ (readReturns s r reply).host.cmds = s.host.cmds := by
  have herr {u : State} (h : readLive u r = true) : (getQueue u ctx q).err = 0 := by
    simp only [readLive, Bool.and_eq_true, beq_iff_eq, hctx, hq] at h
    exact h.1.1.2
  have hfails {u : State} (h : readLive u r = true) (hcmds : u.host.cmds = s.host.cmds) :
      (getQueue (if readLive u r = true then readFails u ctx q .hostAbort else u) ctx q).err = 3
        ∧ (if readLive u r = true then readFails u ctx q .hostAbort else u).host.cmds = s.host.cmds := by
    rw [if_pos h]
    obtain ⟨h1, h2⟩ := readFails_leaves .hostAbort (herr h)
    exact ⟨h1, h2.trans hcmds⟩
  match reply with
  | .data bs false => exact absurd rfl (hbad bs)
  | .data bs true =>
    obtain ⟨u, hu, hsame⟩ : ∃ u, u = aerReport s (fnOf s ctx) .poisonedTlp ∧ u.host.queues = s.host.queues
        ∧ u.host.cmds = s.host.cmds ∧ SameRegsBut logCounts s u := by
      refine ⟨_, rfl, ?_⟩
      unfold aerReport
      dsimp only
      generalize getCfg s (fnOf s ctx) = c
      have hpost (v : State) (code : LogCode) : (post v code 7 (fnOf s ctx) none 0 0).host = v.host := post_changes .host (by decide)
      rw [hpost]
      split
      · exact ⟨rfl, rfl, (SameRegsBut.of_eq rfl).trans sameRegs_post⟩
      · obtain ⟨o, n, l, hout⟩ := emit_only (setCfg s (fnOf s ctx) { c with aerStatus := c.aerStatus ||| (1#18 <<< aerBit .poisonedTlp) })
          (fnOf s ctx) (.errMsg (fnOf s ctx) (aerSevNow c .poisonedTlp))
        rw [hout]
        exact ⟨rfl, rfl, (SameRegsBut.of_eq rfl).trans sameRegs_post⟩
    obtain ⟨hqueues, hcmds, hregs⟩ := hsame
    have hlive' : readLive u r = true := by
      simp only [readLive, getQueue_congr hqueues, hctx, hq, qEnabled_after_post hregs]
      simpa only [readLive, hctx, hq] using hlive
    have h := hfails hlive' hcmds
    rw [hu] at h
    simpa only [readReturns, hctx, hq] using h
  | .unsupported => simpa only [readReturns, hctx, hq] using hfails hlive rfl
  | .aborted => simpa only [readReturns, hctx, hq] using hfails hlive rfl

/-- The host answers a read of commands that the queue still waits for. -/
theorem commandReadCompletion_outcome {s : State} {ctx : Fin 64} {q : Fin 8} {reply : HostReply} {r : CmdRead}
    (hr : readOf s ctx.val q.val = some r) (hlive : readLive s r = true) :
    Completes (.commandReadCompletion ctx q reply) s fun t =>
      PlatformKept s t ∧ t.cores = s.cores ∧ t.hbm = s.hbm
        ∧ (∀ bs, reply = .data bs false → 64 ≤ bs.length →
            let k := min (min (takable s ctx.val q.val) r.count) (bs.length / 64)
            k ≠ 0 → (getQueue t ctx.val q.val).sqHead = ((getQueue s ctx.val q.val).sqHead + k) % qSize s ctx.val q.val
              ∧ (getQueue t ctx.val q.val).taken = ((getQueue s ctx.val q.val).taken + k) % 2 ^ 32
              ∧ t.host.nextCmd = s.host.nextCmd + k)
        ∧ ((∀ bs, reply ≠ .data bs false) → (getQueue t ctx.val q.val).err = 3 ∧ t.host.cmds = s.host.cmds) := by
  obtain ⟨hctx, hq⟩ := key_of_readOf hr q.isLt
  have hexec : exec (.commandReadCompletion ctx q reply) s = .next (serveReads (readReturns (endRead s r) r reply)) := by
    have hbody : exec (.commandReadCompletion ctx q reply) s = match readOf s ctx.val q.val with
        | some r => .next (serveReads (readReturns (endRead s r) r reply))
        | none => .next s := rfl
    rw [hbody, hr]
  have hall := execCommandReadCompletion_changes.next hexec
  have hsent := serveReads_sent (readReturns (endRead s r) r reply)
  refine ⟨_, hexec, hall.platformKept, hall .cores (by decide), hall .hbm (by decide), fun bs hbs _ => ?_, fun hbad => ?_⟩
  · dsimp only
    intro hpos
    have hreturns : readReturns (endRead s r) r reply = commandsRead (endRead s r) r bs := by
      rw [hbs]
      exact if_pos hlive
    have htakable : takable (endRead s r) ctx.val q.val = takable s ctx.val q.val := rfl
    obtain ⟨hhead, htaken, hnext⟩ := commandsRead_books (s := endRead s r) (bs := bs) hctx hq rfl (by rw [htakable]; exact hpos)
    have hsame := hsent.sameHeads
    rw [hreturns] at hsame ⊢
    exact ⟨(hsame.head ..).trans hhead, (hsame.taken ..).trans htaken, hsame.nextCmd.trans hnext⟩
  · obtain ⟨herr, hcmds⟩ := readReturns_failed (s := endRead s r) hctx hq hbad hlive
    exact ⟨(congrArg Queue.err (hsent.getQueue ..)).trans herr, hsent.cmds.trans hcmds⟩

/-- Settles O37: a doorbell writes its queue alone and lets reads go; a read that returns advances the take index by the commands
taken, and one that fails puts the queue in ERROR. -/
theorem queueDoorbellsAndReads : Obligations.QueueDoorbellsAndReads := by
  unfold Obligations.QueueDoorbellsAndReads
  intro fn ctx q skew data reply s
  refine ⟨?_, ?_, fun r hr hlive => commandReadCompletion_outcome hr hlive⟩
  · exact ⟨_, rfl, bell_outcome (act := fun v => tailWritten s ctx.val q.val v) (fun v => tailWritten_changes)
      (fun v => tailWritten_off) tailWritten_rings⟩
  · exact ⟨_, rfl, bell_outcome (act := fun v => headWritten s ctx.val q.val v) (fun v => headWritten_changes)
      (fun v => headWritten_off) headWritten_rings⟩

end Sys2Proof.Machine

/-! PROOFS. The family of spec/12, commands of the Dispatcher: a register whose address another one has. -/

namespace Sys2Proof.Machine

set_option Elab.async false

/-! ### A full log (R626) -/

theorem oldestLow_replicate {r : LogRec} (hsev : 1 < r.sev) (n : Nat) : oldestLow (List.replicate n r) = none := by
  induction n with
  | zero => rfl
  | succ n ih => rw [List.replicate_succ, oldestLow, if_neg (by omega), ih]; rfl

/-- A record that finds no room in the log, nor in its holding register, is dropped. -/
theorem logEnter_full {on : Bool} {l : LogSt} {r : LogRec} (hcentral : 4096 ≤ l.central.length)
    (hlow : oldestLow l.central = none) (hholding : 64 ≤ l.holding.length) (hsev : 2 < r.sev) :
    logEnter on l r = ({ l with lostHi := true }, true) := by
  rw [logEnter, if_neg (by omega), hlow]
  dsimp only
  rw [if_neg (by omega), if_neg (by omega)]

/-- A dropped record is counted in LOG_LOST. -/
theorem post_full {s : State} {code : LogCode} (hcentral : 4096 ≤ s.log.central.length) (hlow : oldestLow s.log.central = none)
    (hholding : 64 ≤ s.log.holding.length) (hsev : logSev code = 3) (unitKind unitIdx : Nat) (ctx : Option Nat) (arg addr : Nat) :
    regVal (post s code unitKind unitIdx ctx arg addr) .logLost 0 0 0 = regVal s .logLost 0 0 0 + 1#64 := by
  have htrace (u : State) (unit data : Nat) : (traceEv u 3 unit none data).regs = u.regs := traceEv_changes .regs (by decide)
  unfold post postRec
  rw [hsev]
  dsimp only
  rw [logEnter_full (by exact hcentral) (by exact hlow) (by exact hholding) (Nat.lt_succ_self 2)]
  exact (regVal_congr (htrace ..) ..).trans (regVal_bump ..)

/-! ### The entry of a completed command (R465) -/

/-- The writes that completing a command puts out go to the function of its context. -/
theorem completeCmd_writes {s : State} {d : DCmd} {code detail detail2 f a : Nat} {bs : List Byte} {ep : Bool} {attr : TlpAttr}
    (h : Post.write f a bs ep attr ∈ outputs (completeCmd s d code detail detail2)) :
    f = fnOf s d.ctx ∨ Post.write f a bs ep attr ∈ outputs s := by
  obtain ⟨_, _, _, _, x, v, hcase⟩ := completeCmd_cases s d code detail detail2
  have hentry {l : List Byte} (h : Post.write f a bs ep attr ∈ outputs (dropCmd (entryOut s d l) d x)) :
      f = fnOf s d.ctx ∨ Post.write f a bs ep attr ∈ outputs s := by
    have hmeasure (u : State) : outputs (measureRun u d) = outputs u := by
      unfold outputs posted
      rw [measureRun_host]
    change _ ∈ outputs (entryOut s d l) at h
    rw [entryOut, hmeasure] at h
    obtain he | hs := (mem_outputs_emitAt ..).1 h
    · exact .inl (Post.write.inj he).1
    · exact .inr hs
  obtain hcase | hcase := hcase <;> rw [hcase] at h
  · exact hentry h
  · obtain ⟨m, e⟩ | e := sendVector_cases (dropCmd (entryOut s d _) d x) v <;> rw [e] at h
    · exact hentry h
    · exact hentry (((mem_outputs_emitAt ..).1 h).resolve_left nofun)

/-! ### A command of a context that no part has -/

/-- A LOAD of 64 bytes whose context's binding would lie at the address of LOG_LOST. -/
def strayLoad : DCmd :=
  { id := 0, ctx := 57348, q := 0, express := false, order := false, irq := false, bell := 0, cmdid := 0, op := 2,
    bytes := List.replicate 24 0#8 ++ 64#8 :: List.replicate 39 0#8, st := .running, tag := some 4032, moved := 0, wait := none,
    timeUp := false }

def severeRec : LogRec :=
  { code := 0, sev := 3, plane := 0, ctx := none, seq := 0, time := 0, unit := 0, count := 1, arg := 0, addr := 0, toHost := false,
    read := false }

/-- A log with no room. -/
@[irreducible] def fullLog : LogSt :=
  { runningPart.log with central := List.replicate 4096 severeRec, holding := List.replicate 64 severeRec }

/-- A running part with that command, an entry that maps its first 64 KB, a full log, and one record that the log has dropped. -/
def strayRunning : State :=
  { runningPart with
      regs := [(regAddr .logLost 0 0 0, some 1#64)]
      hbm := [(29362176, 0x0F#8), (29362184, 1#8)]
      host := { runningPart.host with cmds := [strayLoad] }
      log := fullLog }

/-- The command as its transfer goes on. -/
def strayGoing : DCmd := { strayLoad with tag := some 4032, st := .running, wait := none }

/-- With the cache off, reads of lines that pass their check change nothing. -/
theorem memFetch_state {s : State} {a : MemWho} (pa e : Nat) (hoff : cacheEnabled s = false) (fuel l : Nat) (r : MemRead)
    (hpass : ∀ k, l ≤ k → k < l + fuel → ownCheck s a.ctx (128 * k) = .pass) : (memFetch a pa e fuel l r s).2 = s := by
  induction fuel generalizing l r with
  | zero => rfl
  | succ fuel ih =>
    have hline : (memLine s a l).2.2 = s := by
      rw [memLine, hpass l (by omega) (by omega)]
      dsimp only
      rw [cacheRead, hoff]
      rfl
    rw [memFetch]
    dsimp only
    rw [hline]
    exact ih _ _ fun k hl hk => hpass k (by omega) (by omega)

theorem segTable_state {s : State} {ctx first bound : Nat} (hoff : cacheEnabled s = false)
    (hpass : ∀ k, first ≤ k → k < bound → ownCheck s none (128 * k) = .pass) (n i : Nat)
    (hfirst : 128 * first ≤ segAddr s ctx i) (hbound : segAddr s ctx (i + n) + 127 ≤ 128 * bound) :
    (segTable ctx n i s).2 = s := by
  induction n generalizing i with
  | zero => rfl
  | succ n ih =>
    have hnext : segAddr s ctx (i + 1) = segAddr s ctx i + 32 := by
      simp only [segAddr]
      omega
    have hlast : segAddr s ctx (i + (n + 1)) = segAddr s ctx i + 32 * (n + 1) := by
      simp only [segAddr]
      omega
    have hread : (segRead s ctx i).2 = s := by
      refine memFetch_state (a := privAcc) _ _ hoff _ _ _ fun k hl hk => hpass k ?_ ?_
      · omega
      · omega
    rw [segTable]
    dsimp only
    rw [hread]
    exact ih (i + 1) (by omega) (by rwa [Nat.add_right_comm, Nat.add_assoc i n 1])

/-- The Points processor finds the entry that maps the first 64 KB. -/
theorem pointsFind_stray : pointsFind strayRunning 57348 0 = (some (segOfWords 0 0x0F 1 0 0), strayRunning) := by
  have hpass : ∀ k < 5, ownCheck strayRunning none (128 * (229392 + k)) = .pass := by decide +kernel
  have hstate : (segTable 57348 16 0 strayRunning).2 = strayRunning := by
    refine segTable_state (first := 229392) (bound := 229397) rfl (fun k hl hk => ?_) 16 0 (by decide) (by decide)
    have h := hpass (k - 229392) (by omega)
    rwa [show 229392 + (k - 229392) = k by omega] at h
  have hfind : (segTable 57348 16 0 strayRunning).1.find? (segHas · 0) = some (segOfWords 0 0x0F 1 0 0) := by decide +kernel
  rw [pointsFind]
  dsimp only
  rw [hstate, hfind]

/-- The state once the host read has gone out. -/
def strayAsked : State := emit strayRunning 0 (.read 0 0 64 (hostAttr strayRunning 57348 true))

theorem strayLoad_due : transferDue strayRunning strayLoad 2 4032 = true := by
  have hup : planeUp strayRunning = true := by
    have hhalt : strayRunning.log.dpHalted = false := by
      show fullLog.dpHalted = false
      unfold fullLog
      rfl
    rw [planeUp, hhalt]
    rfl
  rw [transferDue, hup]
  rfl

theorem hostPath_stray : hostPath strayRunning strayGoing 0 none 0 false = (.inl (.host 0 0 none 0), strayRunning) :=
  rfl

theorem devPath_stray : devPath strayRunning strayGoing 0 .fetch = (.inl (.dev 0 0), strayRunning) := by
  have hctx : strayGoing.ctx = 57348 := rfl
  rw [devPath, hctx, pointsFind_stray]
  rfl

theorem sideRead_refused (s : State) (d : DCmd) (fn a va n : Nat) : sideRead s d (.host fn a none va) n none
    = (.fail codeSegFault, none, post (emit s fn (.read fn a n (hostAttr s d.ctx true))) .hostAbort 7 fn (some d.ctx) 0 a) := rfl

/-- The host refuses the read, and the transfer fails. -/
theorem transferGo_stray : transferGo 0 0 0 64 6 strayGoing none strayRunning
    = ((.fail codeSegFault 0, 0), post strayAsked .hostAbort 7 0 (some 57348) 0 0) := by
  have hsize : pieceSize 0 0 0 64 = 64 := rfl
  have hmoved : strayGoing.moved = 0 := rfl
  have hop : strayGoing.op = 2 := rfl
  have hpiece : transferPiece strayRunning strayGoing 0 0 64 0 none
      = ((.fail codeSegFault, 0), none, post strayAsked .hostAbort 7 0 (some 57348) 0 0) := by
    rw [transferPiece, if_pos rfl, hostPath_stray, hop]
    dsimp only [hostHas]
    simp only [Bool.not_true, Bool.false_eq_true, if_false, if_true, zero_ne_one, devPath_stray, movePiece, sideRead_refused]
    rfl
  rw [transferGo, hmoved, if_neg (by decide)]
  dsimp only
  rw [hsize, hpiece]

theorem outputs_strayAsked : outputs strayAsked = [.read 0 0 64 ⟨true, none, false⟩] := rfl

theorem fnOf_eq {s : State} {ctx : Nat} {v : W64} (h : regVal s .xlCtxbind 0 ctx 0 = v) : fnOf s ctx = fGet v 1 6 := by
  rw [fnOf, regFld, h]

/-- The dropped record moves the context to another function. -/
theorem fnOf_stray : fnOf strayRunning 57348 = 0 ∧ fnOf (post strayAsked .hostAbort 7 0 (some 57348) 0 0) 57348 = 1 := by
  refine ⟨rfl, ?_⟩
  have hlog : strayAsked.log = fullLog := rfl
  have hfull : 4096 ≤ fullLog.central.length ∧ oldestLow fullLog.central = none ∧ 64 ≤ fullLog.holding.length := by
    unfold fullLog
    refine ⟨?_, oldestLow_replicate (by decide) 4096, ?_⟩
    · exact (List.length_replicate ..).ge
    · exact (List.length_replicate ..).ge
  obtain ⟨hcentral, hlow, hholding⟩ := hfull
  have hlost := post_full (s := strayAsked) (code := .hostAbort) (by rwa [hlog]) (by rwa [hlog]) (by rwa [hlog]) rfl 7 0 (some 57348) 0 0
  have hbind (u : State) : regVal u .xlCtxbind 0 57348 0 = regVal u .logLost 0 0 0 := rfl
  rw [fnOf_eq ((hbind _).trans hlost)]
  rfl

/-- A transfer under way that fails. -/
theorem transfer_fails {s u : State} {d : DCmd} {tag dir len code va m : Nat} {h : HostData} (htag : d.tag.isSome = true)
    (hdir : (if d.op = 2 then 0 else fieldAt d.bytes 28 1) = dir) (hlen : fieldAt d.bytes 24 4 = len)
    (hgo : transferGo dir (fieldAt d.bytes 8 8) (fieldAt d.bytes 16 8) len (len / 16 + 2)
      { d with tag := some (d.tag.getD tag), st := .running, wait := none } h s = ((.fail code va, m), u)) :
    let e := { d with tag := some (d.tag.getD tag), st := .running, wait := none, moved := m }
    transfer s d tag h = completeCmd (freeTransferTag u e) e code m va := by
  unfold transfer
  dsimp only
  rw [if_pos htag, hdir, hlen, hgo]

/-- Refutes O38: the context of a command is not bounded, and the binding of context 57348 would lie at the address of LOG_LOST;
a LOAD whose host read is refused posts a record, which a full log drops, and its entry goes to another function. -/
theorem not_dispatcherCommands : ¬ Obligations.DispatcherCommands := by
  intro h
  obtain ⟨-, -, -, hmoves⟩ := h 0 4032 .unsupported strayRunning strayLoad rfl
  obtain ⟨t, ht, -, -, hentry, -⟩ := hmoves (.load 0 4032 .unsupported) 2 (.head _) strayLoad_due
  obtain ⟨hfn0, hfn1⟩ := fnOf_stray
  have hgo : transferGo 0 0 0 64 6 strayGoing (hostData .unsupported) strayRunning
      = ((.fail codeSegFault 0, 0), post strayAsked .hostAbort 7 0 (some 57348) 0 0) := transferGo_stray
  obtain ⟨-, -, -, hfail⟩ := hentry
  obtain ⟨⟨bs, hwrite, -⟩, -⟩ := hfail codeSegFault 0 (congrArg (·.1.1) hgo)
  have hexec : exec (.load 0 4032 .unsupported) strayRunning = .next (transfer strayRunning strayLoad 4032 none) := by
    have hbody : exec (.load 0 4032 .unsupported) strayRunning
        = whenDue (transferDue strayRunning strayLoad 2 4032) strayRunning (.next (transfer strayRunning strayLoad 4032 none)) := rfl
    rw [hbody, whenDue_pos strayLoad_due]
  rw [hexec, transfer_fails (d := strayLoad) rfl rfl rfl transferGo_stray] at ht
  obtain rfl := Host.Outcome.next.inj ht
  obtain hfn | hbefore := completeCmd_writes (by rwa [outputs])
  · have hkept (u : State) (d : DCmd) : fnOf (freeTransferTag u d) 57348 = fnOf u 57348 := by
      have hregs : (freeTransferTag u d).regs = u.regs := freeTransferTag_changes .regs (by decide)
      exact fnOf_eq (regVal_congr hregs ..)
    have hsame : fnOf strayRunning 57348 = fnOf (freeTransferTag (post strayAsked .hostAbort 7 0 (some 57348) 0 0) _) 57348 := hfn
    rw [hfn0, hkept, hfn1] at hsame
    exact absurd hsame (by decide)
  · have hkept (u : State) (d : DCmd) : outputs (freeTransferTag u d) = outputs u := by
      have hhost : (freeTransferTag u d).host = u.host := freeTransferTag_changes .host (by decide)
      unfold outputs posted
      rw [hhost]
    have hpost : outputs (post strayAsked .hostAbort 7 0 (some 57348) 0 0) = outputs strayAsked := by
      have hhost : (post strayAsked .hostAbort 7 0 (some 57348) 0 0).host = strayAsked.host := post_changes .host (by decide)
      unfold outputs posted
      rw [hhost]
    rw [hkept, hpost, outputs_strayAsked] at hbefore
    exact absurd (List.mem_singleton.1 hbefore) nofun

end Sys2Proof.Machine

/-! PROOFS. The family of spec/15, management commands: Block Writes over SMBus, the mailbox, and what each command answers. -/

namespace Sys2Proof.Machine

set_option Elab.async false

/-- The Stationmaster's own state. -/
theorem Changes.sm {l : List Part} {s t : State} (h : Changes l s t) (hl : Part.sm ∉ l := by decide) : t.sm = s.sm := (h .sm hl).2

/-! ### The rows of Table 15.4 -/

/-- The instruction of each command, with its code. -/
def mgmtRows (chk : ImgChk) (allot : List Nat) (v : Via) : List (Instr × Nat) :=
  [(.ident v, 0x01), (.status v, 0x02), (.telemetry v, 0x03), (.readLog v, 0x04), (.setTod v, 0x10), (.setCap v, 0x11),
   (.govCtl v, 0x12), (.govTarget v, 0x13), (.fwStage v, 0x20), (.fwVerify v chk, 0x21), (.fwActivate v allot, 0x22),
   (.fwConfirm v, 0x23), (.fwStatus v, 0x24)]

/-- Every command goes through the same arrival, once it need not wait behind the mailbox. -/
theorem exec_mgmtRow {chk : ImgChk} {allot : List Nat} {v : Via} {s : State} {i : Instr} {code : Nat}
    (h : (i, code) ∈ mgmtRows chk allot v) (hbehind : notBehind s v = true)
    (hlane : code = 0x22 → regBit s .govLstat 0 0 0 0 = false) :
    ∃ len body, exec i s = mgmt s v code len body := by
  simp only [mgmtRows, List.mem_cons, Prod.mk.injEq, List.not_mem_nil, or_false] at h
  obtain ⟨rfl, rfl⟩ | ⟨rfl, rfl⟩ | ⟨rfl, rfl⟩ | ⟨rfl, rfl⟩ | ⟨rfl, rfl⟩ | ⟨rfl, rfl⟩ | ⟨rfl, rfl⟩ | ⟨rfl, rfl⟩ | ⟨rfl, rfl⟩
    | ⟨rfl, rfl⟩ | ⟨rfl, rfl⟩ | ⟨rfl, rfl⟩ | ⟨rfl, rfl⟩ := h
  case inr.inr.inr.inr.inr.inr.inr.inr.inr.inl => exact ⟨0, mgmtFwVerify chk, whenDue_pos hbehind ..⟩
  case inr.inr.inr.inr.inr.inr.inr.inr.inr.inr.inl =>
    exact ⟨0, mgmtFwActivate allot, whenDue_pos (by rw [hbehind, hlane rfl]; rfl) ..⟩
  all_goals exact ⟨_, _, rfl⟩

/-! ### SMBus (R571, R575, R576) -/

theorem mgmt_smbus {s : State} {pec : Pec} {req : List Byte} {code len : Nat} {body : Iface → List Byte → State → MgmtRes}
    (h : mgmtAlive s = true) : mgmt s (.smbus pec req) code len body = .next (smbusWrite s code len body pec req) :=
  whenDue_pos h ..

/-- A Block Write that reaches the command, which runs at once. -/
theorem smbusWrite_runs {s : State} {code len : Nat} {body : Iface → List Byte → State → MgmtRes} {req : List Byte}
    (hst : s.sm.st ≠ 4) (hpend : s.sm.smbusPend = none) (hmbox : s.sm.mbox = false) :
    smbusWrite s code len body .good req = runMgmt .smb code len body req s := by
  rw [smbusWrite, if_neg hst, if_neg (by decide), if_neg (by rw [Bool.and_eq_true]; exact fun h => absurd h.1 (by decide)), hpend, if_neg (by decide), hmbox, if_neg (by decide)]

/-- Table 15.1, R571, R576: what a Block Write answers before the command is looked at. -/
theorem smbusWrite_cases {s : State} {code len : Nat} {body : Iface → List Byte → State → MgmtRes} {pec : Pec} {req : List Byte}
    (hmbox : s.sm.mbox = false) :
    (s.sm.st = 4 → smbusWrite s code len body pec req = s)
      ∧ (s.sm.st ≠ 4 → pec = .bad → smbusWrite s code len body pec req = setSm s { s.sm with rsp := [8#8] })
      ∧ (s.sm.st ≠ 4 → pec = .absent → 4 < code → smbusWrite s code len body pec req = s)
      ∧ (s.sm.st ≠ 4 → pec = .good → s.sm.smbusPend = none → served s code = false →
          smbusWrite s code len body pec req = setSm s { s.sm with rsp := [1#8] }) := by
  refine ⟨fun h => if_pos h, fun h hp => ?_, fun h hp hcode => ?_, fun h hp hpend hserved => ?_⟩
  · subst hp
    rw [smbusWrite, if_neg h, if_pos rfl]
    rfl
  · subst hp
    rw [smbusWrite, if_neg h, if_neg (by decide), if_pos (by simpa using hcode)]
  · subst hp
    rw [smbusWrite_runs h hpend hmbox, runMgmt, hserved]
    rfl

/-- A command that is served answers what its body gives. -/
theorem runMgmt_smb {s : State} {code len : Nat} {body : Iface → List Byte → State → MgmtRes} {req : List Byte}
    (hserved : served s code = true) (hlen : len = 0 ∨ req.length = len) :
    runMgmt .smb code len body req s = respond .smb (body .smb req s) := by
  rw [runMgmt, hserved, if_neg (by decide), if_neg]
  obtain rfl | h := hlen
  · simp
  · simp [h]

theorem runMgmt_badLength {s : State} {code len : Nat} {body : Iface → List Byte → State → MgmtRes} {req : List Byte}
    (hserved : served s code = true) (hlen : len ≠ 0) (hreq : req.length ≠ len) :
    runMgmt .smb code len body req s = respond .smb (resBadArg, [], s) := by
  rw [runMgmt, hserved, if_neg (by decide), if_pos (by simp [hlen, hreq])]

theorem served_of_works {s : State} (h : s.sm.st = 2 ∨ s.sm.st = 3) (code : Nat) : served s code = true := by
  unfold served
  obtain h | h := h <;> rw [h] <;> rfl

/-! ### The mailbox (R572, R575, R576) -/

/-- The mailbox command is over: the mailbox is free and its DONE is set. -/
def MailboxDone (s : State) : Prop := s.sm.mbox = false ∧ regBit s .smMboxstat 0 0 0 1 = true

theorem MailboxDone.of {s t : State} {l : List Part} (h : MailboxDone s) (hc : Changes l s t) (hmbox : t.sm.mbox = s.sm.mbox)
    (hregs : Part.regs ∉ l := by decide) : MailboxDone t :=
  ⟨hmbox.trans h.1, by rw [regBit, regFld, regVal_congr (hc .regs hregs)]; exact h.2⟩

/-- The registers of the answer: the bytes are written, then DONE and the result. -/
def mboxAnswered (s : State) (bytes : List Byte) (res : Nat) : State :=
  setFld (setFld (mboxAnswer bytes 64 0 (setSm s { s.sm with mbox := false })) .smMboxstat 0 0 0 1 1 1) .smMboxstat 0 0 0 8 8 res

theorem respond_mbox (res : Nat) (bs : List Byte) (s : State) : ∃ bytes,
    respond .mbox (res, bs, s) = mboxAnswered s bytes res
      ∨ ∃ v, respond .mbox (res, bs, s) = sendVector (mboxAnswered s bytes res) v := by
  obtain ⟨bytes, v, h⟩ : ∃ bytes v, respond .mbox (res, bs, s)
      = if v = 0 then mboxAnswered s bytes res else sendVector (mboxAnswered s bytes res) v := ⟨_, _, rfl⟩
  refine ⟨bytes, ?_⟩
  rw [h]
  split
  · exact .inl rfl
  · exact .inr ⟨v, rfl⟩

theorem mboxAnswered_done (s : State) (bytes : List Byte) (res : Nat) : MailboxDone (mboxAnswered s bytes res)
    ∧ regFld (mboxAnswered s bytes res) .smMboxstat 0 0 0 8 8 = res % 256 := by
  have hsm (u : State) (r : RegName) (a b c lsb w x : Nat) : (setFld u r a b c lsb w x).sm = u.sm := rfl
  have hanswer (u : State) : (mboxAnswer bytes 64 0 u).sm = u.sm := mboxAnswer_changes.sm
  refine ⟨⟨?_, ?_⟩, regFld_setFld _ _ _ _ _ _ (by decide)⟩
  · rw [mboxAnswered, hsm, hsm, hanswer]
    rfl
  · rw [mboxAnswered, regBit, setFld, regFld_setReg, fGet_fSet_below _ (by decide) (by decide), ← regFld,
      regFld_setFld _ _ _ _ _ _ (by decide)]
    rfl

theorem respond_mbox_done (res : Nat) (bs : List Byte) (s : State) : MailboxDone (respond .mbox (res, bs, s))
    ∧ regFld (respond .mbox (res, bs, s)) .smMboxstat 0 0 0 8 8 = res % 256 := by
  obtain ⟨bytes, h | ⟨v, h⟩⟩ := respond_mbox res bs s <;> rw [h]
  · exact mboxAnswered_done s bytes res
  · obtain ⟨hdone, hres⟩ := mboxAnswered_done s bytes res
    have hsent : Changes [.host] (mboxAnswered s bytes res) (sendVector (mboxAnswered s bytes res) v) := sendVector_changes
    refine ⟨hdone.of hsent (congrArg SmSt.mbox hsent.sm), ?_⟩
    rw [regFld, regVal_congr (hsent .regs (by decide))]
    exact hres

theorem MailboxDone.takeTod {s : State} (h : MailboxDone s) (sec : Nat) : MailboxDone (takeTod s sec) := by
  have hsm : (Machine.takeTod s sec).sm = s.sm := takeTod_changes.sm
  have hbit (u : State) (b : Nat) (v : Bool) : SameRegsBut [regAddr .ttTod 0 0 0, regAddr .ttStatus 0 0 0] u (setTtBit u b v) :=
    sameRegs_setReg.mono (by simp)
  have htod (v : W64) : SameRegsBut [regAddr .ttTod 0 0 0, regAddr .ttStatus 0 0 0] s (setReg s .ttTod 0 0 0 v) :=
    sameRegs_setReg.mono (by simp)
  have hregs : SameRegsBut [regAddr .ttTod 0 0 0, regAddr .ttStatus 0 0 0] s (Machine.takeTod s sec) := by
    obtain ⟨inside, named, h⟩ : ∃ (inside : Bool) (x : TimeSt), Machine.takeTod s sec
        = if inside then setTime (setTtBit (setReg s .ttTod 0 0 0 (BitVec.ofNat 64 sec)) 5 false) x else setTtBit s 5 true :=
      ⟨_, _, rfl⟩
    rw [h]
    split
    · exact (htod _).trans ((hbit _ 5 false).trans (.of_eq rfl))
    · exact hbit s 5 true
  refine ⟨(congrArg SmSt.mbox hsm).trans h.1, ?_⟩
  rw [hregs.regBit 1 (by simp only [regAddr, regInfo, blkBase, List.mem_cons, List.not_mem_nil, or_false]; omega)]
  exact h.2

/-- An SMBus command that waited behind the mailbox leaves the mailbox's answer. -/
theorem MailboxDone.waiting {s : State} (h : MailboxDone s) {code len : Nat} {body : Iface → List Byte → State → MgmtRes}
    (hbody : mgmtByCode code = some (len, body)) (req : List Byte) : MailboxDone (body .smb req s).2.2 := by
  unfold mgmtByCode at hbody
  split at hbody <;> cases hbody
  · exact h
  · exact h
  · exact h
  · unfold mgmtReadLog
    split
    · exact h
    · split <;> exact h
  · exact h.takeTod _
  · unfold mgmtSetCap
    dsimp only
    split <;> exact h
  · unfold mgmtGovCtl
    split <;> exact h
  · exact h
  · unfold mgmtFwStage
    split
    · exact h
    · dsimp only
      split <;> exact h
  · unfold mgmtFwConfirm
    split <;> exact h
  · exact h

theorem MailboxDone.runMgmt {s : State} (h : MailboxDone s) {code len : Nat} {body : Iface → List Byte → State → MgmtRes}
    {req : List Byte} (hbody : MailboxDone (body .smb req s).2.2) : MailboxDone (runMgmt .smb code len body req s) := by
  have hrespond {r : MgmtRes} (hr : MailboxDone r.2.2) : MailboxDone (respond .smb r) := hr
  refine hrespond ?_
  split
  · exact h
  · split
    · exact h
    · exact hbody

theorem MailboxDone.runWaiting {s : State} (h : MailboxDone s) : MailboxDone (runWaiting s) := by
  unfold Machine.runWaiting
  split
  · exact h
  · have hnone : MailboxDone (setSm s { s.sm with smbusPend := none }) := h
    dsimp only
    split
    · next hbody => exact hnone.runMgmt (hnone.waiting hbody _)
    · exact hnone

/-- A mailbox command ends with DONE. -/
theorem mgmt_mailbox {s : State} {code len : Nat} {body : Iface → List Byte → State → MgmtRes} (halive : mgmtAlive s = true)
    (hdue : mboxDue s code = true) : ∃ t, mgmt s .mailbox code len body = .next t ∧ MailboxDone t := by
  refine ⟨_, whenDue_pos (by rw [halive, hdue]; rfl) .., MailboxDone.runWaiting ?_⟩
  exact (respond_mbox_done _ _ _).1

/-! ### What each command answers (Table 15.4) -/

/-- The state after an answer over SMBus. -/
def answered (s : State) (bs : List Byte) (x : SmSt) : State := { s with sm := { x with rsp := bs } }

section Served

variable {s : State} {req : List Byte} (halive : mgmtAlive s = true) (hmbox : s.sm.mbox = false) (hst : s.sm.st = 2 ∨ s.sm.st = 3)
  (hpend : s.sm.smbusPend = none)

include halive hmbox hst hpend

/-- A command that is served, with a good PEC, answers what its body gives. -/
theorem mgmt_answers {code len : Nat} {body : Iface → List Byte → State → MgmtRes} (hlen : len = 0 ∨ req.length = len) :
    mgmt s (.smbus .good req) code len body = .next (respond .smb (body .smb req s)) := by
  have hne : s.sm.st ≠ 4 := by omega
  rw [mgmt_smbus halive, smbusWrite_runs hne hpend hmbox, runMgmt_smb (served_of_works hst code) hlen]

theorem mgmt_answers_badLength {code len : Nat} {body : Iface → List Byte → State → MgmtRes} (hlen : len ≠ 0)
    (hreq : req.length ≠ len) : mgmt s (.smbus .good req) code len body = .next (answered s [2#8] s.sm) := by
  have hne : s.sm.st ≠ 4 := by omega
  rw [mgmt_smbus halive, smbusWrite_runs hne hpend hmbox, runMgmt_badLength (served_of_works hst code) hlen hreq]
  rfl

/-- A command with a fixed length of its request. -/
theorem mgmt_answers_if {code len : Nat} {body : Iface → List Byte → State → MgmtRes} (hlen : len ≠ 0) :
    mgmt s (.smbus .good req) code len body
      = .next (if req.length = len then respond .smb (body .smb req s) else answered s [2#8] s.sm) := by
  by_cases h : req.length = len
  · rw [if_pos h, mgmt_answers halive hmbox hst hpend (.inr h)]
  · rw [if_neg h, mgmt_answers_badLength halive hmbox hst hpend hlen h]

theorem readLog_outcome : Completes (.readLog (.smbus .good req)) s fun t => t.regs = s.regs
    ∧ (unreadOld s .smb = [] → unreadNew s .smb = [] → t = answered s [0#8] s.sm)
    ∧ ∀ r, oldestOf (unreadNew s .smb) = some r → unreadOld s .smb = [] →
        t.sm.rsp = 0#8 :: recBytes r ∧ t.log.curSmbus = r.seq + 1 := by
  refine ⟨_, mgmt_answers halive hmbox hst hpend (.inl rfl), ?_, fun hold hnew => ?_, fun r hr hold => ?_⟩
  · exact (mgmtReadLog_changes : Changes [.log] s (mgmtReadLog .smb req s).2.2) .regs (by decide)
  · rw [mgmtReadLog, hold, hnew]
    rfl
  · rw [mgmtReadLog, hold]
    dsimp only
    rw [hr]
    exact ⟨rfl, rfl⟩

theorem setTod_outcome : Completes (.setTod (.smbus .good req)) s fun t =>
    t.sm.rsp = (if req.length = 6 then [0#8] else [2#8])
      ∧ (req.length = 6 → t.time = (takeTod s (leNat req)).time ∧ t.regs = (takeTod s (leNat req)).regs)
      ∧ (req.length ≠ 6 → t.time = s.time ∧ t.regs = s.regs) := by
  refine ⟨_, mgmt_answers_if halive hmbox hst hpend (by decide), ?_⟩
  split
  · next h => exact ⟨rfl, fun _ => ⟨rfl, rfl⟩, fun hne => absurd h hne⟩
  · next h => exact ⟨rfl, fun he => absurd he h, fun _ => ⟨rfl, rfl⟩⟩

theorem setCap_outcome : Completes (.setCap (.smbus .good req)) s
    (· = if req.length = 2 ∧ ¬(1 ≤ leNat req ∧ leNat req ≤ 199) then answered s [0#8] { s.sm with capBoard := leNat req }
      else answered s [2#8] s.sm) := by
  refine ⟨_, mgmt_answers_if halive hmbox hst hpend (by decide), ?_⟩
  by_cases hlen : req.length = 2
  · by_cases hcap : 1 ≤ leNat req ∧ leNat req ≤ 199
    · rw [if_pos hlen, if_neg (by tauto), mgmtSetCap]
      dsimp only
      rw [if_pos (by simpa using hcap)]
      rfl
    · rw [if_pos hlen, if_pos ⟨hlen, hcap⟩, mgmtSetCap]
      dsimp only
      rw [if_neg (by simpa using hcap)]
      rfl
  · rw [if_neg hlen, if_neg (by tauto)]

theorem govCtl_outcome : Completes (.govCtl (.smbus .good req)) s
    (· = if req.length = 1 ∧ leNat req ≤ 1 then answered s [0#8] { s.sm with govWant := decide (leNat req = 1) }
      else answered s [2#8] s.sm) := by
  refine ⟨_, mgmt_answers_if halive hmbox hst hpend (by decide), ?_⟩
  by_cases hlen : req.length = 1
  · rw [if_pos hlen, mgmtGovCtl]
    generalize leNat req = n
    match n with
    | 0 => rw [if_pos ⟨hlen, by decide⟩]; rfl
    | 1 => rw [if_pos ⟨hlen, by decide⟩]; rfl
    | n + 2 => rw [if_neg (by omega)]; rfl
  · rw [if_neg hlen, if_neg (by tauto)]

theorem govTarget_outcome : Completes (.govTarget (.smbus .good req)) s
    (· = if req.length = 4 then answered s [0#8] { s.sm with targetWant := leNat req } else answered s [2#8] s.sm) :=
  ⟨_, mgmt_answers_if halive hmbox hst hpend (by decide), rfl⟩

end Served

/-! ### The doorbell of the mailbox (R576) -/

theorem smMboxdb_outcome (go : Bool) (s : State) : Completes (.smMboxdb go) s fun t =>
    (hostHere s = false ∨ go = false ∨ s.sm.st = 4 ∨ s.sm.mbox = true → t = s)
      ∧ (hostHere s = true → go = true → s.sm.st ≠ 4 → s.sm.mbox = false →
          let known := mgmtKnown (leNat ((mboxBytes s).take 1))
          (known = true → t = { s with sm := { s.sm with mbox := true } })
            ∧ (known = false → t.sm.mbox = false ∧ regFld t .smMboxstat 0 0 0 8 8 = 1)) := by
  refine ⟨_, rfl, fun h => ?_, fun hhere hgo hst hmbox => ⟨fun hknown => ?_, fun hknown => ?_⟩⟩
  · by_cases hrings : (hostHere s && go) = true
    · rw [if_pos hrings, mailboxGo, if_pos]
      rw [Bool.and_eq_true] at hrings
      simp only [Bool.or_eq_true, decide_eq_true_eq]
      simpa [hrings] using h
    · exact if_neg hrings
  all_goals
    have hgoes : mailboxGo s = if mgmtKnown (leNat ((mboxBytes s).take 1)) = true then setSm s { s.sm with mbox := true }
        else respond .mbox (resBadCmd, [], s) := if_neg (by simp [hst, hmbox])
    rw [if_pos (by rw [hhere, hgo]; rfl), hgoes]
  · exact if_pos hknown
  · rw [if_neg (by rw [hknown]; decide)]
    obtain ⟨⟨hfree, -⟩, hres⟩ := respond_mbox_done resBadCmd [] s
    exact ⟨hfree, hres⟩

/-- Settles O50: every command arrives through one function, and its answer is what its own body gives. -/
theorem managementCommands : Obligations.ManagementCommands := by
  unfold Obligations.ManagementCommands
  intro allot chk pec req go s rows answers laneFree out halive
  have hout {i : Instr} {bs : List Byte} (h : exec i s = whenDue (mgmtAlive s) s (.next (smbusReturn s bs))) : out i bs := by
    rw [whenDue_pos halive] at h
    exact ⟨fun hst => ⟨_, h, if_pos hst⟩, fun hst => ⟨_, h, if_neg hst⟩⟩
  refine ⟨fun i code hi hmbox hlane => ?_, fun hmbox hst hpend => ?_, fun i code hi hdue hlane => ?_, hout rfl, hout rfl,
    smMboxdb_outcome go s⟩
  · obtain ⟨len, body, h⟩ := exec_mgmtRow (s := s) hi (by rw [notBehind, hmbox]; rfl) hlane
    rw [mgmt_smbus halive] at h
    obtain ⟨h4, hbad, habsent, hunserved⟩ := smbusWrite_cases (s := s) (code := code) (len := len) (body := body) (pec := pec)
      (req := req) hmbox
    exact ⟨fun a => ⟨_, h, h4 a⟩, fun a b => ⟨_, h, hbad a b⟩, fun a b c => ⟨_, h, habsent a b c⟩,
      fun a b c d => ⟨_, h, hunserved a b c d⟩⟩
  · have hworks : s.sm.st = 2 ∨ s.sm.st = 3 := .inl hst
    refine ⟨⟨_, mgmt_answers halive hmbox hworks hpend (.inl rfl), rfl⟩, ⟨_, mgmt_answers halive hmbox hworks hpend (.inl rfl), ?_⟩,
      ⟨_, mgmt_answers halive hmbox hworks hpend (.inl rfl), rfl, rfl⟩, readLog_outcome halive hmbox hworks hpend,
      setTod_outcome halive hmbox hworks hpend, setCap_outcome halive hmbox hworks hpend, govCtl_outcome halive hmbox hworks hpend,
      govTarget_outcome halive hmbox hworks hpend, ⟨_, mgmt_answers halive hmbox hworks hpend (.inl rfl), rfl⟩⟩
    rw [mgmtStatus, hst]
    cases (unreadOld s .smb ++ unreadNew s .smb).any fun r => 3 ≤ r.sev <;> rfl
  · obtain ⟨len, body, h⟩ := exec_mgmtRow (s := s) hi rfl hlane
    obtain ⟨t, ht, hdone⟩ := mgmt_mailbox (len := len) (body := body) halive hdue
    exact ⟨t, h.trans ht, hdone⟩

end Sys2Proof.Machine

/-! PROOFS. The family of spec/15, firmware update: staging, verifying, activating and confirming an image, and restarts. -/

namespace Sys2Proof.Machine

set_option Elab.async false

/-! ### The update (R596 to R600, R693) -/

section Update

variable {s : State} {req : List Byte} (halive : mgmtAlive s = true) (hmbox : s.sm.mbox = false) (hst : s.sm.st = 2 ∨ s.sm.st = 3)
  (hpend : s.sm.smbusPend = none)

include halive hmbox hst hpend

theorem fwStage_outcome (hupd : s.sm.upd ≠ 3) (h5 : 5 ≤ req.length) (h32 : req.length ≤ 32)
    (hend : leNat (req.take 4) + (req.length - 4) ≤ 4 * 2 ^ 20) : Completes (.fwStage (.smbus .good req)) s fun t =>
      t.sm.rsp = [0#8] ∧ t.sm.upd = 1 ∧ t.sm.st = 3 ∧ t.nv = setSlotImage s.nv (stagingSlot s)
        (memWrite (slotImage s.nv (stagingSlot s)) (leNat (req.take 4)) (req.drop 4)) := by
  refine ⟨_, mgmt_answers halive hmbox hst hpend (.inl rfl), ?_⟩
  have hbad : ¬(decide (req.length < 5) || decide (32 < req.length)
      || decide (4 * 2 ^ 20 < leNat (req.take 4) + (req.length - 4))) = true := by
    simp only [Bool.or_eq_true, decide_eq_true_eq]
    omega
  have hstaged : mgmtFwStage .smb req s = (resOk, [], stageBytes s (leNat (req.take 4)) (req.drop 4)) := by
    rw [mgmtFwStage, if_neg hupd]
    exact if_neg hbad
  rw [hstaged]
  refine ⟨rfl, rfl, ?_, rfl⟩
  show (if s.sm.st = 2 then 3 else s.sm.st) = 3
  split <;> omega

theorem fwVerify_outcome (chk : ImgChk) (hupd : s.sm.upd = 1 ∨ s.sm.upd = 2) {m : Mem} {n : Nat}
    (hm : slotImage s.nv (stagingSlot s) = m) (hn : imageRule s.nv m chk = n) :
    Completes (.fwVerify (.smbus .good req) chk) s fun t => t.nv = s.nv
      ∧ (n = 0 → t.sm.rsp = 0#8 :: leBytes 4 (imgVersion m) ∧ t.sm.upd = 2)
      ∧ (n = 4 → t.sm.rsp = [5#8] ∧ t.sm.upd = 0) ∧ (n ≠ 0 → n ≠ 4 → t.sm.rsp = [4#8] ∧ t.sm.upd = 0) := by
  have hexec : exec (.fwVerify (.smbus .good req) chk) s = .next (respond .smb (mgmtFwVerify chk .smb req s)) :=
    (whenDue_pos (by rw [notBehind, hmbox]; rfl) ..).trans (mgmt_answers halive hmbox hst hpend (.inl rfl))
  have hgo : ¬(s.sm.upd != 1 && s.sm.upd != 2) = true := by
    obtain h | h := hupd <;> rw [h] <;> decide
  refine ⟨_, hexec, ?_⟩
  rw [mgmtFwVerify, if_neg hgo, hm]
  dsimp only
  rw [hn]
  split
  · exact ⟨rfl, fun _ => ⟨rfl, rfl⟩, nofun, fun h => absurd rfl h⟩
  · exact ⟨rfl, nofun, fun _ => ⟨rfl, rfl⟩, fun _ h => absurd rfl h⟩
  · next h0 h4 => exact ⟨rfl, fun h => (h0 h).elim, fun h => (h4 h).elim, fun _ _ => ⟨rfl, rfl⟩⟩

theorem fwVerify_notStaged (chk : ImgChk) (h1 : s.sm.upd ≠ 1) (h2 : s.sm.upd ≠ 2) :
    Completes (.fwVerify (.smbus .good req) chk) s fun t => t.sm.rsp = [6#8] ∧ t.nv = s.nv := by
  have hexec : exec (.fwVerify (.smbus .good req) chk) s = .next (respond .smb (mgmtFwVerify chk .smb req s)) :=
    (whenDue_pos (by rw [notBehind, hmbox]; rfl) ..).trans (mgmt_answers halive hmbox hst hpend (.inl rfl))
  refine ⟨_, hexec, ?_⟩
  rw [mgmtFwVerify, if_pos (by simp [h1, h2])]
  exact ⟨rfl, rfl⟩

theorem exec_fwActivate (allot : List Nat) (hlane : regBit s .govLstat 0 0 0 0 = false) :
    exec (.fwActivate (.smbus .good req) allot) s = .next (respond .smb (mgmtFwActivate allot .smb req s)) :=
  (whenDue_pos (by rw [notBehind, hmbox, hlane]; rfl) ..).trans (mgmt_answers halive hmbox hst hpend (.inl rfl))

theorem fwActivate_outcome (allot : List Nat) (hlane : regBit s .govLstat 0 0 0 0 = false) (hupd : s.sm.upd = 2) :
    Completes (.fwActivate (.smbus .good req) allot) s fun t =>
      t.sm.rsp = [0#8] ∧ t.sm.st = 4 ∧ t.sm.restart = .activation ∧ t.nv.active = stagingSlot s ∧ t.nv.dirPending = 1
        ∧ t.nv.arb = s.nv.arb := by
  refine ⟨_, exec_fwActivate halive hmbox hst hpend allot hlane, ?_⟩
  have hrecovery : ¬(decide (s.sm.st = 5) && !firmwareReady s) = true := by
    rw [Bool.and_eq_true, decide_eq_true_eq]
    omega
  have hnv : (clocksToFallback s allot).nv = s.nv := clocksToFallback_changes .nv (by decide)
  have hact : mgmtFwActivate allot .smb req s = (resOk, [], setSm (setDir (clocksToFallback s allot) (stagingSlot s) 1)
      { (setDir (clocksToFallback s allot) (stagingSlot s) 1).sm with st := 4, restart := .activation, solving := false }) := by
    rw [mgmtFwActivate, if_neg (by rw [hupd]; decide), if_neg hrecovery]
  rw [hact]
  generalize clocksToFallback s allot = c at hnv
  have harb : c.nv.arb = s.nv.arb := congrArg NvSt.arb hnv
  exact ⟨rfl, rfl, rfl, rfl, rfl, harb⟩

theorem fwActivate_notStaged (allot : List Nat) (hlane : regBit s .govLstat 0 0 0 0 = false) (hupd : s.sm.upd ≠ 2) :
    Completes (.fwActivate (.smbus .good req) allot) s fun t => t.sm.rsp = [6#8] ∧ t.nv = s.nv := by
  refine ⟨_, exec_fwActivate halive hmbox hst hpend allot hlane, ?_⟩
  rw [mgmtFwActivate, if_pos (by simp [hupd])]
  exact ⟨rfl, rfl⟩

theorem fwConfirm_outcome (hupd : s.sm.upd = 3) : Completes (.fwConfirm (.smbus .good req)) s fun t =>
    let n := max s.nv.arb (imgSvn (slotImage s.nv s.sm.image))
    t.sm.rsp = 0#8 :: leBytes 4 n ∧ t.nv.arb = n ∧ t.nv.dirPending = 0 ∧ t.nv.active = s.nv.active ∧ t.sm.upd = 0 := by
  refine ⟨_, mgmt_answers halive hmbox hst hpend (.inl rfl), ?_⟩
  rw [mgmtFwConfirm, if_neg (by rw [hupd]; decide)]
  exact ⟨rfl, rfl, rfl, rfl, rfl⟩

theorem fwConfirm_notTrial (hupd : s.sm.upd ≠ 3) :
    Completes (.fwConfirm (.smbus .good req)) s fun t => t.sm.rsp = [1#8] ∧ t.nv = s.nv := by
  refine ⟨_, mgmt_answers halive hmbox hst hpend (.inl rfl), ?_⟩
  rw [mgmtFwConfirm, if_pos (by simp [hupd])]
  exact ⟨rfl, rfl⟩

end Update

/-! ### The boot ROM (R689 to R692) -/

/-- What a run of the ROM comes to: an image starts, or the boot stops, which leaves the other planes of a part that is ready. -/
structure RomRuns (s t : State) : Prop where
  st : t.sm.st = 1 ∨ t.sm.st = 0 ∨ t.sm.st = 5
  planes : firmwareReady s = true → t.power.phase = s.power.phase ∧ t.power.rails = s.power.rails

theorem firmwareReady_congr {s t : State} (hphase : t.power.phase = s.power.phase) (hrails : t.power.rails = s.power.rails) :
    firmwareReady t = firmwareReady s := by
  rw [firmwareReady, hphase, hrails, firmwareReady]

theorem romRuns_bootStop (s : State) (code arg phase : Nat) {st : Nat} (hst : st = 0 ∨ st = 5) :
    RomRuns s (bootStop s code arg phase st) := by
  have hplanes (p : PowerSt) : (if p.bootFatal = true then p else { p with code := code, arg := arg % 256, bootFatal := true }).phase
      = p.phase ∧ (if p.bootFatal = true then p else { p with code := code, arg := arg % 256, bootFatal := true }).rails
      = p.rails := by
    split <;> exact ⟨rfl, rfl⟩
  unfold bootStop
  dsimp only
  split
  · exact ⟨.inr hst, fun _ => hplanes s.power⟩
  · next h => exact ⟨.inr hst, fun hready => absurd hready h⟩

/-- Steps that leave the phases and the rails. -/
def SamePlanes (s t : State) : Prop := t.power.phase = s.power.phase ∧ t.power.rails = s.power.rails

theorem SamePlanes.trans {s t u : State} (h : SamePlanes s t) (k : SamePlanes t u) : SamePlanes s u :=
  ⟨k.1.trans h.1, k.2.trans h.2⟩

theorem RomRuns.after {s t u : State} (h : SamePlanes s t) (k : RomRuns t u) : RomRuns s u := by
  refine ⟨k.st, fun hready => ?_⟩
  obtain ⟨hphase, hrails⟩ := k.planes (by rwa [firmwareReady_congr h.1 h.2])
  exact ⟨hphase.trans h.1, hrails.trans h.2⟩

theorem RomRuns.ite {s t u : State} {c : Prop} [Decidable c] (h : RomRuns s t) (k : RomRuns s u) :
    RomRuns s (if c then t else u) := by
  split
  · exact h
  · exact k

theorem samePlanes_bootWarn (s : State) (code arg : Nat) : SamePlanes s (bootWarn s code arg) := by
  unfold bootWarn
  dsimp only
  split <;> exact ⟨rfl, rfl⟩

theorem samePlanes_post (s : State) (code : LogCode) (unitKind unitIdx : Nat) (ctx : Option Nat) (arg addr : Nat) :
    SamePlanes s (post s code unitKind unitIdx ctx arg addr) := by
  have h : (post s code unitKind unitIdx ctx arg addr).power = s.power := post_changes .power (by decide)
  exact ⟨by rw [h], by rw [h]⟩

theorem samePlanes_setDir (s : State) (active pending : Nat) : SamePlanes s (setDir s active pending) := ⟨rfl, rfl⟩

theorem samePlanes_romDirectory (s : State) : SamePlanes s (romDirectory s) := by
  have hlook (u : State) (h : SamePlanes s u) : SamePlanes s (match u.nv.dirPending with
      | 2 => post { bootWarn (setDir u (1 - u.nv.active) 0) 7 (1 - u.nv.active) with
          sm := { (bootWarn (setDir u (1 - u.nv.active) 0) 7 (1 - u.nv.active)).sm with upd := 4 } } .fwRollback 10 0 none
            (1 - u.nv.active) 0
      | 1 => { u with nv := { u.nv with dirPending := 2 } }
      | _ => u) := by
    split
    · have hwarn : SamePlanes u (bootWarn (setDir u (1 - u.nv.active) 0) 7 (1 - u.nv.active)) :=
        (samePlanes_setDir ..).trans (samePlanes_bootWarn ..)
      exact (h.trans hwarn).trans (samePlanes_post ..)
    · exact h
    · exact h
  refine hlook _ ?_
  split
  · exact ⟨rfl, rfl⟩
  · exact samePlanes_bootWarn ..

theorem romRuns_bootRom (s : State) (a b : ImgChk) : RomRuns s (bootRom s a b) := by
  have himage (u : State) (k : Nat) : RomRuns u (bootImage u k) := ⟨.inl rfl, fun _ => ⟨rfl, rfl⟩⟩
  unfold bootRom
  split
  · exact romRuns_bootStop _ _ _ _ (.inl rfl)
  · split
    · exact romRuns_bootStop _ _ _ _ (.inr rfl)
    · refine RomRuns.after (samePlanes_romDirectory s) ?_
      generalize romDirectory s = u
      unfold romImage
      dsimp only
      exact .ite (himage ..) (.ite (.after ((samePlanes_setDir ..).trans (samePlanes_bootWarn ..)) (himage ..))
        (romRuns_bootStop _ _ _ _ (.inr rfl)))

/-! ### Restarts (R566, R599, R600) -/

theorem watchdogExpiry_outcome {s : State} (a b : ImgChk) (halive : mgmtAlive s = true)
    (hst : smWorks s = true ∨ s.sm.st = 1) : Completes (.watchdogExpiry a b) s fun t =>
      t.nv = s.nv ∧ t.log.seq = s.log.seq + 1
        ∧ (firmwareReady s = false → t.power.phase = 0 ∧ t.sm.st = 0)
        ∧ (firmwareReady s = true → t.sm.st = 4 ∧ t.sm.restart = .watchdog ∧ t.power = s.power) := by
  have hdue : (mgmtAlive s && (smWorks s || s.sm.st == 1 || s.sm.st == 4)) = true := by
    rw [halive]
    obtain h | h := hst <;> simp [h]
  refine ⟨_, whenDue_pos hdue .., ?_⟩
  have hpost : Changes [.log, .regs, .trace] s (post s .smWatchdog 10 0 none 0 0) := post_changes
  have hseq := post_seq s .smWatchdog 10 0 none 0 0
  have hne : ¬(post s .smWatchdog 10 0 none 0 0).sm.st = 4 := by
    rw [hpost.sm]
    obtain h | h := hst
    · simp only [smWorks, Bool.or_eq_true, beq_iff_eq] at h
      omega
    · omega
  have hpower : (post s .smWatchdog 10 0 none 0 0).power = s.power := hpost .power (by decide)
  have hnv : (post s .smWatchdog 10 0 none 0 0).nv = s.nv := hpost .nv (by decide)
  have hready : firmwareReady (post s .smWatchdog 10 0 none 0 0) = firmwareReady s := by
    rw [firmwareReady, hpower, firmwareReady]
  rw [watchdog, if_neg hne, hready]
  split
  · next h => exact ⟨hnv, hseq, fun hn => by simp [hn] at h, fun _ => ⟨rfl, rfl, hpower⟩⟩
  · next h => exact ⟨hnv, hseq, fun _ => ⟨rfl, rfl⟩, fun hy => absurd hy h⟩

theorem watchdogExpiry_restarting {s : State} (a b : ImgChk) (halive : mgmtAlive s = true) (hst : s.sm.st = 4) :
    Completes (.watchdogExpiry a b) s fun t =>
      (t.sm.st = 4 ∧ t.sm.restart = .watchdog ∨ t.sm.st = 0 ∨ t.sm.st = 5)
        ∧ (firmwareReady s = true → t.power.phase = s.power.phase ∧ t.power.rails = s.power.rails) := by
  refine ⟨_, whenDue_pos (by simp [halive, hst]) .., ?_⟩
  have hsm : (post s .smWatchdog 10 0 none 0 0).sm.st = 4 := by rw [Changes.sm post_changes]; exact hst
  obtain ⟨hrom, hplanes⟩ := RomRuns.after (samePlanes_post s .smWatchdog 10 0 none 0 0) (romRuns_bootRom _ a b)
  rw [watchdog, if_pos hsm]
  dsimp only
  generalize bootRom (post s .smWatchdog 10 0 none 0 0) a b = u at hrom hplanes
  split
  · exact ⟨.inl ⟨rfl, rfl⟩, hplanes⟩
  · next h => exact ⟨.inr (hrom.resolve_left fun h1 => h (by rw [romStarted, h1]; rfl)), hplanes⟩

theorem stationmasterReady_outcome {s : State} (a b : ImgChk) (halive : mgmtAlive s = true) (hst : s.sm.st = 4) :
    Completes (.stationmasterReady a b) s fun t =>
      (romStarted (bootRom s a b) = true → (t.sm.st = 2 ∨ t.sm.st = 3) ∧ t.sm.restart = .none)
        ∧ (romStarted (bootRom s a b) = false → (t.sm.st = 0 ∨ t.sm.st = 5)
            ∧ (firmwareReady s = true → t.power.phase = s.power.phase ∧ t.power.rails = s.power.rails)) := by
  refine ⟨_, whenDue_pos (by rw [halive, hst]; rfl) .., ?_⟩
  obtain ⟨hrom, hplanes⟩ := romRuns_bootRom s a b
  rw [smReady]
  generalize bootRom s a b = u at hrom hplanes
  dsimp only
  split
  · next h =>
    rw [Bool.not_eq_true'] at h
    refine ⟨fun hy => absurd hy (by rw [h]; decide), fun _ => ⟨?_, hplanes⟩⟩
    exact hrom.resolve_left fun h1 => by rw [romStarted, h1] at h; exact absurd h (by decide)
  · next h =>
    rw [Bool.not_eq_true', Bool.not_eq_false] at h
    refine ⟨fun _ => ?_, fun hn => absurd h (by rw [hn]; decide)⟩
    rw [Changes.sm govRefresh_changes]
    refine ⟨?_, rfl⟩
    have hreads (n : Nat) : (if n = 1 then 3 else 2) = 2 ∨ (if n = 1 then 3 else 2) = 3 := by split <;> simp
    exact hreads _

/-- Settles O51: the staged image is written, verified, activated and confirmed by its own command, and a restart runs the ROM. -/
theorem firmwareUpdate : Obligations.FirmwareUpdate := by
  unfold Obligations.FirmwareUpdate
  intro req chk a b allot s v k o rule
  refine ⟨fun halive hmbox hworks hpend => ?_, fun halive hst => watchdogExpiry_outcome a b halive hst,
    fun halive hst => ⟨watchdogExpiry_restarting a b halive hst, stationmasterReady_outcome a b halive hst⟩⟩
  have hst : s.sm.st = 2 ∨ s.sm.st = 3 := by
    simpa only [smWorks, Bool.or_eq_true, beq_iff_eq] using hworks
  exact ⟨fwStage_outcome halive hmbox hst hpend, fun h => fwVerify_outcome halive hmbox hst hpend chk h rfl rfl,
    fwVerify_notStaged halive hmbox hst hpend chk, fwActivate_outcome halive hmbox hst hpend allot,
    fwActivate_notStaged halive hmbox hst hpend allot, fwConfirm_outcome halive hmbox hst hpend,
    fwConfirm_notTrial halive hmbox hst hpend⟩

end Sys2Proof.Machine

/-! PROOFS. The family of spec/15, the governor: its reserved lane, the clocks that its results and its fallback move, and the
thermal limits. -/

namespace Sys2Proof.Machine

set_option Elab.async false

/-- The problems on the lanes. -/
theorem Changes.problems {l : List Part} {s t : State} (h : Changes l s t) (hl : Part.problems ∉ l := by decide) :
    t.problems = s.problems := (h .problems hl).1

/-! ### The reserved lane (R594, R595) -/

theorem laneXlate_governor {p : Problem} (h : p.tag = none) (s : State) (va : Nat) (w : Bool) :
    (laneXlate s p va w).2 = s
      ∧ ((∃ o, (laneXlate s p va w).1 = .window o) ∨ ∃ code, (laneXlate s p va w).1 = .stop (.fail code)) := by
  rw [laneXlate, h, if_pos Option.isNone_none]
  dsimp only
  split
  · exact ⟨rfl, .inl ⟨_, rfl⟩⟩
  · exact ⟨rfl, .inr ⟨_, rfl⟩⟩

/-- A governor problem reaches its window, or fails, and nothing changes. -/
theorem laneReach_governor {p : Problem} (h : p.tag = none) (w : Bool) (ls : List Nat) (s : State) :
    (∃ n, laneReach p w ls s = (.inr n, s)) ∨ ∃ code, laneReach p w ls s = (.inl (.fail code), s) := by
  induction ls with
  | nil => exact .inl ⟨0, rfl⟩
  | cons l ls ih =>
    obtain ⟨hs, hx⟩ := laneXlate_governor h s l w
    rw [laneReach]
    generalize laneXlate s p l w = r at hs hx
    obtain ⟨x, u⟩ := r
    dsimp only at hs hx
    subst hs
    obtain ⟨o, rfl⟩ | ⟨code, rfl⟩ := hx
    · dsimp only
      obtain ⟨n, hn⟩ | ⟨code, hc⟩ := ih
      · rw [hn]
        exact .inl ⟨_, rfl⟩
      · rw [hc]
        exact .inr ⟨_, rfl⟩
    · exact .inr ⟨_, rfl⟩

theorem laneWrite_governor {p : Problem} (h : p.tag = none) (s : State) (a : Nat) (bs : List Byte) :
    ∃ m b, laneWrite s p a bs = (b, { s with govWin := m }) := by
  have hline (u : State) (l : Nat) : ∃ m b, laneWriteLine u p a bs l = (b, { u with govWin := m }) := by
    obtain ⟨hs, hx⟩ := laneXlate_governor h u l true
    rw [laneWriteLine]
    dsimp only
    generalize laneXlate u p l true = r at hs hx
    obtain ⟨x, v⟩ := r
    dsimp only at hs hx
    subst hs
    obtain ⟨o, rfl⟩ | ⟨code, rfl⟩ := hx
    · exact ⟨_, _, rfl⟩
    · exact ⟨v.govWin, _, rfl⟩
  unfold laneWrite
  refine List.foldlRecOn (motive := fun r => ∃ m b, r = (b, { s with govWin := m })) _ _ ⟨s.govWin, false, rfl⟩ ?_
  rintro r ⟨m, b, rfl⟩ l -
  obtain ⟨m', b', h'⟩ := hline { s with govWin := m } l
  dsimp only
  rw [h']
  exact ⟨m', _, rfl⟩

/-- The registers in which the end of a governor problem is seen. -/
def govEndRegs : List Nat :=
  [regAddr .slvEnd 0 4 0, regAddr .slvPivots 0 0 0, regAddr .slvDsissue 0 0 0, regAddr .govLstat 0 0 0]

/-- A governor problem has ended without a result: its window and the counters of its lane, no more. -/
structure GovEnds (s t : State) : Prop where
  sm : t.sm = s.sm
  next : t.nextProblem = s.nextProblem
  regs : SameRegsBut govEndRegs s t

theorem laneEnds_governor {p : Problem} {code : Nat} (htag : p.tag = none) (hlane : p.lane = some (0, 31))
    (hcode : code = 5 ∨ 5 < code) (s : State) : GovEnds s (laneEnds s p (bareEnd code 0 0) false) := by
  have hfin (u : State) (hsm : u.sm = s.sm) (hnext : u.nextProblem = s.nextProblem) (hregs : u.regs = s.regs) (m : LaneMark) :
      GovEnds s (countEnd (laneCounters u p (bareEnd code 0 0)) p (bareEnd code 0 0) m) := by
    have hset {v : State} {r : RegName} {i j : Nat} {x : W64} (hr : regAddr r 0 i j ∈ govEndRegs) :
        SameRegsBut govEndRegs v (setReg v r 0 i j x) :=
      sameRegs_setReg.mono fun a ha => by rwa [List.mem_singleton.1 ha]
    have hcounters : GovEnds s (laneCounters u p (bareEnd code 0 0)) := by
      rw [laneCounters, hlane]
      dsimp only
      obtain rfl | hbig := hcode
      · exact ⟨hsm, hnext, (SameRegsBut.of_eq hregs).trans ((hset (by simp [govEndRegs, bareEnd])).trans
          ((hset (by simp [govEndRegs])).trans (hset (by simp [govEndRegs]))))⟩
      · have hno : ¬(decide (1 ≤ (bareEnd code 0 0).code) && decide ((bareEnd code 0 0).code ≤ 5)) = true := fun h =>
          absurd (of_decide_eq_true (Bool.and_eq_true_iff.1 h).2) (show ¬code ≤ 5 by omega)
        rw [if_neg hno]
        exact ⟨hsm, hnext, (SameRegsBut.of_eq hregs).trans
          ((hset (by simp [govEndRegs])).trans (hset (by simp [govEndRegs])))⟩
    obtain ⟨hsm', hnext', hregs'⟩ := hcounters
    rw [countEnd, htag]
    exact ⟨hsm', hnext', hregs'.trans ((hset (by simp [govEndRegs])).trans (hset (by simp [govEndRegs])))⟩
  have hfinish (u : State) (hu : u = s) (r : LaneEnd) (hr : r = bareEnd code 0 0) (bad : Bool) (m : LaneMark) :
      GovEnds s (laneFinish u p r bad m) := by
    subst hu hr
    obtain ⟨w, b, h⟩ := laneWrite_governor htag u (p.addr + 128) (statusBlock u (bareEnd code 0 0) bad)
    rw [laneFinish, h]
    exact hfin (dropProblem { u with govWin := w } p) rfl rfl rfl _
  have harrays : writtenArrays p (bareEnd code 0 0) = ([], 0#8) := rfl
  rw [laneEnds, harrays]
  dsimp only
  obtain ⟨n, h⟩ | ⟨c, h⟩ := laneReach_governor htag true (laneLines (p.addr + 128) 64) s
  · rw [h]
    dsimp only
    exact hfinish s rfl _ rfl _ _
  · rw [h]
    exact hfin (dropProblem s p) rfl rfl rfl _

/-- The registers that a submission writes. -/
def submitRegs : List Nat := regAddr .govLsubmit 0 0 0 :: govEndRegs

theorem sameRegs_setLstat {s : State} {x : W64} : SameRegsBut submitRegs s (setReg s .govLstat 0 0 0 x) :=
  sameRegs_setReg.mono fun a ha => by rw [List.mem_singleton.1 ha]; simp [submitRegs, govEndRegs]

/-- A submission: what it writes, and the offset and the problem that one not refused leaves. -/
theorem govSubmit_leaves (s : State) (o : Nat) :
    (govSubmit s o).sm = s.sm ∧ SameRegsBut submitRegs s (govSubmit s o)
      ∧ (lsubmitRefused s = true → (govSubmit s o).problems = s.problems ∧ regBit (govSubmit s o) .govLstat 0 0 0 2 = true)
      ∧ (lsubmitRefused s = false → regFld (govSubmit s o) .govLsubmit 0 0 0 0 16 = o % 2 ^ 16
          ∧ (govSubmit s o).nextProblem = s.nextProblem + 1) := by
  cases hrefused : lsubmitRefused s with
  | true =>
    rw [govSubmit, if_pos hrefused]
    refine ⟨rfl, sameRegs_setLstat, fun _ => ⟨rfl, ?_⟩, nofun⟩
    exact regBit_setFld s .govLstat 0 0 0 true (by decide)
  | false =>
    obtain ⟨p, u, c, d, htag, hlane, hsm, hnext, hregs, hsubmit, heq⟩ : ∃ (p : Problem) (u : State) (c d : Bool), p.tag = none
        ∧ p.lane = some (0, 31) ∧ u.sm = s.sm ∧ u.nextProblem = s.nextProblem + 1 ∧ SameRegsBut submitRegs s u
        ∧ regFld u .govLsubmit 0 0 0 0 16 = o % 2 ^ 16
        ∧ govSubmit s o = if c then laneEnds u p (bareEnd codeSegFault 0 0) false
            else if d then u else laneEnds u p (bareEnd 5 0 0) false := by
      have hfirst : SameRegsBut submitRegs s (setFld s .govLsubmit 0 0 0 0 16 o) :=
        sameRegs_setReg.mono fun a ha => by rw [List.mem_singleton.1 ha]; simp [submitRegs]
      have hfld : regFld (setFld (setFld s .govLsubmit 0 0 0 0 16 o) .govLstat 0 0 0 0 1 1) .govLsubmit 0 0 0 0 16 = o % 2 ^ 16 := by
        have hstat : SameRegsBut [regAddr .govLstat 0 0 0] (setFld s .govLsubmit 0 0 0 0 16 o)
          (setFld (setFld s .govLsubmit 0 0 0 0 16 o) .govLstat 0 0 0 0 1 1) := sameRegs_setReg
        rw [hstat.regFld 0 16 (by decide), regFld_setFld _ _ _ _ _ _ (by decide)]
      refine ⟨{ problemOf (memRead s.govWin o 128) s.nextProblem none 0 0 true false (govBase + o) 0 with lane := some (0, 31) },
        { setFld (setFld s .govLsubmit 0 0 0 0 16 o) .govLstat 0 0 0 0 1 1 with
            problems := s.problems ++ [{ problemOf (memRead s.govWin o 128) s.nextProblem none 0 0 true false (govBase + o) 0 with
              lane := some (0, 31) }]
            nextProblem := s.nextProblem + 1 }, decide (govSize < o + 192),
        descCommon (memRead s.govWin o 128) && descKind (memRead s.govWin o 128), rfl, rfl, rfl, rfl,
        hfirst.trans (sameRegs_setLstat.trans (.of_eq rfl)), hfld, ?_⟩
      rw [govSubmit, if_neg (by rw [hrefused]; decide)]
      simp only [decide_eq_true_eq]
      rfl
    have hgov (code : Nat) (hcode : code = 5 ∨ 5 < code) : GovEnds u (laneEnds u p (bareEnd code 0 0) false) :=
      laneEnds_governor htag hlane hcode u
    have hsame : GovEnds u (govSubmit s o) := by
      rw [heq]
      split
      · exact hgov _ (.inr (by decide))
      · split
        · exact ⟨rfl, rfl, .of_eq rfl⟩
        · exact hgov 5 (.inl rfl)
    refine ⟨hsame.sm.trans hsm, hregs.trans (hsame.regs.mono fun a ha => List.mem_cons_of_mem _ ha), nofun, fun _ => ⟨?_, ?_⟩⟩
    · rw [hsame.regs.regFld 0 16 (by decide)]
      exact hsubmit
    · exact hsame.next.trans hnext

theorem govLsubmit_outcome {s : State} (offset : BitVec 16) (hworks : smWorks s = true) :
    Completes (.govLsubmit offset) s fun t => PlatformKept s t
      ∧ (lsubmitRefused s = true → t.problems = s.problems ∧ regBit t .govLstat 0 0 0 2 = true)
      ∧ (lsubmitRefused s = false → offset.toNat % 64 ≠ 0 → t.problems = s.problems ∧ t.log.seq = s.log.seq + 1)
      ∧ (regBit s .govLstat 0 0 0 0 = true → lsubmitRefused s = true)
      ∧ (offset.toNat % 64 = 0 → regBit s .govLstat 0 0 0 0 = false → laneReserved s = true → s.power.warm = false →
          s.power.dataPlane = false → regFld t .govLsubmit 0 0 0 0 16 = offset.toNat
            ∧ t.nextProblem = s.nextProblem + 1) := by
  have hexec : exec (.govLsubmit offset) s = .next (if lsubmitRefused s || offset.toNat % 64 = 0 then govSubmit s offset.toNat
      else post s .rangeRefused 10 0 none 0 (regAddr .govLsubmit 0 0 0)) := whenDue_pos hworks ..
  obtain ⟨-, -, hrefused, htaken⟩ := govSubmit_leaves s offset.toNat
  refine ⟨_, hexec, (execGovLsubmit_changes.next hexec).platformKept, fun h => ?_, fun h hskew => ?_, fun h => ?_,
    fun halign hfree hlane hwarm hplane => ?_⟩
  · rw [if_pos (by simp [h])]
    exact hrefused h
  · rw [if_neg (by simp [h, hskew])]
    exact ⟨post_changes.problems, post_seq ..⟩
  · simp [lsubmitRefused, h]
  · have hgo : lsubmitRefused s = false := by simp [lsubmitRefused, hfree, hlane, hwarm, hplane]
    rw [if_pos (by simp [halign])]
    obtain ⟨hoffset, hnext⟩ := htaken hgo
    rw [Nat.mod_eq_of_lt offset.isLt] at hoffset
    exact ⟨hoffset, hnext⟩

/-! ### The quadrants, one after another -/

/-- Steps of the four quadrants, each of which changes what is observed of its own quadrant alone. -/
theorem foldl_quadrants {α : Type} {obs : State → Nat → α} {f : State → Nat → State} {g : Nat → α → α} {I : State → Prop}
    (hI : ∀ s q, q < 4 → I s → I (f s q))
    (hf : ∀ s q q', I s → q < 4 → q' < 4 → obs (f s q) q' = if q' = q then g q (obs s q) else obs s q')
    {s : State} (hs : I s) {q : Nat} (hq : q < 4) : obs ((List.range 4).foldl f s) q = g q (obs s q) := by
  have hall (l : List Nat) (hl : ∀ x ∈ l, x < 4) (hnd : l.Nodup) (s : State) (hs : I s) :
      obs (l.foldl f s) q = if q ∈ l then g q (obs s q) else obs s q := by
    induction l generalizing s with
    | nil => rfl
    | cons x l ih =>
      have hx := hl x List.mem_cons_self
      obtain ⟨hnotin, hnd⟩ := List.nodup_cons.1 hnd
      rw [List.foldl_cons, ih (fun y hy => hl y (List.mem_cons_of_mem _ hy)) hnd _ (hI s x hx hs), hf s x q hs hx hq]
      by_cases hqx : q = x
      · subst hqx
        rw [if_neg hnotin, if_pos rfl, if_pos List.mem_cons_self]
      · simp only [List.mem_cons, hqx, false_or, if_false]
  rw [hall _ (fun x hx => List.mem_range.1 hx) List.nodup_range s hs, if_pos (List.mem_range.2 hq)]

theorem foldl_keeps {I : State → Prop} {f : State → Nat → State} (hI : ∀ s q, q < 4 → I s → I (f s q)) {s : State} (hs : I s) :
    I ((List.range 4).foldl f s) :=
  List.foldlRecOn _ f hs fun t ht q hq => hI t q (List.mem_range.1 hq) ht

/-! ### Clocks and AVSBus (R577 to R579) -/

/-- The registers of the rails: all that moves a quadrant's clock writes, but the clock. -/
def railRegs (q : Nat) : List Nat := logCounts ++ [regAddr .govAllot 0 q 0, regAddr .govQvolt 0 q 0, regAddr .govStatus 0 0 0]

/-- The Stationmaster's state, but for its counts of failed transactions. -/
def SameBut (x y : SmSt) : Prop := ∃ n, y = { x with avsFails := n }

theorem SameBut.refl (x : SmSt) : SameBut x x := ⟨x.avsFails, rfl⟩

theorem SameBut.trans {x y z : SmSt} (h : SameBut x y) (k : SameBut y z) : SameBut x z := by
  obtain ⟨n, rfl⟩ := h
  obtain ⟨m, rfl⟩ := k
  exact ⟨m, rfl⟩

/-- A step of the rails that moves no clock. -/
structure RailStep (q : Nat) (s t : State) : Prop where
  sm : SameBut s.sm t.sm
  regs : SameRegsBut (railRegs q) s t

theorem RailStep.refl (q : Nat) (s : State) : RailStep q s s := ⟨.refl _, .of_eq rfl⟩

theorem RailStep.trans {q : Nat} {s t u : State} (h : RailStep q s t) (k : RailStep q t u) : RailStep q s u :=
  ⟨h.sm.trans k.sm, h.regs.trans k.regs⟩

theorem railStep_setReg {q : Nat} {s : State} {r : RegName} {i : Nat} {v : W64} (hr : regAddr r 0 i 0 ∈ railRegs q) :
    RailStep q s (setReg s r 0 i 0 v) :=
  ⟨.refl _, sameRegs_setReg.mono fun a ha => by rwa [List.mem_singleton.1 ha]⟩

theorem railStep_setAllot (q : Nat) (s : State) (mw : Nat) : RailStep q s (setAllot s q mw) :=
  railStep_setReg (by simp [railRegs])

theorem railStep_setVolt (q : Nat) (s : State) (mhz : Nat) : RailStep q s (setVolt s q mhz) :=
  railStep_setReg (by simp [railRegs])

theorem railStep_avsResult (q q' : Nat) (s : State) (ok : Bool) : RailStep q s (avsResult s q' ok) := by
  have hstatus {u : State} {v : W64} : RailStep q u (setReg u .govStatus 0 0 0 v) := railStep_setReg (by simp [railRegs])
  have hpost (u : State) (arg : Nat) : RailStep q u (post u .vregFault 10 0 none arg 0) :=
    ⟨by rw [Changes.sm post_changes]; exact .refl _, sameRegs_post.mono fun a ha => List.mem_append_left _ ha⟩
  have hcount (n : List Nat) : RailStep q s (setSm s { s.sm with avsFails := n }) := ⟨⟨n, rfl⟩, .of_eq rfl⟩
  unfold avsResult
  dsimp only
  split
  · exact (hcount _).trans hstatus
  · split
    · exact ((hcount _).trans hstatus).trans (hpost ..)
    · exact hcount _

theorem railStep_avsTry (q q' : Nat) (s : State) (ok : Bool) : RailStep q s (avsTry s q' ok) := by
  unfold avsTry
  split
  · exact railStep_avsResult ..
  · exact (railStep_avsResult ..).trans (railStep_avsResult ..)

theorem regFld_lt (s : State) (r : RegName) (u i j lsb w : Nat) : regFld s r u i j lsb w < 2 ^ w :=
  Nat.mod_lt _ (Nat.two_pow_pos w)

theorem govQclk_notMem_railRegs (q : Nat) {q' : Nat} (hq : q' < 4) : regAddr .govQclk 0 q' 0 ∉ railRegs q := by
  simp only [railRegs, logCounts, regAddr, regInfo, blkBase, List.mem_cons, List.mem_append, List.not_mem_nil, or_false]
  omega

theorem RailStep.govClk {q : Nat} {s t : State} (h : RailStep q s t) {q' : Nat} (hq : q' < 4) : govClk t q' = govClk s q' :=
  h.regs.regFld 0 11 (govQclk_notMem_railRegs q hq)

theorem govClk_setClk (s : State) (q q' mhz : Nat) (h : mhz < 2 ^ 11) :
    govClk (setClk s q mhz) q' = if q' = q then mhz else govClk s q' := by
  unfold govClk setClk
  split
  · next he =>
    rw [he, regFld_setFld _ _ _ _ _ _ (by decide), Nat.mod_eq_of_lt h]
  · next hne =>
    have hone : SameRegsBut [regAddr .govQclk 0 q 0] s (setFld s .govQclk 0 q 0 0 11 mhz) := sameRegs_setReg
    refine hone.regFld 0 11 ?_
    simp only [regAddr, regInfo, blkBase, List.mem_singleton]
    omega

theorem passDown_sm (s : State) (q t mw : Nat) (ok : Bool) : SameBut s.sm (passDown s q t mw ok).sm := by
  have hrail : SameBut s.sm (avsTry (setAllot (setClk s q t) q mw) q ok).sm := (railStep_avsTry q q _ ok).sm
  unfold passDown
  dsimp only
  split
  · split
    · exact hrail
    · exact hrail
  · exact .refl _

theorem passUp_sm (s : State) (q t mw : Nat) (ok : Bool) : SameBut s.sm (passUp s q t mw ok).sm := by
  have hrail : SameBut s.sm (avsTry (setAllot s q mw) q ok).sm := (railStep_avsTry q q (setAllot s q mw) ok).sm
  unfold passUp
  dsimp only
  split
  · split
    · exact hrail
    · exact hrail
  · exact .refl _

theorem passDown_ok (s : State) {q t : Nat} (mw : Nat) :
    SameBut s.sm (passDown s q t mw true).sm
      ∧ ∀ q', q' < 4 → govClk (passDown s q t mw true) q' = if q' = q then min (govClk s q) t else govClk s q' := by
  by_cases h : t < govClk s q
  · have hlt : t < 2 ^ 11 := Nat.lt_trans h (regFld_lt ..)
    have hrest : RailStep q (setClk s q t) (passDown s q t mw true) := by
      rw [passDown, if_pos h]
      exact ((railStep_setAllot ..).trans (railStep_avsTry ..)).trans (railStep_setVolt ..)
    refine ⟨hrest.sm, fun q' hq' => ?_⟩
    rw [hrest.govClk hq', govClk_setClk _ _ _ _ hlt, Nat.min_eq_right (Nat.le_of_lt h)]
  · rw [passDown, if_neg h, Nat.min_eq_left (Nat.le_of_not_lt h)]
    refine ⟨.refl _, fun q' _ => ?_⟩
    split
    · next he => rw [he]
    · rfl

theorem passUp_ok (s : State) {q t : Nat} (mw : Nat) (ht : t < 2 ^ 11) :
    SameBut s.sm (passUp s q t mw true).sm
      ∧ ∀ q', q' < 4 → govClk (passUp s q t mw true) q' = if q' = q then max (govClk s q) t else govClk s q' := by
  by_cases h : govClk s q < t
  · have hrest : RailStep q s (setVolt (avsTry (setAllot s q mw) q true) q t) :=
      ((railStep_setAllot ..).trans (railStep_avsTry ..)).trans (railStep_setVolt ..)
    have heq : passUp s q t mw true = setClk (setVolt (avsTry (setAllot s q mw) q true) q t) q t := if_pos h
    refine ⟨by rw [heq]; exact hrest.sm, fun q' hq' => ?_⟩
    rw [heq, govClk_setClk _ _ _ _ ht, hrest.govClk hq', Nat.max_eq_right (Nat.le_of_lt h)]
  · rw [passUp, if_neg h, Nat.max_eq_left (Nat.le_of_not_lt h)]
    refine ⟨.refl _, fun q' _ => ?_⟩
    split
    · next he => rw [he]
    · rfl

/-! ### Results (R587 to R590) -/

theorem clkTarget_lt (s : State) (q : Nat) (f : Num) : clkTarget s q f < 2 ^ 11 := by
  have hlimit : clkLimit s q < 2 ^ 11 := by
    unfold clkLimit
    split
    · decide
    · split
      · exact regFld_lt ..
      · decide
  unfold clkTarget
  omega

/-- Reporting the state moves no clock, and keeps the count of unusable results. -/
theorem govRefresh_leaves (s : State) : (∀ q, q < 4 → govClk (govRefresh s) q = govClk s q)
    ∧ regFld (govRefresh s) .govStatus 0 0 0 4 4 = regFld s .govStatus 0 0 0 4 4 := by
  have hset (x : Nat) : (∀ q, q < 4 → govClk (setFld s .govStatus 0 0 0 0 2 x) q = govClk s q)
      ∧ regFld (setFld s .govStatus 0 0 0 0 2 x) .govStatus 0 0 0 4 4 = regFld s .govStatus 0 0 0 4 4 := by
    have hone : SameRegsBut [regAddr .govStatus 0 0 0] s (setFld s .govStatus 0 0 0 0 2 x) := sameRegs_setReg
    refine ⟨fun q hq => hone.regFld 0 11 ?_, ?_⟩
    · simp only [regAddr, regInfo, blkBase, List.mem_singleton]
      omega
    · rw [setFld, regFld_setReg, fGet_fSet_above _ (by decide) (by decide)]
      rfl
  obtain ⟨x, c, h⟩ : ∃ x, ∃ c : Bool, govRefresh s = if c then bump (setFld s .govStatus 0 0 0 0 2 x) .govFallbacks 0 0 0 1
      else setFld s .govStatus 0 0 0 0 2 x := ⟨_, _, rfl⟩
  rw [h]
  split
  · have hbump : SameRegsBut [regAddr .govFallbacks 0 0 0] (setFld s .govStatus 0 0 0 0 2 x)
        (bump (setFld s .govStatus 0 0 0 0 2 x) .govFallbacks 0 0 0 1) := sameRegs_setReg
    refine ⟨fun q hq => (hbump.regFld 0 11 ?_).trans ((hset x).1 q hq), (hbump.regFld 4 4 (by decide)).trans (hset x).2⟩
    simp only [regAddr, regInfo, blkBase, List.mem_singleton]
    omega
  · exact hset x

/-- A usable result whose transactions all succeed sets every clock, and the count of unusable ones to 0. -/
theorem govApply_sets (s : State) (f : List Num) (allot : List Nat) :
    regFld (govApply s f allot 0#4) .govStatus 0 0 0 4 4 = 0
      ∧ ∀ q, q < 4 → govClk (govApply s f allot 0#4) q = clkTarget s q (f.getD q .nan) := by
  have hok (q : Nat) : (!(0#4).getLsbD q) = true := by simp
  have hts {q : Nat} (hq : q < 4) : ((List.range 4).map fun q => clkTarget s q (f.getD q .nan)).getD q 600
      = clkTarget s q (f.getD q .nan) := by
    rw [List.getD_eq_getElem?_getD, List.getElem?_map, List.getElem?_range hq]
    rfl
  generalize hlist : ((List.range 4).map fun q => clkTarget s q (f.getD q .nan)) = ts at hts
  have hts' {q : Nat} (hq : q < 4) : ts.getD q 600 < 2 ^ 11 := by
    rw [hts hq]
    exact clkTarget_lt ..
  set down := (List.range 4).foldl (fun s q => passDown s q (ts.getD q 600) (allot.getD q 0) true) s with hdown
  set up := (List.range 4).foldl (fun s q => passUp s q (ts.getD q 600) (allot.getD q 0) true) down with hup
  set last := (List.range 4).foldl (fun s q => setAllot s q (allot.getD q 0)) up with hlast
  have heq : govApply s f allot 0#4 = setFld last .govStatus 0 0 0 4 4 0 := by
    unfold govApply
    dsimp only
    simp only [hlist, hok]
    rfl
  have hfall {q : Nat} (hq : q < 4) : govClk down q = min (govClk s q) (ts.getD q 600) :=
    foldl_quadrants (g := fun q c => min c (ts.getD q 600)) (I := fun _ => True) (fun _ _ _ _ => trivial)
      (fun s q q' _ _ hq' => (passDown_ok s (allot.getD q 0)).2 q' hq') trivial hq
  have hrise {q : Nat} (hq : q < 4) : govClk up q = max (govClk down q) (ts.getD q 600) :=
    foldl_quadrants (g := fun q c => max c (ts.getD q 600)) (I := fun _ => True) (fun _ _ _ _ => trivial)
      (fun s q q' _ hq hq' => (passUp_ok s (allot.getD q 0) (hts' hq)).2 q' hq') trivial hq
  have hsame {q : Nat} (hq : q < 4) : govClk last q = govClk up q :=
    foldl_keeps (I := fun t => govClk t q = govClk up q) (fun t q' _ h => ((railStep_setAllot q' t _).govClk hq).trans h) rfl
  rw [heq]
  refine ⟨regFld_setFld _ _ _ _ _ _ (by decide), fun q hq => ?_⟩
  have hone : SameRegsBut [regAddr .govStatus 0 0 0] last (setFld last .govStatus 0 0 0 4 4 0) := sameRegs_setReg
  have hnot : regAddr .govQclk 0 q 0 ∉ [regAddr .govStatus 0 0 0] := by
    simp only [regAddr, regInfo, blkBase, List.mem_singleton]
    omega
  calc govClk (setFld last .govStatus 0 0 0 4 4 0) q = govClk last q := hone.regFld 0 11 hnot
    _ = max (min (govClk s q) (ts.getD q 600)) (ts.getD q 600) := by rw [hsame hq, hrise hq, hfall hq]
    _ = clkTarget s q (f.getD q .nan) := by rw [Nat.max_eq_right (Nat.min_le_right ..), hts hq]

theorem govApply_sm (s : State) (f : List Num) (allot : List Nat) (avs : BitVec 4) : SameBut s.sm (govApply s f allot avs).sm := by
  have hfold {g : State → Nat → State} (hg : ∀ t q, SameBut t.sm (g t q).sm) {t : State} (ht : SameBut s.sm t.sm) :
      SameBut s.sm ((List.range 4).foldl g t).sm :=
    foldl_keeps (I := fun u => SameBut s.sm u.sm) (fun u q _ h => h.trans (hg u q)) ht
  have hset (u : State) : (setFld u .govStatus 0 0 0 4 4 0).sm = u.sm := rfl
  unfold govApply
  dsimp only
  rw [hset]
  refine hfold (fun t q => ?_) (hfold (fun t q => passUp_sm ..) (hfold (fun t q => passDown_sm ..) (.refl _)))
  exact .refl t.sm

/-- What the end of a governor problem leaves before its result is applied, or counted as unusable. -/
theorem govEnds_shape (s : State) (late : Bool) (allot : List Nat) (avs : BitVec 4) :
    ∃ u, u.sm.solving = false ∧ (∀ q, q < 4 → ∀ f, clkTarget u q f = clkTarget s q f) ∧ (∀ q, q < 4 → govClk u q = govClk s q)
      ∧ regFld u .govStatus 0 0 0 4 4 = regFld s .govStatus 0 0 0 4 4
      ∧ govEnds s late allot avs = govRefresh (if regBit s .govLstat 0 0 0 1 && (govResult s).2.1 && !late
          then govApply u (govResult s).2.2 allot avs else govUnusable u) := by
  have hclk {v : State} (hregs : ∀ l w, l + w ≤ 8 ∨ 16 ≤ l → regFld v .govStatus 0 0 0 l w = regFld s .govStatus 0 0 0 l w)
      (hq : ∀ q, q < 4 → govClk v q = govClk s q) (hthrottle : v.sm.throttle = s.sm.throttle) (q : Nat) (hq4 : q < 4) (f : Num) :
      clkTarget v q f = clkTarget s q f := by
    have hstuck : stuck v q = stuck s q := by
      rw [stuck, regBit, hregs _ _ (.inr (by omega))]
      rfl
    rw [clkTarget, clkLimit, hthrottle, hstuck, hq q hq4]
    rfl
  by_cases hdone : regBit s .govLstat 0 0 0 1 = true
  · have hkeep (u : State) : (govKeep u).regs = u.regs ∧ (govKeep u).sm.solving = u.sm.solving
        ∧ (govKeep u).sm.throttle = u.sm.throttle := by
      unfold govKeep
      dsimp only
      split <;> exact ⟨rfl, rfl, rfl⟩
    have hwritten : SameRegsBut [regAddr .govStatus 0 0 0] s
        (setFld (setSm s { s.sm with solving := false }) .govStatus 0 0 0 8 8 (govResult s).1) := sameRegs_setReg
    have hfld (l w : Nat) (h : l + w ≤ 8 ∨ 16 ≤ l) :
        regFld (setFld (setSm s { s.sm with solving := false }) .govStatus 0 0 0 8 8 (govResult s).1) .govStatus 0 0 0 l w
          = regFld s .govStatus 0 0 0 l w := by
      rw [setFld, regFld_setReg]
      obtain h | h := h
      · rw [fGet_fSet_below _ (by decide) h]
        rfl
      · rw [fGet_fSet_above _ (by decide) h]
        rfl
    have hends : govEnds s late allot avs = govRefresh (if regBit s .govLstat 0 0 0 1 && (govResult s).2.1 && !late
        then govApply (govKeep (setFld (setSm s { s.sm with solving := false }) .govStatus 0 0 0 8 8 (govResult s).1))
          (govResult s).2.2 allot avs
        else govUnusable (govKeep (setFld (setSm s { s.sm with solving := false }) .govStatus 0 0 0 8 8 (govResult s).1))) := by
      have hbit : regBit (setSm s { s.sm with solving := false }) .govLstat 0 0 0 1 = true := hdone
      rw [govEnds]
      dsimp only
      rw [hbit, hdone, if_pos rfl]
      rfl
    generalize hu : setFld (setSm s { s.sm with solving := false }) .govStatus 0 0 0 8 8 (govResult s).1 = u at *
    obtain ⟨hregs, hsolving, hthrottle⟩ := hkeep u
    have hregs' (r : RegName) (i j l w : Nat) : regFld (govKeep u) r 0 i j l w = regFld u r 0 i j l w := by
      rw [regFld, regVal_congr hregs, regFld]
    have hclks (q : Nat) (hq : q < 4) : govClk (govKeep u) q = govClk s q := by
      rw [govClk, hregs', hwritten.regFld 0 11]
      · rfl
      · simp only [regAddr, regInfo, blkBase, List.mem_singleton]
        omega
    have hsm : u.sm = { s.sm with solving := false } := by rw [← hu]; rfl
    refine ⟨govKeep u, by rw [hsolving, hsm], ?_, hclks, by rw [hregs', hfld 4 4 (.inl (by decide))], hends⟩
    exact hclk (fun l w h => by rw [hregs', hfld l w h]) hclks (by rw [hthrottle, hsm])
  · refine ⟨setSm s { s.sm with solving := false }, rfl, fun q _ f => rfl, fun q _ => rfl, rfl, ?_⟩
    have hbit : ¬regBit (setSm s { s.sm with solving := false }) .govLstat 0 0 0 1 = true := hdone
    rw [govEnds]
    dsimp only
    rw [if_neg hbit]
    rfl

theorem govUnusable_leaves (s : State) :
    regFld (govUnusable s) .govStatus 0 0 0 4 4 = min 15 (regFld s .govStatus 0 0 0 4 4 + 1)
      ∧ ∀ q, q < 4 → govClk (govUnusable s) q = govClk s q := by
  have hone : SameRegsBut [regAddr .govStatus 0 0 0] s (govUnusable s) := sameRegs_setReg
  refine ⟨?_, fun q hq => hone.regFld 0 11 ?_⟩
  · rw [govUnusable, regFld_setFld _ _ _ _ _ _ (by decide), Nat.mod_eq_of_lt]
    omega
  · simp only [regAddr, regInfo, blkBase, List.mem_singleton]
    omega

theorem governorProblemEnd_outcome {s : State} {allot : List Nat} (avs : BitVec 4) (hworks : smWorks s = true)
    (hsolving : s.sm.solving = true)
    (hended : regBit s .govLstat 0 0 0 1 = true ∨ regBit s .govLstat 0 0 0 2 = true ∨ (s.sm.cycleAt.getD 0) + 240000 < nsOf s.now)
    (hlen : allot.length = 4) (hsum : allot.sum ≤ budget s) :
    let late : Prop := (s.sm.cycleAt.getD 0) + 240000 < nsOf s.now
    let done := regBit s .govLstat 0 0 0 1
    let r := govResult s
    Completes (.governorProblemEnd allot avs) s fun t => PlatformKept s t ∧ t.sm.solving = false
      ∧ (done = true → r.2.1 = true → ¬late → avs = 0#4 → regFld t .govStatus 0 0 0 4 4 = 0
          ∧ ∀ q, q < 4 → govClk t q = clkTarget s q (r.2.2.getD q .nan))
      ∧ (¬(done = true ∧ r.2.1 = true ∧ ¬late) →
          regFld t .govStatus 0 0 0 4 4 = min 15 (regFld s .govStatus 0 0 0 4 4 + 1)
            ∧ ∀ q, q < 4 → govClk t q = govClk s q) := by
  intro late done r
  have hdue : (smWorks s && s.sm.solving && (regBit s .govLstat 0 0 0 1 || regBit s .govLstat 0 0 0 2 || decide late)
      && allot.length == 4 && allot.sum ≤ budget s) = true := by
    have hlate : decide late = true ↔ late := decide_eq_true_iff
    simp only [Bool.and_eq_true, Bool.or_eq_true, hlate, beq_iff_eq, decide_eq_true_eq]
    exact ⟨⟨⟨⟨hworks, hsolving⟩, or_assoc.2 hended⟩, hlen⟩, hsum⟩
  have hexec : exec (.governorProblemEnd allot avs) s = .next (govEnds s (decide late) allot avs) := whenDue_pos hdue ..
  obtain ⟨u, husolving, htarget, hclk, hcount, hends⟩ := govEnds_shape s (decide late) allot avs
  have hused : (done && r.2.1 && !decide late) = true ↔ done = true ∧ r.2.1 = true ∧ ¬late := by
    simp only [Bool.and_eq_true, Bool.not_eq_true', decide_eq_false_iff_not, and_assoc]
  refine ⟨_, hexec, (execGovernorProblemEnd_changes.next hexec).platformKept, ?_, fun hd hu hl havs => ?_, fun hno => ?_⟩
  · have happlied : (govApply u r.2.2 allot avs).sm.solving = false := by
      obtain ⟨n, hn⟩ := govApply_sm u r.2.2 allot avs
      rw [hn]
      exact husolving
    have hunused : (govUnusable u).sm.solving = false := husolving
    have hboth (c : Bool) : (if c = true then govApply u r.2.2 allot avs else govUnusable u).sm.solving = false := by
      cases c
      · exact hunused
      · exact happlied
    rw [hends, Changes.sm govRefresh_changes]
    exact hboth _
  · subst havs
    rw [hends, if_pos (hused.2 ⟨hd, hu, hl⟩)]
    obtain ⟨hzero, hclks⟩ := govApply_sets u r.2.2 allot
    obtain ⟨hq, hf⟩ := govRefresh_leaves (govApply u r.2.2 allot 0#4)
    exact ⟨hf.trans hzero, fun q h => ((hq q h).trans (hclks q h)).trans (htarget q h _)⟩
  · rw [hends, if_neg fun h => hno (hused.1 h)]
    obtain ⟨hmore, hclks⟩ := govUnusable_leaves u
    obtain ⟨hq, hf⟩ := govRefresh_leaves (govUnusable u)
    exact ⟨(hf.trans hmore).trans (by rw [hcount]), fun q h => ((hq q h).trans (hclks q h)).trans (hclk q h)⟩

/-! ### The fallback rule (R591) -/

theorem fallbackStep_down (s : State) {q : Nat} (mw : Nat) :
    SameBut s.sm (fallbackStep s true q mw true).sm
      ∧ ∀ q', q' < 4 → govClk (fallbackStep s true q mw true) q' = if q' = q
          then (if s.sm.throttle.getLsbD q = true then govClk s q else min (govClk s q) (max 600 (govClk s q - 25)))
          else govClk s q' := by
  unfold fallbackStep
  dsimp only
  split
  · refine ⟨.refl _, fun q' _ => ?_⟩
    split
    · next he => rw [he]
    · rfl
  · exact passDown_ok s mw

theorem fallbackTick_outcome {s : State} {allot : List Nat} (hworks : smWorks s = true) (hstate : govState s ≠ 1)
    (hrails : s.power.rails = .on) (hlen : allot.length = 4) : Completes (.fallbackTick allot 0#4) s fun t =>
      PlatformKept s t ∧ t.problems = s.problems
        ∧ (effectiveCap s * 1000 < boardPower s → ∀ q, q < 4 → govClk t q =
            (if s.sm.throttle.getLsbD q = true then govClk s q else min (govClk s q) (max 600 (govClk s q - 25)))) := by
  have hexec : exec (.fallbackTick allot 0#4) s = .next (fallback s allot 0#4) :=
    whenDue_pos (by simp [hworks, hstate, hrails, hlen]) ..
  refine ⟨_, hexec, (execFallbackTick_changes.next hexec).platformKept, Changes.problems fallback_changes, fun hover q hq => ?_⟩
  have hok (q : Nat) : (!(0#4).getLsbD q) = true := by simp
  have hdown : fallback s allot 0#4 = (List.range 4).foldl (fun s q => fallbackStep s true q (allot.getD q 0) true) s := by
    rw [fallback, if_pos hover]
    simp only [hok]
  rw [hdown]
  refine foldl_quadrants (I := fun t => t.sm.throttle = s.sm.throttle)
    (g := fun q c => if s.sm.throttle.getLsbD q = true then c else min c (max 600 (c - 25))) (fun t q _ ht => ?_)
    (fun t q q' ht hq hq' => ?_) rfl hq
  · obtain ⟨n, hn⟩ := (fallbackStep_down t (q := q) (allot.getD q 0)).1
    exact (congrArg SmSt.throttle hn).trans ht
  · rw [(fallbackStep_down t (allot.getD q 0)).2 q' hq', ht]

/-! ### Thermal limits (R580, R581, Table 15.7) -/

/-- TJ_THROTTLE of a quadrant at a temperature. -/
def throttled (x : Int) (on : Bool) : Bool := decide (celsius 105 ≤ x) || on && decide (celsius 100 ≤ x)

theorem getLsbD_set_bit (v : BitVec 4) {q q' : Nat} (hq' : q' < 4) :
    (v ||| 1#4 <<< q).getLsbD q' = (v.getLsbD q' || decide (q' = q)) := by
  rw [BitVec.getLsbD_or, BitVec.getLsbD_shiftLeft]
  by_cases h : q' = q
  · subst h
    simp [hq']
  · simp only [h, decide_false, Bool.or_false, hq', decide_true, Bool.true_and]
    by_cases hlt : q' < q
    · simp [hlt]
    · have hone : (1#4).getLsbD (q' - q) = false := by
        rw [BitVec.getLsbD_one]
        simp
        omega
      simp [hone]

theorem getLsbD_clear_bit (v : BitVec 4) {q q' : Nat} (hq' : q' < 4) :
    (v &&& ~~~(1#4 <<< q)).getLsbD q' = (v.getLsbD q' && !decide (q' = q)) := by
  have hbit := getLsbD_set_bit 0#4 (q := q) hq'
  rw [BitVec.zero_or, BitVec.getLsbD_zero, Bool.false_or] at hbit
  rw [BitVec.getLsbD_and, BitVec.getLsbD_not, hbit]
  simp [hq']

/-- The sample of a quadrant moves its own bit of throttle and its own clock. -/
theorem throttleQ_moves (s : State) {q : Nat} (mw : Nat) :
    (throttleQ s q mw).sm = { s.sm with throttle := (throttleQ s q mw).sm.throttle }
      ∧ ∀ q', q' < 4 → ((throttleQ s q mw).sm.throttle.getLsbD q', govClk (throttleQ s q mw) q') = if q' = q
          then (throttled (s.sm.temps.getD q 0) (s.sm.throttle.getLsbD q),
            if s.sm.throttle.getLsbD q = false ∧ celsius 105 ≤ s.sm.temps.getD q 0 then 600 else govClk s q)
          else (s.sm.throttle.getLsbD q', govClk s q') := by
  unfold throttleQ
  dsimp only
  generalize hx : s.sm.temps.getD q 0 = x
  by_cases hon : s.sm.throttle.getLsbD q = true
  · rw [hon, if_neg (by simp)]
    by_cases hcool : x < celsius 100
    · rw [if_pos (by simpa using hcool)]
      refine ⟨rfl, fun q' hq' => ?_⟩
      have hthrottled : throttled x true = false := by
        simp only [throttled, Bool.true_and, Bool.or_eq_false_iff, decide_eq_false_iff_not]
        simp only [celsius] at hcool ⊢
        omega
      have hclk : govClk (setSm s { s.sm with throttle := s.sm.throttle &&& ~~~(1#4 <<< q) }) q' = govClk s q' := rfl
      rw [hclk]
      show ((s.sm.throttle &&& ~~~(1#4 <<< q)).getLsbD q', _) = _
      rw [getLsbD_clear_bit _ hq', hthrottled]
      by_cases he : q' = q
      · subst he; simp
      · simp [he]
    · rw [if_neg (by simpa using hcool)]
      refine ⟨rfl, fun q' hq' => ?_⟩
      have hthrottled : throttled x true = true := by
        simp only [throttled, Bool.true_and, Bool.or_eq_true, decide_eq_true_eq]
        simp only [celsius] at hcool ⊢
        omega
      rw [hthrottled]
      split
      · next he => subst he; simp [hon]
      · rfl
  · rw [Bool.not_eq_true] at hon
    rw [hon]
    by_cases hhot : celsius 105 ≤ x
    · have hpost (u : State) : (post u .thermalThrottle 10 0 none q 0).sm = u.sm := Changes.sm post_changes
      rw [if_pos (by simpa using hhot), hpost]
      refine ⟨rfl, fun q' hq' => ?_⟩
      have hlog (u : State) : govClk (post u .thermalThrottle 10 0 none q 0) q' = govClk u q' :=
        sameRegs_post.regFld 0 11 fun h => govQclk_notMem_railRegs q hq' (List.mem_append_left _ h)
      rw [hlog, (railStep_setAllot q _ mw).govClk hq', govClk_setClk _ _ _ _ (by decide)]
      show ((s.sm.throttle ||| 1#4 <<< q).getLsbD q', _) = _
      rw [getLsbD_set_bit _ hq']
      have hthrottled : throttled x false = true := by simp [throttled, hhot]
      rw [hthrottled]
      by_cases he : q' = q
      · subst he; simp [hhot]
      · simp only [he, decide_false, Bool.or_false, if_false]
        rfl
    · rw [if_neg (by simpa using hhot), if_neg (by simp)]
      refine ⟨rfl, fun q' hq' => ?_⟩
      have hthrottled : throttled x false = false := by simp [throttled, hhot]
      rw [hthrottled]
      split
      · next he => subst he; simp [hon, hhot]
      · rfl

theorem thermalSample_outcome {s : State} {temps : List Int} {hbm die : Int} {allot : List Nat} (halive : mgmtAlive s = true)
    (hlen : temps.length = 4) (hmax : ∀ x ∈ temps, x ≤ die) : Completes (.thermalSample temps hbm die allot) s fun t =>
      t.sm.temps = temps ∧ t.sm.hbmTemp = hbm ∧ t.sm.hbmHot = decide (celsius 95 ≤ hbm)
        ∧ t.sm.trip = (s.sm.trip || decide (celsius 115 ≤ die)) ∧ PlatformKept s t
        ∧ ∀ q, q < 4 →
            let x := temps.getD q 0
            t.sm.throttle.getLsbD q = (decide (celsius 105 ≤ x) || s.sm.throttle.getLsbD q && decide (celsius 100 ≤ x))
              ∧ govClk t q = (if s.sm.throttle.getLsbD q = false ∧ celsius 105 ≤ x then 600 else govClk s q) := by
  obtain ⟨first, hfirst⟩ : ∃ u, u = setSm s { s.sm with
    temps := temps, hbmTemp := hbm, trip := s.sm.trip || decide (celsius 115 ≤ die) } := ⟨_, rfl⟩
  obtain ⟨last, hlast⟩ : ∃ u, u = (List.range 4).foldl (fun s q => throttleQ s q (allot.getD q 0)) first := ⟨_, rfl⟩
  have hexec : exec (.thermalSample temps hbm die allot) s = .next (hbmLimit last) := by
    rw [hlast, hfirst]
    exact whenDue_pos (by simpa [halive, hlen] using hmax) ..
  have hsm : ∃ v, last.sm = { first.sm with throttle := v } := by
    rw [hlast]
    refine foldl_keeps (I := fun u => ∃ v, u.sm = { first.sm with throttle := v }) (fun u q _ hu => ?_) ⟨first.sm.throttle, rfl⟩
    obtain ⟨v, hv⟩ := hu
    exact ⟨_, ((throttleQ_moves u (allot.getD q 0)).1.trans (by rw [hv]))⟩
  have hquad {q : Nat} (hq : q < 4) : (last.sm.throttle.getLsbD q, govClk last q)
      = (throttled (temps.getD q 0) (s.sm.throttle.getLsbD q),
          if s.sm.throttle.getLsbD q = false ∧ celsius 105 ≤ temps.getD q 0 then 600 else govClk s q) := by
    have htemps : first.sm.temps = temps := by rw [hfirst]; rfl
    have hthrottle : first.sm.throttle = s.sm.throttle := by rw [hfirst]; rfl
    have hclk : govClk first q = govClk s q := by rw [hfirst]; rfl
    rw [hlast, ← hthrottle, ← hclk]
    refine foldl_quadrants (obs := fun u q => (u.sm.throttle.getLsbD q, govClk u q)) (I := fun u => u.sm.temps = temps)
      (g := fun q e => (throttled (temps.getD q 0) e.1, if e.1 = false ∧ celsius 105 ≤ temps.getD q 0 then 600 else e.2))
      (fun u q _ hu => ?_) (fun u q q' hu hq hq' => ?_) htemps hq
    · rw [(throttleQ_moves u (allot.getD q 0)).1]
      exact hu
    · dsimp only
      rw [(throttleQ_moves u (allot.getD q 0)).2 q' hq', hu]
  obtain ⟨v, hv⟩ := hsm
  have htemp : last.sm.hbmTemp = hbm := by rw [hv, hfirst]; rfl
  have hlimit : (hbmLimit last).sm = { last.sm with hbmHot := decide (celsius 95 ≤ hbm) } := by
    unfold hbmLimit
    dsimp only
    rw [htemp]
    split
    · rw [Changes.sm post_changes]
      rfl
    · rfl
  have hlimitClk {q : Nat} (hq : q < 4) : govClk (hbmLimit last) q = govClk last q := by
    unfold hbmLimit
    dsimp only
    split
    · exact sameRegs_post.regFld 0 11 fun h => govQclk_notMem_railRegs q hq (List.mem_append_left _ h)
    · rfl
  refine ⟨_, hexec, ?_, ?_, ?_, ?_, (execThermalSample_changes.next hexec).platformKept, fun q hq => ?_⟩
  · rw [hlimit, hv, hfirst]; rfl
  · rw [hlimit, hv, hfirst]; rfl
  · rw [hlimit]
  · rw [hlimit, hv, hfirst]; rfl
  · obtain ⟨hbit, hclk⟩ := Prod.mk.inj (hquad hq)
    exact ⟨by rw [hlimit]; exact hbit, (hlimitClk hq).trans hclk⟩

theorem railTelemetryPoll_outcome {s : State} (rail : Nat) (fault : Option (BitVec 16)) (hworks : smWorks s = true) :
    Completes (.railTelemetryPoll rail fault) s fun t => t.sm = { s.sm with railMw := rail }
      ∧ (fault = none → t = { s with sm := t.sm }) ∧ (fault.isSome = true → t.log.seq = s.log.seq + 1) := by
  refine ⟨_, whenDue_pos hworks .., ?_⟩
  cases fault with
  | none => exact ⟨rfl, fun _ => rfl, nofun⟩
  | some w => exact ⟨Changes.sm post_changes, nofun, fun _ => post_seq ..⟩

/-! ### The cycle (R582, R583, R586) -/

/-- What a boundary sets of the Stationmaster's state, and no later step of the cycle moves. -/
structure Commanded (x : SmSt) (mw : List Nat) (y : SmSt) : Prop where
  on : y.govOn = x.govWant
  target : y.target = x.targetWant
  power : y.coreMw = mw
  cycleAt : y.cycleAt = x.cycleAt
  tally : y.tally = x.tally

theorem Commanded.after {x y z : SmSt} {mw : List Nat} (h : Commanded x mw y) (k : SameBut y z) : Commanded x mw z := by
  obtain ⟨n, rfl⟩ := k
  exact ⟨h.on, h.target, h.power, h.cycleAt, h.tally⟩

/-- A cycle that runs counts in GOV_CYCLES, and leaves what its boundary commanded. -/
theorem govCycle_leaves {x : SmSt} {mw : List Nat} (s : State) (b : Nat) (g : GovWrite) (tally : List Nat)
    (h : Commanded x mw s.sm) : Commanded x mw (govCycle s b g tally).sm
      ∧ regVal (govCycle s b g tally) .govCycles 0 0 0 = regVal s .govCycles 0 0 0 + 1#64 := by
  obtain ⟨u, hu, hcount, c, heq⟩ : ∃ u, Commanded x mw u.sm ∧ regVal u .govCycles 0 0 0 = regVal s .govCycles 0 0 0 + 1#64
      ∧ ∃ c : Bool, govCycle s b g tally = if c then u else govSubmit u g.offset.toNat := by
    have hstats (v : State) : SameRegsBut submitRegs v (setFld (setFld v .govLstat 0 0 0 1 1 0) .govLstat 0 0 0 2 1 0) :=
      sameRegs_setLstat.trans sameRegs_setLstat
    have hbump : regVal (bump s .govCycles 0 0 0 1) .govCycles 0 0 0 = regVal s .govCycles 0 0 0 + 1#64 :=
      regVal_bump s .govCycles 0 0 0 1
    have hsm : (bump s .govCycles 0 0 0 1).sm = s.sm := rfl
    unfold govCycle
    generalize bump s .govCycles 0 0 0 1 = v at hbump hsm
    extract_lets _ fitted solved stats laid
    have hsolved : Commanded x mw solved.sm ∧ solved.regs = v.regs := by
      refine ⟨?_, rfl⟩
      rw [← hsm] at h
      exact ⟨h.on, h.target, h.power, h.cycleAt, h.tally⟩
    have hstat : stats.sm = solved.sm ∧ SameRegsBut submitRegs solved stats := ⟨rfl, hstats solved⟩
    have hlaid : laid.sm = stats.sm ∧ laid.regs = stats.regs := ⟨rfl, rfl⟩
    clear_value fitted solved stats laid
    refine ⟨laid, by rw [hlaid.1, hstat.1]; exact hsolved.1, ?_, _, rfl⟩
    rw [regVal_congr hlaid.2, hstat.2.regVal (by decide), regVal_congr hsolved.2]
    exact hbump
  rw [heq]
  cases c
  · obtain ⟨hsm, hregs, -⟩ := govSubmit_leaves u g.offset.toNat
    refine ⟨?_, (hregs.regVal (by decide)).trans hcount⟩
    rw [if_neg (by decide), hsm]
    exact hu
  · exact ⟨hu, hcount⟩

/-- The registers that reading the rails at a boundary writes. -/
def boundaryRegs : List Nat := logCounts ++ [regAddr .govStatus 0 0 0, regAddr .govFallbacks 0 0 0]

theorem sameRegs_boundary {s t : State} (hsm : SameBut s.sm t.sm) (h : SameRegsBut boundaryRegs s t) (q : Nat) (ok : Bool) :
    SameBut s.sm (avsTry t q ok).sm ∧ SameRegsBut boundaryRegs s (avsTry t q ok) := by
  have hresult {u : State} (hu : SameBut s.sm u.sm ∧ SameRegsBut boundaryRegs s u) (ok : Bool) :
      SameBut s.sm (avsResult u q ok).sm ∧ SameRegsBut boundaryRegs s (avsResult u q ok) := by
    refine ⟨hu.1.trans (railStep_avsResult q q u ok).sm, hu.2.trans ?_⟩
    have hstatus {v : State} {x : W64} : SameRegsBut boundaryRegs v (setReg v .govStatus 0 0 0 x) :=
      sameRegs_setReg.mono fun a ha => by rw [List.mem_singleton.1 ha]; simp [boundaryRegs]
    have hcount (n : List Nat) : SameRegsBut boundaryRegs u (setSm u { u.sm with avsFails := n }) := .of_eq rfl
    unfold avsResult
    dsimp only
    split
    · exact (hcount _).trans hstatus
    · split
      · exact ((hcount _).trans hstatus).trans (sameRegs_post.mono fun a ha => List.mem_append_left _ ha)
      · exact hcount _
  unfold avsTry
  split
  · exact hresult ⟨hsm, h⟩ _
  · exact hresult (hresult ⟨hsm, h⟩ _) _

theorem sameRegs_govRefresh (s : State) : SameRegsBut boundaryRegs s (govRefresh s) := by
  have hset {u : State} {r : RegName} {x : W64} (hr : regAddr r 0 0 0 ∈ boundaryRegs) :
      SameRegsBut boundaryRegs u (setReg u r 0 0 0 x) :=
    sameRegs_setReg.mono fun a ha => by rwa [List.mem_singleton.1 ha]
  unfold govRefresh
  dsimp only
  split
  · exact (hset (by simp [boundaryRegs])).trans (hset (by simp [boundaryRegs]))
  · exact hset (by simp [boundaryRegs])

theorem govBoundary_leaves (s : State) (b : Nat) (g : GovWrite) (mw : List Nat) (avs : BitVec 4) (tally : List Nat) :
    Commanded s.sm mw (govBoundary s b g mw avs tally).sm
      ∧ (s.sm.govWant = true → s.power.phase = 7 → s.sm.cycleLocal = none → regBit s .sbSlvfail 0 0 0 0 = false →
          regVal (govBoundary s b g mw avs tally) .govCycles 0 0 0 = regVal s .govCycles 0 0 0 + 1#64) := by
  obtain ⟨first, hfirst⟩ : ∃ u, u = setSm s { s.sm with
    govOn := s.sm.govWant, target := s.sm.targetWant, coreMw := mw, solving := false } := ⟨_, rfl⟩
  obtain ⟨read, hread⟩ : ∃ u, u = govRefresh ((List.range 4).foldl (fun s q => avsTry s q (!avs.getLsbD q)) first) := ⟨_, rfl⟩
  have hrails : SameBut first.sm read.sm ∧ SameRegsBut boundaryRegs first read := by
    have hall := foldl_keeps (I := fun u => SameBut first.sm u.sm ∧ SameRegsBut boundaryRegs first u)
      (f := fun s q => avsTry s q (!avs.getLsbD q)) (fun u q _ hu => sameRegs_boundary hu.1 hu.2 q _) ⟨.refl _, .of_eq rfl⟩
    rw [hread, Changes.sm govRefresh_changes]
    exact ⟨hall.1, hall.2.trans (sameRegs_govRefresh _)⟩
  obtain ⟨hsm, hregs⟩ := hrails
  have hpower : read.power = s.power := by
    have hfold : ((List.range 4).foldl (fun s q => avsTry s q (!avs.getLsbD q)) first).power = first.power :=
      foldl_keeps (I := fun u => u.power = first.power) (fun u q _ hu => by
        have hone (ok : Bool) : (avsTry u q ok).power = u.power := avsTry_changes .power (by decide)
        rw [hone, hu]) rfl
    have hrefresh (u : State) : (govRefresh u).power = u.power := govRefresh_changes .power (by decide)
    rw [hread, hrefresh, hfold, hfirst]
    rfl
  have hcommand : Commanded s.sm mw read.sm := by
    refine Commanded.after ?_ hsm
    rw [hfirst]
    exact ⟨rfl, rfl, rfl, rfl, rfl⟩
  have hlocal : read.sm.cycleLocal = s.sm.cycleLocal := by
    obtain ⟨n, hn⟩ := hsm
    rw [hn, hfirst]
    rfl
  have hcycles : regVal read .govCycles 0 0 0 = regVal s .govCycles 0 0 0 :=
    (hregs.regVal (by decide)).trans (by rw [hfirst]; rfl)
  have hfail : regBit read .sbSlvfail 0 0 0 0 = regBit s .sbSlvfail 0 0 0 0 :=
    (hregs.regBit 0 (by decide)).trans (by rw [hfirst]; rfl)
  obtain ⟨now, soon, hsoon, heq⟩ : ∃ (now : Nat) (soon : Bool), (read.sm.cycleLocal = none → soon = false)
      ∧ ∃ keep : State → State, (∀ u, keep u = setSm u { u.sm with govT := u.sm.temps })
        ∧ govBoundary s b g mw avs tally = keep (if !read.sm.govOn || read.power.phase != 7 then read
          else if soon then bump read .govSkipped 0 0 0 1
          else if regBit (setSm read { read.sm with cycleLocal := some now }) .sbSlvfail 0 0 0 0
            then setSm read { read.sm with cycleLocal := some now }
            else govCycle (setSm read { read.sm with cycleLocal := some now }) b g tally) := by
    rw [hread, hfirst]
    exact ⟨_, _, fun h => by rw [h]; rfl, _, fun _ => rfl, rfl⟩
  obtain ⟨keep, hkeep, heq⟩ := heq
  have hlast {u : State} (hu : Commanded s.sm mw u.sm) : Commanded s.sm mw (keep u).sm := by
    rw [hkeep]
    exact ⟨hu.on, hu.target, hu.power, hu.cycleAt, hu.tally⟩
  have hnext : Commanded s.sm mw (setSm read { read.sm with cycleLocal := some now }).sm :=
    ⟨hcommand.on, hcommand.target, hcommand.power, hcommand.cycleAt, hcommand.tally⟩
  obtain ⟨hcyclesm, hcount⟩ := govCycle_leaves (setSm read { read.sm with cycleLocal := some now }) b g tally hnext
  rw [heq]
  refine ⟨hlast ?_, fun hwant hphase hnone hok => ?_⟩
  · split
    · exact hcommand
    · split
      · exact hcommand
      · split
        · exact hnext
        · exact hcyclesm
  · have hon : ¬(!read.sm.govOn || read.power.phase != 7) = true := by
      rw [hcommand.on, hwant, hpower, hphase]
      decide
    have hgood : ¬regBit (setSm read { read.sm with cycleLocal := some now }) .sbSlvfail 0 0 0 0 = true := by
      have hread : regBit (setSm read { read.sm with cycleLocal := some now }) .sbSlvfail 0 0 0 0 = regBit read .sbSlvfail 0 0 0 0 :=
        rfl
      rw [hread, hfail, hok]
      decide
    rw [if_neg hon, hsoon (hlocal.trans hnone), if_neg (by decide), if_neg hgood, hkeep]
    exact hcount.trans (by rw [← hcycles]; rfl)

theorem rateTally_leaves (s : State) : (rateTally s).sm = { s.sm with tally := [0, 0, 0, 0] }
    ∧ SameRegsBut logCounts s (rateTally s) := by
  have hpost (x y : Nat) : (post s .rateTally 8 0 none x y).sm = s.sm := Changes.sm post_changes
  have hshape : ∃ (c : Bool) (x y : Nat), rateTally s = setSm (if c then post s .rateTally 8 0 none x y else s)
      { (if c then post s .rateTally 8 0 none x y else s).sm with tally := [0, 0, 0, 0] } := ⟨_, _, _, rfl⟩
  obtain ⟨c, x, y, h⟩ := hshape
  rw [h]
  cases c
  · exact ⟨rfl, .of_eq rfl⟩
  · rw [if_pos rfl, hpost]
    exact ⟨rfl, sameRegs_post.trans (.of_eq rfl)⟩

theorem governorCycleStart_outcome {s : State} {g : GovWrite} {mw : List Nat} (avs : BitVec 4) (halive : mgmtAlive s = true)
    (hnew : s.sm.cycleAt ≠ some (boundary s)) (hwin : govWindowOk g = true) (hlen : mw.length = 4) :
    Completes (.governorCycleStart g mw avs) s fun t => PlatformKept s t ∧ t.sm.cycleAt = some (boundary s)
      ∧ t.sm.tally = [0, 0, 0, 0]
      ∧ (smWorks s = true → t.sm.govOn = s.sm.govWant ∧ t.sm.target = s.sm.targetWant ∧ t.sm.coreMw = mw)
      ∧ (smWorks s = true → s.sm.govWant = true → s.power.phase = 7 → s.sm.cycleLocal = none →
          regBit s .sbSlvfail 0 0 0 0 = false → regVal t .govCycles 0 0 0 = regVal s .govCycles 0 0 0 + 1#64)
      ∧ (smWorks s = false → t.sm.govOn = s.sm.govOn ∧ t.problems = s.problems) := by
  obtain ⟨first, hfirst⟩ : ∃ u, u = rateTally (setSm s { s.sm with cycleAt := some (boundary s) }) := ⟨_, rfl⟩
  have hexec : exec (.governorCycleStart g mw avs) s
      = .next (if smWorks first then govBoundary first (boundary s) g mw avs s.sm.tally else first) := by
    rw [hfirst]
    exact whenDue_pos (by simp [halive, hnew, hwin, hlen]) ..
  obtain ⟨hsm, hregs⟩ := rateTally_leaves (setSm s { s.sm with cycleAt := some (boundary s) })
  rw [← hfirst] at hsm hregs
  have hworks : smWorks first = smWorks s := by
    rw [smWorks, hsm]
    rfl
  have hchanges : Changes [.sm, .log, .regs, .trace] s first := by
    rw [hfirst]
    exact .comp (.of sets_sm) rateTally_changes
  rw [hworks] at hexec
  refine ⟨_, hexec, (execGovernorCycleStart_changes.next hexec).platformKept, ?_⟩
  cases hw : smWorks s
  · rw [if_neg (by decide), hsm]
    exact ⟨rfl, rfl, nofun, nofun, fun _ => ⟨rfl, hchanges.problems⟩⟩
  · obtain ⟨hcommand, hcount⟩ := govBoundary_leaves first (boundary s) g mw avs s.sm.tally
    rw [hsm] at hcommand
    rw [if_pos rfl]
    refine ⟨hcommand.cycleAt, hcommand.tally, fun _ => ⟨hcommand.on, hcommand.target, hcommand.power⟩,
      fun _ hwant hphase hnone hok => ?_, nofun⟩
    have hpower : first.power = s.power := hchanges .power (by decide)
    refine (hcount (by rw [hsm]; exact hwant) (by rw [hpower]; exact hphase) (by rw [hsm]; exact hnone) ?_).trans ?_
    · rw [hregs.regBit 0 (by decide)]
      exact hok
    · rw [hregs.regVal (by decide)]
      rfl

/-- Settles O52: a cycle starts with what was commanded, results and the fallback move the clocks of their quadrants, and the limits
act at their thresholds. -/
theorem governorEvents : Obligations.GovernorEvents := by
  unfold Obligations.GovernorEvents
  intro g mw allot temps hbm die rail fault offset s
  exact ⟨fun halive hnew hwin hlen avs => governorCycleStart_outcome avs halive hnew hwin hlen,
    fun hworks hsolving hended hlen hsum avs => governorProblemEnd_outcome avs hworks hsolving hended hlen hsum,
    fun hworks hstate hrails hlen => fallbackTick_outcome hworks hstate hrails hlen,
    fun halive hlen hmax => thermalSample_outcome halive hlen hmax, fun hworks => railTelemetryPoll_outcome rail fault hworks,
    fun hworks => govLsubmit_outcome offset hworks⟩

end Sys2Proof.Machine

/-! PROOFS. The family of spec/16, fences and replay: divergences, self-tests, remaps and replays. -/

namespace Sys2Proof.Machine

set_option Elab.async false

/-! ### The registers that ending programs writes -/

/-- The measures of express RUNs (R646). -/
def measureRegs : List Nat := regAddr .dspXover 0 0 0 :: regAddr .dspXmax 0 0 0 :: (List.range 16).map fun i => regAddr .dspXhist 0 i 0

/-- What ending and completing programs writes: measures, and the counters of the log. -/
def endRegs : List Nat := logCounts ++ measureRegs

theorem sameRegs_measureRun (s : State) (d : DCmd) : SameRegsBut endRegs s (measureRun s d) := by
  have hset {u : State} {r : RegName} {i : Nat} {x : W64} (hr : regAddr r 0 i 0 ∈ measureRegs) :
      SameRegsBut endRegs u (setReg u r 0 i 0 x) :=
    sameRegs_setReg.mono fun a ha => by rw [List.mem_singleton.1 ha]; exact List.mem_append_right _ hr
  have hhist (i : Nat) : regAddr .dspXhist 0 (min 15 i) 0 ∈ measureRegs :=
    List.mem_cons_of_mem _ (List.mem_cons_of_mem _ (List.mem_map_of_mem (List.mem_range.2 (by omega))))
  unfold measureRun
  dsimp only
  split
  · have hbump (k : Nat) : SameRegsBut endRegs s (bump s .dspXhist 0 (min 15 k) 0 1) := hset (hhist k)
    have hover {u v : State} {c : Prop} [Decidable c] (h : SameRegsBut endRegs u v) : SameRegsBut endRegs u
        (if c then setReg v .dspXover 0 0 0 (regVal v .dspXover 0 0 0 + 1) else v) :=
      .ite (h.trans (hset List.mem_cons_self)) h
    exact .ite ((hover (hbump _)).trans (hset (List.mem_cons_of_mem _ List.mem_cons_self))) (hover (hbump _))
  · exact .of_eq rfl

theorem sameRegs_completeCmd {s : State} {d : DCmd} {code detail detail2 : Nat} :
    SameRegsBut endRegs s (completeCmd s d code detail detail2) := by
  obtain ⟨_, _, _, _, x, v, h⟩ := completeCmd_cases s d code detail detail2
  have hentry (bs : List Byte) : SameRegsBut endRegs s (dropCmd (entryOut s d bs) d x) := by
    have hemit (rank fn a : Nat) : (emitEntry rank s fn a bs).regs = s.regs := emitAt_changes .regs (by decide)
    exact ((SameRegsBut.of_eq (hemit ..)).trans (sameRegs_measureRun _ d)).trans (.of_eq rfl)
  obtain h | h := h <;> rw [h]
  · exact hentry _
  · exact (hentry _).trans (sendVector_changes.sameRegs _)

theorem sameRegs_completeId {s : State} {id code detail detail2 : Nat} :
    SameRegsBut endRegs s (completeId s id code detail detail2) := by
  unfold completeId
  split
  · exact sameRegs_completeCmd
  · exact .of_eq rfl

theorem sameRegs_finishSlot {s : State} {n : Nat} {i : SlotId} : SameRegsBut endRegs s (finishSlot s n i) := by
  obtain h | ⟨_, _, _, h⟩ := finishSlot_cases s n i <;> rw [h]
  · exact .of_eq rfl
  · exact ((tallyRun_changes.sameRegs _).trans sameRegs_completeId).trans (slotIdle_changes.sameRegs _)

theorem sameRegs_endPost {s : State} {code : LogCode} {unitKind unitIdx : Nat} {ctx : Option Nat} {arg addr : Nat} :
    SameRegsBut endRegs s (post s code unitKind unitIdx ctx arg addr) := sameRegs_post.mono fun _ h => List.mem_append_left _ h

/-! ### The registers of the Signal Box -/

/-- An address of the SB block. -/
def inSb (a : Nat) : Prop := blkBase .sb 0 ≤ a ∧ a < blkBase .sb 0 + 4096

theorem notMem_endRegs {a : Nat} (h : inSb a) : a ∉ endRegs := by
  have hall : ∀ x ∈ endRegs, x < blkBase .sb 0 ∨ blkBase .sb 0 + 4096 ≤ x := by decide
  intro ha
  obtain ⟨hlo, hhi⟩ := h
  have := hall a ha
  omega

theorem inSb_sbCfence {p : Nat} (hp : p < 160) : inSb (regAddr .sbCfence 0 p 0) := by
  simp only [inSb, regAddr, regInfo, blkBase]
  omega

theorem inSb_sbLmap {n : Nat} (hn : n < 160) : inSb (regAddr .sbLmap 0 n 0) := by
  simp only [inSb, regAddr, regInfo, blkBase]
  omega

/-! ### Slots at a fence (R613, R615) -/

theorem winds_completeId (s : State) (id code detail detail2 : Nat) : Winds s (completeId s id code detail detail2) := by
  unfold completeId
  split
  · refine ⟨fun n i => .inr ?_, fun e he => ?_⟩
    · rw [completeCmd_changes.getSlot]
      exact ⟨rfl, rfl⟩
    · rw [completeCmd_cmds] at he
      exact (List.mem_filter.1 he).1
  · exact .refl s

theorem winds_finishSlot (s : State) (n : Nat) (i : SlotId) : Winds s (finishSlot s n i) := by
  obtain h | ⟨_, _, _, h⟩ := finishSlot_cases s n i <;> rw [h]
  · exact .refl s
  · exact (tallyRun_changes.winds.trans (winds_completeId ..)).trans (winds_slotIdle ..)

/-- No program of the core's slot runs. -/
def NotRunning (s : State) (n : Nat) (i : SlotId) : Prop := (getSlot s n i).phase ≠ .running

theorem Winds.notRunning {s t : State} (h : Winds s t) {n : Nat} {i : SlotId} (hn : NotRunning s n i) : NotRunning t n i := by
  obtain hidle | ⟨hphase, -⟩ := h.slot n i
  · rw [NotRunning, hidle]
    nofun
  · rwa [NotRunning, hphase]

theorem getSlot_setSlot_ne (s : State) {n m : Nat} {i j : SlotId} (x : Slot) (h : (m, j) ≠ (n, i)) :
    getSlot (setSlot s n i x) m j = getSlot s m j := by
  by_cases hm : m = n
  · subst hm
    have hj : j ≠ i := fun h' => h (h' ▸ rfl)
    rw [getSlot, getCore_setSlot, coreSlot_setCoreSlot_ne _ _ hj, getSlot]
  · rw [getSlot, getCore_setSlot_ne _ _ _ hm, getSlot]

/-- A slot at a fence runs no more, and the other slots stay or end. -/
theorem divergeSlot_stops (s : State) (n : Nat) (i : SlotId) : NotRunning (divergeSlot s n i) n i
    ∧ (∀ m j, (m, j) ≠ (n, i) → NotRunning s m j → NotRunning (divergeSlot s n i) m j)
    ∧ SameRegsBut endRegs s (divergeSlot s n i) := by
  have hset {x : Slot} (hx : x.phase ≠ .running) : NotRunning (setSlot s n i x) n i
      ∧ (∀ m j, (m, j) ≠ (n, i) → NotRunning s m j → NotRunning (setSlot s n i x) m j)
      ∧ SameRegsBut endRegs s (setSlot s n i x) := by
    refine ⟨by rw [NotRunning, getSlot_setSlot]; exact hx, fun m j hne hm => ?_, .of_eq rfl⟩
    rw [NotRunning, getSlot_setSlot_ne _ _ hne]
    exact hm
  unfold divergeSlot
  dsimp only
  split
  · next h => exact hset (by simpa using h)
  · split
    · exact hset nofun
    · obtain ⟨h1, h2, h3⟩ := hset (x := { getSlot s n i with
        phase := .faulting 0 (getSlot s n i).replay.pc, held := none, cop := [], timeUp := false, replaying := none }) nofun
      have hrest := post_changes.winds.trans (winds_finishSlot (post (setSlot s n i { getSlot s n i with
        phase := .faulting 0 (getSlot s n i).replay.pc, held := none, cop := [], timeUp := false, replaying := none })
        .replayLost 1 (physOf s n) (some (getSlot s n i).ctx) n 0) n i)
      exact ⟨hrest.notRunning h1, fun m j hne hm => hrest.notRunning (h2 m j hne hm),
        h3.trans (sameRegs_endPost.trans sameRegs_finishSlot)⟩

/-- The programs of a core stop at a fence. -/
theorem divergeCore_stops (s : State) (n : Nat) : (∀ i, NotRunning (divergeCore s n) n i)
    ∧ (∀ m i, NotRunning s m i → NotRunning (divergeCore s n) m i) ∧ SameRegsBut endRegs s (divergeCore s n) := by
  obtain ⟨first, hfirst⟩ : ∃ u, u = modCore s n fun c =>
    { c with halted := false, stepping := none, skipBp := [], fetchMiss := none, look := lookReset } := ⟨_, rfl⟩
  have hwinds : Winds s first := hfirst ▸ winds_modCore fun c i => by cases i <;> rfl
  have hregs : SameRegsBut endRegs s first := hfirst ▸ .of_eq rfl
  have heq : divergeCore s n = divergeSlot (divergeSlot first n .bulk) n .express := by rw [hfirst]; rfl
  obtain ⟨hbulk, hother, hr1⟩ := divergeSlot_stops first n .bulk
  obtain ⟨hexpress, hother', hr2⟩ := divergeSlot_stops (divergeSlot first n .bulk) n .express
  have hkeep {m : Nat} {i : SlotId} (h : NotRunning (divergeSlot first n .bulk) m i) :
      NotRunning (divergeSlot (divergeSlot first n .bulk) n .express) m i := by
    by_cases he : (m, i) = (n, .express)
    · obtain ⟨rfl, rfl⟩ := Prod.mk.inj he
      exact hexpress
    · exact hother' m i he h
  rw [heq]
  refine ⟨fun i => ?_, fun m i hm => hkeep ?_, hregs.trans (hr1.trans hr2)⟩
  · cases i
    · exact hkeep hbulk
    · exact hexpress
  · by_cases he : (m, i) = (n, .bulk)
    · obtain ⟨rfl, rfl⟩ := Prod.mk.inj he
      exact hbulk
    · exact hother m i he (hwinds.notRunning hm)

theorem fenceMode_eq {s t : State} {p : Nat} (h : regVal t .sbCfence 0 p 0 = regVal s .sbCfence 0 p 0) :
    fenceMode t p = fenceMode s p := by
  rw [fenceMode, regFld, h, ← regFld, fenceMode]

theorem fenceMode_setFld (s : State) {p x : Nat} (hx : x < 3) : fenceMode (setFld s .sbCfence 0 p 0 0 2 x) p = x := by
  rw [fenceMode, regFld_setFld _ _ _ _ _ _ (by decide)]
  omega

/-- What fencing a sequencer does to the registers, and to the programs that it serves. -/
theorem fenceSeq_fences (s : State) {p : Nat} (hp : p < 160) : fenceMode (fenceSeq s p) p = 1
    ∧ SameRegsBut (regAddr .sbCfence 0 p 0 :: endRegs) s (fenceSeq s p)
    ∧ ∀ n ∈ servedBy s p, ∀ i, NotRunning (fenceSeq s p) n i := by
  obtain ⟨first, hfirst⟩ : ∃ u, u = post (setFld s .sbCfence 0 p 0 0 2 1) .unitFenced 1 p none 0 0 := ⟨_, rfl⟩
  have heq : fenceSeq s p = (servedBy s p).foldl divergeCore first := by rw [hfirst]; rfl
  have hfold (l : List Nat) (u : State) : SameRegsBut endRegs u (l.foldl divergeCore u) := by
    induction l generalizing u with
    | nil => exact .of_eq rfl
    | cons n l ih => exact (divergeCore_stops u n).2.2.trans (ih _)
  have hpost : SameRegsBut endRegs (setFld s .sbCfence 0 p 0 0 2 1) first := hfirst ▸ sameRegs_endPost
  have hrest : SameRegsBut endRegs (setFld s .sbCfence 0 p 0 0 2 1) (fenceSeq s p) := heq ▸ hpost.trans (hfold _ _)
  refine ⟨?_, ?_, fun n hn i => ?_⟩
  · rw [fenceMode_eq (hrest.regVal (notMem_endRegs (inSb_sbCfence hp)))]
    exact fenceMode_setFld s (by decide)
  · have hset : SameRegsBut (regAddr .sbCfence 0 p 0 :: endRegs) s (setFld s .sbCfence 0 p 0 0 2 1) :=
      sameRegs_setReg.mono fun a ha => by rw [List.mem_singleton.1 ha]; exact List.mem_cons_self
    exact hset.trans (hrest.mono fun a ha => List.mem_cons_of_mem _ ha)
  · rw [heq]
    exact foldl_establishes (p := fun u => NotRunning u n i) hn (fun u => (divergeCore_stops u n).1 i)
      (fun u m _ h => (divergeCore_stops u m).2.1 n i h) first

/-! ### Divergence and self-test (R605 to R610) -/

theorem servedBy_congr {s t : State} (h : ∀ n, n < 160 → regVal t .sbLmap 0 n 0 = regVal s .sbLmap 0 n 0) (p : Nat) :
    servedBy t p = servedBy s p :=
  List.filter_congr fun n hn => by rw [hostOf_congr (h n (List.mem_range.1 hn))]

theorem divergence_completes {core logical : Fin 160} {kind : Fin 5} {s : State} (hcmp : compares s core.val = true)
    (hhost : hostOf s logical.val = some core.val) (hrun : (getCore s logical.val).halted = false) :
    Completes (.divergence core logical kind) s fun t => fenceMode t core.val = 1
      ∧ regVal t .sbDiverge 0 0 0 = regVal s .sbDiverge 0 0 0 + 1#64
      ∧ ∀ n ∈ servedBy s core.val, ∀ i, (getSlot t n i).phase ≠ .running := by
  obtain ⟨first, hfirst⟩ : ∃ u, u = post (bump s .sbDiverge 0 0 0 1) .divergence 1 core.val none
      (logical.val + 65536 * (Config.causeCode (16 + kind.val)).toNat) 0 := ⟨_, rfl⟩
  have hbump : SameRegsBut endRegs (bump s .sbDiverge 0 0 0 1) first := hfirst ▸ sameRegs_endPost
  have hlog : regAddr .sbDiverge 0 0 0 ∉ endRegs := by decide
  have hmap : servedBy first core.val = servedBy s core.val := servedBy_congr (fun n hn => by
    rw [hbump.regVal (notMem_endRegs (inSb_sbLmap hn)), regVal_bump_ne _ _ (by simp only [regAddr, regInfo, blkBase]; omega)]) _
  obtain ⟨hmode, hregs, hstop⟩ := fenceSeq_fences first core.isLt
  refine ⟨diverge s core.val logical.val kind.val, whenDue_pos (by simp [hcmp, hhost, hrun]) .., ?_⟩
  have heq : diverge s core.val logical.val kind.val = fenceSeq first core.val := by rw [hfirst]; rfl
  rw [heq]
  refine ⟨hmode, ?_, fun n hn i => hstop n (hmap ▸ hn) i⟩
  have hne : regAddr .sbDiverge 0 0 0 ≠ regAddr .sbCfence 0 core.val 0 := by
    simp only [regAddr, regInfo, blkBase]
    omega
  rw [hregs.regVal (List.not_mem_cons_of_ne_of_not_mem hne hlog), hbump.regVal hlog, regVal_bump]

/-- What a checker fault does (R610). -/
def Faulted (s t : State) (p : Nat) : Prop := regVal t .sbChecker 0 0 0 = regVal s .sbChecker 0 0 0 + 1#64
  ∧ (regBit s .sbCkpolicy 0 (p / 32) 0 (p % 32) = true → regBit t .sbCstat 0 p 0 2 = true)
  ∧ (regBit s .sbCkpolicy 0 (p / 32) 0 (p % 32) = false → fenceMode t p = 1)

theorem checkerFault_faults (s : State) {p : Nat} (hp : p < 160) : Faulted s (checkerFault s p) p := by
  obtain ⟨first, hfirst⟩ : ∃ u, u = post (bump s .sbChecker 0 0 0 1) .checkerFault 1 p none 0 0 := ⟨_, rfl⟩
  have hbump : SameRegsBut endRegs (bump s .sbChecker 0 0 0 1) first := hfirst ▸ sameRegs_endPost
  have hlog : regAddr .sbChecker 0 0 0 ∉ endRegs := by decide
  have hcount : regVal first .sbChecker 0 0 0 = regVal s .sbChecker 0 0 0 + 1#64 := by
    rw [hbump.regVal hlog, regVal_bump]
  have hpolicy : inSb (regAddr .sbCkpolicy 0 (p / 32) 0) := by
    simp only [inSb, regAddr, regInfo, blkBase]
    omega
  have hsame : regBit first .sbCkpolicy 0 (p / 32) 0 (p % 32) = regBit s .sbCkpolicy 0 (p / 32) 0 (p % 32) := by
    rw [hbump.regBit _ (notMem_endRegs hpolicy), regBit, regFld, regVal_bump_ne, ← regFld, ← regBit]
    simp only [regAddr, regInfo, blkBase]
    omega
  have heq : checkerFault s p = if regBit first .sbCkpolicy 0 (p / 32) 0 (p % 32) then setFld first .sbCstat 0 p 0 2 1 1
      else fenceSeq first p := by rw [hfirst]; rfl
  rw [hsame] at heq
  rw [heq]
  by_cases h : regBit s .sbCkpolicy 0 (p / 32) 0 (p % 32) = true
  · rw [if_pos h]
    refine ⟨?_, fun _ => regBit_setFld _ _ _ _ _ true (by decide), fun h' => by simp [h] at h'⟩
    rw [setFld, regVal_setReg_ne, hcount]
    simp only [regAddr, regInfo, blkBase]
    omega
  · rw [if_neg h]
    obtain ⟨hmode, hregs, -⟩ := fenceSeq_fences first hp
    refine ⟨?_, fun h' => absurd h' h, fun _ => hmode⟩
    have hne : regAddr .sbChecker 0 0 0 ≠ regAddr .sbCfence 0 p 0 := by
      simp only [regAddr, regInfo, blkBase]
      omega
    rw [hregs.regVal (List.not_mem_cons_of_ne_of_not_mem hne hlog), hcount]

theorem selfTest_completes {core : Fin 160} {r : SelfTest} {s : State} (hcmp : compares s core.val = true)
    (hquiet : ∀ n ∈ servedBy s core.val, (getCore s n).halted = false) :
    Completes (.selfTest core r) s fun t =>
      (r = .caught → regVal t .sbSelftest 0 0 0 = regVal s .sbSelftest 0 0 0 + 1#64
          ∧ getCore t core.val = { getCore s core.val with injPoint := ((getCore s core.val).injPoint + 1) % 1024 }
          ∧ ∀ n, n ≠ core.val → getCore t n = getCore s n)
        ∧ (r = .missed ∨ r = .parity → Faulted s t core.val) := by
  refine ⟨selfTested s core.val r, whenDue_pos (by simpa [hcmp] using hquiet) .., ?_⟩
  cases r with
  | caught =>
    exact ⟨fun _ => ⟨regVal_bump (nextPoint s core.val) .., getCore_modCore s core.val fun c =>
      { c with injPoint := (c.injPoint + 1) % 1024 }, fun n hn => getCore_modCore_ne s (fun c =>
      { c with injPoint := (c.injPoint + 1) % 1024 }) hn⟩, nofun⟩
  | missed => exact ⟨nofun, fun _ => checkerFault_faults (nextPoint s core.val) core.isLt⟩
  | parity => exact ⟨nofun, fun _ => checkerFault_faults s core.isLt⟩

/-! ### Remap (R618) -/

theorem newHost_lt {s : State} {p h : Nat} (hp : p < 160) (hh : newHost s p = some h) : h < 160 := by
  have hmem := List.mem_of_find?_eq_some hh
  obtain ⟨j, -, rfl⟩ := List.mem_map.1 hmem
  omega

theorem regAddr_sbLmap_ne {n m : Nat} (h : n ≠ m) : regAddr .sbLmap 0 n 0 ≠ regAddr .sbLmap 0 m 0 := by
  simp only [regAddr, regInfo, blkBase]
  omega

theorem remap_completes {logical : Fin 160} {s : State} {q : Nat} (hhost : hostOf s logical.val = some q)
    (hsm : smWorks s = true) (hdue : remapDue s logical.val q = true) :
    Completes (.remap logical) s fun t => hostOf t logical.val = newHost s q
      ∧ (∀ n, n < 160 → n ≠ logical.val → hostOf t n = hostOf s n) ∧ t.cores = s.cores := by
  have hbody : exec (.remap logical) s = match hostOf s logical.val with
    | some p => whenDue (smWorks s && remapDue s logical.val p) s (.next (remap s logical.val p))
    | none => .next s := rfl
  have hmapped : regBit s .sbLmap 0 logical.val 0 8 = false := by
    by_contra h
    simp [hostOf, h] at hhost
  refine ⟨remap s logical.val q, by rw [hbody, hhost]; exact whenDue_pos (by simp [hsm, hdue]) .., ?_⟩
  refine ⟨?_, fun n hn hne => hostOf_congr ?_, remap_changes .cores (by decide)⟩
  · cases hnew : newHost s q with
    | none =>
      have heq : remap s logical.val q = setFld s .sbLmap 0 logical.val 0 8 1 1 := by rw [remap, hnew]
      have hbit : regBit (setFld s .sbLmap 0 logical.val 0 8 1 1) .sbLmap 0 logical.val 0 8 = true :=
        regBit_setFld _ _ _ _ _ true (by decide)
      rw [heq, hostOf, hbit]
      rfl
    | some h =>
      have hlt := newHost_lt (hostOf_lt hhost) hnew
      have heq : remap s logical.val q
          = post (setFld s .sbLmap 0 logical.val 0 0 8 h) .coreRemap 1 h none (logical.val + 65536 * q) 0 := by
        rw [remap, hnew]
      have hregs : SameRegsBut endRegs (setFld s .sbLmap 0 logical.val 0 0 8 h) (remap s logical.val q) :=
        heq ▸ sameRegs_endPost
      have hfld : regFld (setFld s .sbLmap 0 logical.val 0 0 8 h) .sbLmap 0 logical.val 0 0 8 = h := by
        rw [regFld_setFld _ _ _ _ _ _ (by decide)]
        omega
      have hbit : regBit (setFld s .sbLmap 0 logical.val 0 0 8 h) .sbLmap 0 logical.val 0 8 = false := by
        rw [regBit, setFld, regFld_setReg, fGet_fSet_above _ (by decide) (by decide), ← regFld, ← regBit, hmapped]
      rw [hostOf_congr (hregs.regVal (notMem_endRegs (inSb_sbLmap logical.isLt))), hostOf, hfld, hbit]
      simp [hlt]
  · have hset (lsb w x : Nat) : regVal (setFld s .sbLmap 0 logical.val 0 lsb w x) .sbLmap 0 n 0 = regVal s .sbLmap 0 n 0 :=
      regVal_setReg_ne _ _ (regAddr_sbLmap_ne hne)
    unfold remap
    split
    · rw [sameRegs_endPost.regVal (notMem_endRegs (inSb_sbLmap hn)), hset]
    · exact hset ..

/-! ### Replay (R614) -/

/-- Observing held reports touches the reports of its core alone. -/
theorem observeHeld_cores (s : State) (n : Nat) (i : SlotId) :
    (observeHeld s n i).cores = (modCore s n fun c => { c with
      reports := c.reports.filter fun e => !((getTag s e.1).owner == some (n, i)) }).cores :=
  List.foldlRecOn (motive := fun u : State => u.cores = (modCore s n fun c => { c with
      reports := c.reports.filter fun e => !((getTag s e.1).owner == some (n, i)) }).cores) _ _ rfl fun _ hu _ _ => hu

theorem replayStart_completes {a : At} {s : State} (hph : (theSlot s a).phase = .diverged)
    (hseq : seqWorks s a.core.val = true) (hdrain : drained s a.core.val a.slot = true) (hplane : planeUp s = true) :
    Completes (.replayStart a) s fun t =>
      let y := theSlot s a
      let z := theSlot t a
      z.phase = .running ∧ z.pc = y.replay.pc ∧ z.g = y.replay.g ∧ z.f = y.replay.f ∧ z.fflags = y.replay.fflags
        ∧ z.frm = y.replay.frm ∧ z.statsum = y.replay.statsum ∧ z.lfsr = y.replay.lfsr ∧ z.replaying.isSome = true
        ∧ PlatformKept s t ∧ ∀ n, n ≠ a.core.val → getCore t n = getCore s n := by
  have hph' : (getSlot s a.core.val a.slot).phase = .diverged := hph
  refine ⟨replayStart s a.core.val a.slot, whenDue_pos (by simp [hph', hseq, hdrain, hplane]) .., ?_⟩
  obtain ⟨u, hu⟩ : ∃ u, u = modCore (observeHeld s a.core.val a.slot) a.core.val fun c =>
    { c with tiles := replayTiles c a.slot (coreSlot c a.slot).replay.tiles } := ⟨_, rfl⟩
  have heq : replayStart s a.core.val a.slot
      = modSlot u a.core.val a.slot fun x => replaySlot x (adoptions s a.core.val a.slot) := by rw [hu]; rfl
  have hsame : getSlot u a.core.val a.slot = getSlot s a.core.val a.slot := by
    rw [hu, getSlot_modCore fun c => by cases a.slot <;> rfl, getSlot, getCore_congr (observeHeld_cores ..), ← getSlot,
      getSlot_modCore fun c => by cases a.slot <;> rfl]
  have hslot : theSlot (replayStart s a.core.val a.slot) a = replaySlot (theSlot s a) (adoptions s a.core.val a.slot) := by
    rw [theSlot, heq, getSlot_modSlot, hsame, theSlot]
  dsimp only
  rw [hslot]
  refine ⟨rfl, rfl, rfl, rfl, rfl, rfl, rfl, rfl, rfl, replayStart_changes.platformKept, fun n hn => ?_⟩
  rw [heq, getCore_modSlot_ne _ _ _ hn, hu, getCore_modCore_ne _ _ hn, getCore_congr (observeHeld_cores ..),
    getCore_modCore_ne _ _ hn]

end Sys2Proof.Machine

/-! PROOFS. The family of spec/16, errors: scrub, corrected and uncorrectable errors, and fatal records. -/

namespace Sys2Proof.Machine

set_option Elab.async false

/-! ### Fatal records (R630) -/

/-- A record of severity 4 halts the data plane. -/
theorem post_fatal (s : State) (kind idx : Nat) (ctx : Option Nat) (arg addr : Nat) {code : LogCode} (h : logSev code = 4) :
    (post s code kind idx ctx arg addr).log.fatal = true ∧ (post s code kind idx ctx arg addr).log.dpHalted = true := by
  have htrace (s : State) (unit data : Nat) : (traceEv s 3 unit none data).log = s.log := traceEv_changes .log (by decide)
  unfold post postRec
  simp only [h, show (4 == 1) = false from rfl, Bool.false_eq_true, if_false, show (4 == 4) = true from rfl, if_true]
  rw [htrace]
  split <;> exact ⟨rfl, rfl⟩

/-- Every command that the Dispatcher has taken ends. -/
theorem fatalHalt_cmds (s : State) : (fatalHalt s).host.cmds = [] := by
  refine List.eq_nil_iff_forall_not_mem.2 fun e he => ?_
  have hdrop (u : State) (d : DCmd) : (completeCmd u d codeAborted 0 0).host.cmds = u.host.cmds.filter fun x => x.id != d.id :=
    completeCmd_cmds ..
  have hmem : e ∈ s.host.cmds :=
    List.foldlRecOn (motive := fun u : State => e ∈ u.host.cmds → e ∈ s.host.cmds) s.host.cmds _ id
      (fun u hu d _ h => hu (List.mem_filter.1 (hdrop u d ▸ h)).1) he
  exact foldl_establishes (p := fun u : State => e ∉ u.host.cmds) hmem
    (fun u h => absurd (List.mem_filter.1 (hdrop u e ▸ h)).2 (by simp))
    (fun u d _ hu h => hu (List.mem_filter.1 (hdrop u d ▸ h)).1) s he

theorem internalFatal_halts (s : State) (kind idx arg : Nat) : (internalFatal s kind idx arg).log.fatal = true
    ∧ (internalFatal s kind idx arg).log.dpHalted = true ∧ (internalFatal s kind idx arg).host.cmds = [] := by
  have hlog : (internalFatal s kind idx arg).log = (post s .internalFatal kind idx none arg 0).log :=
    fatalHalt_changes .log (by decide)
  obtain ⟨hfatal, hhalted⟩ := post_fatal s kind idx none arg 0 (code := .internalFatal) rfl
  exact ⟨hlog ▸ hfatal, hlog ▸ hhalted, fatalHalt_cmds _⟩

/-! ### FULL fences (R617) -/

theorem sameRegs_abortSlot {s : State} {n : Nat} {i : SlotId} : SameRegsBut endRegs s (abortSlot s n i) := by
  unfold abortSlot
  exact .ite (.of_eq rfl) ((endSlot_changes.sameRegs _).trans sameRegs_completeId)

/-- A logical core that is taken off keeps the fence of every core. -/
theorem fenceMode_unmap (s : State) (n : Nat) {p : Nat} (hp : p < 160) : fenceMode (unmap s n) p = fenceMode s p := by
  have hregs : SameRegsBut endRegs s (abortSlot (abortSlot s n .bulk) n .express) := sameRegs_abortSlot.trans sameRegs_abortSlot
  refine fenceMode_eq (.trans ?_ (hregs.regVal (notMem_endRegs (inSb_sbCfence hp))))
  exact regVal_setReg_ne _ _ (by simp only [regAddr, regInfo, blkBase]; omega)

theorem fenceMode_unmaps (l : List Nat) (s : State) {p : Nat} (hp : p < 160) : fenceMode (l.foldl unmap s) p = fenceMode s p :=
  List.foldlRecOn (motive := fun u => fenceMode u p = fenceMode s p) l _ rfl fun u hu n _ => (fenceMode_unmap u n hp).trans hu

theorem fenceFull_mode (s : State) {p : Nat} (hp : p < 160) : fenceMode (fenceFull s p) p = 2 := by
  have hpost : SameRegsBut endRegs (setFld s .sbCfence 0 p 0 0 2 2)
      (post (setFld s .sbCfence 0 p 0 0 2 2) .unitFenced 1 p none 0 0) := sameRegs_endPost
  calc fenceMode (fenceFull s p) p
      = fenceMode (post (setFld s .sbCfence 0 p 0 0 2 2) .unitFenced 1 p none 0 0) p := fenceMode_unmaps _ _ hp
    _ = fenceMode (setFld s .sbCfence 0 p 0 0 2 2) p := fenceMode_eq (hpost.regVal (notMem_endRegs (inSb_sbCfence hp)))
    _ = 2 := fenceMode_setFld s (by decide)

/-- Table 16.3: a core that errors end is fenced FULL. -/
theorem fenceFor_mode (s : State) {p : Nat} (hp : p < 160) : fenceMode (fenceFor s 1 p) p = 2 := by
  have heq : fenceFor s 1 p = if fenceMode s p = 2 then s else fenceFull s p := rfl
  rw [heq]
  split
  · assumption
  · exact fenceFull_mode s hp

/-- A counted error of a core fences it, or leaves every core as it was. -/
theorem arrayUe_core (s : State) {p : Nat} (hp : p < 160) (addr : Nat) :
    fenceMode (arrayUe s 1 p addr) p = 2 ∨ (arrayUe s 1 p addr).cores = s.cores := by
  unfold arrayUe ueCounted
  dsimp only
  split
  · exact .inl (fenceFor_mode _ hp)
  · exact .inr (post_changes .cores (by decide))

theorem arrayUe_modCore (s : State) {p : Nat} (hp : p < 160) (f : Core → Core) (addr : Nat) :
    fenceMode (arrayUe (modCore s p f) 1 p addr) p = 2 ∨ getCore (arrayUe (modCore s p f) 1 p addr) p = f (getCore s p) :=
  (arrayUe_core (modCore s p f) hp addr).imp_right fun h => by rw [getCore_congr h, getCore_modCore]

/-! ### Scrub (R603) -/

theorem scrub_completes {l : Nat} {unit : Fin 4} {x : Scrubbed} {s : State} (hon : memoryOn s = true)
    (hin : 128 * l < installed s.variant) (hch : channelFailed s (channelOf s.variant (128 * l)) = false) :
    Completes (.scrub l unit x) s fun t => t.hbm = s.hbm ∧ (x = .clean → t = s) ∧ (x = .corrected → t.hbmPoison = s.hbmPoison)
      ∧ (x = .uncorrectable → spGet false (4 * l + unit.val) t.hbmPoison = true ∧ t.log.seq = s.log.seq + 1
          ∧ ∀ k, k ≠ 4 * l + unit.val → spGet false k t.hbmPoison = spGet false k s.hbmPoison) := by
  refine ⟨scrubbed s l unit.val x, whenDue_pos (by simp [hon, hin, hch]) .., ?_⟩
  have hhbm : (scrubbed s l unit.val x).hbm = s.hbm := scrubbed_changes .hbm (by decide)
  refine ⟨hhbm, ?_⟩
  cases x with
  | clean => exact ⟨fun _ => rfl, nofun, nofun⟩
  | corrected => exact ⟨nofun, fun _ => post_changes .poison (by decide), nofun⟩
  | uncorrectable =>
    have hpoison : (scrubbed s l unit.val .uncorrectable).hbmPoison = spSet false (4 * l + unit.val) true s.hbmPoison :=
      post_changes .poison (by decide)
    refine ⟨nofun, nofun, fun _ => ⟨?_, post_seq .., fun k hk => ?_⟩⟩
    · rw [hpoison, spGet_set]
    · rw [hpoison, spGet_set_ne _ _ _ hk]

/-! ### Corrected errors (R602, Table 16.1) -/

theorem linkRetried_outcome (s : State) (k : CrcLink) (again : Bool) :
    let n := if again = true then spGet 0 (linkIndex k) s.linkRetry + 1 else 1
    spGet 0 (linkIndex k) (linkRetried s k again).linkRetry = n
      ∧ (n = 16 → (linkRetried s k again).log.fatal = true ∧ (linkRetried s k again).host.cmds = []) := by
  intro n
  obtain ⟨u, hu⟩ : ∃ u, u = post { s with linkRetry := spSet 0 (linkIndex k) n s.linkRetry } .d2dRetry (linkUnit k).1
    (linkUnit k).2 none 0 0 := ⟨_, rfl⟩
  have hpost : Part.Kept { s with linkRetry := spSet 0 (linkIndex k) n s.linkRetry } u .linkRetry :=
    hu ▸ post_changes .linkRetry (by decide)
  obtain ⟨hretry, -⟩ := hpost
  have heq : linkRetried s k again = if n = 16 then internalFatal u (linkUnit k).1 (linkUnit k).2 2 else u := by
    rw [hu]
    rfl
  have hkeep : (linkRetried s k again).linkRetry = u.linkRetry := by
    rw [heq]
    split
    · exact (internalFatal_changes .linkRetry (by decide)).1
    · rfl
  refine ⟨by rw [hkeep, hretry, spGet_set], fun h => ?_⟩
  rw [heq, if_pos h]
  obtain ⟨hfatal, -, hcmds⟩ := internalFatal_halts u (linkUnit k).1 (linkUnit k).2 2
  exact ⟨hfatal, hcmds⟩

theorem correctedAt_slices (s : State) (again : Bool) {ce : CorrectedAt} (h : ∀ i w, ce ≠ .way i w) :
    (correctedAt s again ce).slices = s.slices := by
  cases ce with
  | way i w => exact absurd rfl (h i w)
  | link l => exact linkRetried_changes .slices (by decide)
  | _ => exact post_changes .slices (by decide)

theorem correctedError_completes {ce : CorrectedAt} {again : Bool} {s : State} (hdue : correctedDue s ce = true) :
    Completes (.correctedError ce again) s fun t =>
      t.hbm = s.hbm ∧ t.cores = s.cores ∧ t.tags = s.tags ∧ ((∀ i w, ce ≠ .way i w) → t.slices = s.slices)
        ∧ ∀ k, ce = .link k → let n := if again = true then spGet 0 (linkIndex k) s.linkRetry + 1 else 1
            spGet 0 (linkIndex k) t.linkRetry = n ∧ (n = 16 → t.log.fatal = true ∧ t.host.cmds = []) := by
  refine ⟨correctedAt s again ce, whenDue_pos hdue .., correctedAt_changes .hbm (by decide),
    correctedAt_changes .cores (by decide), correctedAt_changes .tags (by decide), correctedAt_slices s again, ?_⟩
  rintro k rfl
  exact linkRetried_outcome s k again

/-! ### Uncorrectable errors (R342, R399, R602) -/

theorem faultWay_lines (c : Slice) (w : Nat) : (faultWay c w).lines = c.lines := by
  unfold faultWay
  dsimp only
  split <;> rfl

theorem faultWay_faultUe (c : Slice) {w : Nat} (hw : w < 16) : (faultWay c w).faultUe.getLsbD w = true := by
  have hset : (setBit16 c.faultUe w).getLsbD w = true := by simp [getLsbD_setBit16 _ hw]
  unfold faultWay
  dsimp only
  split <;> exact hset

theorem dataError_line (s : State) (i x u : Nat) {w : Nat} (hw : w < 16) : lineAt (getSlice (dataError s i w x u) i) w x = none
    ∧ (getSlice (dataError s i w x u) i).faultUe.getLsbD w = true := by
  have hslice : getSlice (dataError s i w x u) i = faultWay (putLine (getSlice s i) (lineKey w x) none) w := spGet_set ..
  rw [hslice]
  exact ⟨by rw [lineAt, faultWay_lines, putLine, spGet_set], faultWay_faultUe _ hw⟩

/-- The layer that an error changes is the one found, and is found after it. -/
theorem findLayer_modLayer {s : State} {ctx id : Nat} {l : Layer} {f : Layer → Layer} (hl : findLayer s ctx id = some l)
    (hf : ∀ x, isLayer ctx id (f x) = isLayer ctx id x) : findLayer (modLayer s l f) ctx id = some (f l) := by
  have hlayer : isLayer ctx id l = true := List.find?_some hl
  have hids : l.ctx = ctx ∧ l.id = id := by
    simp only [isLayer, Bool.and_eq_true, beq_iff_eq] at hlayer
    exact hlayer.1
  have hkey (x : Layer) : isLayer ctx id (if x.seq = l.seq && isLayer l.ctx l.id x then f x else x) = isLayer ctx id x := by
    split
    · exact hf x
    · rfl
  rw [findLayer, modLayer, List.find?_map]
  have hcomp : (isLayer ctx id ∘ fun x => if x.seq = l.seq && isLayer l.ctx l.id x then f x else x) = isLayer ctx id := funext hkey
  rw [hcomp, show s.layers.find? (isLayer ctx id) = some l from hl, Option.map_some, hids.1, hids.2, hlayer]
  simp

/-- An error in a Matrix Unit's store upsets the layer found. -/
theorem layerUpset_found (s : State) (ctx id n : Nat) {f : Layer → Layer} (hf : ∀ x, isLayer ctx id (f x) = isLayer ctx id x) :
    findLayer (layerUpset s ctx id n f) ctx id = (findLayer s ctx id).map f := by
  unfold layerUpset
  cases hl : findLayer s ctx id with
  | none => exact hl
  | some l =>
    have hsame : (arrayUe (modLayer s l f) 2 n 0).layers = (modLayer s l f).layers := arrayUe_changes .layers (by decide)
    dsimp only
    rw [findLayer, hsame, ← findLayer, findLayer_modLayer hl hf, Option.map_some]

theorem windowUpset_upset (s : State) (k ctx step : Nat) :
    ∀ y ∈ (getRmu (windowUpset s k ctx step) k).windows, y.ctx = ctx → y.step = step → y.upset = true := by
  have hwindows : (getRmu (windowUpset s k ctx step) k).windows = (getRmu s k).windows.map fun w =>
      if w.ctx == ctx && w.step == step then { w with upset := true } else w := by
    rw [getRmu, windowUpset, spGet_set]
    rfl
  rw [hwindows]
  intro y hy hctx hstep
  obtain ⟨w, -, rfl⟩ := List.mem_map.1 hy
  split
  · rfl
  · next hno => simp_all

theorem watchdog_restarts (s : State) (a b : ImgChk) (hready : firmwareReady s = true) (hst : s.sm.st ≠ 4) :
    (watchdog s a b).sm.st = 4 ∧ (watchdog s a b).sm.restart = .watchdog := by
  obtain ⟨u, hu⟩ : ∃ u, u = post s .smWatchdog 10 0 none 0 0 := ⟨_, rfl⟩
  have hsm : u.sm = s.sm := (hu ▸ post_changes .sm (by decide) : Part.Kept s u .sm).2
  have hpower : u.power = s.power := (hu ▸ post_changes .power (by decide) : Part.Kept s u .power)
  have hready' : firmwareReady u = true := by rw [firmwareReady, hpower, ← firmwareReady, hready]
  have heq : watchdog s a b = if u.sm.st = 4 then
      (let s := bootRom u a b
       if romStarted s then setSm s { s.sm with st := 4, restart := .watchdog } else s)
      else if firmwareReady u then smRestart u .watchdog else bootStart u := by rw [hu]; rfl
  rw [heq, if_neg (hsm ▸ hst), if_pos hready']
  exact ⟨rfl, rfl⟩

theorem replayLost_spent (s : State) (n : Nat) (i : SlotId) (both : Bool) :
    (getSlot (replayLost s n i both) n i).replay.spent = (both || (getSlot s n i).replay.spent) := by
  unfold replayLost
  cases both
  · rfl
  · rw [if_pos rfl, getSlot_modSlot]
    rfl

/-- The error column of Table 16.1, place by place. -/
theorem uncorrectable_outcome (s : State) (both : Bool) (chkA chkB : ImgChk) (ue : UncorrectableAt) :
    let t := uncorrectableAt s both chkA chkB ue
    (∀ i w x u, ue = .line i w x u → lineAt (getSlice t i.val) w.val x.val = none ∧ (getSlice t i.val).faultUe.getLsbD w.val = true)
      ∧ (∀ q w, ue = .localStore q w → fenceMode t q.val = 2 ∨ spGet false w.val (getCore t q.val).lsPoison = true)
      ∧ (∀ q e, ue = .accumulator q e → fenceMode t q.val = 2 ∨ spGet false e.val (getCore t q.val).accBad = true)
      ∧ (∀ q, ue = .instructionCache q → t.cores = s.cores ∧ t.tags = s.tags ∧ t.hbm = s.hbm)
      ∧ (∀ q, ue = .queues q → fenceMode t q.val = 2)
      ∧ (ue = .tag → t.log.fatal = true ∧ t.host.cmds = [])
      ∧ (∀ k ctx step, ue = .merge k ctx step →
          ∀ y ∈ (getRmu t k.val).windows, y.ctx = ctx.val → y.step = step → y.upset = true)
      ∧ (∀ ctx y n c, ue = .panel ctx y n c → findLayer t ctx.val y.toNat
          = (findLayer s ctx.val y.toNat).map fun z => panelUpset z n.val c.val)
      ∧ (∀ ctx y n j k c, ue = .lane ctx y n j k c → findLayer t ctx.val y.toNat
          = (findLayer s ctx.val y.toNat).map fun z => laneUpset z n.val j.val k.val c.val)
      ∧ (∀ ctx y n j k, ue = .holdBuffer ctx y n j k → findLayer t ctx.val y.toNat
          = (findLayer s ctx.val y.toNat).map fun z => holdUpset z n.val j.val k.val)
      ∧ (∀ k u, ue = .hbm k u → spGet false (4 * k + u.val) t.hbmPoison = true)
      ∧ (ue = .sram → firmwareReady s = true → s.sm.st ≠ 4 → t.sm.st = 4 ∧ t.sm.restart = .watchdog)
      ∧ ∀ q i, ue = .replay q i → (getSlot t q.val i).replay.spent = (both || (getSlot s q.val i).replay.spent) := by
  refine ⟨?_, ?_, ?_, ?_, ?_, ?_, ?_, ?_, ?_, ?_, ?_, ?_, ?_⟩
  · rintro i w x u rfl
    exact dataError_line s i.val x.val u.val w.isLt
  · rintro q w rfl
    exact (arrayUe_modCore s q.isLt (fun c => { c with lsPoison := spSet false w.val true c.lsPoison }) 0).imp_right
      fun h => (congrArg (fun c : Core => spGet false w.val c.lsPoison) h).trans (spGet_set false w.val true (getCore s q.val).lsPoison)
  · rintro q e rfl
    exact (arrayUe_modCore s q.isLt (fun c => { c with accBad := spSet false e.val true c.accBad }) 0).imp_right
      fun h => (congrArg (fun c : Core => spGet false e.val c.accBad) h).trans (spGet_set false e.val true (getCore s q.val).accBad)
  · rintro q rfl
    exact ⟨post_changes .cores (by decide), post_changes .tags (by decide), post_changes .hbm (by decide)⟩
  · rintro q rfl
    exact fenceFor_mode _ q.isLt
  · rintro rfl
    obtain ⟨hfatal, -, hcmds⟩ := internalFatal_halts s 0 0 3
    exact ⟨hfatal, hcmds⟩
  · rintro k ctx step rfl
    have hkeep : Part.Kept (windowUpset s k.val ctx.val step)
        (post (windowUpset s k.val ctx.val step) .arrayUe 5 k.val (some ctx.val) 0 0) .merge := post_changes .merge (by decide)
    obtain ⟨-, -, hrmus⟩ := hkeep
    rw [getRmu, show (uncorrectableAt s both chkA chkB (.merge k ctx step)).rmus = _ from hrmus, ← getRmu]
    exact windowUpset_upset s k.val ctx.val step
  · rintro ctx y n c rfl
    exact layerUpset_found _ _ _ _ fun _ => rfl
  · rintro ctx y n j k c rfl
    exact layerUpset_found _ _ _ _ fun _ => rfl
  · rintro ctx y n j k rfl
    exact layerUpset_found _ _ _ _ fun _ => rfl
  · rintro k u rfl
    have hpoison : (uncorrectableAt s both chkA chkB (.hbm k u)).hbmPoison
        = ({ s with hbmPoison := spSet false (4 * k + u.val) true s.hbmPoison } : State).hbmPoison :=
      arrayUe_changes .poison (by decide)
    rw [hpoison, spGet_set]
  · rintro rfl hready hst
    exact watchdog_restarts s chkA chkB hready hst
  · rintro q i rfl
    exact replayLost_spent s q.val i both

end Sys2Proof.Machine

/-! PROOFS. The family of spec/16: link states at fences, audits, the host log ring and writes to the SB block. -/

namespace Sys2Proof.Machine

set_option Elab.async false

/-! ### States of ports (R498, R505, R620) -/

/-- A port takes a state; every other keeps its own. -/
def PortGoes (p st : Nat) (s t : State) : Prop := ∀ q, (getPort t q).st = if q = p then st else (getPort s q).st

theorem sameLinks_of_fab {s t : State} (h : t.fab = s.fab) : ∀ q, (getPort t q).st = (getPort s q).st := fun q => by
  rw [getPort, h, ← getPort]

theorem portGoes_modPort (s : State) (p : Nat) {st : Nat} {f : PortSt → PortSt} (h : (f (getPort s p)).st = st) :
    PortGoes p st s (modPort s p f) := fun q => by
  split
  · next hq => rw [hq, modPort, getPort_setPort, h]
  · next hq => rw [modPort, getPort_setPort_ne _ _ hq]

theorem PortGoes.then {p st : Nat} {s t u : State} (h : PortGoes p st s t) (k : ∀ q, (getPort u q).st = (getPort t q).st) :
    PortGoes p st s u := fun q => (k q).trans (h q)

theorem PortGoes.after {p st : Nat} {s t u : State} (h : ∀ q, (getPort t q).st = (getPort s q).st) (k : PortGoes p st t u) :
    PortGoes p st s u := fun q => by rw [k q, h q]

theorem loseBundle_st (s : State) (dir p q : Nat) : (getPort (loseBundle s dir p) q).st = (getPort s q).st := by
  have hfold (l : List Nat) : ((getPort (l.foldl (fun s q => modPort s q fun x => { x with failover := none }) s) q).st
      = (getPort s q).st) :=
    List.foldlRecOn (motive := fun u : State => (getPort u q).st = (getPort s q).st) l _ rfl
      fun u hu r _ => ((sameLinks_modPort (f := fun x => { x with failover := none }) rfl).1 q).trans hu
  unfold loseBundle
  dsimp only
  exact (sameLinks_of_fab (lose_changes .fab (by decide)) q).trans (hfold _)

theorem askFailover_st (s : State) (p q : Nat) : (getPort (askFailover s p) q).st = (getPort s q).st := by
  unfold askFailover
  split
  · exact sameLinks_wireOut.1 q
  · rfl

/-- A link that fails takes the state given. -/
theorem linkFails_st (s : State) (p st cause : Nat) : PortGoes p st s (linkFails s p st cause) := by
  obtain ⟨u, hu⟩ : ∃ u, u = linkRecord (bump (exchangeCut s p) .klDowns p 0 0 1) .linkDown p cause := ⟨_, rfl⟩
  have hfab : u.fab = s.fab := by
    have hcut : (exchangeCut s p).fab = s.fab := exchangeCut_changes .fab (by decide)
    have hrec : u.fab = (exchangeCut s p).fab := hu ▸ linkRecord_changes .fab (by decide)
    rw [hrec, hcut]
  obtain ⟨v, hv⟩ : ∃ v, v = modPort u p fun x => { quietPort x st with downAt := recent u x.downAt } := ⟨_, rfl⟩
  have hgoes : PortGoes p st s v := .after (sameLinks_of_fab hfab) (hv ▸ portGoes_modPort u p rfl)
  unfold linkFails
  dsimp only
  rw [← hu, ← hv]
  refine PortGoes.then ?_ (sameLinks_of_fab (bundleChanged_changes .fab (by decide)))
  split
  · exact (hgoes.then (sameLinks_of_fab (lose_changes .fab (by decide)))).then (loseBundle_st _ _ _)
  · split
    · exact hgoes
    · exact (hgoes.then (sameLinks_modPort (f := fun x => { x with failover := some (x.failover.getD [] ++ (getPort s p).replay) })
        rfl).1).then (askFailover_st _ _)

theorem fencePort_st (s : State) (p : Nat) : PortGoes p 0 s (fencePort s p) := by
  obtain ⟨u, hu⟩ : ∃ u, u = post (setFld s .sbPortfence 0 0 0 p 1 1) .unitFenced 6 p none 0 0 := ⟨_, rfl⟩
  have hfab : u.fab = s.fab := hu ▸ post_changes .fab (by decide)
  unfold fencePort
  dsimp only
  rw [← hu]
  have hdown : PortGoes p 0 s (if portUp u p then linkFails u p 0 2 else modPort u p fun x => quietPort x 0) := by
    refine .after (sameLinks_of_fab hfab) ?_
    split
    · exact linkFails_st u p 0 2
    · exact portGoes_modPort u p rfl
  refine PortGoes.then (hdown.then ?_) (sameLinks_of_fab (bundleChanged_changes .fab (by decide)))
  exact (sameLinks_modPort rfl).1

theorem linkDown_notUp (s : State) (p cause : Nat) : portUp (linkDown s p cause) p = false := by
  have hdown : portUp (linkFails s p 1 cause) p = false := by simp [portUp, linkFails_st s p 1 cause p]
  unfold linkDown fenceRule
  dsimp only
  split
  · simp [portUp, fencePort_st (linkFails s p 1 cause) p p]
  · exact hdown

/-! ### Audits (R623, Table 16.5) -/

theorem imbalance_allotments (s : State) : 4 ≤ regFld (imbalance s .allotments) .govStatus 0 0 0 4 4 := by
  obtain ⟨u, hu⟩ : ∃ u, u = conserveBreak s 2 10 0 5 := ⟨_, rfl⟩
  have heq : imbalance s .allotments = govRefresh (setFld u .govStatus 0 0 0 4 4 (max 4 (regFld u .govStatus 0 0 0 4 4))) := by
    rw [hu]
    rfl
  obtain ⟨-, hfld⟩ := govRefresh_leaves (setFld u .govStatus 0 0 0 4 4 (max 4 (regFld u .govStatus 0 0 0 4 4)))
  have hlt : regFld u .govStatus 0 0 0 4 4 < 16 := regFld_lt ..
  rw [heq, hfld, regFld_setFld _ _ _ _ _ _ (by decide)]
  omega

theorem conservationAudit_completes {what : Quantity} {upset : Bool} {s : State} (hdue : auditDue s what = true)
    (hready : firmwareReady s = true) : Completes (.conservationAudit what upset) s fun t =>
      let out : Prop := upset = true ∨ what = .allotments ∧ budget s < allotted s
      (¬out → t = s)
        ∧ (out → (∀ q c, what = .credits q c → portUp t q.val = false)
            ∧ (what = .tagsQuota ∨ what = .tagsExpress ∨ what = .tagsFabric ∨ what = .tagsParcel →
                t.log.fatal = true ∧ t.log.dpHalted = true)
            ∧ (∀ q, what = .tokens q ∨ what = .queues q → fenceMode t q.val = 2)
            ∧ (what = .allotments → 4 ≤ regFld t .govStatus 0 0 0 4 4)) := by
  have hout : (upset || (what == .allotments && decide (budget s < allotted s))) = true
      ↔ upset = true ∨ what = .allotments ∧ budget s < allotted s := by simp
  refine ⟨_, whenDue_pos (by simp [hdue, hready]) .., fun h => if_neg (mt hout.1 h), fun h => ?_⟩
  rw [if_pos (hout.2 h)]
  have hpool : (auditPool s).log.fatal = true ∧ (auditPool s).log.dpHalted = true := by
    obtain ⟨hfatal, hhalted, -⟩ := internalFatal_halts (conserveBreak s 4 0 0 1) 0 0 1
    exact ⟨hfatal, hhalted⟩
  refine ⟨?_, ?_, ?_, ?_⟩
  · rintro q c rfl
    exact linkDown_notUp ..
  · rintro (rfl | rfl | rfl | rfl) <;> exact hpool
  · rintro q (rfl | rfl) <;> exact fenceFull_mode _ q.isLt
  · rintro rfl
    exact imbalance_allotments s

/-! ### Port fences (R620) -/

theorem regBit_setFld_ne (s : State) (r : RegName) (u i j : Nat) {lsb b : Nat} (x : Nat) (h : lsb + 1 ≤ 64) (hb : b ≠ lsb) :
    regBit (setFld s r u i j lsb 1 x) r u i j b = regBit s r u i j b := by
  rw [regBit, setFld, regFld_setReg]
  obtain hlt | hlt := Nat.lt_or_gt_of_ne hb
  · rw [fGet_fSet_below _ h hlt, ← regFld, ← regBit]
  · rw [fGet_fSet_above _ h hlt, ← regFld, ← regBit]

theorem portTrain_fencedAt (s : State) (p : Nat) : (getPort (portTrain s p) p).fencedAt = (getPort s p).fencedAt := by
  unfold portTrain
  split
  · rw [modPort, getPort_setPort]
    rfl
  · rfl

theorem releasePort_outcome (s : State) {p : Nat} (hp : p < 32) : regBit (releasePort s p) .sbPortfence 0 0 0 p = false
    ∧ (getPort (releasePort s p) p).fencedAt = none
    ∧ ∀ q, q < 32 → q ≠ p → regBit (releasePort s p) .sbPortfence 0 0 0 q = regBit s .sbPortfence 0 0 0 q := by
  obtain ⟨u, hu⟩ : ∃ u, u = post (setFld s .sbPortfence 0 0 0 p 1 0) .unitReleased 6 p none 0 0 := ⟨_, rfl⟩
  obtain ⟨v, hv⟩ : ∃ v, v = modPort u p fun x => { x with fencedAt := none } := ⟨_, rfl⟩
  have heq : releasePort s p
      = portTrain (if v.test.portTest = some p then { v with test := { v.test with portTest := none } } else v) p := by
    rw [hv, hu]
    rfl
  have hregs : (releasePort s p).regs = u.regs := by
    have htrain (w : State) : (portTrain w p).regs = w.regs := portTrain_changes .regs (by decide)
    rw [heq, htrain]
    split <;> rw [hv] <;> rfl
  have hpost : SameRegsBut endRegs (setFld s .sbPortfence 0 0 0 p 1 0) (releasePort s p) := by
    have : SameRegsBut endRegs (setFld s .sbPortfence 0 0 0 p 1 0) u := hu ▸ sameRegs_endPost
    exact this.trans (.of_eq hregs)
  have hfence : regAddr .sbPortfence 0 0 0 ∉ endRegs := by decide
  refine ⟨?_, ?_, fun q hq hne => ?_⟩
  · rw [hpost.regBit _ hfence]
    exact regBit_setFld s _ _ _ _ false (by omega)
  · have hnone : (getPort v p).fencedAt = none := by rw [hv, modPort, getPort_setPort]
    rw [heq, portTrain_fencedAt]
    split <;> exact hnone
  · rw [hpost.regBit _ hfence, regBit_setFld_ne s _ _ _ _ _ (by omega) hne]

theorem portFenceRelease_completes {port : Fin 32} {s : State} (hsm : smWorks s = true)
    (hbit : regBit s .sbPortfence 0 0 0 port.val = true)
    (hlate : ∀ at_, (getPort s port.val).fencedAt = some at_ → at_ + 600000000000 ≤ opNs (nowOp s))
    (hfenced : (getPort s port.val).fencedAt ≠ none) : Completes (.portFenceRelease port) s fun t =>
      regBit t .sbPortfence 0 0 0 port.val = false ∧ (getPort t port.val).fencedAt = none
        ∧ ∀ q, q < 32 → q ≠ port.val → regBit t .sbPortfence 0 0 0 q = regBit s .sbPortfence 0 0 0 q := by
  obtain ⟨at_, hat⟩ := Option.ne_none_iff_exists'.1 hfenced
  exact ⟨releasePort s port.val, whenDue_pos (by simp [hsm, hbit, hat, hlate at_ hat]) .., releasePort_outcome s port.isLt⟩

/-! ### The host log ring (R628) -/

theorem hostLogRingWrite_completes {s : State} {y : LogRec} (hnext : ringNext s = some y) (hhere : hostHere s = true)
    (hon : regBit s .logRcfg 0 0 0 31 = true) (hroom : ringFull s = false) (hsize : regFld s .logRcfg 0 0 0 0 5 ≤ 16) :
    Completes .hostLogRingWrite s fun t =>
      Post.write 0 (regFld s .logRbase 0 0 0 12 52 * 4096 + 32 * regFld s .logRtail 0 0 0 0 16) (recBytes y) false
          plainAttr ∈ posted t ++ t.host.heldPosts.map (·.2.2)
        ∧ regFld t .logRtail 0 0 0 0 16 = (regFld s .logRtail 0 0 0 0 16 + 1) % 2 ^ regFld s .logRcfg 0 0 0 0 5
        ∧ ∀ z ∈ t.log.central, z.seq = y.seq → z.toHost = true := by
  have hbody : exec .hostLogRingWrite s = match ringNext s with
    | none => .next s
    | some r => whenDue (hostHere s && regBit s .logRcfg 0 0 0 31 && !ringFull s) s (.next (ringWrite s r)) := rfl
  refine ⟨ringWrite s y, by rw [hbody, hnext]; exact whenDue_pos (by simp [hhere, hon, hroom]) .., ?_⟩
  obtain ⟨u, hu⟩ : ∃ u, u = emitEntry 2 s 0 (regFld s .logRbase 0 0 0 12 52 * 4096 + 32 * regFld s .logRtail 0 0 0 0 16)
    (recBytes y) := ⟨_, rfl⟩
  have hregs : u.regs = s.regs := hu ▸ emitEntry_changes .regs (by decide)
  have hout : Post.write 0 (regFld s .logRbase 0 0 0 12 52 * 4096 + 32 * regFld s .logRtail 0 0 0 0 16) (recBytes y) false
      plainAttr ∈ outputs u := by
    rw [hu, emitEntry]
    exact (mem_outputs_emitAt ..).2 (.inl rfl)
  obtain ⟨v, hv⟩ : ∃ v, v = setFld { u with log := { u.log with
      central := u.log.central.map fun x => if x.seq = y.seq then { x with toHost := true } else x } } .logRtail 0 0 0 0 16
      ((regFld s .logRtail 0 0 0 0 16 + 1) % 2 ^ regFld u .logRcfg 0 0 0 0 5) := ⟨_, rfl⟩
  have hvout : outputs v = outputs u := by rw [hv]; rfl
  have hvtail : regFld v .logRtail 0 0 0 0 16 = (regFld s .logRtail 0 0 0 0 16 + 1) % 2 ^ regFld s .logRcfg 0 0 0 0 5 := by
    have hcfg : regFld u .logRcfg 0 0 0 0 5 = regFld s .logRcfg 0 0 0 0 5 := by rw [regFld, regVal_congr hregs, ← regFld]
    have hpow : 2 ^ regFld s .logRcfg 0 0 0 0 5 ≤ 2 ^ 16 := Nat.pow_le_pow_right (by decide) hsize
    have hlt := Nat.mod_lt (regFld s .logRtail 0 0 0 0 16 + 1) (Nat.two_pow_pos (regFld s .logRcfg 0 0 0 0 5))
    rw [hv, regFld_setFld _ _ _ _ _ _ (by decide), hcfg]
    exact Nat.mod_eq_of_lt (hlt.trans_le hpow)
  have hvlog : ∀ z ∈ v.log.central, z.seq = y.seq → z.toHost = true := by
    rw [hv]
    intro z hz hseq
    obtain ⟨x, -, rfl⟩ := List.mem_map.1 hz
    split
    · rfl
    · next hno => simp_all
  have heq : ringWrite s y = if regFld v .logRcfg 0 0 0 12 3 ≤ y.sev then sendVector v (regFld v .logRcfg 0 0 0 16 5) else v := by
    rw [hv, hu]
    rfl
  rw [heq]
  split
  · have hsent : (sendVector v (regFld v .logRcfg 0 0 0 16 5)).regs = v.regs := sendVector_changes .regs (by decide)
    have hlog : (sendVector v (regFld v .logRcfg 0 0 0 16 5)).log = v.log := sendVector_changes .log (by decide)
    refine ⟨outputs_sendVector _ _ (hvout ▸ hout), ?_, hlog ▸ hvlog⟩
    rw [regFld, regVal_congr hsent, ← regFld, hvtail]
  · exact ⟨show _ ∈ outputs v from hvout ▸ hout, hvtail, hvlog⟩

end Sys2Proof.Machine

/-! PROOFS. The family of spec/16: writes of the Stationmaster to the SB block, and the obligation. -/

namespace Sys2Proof.Machine

set_option Elab.async false

/-! ### What keeps the fences of the cores (R616) -/

/-- No core's fence changes. -/
structure SameFences (s t : State) : Prop where
  mode : ∀ n, n < 160 → fenceMode t n = fenceMode s n

theorem SameFences.refl (s : State) : SameFences s s := ⟨fun _ _ => rfl⟩

theorem SameFences.trans {s t u : State} (h : SameFences s t) (k : SameFences t u) : SameFences s u :=
  ⟨fun n hn => (k.mode n hn).trans (h.mode n hn)⟩

theorem SameFences.ite {s t u : State} {c : Prop} [Decidable c] (h : SameFences s t) (k : SameFences s u) :
    SameFences s (if c then t else u) := by
  split
  · exact h
  · exact k

theorem SameFences.foldl {α : Type} {f : State → α → State} {l : List α} (h : ∀ s, ∀ a ∈ l, SameFences s (f s a)) (s : State) :
    SameFences s (l.foldl f s) :=
  List.foldlRecOn (motive := SameFences s) l f (.refl s) fun u hu a ha => hu.trans (h u a ha)

theorem SameFences.of_regs {s t : State} (h : t.regs = s.regs) : SameFences s t :=
  ⟨fun _ _ => fenceMode_eq (regVal_congr h ..)⟩

theorem SameFences.of_end {s t : State} (h : SameRegsBut endRegs s t) : SameFences s t :=
  ⟨fun _ hn => fenceMode_eq (h.regVal (notMem_endRegs (inSb_sbCfence hn)))⟩

/-- A register outside SB_CFENCE. -/
theorem sameFences_setReg {s : State} {r : RegName} {u i j : Nat} {x : W64}
    (h : regAddr r u i j < blkBase .sb 0 + 0x400 ∨ blkBase .sb 0 + 0x680 ≤ regAddr r u i j := by decide) :
    SameFences s (setReg s r u i j x) :=
  ⟨fun n hn => fenceMode_eq (regVal_setReg_ne _ _ fun he => by
    rw [← he] at h
    simp only [regAddr, regInfo, blkBase] at h
    omega)⟩

theorem sameFences_post {s : State} {code : LogCode} {unitKind unitIdx : Nat} {ctx : Option Nat} {arg addr : Nat} :
    SameFences s (post s code unitKind unitIdx ctx arg addr) := .of_end sameRegs_endPost

theorem SameFences.eqv {s t u : State} (h : SameFences s t) (k : u.regs = t.regs := by rfl) : SameFences s u :=
  h.trans (.of_regs k)

theorem SameFences.post {s t : State} (h : SameFences s t) {code : LogCode} {unitKind unitIdx : Nat} {ctx : Option Nat}
    {arg addr : Nat} : SameFences s (Machine.post t code unitKind unitIdx ctx arg addr) := h.trans sameFences_post

theorem sameFences_fenceMatrix (s : State) (n : Nat) : SameFences s (fenceMatrix s n) := by
  unfold fenceMatrix
  exact .ite (.refl s) (.trans sameFences_setReg sameFences_post)

theorem sameFences_fenceChannel (s : State) (k : Nat) : SameFences s (fenceChannel s k) := by
  have hset : SameFences s (setFld s .sbChfail 0 (k / 32) 0 (k % 32) 1 1) :=
    sameFences_setReg (.inr (by simp only [regAddr, regInfo, blkBase]; omega))
  unfold fenceChannel
  exact .ite (.refl s) (hset.post)

theorem sameFences_fenceWay (s : State) (i w : Nat) : SameFences s (fenceWay s i w) := by
  have hset : SameFences s (setFld s .sbWayfence 0 i 0 w 1 1) :=
    sameFences_setReg (.inr (by simp only [regAddr, regInfo, blkBase]; omega))
  unfold fenceWay
  dsimp only
  exact .ite (.refl s) hset.eqv.post

theorem sameFences_bundleChanged (s : State) (dir : Nat) : SameFences s (bundleChanged s dir) := by
  have hdetour (d link : Nat) (broken : Bool) : SameFences s (setDetour s d link broken) := by
    unfold setDetour
    split
    · next h =>
      have hd : d < 3 := by simp only [Bool.and_eq_true, decide_eq_true_eq] at h; exact h.1
      exact sameFences_setReg (.inl (by simp only [regAddr, regInfo, blkBase]; omega))
    · exact .refl s
  unfold bundleChanged
  dsimp only
  exact .ite (.refl s) (.ite (.refl s) ((hdetour ..).trans (.of_regs rfl)))

theorem sameFences_lose (s : State) (p n : Nat) : SameFences s (lose s p n) := by
  unfold lose
  exact .ite (.refl s) (.trans sameFences_setReg sameFences_post)

theorem sameFences_loseBundle (s : State) (dir p : Nat) : SameFences s (loseBundle s dir p) := by
  unfold loseBundle
  dsimp only
  have hports (l : List Nat) : SameFences s (l.foldl (fun s q => modPort s q fun x => { x with failover := none }) s) :=
    .foldl (fun _ _ _ => by exact .of_regs rfl) s
  exact SameFences.trans (hports (bundle s dir)).eqv (sameFences_lose ..)

theorem sameFences_linkFails (s : State) (p st cause : Nat) : SameFences s (linkFails s p st cause) := by
  have hcut : SameFences s (exchangeCut s p) := by
    obtain ⟨u, hu⟩ : ∃ u, u = { s with time := { s.time with exchange := none } } := ⟨_, rfl⟩
    have hcount : SameFences u (bump u .ttSynclost 0 0 0 1) := sameFences_setReg
    unfold exchangeCut abandon
    rw [← hu]
    exact .ite (.trans (.of_regs (hu ▸ rfl)) hcount) (.refl s)
  obtain ⟨u, hu⟩ : ∃ u, u = linkRecord (bump (exchangeCut s p) .klDowns p 0 0 1) .linkDown p cause := ⟨_, rfl⟩
  have hcount : SameFences (exchangeCut s p) (bump (exchangeCut s p) .klDowns p 0 0 1) :=
    sameFences_setReg (.inr (by simp only [regAddr, regInfo, blkBase]; omega))
  have hrec : SameFences (bump (exchangeCut s p) .klDowns p 0 0 1) u := hu ▸ sameFences_post
  obtain ⟨v, hv⟩ : ∃ v, v = modPort u p fun x => { quietPort x st with downAt := recent u x.downAt } := ⟨_, rfl⟩
  have hquiet : SameFences s v := ((hcut.trans hcount).trans hrec).trans (hv ▸ .of_regs rfl)
  unfold linkFails
  dsimp only
  rw [← hu, ← hv]
  refine SameFences.trans ?_ (sameFences_bundleChanged ..)
  exact .ite ((hquiet.trans (sameFences_lose ..)).trans (sameFences_loseBundle ..))
    (.ite hquiet (hquiet.eqv.eqv (askFailover_changes .regs (by decide))))

theorem sameFences_fencePort (s : State) (p : Nat) : SameFences s (fencePort s p) := by
  obtain ⟨u, hu⟩ : ∃ u, u = post (setFld s .sbPortfence 0 0 0 p 1 1) .unitFenced 6 p none 0 0 := ⟨_, rfl⟩
  have hset : SameFences s (setFld s .sbPortfence 0 0 0 p 1 1) := sameFences_setReg
  have hfence : SameFences s u := hset.trans (hu ▸ sameFences_post)
  have hdown : SameFences s (if portUp u p then linkFails u p 0 2 else modPort u p fun x => quietPort x 0) :=
    .ite (hfence.trans (sameFences_linkFails ..)) hfence.eqv
  unfold fencePort
  dsimp only
  rw [← hu]
  exact hdown.eqv.trans (sameFences_bundleChanged ..)

theorem sameFences_releasePort (s : State) (p : Nat) : SameFences s (releasePort s p) := by
  have hset : SameFences s (setFld s .sbPortfence 0 0 0 p 1 0) := sameFences_setReg
  obtain ⟨u, hu⟩ : ∃ u, u = post (setFld s .sbPortfence 0 0 0 p 1 0) .unitReleased 6 p none 0 0 := ⟨_, rfl⟩
  have hfree : SameFences s (modPort u p fun x => { x with fencedAt := none }) :=
    (hset.trans (hu ▸ sameFences_post : SameFences _ u)).eqv
  unfold releasePort
  dsimp only
  rw [← hu]
  exact (SameFences.ite hfree.eqv hfree).eqv (portTrain_changes .regs (by decide))

/-- The clusters count their restarts in a block of their own. -/
theorem sameFences_restartOn (s : State) {k : Nat} (hk : k < 4) : SameFences s (restartOn s fun l => l.1 == k) := by
  unfold restartOn
  dsimp only
  refine SameFences.trans (.foldl (fun u p hp => ?_) s) (.of_regs rfl)
  split
  · next c _ hlane =>
    have hc : c = k := by simpa [hlane] using (List.mem_filter.1 hp).2
    exact sameFences_setReg (.inl (by simp only [regAddr, regInfo, blkBase]; omega))
  · exact .refl u

theorem sameFences_fenceCluster (s : State) {k : Nat} (hk : k < 4) : SameFences s (fenceCluster s k) := by
  have hset : SameFences s (setFld s .sbSlvfail 0 0 0 k 1 1) := sameFences_setReg
  have hdrop (u : State) : SameFences u (dropGovernor u k) := by
    unfold dropGovernor
    dsimp only
    have hset (v : State) : SameFences v (setFld v .govLstat 0 0 0 0 1 0) := sameFences_setReg
    exact .ite (.trans (.of_regs (by rfl)) (hset _)) (.refl u)
  have hgov (u : State) : SameFences u (govRefresh u) :=
    ⟨fun n hn => fenceMode_eq ((sameRegs_govRefresh u).regVal fun hmem => by
      have hall : ∀ x ∈ boundaryRegs, x < blkBase .sb 0 ∨ blkBase .sb 0 + 4096 ≤ x := by decide
      obtain ⟨hlo, hhi⟩ := inSb_sbCfence hn
      have := hall _ hmem
      omega)⟩
  unfold fenceCluster failCluster
  exact .ite (.refl s) ((((hset.trans (hdrop _)).trans (sameFences_restartOn _ hk)).trans (hgov _)).trans sameFences_post)

/-! ### Writes to the SB block (R616) -/

theorem lt_of_mem_newBits {old new n b : Nat} (h : b ∈ newBits old new n) : b < n := List.mem_range.1 (List.mem_filter.1 h).1

/-- Every fence stays, or grows. -/
def FencesGrow (s t : State) : Prop := ∀ n, n < 160 → fenceMode s n ≤ fenceMode t n

theorem SameFences.grow {s t : State} (h : SameFences s t) : FencesGrow s t := fun n hn => (h.mode n hn).ge

theorem regAddr_sbCfence_ne {n m : Nat} (h : n ≠ m) : regAddr .sbCfence 0 n 0 ≠ regAddr .sbCfence 0 m 0 := by
  simp only [regAddr, regInfo, blkBase]
  omega

theorem fenceSeq_grows (s : State) {p : Nat} (hp : p < 160) (h : fenceMode s p ≤ 1) : FencesGrow s (fenceSeq s p) := fun n hn => by
  obtain ⟨hmode, hregs, -⟩ := fenceSeq_fences s hp
  by_cases he : n = p
  · rw [he, hmode]
    exact h
  · exact (fenceMode_eq (hregs.regVal (List.not_mem_cons_of_ne_of_not_mem (regAddr_sbCfence_ne he)
      (notMem_endRegs (inSb_sbCfence hn))))).ge

theorem fenceFull_grows (s : State) {p : Nat} (hp : p < 160) : FencesGrow s (fenceFull s p) := fun n hn => by
  by_cases he : n = p
  · rw [he, fenceFull_mode s hp]
    exact Nat.min_le_left ..
  · have hset : fenceMode (setFld s .sbCfence 0 p 0 0 2 2) n = fenceMode s n :=
      fenceMode_eq (regVal_setReg_ne _ _ (regAddr_sbCfence_ne he))
    exact (((fenceMode_unmaps _ _ hn).trans (sameFences_post.mode n hn)).trans hset).ge

/-- A register found lies inside its array. -/
theorem arrayFind_lt {x : RegInfo} {o i j b : Nat} (h : arrayFind x o = some (i, j, b)) : i < x.n1 := by
  unfold arrayFind at h
  extract_lets d i' d' j' b' at h
  simp only [Option.ite_none_left_eq_some, Option.ite_none_right_eq_some, Bool.and_eq_true, decide_eq_true_eq,
    Option.some.injEq, Prod.mk.injEq] at h
  obtain ⟨-, ⟨⟨hi, -⟩, -⟩, rfl, -⟩ := h
  exact hi

theorem regAt_lt {r : RegName} {a u i j b : Nat} (h : regAt r a = some (u, i, j, b)) : i < (regInfo r).n1 := by
  unfold regAt at h
  extract_lets x base d st v at h
  simp only [Option.ite_none_left_eq_some, Option.ite_none_right_eq_some] at h
  obtain ⟨-, -, h⟩ := h
  split at h
  · next hfind =>
    simp only [Option.some.injEq, Prod.mk.injEq] at h
    obtain ⟨-, rfl, -⟩ := h
    exact arrayFind_lt hfind
  · cases h

theorem regFindIn_lt {l : List RegName} {a u i j b : Nat} {r : RegName} (h : regFindIn l a = some (r, u, i, j, b)) :
    i < (regInfo r).n1 := by
  induction l with
  | nil => cases h
  | cons q l ih =>
    unfold regFindIn at h
    split at h
    · next hat =>
      cases h
      exact regAt_lt hat
    · exact ih h

theorem sbWrite_grows (s : State) {r : RegName} {i : Nat} (v : Nat) (hi : i < (regInfo r).n1) : FencesGrow s (sbWrite s r i v) := by
  unfold sbWrite
  dsimp only
  split
  · have hp : i < 160 := hi
    split
    · exact fun _ _ => le_rfl
    · split
      · next hkeep hone => exact fenceSeq_grows s hp (by simp [hone] at hkeep; omega)
      · exact fenceFull_grows s hp
  · have hset (x : W64) : SameFences s (setReg s .sbLmap 0 i 0 x) :=
      sameFences_setReg (.inr (by simp only [regAddr, regInfo, blkBase]; omega))
    exact (SameFences.ite sameFences_post (.ite (hset _) ((hset _).trans sameFences_post))).grow
  · exact (SameFences.foldl (fun u n _ => sameFences_fenceMatrix u n) s).grow
  · exact (SameFences.foldl (fun u k hk => sameFences_fenceCluster u (lt_of_mem_newBits hk)) s).grow
  · exact (SameFences.foldl (fun u b _ => sameFences_fenceChannel u _) s).grow
  · exact ((SameFences.foldl (fun u p _ => sameFences_fencePort u p) s).trans
      (.foldl (fun u p _ => sameFences_releasePort u p) _)).grow
  · exact (SameFences.foldl (fun u w _ => sameFences_fenceWay u i w) s).grow
  · exact (sameFences_setReg (.inr (by simp only [regAddr, regInfo, blkBase]; omega))).grow
  · exact fun _ _ => le_rfl

/-- A record that does not coalesce counts at most a lost record. -/
theorem sameRegs_post_lost {s : State} {code : LogCode} {unitKind unitIdx : Nat} {ctx : Option Nat} {arg addr : Nat}
    (h : logSev code ≠ 1) : SameRegsBut [regAddr .logLost 0 0 0] s (post s code unitKind unitIdx ctx arg addr) := by
  have htrace (s : State) (unit data : Nat) : SameRegsBut [regAddr .logLost 0 0 0] s (traceEv s 3 unit none data) :=
    traceEv_changes.sameRegs _
  unfold post postRec
  simp only [beq_false_of_ne h, Bool.false_eq_true, if_false]
  refine .trans ?_ (htrace _ _ _)
  split
  · exact .trans (.of_eq rfl) sameRegs_setReg
  · exact .of_eq rfl

theorem sbRegisterWrite_host (offset : BitVec 12) (value : W32) (s : State) :
    Completes (.sbRegisterWrite true offset value) s fun t => (hostHere s = false → t = s)
      ∧ SameRegsBut [regAddr .logLost 0 0 0] s t ∧ t.cores = s.cores ∧ t.slices = s.slices ∧ t.fab = s.fab := by
  refine ⟨if hostHere s then post s .sbDenied 10 0 none 0 0 else s, rfl, fun h => if_neg (by simp [h]), ?_⟩
  have hlost : SameRegsBut [regAddr .logLost 0 0 0] s (post s .sbDenied 10 0 none 0 0) :=
    sameRegs_post_lost (by decide)
  split
  · exact ⟨hlost, post_changes .cores (by decide), post_changes .slices (by decide), post_changes .fab (by decide)⟩
  · exact ⟨.of_eq rfl, rfl, rfl, rfl⟩

theorem sbRegisterWrite_sm (offset : BitVec 12) (value : W32) {s : State} (hsm : smWorks s = true) :
    Completes (.sbRegisterWrite false offset value) s fun t =>
      (∀ n, n < 160 → fenceMode s n ≤ fenceMode t n) ∧ t.variant = s.variant ∧ t.nv = s.nv := by
  refine ⟨_, whenDue_pos hsm .., ?_⟩
  split
  · next r _ i _ _ hfind =>
    exact ⟨sbWrite_grows s _ (regFindIn_lt hfind), sbWrite_changes .variant (by decide), sbWrite_changes .nv (by decide)⟩
  · exact ⟨fun _ _ => le_rfl, rfl, rfl⟩

/-- Settles O53: what a fence, an error or an audit does is read off the registers and records that it writes; the other
registers, and the platform, lie outside. -/
theorem repairEvents : Obligations.RepairEvents := by
  unfold Obligations.RepairEvents
  intro core logical kind r a l unit x what upset port offset value ce ue again both chkA chkB s
  exact ⟨divergence_completes, selfTest_completes, fun _ => remap_completes, replayStart_completes, scrub_completes,
    correctedError_completes, fun hdue => ⟨_, whenDue_pos hdue .., uncorrectable_outcome s both chkA chkB ue⟩,
    conservationAudit_completes, portFenceRelease_completes, fun _ => hostLogRingWrite_completes,
    sbRegisterWrite_host offset value s, sbRegisterWrite_sm offset value⟩

end Sys2Proof.Machine

/-! PROOFS. The family of spec/18 and spec/19: rails, references, resets and bring-up. -/

namespace Sys2Proof.Machine

set_option Elab.async false

/-- A boot that a fatal code has stopped. -/
def Stopped (t : State) : Prop := t.power.phase = 15 ∧ t.power.bootFatal = true ∧ t.power.rails = .failed

/-- Phase `n` of bring-up is in progress. -/
def InPhase (s : State) (n : Nat) : Prop := s.power.por = false ∧ s.power.phase = n ∧ s.power.rails = .on

variable {s : State}

/-! ### Cold reset (R682, R684) -/

theorem porNFall_completes (hpor : s.power.por = false) : Completes .porNFall s fun t =>
    t.power.por = true ∧ t.power.phase = 0 ∧ t.regs = [] ∧ t.cores = [] ∧ t.tags = [] ∧ t.hbm = [] ∧ t.slices = []
      ∧ t.nv = s.nv ∧ t.pending = s.pending ∧ t.variant = s.variant ∧ t.host.cmds = [] ∧ t.log.central = [] :=
  ⟨coldReset s, whenDue_pos (by simp [hpor]) .., rfl, rfl, rfl, rfl, rfl, rfl, rfl, rfl, rfl, rfl, rfl, rfl⟩

/-- The fence registers lie in the SB block. -/
theorem inSb_otpFence {r : RegName} (h : otpFence r = true) {i : Nat} (hi : i < (regInfo r).n1) : inSb (regAddr r 0 i 0) := by
  unfold otpFence at h
  split at h
  case h_7 => cases h
  all_goals
    simp only [regInfo] at hi
    simp only [inSb, regAddr, regInfo, blkBase]
    omega

/-- The repairs of OTP reach the fence registers, and the ways, alone. -/
theorem repairOne_outcome (u : State) (e : Nat × W64) : (∀ a, ¬inSb a → spGet none a (repairOne u e).regs = spGet none a u.regs)
    ∧ (repairOne u e).power = u.power ∧ (repairOne u e).nv = u.nv ∧ (repairOne u e).cores = u.cores := by
  refine ⟨fun a ha => ?_, repairOne_changes .power (by decide), repairOne_changes .nv (by decide),
    repairOne_changes .cores (by decide)⟩
  unfold repairOne
  dsimp only
  split
  · next r _ i _ _ hfind =>
    split
    · rfl
    · next hfence =>
      have hin : inSb (regAddr r 0 i 0) := inSb_otpFence (by simpa using hfence) (regFindIn_lt hfind)
      have hset : spGet none a (setReg u r 0 i 0 (fenceBits u r i e.2)).regs = spGet none a u.regs :=
        spGet_regs_setReg_ne _ _ _ _ _ _ fun h => ha (h ▸ hin)
      split <;> exact hset
  · rfl

theorem porNRelease_completes (straps : BitVec 6) (hpor : s.power.por = true) : Completes (.porNRelease straps) s fun t =>
    t.power.por = false ∧ t.power.rails = .rising 1 ∧ regVal t .smStraps 0 0 0 = straps.setWidth 64 ∧ t.nv = s.nv
      ∧ t.cores = s.cores ∧ regBit t .dbgCtl 0 0 0 31 = s.nv.dbgLock := by
  refine ⟨porRelease s straps, whenDue_pos hpor .., ?_⟩
  obtain ⟨u, hu⟩ : ∃ u, u = setPower s { s.power with por := false, pwrdn := false, pwrdnDone := false, rails := .rising 1 } :=
    ⟨_, rfl⟩
  obtain ⟨v, hv⟩ : ∃ v, v = setFld (setReg u .smStraps 0 0 0 (straps.setWidth 64)) .dbgCtl 0 0 0 31 1 s.nv.dbgLock.toNat :=
    ⟨_, rfl⟩
  have heq : porRelease s straps = if v.nv.otpOk then v.nv.repair.foldl repairOne v else v := by
    rw [hv, hu]
    rfl
  have hkeep (l : List (Nat × W64)) : (∀ a, ¬inSb a → spGet none a (l.foldl repairOne v).regs = spGet none a v.regs)
      ∧ (l.foldl repairOne v).power = v.power ∧ (l.foldl repairOne v).nv = v.nv ∧ (l.foldl repairOne v).cores = v.cores := by
    refine List.foldlRecOn (motive := fun w : State => (∀ a, ¬inSb a → spGet none a w.regs = spGet none a v.regs)
      ∧ w.power = v.power ∧ w.nv = v.nv ∧ w.cores = v.cores) l _ ⟨fun _ _ => rfl, rfl, rfl, rfl⟩ ?_
    rintro w ⟨hregs, hpower, hnv, hcores⟩ e -
    obtain ⟨kregs, kpower, knv, kcores⟩ := repairOne_outcome w e
    exact ⟨fun a ha => (kregs a ha).trans (hregs a ha), kpower.trans hpower, knv.trans hnv, kcores.trans hcores⟩
  have hend : (∀ a, ¬inSb a → spGet none a (porRelease s straps).regs = spGet none a v.regs)
      ∧ (porRelease s straps).power = v.power ∧ (porRelease s straps).nv = v.nv ∧ (porRelease s straps).cores = v.cores := by
    rw [heq]
    split
    · exact hkeep _
    · exact ⟨fun _ _ => rfl, rfl, rfl, rfl⟩
  obtain ⟨hregs, hpower, hnv, hcores⟩ := hend
  have hval {r : RegName} (hr : ¬inSb (regAddr r 0 0 0)) : regVal (porRelease s straps) r 0 0 0 = regVal v r 0 0 0 := by
    rw [regVal, hregs _ hr, ← regVal]
  have hstraps : ¬inSb (regAddr .smStraps 0 0 0) := by rw [inSb]; decide
  have hctl : ¬inSb (regAddr .dbgCtl 0 0 0) := by rw [inSb]; decide
  rw [hpower, hnv, hcores, hval hstraps, regBit, regFld, hval hctl, ← regFld, ← regBit, hv]
  refine ⟨by rw [hu]; rfl, by rw [hu]; rfl, ?_, by rw [hu]; rfl, by rw [hu]; rfl, regBit_setFld _ _ _ _ _ _ (by decide)⟩
  rw [setFld, regVal_setReg_ne _ _ (by decide), regVal_setReg]

/-! ### Rails (R663, R667) -/

theorem powerUpStep_completes {k : Nat} (hpor : s.power.por = false) (hrails : s.power.rails = .rising k) :
    Completes .powerUpStep s fun t => t.power = { s.power with rails := if k < 8 then .rising (k + 1) else .on }
      ∧ t = { s with power := t.power, regs := t.regs } := by
  have hbody : exec .powerUpStep s = match s.power.rails with
    | .rising k => whenDue (!s.power.por) s (.next (stepGood s k))
    | _ => .next s := rfl
  refine ⟨stepGood s k, by rw [hbody, hrails]; exact whenDue_pos (by simp [hpor]) .., ?_⟩
  unfold stepGood
  dsimp only
  split <;> exact ⟨rfl, rfl⟩

theorem bootStop_stops (code arg st : Nat) (h : firmwareReady s = false) : Stopped (bootStop s code arg 15 st)
    ∧ (s.power.bootFatal = false → (bootStop s code arg 15 st).power.code = code
        ∧ (bootStop s code arg 15 st).power.arg = arg % 256) := by
  have heq : bootStop s code arg 15 st = railsOff { s with
      power := { (if s.power.bootFatal then s.power else { s.power with code := code, arg := arg % 256, bootFatal := true }) with
        phase := 15 },
      sm := { s.sm with st := st } } .failed := by
    rw [bootStop, h]
    rfl
  rw [heq]
  cases hfatal : s.power.bootFatal with
  | true => exact ⟨⟨rfl, hfatal, rfl⟩, nofun⟩
  | false => exact ⟨⟨rfl, rfl, rfl⟩, fun _ => ⟨rfl, rfl⟩⟩

theorem powerGoodTimeout_completes {k : Nat} (hpor : s.power.por = false) (hrails : s.power.rails = .rising k) :
    Completes .powerGoodTimeout s fun t => Stopped t ∧ (s.power.bootFatal = false → t.power.code = 1 ∧ t.power.arg = k % 256) := by
  have hbody : exec .powerGoodTimeout s = match s.power.rails with
    | .rising k => whenDue (!s.power.por) s (.next (bootStop (post s .vregFault 10 0 none k 0) 1 k 15 0))
    | _ => .next s := rfl
  refine ⟨_, by rw [hbody, hrails]; exact whenDue_pos (by simp [hpor]) .., ?_⟩
  have hpower : (post s .vregFault 10 0 none k 0).power = s.power := post_changes .power (by decide)
  have h := bootStop_stops (s := post s .vregFault 10 0 none k 0) 1 k 0 (by rw [firmwareReady, hpower, hrails]; simp)
  rwa [hpower] at h

theorem pwrdnN_completes (hpor : s.power.por = false) (hpwrdn : s.power.pwrdn = false) : Completes .pwrdnN s fun t =>
    t.power.rails = .down ∧ t.power.pwrdnDone = true ∧ t.host.cmds = [] ∧ t.host.linkUp = false ∧ t.nv = s.nv := by
  refine ⟨powerDown s, whenDue_pos (by simp [hpor, hpwrdn]) .., ?_⟩
  have hcmds : (fatalHalt s).host.cmds = [] := fatalHalt_cmds s
  refine ⟨rfl, rfl, ?_, rfl, powerDown_changes .nv (by decide)⟩
  unfold powerDown
  dsimp only
  split <;> exact hcmds

/-! ### Reference clocks (R673) -/

theorem PortGoes.notUp {p st : Nat} {t : State} (h : PortGoes p st s t) (hst : st ≠ 3) {q : Nat}
    (hq : q = p ∨ portUp s q = false) : portUp t q = false := by
  rw [portUp, h q]
  split
  · simpa using hst
  · next hne => exact hq.resolve_left hne

theorem linkDown_keepsDown (s : State) (p cause : Nat) {q : Nat} (hq : q = p ∨ portUp s q = false) :
    portUp (linkDown s p cause) q = false := by
  have hdown : portUp (linkFails s p 1 cause) q = false := (linkFails_st s p 1 cause).notUp (by decide) hq
  unfold linkDown fenceRule
  dsimp only
  split
  · exact (fencePort_st _ p).notUp (by decide) (.inr hdown)
  · exact hdown

theorem portStops_down (s : State) (p : Nat) {q : Nat} (hq : q = p ∨ portUp s q = false) : portUp (portStops s p) q = false := by
  unfold portStops
  split
  · exact linkDown_keepsDown s p 5 hq
  · next hp =>
    have hq' : portUp s q = false := hq.elim (fun h => by rw [h]; simpa using hp) id
    split
    · exact hq'
    · exact (portGoes_modPort s p rfl).notUp (st := 1) (by decide) hq

theorem portsStop_down {l : List Nat} (s : State) {q : Nat} (hq : q ∈ l) : portUp (l.foldl portStops s) q = false :=
  foldl_establishes (p := fun u => portUp u q = false) hq (fun u => portStops_down u q (.inl rfl))
    (fun u p _ hu => portStops_down u p (.inr hu)) s

/-- What the loss of each reference does. -/
theorem loseRef_outcome (s : State) (ref : RefPin) : (loseRef s ref).power.lost.contains (lostRef ref) = true
    ∧ (ref = .pe → (loseRef s ref).host.linkUp = false)
    ∧ (∀ d, ref = .ser d → ∀ q ∈ portsOfDie s d.val, portUp (loseRef s ref) q = false)
    ∧ (ref = .ser 0 → (loseRef s ref).log.fatal = true) ∧ (ref = .mclk → smWorks s = true → (loseRef s ref).sm.st = 4) := by
  obtain ⟨u, hu⟩ : ∃ u, u = setPower s { s.power with lost := s.power.lost ++ [lostRef ref] } := ⟨_, rfl⟩
  have hlost : u.power.lost.contains (lostRef ref) = true := by rw [hu]; simp [setPower]
  cases ref with
  | pe => exact ⟨by subst hu; exact hlost, fun _ => rfl, nofun, nofun, nofun⟩
  | mclk =>
    have hpost : (post u .smWatchdog 10 0 none 0 0).power = u.power := post_changes .power (by decide)
    have hkeep : (post u .smWatchdog 10 0 none 0 0).power.lost.contains (lostRef .mclk) = true := by rwa [hpost]
    have heq : loseRef s .mclk = if smWorks s then smRestart (post u .smWatchdog 10 0 none 0 0) .watchdog
        else if s.sm.st = 1 then bootStart (post u .smWatchdog 10 0 none 0 0) else u := by rw [hu]; rfl
    refine ⟨?_, nofun, nofun, nofun, fun _ hworks => ?_⟩
    · rw [heq]
      split
      · exact hkeep
      · split
        · exact hkeep
        · exact hlost
    · rw [heq, if_pos hworks]
      rfl
  | ser d =>
    obtain ⟨v, hv⟩ : ∃ v, v = (portsOfDie s d.val).foldl portStops u := ⟨_, rfl⟩
    have heq : loseRef s (.ser d) = if d.val = 0 then internalFatal v 0 0 0 else v := by rw [hv, hu]; rfl
    have hpower : v.power = u.power := by
      rw [hv]
      exact Changes.foldl (l := portParts) .refl (fun _ _ => .of portStops_changes) .power (by decide)
    have hdown : ∀ q ∈ portsOfDie s d.val, portUp v q = false := fun q hq => hv ▸ portsStop_down u hq
    have hend : (loseRef s (.ser d)).power = v.power ∧ (loseRef s (.ser d)).fab = v.fab := by
      rw [heq]
      split
      · exact ⟨internalFatal_changes .power (by decide), internalFatal_changes .fab (by decide)⟩
      · exact ⟨rfl, rfl⟩
    obtain ⟨hpow, hfab⟩ := hend
    refine ⟨by rw [hpow, hpower]; exact hlost, nofun, ?_, ?_, nofun⟩
    · intro d' hd q hq
      cases hd
      rw [portUp, getPort, hfab, ← getPort, ← portUp]
      exact hdown q hq
    · intro h
      cases h
      rw [heq]
      exact (internalFatal_halts v 0 0 0).1

theorem referenceReturn_completes {ref : RefPin} (hpor : s.power.por = false) (hlost : s.power.lost.contains (lostRef ref) = true) :
    Completes (.referenceReturn ref) s fun t =>
      (ref = .ser 0 → t = s) ∧ (ref ≠ .ser 0 → t.power.lost.contains (lostRef ref) = false) := by
  have hfound : (s.power.lost.filter (· != lostRef ref)).contains (lostRef ref) = false := by simp
  refine ⟨returnRef s ref, whenDue_pos (by simp only [hpor, hlost]; rfl) .., ?_⟩
  cases ref with
  | pe => exact ⟨nofun, fun _ => hfound⟩
  | mclk => exact ⟨nofun, fun _ => hfound⟩
  | ser d =>
    have heq : returnRef s (.ser d) = if d.val = 0 then s
      else setPower s { s.power with lost := s.power.lost.filter (· != lostRef (.ser d)) } := rfl
    refine ⟨fun h => ?_, fun h => ?_⟩
    · cases h
      rfl
    · rw [heq, if_neg fun hd => h (by rw [Fin.ext (b := 0) hd])]
      exact hfound

/-! ### PERST_N (R687) -/

theorem dataPlaneReset_outcome (s : State) : (dataPlaneReset s).power = { s.power with dataPlane := true }
    ∧ (s.power.dataPlane = false → (dataPlaneReset s).tags = []) := by
  unfold dataPlaneReset
  split
  · next h => exact ⟨by rw [← h], fun h' => absurd h (by simp [h'])⟩
  · have hpower : (planeClear s).power = s.power := planeClear_changes .power (by decide)
    exact ⟨by dsimp only; rw [hpower], fun _ => rfl⟩

theorem warmReset_eq (s : State) : ∃ h, warmReset s
    = setHost (dataPlaneReset (portsOff { s with power := { s.power with warm := true } })) h ∧ h.linkUp = false := by
  unfold warmReset
  dsimp only
  generalize dataPlaneReset _ = t
  exact ⟨_, rfl, rfl⟩

theorem perstNFall_completes (hpor : s.power.por = false) (hperst : s.power.perst = false) : Completes .perstNFall s fun t =>
    t.power.perst = true ∧ t.host.linkUp = false
      ∧ (firmwareReady s = true → t.power.warm = true ∧ t.power.dataPlane = true ∧ (s.power.dataPlane = false → t.tags = [])) := by
  refine ⟨perstFall s, whenDue_pos (by simp [hpor, hperst]) .., ?_⟩
  obtain ⟨u, hu⟩ : ∃ u, u = { s with power := { s.power with perst := true } } := ⟨_, rfl⟩
  have heq : perstFall s = if firmwareReady u then warmReset u else setHost u { u.host with linkUp := false } := by rw [hu]; rfl
  have hready : firmwareReady u = firmwareReady s := by rw [hu]; rfl
  rw [heq, hready]
  split
  · obtain ⟨v, hv⟩ : ∃ v, v = portsOff { u with power := { u.power with warm := true } } := ⟨_, rfl⟩
    have hpower : v.power = { u.power with warm := true } := by
      have h := (portsOff_changes (s := { u with power := { u.power with warm := true } })) .power (by decide)
      exact hv ▸ h
    obtain ⟨hplane, htags⟩ := dataPlaneReset_outcome v
    obtain ⟨h, hwarm, hlink⟩ := warmReset_eq u
    rw [hwarm, ← hv]
    have hplane' : (setHost (dataPlaneReset v) h).power = { v.power with dataPlane := true } := hplane
    rw [hplane', hpower]
    refine ⟨by rw [hu], hlink, fun _ => ⟨rfl, rfl, fun hno => htags ?_⟩⟩
    rw [hpower, hu]
    exact hno
  · next h => exact ⟨by rw [hu]; rfl, rfl, fun h' => absurd h' h⟩

theorem perstNRelease_completes (hpor : s.power.por = false) (hperst : s.power.perst = true) : Completes .perstNRelease s fun t =>
    t.power = { s.power with perst := false } ∧ t.tags = s.tags ∧ t.hbm = s.hbm ∧ t.regs = s.regs := by
  refine ⟨perstRelease s, whenDue_pos (by simp [hpor, hperst]) .., ?_, perstRelease_changes .tags (by decide),
    perstRelease_changes .hbm (by decide), perstRelease_changes .regs (by decide)⟩
  unfold perstRelease
  dsimp only
  split
  · exact portsTrain_changes .power (by decide)
  · rfl

end Sys2Proof.Machine

/-! PROOFS. The family of spec/19: the phases of bring-up, HBM training, and resets that complete. -/

namespace Sys2Proof.Machine

set_option Elab.async false

variable {s : State}

theorem InPhase.ready {n : Nat} (h : InPhase s n) (hn : n < 6) : firmwareReady s = false := by
  obtain ⟨-, hphase, -⟩ := h
  rw [firmwareReady, hphase]
  have : (n == 6 || n == 7) = false := by simp; omega
  rw [this, Bool.false_and]

/-- An event that ends the phase in progress. -/
theorem phaseEnd_completes {n : Nat} (h : InPhase s n) {what : PhaseEnd} {b : Bool} {t : State} {P : State → Prop}
    (hexec : exec (.bringupPhaseEnd what) s
      = whenDue (!s.power.por && s.power.phase == n && (n == 0 || s.power.rails == .on) && b) s (.next t)) (hb : b = true) (hP : P t) :
    Completes (.bringupPhaseEnd what) s P := by
  obtain ⟨hpor, hphase, hrails⟩ := h
  exact ⟨t, hexec.trans (whenDue_pos (by simp [hpor, hphase, hrails, hb]) ..), hP⟩

/-! ### The boot ROM (R689 to R692) -/

/-- What a run of the ROM before firmware is ready comes to: an image is chosen, or the boot stops. -/
def RomEnds (t : State) : Prop := t.power.booted = true ∨ t.power.phase = 14 ∨ t.power.phase = 15

theorem RomEnds.ite {t u : State} {c : Prop} [Decidable c] (h : RomEnds t) (k : RomEnds u) : RomEnds (if c then t else u) := by
  split
  · exact h
  · exact k

theorem bootStop_phase (code arg st phase : Nat) (h : firmwareReady s = false) : (bootStop s code arg phase st).power.phase = phase := by
  rw [bootStop, h]
  rfl

theorem romEnds_bootRom (a b : ImgChk) (h : firmwareReady s = false) : RomEnds (bootRom s a b) := by
  have himage (u : State) (k : Nat) : RomEnds (bootImage u k) := .inl rfl
  have hdir : firmwareReady (romDirectory s) = false := by
    obtain ⟨hphase, hrails⟩ := samePlanes_romDirectory s
    rw [firmwareReady_congr hphase hrails, h]
  unfold bootRom
  split
  · exact .inr (.inr (bootStop_phase _ _ _ _ h))
  · split
    · exact .inr (.inl (bootStop_phase _ _ _ _ h))
    · generalize romDirectory s = u at hdir ⊢
      unfold romImage
      dsimp only
      exact .ite (himage _ _) (.ite (himage _ _) (.inr (.inl (bootStop_phase _ _ _ _ hdir))))

theorem romPhase_completes (a b : ImgChk) (h : InPhase s 0) : Completes (.bringupPhaseEnd (.rom a b)) s fun t =>
    t.power.phase = 1 ∧ t.power.booted = true ∨ t.power.phase = 14 ∨ t.power.phase = 15 := by
  obtain ⟨hpor, hphase, hrails⟩ := h
  have hexec : exec (.bringupPhaseEnd (.rom a b)) s = romEnd s a b := whenDue_pos (by simp [hpor, hphase]) ..
  have hends := romEnds_bootRom a b (InPhase.ready ⟨hpor, hphase, hrails⟩ (by decide))
  obtain ⟨t, ht⟩ : ∃ t, t = bootRom s a b := ⟨_, rfl⟩
  have heq : romEnd s a b = if t.power.booted then whenDue (s.power.rails == .on) s (.next (trainPcie (enterPhase t 1)))
      else .next t := by rw [ht]; rfl
  rw [← ht] at hends
  rw [Completes, hexec, heq]
  split
  · next hbooted => exact ⟨_, whenDue_pos (by simp [hrails]) .., .inl ⟨rfl, hbooted⟩⟩
  · next hno => exact ⟨t, rfl, .inr (hends.resolve_left hno)⟩

/-! ### Links and arrays (R695) -/

theorem linksPhase_completes (links : BitVec 4) (h : InPhase s 1) : Completes (.bringupPhaseEnd (.links links)) s fun t =>
    (links.getLsbD 0 = true → Stopped t) ∧ (links.getLsbD 0 = false → t.power.phase = 2) := by
  refine phaseEnd_completes (b := true) h (t := linksEnd s links) (by rw [Bool.and_true]; rfl) rfl ?_
  unfold linksEnd
  dsimp only
  split
  · next hfail => exact ⟨fun _ => (bootStop_stops _ _ _ (h.ready (by decide))).1, fun hno => absurd hfail (by rw [hno]; decide)⟩
  · next hok => exact ⟨fun hfail => absurd hfail hok, fun _ => rfl⟩

theorem arraysPhase_completes (fatal : Option (Fin 32)) (units : List FenceUnit) (h : InPhase s 2) :
    Completes (.bringupPhaseEnd (.arrays fatal units)) s fun t =>
      (fatal.isSome = true → Stopped t) ∧ (fatal = none → t.power.phase = 3) := by
  refine phaseEnd_completes (b := true) h (t := arraysEnd s fatal units) (by rw [Bool.and_true]; rfl) rfl ?_
  cases fatal with
  | some k => exact ⟨fun _ => (bootStop_stops _ _ _ (h.ready (by decide))).1, nofun⟩
  | none => exact ⟨nofun, fun _ => rfl⟩

/-! ### Memory (R696) -/

theorem hbmPhase_completes (h : InPhase s 3)
    (hall : ∀ c, c < channels s.variant → spGet false c s.power.trained = true ∨ channelFailed s c = true) :
    Completes (.bringupPhaseEnd .hbm) s fun t =>
      ((∃ c, c < channels s.variant ∧ spGet false c s.power.trained = true) → t.power.phase = 4)
        ∧ ((∀ c, c < channels s.variant → spGet false c s.power.trained = false) → Stopped t) := by
  refine phaseEnd_completes h (t := hbmEnd s) rfl (by simpa [allChannels] using hall) ?_
  unfold hbmEnd
  split
  · next hany =>
    refine ⟨fun _ => rfl, fun hnone => ?_⟩
    obtain ⟨c, hc, ht⟩ := List.any_eq_true.1 hany
    rw [hnone c (List.mem_range.1 hc)] at ht
    cases ht
  · next hnone =>
    refine ⟨fun ⟨c, hc, ht⟩ => ?_, fun _ => (bootStop_stops _ _ _ (h.ready (by decide))).1⟩
    exact absurd (List.any_eq_true.2 ⟨c, List.mem_range.2 hc, ht⟩) hnone

theorem hbmInitPhase_completes (h : InPhase s 4) :
    Completes (.bringupPhaseEnd .hbmInit) s fun t => t.power.phase = 5 ∧ t.hbm = [] ∧ t.own = [] :=
  phaseEnd_completes (b := true) h (t := hbmInitEnd s) (by rw [Bool.and_true]; rfl) rfl ⟨rfl, rfl, rfl⟩

theorem hbmTrainingAttempt_completes {channel : Fin 128} {ok : Bool} (hpor : s.power.por = false) (hphase : s.power.phase = 3)
    (hin : channel.val < channels s.variant) (hnew : spGet false channel.val s.power.trained = false)
    (hgood : channelFailed s channel.val = false) : Completes (.hbmTrainingAttempt channel ok) s fun t =>
      (ok = true → spGet false channel.val t.power.trained = true ∧ t.regs = s.regs)
        ∧ (ok = false → spGet 0 channel.val t.power.tries = spGet 0 channel.val s.power.tries + 1
            ∧ channelFailed t channel.val = decide (spGet 0 channel.val s.power.tries = 2)) := by
  refine ⟨trainingAttempt s channel.val ok, whenDue_pos (by simp [hpor, hphase, hin, hnew, hgood]) .., ?_⟩
  cases ok with
  | true => exact ⟨fun _ => ⟨spGet_set false channel.val true s.power.trained, rfl⟩, nofun⟩
  | false =>
    refine ⟨nofun, fun _ => ?_⟩
    obtain ⟨u, hu⟩ : ∃ u, u = setPower s
      { s.power with tries := spSet 0 channel.val (spGet 0 channel.val s.power.tries + 1) s.power.tries } := ⟨_, rfl⟩
    have heq : trainingAttempt s channel.val false = if spGet 0 channel.val s.power.tries + 1 = 3
        then bootWarn (fenceChannel u channel.val) 13 (trainedOut u) else u := by rw [hu]; rfl
    have htries : spGet 0 channel.val u.power.tries = spGet 0 channel.val s.power.tries + 1 := by
      rw [hu]
      exact spGet_set 0 channel.val (spGet 0 channel.val s.power.tries + 1) s.power.tries
    have hok : channelFailed u channel.val = false := by rw [hu]; exact hgood
    rw [heq]
    split
    · next hlast =>
      obtain ⟨w, hw⟩ : ∃ w, w = fenceChannel u channel.val := ⟨_, rfl⟩
      have hpower : w.power = u.power := hw ▸ fenceChannel_changes .power (by decide)
      have hwarn : (bootWarn w 13 (trainedOut u)).power.tries = w.power.tries := by
        unfold bootWarn
        dsimp only
        split <;> rfl
      have hfence : channelFailed w channel.val = true := by
        have hin' : ¬channels u.variant ≤ channel.val := by rw [hu]; exact Nat.not_le.2 hin
        have hset : channelFailed (setFld u .sbChfail 0 (channel.val / 32) 0 (channel.val % 32) 1 1) channel.val = true :=
          regBit_setFld _ _ _ _ _ true (by omega)
        have hpost : SameRegsBut endRegs (setFld u .sbChfail 0 (channel.val / 32) 0 (channel.val % 32) 1 1) w := by
          rw [hw, fenceChannel, hok, Bool.false_or, if_neg (by simpa using hin')]
          exact sameRegs_endPost
        rw [channelFailed, hpost.regBit _ (notMem_endRegs ?_), ← channelFailed, hset]
        have := channel.isLt
        simp only [inSb, regAddr, regInfo, blkBase]
        omega
      have hregs : (bootWarn w 13 (trainedOut u)).regs = w.regs := bootWarn_changes .regs (by decide)
      rw [← hw, hwarn, hpower, htries, channelFailed, regBit, regFld, regVal_congr hregs, ← regFld, ← regBit, ← channelFailed,
        hfence]
      exact ⟨rfl, (decide_eq_true (by omega)).symm⟩
    · next hmore => exact ⟨htries, by rw [hok]; exact (decide_eq_false (by omega)).symm⟩

/-! ### Control and fabric (R697) -/

theorem controlPhase_completes (h : InPhase s 5) :
    Completes (.bringupPhaseEnd .control) s fun t => t.power.phase = 6 ∧ t.sm.st = 2 ∧ firmwareReady t = true := by
  refine phaseEnd_completes (b := true) h (t := controlEnd s) (by rw [Bool.and_true]; rfl) rfl ⟨rfl, rfl, ?_⟩
  have hrails : (controlEnd s).power.rails = .on := h.2.2
  rw [firmwareReady, hrails]
  rfl

theorem fabricPhase_completes (h : InPhase s 6) (hdone : discovered s = true) : Completes (.bringupPhaseEnd .fabric) s fun t =>
    t.power.phase = 7 ∧ t.sm.govOn = !regBit s .smStraps 0 0 0 4 := by
  refine phaseEnd_completes h (t := fabricEnd s) rfl hdone ?_
  unfold fabricEnd
  dsimp only
  have hgov (u : State) : (govRefresh u).power = u.power ∧ (govRefresh u).sm = u.sm :=
    ⟨govRefresh_changes .power (by decide), (govRefresh_changes .sm (by decide)).2⟩
  rw [(hgov _).1, (hgov _).2]
  split <;> exact ⟨rfl, rfl⟩

/-! ### Resets that complete (R682, R686) -/

theorem resetComplete_function {fn : Fin 64} (hbusy : spGet false fn.val s.host.resetting = true) (hplane : s.power.dataPlane = false) :
    Completes (.resetComplete (.function fn)) s fun t => spGet false fn.val t.host.resetting = false ∧ t = { s with host := t.host }
      ∧ (s.host.fnResetBusy = some fn.val → t.host.fnResetBusy = none) := by
  obtain ⟨u, hu⟩ : ∃ u, u = notResetting s fn.val := ⟨_, rfl⟩
  have hreset : spGet false fn.val u.host.resetting = false := by rw [hu]; exact spGet_set false fn.val false s.host.resetting
  have honly : u = { s with host := u.host } := by rw [hu]; rfl
  refine ⟨if u.host.fnResetBusy = some fn.val then setHost u { u.host with fnResetBusy := none } else u,
    by rw [hu]; exact whenDue_pos (by simp [hbusy, hplane]) .., ?_⟩
  split
  · refine ⟨hreset, ?_, fun _ => rfl⟩
    rw [honly]
    rfl
  · next hno => exact ⟨hreset, honly, fun h => absurd (show u.host.fnResetBusy = _ by rw [hu]; exact h) hno⟩

theorem resetComplete_dataPlane (hplane : s.power.dataPlane = true) (hwarm : s.power.warm = false) :
    Completes (.resetComplete .dataPlane) s fun t =>
      t.power = { s.power with dataPlane := false } ∧ t.log.dpHalted = false ∧ spGet false 0 t.host.resetting = false
        ∧ t.cores = s.cores :=
  ⟨_, whenDue_pos (by simp [hplane, hwarm]) .., rfl, rfl, spGet_set false 0 false s.host.resetting, rfl⟩

theorem resetComplete_warm (hwarm : s.power.warm = true) (hperst : s.power.perst = false) :
    Completes (.resetComplete .warm) s fun t =>
      t.power = { s.power with dataPlane := false, warm := false } ∧ t.log = s.log ∧ t.cores = s.cores :=
  ⟨_, whenDue_pos (by simp [hwarm, hperst]) .., rfl, rfl, rfl⟩

/-- Settles O54: each event of power and bring-up writes the fields of its own step; what runs between, records, fences
and ports, leaves the phase and the rails. -/
theorem powerAndBringUp : Obligations.PowerAndBringUp := by
  unfold Obligations.PowerAndBringUp
  intro straps ref chkA chkB links fatal units channel ok fn k s
  exact ⟨porNFall_completes, porNRelease_completes straps,
    fun hpor hrails => ⟨powerUpStep_completes hpor hrails, powerGoodTimeout_completes hpor hrails⟩, pwrdnN_completes,
    fun hpor hlost => ⟨loseRef s ref, whenDue_pos (by simp only [hpor, hlost]; rfl) .., loseRef_outcome s ref⟩,
    referenceReturn_completes, perstNFall_completes, perstNRelease_completes, fun h _ => romPhase_completes chkA chkB h,
    linksPhase_completes links, arraysPhase_completes fatal units, hbmPhase_completes, hbmInitPhase_completes,
    controlPhase_completes, fabricPhase_completes, hbmTrainingAttempt_completes,
    fun hbusy => ⟨_, whenDue_pos hbusy .., rfl⟩, resetComplete_function, resetComplete_dataPlane, resetComplete_warm⟩

end Sys2Proof.Machine

/-! PROOFS. The family of spec/20: the answer to a read of the accumulator view. -/

namespace Sys2Proof.Machine

set_option Elab.async false

/-- A read of the accumulator view outside debug mode answers zero, which goes ahead of the output that waits. -/
theorem accumulatorViewRead_lateRunning : ∃ t, exec (.accumulatorViewRead (.hw0 0) 0 0 0 0) lateRunning = .next t
    ∧ (posted t).head? = some (.readDone (leBytes 8 0) false) := ⟨_, rfl, rfl⟩

/-- Refutes O55: no state invariant bounds the ranks of the waiting outputs, and the answer to a read of the accumulator view
goes ahead of one whose rank is above 2 instead of behind everything put out before it. -/
theorem not_debugAndTest : ¬ Obligations.DebugAndTest := by
  intro h
  obtain ⟨-, -, -, -, -, -, -, -, -, -, -, -, hview, -⟩ := h [] 0 false 0 0 0 (.hw0 0) 0 .bulk 0 0 0 0 0 lateRunning
  obtain ⟨t, ht, -, hanswer⟩ := hview
  obtain ⟨u, hu, hhead⟩ := accumulatorViewRead_lateRunning
  obtain rfl := Host.Outcome.next.inj (hu.symm.trans ht)
  rw [hanswer rfl rfl] at hhead
  exact absurd (Option.some.inj hhead) (by decide)

end Sys2Proof.Machine

/-! PROOFS. The family of spec/11, lookaside misses: a stream whose miss waits at the Points processor already. -/

namespace Sys2Proof.Machine

set_option Elab.async false

/-- A read stream of one row that has asked for nothing yet. -/
def freshStream : Stream :=
  { rows := [0], owners := [], rowb := 128, stage := 0, trows := 1, list := 0, tile := 0, line := 0, fetchTiles := [], execTiles := [],
    done := 0, rowsDone := 0, lost := [], halted := none, halts := 0, xlate := false }

/-- An SLOAD with that stream. -/
def freshSload : Cmd := { bareCmd (.block .sload) 0 with ready := true, stream := some freshStream }

/-- The miss of the stream's first line. -/
def freshMiss : PxMiss := ⟨.stream 0, 0, 0, false, false⟩

/-- The miss waits, though the stream does not know. -/
def missUnnoticed : State :=
  { runningPart with
    tags := [(0, flightTag freshSload)],
    px := [freshMiss],
    cores := [(0, { coreReset with bulk := { slotReset with fq := [0] } })] }

theorem commandMiss_unnoticed : commandMiss missUnnoticed 0 = some (freshSload, 0) := rfl

/-- A miss that waits is not asked for again. -/
theorem lookasideMiss_unnoticed : ∃ t, exec (.lookasideMiss (.command 0)) missUnnoticed = .next t ∧ t.px = [freshMiss] :=
  ⟨_, rfl, rfl⟩

/-- Refutes O35: no state invariant ties a miss that waits at the Points processor to the mark of its stream, and a stream whose
mark is clear while its miss waits adds none. -/
theorem not_translationEventsComplete : ¬ Obligations.TranslationEventsComplete := by
  intro h
  obtain ⟨-, hmiss, -⟩ := h.2 ⟨0, .bulk⟩ 0 0 missUnnoticed
  obtain ⟨t, ht, hpx, -⟩ := hmiss freshSload 0 commandMiss_unnoticed
  obtain ⟨u, hu, hsame⟩ := lookasideMiss_unnoticed
  obtain rfl := Host.Outcome.next.inj (hu.symm.trans ht)
  rw [hpx] at hsame
  exact absurd (congrArg List.length hsame) (by decide)

end Sys2Proof.Machine

/-! PROOFS. The family of spec/11, control commands: what the Points processor reads of memory has nothing to do with the host's
side of the part. -/

namespace Sys2Proof.Machine

set_option Elab.async false

/-- The same state with another host side. -/
def withHost (h : HostSt) (s : State) : State := { s with host := h }

theorem bump_withHost (h : HostSt) (s : State) (r : RegName) (u i j n : Nat) :
    bump (withHost h s) r u i j n = withHost h (bump s r u i j n) := rfl

theorem modSlice_withHost (h : HostSt) (s : State) (i : Nat) (f : Slice → Slice) :
    modSlice (withHost h s) i f = withHost h (modSlice s i f) := rfl

theorem writeHit_withHost (h : HostSt) (s : State) (c : CLine) (wp : Nat) (cleaning : Bool) (en : List (Option Byte))
    (poison : List Bool) : writeHit (withHost h s) c wp cleaning en poison
      = ((writeHit s c wp cleaning en poison).1, withHost h (writeHit s c wp cleaning en poison).2) := by
  unfold writeHit
  dsimp only
  split
  · rfl
  · split
    · rfl
    · split <;> rfl

theorem displace_withHost (h : HostSt) (s : State) (c : Slice) (k l : Nat) :
    displace (withHost h s) c k l = withHost h (displace s c k l) := by
  unfold displace
  split
  · split <;> rfl
  · rfl

/-- A request that waited on a line takes what it asked for. -/
def putReq (s : State) (i : Nat) (r : LineReq) : State := { s with reqs := s.reqs.map fun q => if q.id == i then r else q }

theorem putReq_withHost (h : HostSt) (s : State) (i : Nat) (r : LineReq) : putReq (withHost h s) i r = withHost h (putReq s i r) := rfl

theorem serveWaiters_withHost (h : HostSt) (l : List Nat) (s : State) (c : CLine) (keep : Bool) :
    serveWaiters (withHost h s) c keep l = ((serveWaiters s c keep l).1, (serveWaiters s c keep l).2.1,
      withHost h (serveWaiters s c keep l).2.2) := by
  induction l generalizing s c keep with
  | nil => rfl
  | cons i is ih =>
    have hstep (u : State) : serveWaiters u c keep (i :: is) = match u.reqs.find? fun r => r.id == i with
        | none => serveWaiters u c keep is
        | some r => match r.kind with
          | .read | .maint _ =>
            serveWaiters (putReq u i { r with stage := .ready, data := c.data.map some, poison := c.poison }) c keep is
          | .write => match (writeHit u c r.wp false r.data r.poison).1 with
            | some x => serveWaiters (putReq (writeHit u c r.wp false r.data r.poison).2 i { r with stage := .ready }) x
                (keep || r.wp == 0) is
            | none => serveWaiters (putReq (writeHit u c r.wp false r.data r.poison).2 i { r with stage := .ready })
                { mergeLine c r.data r.poison with dirty := false } false is := rfl
    rw [hstep, hstep, show (withHost h s).reqs = s.reqs from rfl]
    cases s.reqs.find? fun r => r.id == i with
    | none => exact ih ..
    | some r =>
      dsimp only
      cases r.kind with
      | read =>
        dsimp only
        rw [putReq_withHost]
        exact ih ..
      | maint _ =>
        dsimp only
        rw [putReq_withHost]
        exact ih ..
      | write =>
        dsimp only
        rw [writeHit_withHost]
        cases (writeHit s c r.wp false r.data r.poison).1 with
        | some x =>
          dsimp only
          rw [putReq_withHost]
          exact ih ..
        | none =>
          dsimp only
          rw [putReq_withHost]
          exact ih ..

theorem installMiss_withHost (h : HostSt) (s : State) (i : Nat) (m : Miss) :
    installMiss (withHost h s) i m = withHost h (installMiss s i m) := by
  unfold installMiss
  cases m.fill with
  | none => rfl
  | some c =>
    cases m.victim with
    | some _ => rfl
    | none =>
      dsimp only
      rw [modSlice_withHost]
      generalize modSlice s i _ = u
      cases m.place with
      | none => rfl
      | some k =>
        dsimp only
        rw [displace_withHost, show getSlice (withHost h u) i = getSlice u i from rfl]
        split
        · rfl
        · split <;> rfl

theorem arriveFill_withHost (h : HostSt) (s : State) (m : Miss) :
    arriveFill (withHost h s) m = ((arriveFill s m).1, withHost h (arriveFill s m).2) := by
  unfold arriveFill
  cases m.fill with
  | some _ => rfl
  | none =>
    have hline : hbmLine (withHost h s) m.l = hbmLine s m.l := rfl
    dsimp only
    rw [serveMiss, serveMiss, hline, serveWaiters_withHost]

theorem finishMiss_withHost (h : HostSt) (s : State) (i : Nat) (m : Miss) :
    finishMiss (withHost h s) i m = withHost h (finishMiss s i m) := by
  have haccept : acceptVictim (withHost h s) m = (withHost h (acceptVictim s m).1, (acceptVictim s m).2) := by
    unfold acceptVictim
    cases m.victim <;> rfl
  unfold finishMiss
  rw [haccept]
  dsimp only
  rw [arriveFill_withHost, installMiss_withHost]

theorem settleList_withHost (h : HostSt) (i l : Nat) (ms : List Miss) (s : State) :
    settleList i l ms (withHost h s) = withHost h (settleList i l ms s) := by
  induction ms generalizing s with
  | nil => rfl
  | cons m ms ih =>
    unfold settleList
    rw [finishMiss_withHost, ← apply_ite (withHost h)]
    exact ih _

theorem awaitEntry_withHost (h : HostSt) (s : State) (i : Nat) : awaitEntry (withHost h s) i = withHost h (awaitEntry s i) := by
  unfold awaitEntry
  rw [show getSlice (withHost h s) i = getSlice s i from rfl]
  cases (getSlice s i).misses with
  | nil => rfl
  | cons m _ =>
    dsimp only
    rw [finishMiss_withHost]
    split <;> rfl

theorem allocate_withHost (h : HostSt) (s : State) (c : Slice) (k : Nat) (fill : Bool) (l : Nat) :
    allocate (withHost h s) c k fill l = allocate s c k fill l := rfl

theorem cacheRead_withHost (h : HostSt) (s : State) (a : MemWho) (l : Nat) :
    cacheRead (withHost h s) a l = ((cacheRead s a l).1, withHost h (cacheRead s a l).2) := by
  have hsettle : settle (withHost h s) (sliceOf l) l = withHost h (settle s (sliceOf l) l) := settleList_withHost ..
  have hslice (u : State) (i : Nat) : getSlice (withHost h u) i = getSlice u i := rfl
  have hcount (u : State) (hit : Bool) : countLookup (withHost h u) (sliceOf l) a.cls hit
      = withHost h (countLookup u (sliceOf l) a.cls hit) := rfl
  have hline (u : State) : hbmLine (withHost h u) l = hbmLine u l := rfl
  unfold cacheRead
  dsimp only
  rw [show cacheEnabled (withHost h s) = cacheEnabled s from rfl, hsettle, hslice]
  generalize settle s (sliceOf l) l = u
  split
  · rfl
  · cases lookup (getSlice u (sliceOf l)) l with
    | some e => rfl
    | none =>
      dsimp only
      rw [awaitEntry_withHost, hcount, hslice]
      generalize countLookup (awaitEntry u (sliceOf l)) (sliceOf l) a.cls false = v
      split
      · rfl
      · rw [allocate_withHost]
        generalize allocate v (getSlice v (sliceOf l)) a.cls false l = w
        obtain ⟨way, c⟩ := w
        cases way with
        | none => rfl
        | some w =>
          dsimp only
          rw [bump_withHost, ← apply_ite (withHost h), displace_withHost, hline]
          rfl

theorem traceEv_withHost (h : HostSt) (s : State) (kind unit : Nat) (core : Option Nat) (data : Nat) :
    traceEv (withHost h s) kind unit core data = withHost h (traceEv s kind unit core data) := by
  have henabled : traceEnabled (withHost h s) kind core = traceEnabled s kind core := by cases core <;> rfl
  have hfires : traceFires (withHost h s) kind data = traceFires s kind data := rfl
  have htrigger (u : State) : traceTrigger (withHost h u) = withHost h (traceTrigger u) := by
    unfold traceTrigger
    dsimp only
    rw [show (withHost h u).trace = u.trace from rfl]
    split <;> rfl
  unfold traceEv
  dsimp only
  rw [henabled, hfires, show (withHost h s).trace = s.trace from rfl]
  split
  · rfl
  · split
    · split
      · exact htrigger s
      · rfl
    · split
      · exact htrigger { s with trace := _ }
      · rfl

theorem post_withHost (h : HostSt) (s : State) (code : LogCode) (unitKind unitIdx : Nat) (ctx : Option Nat) (arg addr : Nat) :
    post (withHost h s) code unitKind unitIdx ctx arg addr = withHost h (post s code unitKind unitIdx ctx arg addr) := by
  unfold post postRec
  dsimp only
  rw [show (withHost h s).log = s.log from rfl, show nowOp (withHost h s) = nowOp s from rfl]
  split
  · rfl
  · rw [show smWorks (withHost h s) = smWorks s from rfl, ← traceEv_withHost]
    congr 1
    split <;> rfl

theorem memLine_withHost (h : HostSt) (s : State) (a : MemWho) (l : Nat) :
    memLine (withHost h s) a l = ((memLine s a l).1, (memLine s a l).2.1, withHost h (memLine s a l).2.2) := by
  have hrecord : mismatchRecord (withHost h s) a (128 * l) = withHost h (mismatchRecord s a (128 * l)) := by
    unfold mismatchRecord
    rw [post_withHost, post_withHost, ← apply_ite (withHost h)]
    rfl
  unfold memLine
  rw [show ownCheck (withHost h s) a.ctx (128 * l) = ownCheck s a.ctx (128 * l) from rfl, cacheRead_withHost, hrecord]
  cases ownCheck s a.ctx (128 * l) <;> rfl

theorem memFetch_withHost (h : HostSt) (a : MemWho) (pa e fuel l : Nat) (r : MemRead) (s : State) :
    memFetch a pa e fuel l r (withHost h s) = ((memFetch a pa e fuel l r s).1, withHost h (memFetch a pa e fuel l r s).2) := by
  induction fuel generalizing l r s with
  | zero => rfl
  | succ fuel ih =>
    unfold memFetch
    dsimp only
    rw [memLine_withHost]
    exact ih ..

theorem segRead_withHost (h : HostSt) (s : State) (ctx i : Nat) :
    segRead (withHost h s) ctx i = ((segRead s ctx i).1, withHost h (segRead s ctx i).2) := by
  unfold segRead privRead devRead
  dsimp only
  rw [show segAddr (withHost h s) ctx i = segAddr s ctx i from rfl, memFetch_withHost]

/-- The segments of a context do not depend on the host's side. -/
theorem segTable_withHost (h : HostSt) (ctx n i : Nat) (s : State) :
    segTable ctx n i (withHost h s) = ((segTable ctx n i s).1, withHost h (segTable ctx n i s).2) := by
  induction n generalizing i s with
  | zero => rfl
  | succ n ih =>
    unfold segTable
    dsimp only
    rw [segRead_withHost]
    dsimp only
    rw [ih]

end Sys2Proof.Machine

/-! PROOFS. The family of spec/11, control commands (R420 to R425, R430, R448). -/

namespace Sys2Proof.Machine

set_option Elab.async false

theorem Changes.ctrl {l : List Part} {s t : State} (h : Changes l s t) (hl : Part.xlate ∉ l := by decide) : t.ctrl = s.ctrl := by
  have hx : Part.Kept s t .xlate := h .xlate hl
  obtain ⟨-, -, -, -, -, -, -, -, hctrl⟩ := hx
  exact hctrl

theorem Changes.dtcG {l : List Part} {s t : State} (h : Changes l s t) (hl : Part.xlate ∉ l := by decide) : t.dtcG = s.dtcG := by
  have hx : Part.Kept s t .xlate := h .xlate hl
  exact hx.2.1

/-! ### Running and ending a control command -/

theorem control_refused {s : State} {c : CtrlCmd} (hpf : c.pf = false) (ok : Bool) (ctx : Option Nat) (run : State → State) :
    control s c ok ctx run = endControl s c.cmd 0x40 0 := by
  rw [control, hpf]
  rfl

theorem control_runs {s : State} {c : CtrlCmd} {ok : Bool} {ctx : Option Nat} (hpf : c.pf = true) (hok : ok = true)
    (hctx : ∀ x, ctx = some x → ctxValid s x = true) (run : State → State) : control s c ok ctx run = run s := by
  have hvalid : (ctx.map (ctxValid s)).getD true = true := by
    cases ctx with
    | none => rfl
    | some x => exact hctx x rfl
  rw [control, hpf, hok, hvalid]
  rfl

theorem nextControl_epochs {s : State} {code : Nat} {c : CtrlCmd} (h : nextControl s code = some c) : s.epochs = [] := by
  unfold nextControl at h
  split at h
  · simp only [Option.ite_none_right_eq_some, Bool.and_eq_true, List.isEmpty_iff] at h
    exact h.1.1.1.2
  · cases h

/-- A control command that ends leaves the Points processor's queue, and its entry is written. -/
theorem endControl_outcome (s : State) (cmd code detail : Nat) : (∀ e ∈ (endControl s cmd code detail).ctrl, e.cmd ≠ cmd)
    ∧ ∀ d, findCmd s cmd = some d → EntryWritten s (endControl s cmd code detail) d code := by
  obtain ⟨u, hu⟩ : ∃ u, u = { s with ctrl := s.ctrl.filter fun c => c.cmd != cmd } := ⟨_, rfl⟩
  have heq : endControl s cmd code detail = completeId u cmd code detail 0 := by rw [hu]; rfl
  have hctrl : (endControl s cmd code detail).ctrl = u.ctrl := heq ▸ completeId_changes.ctrl
  refine ⟨fun e he => ?_, fun d hd => ?_⟩
  · rw [hctrl, hu] at he
    simpa using (List.mem_filter.1 he).2
  · have hfind : findCmd u cmd = some d := by rw [hu]; exact hd
    rw [heq, completeId_of_find hfind]
    exact (completeCmd_entryWritten u d code detail 0).of_eq (by rw [hu]) (by rw [hu]) rfl

/-- An epoch that starts is counted, and stands for its command. -/
theorem startEpoch_outcome (s : State) (cmd : Nat) (ctx windows : Option Nat) :
    (∃ e, (startEpoch s cmd ctx windows).epochs = s.epochs ++ [e] ∧ e.cmd = cmd)
      ∧ (startEpoch s cmd ctx windows).epoch = s.epoch + 1 := by
  refine ⟨⟨_, rfl, ?_⟩, rfl⟩
  split <;> rfl

/-- What a command that starts an epoch with no other in progress does to the books of the Points processor. -/
theorem startEpoch_starts {s u : State} (hepochs : s.epochs = []) (hkept : u.epochs = s.epochs ∧ u.epoch = s.epoch) (cmd : Nat)
    (ctx windows : Option Nat) : (∃ e, (startEpoch u cmd ctx windows).epochs = [e] ∧ e.cmd = cmd)
      ∧ (startEpoch u cmd ctx windows).epoch = s.epoch + 1 := by
  obtain ⟨⟨e, he, hcmd⟩, hepoch⟩ := startEpoch_outcome u cmd ctx windows
  rw [hkept.1, hepochs] at he
  rw [hkept.2] at hepoch
  exact ⟨⟨e, he, hcmd⟩, hepoch⟩

/-- The rows of Table 11.3 run their command, or refuse it. -/
theorem controlRow_exec {mirror : List HostReply} {s : State} {code : Nat} {i : Instr} {c : CtrlCmd}
    (hrow : (code, i) ∈ [(0x40, Instr.segSync mirror), (0x41, .invalidate), (0x42, .granuleSet), (0x43, .ownSet)])
    (hc : nextControl s code = some c) : ∃ ok ctx run, exec i s = .next (control s c ok ctx run) := by
  simp only [List.mem_cons, Prod.mk.injEq, List.not_mem_nil, or_false] at hrow
  obtain ⟨rfl, rfl⟩ | ⟨rfl, rfl⟩ | ⟨rfl, rfl⟩ | ⟨rfl, rfl⟩ := hrow
  · have hbody : exec (.segSync mirror) s = match nextControl s 0x40 with
        | none => .next s
        | some c => .next (control s c (segSyncOk c.body) (some (fieldAt c.body 8 1)) fun s =>
            segSync s c (mirrorEntries (maskSegs (fieldAt c.body 10 2)) mirror) (fieldAt c.body 10 2)) := rfl
    exact ⟨_, _, _, by rw [hbody, hc]⟩
  · exact ⟨_, _, _, show execInvalidate s = _ by rw [execInvalidate, hc]⟩
  · exact ⟨_, _, _, show execGranuleSet s = _ by rw [execGranuleSet, hc]⟩
  · exact ⟨_, _, _, show execOwnSet s = _ by rw [execOwnSet, hc]⟩

theorem controlRow_platformKept {mirror : List HostReply} {s t : State} {code : Nat} {i : Instr}
    (hrow : (code, i) ∈ [(0x40, Instr.segSync mirror), (0x41, .invalidate), (0x42, .granuleSet), (0x43, .ownSet)])
    (ht : exec i s = .next t) : PlatformKept s t := by
  simp only [List.mem_cons, Prod.mk.injEq, List.not_mem_nil, or_false] at hrow
  obtain ⟨rfl, rfl⟩ | ⟨rfl, rfl⟩ | ⟨rfl, rfl⟩ | ⟨rfl, rfl⟩ := hrow
  · exact (execSegSync_changes.next ht).platformKept
  · exact (execInvalidate_changes.next ht).platformKept
  · exact (execGranuleSet_changes.next ht).platformKept
  · exact (execOwnSet_changes.next ht).platformKept

/-! ### OWN_SET (R448) -/

theorem setOwn_own (v n g : Nat) (s : State) (k : Nat) : spGet 0#8 k (setOwn v n g s).own
    = if g ≤ k ∧ k < g + n then BitVec.ofNat 8 v else spGet 0#8 k s.own := by
  induction n generalizing g s with
  | zero => rw [setOwn, if_neg (by omega)]
  | succ n ih =>
    rw [setOwn, ih]
    by_cases hk : k = g
    · rw [if_neg (by omega), if_pos (by omega), hk, spGet_set]
    · rw [spGet_set_ne _ _ _ hk]
      by_cases hin : g ≤ k ∧ k < g + (n + 1)
      · rw [if_pos hin, if_pos (by omega)]
      · rw [if_neg hin, if_neg (by omega)]

/-! ### Lookasides (R414, R423) -/

/-- What a lookaside of a core still holds was not selected. -/
theorem dropLooks_ent (s : State) (p : Nat → Seg → Bool) (n : Nat) :
    ∀ e ∈ (getCore (dropLooks s p) n).look.ent, ∃ c g, e.2 = some (c, g) ∧ p c g = false := by
  have hcore : getCore (dropLooks s p) n = coreReset ∨ ∃ c : Core, getCore (dropLooks s p) n = { c with look := lookDrop c.look p } := by
    refine (spGet_mem coreReset n (dropLooks s p).cores).imp_right fun h => ?_
    obtain ⟨⟨m, c⟩, -, he⟩ := List.mem_map.1 (List.mem_filter.1 h).1
    exact ⟨c, (Prod.mk.inj he).2.symm⟩
  intro e he
  obtain h | ⟨c, h⟩ := hcore <;> rw [h] at he
  · cases he
  · have hsel := (List.mem_filter.1 he).2
    split at hsel
    · next ctx g hg => exact ⟨ctx, g, hg, by simpa using hsel⟩
    · cases hsel

/-- The translation cache keeps what is not selected. -/
theorem dtcDrop_dtcG (s : State) (p : GranTr → Bool) : (dtcDrop s p).dtcG = s.dtcG.filter fun e => !p e := by
  have hback : (granWriteBacks s (s.dtcG.filter p)).dtcG = s.dtcG := granWriteBacks_changes.dtcG
  rw [dtcDrop]
  dsimp only
  rw [hback]

/-! ### GRANULE_SET (R430) -/

theorem setGranule_dtcG (s : State) (ctx : Nat) (g : Seg) (k st : Nat) (reset : Bool) (host : Nat) :
    (setGranule s ctx g k st reset host).2.dtcG = s.dtcG.filter fun e => !granIs ctx g.idx k e := by
  unfold setGranule
  dsimp only
  rw [granWrite_changes.dtcG, granRead_changes.dtcG]

theorem setGranules_dtcG (ctx : Nat) (g : Seg) (st : Nat) (reset : Bool) (n k host : Nat) (left : Bool) (s : State) :
    ∀ e ∈ (setGranules ctx g st reset n k host left s).2.dtcG,
      e ∈ s.dtcG ∧ ∀ j, k ≤ j → j < k + n → granIs ctx g.idx j e = false := by
  induction n generalizing k host left s with
  | zero => exact fun e he => ⟨he, fun j _ _ => by omega⟩
  | succ n ih =>
    intro e he
    obtain ⟨hmem, hrest⟩ := ih (k + 1) (host + 2 ^ 21) (left || (setGranule s ctx g k st reset host).1)
      (setGranule s ctx g k st reset host).2 e he
    rw [setGranule_dtcG] at hmem
    obtain ⟨hs, hk⟩ := List.mem_filter.1 hmem
    refine ⟨hs, fun j hlo hhi => ?_⟩
    obtain rfl | hlt := Nat.eq_or_lt_of_le hlo
    · simpa using hk
    · exact hrest j hlt (by omega)

theorem dtcFind_none {s : State} {ctx seg k : Nat} (h : ∀ e ∈ s.dtcG, granIs ctx seg k e = false) : dtcFind s ctx seg k = none := by
  rw [dtcFind, List.find?_eq_none.2 fun e he => by simp [h e he], Option.map_none]

theorem granuleSet_outcome {s : State} {c : CtrlCmd} {g : Seg}
    (hst : fieldAt c.body 10 1 = 1 ∨ fieldAt c.body 10 1 = 2)
    (hg : (segRead s (fieldAt c.body 8 1) (fieldAt c.body 9 1)).1 = some g) (hmig : g.mig = true)
    (hlen : fieldAt c.body 12 4 + fieldAt c.body 16 4 ≤ g.len / 2 ^ 21) :
    (granuleSet s c).pend = (s.pend.filter fun p => !(p.ctx == fieldAt c.body 8 1 && p.seg == fieldAt c.body 9 1
        && fieldAt c.body 12 4 ≤ p.k && p.k < fieldAt c.body 12 4 + fieldAt c.body 16 4))
      ∧ (granuleSet s c).epoch = s.epoch + 1
      ∧ ∀ j, fieldAt c.body 12 4 ≤ j → j < fieldAt c.body 12 4 + fieldAt c.body 16 4 →
          dtcFind (granuleSet s c) (fieldAt c.body 8 1) g.idx j = none := by
  obtain ⟨u, hu⟩ : ∃ u, u = (segRead s (fieldAt c.body 8 1) (fieldAt c.body 9 1)).2 := ⟨_, rfl⟩
  obtain ⟨r, hr⟩ : ∃ r, r = setGranules (fieldAt c.body 8 1) g (fieldAt c.body 10 1 % 4) ((fieldAt c.body 10 1).testBit 2)
    (fieldAt c.body 16 4) (fieldAt c.body 12 4) (fieldAt c.body 24 8) false u := ⟨_, rfl⟩
  obtain ⟨v, hv⟩ : ∃ v, v = releasePending (startEpoch r.2 c.cmd (some (fieldAt c.body 8 1)) none) (fieldAt c.body 8 1)
    (fieldAt c.body 9 1) (fieldAt c.body 12 4) (fieldAt c.body 16 4) := ⟨_, rfl⟩
  have heq : granuleSet s c = if r.1 then v
      else endControl { v with epochs := v.epochs.filter fun e => e.cmd != c.cmd } c.cmd 0 0 := by
    have hbody : granuleSet s c = match (segRead s (fieldAt c.body 8 1) (fieldAt c.body 9 1)).1 with
      | some g =>
        if !g.mig || g.len / 2 ^ 21 < fieldAt c.body 12 4 + fieldAt c.body 16 4 then endControl u c.cmd 0x44 0
        else
          let (left, s) := setGranules (fieldAt c.body 8 1) g (fieldAt c.body 10 1 % 4) ((fieldAt c.body 10 1).testBit 2)
            (fieldAt c.body 16 4) (fieldAt c.body 12 4) (fieldAt c.body 24 8) false u
          let s := startEpoch s c.cmd (some (fieldAt c.body 8 1)) none
          let s := if fieldAt c.body 10 1 % 4 = 0 then s
            else releasePending s (fieldAt c.body 8 1) (fieldAt c.body 9 1) (fieldAt c.body 12 4) (fieldAt c.body 16 4)
          if left then s else endControl { s with epochs := s.epochs.filter fun e => e.cmd != c.cmd } c.cmd 0 0
      | none => endControl u c.cmd 0x44 0 := by rw [hu]; rfl
    rw [hbody, hg]
    dsimp only
    rw [if_neg (by simpa [hmig] using hlen), ← hr, if_neg (show fieldAt c.body 10 1 % 4 ≠ 0 by omega), ← hv]
  have hseg : Changes memoryParts s u := hu ▸ segRead_changes
  have hset : Changes [.hbm, .poison, .reqs, .slices, .regs, .log, .trace, .free, .xlate] u r.2 := hr ▸ setGranules_changes
  have hpend : r.2.pend = s.pend := by
    have h1 : r.2.pend = u.pend := hset .pend (by decide)
    have h2 : u.pend = s.pend := hseg .pend (by decide)
    rw [h1, h2]
  have hepoch : r.2.epoch = s.epoch := by
    obtain ⟨-, h1⟩ : Part.Kept u r.2 .epochs := hset .epochs (by decide)
    obtain ⟨-, h2⟩ : Part.Kept s u .epochs := hseg .epochs (by decide)
    rw [h1, h2]
  have hstart : (startEpoch r.2 c.cmd (some (fieldAt c.body 8 1)) none).dtcG = r.2.dtcG := startEpoch_changes.dtcG
  have hv' : v.pend = (s.pend.filter fun p => !(p.ctx == fieldAt c.body 8 1 && p.seg == fieldAt c.body 9 1
        && fieldAt c.body 12 4 ≤ p.k && p.k < fieldAt c.body 12 4 + fieldAt c.body 16 4)) ∧ v.epoch = s.epoch + 1
      ∧ v.dtcG = r.2.dtcG := by
    rw [hv]
    exact ⟨hpend ▸ rfl, hepoch ▸ rfl, hstart⟩
  obtain ⟨vpend, vepoch, vdtc⟩ := hv'
  have hend : (granuleSet s c).pend = v.pend ∧ (granuleSet s c).epoch = v.epoch ∧ (granuleSet s c).dtcG = v.dtcG := by
    rw [heq]
    split
    · exact ⟨rfl, rfl, rfl⟩
    · obtain ⟨w, hw⟩ : ∃ w, w = { v with epochs := v.epochs.filter fun e => e.cmd != c.cmd } := ⟨_, rfl⟩
      have hkeep : (endControl w c.cmd 0 0).dtcG = w.dtcG := by
        rw [endControl]
        exact completeId_changes.dtcG
      obtain ⟨-, kepoch⟩ : Part.Kept w (endControl w c.cmd 0 0) .epochs := endControl_changes .epochs (by decide)
      have kpend : (endControl w c.cmd 0 0).pend = w.pend := endControl_changes .pend (by decide)
      rw [← hw]
      exact ⟨kpend.trans (by rw [hw]), kepoch.trans (by rw [hw]), hkeep.trans (by rw [hw])⟩
  obtain ⟨tpend, tepoch, tdtc⟩ := hend
  refine ⟨tpend.trans vpend, tepoch.trans vepoch, fun j hlo hhi => dtcFind_none fun e he => ?_⟩
  rw [tdtc, vdtc, hr] at he
  exact (setGranules_dtcG _ _ _ _ _ _ _ _ _ e he).2 j hlo hhi

/-! ### SEG_SYNC (R422) -/

theorem mirrorReason_congr {s t : State} (h : t.variant = s.variant) (i : Nat) (e : MirrorEntry) (others : List Seg) :
    mirrorReason t i e others = mirrorReason s i e others := by
  unfold mirrorReason
  cases e with
  | none => rfl
  | some w =>
    unfold segReason
    rw [h]

theorem mirrorReads_host (ctx : Nat) (l : List Nat) (s : State) : ∃ h, mirrorReads s ctx l = withHost h s := by
  induction l generalizing s with
  | nil => exact ⟨s.host, rfl⟩
  | cons i l ih =>
    obtain ⟨out, unqueued, held, hemit⟩ := emit_only s 0 (.read 0 (mirrorAddr s ctx i) 32 plainAttr)
    obtain ⟨h, hh⟩ := ih (emit s 0 (.read 0 (mirrorAddr s ctx i) 32 plainAttr))
    refine ⟨h, ?_⟩
    rw [mirrorReads, hh, hemit]
    rfl

/-- The state of a SEG_SYNC that has read its entries. -/
theorem segSync_eq {s : State} {c : CtrlCmd} {es : List (Nat × MirrorEntry)} {mask : Nat}
    (hgood : ∀ e ∈ es, mirrorReason s e.1 e.2 (segsAfter (segTable (fieldAt c.body 8 1) 16 0 s).1 es) = 0) :
    ∃ u, u.cores = s.cores ∧ Part.Kept s u .epochs ∧ segSync s c es mask
      = startEpoch (dropSegs (writeSegs (fieldAt c.body 8 1) es u) (fieldAt c.body 8 1) fun i => mask.testBit i) c.cmd
          (some (fieldAt c.body 8 1)) none := by
  obtain ⟨h, hh⟩ := mirrorReads_host (fieldAt c.body 8 1) (es.map (·.1)) s
  obtain ⟨v, hv⟩ : ∃ v, v = (segTable (fieldAt c.body 8 1) 16 0 s).2 := ⟨_, rfl⟩
  obtain ⟨u, hu⟩ : ∃ u, u = mirrorRecords (fieldAt c.body 8 1) es (withHost h v) := ⟨_, rfl⟩
  have hseg : Changes memoryParts s v := hv ▸ segTable_changes
  have hrec : Changes [.log, .regs, .trace] (withHost h v) u := hu ▸ mirrorRecords_changes
  have hvariant : u.variant = s.variant := by
    have h1 : u.variant = (withHost h v).variant := hrec .variant (by decide)
    have h2 : v.variant = s.variant := hseg .variant (by decide)
    rw [h1, ← h2]
    rfl
  have hcores : u.cores = s.cores := by
    have h1 : u.cores = (withHost h v).cores := hrec .cores (by decide)
    have h2 : v.cores = s.cores := hseg .cores (by decide)
    rw [h1, ← h2]
    rfl
  have hepochs : Part.Kept s u .epochs := by
    obtain ⟨h1, k1⟩ : Part.Kept (withHost h v) u .epochs := hrec .epochs (by decide)
    obtain ⟨h2, k2⟩ : Part.Kept s v .epochs := hseg .epochs (by decide)
    exact ⟨h1.trans h2, k1.trans k2⟩
  refine ⟨u, hcores, hepochs, ?_⟩
  have hfind : (es.find? fun e => mirrorReason u e.1 e.2 (segsAfter (segTable (fieldAt c.body 8 1) 16 0 s).1 es) != 0) = none :=
    List.find?_eq_none.2 fun e he => by
      rw [mirrorReason_congr hvariant, hgood e he]
      decide
  unfold segSync
  dsimp only
  rw [hh, segTable_withHost]
  dsimp only
  rw [← hv, ← hu, hfind]

/-! ### The obligation -/

/-- What a command that starts an epoch leaves. -/
def EpochStarts (s t : State) (cmd : Nat) : Prop := PlatformKept s t ∧ (∃ e, t.epochs = [e] ∧ e.cmd = cmd) ∧ t.epoch = s.epoch + 1

theorem ownSet_completes {s : State} {c : CtrlCmd} (hc : nextControl s 0x43 = some c) (hpf : c.pf = true)
    (halign : fieldAt c.body 8 8 % 2 ^ 21 = 0) (hk : fieldAt c.body 16 4 ≠ 0) (hmode : fieldAt c.body 20 1 ≤ 1)
    (hctx : fieldAt c.body 21 1 < 64) (hzero : zeroBytes c.body 22 64 = true)
    (hin : fieldAt c.body 8 8 + fieldAt c.body 16 4 * 2 ^ 21 ≤ installed s.variant)
    (hgood : ∀ j, j < min (fieldAt c.body 16 4) (channels s.variant / 4) → granuleLost s (fieldAt c.body 8 8 / 2 ^ 21 + j) = false) :
    Completes .ownSet s fun t => EpochStarts s t c.cmd ∧ ∀ g, spGet 0#8 g t.own =
      (if fieldAt c.body 8 8 / 2 ^ 21 ≤ g ∧ g < fieldAt c.body 8 8 / 2 ^ 21 + fieldAt c.body 16 4
       then BitVec.ofNat 8 (fieldAt c.body 21 1 + 64 * fieldAt c.body 20 1) else spGet 0#8 g s.own) := by
  obtain ⟨u, hu⟩ : ∃ u, u = setOwn (fieldAt c.body 21 1 + 64 * fieldAt c.body 20 1) (fieldAt c.body 16 4)
    (fieldAt c.body 8 8 / 2 ^ 21) s := ⟨_, rfl⟩
  have hrun : ownSet s c = startEpoch u c.cmd none none := by
    have hlost : ((List.range (min (fieldAt c.body 16 4) (channels s.variant / 4))).any fun j =>
        granuleLost s (fieldAt c.body 8 8 / 2 ^ 21 + j)) = false :=
      List.any_eq_false.2 fun j hj => by simpa using hgood j (List.mem_range.1 hj)
    unfold ownSet
    dsimp only
    rw [if_neg (Nat.not_lt.2 hin), hlost, if_neg (by decide), ← hu]
  have hexec : exec .ownSet s = .next (startEpoch u c.cmd none none) := by
    rw [← hrun]
    show execOwnSet s = _
    rw [execOwnSet, hc]
    exact congrArg _ (control_runs hpf (by simpa [hk, hmode, hctx, hzero] using halign) (by nofun) _)
  have hkept : Part.Kept s u .epochs := hu ▸ setOwn_changes .epochs (by decide)
  obtain ⟨hepochs, hepoch⟩ := startEpoch_starts (nextControl_epochs hc) hkept c.cmd none none
  refine ⟨_, hexec, ⟨(execOwnSet_changes.next hexec).platformKept, hepochs, hepoch⟩, fun g => ?_⟩
  have hown : (startEpoch u c.cmd none none).own = u.own := startEpoch_changes .own (by decide)
  rw [hown, hu, setOwn_own]

theorem invalidate_completes {s : State} {c : CtrlCmd} (hc : nextControl s 0x41 = some c) (hpf : c.pf = true)
    (hctx : fieldAt c.body 8 1 < 64) (hscope : fieldAt c.body 9 1 = 0) (hz1 : zeroBytes c.body 12 16 = true)
    (hz2 : zeroBytes c.body 32 64 = true) (hvalid : ctxValid s (fieldAt c.body 8 1) = true) :
    Completes .invalidate s fun t => EpochStarts s t c.cmd
      ∧ (∀ n, ∀ e ∈ (getCore t n).look.ent, ∀ k g, e.2 = some (k, g) → k ≠ fieldAt c.body 8 1)
      ∧ (∀ e ∈ t.dtcG, e.ctx ≠ fieldAt c.body 8 1) := by
  obtain ⟨d, hd⟩ : ∃ d, d = dropLooks s fun k _ => k == fieldAt c.body 8 1 := ⟨_, rfl⟩
  obtain ⟨u, hu⟩ : ∃ u, u = dtcDrop d fun e => e.ctx == fieldAt c.body 8 1 := ⟨_, rfl⟩
  obtain ⟨v, hv⟩ : ∃ v, v = dropHost u (fnOf u (fieldAt c.body 8 1)) (pasidOf u (fieldAt c.body 8 1)) 0 (2 ^ 64) := ⟨_, rfl⟩
  have hrun : invalidateScope s (fieldAt c.body 8 1) (fieldAt c.body 9 1) (fieldAt c.body 10 2) (fieldAt c.body 16 8)
      (fieldAt c.body 24 8) = v := by
    rw [invalidateScope, if_pos hscope, hv, hu, hd]
  have hexec : exec .invalidate s = .next (startEpoch v c.cmd (some (fieldAt c.body 8 1)) none) := by
    show execInvalidate s = _
    rw [execInvalidate, hc]
    refine congrArg _ ((control_runs hpf (by simp [hctx, hscope, hz1, hz2]) (by rintro _ ⟨⟩; exact hvalid) _).trans ?_)
    rw [hrun, if_neg (by omega)]
  have hkeeps : Changes [.cores, .hbm, .poison, .reqs, .slices, .regs, .log, .trace, .free, .xlate] s v := by
    rw [hv, hu, hd]
    exact .comp (.comp (.of dropLooks_changes) dtcDrop_changes) dropHost_changes
  obtain ⟨hepochs, hepoch⟩ := startEpoch_starts (nextControl_epochs hc) (hkeeps .epochs (by decide)) c.cmd
    (some (fieldAt c.body 8 1)) none
  have hcores : (startEpoch v c.cmd (some (fieldAt c.body 8 1)) none).cores = d.cores := by
    have h1 : (startEpoch v c.cmd (some (fieldAt c.body 8 1)) none).cores = v.cores := startEpoch_changes .cores (by decide)
    have h2 : v.cores = u.cores := by rw [hv]; rfl
    have h3 : u.cores = d.cores := hu ▸ dtcDrop_changes .cores (by decide)
    rw [h1, h2, h3]
  have hdtc : (startEpoch v c.cmd (some (fieldAt c.body 8 1)) none).dtcG = u.dtcG := by
    have h1 : (startEpoch v c.cmd (some (fieldAt c.body 8 1)) none).dtcG = v.dtcG := startEpoch_changes.dtcG
    rw [h1, hv]
    rfl
  refine ⟨_, hexec, ⟨(execInvalidate_changes.next hexec).platformKept, hepochs, hepoch⟩, fun n e he k g hk => ?_, fun e he => ?_⟩
  · rw [getCore_congr hcores, hd] at he
    obtain ⟨k', g', hent, hno⟩ := dropLooks_ent _ _ _ e he
    obtain ⟨rfl, rfl⟩ := Prod.mk.inj (Option.some.inj (hk.symm.trans hent))
    simpa using hno
  · rw [hdtc, hu, dtcDrop_dtcG] at he
    simpa using (List.mem_filter.1 he).2

theorem granuleSet_completes {s : State} {c : CtrlCmd} (hc : nextControl s 0x42 = some c) (hpf : c.pf = true)
    (hctx : fieldAt c.body 8 1 < 64) (hseg : fieldAt c.body 9 1 < 16)
    (hst : fieldAt c.body 10 1 = 1 ∨ fieldAt c.body 10 1 = 2) (hz1 : zeroBytes c.body 11 12 = true)
    (hk : fieldAt c.body 16 4 ≠ 0) (hz2 : zeroBytes c.body 20 24 = true) (halign : fieldAt c.body 24 8 % 2 ^ 21 = 0)
    (hz3 : zeroBytes c.body 32 64 = true) (hvalid : ctxValid s (fieldAt c.body 8 1) = true) {g : Seg}
    (hg : (segRead s (fieldAt c.body 8 1) (fieldAt c.body 9 1)).1 = some g) (hmig : g.mig = true)
    (hlen : fieldAt c.body 12 4 + fieldAt c.body 16 4 ≤ g.len / 2 ^ 21) :
    Completes .granuleSet s fun t => PlatformKept s t
      ∧ (t.pend = s.pend.filter fun p => !(p.ctx == fieldAt c.body 8 1 && p.seg == fieldAt c.body 9 1
          && fieldAt c.body 12 4 ≤ p.k && p.k < fieldAt c.body 12 4 + fieldAt c.body 16 4))
      ∧ t.epoch = s.epoch + 1
      ∧ ∀ j, fieldAt c.body 12 4 ≤ j → j < fieldAt c.body 12 4 + fieldAt c.body 16 4 →
          dtcFind t (fieldAt c.body 8 1) g.idx j = none := by
  have hsmall : fieldAt c.body 10 1 < 8 ∧ fieldAt c.body 10 1 % 4 ≠ 3 := by omega
  have hexec : exec .granuleSet s = .next (granuleSet s c) := by
    show execGranuleSet s = _
    rw [execGranuleSet, hc]
    exact congrArg _ (control_runs hpf (by simpa [hctx, hseg, hsmall, hz1, hk, hz2, hz3] using halign)
      (by rintro _ ⟨⟩; exact hvalid) _)
  exact ⟨_, hexec, (execGranuleSet_changes.next hexec).platformKept, granuleSet_outcome hst hg hmig hlen⟩

theorem segSync_completes {mirror : List HostReply} {s : State} {c : CtrlCmd} (hc : nextControl s 0x40 = some c) (hpf : c.pf = true)
    (hctx : fieldAt c.body 8 1 < 64) (hz1 : zeroBytes c.body 9 10 = true) (hz2 : zeroBytes c.body 12 64 = true)
    (hvalid : ctxValid s (fieldAt c.body 8 1) = true)
    (hgood : ∀ e ∈ mirrorEntries (maskSegs (fieldAt c.body 10 2)) mirror, mirrorReason s e.1 e.2
      (segsAfter (segTable (fieldAt c.body 8 1) 16 0 s).1 (mirrorEntries (maskSegs (fieldAt c.body 10 2)) mirror)) = 0) :
    Completes (.segSync mirror) s fun t => EpochStarts s t c.cmd
      ∧ ∀ n, ∀ e ∈ (getCore t n).look.ent, ∀ g, e.2 = some (fieldAt c.body 8 1, g) → (fieldAt c.body 10 2).testBit g.idx = false := by
  obtain ⟨u, hcores, hkept, hrun⟩ := segSync_eq (mask := fieldAt c.body 10 2) hgood
  obtain ⟨w, hw⟩ : ∃ w, w = writeSegs (fieldAt c.body 8 1) (mirrorEntries (maskSegs (fieldAt c.body 10 2)) mirror) u := ⟨_, rfl⟩
  obtain ⟨d, hd⟩ : ∃ d, d = dropLooks w fun k g => k == fieldAt c.body 8 1 && (fieldAt c.body 10 2).testBit g.idx := ⟨_, rfl⟩
  obtain ⟨v, hv⟩ : ∃ v, v = dropSegs w (fieldAt c.body 8 1) fun i => (fieldAt c.body 10 2).testBit i := ⟨_, rfl⟩
  rw [← hw, ← hv] at hrun
  have hexec : exec (.segSync mirror) s = .next (startEpoch v c.cmd (some (fieldAt c.body 8 1)) none) := by
    have hbody : exec (.segSync mirror) s = match nextControl s 0x40 with
      | none => .next s
      | some c => .next (control s c (segSyncOk c.body) (some (fieldAt c.body 8 1)) fun s =>
          segSync s c (mirrorEntries (maskSegs (fieldAt c.body 10 2)) mirror) (fieldAt c.body 10 2)) := rfl
    rw [hbody, hc]
    refine congrArg _ ((control_runs hpf (by simp [segSyncOk, hctx, hz1, hz2]) (by rintro _ ⟨⟩; exact hvalid) _).trans hrun)
  have hsegs : Changes [.hbm, .poison, .reqs, .slices, .regs, .log, .trace] u w := hw ▸ writeSegs_changes
  have hdrop : Changes [.cores, .hbm, .poison, .reqs, .slices, .regs, .log, .trace, .free, .xlate] w v := by
    rw [hv, dropSegs]
    exact .comp (.of dropLooks_changes) dtcDrop_changes
  have hepochs : v.epochs = s.epochs ∧ v.epoch = s.epoch := by
    obtain ⟨h1, k1⟩ : Part.Kept u w .epochs := hsegs .epochs (by decide)
    obtain ⟨h2, k2⟩ : Part.Kept w v .epochs := hdrop .epochs (by decide)
    exact ⟨(h2.trans h1).trans hkept.1, (k2.trans k1).trans hkept.2⟩
  obtain ⟨hone, hepoch⟩ := startEpoch_starts (nextControl_epochs hc) hepochs c.cmd (some (fieldAt c.body 8 1)) none
  have hcore : (startEpoch v c.cmd (some (fieldAt c.body 8 1)) none).cores = d.cores := by
    have h1 : (startEpoch v c.cmd (some (fieldAt c.body 8 1)) none).cores = v.cores := startEpoch_changes .cores (by decide)
    have h2 : v.cores = d.cores := by rw [hv, hd, dropSegs]; exact dtcDrop_changes .cores (by decide)
    rw [h1, h2]
  refine ⟨_, hexec, ⟨(execSegSync_changes.next hexec).platformKept, hone, hepoch⟩, fun n e he g hg => ?_⟩
  rw [getCore_congr hcore, hd] at he
  obtain ⟨k', g', hent, hno⟩ := dropLooks_ent _ _ _ e he
  obtain ⟨rfl, rfl⟩ := Prod.mk.inj (Option.some.inj (hg.symm.trans hent))
  simpa using hno

theorem epochDrained_completes {s : State} {e : Epoch} {es : List Epoch} (hes : s.epochs = e :: es) (hover : epochOver s e = true) :
    Completes .epochDrained s fun t => t.epochs = es ∧ PlatformKept s t ∧ (∀ c ∈ t.ctrl, c.cmd ≠ e.cmd)
      ∧ ∀ d, findCmd s e.cmd = some d → EntryWritten s t d 0 := by
  obtain ⟨u, hu⟩ : ∃ u, u = { s with epochs := es } := ⟨_, rfl⟩
  have hexec : exec .epochDrained s = .next (endControl u e.cmd 0 0) := by
    show execEpochDrained s = _
    rw [execEpochDrained, hes, hu]
    exact whenDue_pos hover ..
  obtain ⟨hctrl, hentry⟩ := endControl_outcome u e.cmd 0 0
  obtain ⟨hepochs, -⟩ : Part.Kept u (endControl u e.cmd 0 0) .epochs := endControl_changes .epochs (by decide)
  refine ⟨_, hexec, by rw [hepochs, hu], (execEpochDrained_changes.next hexec).platformKept, hctrl, fun d hd => ?_⟩
  exact (hentry d (by rw [hu]; exact hd)).of_eq (by rw [hu]) (by rw [hu]) rfl

/-- Settles O36: a control command is refused, or runs and starts its epoch; the copies it drops are filtered out of the
lookasides and of the translation cache. -/
theorem controlCommands : Obligations.ControlCommands := by
  unfold Obligations.ControlCommands
  intro mirror s
  refine ⟨fun code i c hrow hc => ?_, fun c => ownSet_completes, fun c => invalidate_completes, fun c hc hpf h1 h2 h3 h4 h5 h6
    h7 h8 h9 g hg hmig hlen => granuleSet_completes hc hpf h1 h2 h3 h4 h5 h6 h7 h8 h9 hg hmig hlen,
    fun c => segSync_completes, fun e es => epochDrained_completes⟩
  obtain ⟨ok, ctx, run, hexec⟩ := controlRow_exec hrow hc
  refine ⟨⟨_, hexec, controlRow_platformKept hrow hexec⟩, fun d hd hpf => ⟨_, hexec, ?_⟩⟩
  rw [control_refused hpf]
  obtain ⟨hctrl, hentry⟩ := endControl_outcome s c.cmd 0x40 0
  exact ⟨hentry d hd, hctrl, endControl_changes .hbm (by decide), endControl_changes .own (by decide),
    endControl_changes .cores (by decide)⟩

end Sys2Proof.Machine

/-! PROOFS. The family of spec/09, the Solver Clusters: the front end, and the problems that its lanes take, end and lose. -/

namespace Sys2Proof.Machine

set_option Elab.async false

/-! ### Problems by their number -/

/-- A change of the problems of one number is seen by that number alone. -/
theorem findProblem_change (s : State) (id : Nat) (f : Problem → Problem) (hf : ∀ p, p.id = id → (f p).id = id) (j : Nat) :
    findProblem { s with problems := s.problems.map fun p => if p.id = id then f p else p } j
      = if j = id then (findProblem s id).map f else findProblem s j := by
  have hid (p : Problem) : ((if p.id = id then f p else p).id == j) = (p.id == j) := by
    by_cases hp : p.id = id
    · rw [if_pos hp, hf p hp, hp]
    · rw [if_neg hp]
  unfold findProblem
  dsimp only
  rw [List.find?_map, show ((fun p : Problem => p.id == j) ∘ fun p => if p.id = id then f p else p) = fun p => p.id == j from
    funext hid]
  by_cases hj : j = id
  · subst hj
    rw [if_pos rfl]
    refine Option.map_congr fun p hp => if_pos ?_
    exact beq_iff_eq.1 (List.find?_some (p := fun q : Problem => q.id == j) hp)
  · rw [if_neg hj]
    refine (Option.map_congr fun p hp => if_neg ?_).trans (Option.map_id' ..)
    rw [beq_iff_eq.1 (List.find?_some (p := fun q : Problem => q.id == j) hp)]
    exact hj

theorem findProblem_dropProblem (s : State) (p : Problem) (j : Nat) :
    findProblem (dropProblem s p) j = if j = p.id then none else findProblem s j := by
  unfold findProblem dropProblem
  dsimp only
  rw [List.find?_filter]
  by_cases hj : j = p.id
  · rw [if_pos hj, List.find?_eq_none]
    intro q _ hq
    obtain ⟨hne, heq⟩ := of_decide_eq_true hq
    exact bne_iff_ne.1 hne ((beq_iff_eq.1 heq).trans hj)
  · rw [if_neg hj]
    congr 1
    funext q
    by_cases hq : q.id = j
    · simp [hq, hj]
    · simp [hq]

theorem findProblem_id {s : State} {id : Nat} {p : Problem} (h : findProblem s id = some p) : p.id = id :=
  beq_iff_eq.1 (List.find?_some (p := fun q : Problem => q.id == id) h)

theorem findProblem_congr {s t : State} (h : t.problems = s.problems) (j : Nat) : findProblem t j = findProblem s j := by
  rw [findProblem, h]
  rfl

theorem tagCmd_congr {s t : State} (h : t.tags = s.tags) (g : Nat) : tagCmd t g = tagCmd s g := by
  rw [tagCmd, getTag, h]
  rfl

/-- What a tag's command becomes when it is changed. -/
theorem tagCmd_modCmd (s : State) (g : Nat) (f : Cmd → Cmd) : tagCmd (modCmd s g f) g = (tagCmd s g).map f := by
  rw [tagCmd, tagCmd, getTag_modCmd]
  dsimp only
  split
  · rfl
  · rfl

theorem tagCmd_cmd {s : State} {g : Nat} {c : Cmd} (h : tagCmd s g = some c) : (getTag s g).cmd = some c := by
  rw [tagCmd] at h
  split at h
  · exact h
  · cases h

/-! ### The front end (R346 to R348) -/

/-- The problems of the descriptors that were read: as many as were asked for, of the command's tag and on no lane. -/
theorem readDescs_problems {c : Cmd} {t n i : Nat} {hs hs' : List HostReply} {s u : State} {ps : List Problem}
    (h : readDescs c t n i hs s = (.inr ps, hs', u)) : ps.length = n ∧ ∀ p ∈ ps, p.tag = some t ∧ p.lane = none := by
  induction n generalizing i hs s ps u hs' with
  | zero =>
    rw [readDescs] at h
    rw [← Sum.inr.inj (Prod.mk.inj h).1]
    exact ⟨rfl, fun _ hp => absurd hp List.not_mem_nil⟩
  | succ n ih =>
    rw [readDescs] at h
    split at h
    · exact absurd (Prod.mk.inj h).1 Sum.inl_ne_inr
    · split at h
      · exact absurd (Prod.mk.inj h).1 Sum.inl_ne_inr
      · split at h
        · exact absurd (Prod.mk.inj h).1 Sum.inl_ne_inr
        · split at h
          · exact absurd (Prod.mk.inj h).1 Sum.inl_ne_inr
          · next ps' _ _ hrest =>
            obtain ⟨hlen, hall⟩ := ih hrest
            rw [← Sum.inr.inj (Prod.mk.inj h).1]
            refine ⟨congrArg (· + 1) hlen, fun p hp => ?_⟩
            obtain rfl | hp := List.mem_cons.1 hp
            · exact ⟨rfl, rfl⟩
            · exact hall p hp

theorem frontReads_problems {s u : State} {t : Nat} {c : Cmd} {hs hs' : List HostReply} {ps : List Problem}
    (h : frontReads s t c hs = (.inr ps, hs', u)) : ps.length = c.blk.count ∧ ∀ p ∈ ps, p.tag = some t ∧ p.lane = none := by
  rw [frontReads] at h
  split at h
  · cases h
  · split at h
    · cases h
    · exact readDescs_problems h

theorem leaveFront_solveNet (s : State) (t : Nat) : ∀ e ∈ (leaveFront s t).solveNet, e.1 ≠ t := fun _ he =>
  bne_iff_ne.1 (List.mem_filter.1 he).2

theorem solveFrontEnd_outcome {tag : Fin 4096} {host : List HostReply} {s : State} {c : Cmd} (hcmd : tagCmd s tag.val = some c)
    (hdue : frontDue s tag.val c = true) : Completes (.solveFrontEnd tag host) s fun t =>
      PlatformKept s t
        ∧ (∀ ps hs u, frontReads s tag.val c host = (.inr ps, hs, u) → t.problems = s.problems ++ ps
            ∧ (∀ p ∈ ps, p.tag = some tag.val ∧ p.lane = none) ∧ (∀ e ∈ t.solveNet, e.1 ≠ tag.val)
            ∧ (tagCmd t tag.val).map (·.waiting) = some c.blk.count)
        ∧ ∀ code hs u, frontReads s tag.val c host = (.inl (.fail code), hs, u) → t.problems = s.problems
            ∧ (∀ e ∈ t.solveNet, e.1 ≠ tag.val) ∧ (getTag t tag.val).st = .retiring := by
  have hexec : exec (.solveFrontEnd tag host) s = .next (frontEnd s tag.val c host) := by
    show execSolveFrontEnd tag host s = _
    rw [execSolveFrontEnd, hcmd]
    exact whenDue_pos hdue ..
  refine ⟨_, hexec, (execSolveFrontEnd_changes.next hexec).platformKept, fun ps hs u hreads => ?_, fun code hs u hreads => ?_⟩
  · have hkept : Changes laneParts s u := frontReads_changes.ofEq_2_2 hreads
    obtain ⟨hlen, hall⟩ := frontReads_problems hreads
    obtain ⟨f, v, heq, hf, hprob, hnet, htags⟩ : ∃ (f : Cmd → Cmd) (v : State), frontEnd s tag.val c host = modCmd v tag.val f
        ∧ (∀ c, (f c).waiting = ps.length) ∧ v.problems = u.problems ++ ps ∧ v.solveNet = (leaveFront u tag.val).solveNet
        ∧ v.tags = u.tags := by
      rw [frontEnd, hreads]
      exact ⟨_, _, rfl, fun _ => rfl, rfl, rfl, rfl⟩
    obtain ⟨hprob', -, hnet', -⟩ : Part.Kept v (modCmd v tag.val f) .problems := modCmd_changes .problems (by decide)
    rw [heq]
    refine ⟨?_, hall, ?_, ?_⟩
    · rw [hprob', hprob, hkept.problems]
    · rw [hnet', hnet]
      exact leaveFront_solveNet u tag.val
    · rw [tagCmd_modCmd, tagCmd_congr (htags.trans (hkept .tags (by decide))), hcmd, ← hlen]
      exact congrArg some (hf c)
  · have hkept : Changes laneParts s u := frontReads_changes.ofEq_2_2 hreads
    rw [frontEnd, hreads]
    dsimp only
    obtain ⟨hprob, -, hnet, -⟩ : Part.Kept (leaveFront u tag.val) (fail (leaveFront u tag.val) tag.val code) .problems :=
      fail_changes .problems (by decide)
    have hgone : (getTag (leaveFront u tag.val) tag.val).cmd = some c := by
      rw [show getTag (leaveFront u tag.val) tag.val = getTag u tag.val from rfl, hkept.getTag]
      exact tagCmd_cmd hcmd
    refine ⟨hprob.trans hkept.problems, ?_, ?_⟩
    · rw [hnet]
      exact leaveFront_solveNet u tag.val
    · rw [getTag_fail hgone]

/-! ### Problems on lanes (R349, R363 to R367) -/

theorem problemAssign_outcome {s : State} {id : Nat} {p : Problem} {l : Nat × Nat} (hfind : findProblem s id = some p)
    (hlane : pickLane s p = some l) (hdue : assignDue s p = true) : Completes (.problemAssign id) s fun t =>
      findProblem t id = some { p with lane := some l } ∧ t = { s with problems := t.problems }
        ∧ ∀ j, j ≠ id → findProblem t j = findProblem s j := by
  have hid := findProblem_id hfind
  have hexec : exec (.problemAssign id) s
      = .next { s with problems := s.problems.map fun x => if x.id = id then { x with lane := some l } else x } := by
    show execProblemAssign id s = _
    rw [execProblemAssign, hfind]
    dsimp only
    rw [hlane, hid]
    exact whenDue_pos hdue ..
  have hchange := findProblem_change s id (fun x => { x with lane := some l }) fun _ h => h
  refine ⟨_, hexec, ?_, rfl, fun j hj => ?_⟩
  · rw [hchange, if_pos rfl, hfind]
    rfl
  · rw [hchange, if_neg hj]

/-- What the SOLVE, or the governor's lane, shows after the end of one of its problems. -/
theorem countEnd_counts (s : State) (p : Problem) (r : LaneEnd) (m : LaneMark) :
    (p.tag = none → regBit (countEnd s p r m) .govLstat 0 0 0 1 = true ∧ regBit (countEnd s p r m) .govLstat 0 0 0 0 = false)
      ∧ ∀ g c, p.tag = some g → tagCmd s g = some c →
          (c.waiting = 1 → (getTag (countEnd s p r m) g).st = .retiring)
            ∧ (1 < c.waiting → (tagCmd (countEnd s p r m) g).map (·.waiting) = some (c.waiting - 1)) := by
  refine ⟨fun htag => ?_, fun g c htag hcmd => ?_⟩
  · rw [countEnd, htag]
    exact ⟨regBit_setFld _ .govLstat 0 0 0 true (by decide),
      (regBit_setFld_ne _ .govLstat 0 0 0 1 (by decide) (by decide)).trans (regBit_setFld _ .govLstat 0 0 0 false (by decide))⟩
  · obtain ⟨f, heq, hf⟩ : ∃ f : Cmd → Cmd, (countEnd s p r m = match tagCmd (modCmd s g f) g with
          | some c => if c.waiting = 0 then retire (modCmd s g f) g else modCmd s g f
          | none => modCmd s g f) ∧ ∀ c, (f c).waiting = c.waiting - 1 := by
      rw [countEnd, htag]
      exact ⟨_, rfl, fun _ => rfl⟩
    have hnow : tagCmd (modCmd s g f) g = some (f c) := by rw [tagCmd_modCmd, hcmd]; rfl
    rw [heq, hnow]
    dsimp only
    rw [hf]
    refine ⟨fun hone => ?_, fun hmore => ?_⟩
    · rw [if_pos (by omega), getTag_retire (tagCmd_cmd hnow)]
    · rw [if_neg (by omega), hnow, Option.map_some, hf]

/-- A problem that ends is gone, and it alone; its SOLVE counts it. -/
theorem laneFinish_ends {s : State} {p : Problem} {r : LaneEnd} {poison : Bool} {m : LaneMark} :
    (∀ j, findProblem (laneFinish s p r poison m) j = if j = p.id then none else findProblem s j)
      ∧ (p.tag = none → regBit (laneFinish s p r poison m) .govLstat 0 0 0 1 = true
          ∧ regBit (laneFinish s p r poison m) .govLstat 0 0 0 0 = false)
      ∧ ∀ g c, p.tag = some g → tagCmd s g = some c →
          (c.waiting = 1 → (getTag (laneFinish s p r poison m) g).st = .retiring)
            ∧ (1 < c.waiting → (tagCmd (laneFinish s p r poison m) g).map (·.waiting) = some (c.waiting - 1)) := by
  obtain ⟨b, u, hwrite⟩ : ∃ b u, laneWrite s p (p.addr + 128) (statusBlock s r poison) = (b, u) := ⟨_, _, rfl⟩
  have hkept := laneWrite_changes.ofEq_2 hwrite
  have heq : laneFinish s p r poison m
      = countEnd (laneCounters (dropProblem u p) p r) p r { m with poison := m.poison || b } := by rw [laneFinish, hwrite]
  rw [heq]
  obtain ⟨hgov, htags⟩ := countEnd_counts (laneCounters (dropProblem u p) p r) p r { m with poison := m.poison || b }
  refine ⟨fun j => ?_, hgov, fun g c htag hcmd => htags g c htag ?_⟩
  · rw [findProblem_congr countEnd_changes.problems, findProblem_congr laneCounters_changes.problems, findProblem_dropProblem,
      findProblem_congr hkept.problems]
  · rw [tagCmd_congr (laneCounters_changes .tags (by decide)), tagCmd_congr (dropProblem_changes .tags (by decide)),
      tagCmd_congr (hkept .tags (by decide))]
    exact hcmd

theorem problemEnd_outcome {s : State} {id : Nat} {p : Problem} {host : List HostReply} (hfind : findProblem s id = some p)
    (hruns : laneRuns s p = true) : Completes (.problemEnd id host) s fun t => PlatformKept s t
      ∧ ∀ d hs u, laneData s p host = (.inr d, hs, u) →
          ∀ m v, laneReach p true (laneLines (p.addr + 128) 64) u = (.inr m, v) →
          ∀ k w, laneReach p true ((writtenArrays p (endOf p d)).1.flatMap fun a => laneLines a.1 a.2.length) v = (.inr k, w) →
          findProblem t id = none ∧ (∀ j, j ≠ id → findProblem t j = findProblem s j)
            ∧ (p.tag = none → regBit t .govLstat 0 0 0 1 = true ∧ regBit t .govLstat 0 0 0 0 = false)
            ∧ ∀ g c, p.tag = some g → tagCmd s g = some c →
                (c.waiting = 1 → (getTag t g).st = .retiring)
                  ∧ (1 < c.waiting → (tagCmd t g).map (·.waiting) = some (c.waiting - 1)) := by
  have hexec : exec (.problemEnd id host) s = .next (problemEnds s p host) := by
    show execProblemEnd id host s = _
    rw [execProblemEnd, hfind]
    exact whenDue_pos hruns ..
  refine ⟨_, hexec, (execProblemEnd_changes.next hexec).platformKept, fun d hs u hdata m v hstat k w harrays => ?_⟩
  obtain ⟨poison, mark, b, x, hwrites, heq⟩ : ∃ poison mark b x,
      laneWrites p (writtenArrays p (endOf p d)).1 false w = (b, x)
        ∧ problemEnds s p host = laneFinish x p (endOf p d) poison mark := by
    rw [problemEnds, hdata]
    dsimp only
    rw [laneEnds]
    dsimp only
    rw [hstat]
    dsimp only
    rw [harrays]
    exact ⟨_, _, _, _, rfl, rfl⟩
  have hdata' : Changes laneParts s u := laneData_changes.ofEq_2_2 hdata
  have hprob : x.problems = s.problems := (laneWrites_changes.ofEq_2 hwrites).problems.trans
    ((laneReach_changes.ofEq_2 harrays).problems.trans ((laneReach_changes.ofEq_2 hstat).problems.trans hdata'.problems))
  have htags : x.tags = s.tags := by
    have hw : x.tags = w.tags := laneWrites_changes.ofEq_2 hwrites .tags (by decide)
    have hv : w.tags = v.tags := laneReach_changes.ofEq_2 harrays .tags (by decide)
    have hu : v.tags = u.tags := laneReach_changes.ofEq_2 hstat .tags (by decide)
    exact hw.trans (hv.trans (hu.trans (hdata' .tags (by decide))))
  have hid := findProblem_id hfind
  rw [heq]
  obtain ⟨hgone, hgov, hsolve⟩ := laneFinish_ends (s := x) (p := p) (r := endOf p d) (poison := poison) (m := mark)
  refine ⟨?_, fun j hj => ?_, hgov, fun g c htag hcmd => hsolve g c htag ?_⟩
  · rw [hgone, if_pos hid.symm]
  · rw [hgone, if_neg (hid ▸ hj), findProblem_congr hprob]
  · rw [tagCmd_congr htags]
    exact hcmd

theorem deadlineCheck_outcome {s s' : State} {id iters pivots : Nat} {checked : Bool} {host : List HostReply} {p : Problem}
    (hfind : findProblem s id = some p) (hhit : deadlineHit s p = true) (hup : planeUp s = true ∨ p.tag = none)
    (hends : deadlineEnds s p iters pivots checked host = some s') :
    Completes (.deadlineCheck id iters pivots checked host) s fun t => t = s' ∧ PlatformKept s t := by
  have hexec : exec (.deadlineCheck id iters pivots checked host) s = .next s' := by
    show execDeadlineCheck id iters pivots checked host s = _
    rw [execDeadlineCheck, hfind]
    dsimp only
    rw [hends]
    have hgo : (deadlineHit s p && (planeUp s || p.tag.isNone)) = true := by
      rw [hhit, Bool.true_and, Bool.or_eq_true, Option.isNone_iff_eq_none]
      exact hup
    exact whenDue_pos hgo ..
  exact ⟨_, hexec, rfl, (execDeadlineCheck_changes.next hexec).platformKept⟩

/-! ### A lane that fails (R351) -/

/-- A lane that holds no problem still holds none. -/
theorem laneBusy_change {s t : State} {k l : Nat} (h : laneBusy s k l = false)
    (hmem : ∀ p ∈ t.problems, p ∈ s.problems ∨ p.lane = none) : laneBusy t k l = false := by
  refine List.any_eq_false.2 fun p hp => ?_
  obtain hp | hp := hmem p hp
  · exact List.any_eq_false.1 h p hp
  · rw [hp]
    exact nofun

theorem restartOn_problems (s : State) (on : Nat × Nat → Bool) :
    (restartOn s on).problems = s.problems.map fun p =>
      if (p.lane.map on).getD false then { p with lane := none, restart := true, wait := none } else p := by
  unfold restartOn
  dsimp only
  congr 1
  refine List.foldlRecOn (motive := fun t : State => t.problems = s.problems) _ _ rfl fun t ht p _ => ?_
  split
  · exact ht
  · exact ht

/-- A problem after a restart is as it was, or waits for a lane. -/
theorem mem_restartOn {s : State} {on : Nat × Nat → Bool} {p : Problem} (h : p ∈ (restartOn s on).problems) :
    (p ∈ s.problems ∧ (p.lane.map on).getD false = false) ∨ p.lane = none := by
  rw [restartOn_problems] at h
  obtain ⟨q, hq, rfl⟩ := List.mem_map.1 h
  by_cases hon : (q.lane.map on).getD false = true
  · rw [if_pos hon]
    exact .inr rfl
  · rw [if_neg hon]
    exact .inl ⟨hq, Bool.not_eq_true _ ▸ hon⟩

theorem laneBusy_restartOn (s : State) (k l : Nat) : laneBusy (restartOn s (· == (k, l))) k l = false := by
  refine List.any_eq_false.2 fun p hp => ?_
  obtain ⟨-, hon⟩ | hp := mem_restartOn hp
  · intro hlane
    rw [beq_iff_eq.1 hlane] at hon
    simp at hon
  · rw [hp]
    exact nofun

theorem mem_failCluster {s : State} {k : Nat} {p : Problem} (h : p ∈ (failCluster s k).problems) :
    p ∈ s.problems ∨ p.lane = none := by
  rw [failCluster, govRefresh_changes.problems] at h
  obtain ⟨hp, -⟩ | hp := mem_restartOn h
  · refine .inl ?_
    unfold dropGovernor at hp
    dsimp only at hp
    split at hp
    · exact (List.mem_filter.1 hp).1
    · exact hp
  · exact .inr hp

theorem laneOff_restartOn (s : State) (on : Nat × Nat → Bool) : (restartOn s on).laneOff = s.laneOff := by
  unfold restartOn
  dsimp only
  refine List.foldlRecOn (motive := fun t : State => t.laneOff = s.laneOff) _ _ rfl fun t ht p _ => ?_
  split
  · exact ht
  · exact ht

theorem laneOff_failCluster (s : State) (k : Nat) : (failCluster s k).laneOff = s.laneOff := by
  obtain ⟨-, -, -, h⟩ : Part.Kept (restartOn (dropGovernor (setFld s .sbSlvfail 0 0 0 k 1 1) k) fun l => l.1 == k)
    (failCluster s k) .problems := govRefresh_changes .problems (by decide)
  rw [h, laneOff_restartOn, dropGovernor]
  dsimp only
  split
  · rfl
  · rfl

theorem laneError_leaves (s : State) (k l : Nat) :
    (laneError s k l).laneOff = spSet false (laneKey k l) true s.laneOff ∧ laneBusy (laneError s k l) k l = false := by
  unfold laneError
  dsimp only
  obtain ⟨u, hu⟩ : ∃ u, u = restartOn { s with laneOff := spSet false (laneKey k l) true s.laneOff } (· == (k, l)) := ⟨_, rfl⟩
  have hoff : u.laneOff = spSet false (laneKey k l) true s.laneOff := by rw [hu, laneOff_restartOn]
  have hfree : laneBusy u k l = false := hu ▸ laneBusy_restartOn _ k l
  rw [← hu]
  split
  · obtain ⟨hprob, -, -, hkeep⟩ : Part.Kept (failCluster u k) (post (failCluster u k) .unitFenced 3 k none 0 0) .problems :=
      post_changes .problems (by decide)
    refine ⟨hkeep.trans ((laneOff_failCluster u k).trans hoff), laneBusy_change hfree fun p hp => ?_⟩
    rw [hprob] at hp
    exact mem_failCluster hp
  · exact ⟨hoff, hfree⟩

theorem solverLaneStoreError_outcome {s : State} {cluster : Fin 4} {lane : Fin 32}
    (hbusy : laneBusy s cluster.val lane.val = true) : Completes (.solverLaneStoreError cluster lane) s fun t =>
      PlatformKept s t ∧ spGet false (laneKey cluster.val lane.val) t.laneOff = true
        ∧ laneBusy t cluster.val lane.val = false
        ∧ ∀ j, j ≠ laneKey cluster.val lane.val → spGet false j t.laneOff = spGet false j s.laneOff := by
  have hexec : exec (.solverLaneStoreError cluster lane) s = .next (laneError s cluster.val lane.val) :=
    whenDue_pos hbusy ..
  obtain ⟨hoff, hfree⟩ := laneError_leaves s cluster.val lane.val
  refine ⟨_, hexec, (execSolverLaneStoreError_changes.next hexec).platformKept, ?_, hfree, fun j hj => ?_⟩
  · rw [hoff, spGet_set]
  · rw [hoff, spGet_set_ne _ _ _ hj]

/-- Settles O30: reading reaches memory and the host but neither the problems nor the tags, so each event changes these as its
own step says. -/
theorem solverEventsComplete : Obligations.SolverEventsComplete := by
  unfold Obligations.SolverEventsComplete
  intro tag id iters pivots checked cluster lane host s
  exact ⟨fun c => solveFrontEnd_outcome,
    fun p hfind => ⟨fun l => problemAssign_outcome hfind, problemEnd_outcome hfind, fun s' => deadlineCheck_outcome hfind⟩,
    solverLaneStoreError_outcome⟩

end Sys2Proof.Machine

/-! PROOFS. The family of spec/06, streams: line requests that are issued, arrive and are accepted, and halted streams that go on. -/

namespace Sys2Proof.Machine

set_option Elab.async false

/-! ### Line requests are only taken away -/

/-- No line request is in flight that was not before. -/
structure ReqsLess (s t : State) : Prop where
  mem : ∀ q ∈ t.reqs, q ∈ s.reqs

theorem ReqsLess.of_eq {s t : State} (h : t.reqs = s.reqs) : ReqsLess s t := ⟨fun q hq => by rwa [h] at hq⟩

theorem ReqsLess.trans {s t u : State} (h : ReqsLess s t) (k : ReqsLess t u) : ReqsLess s u :=
  ⟨fun q hq => h.mem q (k.mem q hq)⟩

theorem ReqsLess.ite {s t u : State} {c : Prop} [Decidable c] (h : ReqsLess s t) (k : ReqsLess s u) :
    ReqsLess s (if c then t else u) := by
  split
  · exact h
  · exact k

theorem Changes.reqs {l : List Part} {s t : State} (h : Changes l s t) (hl : Part.reqs ∉ l := by decide) : t.reqs = s.reqs :=
  (h .reqs hl).1

theorem Changes.reqsLess {l : List Part} {s t : State} (h : Changes l s t) (hl : Part.reqs ∉ l := by decide) : ReqsLess s t :=
  .of_eq (h.reqs hl)

/-- A request that is not in flight does not come back. -/
theorem ReqsLess.gone {s t : State} (h : ReqsLess s t) {id : Nat} (hid : ∀ q ∈ s.reqs, q.id ≠ id) : ∀ q ∈ t.reqs, q.id ≠ id :=
  fun q hq => hid q (h.mem q hq)

theorem reqsLess_dropReqs (s : State) (p : LineReq → Bool) : ReqsLess s (dropReqs s p) := by
  refine ⟨fun q hq => ?_⟩
  rw [dropReqs, atsSweep_changes.reqs] at hq
  exact (List.mem_filter.1 hq).1

theorem dropReq_gone (s : State) (id : Nat) : ∀ q ∈ (dropReq s id).reqs, q.id ≠ id := by
  intro q hq
  rw [dropReq, atsSweep_changes.reqs] at hq
  exact bne_iff_ne.1 (List.mem_filter.1 hq).2

theorem reqsLess_retire (s : State) (t : Nat) : ReqsLess s (retire s t) := by
  unfold retire
  split
  · unfold retireWith
    dsimp only
    split
    · exact .of_eq rfl
    · next c _ =>
      have hdrop : ReqsLess s (dropFromSlot s t c) := by
        unfold dropFromSlot
        dsimp only
        refine ReqsLess.trans (.of_eq ?_) (reqsLess_dropReqs _ _)
        rfl
      exact hdrop.trans (.of_eq rfl)
  · exact .of_eq rfl

theorem reqsLess_retireStream (s : State) (t : Nat) : ReqsLess s (retireStream s t) := by
  unfold retireStream
  split
  · exact .of_eq rfl
  · exact (modCore_changes.reqsLess.trans modCmd_changes.reqsLess).trans (reqsLess_retire _ _)

theorem reqsLess_maintOver (s : State) (t : Nat) : ReqsLess s (maintOver s t) := by
  unfold maintOver
  split
  · exact .ite (reqsLess_retireStream s t) (.of_eq rfl)
  · exact .of_eq rfl

theorem reqsLess_writeTileDone (s : State) (t k : Nat) : ReqsLess s (writeTileDone s t k) := by
  unfold writeTileDone
  dsimp only
  split
  · split
    · have hfree (n : Nat) (i : SlotId) (f : Stream → Stream) : ReqsLess s (setStream (freeFetch s n i 1) t f) :=
        freeFetch_changes.reqsLess.trans setStream_changes.reqsLess
      exact .ite (.ite ((hfree ..).trans (reqsLess_retireStream _ t)) (hfree ..)) (.of_eq rfl)
    · exact .of_eq rfl
  · exact .of_eq rfl

/-! ### Issue of a read (R229, R235, R236) -/

/-- A translation asks of the core only its lookaside and how the slots share it. -/
theorem lineXl_congr {s t : State} {n : Nat} (hrest : ∃ cs ts, t = { s with cores := cs, tags := ts })
    (hlook : (getCore t n).look = (getCore s n).look) (hshare : (getCore t n).expressEn = (getCore s n).expressEn)
    (i : SlotId) (ctx va : Nat) (w : Bool) : lineXl t n i ctx va w = lineXl s n i ctx va w := by
  obtain ⟨cs, ts, rfl⟩ := hrest
  have hcore : coreShare (getCore { s with cores := cs, tags := ts } n) i = coreShare (getCore s n) i := by
    cases i
    · rw [coreShare, hshare]
      rfl
    · rw [coreShare, hshare]
      rfl
  rw [lineXl, lineXl, hlook, hcore]
  rfl

/-- The token of a tile is taken: cores and tags change, and neither the lookaside nor its shares do. -/
theorem beginTile_keeps (s : State) (t : Nat) (c : Cmd) (st : Stream) :
    (∃ cs ts, beginTile s t c st = { s with cores := cs, tags := ts })
      ∧ (getCore (beginTile s t c st) c.core).look = (getCore s c.core).look
      ∧ (getCore (beginTile s t c st) c.core).expressEn = (getCore s c.core).expressEn
      ∧ (tagCmd (beginTile s t c st) t).map (·.op) = (tagCmd s t).map (·.op) := by
  rw [beginTile]
  split
  · exact ⟨⟨_, _, rfl⟩, rfl, rfl, rfl⟩
  · obtain ⟨x, hcore⟩ : ∃ x, ∀ f, getCore (setStream (takeToken s c.core c.slot) t f) c.core
        = setCoreSlot (getCore s c.core) c.slot x := by
      obtain ⟨x, hx⟩ : ∃ x, getCore (takeToken s c.core c.slot) c.core = setCoreSlot (getCore s c.core) c.slot x :=
        ⟨_, getCore_modSlot ..⟩
      exact ⟨x, fun _ => hx⟩
    refine ⟨⟨_, _, rfl⟩, ?_, ?_, ?_⟩
    · rw [hcore]
      cases c.slot
      · rfl
      · rfl
    · rw [hcore]
      cases c.slot
      · rfl
      · rfl
    · rw [setStream, tagCmd_modCmd, tagCmd_congr (takeToken_changes .tags (by decide)), Option.map_map]
      rfl

theorem writeTileDone_read {s : State} {t : Nat} (h : ∀ c, tagCmd s t = some c → isWrite c = false) (k : Nat) :
    writeTileDone s t k = s := by
  rw [writeTileDone]
  cases hcmd : tagCmd s t with
  | none => rfl
  | some c =>
    dsimp only
    cases c.stream with
    | none => rfl
    | some st =>
      dsimp only
      rw [if_neg (by simp [h c hcmd])]

/-- After the line of a read nothing is requested. -/
theorem afterLine_read {s : State} {t : Nat} {op : EngOp} (hop : (tagCmd s t).map (·.op) = some op) (hread : op ≠ .block .sstore)
    (st : Stream) : Changes [.tags, .cores] s (afterLine s t st) := by
  have hop' : (tagCmd (releaseFq (setStream s t stepLine) t) t).map (·.op) = some op := by
    rw [tagCmd_congr (releaseFq_changes .tags (by decide)), setStream, tagCmd_modCmd, Option.map_map, ← hop]
    rfl
  rw [afterLine, writeTileDone_read]
  · exact .comp (.of setStream_changes) releaseFq_changes
  · intro c hc
    rw [hc] at hop'
    rw [isWrite, show c.op = op from Option.some.inj hop']
    exact beq_eq_false_iff_ne.2 hread

theorem issueLine_read {s : State} {t l pa wp : Nat} {c : Cmd} {st : Stream} (hcmd : tagCmd s t = some c)
    (hread : c.op ≠ .block .sstore) (hfree : blocker s c (needLines c st l) = none)
    (hxl : lineXl s c.core c.slot c.ctx (128 * l) false = .dev pa wp) :
    ∃ u, Changes [.tags, .cores] (pushReq u (newReq s t c st.tile (128 * l) .read (.dev pa) wp)) (issueLine s t c st l)
      ∧ u.reqs = s.reqs ∧ u.nextReq = s.nextReq := by
  have hnot : isWrite c = false := beq_eq_false_iff_ne.2 hread
  have hissue : issueLine s t c st l = afterLine (pushLine (beginTile s t c st) t c st l) t st := by
    rw [issueLine, hfree, writeEnds, hnot]
    rfl
  obtain ⟨hrest, hlook, hshare, hop⟩ := beginTile_keeps s t c st
  have hpush : pushLine (beginTile s t c st) t c st l
      = pushReq (beginTile s t c st) (newReq s t c st.tile (128 * l) .read (.dev pa) wp) := by
    have hreq : (beginTile s t c st).nextReq = s.nextReq := (beginTile_changes .reqs (by decide)).2
    rw [pushLine, hnot, lineXl_congr hrest hlook hshare, hxl]
    unfold newReq
    rw [← hreq]
    rfl
  refine ⟨beginTile s t c st, ?_, beginTile_changes.reqs, (beginTile_changes .reqs (by decide)).2⟩
  rw [hissue, hpush]
  refine afterLine_read (op := c.op) ?_ hread st
  rw [tagCmd_congr (pushReq_changes .tags (by decide)), hop, hcmd]
  rfl

theorem lineRequestIssue_outcome {s : State} {tag : Fin 4096} {remote : Bool} (hdue : requestDue s tag.val remote = true) :
    Completes (.lineRequestIssue tag remote) s fun t => t.hbm = s.hbm ∧ PlatformKept s t
      ∧ ∀ c, tagCmd s tag.val = some c → ∀ st, c.stream = some st → c.ready = true → remote = false →
          (c.op = .block .sload ∨ c.op = .block .gpool) → ∀ l, nextLine st = some l →
          blocker s c (needLines c st l) = none → ∀ pa wp, lineXl s c.core c.slot c.ctx (128 * l) false = .dev pa wp →
          ∃ r, t.reqs = s.reqs ++ [r] ∧ r.id = s.nextReq ∧ t.nextReq = s.nextReq + 1 ∧ r.tag = tag.val ∧ r.va = 128 * l
            ∧ r.kind = .read ∧ r.stage = .issued ∧ r.target = .dev pa := by
  have hexec : exec (.lineRequestIssue tag remote) s = .next (lineRequestIssue s tag.val remote) := whenDue_pos hdue ..
  have hchanges := execLineRequestIssue_changes.next hexec
  refine ⟨_, hexec, hchanges .hbm (by decide), hchanges.platformKept,
    fun c hcmd st hstream hready hremote hop l hnext hfree pa wp hxl => ?_⟩
  subst hremote
  have hwait : windowWaits c = false := by
    obtain h | h := hop
    · simp [windowWaits, h]
    · simp [windowWaits, h]
  have hstep : lineRequestIssue s tag.val false = issueLine s tag.val c st l := by
    rw [lineRequestIssue, hcmd]
    dsimp only
    rw [issueRequest, hwait, hready, if_neg Bool.false_ne_true, if_pos rfl, issueStep, hcmd]
    dsimp only
    rw [if_neg Bool.false_ne_true, hstream]
    obtain h | h := hop
    · rw [h]
      dsimp only
      rw [hnext]
    · rw [h]
      dsimp only
      rw [hnext]
  have hread : c.op ≠ .block .sstore := by
    obtain h | h := hop
    · rw [h]
      decide
    · rw [h]
      decide
  obtain ⟨u, hu, hreqs, hnextReq⟩ := issueLine_read hcmd hread hfree hxl
  obtain ⟨hreqs', hnextReq'⟩ : Part.Kept (pushReq u (newReq s tag.val c st.tile (128 * l) .read (.dev pa) wp))
    (issueLine s tag.val c st l) .reqs := hu .reqs (by decide)
  rw [hstep]
  refine ⟨newReq s tag.val c st.tile (128 * l) .read (.dev pa) wp, ?_, rfl, ?_, rfl, rfl, rfl, rfl, rfl⟩
  · exact hreqs'.trans (congrArg (· ++ [_]) hreqs)
  · exact hnextReq'.trans (congrArg (· + 1) hnextReq)

/-! ### Arrival and acceptance (R232) -/

theorem arriveLine_gone (s : State) (r : LineReq) (bs : List Byte) (ps : List Bool) :
    ∀ q ∈ (arriveLine s r bs ps).reqs, q.id ≠ r.id := by
  refine ReqsLess.gone (s := dropReq s r.id) ?_ (dropReq_gone s r.id)
  unfold arriveLine
  dsimp only
  split
  · exact .of_eq rfl
  · split
    · exact modCmd_changes.reqsLess.trans (reqsLess_maintOver _ _)
    · exact (modCore_changes.reqsLess.trans modCmd_changes.reqsLess).trans tileArrived_changes.reqsLess
    · exact .of_eq rfl

theorem lineArrival_outcome {s : State} {id : Nat} {host : HostReply} {r : LineReq} (hfind : findReq s id = some r)
    (hdue : arrivalDue r = true) : Completes (.lineArrival id host) s fun t => t.hbm = s.hbm ∧ PlatformKept s t
      ∧ ((r.stage = .ready ∨ ∃ bs bad, host = .data bs bad) → ∀ q ∈ t.reqs, q.id ≠ id) := by
  have hexec : exec (.lineArrival id host) s = .next (lineArrival s r host) := by
    show execLineArrival id host s = _
    rw [execLineArrival, hfind]
    exact whenDue_pos hdue ..
  have hchanges := execLineArrival_changes.next hexec
  refine ⟨_, hexec, hchanges .hbm (by decide), hchanges.platformKept, fun hdata => ?_⟩
  have hid := findReq_id hfind
  subst hid
  by_cases hready : r.stage = .ready
  · rw [show lineArrival s r host = arriveLine s r (r.data.map fun b => b.getD 0#8) r.poison by rw [lineArrival, hready]]
    exact arriveLine_gone _ r _ _
  · obtain ⟨bs, bad, rfl⟩ := hdata.resolve_left hready
    obtain ⟨fn, iova, g, htarget⟩ : ∃ fn iova g, r.target = .host fn iova g := by
      unfold arrivalDue at hdue
      generalize r.target = x at hdue
      generalize r.stage = y at hdue hready
      cases x with
      | host fn iova g => exact ⟨_, _, _, rfl⟩
      | dev pa => cases y <;> simp_all
    obtain ⟨u, xs, ps, h⟩ : ∃ u xs ps, lineArrival s r (.data bs bad) = arriveLine u r xs ps := by
      unfold lineArrival
      rw [htarget]
      split
      · exact ⟨_, _, _, rfl⟩
      · exact ⟨_, _, _, rfl⟩
      · next h _ => exact (h _ _ _ rfl).elim
    rw [h]
    exact arriveLine_gone _ r _ _

theorem lineWriteAccepted_outcome {s : State} {id : Nat} {r : LineReq} (hfind : findReq s id = some r)
    (hdue : acceptDue s r = true) : Completes (.lineWriteAccepted id) s fun t => t.hbm = s.hbm ∧ PlatformKept s t
      ∧ ∀ q ∈ t.reqs, q.id ≠ id := by
  have hexec : exec (.lineWriteAccepted id) s = .next (acceptLine s r) := by
    show execLineWriteAccepted id s = _
    rw [execLineWriteAccepted, hfind]
    exact whenDue_pos hdue ..
  have hchanges := execLineWriteAccepted_changes.next hexec
  refine ⟨_, hexec, hchanges .hbm (by decide), hchanges.platformKept, ?_⟩
  have hid := findReq_id hfind
  subst hid
  refine ReqsLess.gone (s := dropReq (postLine s r) r.id) ?_ (dropReq_gone _ r.id)
  unfold acceptLine
  dsimp only
  split
  · exact (modCmd_changes.reqsLess.trans modCmd_changes.reqsLess).trans (reqsLess_maintOver _ _)
  · exact modCmd_changes.reqsLess.trans (reqsLess_writeTileDone _ _ _)

/-! ### Resuming (R266, R268) -/

theorem streamResume_outcome {s : State} {tag : Fin 4096} (hdue : streamResumeDue s tag.val = true) :
    Completes (.streamResume tag) s fun t => t.hbm = s.hbm ∧ PlatformKept s t
      ∧ ∀ c, tagCmd s tag.val = some c → ∀ st, c.stream = some st → haltedLayer s tag.val = none →
          (tagCmd t tag.val).bind (·.stream) = some { st with halted := none } := by
  have hexec : exec (.streamResume tag) s = .next (streamResume s tag.val) := whenDue_pos hdue ..
  have hchanges := execStreamResume_changes.next hexec
  refine ⟨_, hexec, hchanges .hbm (by decide), hchanges.platformKept, fun c hcmd st hstream hlayer => ?_⟩
  have hresume (u : State) (hu : u.tags = s.tags) :
      (tagCmd (setStream u tag.val fun x => { x with halted := none }) tag.val).bind (·.stream)
        = some { st with halted := none } := by
    rw [setStream, tagCmd_modCmd, tagCmd_congr hu, hcmd, Option.map_some, Option.bind_some, hstream]
    rfl
  rw [streamResume, hlayer]
  dsimp only
  rw [resumeStream, hcmd]
  dsimp only
  rw [hstream]
  dsimp only
  split
  · exact hresume s rfl
  · exact hresume _ (modCore_changes .tags (by decide))

/-- Settles O25: an issue adds one request, and whatever ends or retires takes requests away. -/
theorem streamEventsComplete : Obligations.StreamEventsComplete := by
  unfold Obligations.StreamEventsComplete
  intro tag remote id host s
  exact ⟨lineRequestIssue_outcome, fun r => lineArrival_outcome, fun r => lineWriteAccepted_outcome, streamResume_outcome⟩

end Sys2Proof.Machine

/-! PROOFS. The family of spec/08, matrix layers: the layer that is found before an event of the injector, of a Matrix Unit or of
the Output Compressor is found after it, with that event's change. -/

namespace Sys2Proof.Machine

set_option Elab.async false

/-! ### The layer that an event changes -/

/-- The layer `x` is the one that `l` names. -/
structure Named (l x : Layer) : Prop where
  seq : x.seq = l.seq
  ctx : x.ctx = l.ctx
  id : x.id = l.id

theorem Named.refl (l : Layer) : Named l l := ⟨rfl, rfl, rfl⟩

theorem modLayer_named {l x : Layer} (h : Named l x) (s : State) (f : Layer → Layer) : modLayer s l f = modLayer s x f := by
  rw [modLayer, modLayer, h.seq, h.ctx, h.id]

theorem findLayer_isLayer {s : State} {ctx id : Nat} {l : Layer} (h : findLayer s ctx id = some l) : isLayer ctx id l = true :=
  List.find?_some h

theorem findLayer_ids {s : State} {ctx id : Nat} {l : Layer} (h : findLayer s ctx id = some l) : l.ctx = ctx ∧ l.id = id := by
  have hlayer := findLayer_isLayer h
  simp only [isLayer, Bool.and_eq_true, beq_iff_eq] at hlayer
  exact hlayer.1

theorem findLayer_congr {s t : State} (h : t.layers = s.layers) (ctx id : Nat) : findLayer t ctx id = findLayer s ctx id := by
  rw [findLayer, h]
  rfl

/-- The layer found is also the first of its number. -/
theorem findSeq_found {s : State} {ctx id : Nat} {l x : Layer} (hx : findLayer s ctx id = some x) (hname : Named l x) :
    (s.layers.find? fun y => y.seq = l.seq && isLayer l.ctx l.id y) = some x := by
  obtain ⟨hctx, hid⟩ := findLayer_ids hx
  rw [← hname.seq, ← hname.ctx, ← hname.id, hctx, hid]
  obtain ⟨hlayer, as, bs, hsplit, hbefore⟩ := List.find?_eq_some_iff_append.1 hx
  refine List.find?_eq_some_iff_append.2 ⟨by simp [hlayer], as, bs, hsplit, fun a ha => ?_⟩
  have hnot : isLayer ctx id a = false := by simpa using hbefore a ha
  simp [hnot]

theorem findLayer_change {s : State} {ctx id : Nat} {l x : Layer} {f : Layer → Layer} (hx : findLayer s ctx id = some x)
    (hname : Named l x) (hf : ∀ y, isLayer ctx id (f y) = isLayer ctx id y) :
    findLayer (modLayer s l f) ctx id = some (f x) := by
  rw [modLayer_named hname]
  exact findLayer_modLayer hx hf

/-- After a layer is dropped, none of its number is found. -/
theorem findLayer_dropLayer {s : State} {ctx id : Nat} {l y : Layer} (hctx : l.ctx = ctx) (hid : l.id = id)
    (hy : findLayer (dropLayer s l) ctx id = some y) : y.seq ≠ l.seq := by
  intro hseq
  have hlayer := findLayer_isLayer hy
  have hmem := (List.mem_filter.1 (List.mem_of_find?_eq_some hy)).2
  rw [hctx, hid, hlayer, hseq] at hmem
  simp at hmem

/-- A layer leaves once it is over. -/
theorem settleLayer_found {s : State} {ctx id : Nat} {l x : Layer} (hx : findLayer s ctx id = some x) (hname : Named l x) :
    settleLayer s l = if layerOver x then dropLayer s x else s := by
  rw [settleLayer, findSeq_found hx hname]

/-! ### Stations -/

theorem getStation_putStation (l : Layer) (n : Nat) (x : StationSt) : getStation (putStation l n x) n = x := spGet_set ..

theorem getStation_putStation_ne (l : Layer) {n k : Nat} (x : StationSt) (h : k ≠ n) :
    getStation (putStation l n x) k = getStation l k := spGet_set_ne _ _ _ h

/-- The books of a station: its panels and its m-blocks. -/
structure SameBooks (x y : StationSt) : Prop where
  landed : y.landed = x.landed
  consumed : y.consumed = x.consumed
  written : y.written = x.written

theorem SameBooks.refl (x : StationSt) : SameBooks x x := ⟨rfl, rfl, rfl⟩

theorem SameBooks.trans {x y z : StationSt} (h : SameBooks x y) (k : SameBooks y z) : SameBooks x z :=
  ⟨k.landed.trans h.landed, k.consumed.trans h.consumed, k.written.trans h.written⟩

theorem SameBooks.foldl {α : Type} {f : StationSt → α → StationSt} (hf : ∀ st e, SameBooks st (f st e)) (es : List α)
    (st : StationSt) : SameBooks st (es.foldl f st) :=
  List.foldlRecOn es f (.refl st) fun _ hx e _ => hx.trans (hf _ e)

/-- A layer with other stations, whose books are the same. -/
structure SameFlow (x y : Layer) : Prop where
  rest : y = { x with stations := y.stations }
  station : ∀ n, SameBooks (getStation x n) (getStation y n)

theorem SameFlow.refl (x : Layer) : SameFlow x x := ⟨rfl, fun _ => .refl _⟩

theorem SameFlow.trans {x y z : Layer} (h : SameFlow x y) (k : SameFlow y z) : SameFlow x z :=
  ⟨by rw [k.rest, h.rest], fun n => (h.station n).trans (k.station n)⟩

theorem SameFlow.named {l x y : Layer} (h : SameFlow x y) (hx : Named l x) : Named l y := by
  rw [h.rest]
  exact ⟨hx.seq, hx.ctx, hx.id⟩

theorem sameFlow_putStation {x : Layer} {n : Nat} {st : StationSt} (h : SameBooks (getStation x n) st) :
    SameFlow x (putStation x n st) := by
  refine ⟨rfl, fun k => ?_⟩
  by_cases hk : k = n
  · subst hk
    rw [getStation_putStation]
    exact h
  · rw [getStation_putStation_ne _ _ hk]
    exact .refl _

/-- Output that goes to local store leaves the books alone. -/
theorem flushOuts_found {s : State} {ctx id : Nat} {l x : Layer} (hx : findLayer s ctx id = some x) (hname : Named l x)
    (n : Nat) : ∃ y, findLayer (flushOuts s l n) ctx id = some y ∧ SameFlow x y := by
  rw [flushOuts, findSeq_found hx hname]
  dsimp only
  split
  · exact ⟨x, hx, .refl x⟩
  · obtain ⟨u, hu⟩ : ∃ u, u = ((getStation x n).outs.filter fun o : OcWrite => !o.late || (getStation x n).written == mBlocks x).foldl
        (fun s o => modCore s o.core fun k => lsPut k o.addr o.bytes o.poison) s := ⟨_, rfl⟩
    have hlayers : u.layers = s.layers := by
      rw [hu]
      exact List.foldlRecOn (motive := fun v : State => v.layers = s.layers) _ _ rfl fun v hv _ _ => hv
    rw [← hu]
    refine ⟨_, findLayer_change ((findLayer_congr hlayers ctx id).trans hx) hname fun _ => rfl, ?_⟩
    exact sameFlow_putStation ⟨rfl, rfl, rfl⟩

theorem flushAll_found {ctx id : Nat} {l : Layer} (ns : List Nat) {s : State} {x : Layer} (hx : findLayer s ctx id = some x)
    (hname : Named l x) :
    ∃ y, findLayer (ns.foldl (fun s n => flushOuts s l n) s) ctx id = some y ∧ SameFlow x y := by
  induction ns generalizing s x with
  | nil => exact ⟨x, hx, .refl x⟩
  | cons n ns ih =>
    obtain ⟨y, hy, hflow⟩ := flushOuts_found hx hname n
    obtain ⟨z, hz, hflow'⟩ := ih hy (hflow.named hname)
    exact ⟨z, hz, hflow.trans hflow'⟩

/-! ### The injector (R244 to R248) -/

theorem injectorFirstRead_outcome {s : State} {ctx : Fin 64} {layer : BitVec 16} {l : Layer}
    (hl : findLayer s ctx.val layer.toNat = some l) (hdue : firstReadDue s l = true) :
    Completes (.injectorFirstRead ctx layer) s fun t => t.hbm = s.hbm ∧ PlatformKept s t
      ∧ ∀ c, (l.arrivals.head?).bind (tagCmd s) = some c → (l.sp = true ∨ rowOk l.fmtIn l.k = true) →
        ∀ st, listStream (getCore s c.core) c.slot c.blk.w1 l.fmtIn (weightBytes l.fmtIn l.sp l.k) l.m = .inr st →
        findLayer t ctx.val layer.toNat = some { l with started := true, rows := st.rows } := by
  have hexec : exec (.injectorFirstRead ctx layer) s = .next (startLayer s l) := by
    show execInjectorFirstRead ctx layer s = _
    rw [execInjectorFirstRead, hl]
    exact whenDue_pos hdue ..
  have hchanges := execInjectorFirstRead_changes.next hexec
  refine ⟨_, hexec, hchanges .hbm (by decide), hchanges.platformKept, fun c hc hrow st hlist => ?_⟩
  have hok : ¬(!l.sp && !rowOk l.fmtIn l.k) = true := by
    obtain h | h := hrow
    · simp [h]
    · simp [h]
  rw [startLayer, hc]
  dsimp only
  rw [if_neg hok, hlist]
  exact findLayer_modLayer hl fun _ => rfl

/-- The lines of a panel that can all be read: no layer was changed. -/
theorem injScan_layers {l : Layer} {xs : List (Nat × Nat)} {s u : State} {ys : List (Nat × Nat × InjTo)}
    (h : injScan l xs s = (.inl ys, u)) : u.layers = s.layers := by
  have hline (s : State) (va : Nat) (hgo : injGoes (injTo s l va).1 = true) : (injTo s l va).2.layers = s.layers := by
    unfold injTo at hgo ⊢
    obtain ⟨w, v, hxl⟩ : ∃ w v, unitXlate s (.injector l.ctx l.id) (4 + injectorOf l) l.ctx va .read l.express = (w, v) :=
      ⟨_, _, rfl⟩
    have hv : v.layers = s.layers := unitXlate_changes.ofEq_2 hxl .layers (by decide)
    rw [hxl] at hgo ⊢
    cases w with
    | host iova g =>
      dsimp only at hgo ⊢
      split at hgo
      · exact hv
      · cases hgo
      · exact Eq.trans (injPage_changes .layers (by decide)) hv
      · cases hgo
    | absent seg k =>
      dsimp only at hgo ⊢
      split at hgo
      · cases hgo
      · split at hgo
        · cases hgo
        · next hroom hfm =>
          rw [if_neg hroom, if_neg hfm]
          exact hv
    | dev pa wp => exact hv
    | miss => exact hv
    | fault => exact hv
    | dtcMiss seg k => exact hv
  induction xs generalizing s u ys with
  | nil =>
    rw [injScan] at h
    rw [← (Prod.mk.inj h).2]
  | cons e xs ih =>
    obtain ⟨r, x⟩ := e
    obtain ⟨w, v, hto⟩ : ∃ w v, injTo s l (128 * x) = (w, v) := ⟨_, _, rfl⟩
    rw [injScan, hto] at h
    dsimp only at h
    split at h
    · next hgo =>
      have hv : v.layers = s.layers := by
        have hlayers := hline s (128 * x)
        rw [hto] at hlayers
        exact hlayers hgo
      split at h
      · next hrest =>
        rw [← (Prod.mk.inj h).2]
        exact (ih hrest).trans hv
      · next hno => exact (hno _ _ h).elim
    · exact absurd (Prod.mk.inj h).1 Sum.inr_ne_inl

/-- A panel lands at each of some stations. -/
def landOn (p : Panel) (ns : List Nat) (x : Layer) : Layer :=
  ns.foldl (fun y n => let st := getStation y n; putStation y n { st with landed := st.landed ++ [p] }) x

theorem landAll_eq (s : State) (l : Layer) (p : Panel) :
    landAll s l p = modLayer s l fun x => landOn p (maskStations l.mask) { x with sent := x.sent + 1 } := rfl

theorem landOn_rest (p : Panel) (ns : List Nat) (x : Layer) : landOn p ns x = { x with stations := (landOn p ns x).stations } :=
  List.foldlRecOn (motive := fun y : Layer => y = { x with stations := y.stations }) ns _ rfl fun y hy n _ => by
    rw [hy]
    rfl

theorem landOn_landed (p : Panel) {ns : List Nat} (hns : ns.Nodup) (x : Layer) (n : Nat) :
    (getStation (landOn p ns x) n).landed = if n ∈ ns then (getStation x n).landed ++ [p] else (getStation x n).landed := by
  induction ns generalizing x with
  | nil => exact (if_neg List.not_mem_nil).symm
  | cons k ns ih =>
    obtain ⟨hnot, hns⟩ := List.nodup_cons.1 hns
    rw [landOn, List.foldl_cons, ← landOn, ih hns]
    by_cases hn : n = k
    · subst hn
      rw [if_neg hnot, if_pos List.mem_cons_self, getStation_putStation]
    · rw [getStation_putStation_ne _ _ hn]
      simp only [List.mem_cons, hn, false_or]

theorem landPanel_found {s : State} {ctx id : Nat} {l : Layer} (hl : findLayer s ctx id = some l) (p : Panel) :
    ∃ y, findLayer (landPanel s l p) ctx id = some y ∧ y.sent = l.sent + 1
      ∧ ∀ n ∈ maskStations l.mask, (getStation y n).landed = (getStation l n).landed ++ [p] := by
  obtain ⟨x, hx⟩ : ∃ x, x = landOn p (maskStations l.mask) { l with sent := l.sent + 1 } := ⟨_, rfl⟩
  have hrest : x = { l with sent := l.sent + 1, stations := x.stations } := by
    rw [hx, landOn_rest]
  have hfound : findLayer (holdBuffers (landAll s l p) l) ctx id = some x := by
    rw [findLayer_congr (holdBuffers_changes .layers (by decide)), landAll_eq, hx]
    refine findLayer_modLayer hl fun y => ?_
    rw [landOn_rest]
    rfl
  have hname : Named l x := by
    rw [hrest]
    exact ⟨rfl, rfl, rfl⟩
  obtain ⟨y, hy, hflow⟩ := flushAll_found (maskStations l.mask) hfound hname
  refine ⟨y, hy, ?_, fun n hn => ?_⟩
  · rw [hflow.rest, hrest]
  · have hnodup : (maskStations l.mask).Nodup := List.nodup_range.filter _
    rw [(hflow.station n).landed, hx, landOn_landed p hnodup, if_pos hn]
    rfl

theorem panelInject_outcome {s : State} {ctx : Fin 64} {layer : BitVec 16} {host : List HostReply} {l : Layer}
    (hl : findLayer s ctx.val layer.toNat = some l) (hdue : injectDue s l = true) :
    Completes (.panelInject ctx layer host) s fun t => PlatformKept s t
      ∧ ∀ xs u, injScan l (panelLines l l.sent) s = (.inl xs, u) → hostLines xs ≤ host.length →
        ∀ ls v, injFetch l xs host u = (.inl ls, v) → (findLayer t ctx.val layer.toNat).map (·.sent) = some (l.sent + 1)
          ∧ ∀ n ∈ maskStations l.mask, (findLayer t ctx.val layer.toNat).map (fun x => (getStation x n).landed)
              = some ((getStation l n).landed ++ [panelOf l l.sent ls]) := by
  have hexec : exec (.panelInject ctx layer host) s = .next (injectPanel s l host) := by
    show execPanelInject ctx layer host s = _
    rw [execPanelInject, hl]
    exact whenDue_pos hdue ..
  refine ⟨_, hexec, (execPanelInject_changes.next hexec).platformKept, fun xs u hscan hhost ls v hfetch => ?_⟩
  have hlayers : v.layers = s.layers := Eq.trans (injFetch_changes.ofEq_2 hfetch .layers (by decide)) (injScan_layers hscan)
  have hinject : injectPanel s l host = landPanel v l (panelOf l l.sent ls) := by
    rw [injectPanel, hscan]
    dsimp only
    rw [if_neg (Nat.not_lt.2 hhost), hfetch]
  obtain ⟨y, hy, hsent, hlanded⟩ := landPanel_found ((findLayer_congr hlayers _ _).trans hl) (panelOf l l.sent ls)
  rw [hinject, hy]
  exact ⟨congrArg some hsent, fun n hn => congrArg some (hlanded n hn)⟩

/-! ### The Matrix Units (R246, R325) -/

/-- The array changes its sums; the panels are as they were. -/
theorem panelStep_books (s : State) (l : Layer) (p : Panel) (ps : List ((Nat × Cmd) × Nat)) (st : StationSt) :
    SameBooks st (panelStep s l p ps st) := by
  have hlane (pi r : Nat) (act : Fmt) (xs : List Num) (bad : Bool) (st : StationSt) (c : Nat) :
      SameBooks st (laneStep l p pi r act xs bad st c) := ⟨rfl, rfl, rfl⟩
  exact SameBooks.foldl (fun st e => SameBooks.foldl (fun st r => SameBooks.foldl (hlane _ _ _ _ _) _ st) _ st) ps st

theorem panelConsumed_outcome {s : State} {ctx : Fin 64} {layer : BitVec 16} {station : Fin 20} {l : Layer} {m : Nat}
    (hl : findLayer s ctx.val layer.toNat = some l) (hm : muServer s station.val = some m)
    (hdue : consumeDue s l station.val = true) : Completes (.panelConsumed ctx layer station) s fun t =>
      regVal t .muPanels m 0 0
          = (if (muOrder s m l).getLast? = some station.val then regVal s .muPanels m 0 0 + 1#64 else regVal s .muPanels m 0 0)
        ∧ (∀ y, findLayer t ctx.val layer.toNat = some y → y.seq = l.seq →
            (getStation y station.val).consumed = (getStation l station.val).consumed + 1
              ∧ (getStation y station.val).landed = (getStation l station.val).landed.drop 1)
        ∧ t.hbm = s.hbm ∧ t.cores = s.cores ∧ t.tags = s.tags ∧ PlatformKept s t := by
  obtain ⟨n, hn⟩ : ∃ n, n = station.val := ⟨_, rfl⟩
  rw [← hn] at hm hdue ⊢
  have hexec : exec (.panelConsumed ctx layer station) s = .next (settleLayer (consumePanel s l n m) l) := by
    show execPanelConsumed ctx layer station s = _
    rw [execPanelConsumed, hl, ← hn, hm]
    exact whenDue_pos hdue ..
  have hchanges := execPanelConsumed_changes.next hexec
  obtain ⟨p, ps, hland⟩ : ∃ p ps, (getStation l n).landed = p :: ps := by
    cases h : (getStation l n).landed with
    | nil => simp [consumeDue, hm, h] at hdue
    | cons p ps => exact ⟨p, ps, rfl⟩
  obtain ⟨st, u, hpanel, hst, hlayers, hregs, horder⟩ : ∃ (st : StationSt) (u : State),
      (consumePanel s l n m = if (muOrder u m l).getLast? == some n then bump u .muPanels m 0 0 1 else u)
        ∧ SameBooks { getStation l n with landed := ps, consumed := (getStation l n).consumed + 1 } st
        ∧ u.layers = (modLayer s l fun x => putStation x n st).layers ∧ u.regs = s.regs ∧ muOrder u m l = muOrder s m l := by
    rw [consumePanel, hland]
    exact ⟨_, _, rfl, panelStep_books .., rfl, rfl, rfl⟩
  have hfound : findLayer (consumePanel s l n m) ctx.val layer.toNat = some (putStation l n st) := by
    have hsame : (consumePanel s l n m).layers = (modLayer s l fun x => putStation x n st).layers := by
      rw [hpanel]
      split
      · exact hlayers
      · exact hlayers
    rw [findLayer_congr hsame]
    exact findLayer_modLayer hl fun _ => rfl
  refine ⟨_, hexec, ?_, fun y hy hseq => ?_, hchanges .hbm (by decide), hchanges .cores (by decide), hchanges .tags (by decide),
    hchanges.platformKept⟩
  · rw [regVal_congr (settleLayer_changes .regs (by decide)), hpanel, horder]
    by_cases hlast : (muOrder s m l).getLast? = some n
    · rw [if_pos (beq_iff_eq.2 hlast), if_pos hlast, regVal_bump, regVal_congr hregs]
    · rw [if_neg fun h => hlast (beq_iff_eq.1 h), if_neg hlast, regVal_congr hregs]
  · obtain ⟨hctx, hid⟩ := findLayer_ids hl
    rw [settleLayer_found (l := l) hfound ⟨rfl, rfl, rfl⟩] at hy
    split at hy
    · exact absurd hseq (findLayer_dropLayer (l := putStation l n st) hctx hid hy)
    · rw [hfound] at hy
      rw [← Option.some.inj hy, getStation_putStation, hst.consumed, hst.landed, hland]
      exact ⟨rfl, rfl⟩

/-! ### The Output Compressor (R335, R343) -/

/-- The rows that the Output Compressor makes: counters and sums change, the books do not. -/
theorem ocRows_books {l : Layer} {m j : Nat} (ps : List ((Nat × Cmd) × Nat)) (o : OcSt) :
    SameBooks o.st (ps.foldl (fun o e => (List.range e.1.2.ta.rows).foldl (ocRow l m j e.2 e.1.2) o) o).st
      ∧ Changes [.regs] o.state (ps.foldl (fun o e => (List.range e.1.2.ta.rows).foldl (ocRow l m j e.2 e.1.2) o) o).state := by
  have hrows (p : Nat) (c : Cmd) (rs : List Nat) (o : OcSt) :
      SameBooks o.st (rs.foldl (ocRow l m j p c) o).st ∧ Changes [.regs] o.state (rs.foldl (ocRow l m j p c) o).state :=
    List.foldlRecOn (motive := fun x : OcSt => SameBooks o.st x.st ∧ Changes [.regs] o.state x.state) rs _ ⟨.refl _, .refl⟩
      fun x hx r _ => ⟨hx.1.trans ⟨rfl, rfl, rfl⟩, hx.2.trans ocRow_changes⟩
  exact List.foldlRecOn (motive := fun x : OcSt => SameBooks o.st x.st ∧ Changes [.regs] o.state x.state) ps _ ⟨.refl _, .refl⟩
    fun x hx e _ => ⟨hx.1.trans (hrows ..).1, hx.2.trans (hrows ..).2⟩

theorem mem_insertArrival {x e : (Nat × Cmd) × Nat} {ys : List ((Nat × Cmd) × Nat)} (h : e = x ∨ e ∈ ys) :
    e ∈ insertArrival x ys := by
  induction ys with
  | nil => exact List.mem_singleton.2 (h.resolve_right List.not_mem_nil)
  | cons y ys ih =>
    rw [insertArrival]
    split
    · exact List.mem_cons.2 h
    · obtain rfl | h := h
      · exact List.mem_cons_of_mem _ (ih (.inl rfl))
      · obtain rfl | h := List.mem_cons.1 h
        · exact List.mem_cons_self
        · exact List.mem_cons_of_mem _ (ih (.inr h))

theorem mem_sortArrivals {e : (Nat × Cmd) × Nat} {ps : List ((Nat × Cmd) × Nat)} (h : e ∈ ps) :
    e ∈ ps.foldr insertArrival [] := by
  induction ps with
  | nil => exact absurd h List.not_mem_nil
  | cons p ps ih => exact mem_insertArrival ((List.mem_cons.1 h).imp id ih)

theorem tagEnds_retireStation (st : StationSt) (es : List ((Nat × Cmd) × Nat)) (s : State) :
    TagEnds s (retireStation s st es) := by
  induction es generalizing s with
  | nil => exact .refl
  | cons e es ih => exact (tagEnds_modCmd.trans tagEnds_retire).trans (ih _)

theorem retireStation_retires (st : StationSt) {es : List ((Nat × Cmd) × Nat)} {s : State} {e : (Nat × Cmd) × Nat} (he : e ∈ es)
    (hcmd : EndsOr s e.1.1) : (getTag (retireStation s st es) e.1.1).st = .retiring := by
  induction es generalizing s with
  | nil => exact absurd he List.not_mem_nil
  | cons x es ih =>
    rw [retireStation]
    obtain rfl | he := List.mem_cons.1 he
    · exact (tagEnds_retireStation st es _).retiring (hcmd.ends tagEnds_modCmd).retire
    · exact ih he (hcmd.ends (tagEnds_modCmd.trans tagEnds_retire))

/-- The participants of a station carry a command. -/
theorem participants_cmd {s : State} {l : Layer} {n : Nat} {e : Nat × Cmd} (h : e ∈ participants s l n) :
    tagCmd s e.1 = some e.2 := by
  obtain ⟨i, -, h⟩ := List.mem_flatMap.1 h
  obtain ⟨t, -, h⟩ := List.mem_filterMap.1 h
  split at h
  · next c hc =>
    split at h
    · rw [← Option.some.inj h]
      exact hc
    · cases h
  · cases h

/-- What the Output Compressor leaves of an m-block: the station counts it, and the participants of the last have retired. -/
theorem compressBlock_leaves {s : State} {ctx id n : Nat} {l : Layer} (hl : findLayer s ctx id = some l) :
    ((getStation l n).written + 1 ≠ mBlocks l → (compressBlock s l n).tags = s.tags
        ∧ ∃ y, findLayer (compressBlock s l n) ctx id = some y ∧ Named l y ∧ y.mask = l.mask ∧ mBlocks y = mBlocks l
          ∧ (getStation y n).written = (getStation l n).written + 1)
      ∧ ((getStation l n).written + 1 = mBlocks l →
          ∀ e ∈ participants s l n, (getTag (compressBlock s l n) e.1).st = .retiring) := by
  obtain ⟨hbooks, hstate⟩ := ocRows_books (l := l) (m := (muServer s n).getD n) (j := (getStation l n).written)
    (participants s l n).zipIdx ⟨getStation l n, s⟩
  obtain ⟨o, ho⟩ : ∃ o, o = (participants s l n).zipIdx.foldl (fun o e =>
    (List.range e.1.2.ta.rows).foldl (ocRow l ((muServer s n).getD n) (getStation l n).written e.2 e.1.2) o) ⟨getStation l n, s⟩ :=
    ⟨_, rfl⟩
  rw [← ho] at hbooks hstate
  obtain ⟨st, u, f, hst, hu, hblock⟩ : ∃ (st : StationSt) (u : State) (f : Layer → Layer), st.written = (getStation l n).written + 1
      ∧ u = flushOuts (modLayer o.state l fun x => putStation x n st) l n
      ∧ compressBlock s l n = if (getStation l n).written + 1 = mBlocks l then
          retireStation (modLayer u l f) st ((participants s l n).zipIdx.foldr insertArrival []) else u := by
    rw [compressBlock]
    dsimp only
    rw [← ho]
    exact ⟨_, _, _, rfl, rfl, rfl⟩
  have hname : Named l (putStation l n st) := ⟨rfl, rfl, rfl⟩
  obtain ⟨y, hy, hflow⟩ := flushOuts_found (findLayer_change (f := fun x => putStation x n st)
    ((findLayer_congr (hstate .layers (by decide)) ctx id).trans hl) (.refl l) fun _ => rfl) hname n
  rw [← hu] at hy
  have htags : u.tags = s.tags := by
    have hlast : u.tags = o.state.tags := by
      rw [hu]
      exact Eq.trans (flushOuts_changes .tags (by decide)) (modLayer_changes .tags (by decide))
    exact hlast.trans (hstate .tags (by decide))
  refine ⟨fun hmore => ?_, fun hlast e he => ?_⟩
  · rw [hblock, if_neg hmore]
    refine ⟨htags, y, hy, hflow.named hname, ?_, ?_, ?_⟩
    · rw [hflow.rest]
      rfl
    · rw [hflow.rest]
      rfl
    · rw [(hflow.station n).written, getStation_putStation, hst]
  · rw [hblock, if_pos hlast]
    obtain ⟨k, hk⟩ : ∃ k, (e, k) ∈ (participants s l n).zipIdx := by
      obtain ⟨k, hk, heq⟩ := List.getElem_of_mem he
      exact ⟨k, List.mem_zipIdx_iff_getElem?.2 (by rw [List.getElem?_eq_getElem hk, heq])⟩
    refine retireStation_retires st (mem_sortArrivals hk) (tagCmd_endsOr (c := e.2) ?_)
    exact (tagCmd_congr (s := s) (t := modLayer u l f) htags e.1).trans (participants_cmd he)

theorem outputCompressorWrite_outcome {s : State} {ctx : Fin 64} {layer : BitVec 16} {station : Fin 20} {l : Layer}
    (hl : findLayer s ctx.val layer.toNat = some l) (hdue : compressDue s l station.val = true) :
    Completes (.outputCompressorWrite ctx layer station) s fun t =>
      let j := (getStation l station.val).written
      t.hbm = s.hbm ∧ PlatformKept s t
        ∧ (j + 1 ≠ mBlocks l → (findLayer t ctx.val layer.toNat).map (fun y => (getStation y station.val).written) = some (j + 1)
            ∧ t.tags = s.tags)
        ∧ (j + 1 = mBlocks l → ∀ e ∈ participants s l station.val, (getTag t e.1).st = .retiring) := by
  have hexec : exec (.outputCompressorWrite ctx layer station) s
      = .next (settleLayer (compressBlock s l station.val) l) := by
    show execOutputCompressorWrite ctx layer station s = _
    rw [execOutputCompressorWrite, hl]
    exact whenDue_pos hdue ..
  have hchanges := execOutputCompressorWrite_changes.next hexec
  obtain ⟨hmore, hlast⟩ := compressBlock_leaves (n := station.val) hl
  refine ⟨_, hexec, hchanges .hbm (by decide), hchanges.platformKept, fun hj => ?_, fun hj e he => ?_⟩
  · obtain ⟨htags, y, hy, hname, hmask, hblocks, hwritten⟩ := hmore hj
    have hin : station.val ∈ maskStations y.mask := by
      refine List.mem_filter.2 ⟨List.mem_range.2 station.isLt, ?_⟩
      simp only [compressDue, Bool.and_eq_true] at hdue
      rw [hmask]
      exact hdue.1.1.2
    have hnot : ¬layerOver y = true := by
      intro hover
      have hall := List.all_eq_true.1 (Bool.and_eq_true_iff.1 hover).2 _ hin
      have hdone := beq_iff_eq.1 (Bool.and_eq_true_iff.1 hall).2
      rw [hwritten, hblocks] at hdone
      exact hj hdone
    rw [settleLayer_found hy hname, if_neg hnot, hy]
    exact ⟨congrArg some hwritten, htags⟩
  · rw [settleLayer_changes.getTag]
    exact hlast hj e he

/-! ### Layer ends (R258) -/

theorem mem_dropWait {w : Nat × SlotId} {hs : List MuHold} {h : MuHold} :
    h ∈ dropWait w hs ↔ ∃ x ∈ hs, h = { x with waits := x.waits.filter (· != w) } ∧ h.waits ≠ [] := by
  simp only [dropWait, List.mem_filter, List.mem_map, Bool.not_eq_true', List.isEmpty_eq_false_iff]
  constructor
  · rintro ⟨⟨x, hx, rfl⟩, hne⟩
    exact ⟨x, hx, rfl, hne⟩
  · rintro ⟨x, hx, rfl, hne⟩
    exact ⟨⟨x, hx, rfl⟩, hne⟩

theorem layerEndMarker_outcome {s : State} {a : At}
    (hdue : (spGet muReset (a.core.val / 8) s.mus).sent.contains (a.core.val, a.slot) = true) :
    Completes (.layerEndMarker a) s fun t =>
      let m := spGet muReset (a.core.val / 8) s.mus
      let m' := spGet muReset (a.core.val / 8) t.mus
      let w : Nat × SlotId := (a.core.val, a.slot)
      m'.sent = m.sent.erase w ∧ t = { s with mus := t.mus } ∧ (∀ h ∈ m'.holds, w ∉ h.waits ∧ h.waits ≠ [])
        ∧ ∀ h ∈ m.holds, ∀ o ∈ h.waits, o ≠ w → ∃ h' ∈ m'.holds, h'.seq = h.seq ∧ o ∈ h'.waits := by
  obtain ⟨m, hm⟩ : ∃ m, m = spGet muReset (a.core.val / 8) s.mus := ⟨_, rfl⟩
  obtain ⟨w, hw⟩ : ∃ w : Nat × SlotId, w = (a.core.val, a.slot) := ⟨_, rfl⟩
  have hexec : exec (.layerEndMarker a) s
      = .next { s with mus := spSet muReset (a.core.val / 8) (markerArrives m w) s.mus } := by
    rw [hm, hw]
    exact whenDue_pos hdue ..
  refine ⟨_, hexec, ?_⟩
  dsimp only
  rw [spGet_set, ← hm, ← hw]
  refine ⟨rfl, rfl, fun h hh => ?_, fun h hh o ho hne => ?_⟩
  · obtain ⟨x, -, rfl, hne⟩ := mem_dropWait.1 hh
    exact ⟨fun hmem => bne_iff_ne.1 (List.mem_filter.1 hmem).2 rfl, hne⟩
  · have hmem : o ∈ h.waits.filter (· != w) := List.mem_filter.2 ⟨ho, bne_iff_ne.2 hne⟩
    exact ⟨{ h with waits := h.waits.filter (· != w) }, mem_dropWait.2 ⟨h, hh, rfl, List.ne_nil_of_mem hmem⟩, rfl, hmem⟩

/-- Settles O27: each event changes the layer that is found, and the books of no station but its own. -/
theorem matrixEventsComplete : Obligations.MatrixEventsComplete := by
  unfold Obligations.MatrixEventsComplete
  intro ctx layer station host a s
  exact ⟨fun l hl => ⟨injectorFirstRead_outcome hl, panelInject_outcome hl, fun m => panelConsumed_outcome hl,
    outputCompressorWrite_outcome hl⟩, layerEndMarker_outcome⟩

end Sys2Proof.Machine
